-- ==== Sys2Proof/Word.lean ====
section
/-! DEFINITION. The word types of the ZV-640 and the sparse table every indexed piece of state is held in. -/
namespace Sys2Proof

/-- A 32-bit vector register's content (R57). -/
abbrev Word := BitVec 32
/-- A 64-bit operand, the pair of R58. -/
abbrev DWord := BitVec 64
/-- One byte of memory (R142: a location is one byte). -/
abbrev Byte := BitVec 8

/-- A table keyed by a number, held as a list with strictly rising keys. -/
abbrev NMap (α : Type) := List (Nat × α)

/-- The entry of a key, if listed. -/
def NMap.find? {α : Type} : NMap α → Nat → Option α
  | [], _ => none
  | (k, v) :: t, n => if k = n then some v else NMap.find? t n

/-- The entry of a key, or the value an unlisted key stands for. -/
def NMap.getD {α : Type} (m : NMap α) (n : Nat) (d : α) : α := (m.find? n).getD d

/-- List a value under a key, in its place. -/
def NMap.put {α : Type} : NMap α → Nat → α → NMap α
  | [], n, x => [(n, x)]
  | (k, v) :: t, n, x =>
    if n < k then (n, x) :: (k, v) :: t
    else if n = k then (n, x) :: t
    else (k, v) :: NMap.put t n x

/-- Take a key's entry out. -/
def NMap.del {α : Type} : NMap α → Nat → NMap α
  | [], _ => []
  | (k, v) :: t, n => if k = n then t else (k, v) :: NMap.del t n

/-- Change a listed entry; an unlisted key stays unlisted. -/
def NMap.adj {α : Type} (m : NMap α) (n : Nat) (f : α → α) : NMap α :=
  match m.find? n with
  | some v => m.put n (f v)
  | none => m

/-- The listed values, in key order. -/
def NMap.vals {α : Type} (m : NMap α) : List α := List.map Prod.snd m
/-- The listed keys, in order. -/
def NMap.keys {α : Type} (m : NMap α) : List Nat := List.map Prod.fst m

/-- Every listed key is at least n and the keys rise strictly. -/
def NMap.sortedFrom {α : Type} : Nat → NMap α → Bool
  | _, [] => true
  | n, (k, _) :: t => decide (n ≤ k) && NMap.sortedFrom (k + 1) t

/-- The keys rise strictly: the one form a table has. -/
def NMap.sorted {α : Type} (m : NMap α) : Bool := NMap.sortedFrom 0 m

end Sys2Proof
end

