-- ==== Sys2Proof/Machine/Hash.lean ====
section
/-! DEFINITION. SHA-512 (FIPS 180-4), for BDIGEST (R289), signatures (R195) and the measurement chain (R349), RSASSA-PSS verification (R195), and the CRC-64 of the twin store signature (R459). -/
namespace Sys2Proof

/-- The round constants of SHA-512, first part. -/
def shaK0 : List DWord :=
  [0x428a2f98d728ae22, 0x7137449123ef65cd, 0xb5c0fbcfec4d3b2f, 0xe9b5dba58189dbbc] ++
  [0x3956c25bf348b538, 0x59f111f1b605d019, 0x923f82a4af194f9b, 0xab1c5ed5da6d8118] ++
  [0xd807aa98a3030242, 0x12835b0145706fbe, 0x243185be4ee4b28c, 0x550c7dc3d5ffb4e2] ++
  [0x72be5d74f27b896f, 0x80deb1fe3b1696b1, 0x9bdc06a725c71235, 0xc19bf174cf692694] ++
  [0xe49b69c19ef14ad2, 0xefbe4786384f25e3, 0x0fc19dc68b8cd5b5, 0x240ca1cc77ac9c65] ++
  [0x2de92c6f592b0275, 0x4a7484aa6ea6e483, 0x5cb0a9dcbd41fbd4, 0x76f988da831153b5] ++
  [0x983e5152ee66dfab, 0xa831c66d2db43210, 0xb00327c898fb213f, 0xbf597fc7beef0ee4] ++
  [0xc6e00bf33da88fc2, 0xd5a79147930aa725, 0x06ca6351e003826f, 0x142929670a0e6e70] ++
  [0x27b70a8546d22ffc, 0x2e1b21385c26c926, 0x4d2c6dfc5ac42aed, 0x53380d139d95b3df] ++
  [0x650a73548baf63de, 0x766a0abb3c77b2a8, 0x81c2c92e47edaee6, 0x92722c851482353b]
/-- The round constants of SHA-512, second part. -/
def shaK1 : List DWord :=
  [0xa2bfe8a14cf10364, 0xa81a664bbc423001, 0xc24b8b70d0f89791, 0xc76c51a30654be30] ++
  [0xd192e819d6ef5218, 0xd69906245565a910, 0xf40e35855771202a, 0x106aa07032bbd1b8] ++
  [0x19a4c116b8d2d0c8, 0x1e376c085141ab53, 0x2748774cdf8eeb99, 0x34b0bcb5e19b48a8] ++
  [0x391c0cb3c5c95a63, 0x4ed8aa4ae3418acb, 0x5b9cca4f7763e373, 0x682e6ff3d6b2b8a3] ++
  [0x748f82ee5defb2fc, 0x78a5636f43172f60, 0x84c87814a1f0ab72, 0x8cc702081a6439ec] ++
  [0x90befffa23631e28, 0xa4506cebde82bde9, 0xbef9a3f7b2c67915, 0xc67178f2e372532b] ++
  [0xca273eceea26619c, 0xd186b8c721c0c207, 0xeada7dd6cde0eb1e, 0xf57d4f7fee6ed178] ++
  [0x06f067aa72176fba, 0x0a637dc5a2c898a6, 0x113f9804bef90dae, 0x1b710b35131c471b] ++
  [0x28db77f523047d84, 0x32caab7b40c72493, 0x3c9ebe0a15c9bebc, 0x431d67c49c100d4c] ++
  [0x4cc5d4becb3e42b6, 0x597f299cfc657e2a, 0x5fcb6fab3ad6faec, 0x6c44198c4a475817]
/-- The round constants of SHA-512. -/
def shaK : List DWord := shaK0 ++ shaK1

/-- The eight chaining words. -/
structure Sha where
  a : DWord
  b : DWord
  c : DWord
  d : DWord
  e : DWord
  f : DWord
  g : DWord
  h : DWord
  deriving DecidableEq, Repr

/-- The initial chaining value. -/
def Sha.init : Sha :=
  ⟨0x6a09e667f3bcc908, 0xbb67ae8584caa73b, 0x3c6ef372fe94f82b, 0xa54ff53a5f1d36f1, 0x510e527fade682d1, 0x9b05688c2b3e6c1f, 0x1f83d9abfb41bd6b, 0x5be0cd19137e2179⟩

/-- The small sigma functions of the message schedule. -/
def shaS0 (x : DWord) : DWord := x.rotateRight 1 ^^^ x.rotateRight 8 ^^^ (x >>> 7)
/-- The small sigma functions of the message schedule. -/
def shaS1 (x : DWord) : DWord := x.rotateRight 19 ^^^ x.rotateRight 61 ^^^ (x >>> 6)

/-- The message schedule: the list holds the words so far, newest first. -/
def shaExpand : Nat → List DWord → List DWord
  | 0, w => w
  | k + 1, w => shaExpand k ((shaS1 (w.getD 1 0) + w.getD 6 0 + shaS0 (w.getD 14 0) + w.getD 15 0) :: w)

/-- One round. -/
def Sha.round (s : Sha) (k w : DWord) : Sha :=
  let t1 := s.h + (s.e.rotateRight 14 ^^^ s.e.rotateRight 18 ^^^ s.e.rotateRight 41)
    + ((s.e &&& s.f) ^^^ (~~~s.e &&& s.g)) + k + w
  let t2 := (s.a.rotateRight 28 ^^^ s.a.rotateRight 34 ^^^ s.a.rotateRight 39)
    + ((s.a &&& s.b) ^^^ (s.a &&& s.c) ^^^ (s.b &&& s.c))
  ⟨t1 + t2, s.a, s.b, s.c, s.d + t1, s.e, s.f, s.g⟩

/-- The rounds over constants and schedule. -/
def shaRounds : List DWord → List DWord → Sha → Sha
  | k :: ks, w :: ws, s => shaRounds ks ws (s.round k w)
  | _, _, s => s

/-- One 16-word block. -/
def Sha.block (s : Sha) (m : List DWord) : Sha :=
  let t := shaRounds shaK (shaExpand 64 m.reverse).reverse s
  ⟨s.a + t.a, s.b + t.b, s.c + t.c, s.d + t.d, s.e + t.e, s.f + t.f, s.g + t.g, s.h + t.h⟩

/-- A big-endian word from the first eight bytes. -/
def beWord (bs : List Byte) : DWord := BitVec.ofNat 64 ((bs.take 8).foldl (fun acc b => acc * 256 + b.toNat) 0)
/-- The bytes of a word, most significant first. -/
def beBytes (w : DWord) : List Byte := (List.range 8).map fun i => (w >>> (56 - 8 * i)).setWidth 8

/-- The big-endian words of a byte list. -/
def beWords : Nat → List Byte → List DWord
  | 0, _ => []
  | k + 1, bs => beWord bs :: beWords k (bs.drop 8)

/-- The blocks of a padded message. -/
def shaBlocks : Nat → List Byte → Sha → Sha
  | 0, _, s => s
  | k + 1, bs, s => shaBlocks k (bs.drop 128) (s.block (beWords 16 bs))

/-- The padding of a message of n bytes. -/
def shaPad (n : Nat) : List Byte :=
  [0x80] ++ List.replicate ((239 - n % 128) % 128) 0 ++ beBytes (BitVec.ofNat 64 (8 * n / 2 ^ 64)) ++ beBytes (BitVec.ofNat 64 (8 * n))

/-- The 64 bytes of the SHA-512 digest of a message. -/
def sha512 (bs : List Byte) : List Byte :=
  let m := bs ++ shaPad bs.length
  let s := shaBlocks (m.length / 128) m Sha.init
  beBytes s.a ++ beBytes s.b ++ beBytes s.c ++ beBytes s.d ++ beBytes s.e ++ beBytes s.f ++ beBytes s.g ++ beBytes s.h

/-! RSASSA-PSS with RSA-4096, SHA-512, MGF1 with SHA-512 and a 64-byte salt, as RFC 8017 verifies it (R195) -/

/-- A number of n bytes, most significant first. -/
def beNum (bs : List Byte) : Nat := bs.foldl (fun acc b => acc * 256 + b.toNat) 0
/-- The n bytes of a number, most significant first. -/
def beOf (n v : Nat) : List Byte := (List.range n).map fun i => BitVec.ofNat 8 (v / 256 ^ (n - 1 - i))
/-- b to the power e modulo n, by squaring; the fuel is a bound on the bits of e. -/
def powMod : Nat → Nat → Nat → Nat → Nat
  | 0, _, _, n => 1 % n
  | k + 1, b, e, n =>
    let r := powMod k (b * b % n) (e / 2) n
    if e % 2 = 1 then b * r % n else r
/-- MGF1 with SHA-512: n bytes of mask from a seed. -/
def mgf1 (seed : List Byte) (n : Nat) : List Byte :=
  ((List.range ((n + 63) / 64)).flatMap fun i => sha512 (seed ++ beOf 4 i)).take n
/-- EMSA-PSS verification of an encoded message of 512 bytes, 4,095 bits long, against the digest of what is signed. -/
def pssOk (digest em : List Byte) : Bool :=
  let h := (em.drop 447).take 64
  let masked := em.take 447
  let db := match List.zipWith (· ^^^ ·) masked (mgf1 h 447) with
    | [] => []
    | b :: t => (b &&& 0x7F) :: t
  em.length == 512 && (em.getD 511 0) == 0xBC && decide ((em.getD 0 0).toNat < 128) && (db.take 382).all (· == 0) && db.getD 382 0 == 1 &&
    sha512 (List.replicate 8 0 ++ digest ++ db.drop 383) == h
/-- RSASSA-PSS verification of a 512-byte signature over bytes, under a modulus and exponent (R195). -/
def rsaPssOk (modulus exponent : Nat) (covered sig : List Byte) : Bool :=
  let v := beNum sig
  sig.length == 512 && decide (v < modulus) && pssOk (sha512 covered) (beOf 512 (powMod (exponent.log2 + 1) v exponent modulus))

/-- One bit of the CRC-64, most significant bit first. -/
def crcBit (crc : DWord) (b : Bool) : DWord :=
  let x := crc <<< 1
  if crc.getLsbD 63 != b then x ^^^ 0x42F0E1EBA9EA3693 else x
/-- One byte of the CRC-64. -/
def crcByte (crc : DWord) (b : Byte) : DWord :=
  [7, 6, 5, 4, 3, 2, 1, 0].foldl (fun c i => crcBit c (b.getLsbD i)) crc
/-- The CRC-64 of a byte list continued from a value. -/
def crc64 (crc : DWord) (bs : List Byte) : DWord := bs.foldl crcByte crc

end Sys2Proof
end

