-- ==== Sys2Proof/Syntax.lean ====
section
/-! DEFINITION. The abstract syntax: one constructor of Instr per row of the opcode table. The first 188 rows are instructions a strand issues, the rest are the events (memory, engines, links, host, power) that the table lists as steps of the machine. -/
namespace Sys2Proof

/-- The rounding modes every rounding instruction accepts (R89). -/
inductive RM
  | rn | rz | ru | rd
  deriving DecidableEq, Repr

/-- The rounding modes of CVT, CVTPK and QBLK (R89). -/
inductive RMS
  | rn | rz | ru | rd | sr
  deriving DecidableEq, Repr

/-- The conditions of the compares (R205). -/
inductive Cc
  | eq | ne | lt | le | gt | ge
  deriving DecidableEq, Repr

/-- The scopes (R140). -/
inductive Scope
  | core | die | pkg | dom | sys
  deriving DecidableEq, Repr

/-- The ordering kinds of an access (R177). -/
inductive Ord
  | plain | acq | rel | acqrel
  deriving DecidableEq, Repr

/-- The kinds of a fence (R262). -/
inductive FenceKind
  | sc | acq | rel | acqrel
  deriving DecidableEq, Repr

/-- The access sizes (R227). -/
inductive Size
  | b32 | b8 | b16 | b64 | b128
  deriving DecidableEq, Repr

/-- The counter classes (R46, R240). -/
inductive CClass
  | ld | st | bk | mx | cl
  deriving DecidableEq, Repr

/-- The cache hints (R254). -/
inductive Hint
  | dflt | nl1 | ev
  deriving DecidableEq, Repr

/-- The scratchpads (R120). -/
inductive Buf
  | w | a | c
  deriving DecidableEq, Repr

/-- The lifetime classes (R125, R266). -/
inductive LClass
  | l0 | l1 | l2
  deriving DecidableEq, Repr

/-- The operations of ATOM and ATOMN (R259). -/
inductive AtomOp
  | add | min | minU | max | maxU | and | or | xor | xchg | fadd
  deriving DecidableEq, Repr

/-- The modes of SHFL (R224). -/
inductive ShflMode
  | idx | up | down | xor
  deriving DecidableEq, Repr

/-- The modes of VOTE (R223). -/
inductive VoteMode
  | any | all | ballot
  deriving DecidableEq, Repr

/-- The operations of RED and SCAN (R225). -/
inductive RedOp
  | add | and | or | xor | minS | minU | maxS | maxU | fadd | fmin | fmax
  deriving DecidableEq, Repr

/-- The formats (R82). -/
inductive Fmt
  | f32 | f16 | bf16 | f64 | e4m3 | e5m2 | e2m1 | e8m0 | s8 | u8 | s16 | u16 | s32 | u32 | s64 | u64
  deriving DecidableEq, Repr

/-- The block sizes (R84). -/
inductive Bsz
  | b8 | b16 | b32
  deriving DecidableEq, Repr

/-- The block-scale formats (R84). -/
inductive Scf
  | e8m0 | e5m2 | e4m3
  deriving DecidableEq, Repr

/-- The special registers (R71), in the order of their numbers 0x00 to 0x21. -/
inductive SReg
  | laneid | nlanes | width | strand | nstrand | groveX | groveY | groveZ | ngroveX | ngroveY | ngroveZ | stage | launch | core | stand | die | pkg | tick | pc | cnt | tags | bcRow | bcCol | bcSeq | bcLen | bcOp | bcCtx | repc | allot | gen | lcmax | trapimg | fault | twin
  deriving DecidableEq, Repr

/-- The operations of the uniform slot (R174), in the order of uop 0x00 to 0x10. -/
inductive UOp
  | nop | mov | iadd | isub | imul | imad | and | or | xor | shl | shr | iadd64 | lea | icmpLt | icmpEq | imin | imax
  deriving DecidableEq, Repr

/-- The operations of the vector slot (R174), in the order of vop 0x00 to 0x18. -/
inductive VOp
  | nop | mov | iadd | isub | imul | imad | imin | imax | and | or | xor | shl | shr | icmpLt | fcmpLt | fadd | fsub | fmul | ffma | fmin | fmax | hfma2 | ald | ast | vdot4
  deriving DecidableEq, Repr

/-- A public key of the key store (R338): KEYID, and the modulus and public exponent of RSA-4096. -/
structure PubKey where
  keyid : Nat
  modulus : Nat
  exponent : Nat
  deriving DecidableEq, Repr

/-- How a boot ends (R350): a failure of steps 2 to 4, the trained lanes of each port, the key store by key slot (R338), the slots of memory keys of the boot configuration (R348), the layout of memory, the host mode, the ns from the end of step 1 to the end of step 8. -/
structure Boot where
  failed : Bool
  lanes : List Nat
  keys : List (Nat × PubKey)
  slots : List Nat
  dieLocal : Bool
  cxl : Bool
  ticks : Nat
  deriving DecidableEq, Repr

/-- A guard: a predicate number and a negate bit (R170). -/
structure Guard where
  p : Nat
  neg : Bool
  deriving DecidableEq, Repr

/-- A source operand that is a register (or the first of a pair), or the immediate of word 2 (R198). -/
inductive Src
  | reg (n : Nat)
  | imm (w : Word)
  deriving DecidableEq, Repr

/-- The element formats of a scaled block; `s8` is MXINT8 (R84, R216). -/
inductive Elem
  | e4m3 | e5m2 | e2m1 | s8
  deriving DecidableEq, Repr

/-- The four forms of PMOV (R208). -/
inductive PmovForm
  | toReg (d pa : Nat)
  | toPred (pd a : Nat)
  | pack (d : Nat)
  | unpk (a : Nat)
  deriving DecidableEq, Repr

/-- CINV over instruction lines at a scope, or over the core's L1 data cache (R275). -/
inductive CinvKind
  | i (sc : Scope)
  | d
  deriving DecidableEq, Repr

/-- What a TLBINV removes: one page, one partition, everything (R276). -/
inductive TlbKind
  | va (a b : Nat)
  | part (b : Nat)
  | all
  deriving DecidableEq, Repr

/-- The uniform slot of a pair: operation and operand fields (R173). -/
structure USlot where
  op : UOp
  d : Nat
  a : Nat
  b : Nat
  deriving DecidableEq, Repr

/-- The vector slot of a pair: operation and operand fields (R173). -/
structure VSlot where
  op : VOp
  d : Nat
  a : Nat
  b : Nat
  deriving DecidableEq, Repr


/-- The X opcodes (R179). -/
inductive XOp
  | nop | mov | movi | iadd | isub | imul | imulh | imad | imin | imax
  | iabs | ineg | and | or | xor | andn | not | shl | shr | sar
  | popc | clz | ctz | brev | bfx | bfi | sel | iadd64 | isub64 | imul64
  | shl64 | shr64 | lea | imulw | imadw | icmp | icmp64 | fcmp | fclass | pand
  | por | pxor | pnot | pmov | pset | fadd | fsub | fmul | ffma | fmin
  | fmax | fabs | fneg | frcp | frsq | fsqrt | fdiv | fexp2 | flog2 | fsin
  | fcos | ftanh | frint | hadd2 | hmul2 | hfma2 | hmin2 | hmax2 | dadd | dmul
  | dfma | fscale | cvt | cvtpk | cvtex | qblk | dqblk | vdot4 | vdotb | bppack
  | bpunpk | vote | shfl | red | scan | elect | matchAny | bra | brx | call
  | callx | ret | exit | trap | brk | yield | rep | waitt | waitv | waitc
  | ffr | tclr | spawn | barinit | bararr | barwait | fwait | ffill | freset | parkw
  | ld | st | ldu | atom | atomcas | atomn | fence | wld | wst | ald
  | ast | cld | cst | ldc | pref | spalloc | spfree | sprenew | spstat | spclear
  | bread | bwrite | bcopy | bfill | bdigest | bstat | mxlw | mxrun | mxzero | mxver
  | mxhnd | mxrel | coll | movs | movsw | regset | shp | uni | ckpt | tret
  | cinv | tlbinv | csrr | csrw | halt
  deriving DecidableEq, Repr

/-- The instructions and events of the opcode table. Register fields are numbers (REP may step them past 511); the guard comes first. -/
inductive Instr
  /-- NOP_S (R172): S-form no-operation. -/
  | nopS (g : Guard)
  /-- MOV_S (R172): S-form register copy d := a. -/
  | movS (g : Guard) (d : Nat) (a : Nat)
  /-- IADD_S (R172): S-form wrapping 32-bit add. -/
  | iaddS (g : Guard) (d : Nat) (a : Nat) (b : Nat)
  /-- ISUB_S (R172): S-form wrapping 32-bit subtract. -/
  | isubS (g : Guard) (d : Nat) (a : Nat) (b : Nat)
  /-- IMUL_S (R172): S-form low 32 bits of a product. -/
  | imulS (g : Guard) (d : Nat) (a : Nat) (b : Nat)
  /-- AND_S (R172): S-form bitwise AND. -/
  | andS (g : Guard) (d : Nat) (a : Nat) (b : Nat)
  /-- OR_S (R172): S-form bitwise OR. -/
  | orS (g : Guard) (d : Nat) (a : Nat) (b : Nat)
  /-- XOR_S (R172): S-form bitwise XOR. -/
  | xorS (g : Guard) (d : Nat) (a : Nat) (b : Nat)
  /-- SHL_S (R172): S-form shift left by vb. -/
  | shlS (g : Guard) (d : Nat) (a : Nat) (b : Nat)
  /-- SHR_S (R172): S-form logical shift right by vb. -/
  | shrS (g : Guard) (d : Nat) (a : Nat) (b : Nat)
  /-- ICMP_S (R172): S-form integer compare into predicate p0-p7 with 3-bit condition. -/
  | icmpS (g : Guard) (pd : Nat) (a : Nat) (b : Nat) (cc : Cc) (u : Bool)
  /-- FADD_S (R172): S-form FP32 add, round to nearest. -/
  | faddS (g : Guard) (d : Nat) (a : Nat) (b : Nat)
  /-- FSUB_S (R172): S-form FP32 subtract, round to nearest. -/
  | fsubS (g : Guard) (d : Nat) (a : Nat) (b : Nat)
  /-- FMUL_S (R172): S-form FP32 multiply, round to nearest. -/
  | fmulS (g : Guard) (d : Nat) (a : Nat) (b : Nat)
  /-- BRA_S (R172): S-form branch with 18-bit signed word offset. -/
  | braS (g : Guard) (off : BitVec 18)
  /-- EXIT_S (R234): S-form end of the strands of E. -/
  | exitS (g : Guard)
  /-- REP_S (R68): S-form repeat prefix with count up to 63 and strides for d, a and b. -/
  | repS (count : Nat) (sd : Nat) (sa : Nat) (sb : Nat)
  /-- WAITT_S (R238): S-form wait on grove tags 0-11, any or all. -/
  | waittS (g : Guard) (all : Bool) (mask : BitVec 12)
  /-- WAITC_S (R172): S-form wait until a class counter is at most n. -/
  | waitcS (g : Guard) (cls : CClass) (n : Nat)
  /-- LD_S (R254): S-form plain 32-bit global load at pair plus word offset. -/
  | ldS (g : Guard) (d : Nat) (a : Nat) (off : Nat)
  /-- ST_S (R255): S-form plain 32-bit global store. -/
  | stS (g : Guard) (d : Nat) (a : Nat) (off : Nat)
  /-- ALD_S (R264): S-form 32-bit A-buffer load. -/
  | aldS (g : Guard) (d : Nat) (a : Nat) (off : Nat)
  /-- AST_S (R264): S-form 32-bit A-buffer store. -/
  | astS (g : Guard) (d : Nat) (a : Nat) (off : Nat)
  /-- MOVS_S (R271): S-form read of special registers 0x00-0x3F. -/
  | movsS (g : Guard) (d : Nat) (x : SReg)
  /-- PFORM_PAIR (R175): P-form bundle that performs one uniform-slot and one vector-slot operation as one instruction. -/
  | pformPair (g : Guard) (u : USlot) (v : VSlot)
  /-- NOP (R202): X-form no-operation. -/
  | nop (g : Guard)
  /-- MOV (R202): X-form register copy. -/
  | mov (g : Guard) (d : Nat) (a : Nat)
  /-- MOVI (R202): Writes a 32-bit immediate to a register. -/
  | movi (g : Guard) (d : Nat) (imm : Word)
  /-- MOVI_LIT (R202): Literal form of MOVI that writes a 64-bit literal to a pair. -/
  | moviLit (g : Guard) (d : Nat) (lit : DWord)
  /-- IADD (R202): 32-bit add, with optional saturation. -/
  | iadd (g : Guard) (d : Nat) (a : Nat) (b : Src) (sat : Bool) (u : Bool)
  /-- ISUB (R202): 32-bit subtract, with optional saturation. -/
  | isub (g : Guard) (d : Nat) (a : Nat) (b : Src) (sat : Bool) (u : Bool)
  /-- IMUL (R202): Low 32 bits of a product. -/
  | imul (g : Guard) (d : Nat) (a : Nat) (b : Src)
  /-- IMULH (R202): High 32 bits of a signed or unsigned product. -/
  | imulh (g : Guard) (d : Nat) (a : Nat) (b : Src) (u : Bool)
  /-- IMAD (R202): Multiply-add d := a × b + c modulo 2^32. -/
  | imad (g : Guard) (d : Nat) (a : Nat) (b : Src) (c : Nat)
  /-- IMIN (R202): Signed or unsigned minimum. -/
  | imin (g : Guard) (d : Nat) (a : Nat) (b : Src) (u : Bool)
  /-- IMAX (R202): Signed or unsigned maximum. -/
  | imax (g : Guard) (d : Nat) (a : Nat) (b : Src) (u : Bool)
  /-- IABS (R202): Absolute value, with optional saturation. -/
  | iabs (g : Guard) (d : Nat) (a : Nat) (sat : Bool)
  /-- INEG (R202): Negation, with optional saturation. -/
  | ineg (g : Guard) (d : Nat) (a : Nat) (sat : Bool)
  /-- AND (R202): X-form bitwise AND. -/
  | and (g : Guard) (d : Nat) (a : Nat) (b : Src)
  /-- OR (R202): X-form bitwise OR. -/
  | or (g : Guard) (d : Nat) (a : Nat) (b : Src)
  /-- XOR (R202): X-form bitwise XOR. -/
  | xor (g : Guard) (d : Nat) (a : Nat) (b : Src)
  /-- ANDN (R202): a AND NOT b. -/
  | andn (g : Guard) (d : Nat) (a : Nat) (b : Src)
  /-- NOT (R202): Bitwise complement. -/
  | not (g : Guard) (d : Nat) (a : Nat)
  /-- SHL (R202): X-form shift left; counts of 32 or more give 0. -/
  | shl (g : Guard) (d : Nat) (a : Nat) (b : Src)
  /-- SHR (R202): X-form logical shift right. -/
  | shr (g : Guard) (d : Nat) (a : Nat) (b : Src)
  /-- SAR (R202): Arithmetic shift right with the count clamped to 31. -/
  | sar (g : Guard) (d : Nat) (a : Nat) (b : Src)
  /-- POPC (R202): Counts the 1 bits. -/
  | popc (g : Guard) (d : Nat) (a : Nat)
  /-- CLZ (R202): Counts the leading zero bits. -/
  | clz (g : Guard) (d : Nat) (a : Nat)
  /-- CTZ (R202): Counts the trailing zero bits. -/
  | ctz (g : Guard) (d : Nat) (a : Nat)
  /-- BREV (R202): Reverses the bit order. -/
  | brev (g : Guard) (d : Nat) (a : Nat)
  /-- BFX (R203): Bit-field extract, signed or unsigned. -/
  | bfx (g : Guard) (d : Nat) (a : Nat) (b : Src) (u : Bool)
  /-- BFI (R203): Bit-field insert. -/
  | bfi (g : Guard) (d : Nat) (a : Nat) (b : Src) (c : Nat)
  /-- SEL (R202): Selects a or b by predicate. -/
  | sel (g : Guard) (d : Nat) (a : Nat) (b : Src) (pc : Nat)
  /-- IADD64 (R204): 64-bit add on pairs. -/
  | iadd64 (g : Guard) (d : Nat) (a : Nat) (b : Src)
  /-- IADD64_LIT (R204): Literal form of 64-bit add. -/
  | iadd64Lit (g : Guard) (d : Nat) (a : Nat) (lit : DWord)
  /-- ISUB64 (R204): 64-bit subtract. -/
  | isub64 (g : Guard) (d : Nat) (a : Nat) (b : Src)
  /-- ISUB64_LIT (R204): Literal form of 64-bit subtract. -/
  | isub64Lit (g : Guard) (d : Nat) (a : Nat) (lit : DWord)
  /-- IMUL64 (R204): 64-bit multiply modulo 2^64. -/
  | imul64 (g : Guard) (d : Nat) (a : Nat) (b : Src)
  /-- IMUL64_LIT (R204): Literal form of 64-bit multiply. -/
  | imul64Lit (g : Guard) (d : Nat) (a : Nat) (lit : DWord)
  /-- SHL64 (R204): 64-bit shift left. -/
  | shl64 (g : Guard) (d : Nat) (a : Nat) (b : Src)
  /-- SHR64 (R204): 64-bit logical or arithmetic shift right. -/
  | shr64 (g : Guard) (d : Nat) (a : Nat) (b : Src) (s : Bool)
  /-- LEA (R204): 64-bit address plus a scaled, extended index. -/
  | lea (g : Guard) (d : Nat) (a : Nat) (b : Src) (u : Bool) (sh : Nat)
  /-- IMULW (R204): Widening 32 × 32 to 64-bit multiply. -/
  | imulw (g : Guard) (d : Nat) (a : Nat) (b : Src) (u : Bool)
  /-- IMADW (R204): Widening multiply-add into a 64-bit pair. -/
  | imadw (g : Guard) (d : Nat) (a : Nat) (b : Src) (c : Nat) (u : Bool)
  /-- ICMP (R205): X-form integer compare into a predicate. -/
  | icmp (g : Guard) (pd : Nat) (a : Nat) (b : Src) (cc : Cc) (u : Bool)
  /-- ICMP64 (R205): 64-bit integer compare into a predicate. -/
  | icmp64 (g : Guard) (pd : Nat) (a : Nat) (b : Src) (cc : Cc) (u : Bool)
  /-- ICMP64_LIT (R205): Literal form of the 64-bit compare. -/
  | icmp64Lit (g : Guard) (pd : Nat) (a : Nat) (cc : Cc) (u : Bool) (lit : DWord)
  /-- FCMP (R206): FP32 compare into a predicate, ordered or unordered. -/
  | fcmp (g : Guard) (pd : Nat) (a : Nat) (b : Src) (cc : Cc) (un : Bool)
  /-- FCLASS (R207): Classifies one element into a one-hot class mask. -/
  | fclass (g : Guard) (d : Nat) (a : Nat) (fmt : Fmt) (laneIx : Nat)
  /-- PAND (R208): Predicate AND. -/
  | pand (g : Guard) (pd : Nat) (pa : Nat) (pb : Nat)
  /-- POR (R208): Predicate OR. -/
  | por (g : Guard) (pd : Nat) (pa : Nat) (pb : Nat)
  /-- PXOR (R208): Predicate XOR. -/
  | pxor (g : Guard) (pd : Nat) (pa : Nat) (pb : Nat)
  /-- PNOT (R208): Predicate NOT. -/
  | pnot (g : Guard) (pd : Nat) (pa : Nat)
  /-- PMOV (R208): Moves, packs or unpacks predicates and registers. -/
  | pmov (g : Guard) (f : PmovForm)
  /-- PSET (R208): Sets a predicate to a constant. -/
  | pset (g : Guard) (pd : Nat) (v : Bool)
  /-- FADD (R209): X-form FP32 add with a rounding mode. -/
  | fadd (g : Guard) (d : Nat) (a : Nat) (b : Src) (m : RM)
  /-- FSUB (R209): X-form FP32 subtract. -/
  | fsub (g : Guard) (d : Nat) (a : Nat) (b : Src) (m : RM)
  /-- FMUL (R209): X-form FP32 multiply. -/
  | fmul (g : Guard) (d : Nat) (a : Nat) (b : Src) (m : RM)
  /-- FFMA (R209): FP32 fused multiply-add, rounded once. -/
  | ffma (g : Guard) (d : Nat) (a : Nat) (b : Src) (c : Nat) (m : RM)
  /-- FMIN (R95): IEEE minimumNumber. -/
  | fmin (g : Guard) (d : Nat) (a : Nat) (b : Src)
  /-- FMAX (R95): IEEE maximumNumber. -/
  | fmax (g : Guard) (d : Nat) (a : Nat) (b : Src)
  /-- FABS (R209): FP32 absolute value. -/
  | fabs (g : Guard) (d : Nat) (a : Nat)
  /-- FNEG (R209): FP32 negation. -/
  | fneg (g : Guard) (d : Nat) (a : Nat)
  /-- FRCP (R210): Approximate reciprocal within 1 ulp. -/
  | frcp (g : Guard) (d : Nat) (a : Nat)
  /-- FRSQ (R210): Approximate reciprocal square root. -/
  | frsq (g : Guard) (d : Nat) (a : Nat)
  /-- FSQRT (R209): Correctly rounded square root. -/
  | fsqrt (g : Guard) (d : Nat) (a : Nat) (m : RM)
  /-- FDIV (R209): Correctly rounded division. -/
  | fdiv (g : Guard) (d : Nat) (a : Nat) (b : Src) (m : RM)
  /-- FEXP2 (R210): Approximate base-2 exponential. -/
  | fexp2 (g : Guard) (d : Nat) (a : Nat)
  /-- FLOG2 (R210): Approximate base-2 logarithm. -/
  | flog2 (g : Guard) (d : Nat) (a : Nat)
  /-- FSIN (R210): Approximate sin 2πa. -/
  | fsin (g : Guard) (d : Nat) (a : Nat)
  /-- FCOS (R210): Approximate cos 2πa. -/
  | fcos (g : Guard) (d : Nat) (a : Nat)
  /-- FTANH (R210): Approximate tanh. -/
  | ftanh (g : Guard) (d : Nat) (a : Nat)
  /-- FRINT (R209): Rounds to an integral FP32 value. -/
  | frint (g : Guard) (d : Nat) (a : Nat) (m : RM)
  /-- HADD2 (R211): Paired half-precision add. -/
  | hadd2 (g : Guard) (d : Nat) (a : Nat) (b : Src) (m : RM) (h : Bool)
  /-- HMUL2 (R211): Paired half-precision multiply. -/
  | hmul2 (g : Guard) (d : Nat) (a : Nat) (b : Src) (m : RM) (h : Bool)
  /-- HFMA2 (R211): Paired half-precision fused multiply-add. -/
  | hfma2 (g : Guard) (d : Nat) (a : Nat) (b : Src) (c : Nat) (m : RM) (h : Bool)
  /-- HMIN2 (R211): Paired half-precision minimum. -/
  | hmin2 (g : Guard) (d : Nat) (a : Nat) (b : Src) (h : Bool)
  /-- HMAX2 (R211): Paired half-precision maximum. -/
  | hmax2 (g : Guard) (d : Nat) (a : Nat) (b : Src) (h : Bool)
  /-- DADD (R212): FP64 add. -/
  | dadd (g : Guard) (d : Nat) (a : Nat) (b : Nat) (m : RM)
  /-- DADD_LIT (R212): Literal form of the FP64 add. -/
  | daddLit (g : Guard) (d : Nat) (a : Nat) (m : RM) (lit : DWord)
  /-- DMUL (R212): FP64 multiply. -/
  | dmul (g : Guard) (d : Nat) (a : Nat) (b : Nat) (m : RM)
  /-- DMUL_LIT (R212): Literal form of the FP64 multiply. -/
  | dmulLit (g : Guard) (d : Nat) (a : Nat) (m : RM) (lit : DWord)
  /-- DFMA (R212): FP64 fused multiply-add. -/
  | dfma (g : Guard) (d : Nat) (a : Nat) (b : Nat) (c : Nat) (m : RM)
  /-- DFMA_LIT (R212): Literal form of the FP64 fused multiply-add. -/
  | dfmaLit (g : Guard) (d : Nat) (a : Nat) (c : Nat) (m : RM) (lit : DWord)
  /-- FSCALE (R209): Multiplies by a power of two. -/
  | fscale (g : Guard) (d : Nat) (a : Nat) (b : Src) (m : RM)
  /-- CVT (R213): Converts between formats. -/
  | cvt (g : Guard) (d : Nat) (a : Nat) (b : Nat) (m : RMS) (sat : Bool) (src : Fmt) (dst : Fmt)
  /-- CVTPK (R215): Converts two FP32 values and packs them into narrow elements. -/
  | cvtpk (g : Guard) (d : Nat) (a : Nat) (b : Nat) (c : Nat) (e : Nat) (m : RMS) (sat : Bool) (dst : Fmt) (j : Nat)
  /-- CVTEX (R214): Extracts one element and widens it. -/
  | cvtex (g : Guard) (d : Nat) (a : Nat) (fmt : Fmt) (laneIx : Nat)
  /-- QBLK (R216): Quantises a block into elements and a shared scale. -/
  | qblk (g : Guard) (d : Nat) (e : Nat) (a : Nat) (b : Nat) (m : RMS) (sat : Bool) (el : Elem) (bsz : Bsz) (scf : Scf)
  /-- DQBLK (R217): Dequantises a block to FP32. -/
  | dqblk (g : Guard) (d : Nat) (a : Nat) (e : Nat) (el : Elem) (bsz : Bsz) (scf : Scf)
  /-- VDOT4 (R218): Four-way byte dot product accumulated into 32 bits. -/
  | vdot4 (g : Guard) (d : Nat) (a : Nat) (b : Src) (c : Nat) (ua : Bool) (ub : Bool)
  /-- VDOTB (R219): Scaled-block dot product accumulated in FP32. -/
  | vdotb (g : Guard) (d : Nat) (a : Nat) (b : Nat) (c : Nat) (e : Nat) (ea : Elem) (eb : Elem) (bsz : Bsz) (scf : Scf)
  /-- BPPACK (R220): Packs the cohort's INT8 elements into a plane block. -/
  | bppack (g : Guard) (d : Nat) (a : Nat)
  /-- BPUNPK (R221): Unpacks k planes into INT8 values. -/
  | bpunpk (g : Guard) (d : Nat) (a : Nat) (k : Nat) (mid : Bool)
  /-- VOTE (R223): Cross-lane any, all or ballot. -/
  | vote (g : Guard) (mode : VoteMode) (d : Nat) (pa : Nat)
  /-- SHFL (R224): Cross-lane shuffle. -/
  | shfl (g : Guard) (d : Nat) (a : Nat) (b : Src) (mode : ShflMode)
  /-- RED (R225): Cross-lane reduction in a fixed tree. -/
  | red (g : Guard) (d : Nat) (a : Nat) (op : RedOp)
  /-- SCAN (R225): Cross-lane inclusive or exclusive prefix. -/
  | scan (g : Guard) (d : Nat) (a : Nat) (op : RedOp) (excl : Bool)
  /-- ELECT (R223): Elects the lowest contributing lane. -/
  | elect (g : Guard) (pd : Nat)
  /-- MATCH (R223): Mask of the lanes with an equal value. -/
  | matchAny (g : Guard) (d : Nat) (a : Nat) (w : Bool)
  /-- BRA (R232): X-form PC-relative branch. -/
  | bra (g : Guard) (imm : Word)
  /-- BRX (R232): Indirect branch through a pair. -/
  | brx (g : Guard) (a : Nat)
  /-- CALL (R232): PC-relative call that writes a link pair. -/
  | call (g : Guard) (d : Nat) (imm : Word)
  /-- CALLX (R232): Indirect call. -/
  | callx (g : Guard) (d : Nat) (a : Nat)
  /-- RET (R232): Return through a pair. -/
  | ret (g : Guard) (a : Nat)
  /-- EXIT (R234): X-form end of strands; a handler's exit completes its burst. -/
  | exit (g : Guard)
  /-- TRAP (R235): Raises a precise software trap for the cohort. -/
  | trap (g : Guard) (n : Nat)
  /-- BRK (R235): Debug halt when breakpoints are enabled, else no effect. -/
  | brk (g : Guard) (n : Nat)
  /-- YIELD (R236): Parks the strands with a ready record. -/
  | yield (g : Guard)
  /-- REP (R70): X-form repeat prefix with count up to 255 and five strides. -/
  | rep (count : Nat) (sd : Nat) (sa : Nat) (sb : Nat) (sc : Nat) (se : Nat)
  /-- WAITT (R238): X-form wait on grove tags. -/
  | waitt (g : Guard) (all : Bool) (a : Src)
  /-- WAITV (R239): Waits for a tile-handle version. -/
  | waitv (g : Guard) (a : Nat) (b : Src)
  /-- WAITC (R240): X-form wait on a class counter. -/
  | waitc (g : Guard) (cls : CClass) (n : Nat)
  /-- FFR (R243): Finds and clears the lowest set tag under a mask. -/
  | ffr (g : Guard) (pc : Nat) (d : Nat) (a : Src)
  /-- TCLR (R242): Clears grove tags under a mask. -/
  | tclr (g : Guard) (a : Src)
  /-- SPAWN (R244): Creates a task record for each strand of E. -/
  | spawn (g : Guard) (imm : Word) (a : Nat) (n : Nat)
  /-- BARINIT (R246): Initialises a barrier object. -/
  | barinit (g : Guard) (a : Nat) (imm : Word) (b : Nat)
  /-- BARARR (R247): Arrives at a barrier and returns the phase. -/
  | bararr (g : Guard) (d : Nat) (a : Nat) (imm : Word)
  /-- BARWAIT (R248): Waits until a barrier phase completes. -/
  | barwait (g : Guard) (a : Nat) (imm : Word) (b : Nat)
  /-- FWAIT (R252): Waits until a future is full and reads its value. -/
  | fwait (g : Guard) (d : Nat) (a : Nat) (imm : Word) (cellA : Bool) (sc : Scope)
  /-- FFILL (R250): Fills an empty future once. -/
  | ffill (g : Guard) (d : Nat) (a : Nat) (imm : Word) (b : Nat) (cellA : Bool) (sc : Scope)
  /-- FRESET (R250): Empties a future. -/
  | freset (g : Guard) (a : Nat) (imm : Word) (cellA : Bool) (sc : Scope)
  /-- PARKW (R253): Parks on a watched memory word until a condition holds. -/
  | parkw (g : Guard) (a : Nat) (imm : Word) (b : Nat) (c : Nat) (cc : Cc) (w : Bool) (ord : Ord) (sc : Scope)
  /-- LD (R254): X-form global load. -/
  | ld (g : Guard) (d : Nat) (a : Nat) (imm : Word) (size : Size) (sgn : Bool) (ord : Ord) (sc : Scope) (hint : Hint)
  /-- ST (R255): X-form global store. -/
  | st (g : Guard) (d : Nat) (a : Nat) (imm : Word) (size : Size) (ord : Ord) (sc : Scope) (hint : Hint)
  /-- LDU (R256): One uniform load for the cohort. -/
  | ldu (g : Guard) (d : Nat) (a : Nat) (imm : Word) (size : Size) (sgn : Bool) (ord : Ord) (sc : Scope)
  /-- ATOM (R259): Returning atomic read-modify-write. -/
  | atom (g : Guard) (d : Nat) (a : Nat) (imm : Word) (b : Nat) (op : AtomOp) (w : Bool) (rt : Bool) (ord : Ord) (sc : Scope)
  /-- ATOMCAS (R260): Compare-and-swap. -/
  | atomcas (g : Guard) (d : Nat) (a : Nat) (imm : Word) (b : Nat) (c : Nat) (w : Bool) (rt : Bool) (ord : Ord) (sc : Scope)
  /-- ATOMN (R259): Non-returning atomic. -/
  | atomn (g : Guard) (a : Nat) (imm : Word) (b : Nat) (op : AtomOp) (w : Bool) (rt : Bool) (ord : Ord) (sc : Scope)
  /-- FENCE (R262): Memory fence of a kind and a scope. -/
  | fence (g : Guard) (kind : FenceKind) (sc : Scope)
  /-- WLD (R264): W-buffer load. -/
  | wld (g : Guard) (d : Nat) (a : Nat) (imm : Word) (size : Size) (sgn : Bool)
  /-- WST (R264): W-buffer store. -/
  | wst (g : Guard) (d : Nat) (a : Nat) (imm : Word) (size : Size)
  /-- ALD (R264): X-form A-buffer load. -/
  | ald (g : Guard) (d : Nat) (a : Nat) (imm : Word) (size : Size) (sgn : Bool)
  /-- AST (R264): X-form A-buffer store. -/
  | ast (g : Guard) (d : Nat) (a : Nat) (imm : Word) (size : Size)
  /-- CLD (R264): C-buffer load. -/
  | cld (g : Guard) (d : Nat) (a : Nat) (imm : Word) (size : Size) (sgn : Bool)
  /-- CST (R264): C-buffer store. -/
  | cst (g : Guard) (d : Nat) (a : Nat) (imm : Word) (size : Size)
  /-- LDC (R257): One uniform load from the launch's argument block. -/
  | ldc (g : Guard) (d : Nat) (imm : Word) (size : Size)
  /-- PREF (R263): Prefetches a line into L1 or L2. -/
  | pref (g : Guard) (a : Nat) (imm : Word) (l2 : Bool)
  /-- SPALLOC (R266): Carves a scratchpad allocation with a lifetime class. -/
  | spalloc (g : Guard) (d : Nat) (b : Src) (buf : Buf) (lc : LClass) (ar : Bool) (strict : Bool)
  /-- SPFREE (R267): Releases an allocation. -/
  | spfree (g : Guard) (a : Nat) (buf : Buf)
  /-- SPRENEW (R268): Starts the renewal of a granule range. -/
  | sprenew (g : Guard) (a : Nat) (b : Src) (buf : Buf)
  /-- SPSTAT (R269): Reads a granule's metadata. -/
  | spstat (g : Guard) (d : Nat) (a : Nat) (buf : Buf)
  /-- SPCLEAR (R267): Gives an allocation a new generation. -/
  | spclear (g : Guard) (a : Nat) (buf : Buf)
  /-- BREAD (R284): Queues a bulk read whose bursts become handler strands. -/
  | bread (g : Guard) (pd : Nat) (a : Nat) (b : Nat) (tag : Nat)
  /-- BWRITE (R289): Queues a bulk write from a scratchpad to memory. -/
  | bwrite (g : Guard) (pd : Nat) (a : Nat) (tag : Nat) (sc : Scope)
  /-- BCOPY (R289): Queues a memory-to-memory copy. -/
  | bcopy (g : Guard) (pd : Nat) (a : Nat) (tag : Nat) (sc : Scope)
  /-- BFILL (R289): Queues a pattern fill. -/
  | bfill (g : Guard) (pd : Nat) (a : Nat) (tag : Nat) (sc : Scope)
  /-- BDIGEST (R289): Queues a SHA-512 digest into the A-buffer. -/
  | bdigest (g : Guard) (pd : Nat) (a : Nat) (tag : Nat)
  /-- BSTAT (R283): Reads a tag's status word. -/
  | bstat (g : Guard) (d : Nat) (a : Src)
  /-- MXLW (R291): Queues a weight latch. -/
  | mxlw (g : Guard) (pd : Nat) (a : Nat)
  /-- MXRUN (R295): Queues a matrix run against a tile handle. -/
  | mxrun (g : Guard) (pd : Nat) (a : Nat)
  /-- MXZERO (R297): Queues a tile zeroing. -/
  | mxzero (g : Guard) (pd : Nat) (a : Nat)
  /-- MXVER (R293): Reads a tile handle's status word. -/
  | mxver (g : Guard) (d : Nat) (a : Nat)
  /-- MXHND (R293): Allocates a tile handle. -/
  | mxhnd (g : Guard) (d : Nat) (a : Nat) (b : Nat)
  /-- MXREL (R293): Releases a tile handle. -/
  | mxrel (g : Guard) (a : Nat)
  /-- COLL (R300): Queues a cross-package collective. -/
  | coll (g : Guard) (pd : Nat) (a : Nat) (tag : Nat)
  /-- MOVS (R271): X-form special-register read. -/
  | movs (g : Guard) (d : Nat) (x : SReg)
  /-- MOVSW (R271): Writes a writable special register such as %fault. -/
  | movsw (g : Guard) (x : SReg) (a : Nat)
  /-- REGSET (R67): Writes one value to n consecutive registers. -/
  | regset (g : Guard) (d : Nat) (n : Nat) (b : Src)
  /-- SHP (R67): Reads a register's shape tag. -/
  | shp (g : Guard) (d : Nat) (a : Nat)
  /-- UNI (R67): Broadcasts the lowest active lane's value. -/
  | uni (g : Guard) (d : Nat) (a : Nat)
  /-- CKPT (R463): Arrives at a twin checkpoint; no effect outside twin groves. -/
  | ckpt (g : Guard)
  /-- TRET (R274): Restores the trap image if every faulted lane is repaired. -/
  | tret (g : Guard)
  /-- CINV (R275): Invalidates instruction or data cache lines over a range. -/
  | cinv (g : Guard) (k : CinvKind) (a : Nat) (imm : Word) (b : Nat)
  /-- TLBINV (R276): Privileged TLB invalidation. -/
  | tlbinv (g : Guard) (k : TlbKind) (sc : Scope)
  /-- CSRR (R277): Privileged CSR read. -/
  | csrr (g : Guard) (d : Nat) (csr : Nat)
  /-- CSRW (R277): Privileged CSR write, such as one that arms TWININJ. -/
  | csrw (g : Guard) (csr : Nat) (a : Nat)
  /-- HALT (R278): Stops the cohort as a debug halt. -/
  | halt (g : Guard)
  /-- STUB_ENTRY (R342): A strand reaches an import stub, jumps, faults or parks on the code-ready event. -/
  | stubEntry
  /-- STUB_BIND (R342): The root of trust takes a posted stub and binds or fails it. -/
  | stubBind
  /-- PARKMAP_FETCH_DONE (R32): A missed park-map entry arrives and provisional records are compacted. -/
  | parkmapFetchDone (core : Nat) (pc : Nat)
  /-- RESULT_LANDING (R38): A load or atomic result lands in a register or a record and its counter decrements. -/
  | resultLanding (id : Nat) (data : List Byte) (status : Nat)
  /-- STORE_PERFORMED (R151): A store or ATOMN is performed at its ordering point and the st counter decrements. -/
  | storePerformed (id : Nat)
  /-- ATOMIC_AT_HOME (R149): An atomic or FFILL is performed at the home L2 slice. -/
  | atomicAtHome (id : Nat) (data : List Byte)
  /-- SPRENEW_COMPLETE (R268): A renewal range finishes and its st count completes. -/
  | sprenewComplete (id : Nat)
  /-- CINV_COMPLETE (R275): Instruction-cache invalidation completes across the scope. -/
  | cinvComplete (id : Nat)
  /-- TLBINV_COMPLETE (R276): Every TLB in the instance has removed the entries. -/
  | tlbinvComplete (id : Nat)
  /-- COHORT_FORMATION (R42): A candidate bin drains into a new cohort once slots and register slots are free. -/
  | cohortFormation (core : Nat) (idle : Bool)
  /-- DRAIN_AGE_EXPIRY (R40): A bin's oldest record reaches the drain age and the bin becomes a candidate. -/
  | drainAgeExpiry (core : Nat) (n : Nat)
  /-- COHORT_AGE_PROMOTION (R317): A cohort ready for 128 cycles without issuing moves above class 7. -/
  | cohortAgePromotion (core : Nat) (slot : Nat)
  /-- SPILL_READBACK (R38): A spilled record that became ready is read back and binned. -/
  | spillReadback (core : Nat) (rid : Nat)
  /-- WAIT_EVENT_FIRE (R237): An event re-evaluates every record on its wait-table entry or chain. -/
  | waitEventFire (core : Nat) (rid : Nat)
  /-- L2_WATCH_EVENT (R137): A write to a watched line fires its watch and the waiters re-read. -/
  | l2WatchEvent (pa : Nat) (data : List Byte)
  /-- BURST_READ_START (R287): The engine reads a burst once the record store can take its record. -/
  | burstReadStart (core : Nat) (id : Nat)
  /-- BURST_RETURN (R285): A returning burst becomes a handler record, or fails and is marked done. -/
  | burstReturn (core : Nat) (id : Nat) (seq : Nat) (data : List Byte) (status : Nat)
  /-- BULK_OP_COMPLETE (R157): A BWRITE, BCOPY, BFILL or BDIGEST finishes its writes and sets its tag. -/
  | bulkOpComplete (core : Nat) (id : Nat) (data : List Byte) (status : Nat)
  /-- MXLW_START (R298): The latch path takes the oldest ready MXLW. -/
  | mxlwStart (core : Nat)
  /-- MXLW_COMPLETE (R292): A latch completes and the slot takes the weights, or stays unlatched. -/
  | mxlwComplete (core : Nat)
  /-- MXRUN_START (R298): The array path takes the oldest ready run or zeroing. -/
  | mxrunStart (core : Nat)
  /-- MXRUN_COMPLETE (R296): A run completes, writes or refuses, and advances the version. -/
  | mxrunComplete (core : Nat)
  /-- MXZERO_COMPLETE (R297): A zeroing completes and advances the version. -/
  | mxzeroComplete (core : Nat)
  /-- MATRIX_STALL (R439): An operation not ready for 1 ms while its path is idle is reported. -/
  | matrixStall (core : Nat) (id : Nat)
  /-- MATRIX_STALL_TERMINATE (R439): A stall of 10 ms terminates the launch. -/
  | matrixStallTerminate (core : Nat) (id : Nat)
  /-- COLL_HOP_RECEIVE (R336): A collective hop's data arrives and is combined on the fixed tree. -/
  | collHopReceive (id : Nat) (rank : Nat) (data : List Byte)
  /-- COLL_COMPLETE (R301): A collective finishes on a member and sets its tag as a .dom release. -/
  | collComplete (id : Nat)
  /-- COLL_HOP_TIMEOUT (R447): An expected hop missing for 1 ms fails the collective. -/
  | collHopTimeout (id : Nat)
  /-- COLL_ABORT (R447): An abort message finishes the member's operation with COLE and fences the communicator. -/
  | collAbort (comm : Nat) (reason : Nat)
  /-- LAUNCH_PACKET (R306): A queue slot reads the packet at the read index once WIDX passes it. -/
  | launchPacket (slot : Nat)
  /-- LAUNCH_START (R306): Once dependencies (and gang tick) are met the launch gets an id and its groves become eligible. -/
  | launchStart (slot : Nat)
  /-- BARRIER_PACKET (R305): After earlier launches retire and signals read 0, the completion signal is decremented. -/
  | barrierPacket (slot : Nat)
  /-- SIGNAL_PACKET (R305): After the dependency signals read 0, the completion signal is decremented. -/
  | signalPacket (slot : Nat)
  /-- SLICE_BOUNDARY (R311): At each slice boundary pending queues are mapped to hardware slots. -/
  | sliceBoundary
  /-- GROVE_ADMISSION (R315): A grove is admitted and placed on a core, with windows, allocations and initial records. -/
  | groveAdmission (launch : Nat)
  /-- EVICTION (R319): A waiting higher-priority launch evicts placed groves and saves their state. -/
  | evict (launch : Nat) (step : Nat)
  /-- EVICTION_OVER_BOUND (R412): An eviction unfinished at 40 µs is reported. -/
  | evictionOverBound (grove : Nat)
  /-- EVICTION_ABANDON (R412): An eviction unfinished at 1 ms terminates the launch. -/
  | evictionAbandon (grove : Nat)
  /-- GROVE_RESTORE (R321): An evicted grove is restored on a core that admits it. -/
  | groveRestore (grove : Nat) (core : Nat)
  /-- GROVE_RETIREMENT (R21): A grove retires when its strands exit and operations complete. -/
  | groveRetirement (grove : Nat)
  /-- REGISTER_SWEEP_DONE (R66): The register sweep ends and the counter restarts at 1. -/
  | registerSweepDone (core : Nat)
  /-- SP_WRAP_SWEEP_DONE (R133): The wrap sweep ends and the sweep-done event fires. -/
  | spWrapSweepDone (core : Nat)
  /-- EXPIRY_SCAN (R126): Every 512 µs granules aged 256 ticks or more are marked expired. -/
  | expiryScan (core : Nat)
  /-- SWEEPER_RENEW (R131): The sweeper renews an auto-renewed granule at half its class age. -/
  | sweeperRenew (core : Nat) (buf : Buf) (gran : Nat)
  /-- L2_CLASS_REFRESH (R132): While %lcmax is 1 the sweeper refreshes L2-class granules every 256 µs. -/
  | l2ClassRefresh (core : Nat) (buf : Buf) (gran : Nat)
  /-- WATCHDOG_EXPIRY (R409): A cohort's segment timer reaches LIMIT; report and optionally rotate. -/
  | watchdogExpiry (core : Nat) (slot : Nat)
  /-- ROTATED_IMAGE_RESTORE (R409): A rotated cohort image is restored after the waiting bins drain. -/
  | rotatedImageRestore (part : Nat)
  /-- FORMATION_STARVED (R408): A ready record not formed within 1 ms is reported. -/
  | formationStarved (core : Nat) (rid : Nat)
  /-- TRAP_DELIVERY (R375): When the frame is free a trap-handler cohort forms at TRAPENT. -/
  | trapDelivery (launch : Nat)
  /-- PAGE_WALK_COMPLETE (R113): A walk completes, fills the TLBs and fires the translation event. -/
  | pageWalkComplete (die : Nat) (n : Nat)
  /-- LOAD (R339): LOADREQ op 0 verifies and accepts a code object. -/
  | loadObject (part : Nat)
  /-- REGISTER_EXPORT (R339): LOADREQ op 1 checks the tables and registers an object for lazy export. -/
  | registerExport (part : Nat)
  /-- UNLOAD (R339): LOADREQ op 2 clears exec bits and removes exports. -/
  | unloadObject (part : Nat)
  /-- LOADER_DONE (R337): A loader request finishes, sets LOADSTS and raises vector 1. -/
  | loaderDone (part : Nat) (st : Nat) (why : Nat)
  /-- CHECKPOINT_COMPLETE (R463): All strands of a twin pair have arrived and their signatures are compared. -/
  | checkpointComplete (lead : Nat)
  /-- INVALID_INSTRUCTION (R180): A word with an unassigned S or X opcode reaches issue and raises the invalid-instruction trap at its address. -/
  | invalidInstruction (ws : List Word) (reason : Nat)
  /-- RECORD_FORWARD (R49): A ready record of a portable launch is forwarded to a lightly loaded core of the stand. -/
  | recordForward (core : Nat) (rid : Nat)
  /-- SCHEDULER_FORWARD (R312): The scheduler forwards portable records beyond the stand. -/
  | schedulerForward (core : Nat) (rid : Nat) (dest : Nat)
  /-- QDOOR (R310): A write to QDOOR marks a queue pending. -/
  | qdoor (part : Nat) (qid : Nat)
  /-- PFRZ_KILL (R406): KILL terminates every launch of the partition and thaws it. -/
  | pfrzKill (part : Nat)
  /-- PCAL_WRITE (R136): Configures the caldera; a larger SIZE thaws a frozen partition. -/
  | pcalWrite (part : Nat) (v : DWord)
  /-- FLOGCFG_WRITE (R369): Configures the fault log ring and resets HEAD, TAIL and DROPS. -/
  | flogcfgWrite (part : Nat) (v : DWord)
  /-- FLOGTAIL_WRITE (R370): Advances TAIL and clears DROPS; an overreaching write is ignored. -/
  | flogtailWrite (part : Nat) (v : DWord)
  /-- HALTSTAGE (R386): Holds the records and halts the cohorts of named stages. -/
  | haltstage (part : Nat) (launch : Nat) (arg : Nat)
  /-- RELEASE (R385): Clears HELD and resumes the halted images of named stages. -/
  | releaseStage (part : Nat) (launch : Nat) (arg : Nat)
  /-- LIST (R385): Lists the partition's halted images. -/
  | listImages (part : Nat)
  /-- READIMG (R385): Copies part of a halted image to DBGDATA. -/
  | readimg (part : Nat) (hid : Nat) (off : Nat)
  /-- WRITEIMG (R385): Copies DBGDATA into a halted image. -/
  | writeimg (part : Nat) (hid : Nat) (off : Nat)
  /-- STEP (R387): Restores an image for one issue event and halts it again. -/
  | debugStep (part : Nat) (hid : Nat)
  /-- RESUME (R385): Restores a halted image on its grove's core. -/
  | resumeImage (part : Nat) (hid : Nat)
  /-- STALEMAP (R385): Returns the stale-register map of a halted image. -/
  | stalemap (part : Nat) (hid : Nat)
  /-- DISCARD (R385): Ends the strands of a halted image. -/
  | discardImage (part : Nat) (hid : Nat)
  /-- READSP (R385): Reads scratchpad granules of a grove under the owning generation. -/
  | readsp (part : Nat) (launch : Nat) (arg : Nat)
  /-- DEMAND_REPLAY (R428): XREPLAY with ACT 0 re-walks a pending demand-fault entry. -/
  | demandReplay (part : Nat) (die : Nat) (n : Nat)
  /-- DEMAND_REFUSE (R428): XREPLAY with ACT 1 faults every strand parked on the entry. -/
  | demandRefuse (part : Nat) (die : Nat) (n : Nat)
  /-- PATROL_SCRUB (R432): The background scrub reads, corrects or poisons lines and granules. -/
  | patrolScrub (src : Nat) (ue : Bool) (loc : Nat) (line : Nat)
  /-- HOST_INBOUND_WRITE (R325): A host or peer BAR2 write is translated, checked and performed at the home. -/
  | hostInboundWrite (f : Nat) (off : Nat) (data : List Byte)
  /-- HOST_INBOUND_READ (R325): A host or peer BAR2 read is translated, checked and completed. -/
  | hostInboundRead (f : Nat) (bar : Nat) (off : Nat) (len : Nat) (tag : Nat)
  /-- OUTBOUND_HOST_TIMEOUT (R449): A device load to space 2 or 4 without completion for 10 ms fails. -/
  | outboundHostTimeout (id : Nat)
  /-- BI_SNOOP_RESPONSE (R328): A back-invalidation snoop response lets the held device write proceed. -/
  | biSnoopResponse (line : Nat)
  /-- BI_SNOOP_TIMEOUT (R452): A back-invalidation snoop without response for 10 ms is reported. -/
  | biSnoopTimeout (line : Nat)
  /-- HOST_LINK_DOWN (R451): The host link goes down; stores drop and loads fail. -/
  | hostLinkDown
  /-- HOT_RESET (R451): A hot reset or retrain restores the link and configuration space. -/
  | hotReset
  /-- VF_FLR (R451): A VF function-level reset unmaps its queues and terminates its partition's launches. -/
  | vfFlr (f : Nat)
  /-- PF_FLR (R451): A PF function-level reset terminates every partition's launches. -/
  | pfFlr
  /-- AER_ERROR (R450): The host port detects a PCIe error and logs it by class. -/
  | aerError (f : Nat) (cls : Nat) (req : Nat) (bits : DWord)
  /-- SPDM_REQUEST (R349): An SPDM request over DOE or I3C is answered. -/
  | spdmRequest (index : Nat)
  /-- FLIT_RECEIVE (R330): A Chaeri flit arrives, is CRC-checked and delivered in LSEQ order, or replay is requested. -/
  | flitReceive (port : Nat) (flit : List Byte)
  /-- PORT_RX_TIMEOUT (R442): No flit received for 10 µs takes the port down. -/
  | portRxTimeout (port : Nat)
  /-- LANE_LOSS (R442): A lost lane takes the port down. -/
  | laneLoss (port : Nat)
  /-- PORT_RETRAIN_DONE (R442): A retraining attempt ends with the port up at fewer lanes or still down. -/
  | portRetrainDone (port : Nat) (ok : Bool)
  /-- FLOW_GAP_TIMEOUT (R443): An ordered-flow gap held for 100 µs breaks the flow. -/
  | flowGapTimeout (flow : Nat)
  /-- BREAK_MESSAGE (R443): The destination delivers what it holds and both ends restart at FSEQ 0. -/
  | breakMessage (flow : Nat) (fseq : Nat)
  /-- NO_ROUTE_TIMEOUT (R443): A broken flow with no route fails its held accesses after 50 µs. -/
  | noRouteTimeout (pkg : Nat)
  /-- REMOTE_RESPONSE_TIMEOUT (R444): A remote request without response for 50 µs is resent or fails. -/
  | remoteResponseTimeout (id : Nat)
  /-- REMOTE_ATOMIC_REQUEST (R445): A target handles a remote atomic by OPID: replay, expired or performed. -/
  | remoteAtomicRequest (flow : Nat) (opid : Nat) (part : Nat) (pa : Nat) (op : Nat) (size : Nat) (key : Nat) (token : Nat) (data : List Byte) (cmp : List Byte)
  /-- TIMING_MESSAGE (R357): A timing message adjusts %tick towards the time master. -/
  | timingMessage (corr : Int)
  /-- TIME_SYNC_LOST (R358): No timing message for 10 ms; free-run, log, refuse gang launches. -/
  | timeSyncLost
  /-- POWER_GOOD (R350): Power-good starts the boot sequence. -/
  | powerGood (b : Boot)
  /-- MGMT_PACKAGE_RESET (R359): The management controller requests a package reset. -/
  | mgmtPackageReset (b : Boot)
  /-- POWER_SAMPLE (R353): Every 10 µs current and power are sampled and the clock lowered if needed. -/
  | powerSample (amps : Nat) (watts : Nat)
  /-- CLOCK_RAISE (R353): After 200 µs below 95% of limits the clock is raised. -/
  | clockRaise
  /-- THERMAL_REPORT (R355): A die reports Tj every 100 µs; %lcmax and clock may change. -/
  | thermalReport (die : Nat) (tj : Nat)
  /-- THERMAL_TRIP (R356): Tj above 105 °C stops every core, logs and resets the package. -/
  | thermalTrip (die : Nat) (tj : Nat) (b : Boot)
  /-- STAND_GATE (R354): A stand without a placed grove for 50 µs stops its clocks. -/
  | standGate (stand : Nat)
  /-- D3HOT_ENTRY (R354): The PF entering D3hot stops cores and self-refreshes HBM. -/
  | d3hotEntry
  /-- MAILBOX_ACCESS_TABLE (R346): A mailbox request changes access-table descriptors. -/
  | mailboxAccessTable (target : Nat) (master : Nat) (index : Nat) (desc : BitVec 256)
  /-- MAILBOX_KEY_LOAD (R426): A mailbox request reloads a key slot after writing back its L2 lines. -/
  | mailboxKeyLoad (slot : Nat)
  /-- FORENSIC_CHALLENGE (R433): Returns a 64-byte challenge for a forensic unlock. -/
  | forensicChallenge
  /-- FORENSIC_UNLOCK (R434): A signed unlock clears other generations and enables raw READSP. -/
  | forensicUnlock
  /-- FORENSIC_RELOCK (R434): Ends the forensic state. -/
  | forensicRelock
  /-- IFT_REQUEST (R470): A signed test package is verified and the stand taken out of service. -/
  | iftRequest
  /-- IFT_SCAN_DONE (R471): Scanning ends; failing cores are disabled and the stand returns. -/
  | iftScanDone (stand : Nat) (fails : List (Nat × Nat))
  /-- REGISTER_WRITE (R5): A write to a device register without its own row takes effect by its access code. -/
  | registerWrite (who : Nat) (n : Nat) (v : DWord)
  /-- D3HOT_EXIT (R354): The PF returns from PCIe D3hot; cores restart, HBM leaves self-refresh and scratchpads read as data 0, generation 0. -/
  | d3hotExit
  /-- POWER_REMOVED (R354): Power is removed and the package enters the Off state, losing all state. -/
  | powerRemoved
  /-- TIME_BASE_EXCHANGE (R357): Every 100 µs a package of a trained domain exchanges timing messages with the time master. -/
  | timeBaseExchange (master : Nat)
  /-- CXL_MEM_REQUEST (R328): A CXL.mem request from the host to device memory (HDM-DB) is served, or completed with an error response when outside the HDM range. -/
  | cxlMemRequest (write : Bool) (addr : Nat) (data : List Byte)
  deriving DecidableEq, Repr

end Sys2Proof
end

