-- ==== Sys2Proof/WellFormed.lean ====
section
/-! DEFINITION. Which terms of Instr stand for an encodable instruction: register and predicate numbers in range, pairs even, quads multiples of four, and only the operand combinations the spec lists. -/
namespace Sys2Proof

/-- A vector register number (R57). -/
def rOk (n : Nat) : Bool := decide (n < 512)
/-- A pair (R58). -/
def pairOk (n : Nat) : Bool := decide (n < 512) && n % 2 == 0
/-- A quad (R58). -/
def quadOk (n : Nat) : Bool := decide (n < 512) && n % 4 == 0
/-- A predicate number (R59). -/
def predOk (n : Nat) : Bool := decide (n < 16)
/-- A register, or a pair when the operand is wide. -/
def wideOk (w : Bool) (n : Nat) : Bool := decide (n < 512) && (!w || n % 2 == 0)
/-- A 6-bit register field of the S-form. -/
def s6 (n : Nat) : Bool := decide (n < 64)
/-- A 3-bit predicate field of the S-form. -/
def s3 (n : Nat) : Bool := decide (n < 8)
/-- A stride code (R68). -/
def s2 (n : Nat) : Bool := decide (n < 4)

/-- A guard of an X-form: p0 to p15, and not the reserved !p0 (R170). -/
def Guard.wf (g : Guard) : Bool := decide (g.p < 16) && !(g.p == 0 && g.neg)
/-- A guard of an S- or P-form: p0 to p7, and not !p0 (R170). -/
def Guard.wf8 (g : Guard) : Bool := decide (g.p < 8) && !(g.p == 0 && g.neg)

/-- A 32-bit source. -/
def Src.wf : Src → Bool
  | .reg n => rOk n
  | .imm _ => true
/-- A 64-bit source: a pair, or the sign-extended immediate. -/
def Src.wfPair : Src → Bool
  | .reg n => pairOk n
  | .imm _ => true
/-- A source whose immediate is a number below k. -/
def Src.wfUpto (k : Nat) : Src → Bool
  | .reg n => rOk n
  | .imm w => decide (w.toNat < k)

/-- The registers a size names (R227). -/
def Size.regs : Size → Nat
  | .b64 => 2
  | .b128 => 4
  | _ => 1
/-- A register field of a sized access (R227, R58). -/
def sizedOk (s : Size) (n : Nat) : Bool := decide (n < 512) && n % s.regs == 0
/-- The signed modifier goes with one and two bytes only (R227). -/
def sgnOk (s : Size) (sgn : Bool) : Bool := !sgn || s == .b8 || s == .b16
/-- The sizes of LDC (R257). -/
def ldcOk (s : Size) : Bool := s == .b32 || s == .b64 || s == .b128
/-- A plain access carries no scope (R177). -/
def anyOk (o : Ord) (sc : Scope) : Bool := o != .plain || sc == .core
/-- An access that may acquire (R254). -/
def acqOk (o : Ord) (sc : Scope) : Bool := anyOk o sc && (o == .plain || o == .acq)
/-- An access that may release (R255). -/
def relOk (o : Ord) (sc : Scope) : Bool := anyOk o sc && (o == .plain || o == .rel)
/-- The signedness bit is 0 with .eq and .ne (R205). -/
def ccSignOk (cc : Cc) (u : Bool) : Bool := !u || (cc != .eq && cc != .ne)
/-- The eight conditions of the S-form ICMP (R172). -/
def ccSOk (cc : Cc) (u : Bool) : Bool := !u || cc == .lt || cc == .ge
/-- .fadd is of 32 bits only (R259). -/
def faddOk (op : AtomOp) (w : Bool) : Bool := !(w && op == .fadd)

/-- The width of a format in bits (R77, R82). -/
def Fmt.width : Fmt → Nat
  | .e2m1 => 4
  | .e4m3 | .e5m2 | .e8m0 | .s8 | .u8 => 8
  | .f16 | .bf16 | .s16 | .u16 => 16
  | .f32 | .s32 | .u32 => 32
  | .f64 | .s64 | .u64 => 64
/-- The elements of a format in one register; one for 32 and 64 bits (R207, R214). -/
def Fmt.lanes (f : Fmt) : Nat := if f.width < 32 then 32 / f.width else 1
/-- A format held in a pair. -/
def Fmt.is64 (f : Fmt) : Bool := f.width == 64
/-- An integer format (R76). -/
def Fmt.isInt : Fmt → Bool
  | .s8 | .u8 | .s16 | .u16 | .s32 | .u32 | .s64 | .u64 => true
  | _ => false
/-- A destination that stochastic rounding does not reach (R213). -/
def Fmt.noSr (f : Fmt) : Bool := f.isInt || f == .e8m0
/-- The formats CVTEX extracts (R214). -/
def Fmt.extractable : Fmt → Bool
  | .f16 | .bf16 | .e4m3 | .e5m2 | .e2m1 | .e8m0 | .s8 | .u8 | .s16 | .u16 => true
  | _ => false
/-- The pairs of elements CVTPK can place in a register; none for other formats (R215). -/
def Fmt.packSlots : Fmt → Nat
  | .f16 | .bf16 => 1
  | .e4m3 | .e5m2 => 2
  | .e2m1 => 4
  | _ => 0

/-- FCLASS: a floating-point format, an element that exists, a pair for FP64 (R207). -/
def fclassOk (f : Fmt) (i a : Nat) : Bool := !f.isInt && decide (i < f.lanes) && wideOk (f == .f64) a
/-- CVTEX: an extractable format and an element that exists (R214). -/
def cvtexOk (f : Fmt) (i : Nat) : Bool := f.extractable && decide (i < f.lanes)
/-- The random operand is there only under .sr (R213, R216). -/
def srOk (m : RMS) (b : Nat) : Bool := m == .sr || b == 0
/-- CVT (R213). -/
def cvtOk (m : RMS) (src dst : Fmt) (d a b : Nat) : Bool :=
  srOk m b && !(m == .sr && dst.noSr) && (!(src.isInt && dst.isInt) || m == .rn)
    && wideOk dst.is64 d && wideOk src.is64 a
/-- CVTPK (R215). -/
def cvtpkOk (m : RMS) (dst : Fmt) (j e : Nat) : Bool := decide (j < dst.packSlots) && srOk m e
/-- MXINT8 elements go with 32 elements and an E8M0 scale only (R216, R219). -/
def elemOk (el : Elem) (bsz : Bsz) (scf : Scf) : Bool := el != .s8 || (bsz == .b32 && scf == .e8m0)

/-- A special register that fills a pair (R71). -/
def SReg.wide : SReg → Bool
  | .tick | .pc | .tags | .bcCtx | .trapimg => true
  | _ => false
/-- The assigned CSR numbers: TWININJ (R466). -/
def csrAssigned (n : Nat) : Bool := n == 0x0400

/-- The operand fields of a form of PMOV (R208). -/
def PmovForm.wf : PmovForm → Bool
  | .toReg d pa => rOk d && predOk pa
  | .toPred pd a => predOk pd && rOk a
  | .pack d => rOk d
  | .unpk a => rOk a
/-- The operand fields of a TLBINV (R276). -/
def TlbKind.wf : TlbKind → Bool
  | .va a b => pairOk a && rOk b
  | .part b => rOk b
  | .all => true
/-- The fields of a uniform slot (R173, R174). -/
def USlot.wf (u : USlot) : Bool :=
  s6 u.d && s6 u.a && s6 u.b &&
  (match u.op with
   | .nop => u.d == 0 && u.a == 0 && u.b == 0
   | .mov => u.b == 0
   | .iadd64 => u.d % 2 == 0 && u.a % 2 == 0 && u.b % 2 == 0
   | .lea => u.d % 2 == 0 && u.a % 2 == 0
   | .icmpLt | .icmpEq => predOk u.d
   | _ => true)
/-- The fields of a vector slot (R173, R174). -/
def VSlot.wf (v : VSlot) : Bool :=
  rOk v.d && rOk v.a && rOk v.b &&
  (match v.op with
   | .nop => v.d == 0 && v.a == 0 && v.b == 0
   | .mov => v.b == 0
   | .icmpLt | .fcmpLt => predOk v.d
   | _ => true)


/-- The instruction can be encoded: what the decoder accepts, said on the term. Events have no encoding and their operands are not limited here. -/
def Instr.wf : Instr → Bool
  | .nopS g => g.wf8
  | .movS g d a => g.wf8 && s6 d && s6 a
  | .iaddS g d a b => g.wf8 && s6 d && s6 a && s6 b
  | .isubS g d a b => g.wf8 && s6 d && s6 a && s6 b
  | .imulS g d a b => g.wf8 && s6 d && s6 a && s6 b
  | .andS g d a b => g.wf8 && s6 d && s6 a && s6 b
  | .orS g d a b => g.wf8 && s6 d && s6 a && s6 b
  | .xorS g d a b => g.wf8 && s6 d && s6 a && s6 b
  | .shlS g d a b => g.wf8 && s6 d && s6 a && s6 b
  | .shrS g d a b => g.wf8 && s6 d && s6 a && s6 b
  | .icmpS g pd a b cc u => g.wf8 && s3 pd && s6 a && s6 b && ccSOk cc u
  | .faddS g d a b => g.wf8 && s6 d && s6 a && s6 b
  | .fsubS g d a b => g.wf8 && s6 d && s6 a && s6 b
  | .fmulS g d a b => g.wf8 && s6 d && s6 a && s6 b
  | .braS g _ => g.wf8
  | .exitS g => g.wf8
  | .repS count sd sa sb => s6 count && s2 sd && s2 sa && s2 sb
  | .waittS g _ mask => g.wf8 && mask != 0
  | .waitcS g _ n => g.wf8 && s6 n
  | .ldS g d a off => g.wf8 && s6 d && s6 a && s6 off && a % 2 == 0
  | .stS g d a off => g.wf8 && s6 d && s6 a && s6 off && a % 2 == 0
  | .aldS g d a off => g.wf8 && s6 d && s6 a && s6 off
  | .astS g d a off => g.wf8 && s6 d && s6 a && s6 off
  | .movsS g d x => g.wf8 && s6 d && (!x.wide || d % 2 == 0)
  | .pformPair g u v => g.wf8 && u.wf && v.wf
  | .nop g => g.wf
  | .mov g d a => g.wf && rOk d && rOk a
  | .movi g d _ => g.wf && rOk d
  | .moviLit g d _ => g.wf && pairOk d
  | .iadd g d a b sat u => g.wf && rOk d && rOk a && b.wf && (sat || !u)
  | .isub g d a b sat u => g.wf && rOk d && rOk a && b.wf && (sat || !u)
  | .imul g d a b => g.wf && rOk d && rOk a && b.wf
  | .imulh g d a b _ => g.wf && rOk d && rOk a && b.wf
  | .imad g d a b c => g.wf && rOk d && rOk a && b.wf && rOk c
  | .imin g d a b _ => g.wf && rOk d && rOk a && b.wf
  | .imax g d a b _ => g.wf && rOk d && rOk a && b.wf
  | .iabs g d a _ => g.wf && rOk d && rOk a
  | .ineg g d a _ => g.wf && rOk d && rOk a
  | .and g d a b => g.wf && rOk d && rOk a && b.wf
  | .or g d a b => g.wf && rOk d && rOk a && b.wf
  | .xor g d a b => g.wf && rOk d && rOk a && b.wf
  | .andn g d a b => g.wf && rOk d && rOk a && b.wf
  | .not g d a => g.wf && rOk d && rOk a
  | .shl g d a b => g.wf && rOk d && rOk a && b.wf
  | .shr g d a b => g.wf && rOk d && rOk a && b.wf
  | .sar g d a b => g.wf && rOk d && rOk a && b.wf
  | .popc g d a => g.wf && rOk d && rOk a
  | .clz g d a => g.wf && rOk d && rOk a
  | .ctz g d a => g.wf && rOk d && rOk a
  | .brev g d a => g.wf && rOk d && rOk a
  | .bfx g d a b _ => g.wf && rOk d && rOk a && b.wf
  | .bfi g d a b c => g.wf && rOk d && rOk a && b.wf && rOk c
  | .sel g d a b pc => g.wf && rOk d && rOk a && b.wf && predOk pc
  | .iadd64 g d a b => g.wf && pairOk d && pairOk a && b.wfPair
  | .iadd64Lit g d a _ => g.wf && pairOk d && pairOk a
  | .isub64 g d a b => g.wf && pairOk d && pairOk a && b.wfPair
  | .isub64Lit g d a _ => g.wf && pairOk d && pairOk a
  | .imul64 g d a b => g.wf && pairOk d && pairOk a && b.wfPair
  | .imul64Lit g d a _ => g.wf && pairOk d && pairOk a
  | .shl64 g d a b => g.wf && pairOk d && pairOk a && b.wf
  | .shr64 g d a b _ => g.wf && pairOk d && pairOk a && b.wf
  | .lea g d a b _ sh => g.wf && pairOk d && pairOk a && b.wf && decide (sh < 8)
  | .imulw g d a b _ => g.wf && pairOk d && rOk a && b.wf
  | .imadw g d a b c _ => g.wf && pairOk d && rOk a && b.wf && pairOk c
  | .icmp g pd a b cc u => g.wf && predOk pd && rOk a && b.wf && ccSignOk cc u
  | .icmp64 g pd a b cc u => g.wf && predOk pd && pairOk a && b.wfPair && ccSignOk cc u
  | .icmp64Lit g pd a cc u _ => g.wf && predOk pd && pairOk a && ccSignOk cc u
  | .fcmp g pd a b _ _ => g.wf && predOk pd && rOk a && b.wf
  | .fclass g d a fmt laneIx => g.wf && rOk d && rOk a && fclassOk fmt laneIx a
  | .pand g pd pa pb => g.wf && predOk pd && predOk pa && predOk pb
  | .por g pd pa pb => g.wf && predOk pd && predOk pa && predOk pb
  | .pxor g pd pa pb => g.wf && predOk pd && predOk pa && predOk pb
  | .pnot g pd pa => g.wf && predOk pd && predOk pa
  | .pmov g f => g.wf && f.wf
  | .pset g pd _ => g.wf && predOk pd
  | .fadd g d a b _ => g.wf && rOk d && rOk a && b.wf
  | .fsub g d a b _ => g.wf && rOk d && rOk a && b.wf
  | .fmul g d a b _ => g.wf && rOk d && rOk a && b.wf
  | .ffma g d a b c _ => g.wf && rOk d && rOk a && b.wf && rOk c
  | .fmin g d a b => g.wf && rOk d && rOk a && b.wf
  | .fmax g d a b => g.wf && rOk d && rOk a && b.wf
  | .fabs g d a => g.wf && rOk d && rOk a
  | .fneg g d a => g.wf && rOk d && rOk a
  | .frcp g d a => g.wf && rOk d && rOk a
  | .frsq g d a => g.wf && rOk d && rOk a
  | .fsqrt g d a _ => g.wf && rOk d && rOk a
  | .fdiv g d a b _ => g.wf && rOk d && rOk a && b.wf
  | .fexp2 g d a => g.wf && rOk d && rOk a
  | .flog2 g d a => g.wf && rOk d && rOk a
  | .fsin g d a => g.wf && rOk d && rOk a
  | .fcos g d a => g.wf && rOk d && rOk a
  | .ftanh g d a => g.wf && rOk d && rOk a
  | .frint g d a _ => g.wf && rOk d && rOk a
  | .hadd2 g d a b _ _ => g.wf && rOk d && rOk a && b.wf
  | .hmul2 g d a b _ _ => g.wf && rOk d && rOk a && b.wf
  | .hfma2 g d a b c _ _ => g.wf && rOk d && rOk a && b.wf && rOk c
  | .hmin2 g d a b _ => g.wf && rOk d && rOk a && b.wf
  | .hmax2 g d a b _ => g.wf && rOk d && rOk a && b.wf
  | .dadd g d a b _ => g.wf && pairOk d && pairOk a && pairOk b
  | .daddLit g d a _ _ => g.wf && pairOk d && pairOk a
  | .dmul g d a b _ => g.wf && pairOk d && pairOk a && pairOk b
  | .dmulLit g d a _ _ => g.wf && pairOk d && pairOk a
  | .dfma g d a b c _ => g.wf && pairOk d && pairOk a && pairOk b && pairOk c
  | .dfmaLit g d a c _ _ => g.wf && pairOk d && pairOk a && pairOk c
  | .fscale g d a b _ => g.wf && rOk d && rOk a && b.wf
  | .cvt g d a b m _ src dst => g.wf && rOk d && rOk a && rOk b && cvtOk m src dst d a b
  | .cvtpk g d a b c e m _ dst j => g.wf && rOk d && rOk a && rOk b && rOk c && rOk e && cvtpkOk m dst j e
  | .cvtex g d a fmt laneIx => g.wf && rOk d && rOk a && cvtexOk fmt laneIx
  | .qblk g d e a b m _ el bsz scf => g.wf && rOk d && rOk e && rOk a && rOk b && elemOk el bsz scf && srOk m b
  | .dqblk g d a e el bsz scf => g.wf && rOk d && rOk a && rOk e && elemOk el bsz scf
  | .vdot4 g d a b c _ _ => g.wf && rOk d && rOk a && b.wf && rOk c
  | .vdotb g d a b c e ea eb bsz scf => g.wf && rOk d && rOk a && rOk b && rOk c && rOk e && elemOk ea bsz scf && elemOk eb bsz scf
  | .bppack g d a => g.wf && rOk d && rOk a
  | .bpunpk g d a k _ => g.wf && rOk d && rOk a && decide (1 ≤ k ∧ k ≤ 8)
  | .vote g mode d pa => g.wf && (match mode with | .ballot => rOk d | _ => predOk d) && predOk pa
  | .shfl g d a b _ => g.wf && rOk d && rOk a && b.wf
  | .red g d a _ => g.wf && rOk d && rOk a
  | .scan g d a _ _ => g.wf && rOk d && rOk a
  | .elect g pd => g.wf && predOk pd
  | .matchAny g d a w => g.wf && rOk d && rOk a && wideOk w a
  | .bra g _ => g.wf
  | .brx g a => g.wf && pairOk a
  | .call g d _ => g.wf && pairOk d
  | .callx g d a => g.wf && pairOk d && pairOk a
  | .ret g a => g.wf && pairOk a
  | .exit g => g.wf
  | .trap g n => g.wf && decide (n < 4096)
  | .brk g n => g.wf && decide (n < 4096)
  | .yield g => g.wf
  | .rep count sd sa sb sc se => decide (count < 256) && decide (sd < 4) && decide (sa < 4) && decide (sb < 4) && decide (sc < 4) && decide (se < 4)
  | .waitt g _ a => g.wf && a.wfPair
  | .waitv g a b => g.wf && rOk a && b.wf && b.wfUpto 65536
  | .waitc g _ n => g.wf && decide (n < 64)
  | .ffr g pc d a => g.wf && predOk pc && rOk d && a.wfPair
  | .tclr g a => g.wf && a.wfPair
  | .spawn g _ a n => g.wf && rOk a && decide (n ≤ 16) && (n != 0 || a == 0)
  | .barinit g a _ b => g.wf && rOk a && rOk b
  | .bararr g d a _ => g.wf && rOk d && rOk a
  | .barwait g a _ b => g.wf && rOk a && rOk b
  | .fwait g d a _ cellA _ => g.wf && pairOk d && rOk a && wideOk (!cellA) a
  | .ffill g d a _ b cellA _ => g.wf && rOk d && rOk a && pairOk b && wideOk (!cellA) a
  | .freset g a _ cellA _ => g.wf && rOk a && wideOk (!cellA) a
  | .parkw g a _ b c _ w ord sc => g.wf && pairOk a && rOk b && rOk c && wideOk w b && wideOk w c && acqOk ord sc
  | .ld g d a _ size sgn ord sc _ => g.wf && sizedOk size d && pairOk a && sgnOk size sgn && acqOk ord sc
  | .st g d a _ size ord sc _ => g.wf && sizedOk size d && pairOk a && relOk ord sc
  | .ldu g d a _ size sgn ord sc => g.wf && sizedOk size d && pairOk a && sgnOk size sgn && acqOk ord sc
  | .atom g d a _ b op w _ ord sc => g.wf && rOk d && pairOk a && rOk b && wideOk w d && wideOk w b && faddOk op w && anyOk ord sc
  | .atomcas g d a _ b c w _ ord sc => g.wf && rOk d && pairOk a && rOk b && rOk c && wideOk w d && wideOk w b && wideOk w c && anyOk ord sc
  | .atomn g a _ b op w _ ord sc => g.wf && pairOk a && rOk b && wideOk w b && faddOk op w && relOk ord sc
  | .fence g _ _ => g.wf
  | .wld g d a _ size sgn => g.wf && sizedOk size d && rOk a && sgnOk size sgn
  | .wst g d a _ size => g.wf && sizedOk size d && rOk a
  | .ald g d a _ size sgn => g.wf && sizedOk size d && rOk a && sgnOk size sgn
  | .ast g d a _ size => g.wf && sizedOk size d && rOk a
  | .cld g d a _ size sgn => g.wf && sizedOk size d && rOk a && sgnOk size sgn
  | .cst g d a _ size => g.wf && sizedOk size d && rOk a
  | .ldc g d _ size => g.wf && sizedOk size d && ldcOk size
  | .pref g a _ _ => g.wf && pairOk a
  | .spalloc g d b _ _ _ _ => g.wf && rOk d && b.wf
  | .spfree g a _ => g.wf && rOk a
  | .sprenew g a b _ => g.wf && rOk a && b.wf
  | .spstat g d a _ => g.wf && rOk d && rOk a
  | .spclear g a _ => g.wf && rOk a
  | .bread g pd a b tag => g.wf && predOk pd && rOk a && pairOk b && decide (tag < 64)
  | .bwrite g pd a tag _ => g.wf && predOk pd && rOk a && decide (tag < 64)
  | .bcopy g pd a tag _ => g.wf && predOk pd && rOk a && decide (tag < 64)
  | .bfill g pd a tag _ => g.wf && predOk pd && rOk a && decide (tag < 64)
  | .bdigest g pd a tag => g.wf && predOk pd && rOk a && decide (tag < 64)
  | .bstat g d a => g.wf && rOk d && a.wf && a.wfUpto 64
  | .mxlw g pd a => g.wf && predOk pd && rOk a
  | .mxrun g pd a => g.wf && predOk pd && rOk a
  | .mxzero g pd a => g.wf && predOk pd && rOk a
  | .mxver g d a => g.wf && rOk d && rOk a
  | .mxhnd g d a b => g.wf && rOk d && rOk a && rOk b
  | .mxrel g a => g.wf && rOk a
  | .coll g pd a tag => g.wf && predOk pd && rOk a && decide (tag < 64)
  | .movs g d x => g.wf && wideOk x.wide d
  | .movsw g x a => g.wf && rOk a && x == .fault
  | .regset g d n b => g.wf && rOk d && decide (1 ≤ n ∧ n ≤ 512) && b.wf
  | .shp g d a => g.wf && rOk d && rOk a
  | .uni g d a => g.wf && rOk d && rOk a
  | .ckpt g => g.wf
  | .tret g => g.wf
  | .cinv g _ a _ b => g.wf && pairOk a && rOk b
  | .tlbinv g k _ => g.wf && k.wf
  | .csrr g d csr => g.wf && pairOk d && csrAssigned csr
  | .csrw g csr a => g.wf && csrAssigned csr && pairOk a
  | .halt g => g.wf
  | .stubEntry => true
  | .stubBind => true
  | .parkmapFetchDone _ _ => true
  | .resultLanding _ _ _ => true
  | .storePerformed _ => true
  | .atomicAtHome _ _ => true
  | .sprenewComplete _ => true
  | .cinvComplete _ => true
  | .tlbinvComplete _ => true
  | .cohortFormation _ _ => true
  | .drainAgeExpiry _ _ => true
  | .cohortAgePromotion _ _ => true
  | .spillReadback _ _ => true
  | .recordForward _ _ => true
  | .schedulerForward _ _ _ => true
  | .waitEventFire _ _ => true
  | .l2WatchEvent _ _ => true
  | .burstReadStart _ _ => true
  | .burstReturn _ _ _ _ _ => true
  | .bulkOpComplete _ _ _ _ => true
  | .mxlwStart _ => true
  | .mxlwComplete _ => true
  | .mxrunStart _ => true
  | .mxrunComplete _ => true
  | .mxzeroComplete _ => true
  | .matrixStall _ _ => true
  | .matrixStallTerminate _ _ => true
  | .collHopReceive _ _ _ => true
  | .collComplete _ => true
  | .collHopTimeout _ => true
  | .collAbort _ _ => true
  | .launchPacket _ => true
  | .launchStart _ => true
  | .barrierPacket _ => true
  | .signalPacket _ => true
  | .sliceBoundary => true
  | .qdoor _ _ => true
  | .groveAdmission _ => true
  | .evict _ _ => true
  | .evictionOverBound _ => true
  | .evictionAbandon _ => true
  | .groveRestore _ _ => true
  | .groveRetirement _ => true
  | .registerSweepDone _ => true
  | .spWrapSweepDone _ => true
  | .expiryScan _ => true
  | .sweeperRenew _ _ _ => true
  | .l2ClassRefresh _ _ _ => true
  | .watchdogExpiry _ _ => true
  | .rotatedImageRestore _ => true
  | .formationStarved _ _ => true
  | .pfrzKill _ => true
  | .pcalWrite _ _ => true
  | .trapDelivery _ => true
  | .flogcfgWrite _ _ => true
  | .flogtailWrite _ _ => true
  | .haltstage _ _ _ => true
  | .releaseStage _ _ _ => true
  | .listImages _ => true
  | .readimg _ _ _ => true
  | .writeimg _ _ _ => true
  | .debugStep _ _ => true
  | .resumeImage _ _ => true
  | .stalemap _ _ => true
  | .discardImage _ _ => true
  | .readsp _ _ _ => true
  | .demandReplay _ _ _ => true
  | .demandRefuse _ _ _ => true
  | .pageWalkComplete _ _ => true
  | .patrolScrub _ _ _ _ => true
  | .hostInboundWrite _ _ _ => true
  | .hostInboundRead _ _ _ _ _ => true
  | .outboundHostTimeout _ => true
  | .biSnoopResponse _ => true
  | .biSnoopTimeout _ => true
  | .hostLinkDown => true
  | .hotReset => true
  | .vfFlr _ => true
  | .pfFlr => true
  | .aerError _ _ _ _ => true
  | .spdmRequest _ => true
  | .flitReceive _ _ => true
  | .portRxTimeout _ => true
  | .laneLoss _ => true
  | .portRetrainDone _ _ => true
  | .flowGapTimeout _ => true
  | .breakMessage _ _ => true
  | .noRouteTimeout _ => true
  | .remoteResponseTimeout _ => true
  | .remoteAtomicRequest _ _ _ _ _ _ _ _ _ _ => true
  | .timingMessage _ => true
  | .timeSyncLost => true
  | .powerGood _ => true
  | .mgmtPackageReset _ => true
  | .powerSample _ _ => true
  | .clockRaise => true
  | .thermalReport _ _ => true
  | .thermalTrip _ _ _ => true
  | .standGate _ => true
  | .d3hotEntry => true
  | .loadObject _ => true
  | .registerExport _ => true
  | .unloadObject _ => true
  | .loaderDone _ _ _ => true
  | .mailboxAccessTable _ _ _ _ => true
  | .mailboxKeyLoad _ => true
  | .forensicChallenge => true
  | .forensicUnlock => true
  | .forensicRelock => true
  | .iftRequest => true
  | .iftScanDone _ _ => true
  | .checkpointComplete _ => true
  | .registerWrite _ _ _ => true
  | .invalidInstruction _ _ => true
  | .d3hotExit => true
  | .powerRemoved => true
  | .timeBaseExchange _ => true
  | .cxlMemRequest _ _ _ => true

end Sys2Proof
end

