-- ==== Sys2Proof/Decode.lean ====
section
/-! DEFINITION. The decoder of 07 (R168-R181), total on any bytes and rejecting with the reason of R390, and the encoder written from the same tables. Layer one reads the fields of a word, layer two reads an instruction from its fields. -/
namespace Sys2Proof

/-- The code of a value of RM. -/
def RM.code : RM → Nat
  | .rn => 0
  | .rz => 1
  | .ru => 2
  | .rd => 3
/-- The RM of a code; the decoder has refused every other code. -/
def RM.dec : Nat → RM
  | 0 => .rn
  | 1 => .rz
  | 2 => .ru
  | _ => .rd

/-- The code of a value of RMS. -/
def RMS.code : RMS → Nat
  | .rn => 0
  | .rz => 1
  | .ru => 2
  | .rd => 3
  | .sr => 4
/-- The RMS of a code; the decoder has refused every other code. -/
def RMS.dec : Nat → RMS
  | 0 => .rn
  | 1 => .rz
  | 2 => .ru
  | 3 => .rd
  | _ => .sr

/-- The code of a value of Cc. -/
def Cc.code : Cc → Nat
  | .eq => 0
  | .ne => 1
  | .lt => 2
  | .le => 3
  | .gt => 4
  | .ge => 5
/-- The Cc of a code; the decoder has refused every other code. -/
def Cc.dec : Nat → Cc
  | 0 => .eq
  | 1 => .ne
  | 2 => .lt
  | 3 => .le
  | 4 => .gt
  | _ => .ge

/-- The code of a value of Scope. -/
def Scope.code : Scope → Nat
  | .core => 0
  | .die => 1
  | .pkg => 2
  | .dom => 3
  | .sys => 4
/-- The Scope of a code; the decoder has refused every other code. -/
def Scope.dec : Nat → Scope
  | 0 => .core
  | 1 => .die
  | 2 => .pkg
  | 3 => .dom
  | _ => .sys

/-- The code of a value of Size. -/
def Size.code : Size → Nat
  | .b32 => 0
  | .b8 => 1
  | .b16 => 2
  | .b64 => 3
  | .b128 => 4
/-- The Size of a code; the decoder has refused every other code. -/
def Size.dec : Nat → Size
  | 0 => .b32
  | 1 => .b8
  | 2 => .b16
  | 3 => .b64
  | _ => .b128

/-- The code of a value of CClass. -/
def CClass.code : CClass → Nat
  | .ld => 0
  | .st => 1
  | .bk => 2
  | .mx => 3
  | .cl => 4
/-- The CClass of a code; the decoder has refused every other code. -/
def CClass.dec : Nat → CClass
  | 0 => .ld
  | 1 => .st
  | 2 => .bk
  | 3 => .mx
  | _ => .cl

/-- The code of a value of Hint. -/
def Hint.code : Hint → Nat
  | .dflt => 0
  | .nl1 => 1
  | .ev => 2
/-- The Hint of a code; the decoder has refused every other code. -/
def Hint.dec : Nat → Hint
  | 0 => .dflt
  | 1 => .nl1
  | _ => .ev

/-- The code of a value of Buf. -/
def Buf.code : Buf → Nat
  | .w => 0
  | .a => 1
  | .c => 2
/-- The Buf of a code; the decoder has refused every other code. -/
def Buf.dec : Nat → Buf
  | 0 => .w
  | 1 => .a
  | _ => .c

/-- The code of a value of LClass. -/
def LClass.code : LClass → Nat
  | .l0 => 0
  | .l1 => 1
  | .l2 => 2
/-- The LClass of a code; the decoder has refused every other code. -/
def LClass.dec : Nat → LClass
  | 0 => .l0
  | 1 => .l1
  | _ => .l2

/-- The code of a value of AtomOp. -/
def AtomOp.code : AtomOp → Nat
  | .add => 0
  | .min => 1
  | .minU => 2
  | .max => 3
  | .maxU => 4
  | .and => 5
  | .or => 6
  | .xor => 7
  | .xchg => 8
  | .fadd => 9
/-- The AtomOp of a code; the decoder has refused every other code. -/
def AtomOp.dec : Nat → AtomOp
  | 0 => .add
  | 1 => .min
  | 2 => .minU
  | 3 => .max
  | 4 => .maxU
  | 5 => .and
  | 6 => .or
  | 7 => .xor
  | 8 => .xchg
  | _ => .fadd

/-- The code of a value of ShflMode. -/
def ShflMode.code : ShflMode → Nat
  | .idx => 0
  | .up => 1
  | .down => 2
  | .xor => 3
/-- The ShflMode of a code; the decoder has refused every other code. -/
def ShflMode.dec : Nat → ShflMode
  | 0 => .idx
  | 1 => .up
  | 2 => .down
  | _ => .xor

/-- The code of a value of VoteMode. -/
def VoteMode.code : VoteMode → Nat
  | .any => 0
  | .all => 1
  | .ballot => 2
/-- The VoteMode of a code; the decoder has refused every other code. -/
def VoteMode.dec : Nat → VoteMode
  | 0 => .any
  | 1 => .all
  | _ => .ballot

/-- The code of a value of RedOp. -/
def RedOp.code : RedOp → Nat
  | .add => 0
  | .and => 1
  | .or => 2
  | .xor => 3
  | .minS => 4
  | .minU => 5
  | .maxS => 6
  | .maxU => 7
  | .fadd => 8
  | .fmin => 9
  | .fmax => 10
/-- The RedOp of a code; the decoder has refused every other code. -/
def RedOp.dec : Nat → RedOp
  | 0 => .add
  | 1 => .and
  | 2 => .or
  | 3 => .xor
  | 4 => .minS
  | 5 => .minU
  | 6 => .maxS
  | 7 => .maxU
  | 8 => .fadd
  | 9 => .fmin
  | _ => .fmax

/-- The code of a value of Fmt. -/
def Fmt.code : Fmt → Nat
  | .f32 => 0
  | .f16 => 1
  | .bf16 => 2
  | .f64 => 3
  | .e4m3 => 4
  | .e5m2 => 5
  | .e2m1 => 6
  | .e8m0 => 7
  | .s8 => 8
  | .u8 => 9
  | .s16 => 10
  | .u16 => 11
  | .s32 => 12
  | .u32 => 13
  | .s64 => 14
  | .u64 => 15
/-- The Fmt of a code; the decoder has refused every other code. -/
def Fmt.dec : Nat → Fmt
  | 0 => .f32
  | 1 => .f16
  | 2 => .bf16
  | 3 => .f64
  | 4 => .e4m3
  | 5 => .e5m2
  | 6 => .e2m1
  | 7 => .e8m0
  | 8 => .s8
  | 9 => .u8
  | 10 => .s16
  | 11 => .u16
  | 12 => .s32
  | 13 => .u32
  | 14 => .s64
  | _ => .u64

/-- The code of a value of Bsz. -/
def Bsz.code : Bsz → Nat
  | .b8 => 0
  | .b16 => 1
  | .b32 => 2
/-- The Bsz of a code; the decoder has refused every other code. -/
def Bsz.dec : Nat → Bsz
  | 0 => .b8
  | 1 => .b16
  | _ => .b32

/-- The code of a value of Scf. -/
def Scf.code : Scf → Nat
  | .e8m0 => 0
  | .e5m2 => 1
  | .e4m3 => 2
/-- The Scf of a code; the decoder has refused every other code. -/
def Scf.dec : Nat → Scf
  | 0 => .e8m0
  | 1 => .e5m2
  | _ => .e4m3

/-- The code of a value of SReg. -/
def SReg.code : SReg → Nat
  | .laneid => 0x00
  | .nlanes => 0x01
  | .width => 0x02
  | .strand => 0x03
  | .nstrand => 0x04
  | .groveX => 0x05
  | .groveY => 0x06
  | .groveZ => 0x07
  | .ngroveX => 0x08
  | .ngroveY => 0x09
  | .ngroveZ => 0x0A
  | .stage => 0x0B
  | .launch => 0x0C
  | .core => 0x0D
  | .stand => 0x0E
  | .die => 0x0F
  | .pkg => 0x10
  | .tick => 0x11
  | .pc => 0x12
  | .cnt => 0x13
  | .tags => 0x14
  | .bcRow => 0x15
  | .bcCol => 0x16
  | .bcSeq => 0x17
  | .bcLen => 0x18
  | .bcOp => 0x19
  | .bcCtx => 0x1A
  | .repc => 0x1B
  | .allot => 0x1C
  | .gen => 0x1D
  | .lcmax => 0x1E
  | .trapimg => 0x1F
  | .fault => 0x20
  | .twin => 0x21
/-- The SReg of a code; the decoder has refused every other code. -/
def SReg.dec : Nat → SReg
  | 0x00 => .laneid
  | 0x01 => .nlanes
  | 0x02 => .width
  | 0x03 => .strand
  | 0x04 => .nstrand
  | 0x05 => .groveX
  | 0x06 => .groveY
  | 0x07 => .groveZ
  | 0x08 => .ngroveX
  | 0x09 => .ngroveY
  | 0x0A => .ngroveZ
  | 0x0B => .stage
  | 0x0C => .launch
  | 0x0D => .core
  | 0x0E => .stand
  | 0x0F => .die
  | 0x10 => .pkg
  | 0x11 => .tick
  | 0x12 => .pc
  | 0x13 => .cnt
  | 0x14 => .tags
  | 0x15 => .bcRow
  | 0x16 => .bcCol
  | 0x17 => .bcSeq
  | 0x18 => .bcLen
  | 0x19 => .bcOp
  | 0x1A => .bcCtx
  | 0x1B => .repc
  | 0x1C => .allot
  | 0x1D => .gen
  | 0x1E => .lcmax
  | 0x1F => .trapimg
  | 0x20 => .fault
  | _ => .twin

/-- The code of a value of UOp. -/
def UOp.code : UOp → Nat
  | .nop => 0
  | .mov => 1
  | .iadd => 2
  | .isub => 3
  | .imul => 4
  | .imad => 5
  | .and => 6
  | .or => 7
  | .xor => 8
  | .shl => 9
  | .shr => 10
  | .iadd64 => 11
  | .lea => 12
  | .icmpLt => 13
  | .icmpEq => 14
  | .imin => 15
  | .imax => 16
/-- The UOp of a code; the decoder has refused every other code. -/
def UOp.dec : Nat → UOp
  | 0 => .nop
  | 1 => .mov
  | 2 => .iadd
  | 3 => .isub
  | 4 => .imul
  | 5 => .imad
  | 6 => .and
  | 7 => .or
  | 8 => .xor
  | 9 => .shl
  | 10 => .shr
  | 11 => .iadd64
  | 12 => .lea
  | 13 => .icmpLt
  | 14 => .icmpEq
  | 15 => .imin
  | _ => .imax

/-- The code of a value of VOp. -/
def VOp.code : VOp → Nat
  | .nop => 0
  | .mov => 1
  | .iadd => 2
  | .isub => 3
  | .imul => 4
  | .imad => 5
  | .imin => 6
  | .imax => 7
  | .and => 8
  | .or => 9
  | .xor => 10
  | .shl => 11
  | .shr => 12
  | .icmpLt => 13
  | .fcmpLt => 14
  | .fadd => 15
  | .fsub => 16
  | .fmul => 17
  | .ffma => 18
  | .fmin => 19
  | .fmax => 20
  | .hfma2 => 21
  | .ald => 22
  | .ast => 23
  | .vdot4 => 24
/-- The VOp of a code; the decoder has refused every other code. -/
def VOp.dec : Nat → VOp
  | 0 => .nop
  | 1 => .mov
  | 2 => .iadd
  | 3 => .isub
  | 4 => .imul
  | 5 => .imad
  | 6 => .imin
  | 7 => .imax
  | 8 => .and
  | 9 => .or
  | 10 => .xor
  | 11 => .shl
  | 12 => .shr
  | 13 => .icmpLt
  | 14 => .fcmpLt
  | 15 => .fadd
  | 16 => .fsub
  | 17 => .fmul
  | 18 => .ffma
  | 19 => .fmin
  | 20 => .fmax
  | 21 => .hfma2
  | 22 => .ald
  | 23 => .ast
  | _ => .vdot4

/-- Bit [30] of an ordering kind (R177). -/
def Ord.lo : Ord → Bool
  | .acq | .acqrel => true
  | _ => false
/-- Bit [31] of an ordering kind (R177). -/
def Ord.hi : Ord → Bool
  | .rel | .acqrel => true
  | _ => false
/-- The ordering kind of bits [31:30]. -/
def Ord.dec : Nat → Ord
  | 0 => .plain
  | 1 => .acq
  | 2 => .rel
  | _ => .acqrel
/-- Bit [30] of a fence kind (R262). -/
def FenceKind.lo : FenceKind → Bool
  | .acq | .acqrel => true
  | _ => false
/-- Bit [31] of a fence kind (R262). -/
def FenceKind.hi : FenceKind → Bool
  | .rel | .acqrel => true
  | _ => false
/-- The fence kind of bits [31:30]. -/
def FenceKind.dec : Nat → FenceKind
  | 0 => .sc
  | 1 => .acq
  | 2 => .rel
  | _ => .acqrel
/-- The low bit of a lifetime class, word 0 [28] (R266). -/
def LClass.lo : LClass → Nat
  | .l1 => 1
  | _ => 0
/-- The high bit of a lifetime class, word 0 [29] (R266). -/
def LClass.hi : LClass → Bool
  | .l2 => true
  | _ => false
/-- The format code of a block element (R84, R216). -/
def Elem.code : Elem → Nat
  | .e4m3 => 4 | .e5m2 => 5 | .e2m1 => 6 | .s8 => 8
/-- The block element of a format code. -/
def Elem.dec : Nat → Elem
  | 4 => .e4m3 | 5 => .e5m2 | 6 => .e2m1 | _ => .s8
/-- The element codes that are accepted. -/
def Elem.valid (n : Nat) : Bool := n == 4 || n == 5 || n == 6 || n == 8
/-- The scope field of a CINV (R275). -/
def CinvKind.code : CinvKind → Nat
  | .i sc => sc.code
  | .d => 0
/-- M1 of a CINV (R275). -/
def CinvKind.isD : CinvKind → Bool
  | .i _ => false
  | .d => true
/-- The kind of a TLBINV, word 0 [27:26] (R276). -/
def TlbKind.code : TlbKind → Nat
  | .va _ _ => 0
  | .part _ => 1
  | .all => 2
/-- Field a of a TLBINV. -/
def TlbKind.fieldA : TlbKind → Nat
  | .va a _ => a
  | _ => 0
/-- Field b of a TLBINV. -/
def TlbKind.fieldB : TlbKind → Nat
  | .va _ b => b
  | .part b => b
  | .all => 0
/-- The register field of a source; 0 beside an immediate (R198). -/
def Src.field : Src → Nat
  | .reg n => n
  | .imm _ => 0
/-- The I bit of a source (R197). -/
def Src.isImm : Src → Bool
  | .reg _ => false
  | .imm _ => true
/-- Word 2 of a source. -/
def Src.word : Src → Nat
  | .reg _ => 0
  | .imm w => w.toNat

/-- The S-form condition code of a condition and its signedness (R172, R205). -/
def ccCode : Cc → Bool → Nat
  | .eq, _ => 0
  | .ne, _ => 1
  | .lt, false => 2
  | .le, _ => 3
  | .gt, _ => 4
  | .ge, false => 5
  | .lt, true => 6
  | .ge, true => 7
/-- The condition of an S-form code (R205). -/
def ccOf : Nat → Cc
  | 0 => .eq | 1 => .ne | 2 => .lt | 3 => .le | 4 => .gt | 5 => .ge | 6 => .lt | _ => .ge
/-- The unsigned bit of an S-form code (R205). -/
def ccU (n : Nat) : Bool := decide (6 ≤ n)

/-- The register alignment of a size code (R227). -/
def regAlign : Nat → Nat
  | 3 => 2
  | 4 => 4
  | _ => 1
/-- An odd register number. -/
def odd (n : Nat) : Bool := n % 2 == 1

/-- The fields of an S-form word (R171). -/
structure RawS where
  gp : Nat := 0
  gn : Bool := false
  op : Nat
  d : Nat := 0
  a : Nat := 0
  b : Nat := 0
  deriving DecidableEq, Repr

/-- The fields of a P-form with its slots read (R173). -/
structure RawP where
  gp : Nat
  gn : Bool
  u : USlot
  v : VSlot
  deriving DecidableEq, Repr

/-- The fields of an X-form instruction (R176, R177, R226). -/
structure RawX where
  gp : Nat := 0
  gn : Bool := false
  op : Nat := 0
  d : Nat := 0
  a : Nat := 0
  b : Nat := 0
  c : Nat := 0
  f3 : Nat := 0
  m29 : Bool := false
  m30 : Bool := false
  m31 : Bool := false
  sc : Nat := 0
  i : Bool := false
  l : Bool := false
  w2 : Nat := 0
  lit : Option DWord := none
  deriving DecidableEq, Repr

/-- The fields of one instruction, in one of the three forms; none for an event. -/
inductive Raw
  | s (r : RawS)
  | p (r : RawP)
  | x (r : RawX)
  | none
  deriving DecidableEq, Repr

/-- The fields of an X-form word that an instruction may leave unused. -/
inductive Slot
  | d | a | b | c | f3 | m29 | m30 | m31 | sc | i | w2
  deriving DecidableEq, Repr

/-- An unused field breaks R176 when it is not 0. -/
def Slot.bad (r : RawX) : Slot → Bool
  | .d => r.d != 0
  | .a => r.a != 0
  | .b => r.b != 0
  | .c => r.c != 0
  | .f3 => r.f3 != 0
  | .m29 => r.m29
  | .m30 => r.m30
  | .m31 => r.m31
  | .sc => r.sc != 0
  | .i => r.i
  | .w2 => r.w2 != 0

/-- The guard of an X-form. -/
def RawX.g (r : RawX) : Guard := { p := r.gp, neg := r.gn }
/-- The guard of an S-form. -/
def RawS.g (r : RawS) : Guard := { p := r.gp, neg := r.gn }
/-- The ordering kind field, word 0 [31:30] (R177). -/
def RawX.ord (r : RawX) : Nat := r.m30.toNat + 2 * r.m31.toNat
/-- The count field of SPAWN, word 0 [30:26] (R244). -/
def RawX.n5 (r : RawX) : Nat := r.f3 + 8 * r.m29.toNat + 16 * r.m30.toNat
/-- Operand b: a register, or word 2 when I = 1 (R198). -/
def RawX.srcB (r : RawX) : Src := if r.i then .imm (BitVec.ofNat 32 r.w2) else .reg r.b
/-- Operand a of a wait or tag instruction: a pair, or word 2 when I = 1 (R238). -/
def RawX.srcA (r : RawX) : Src := if r.i then .imm (BitVec.ofNat 32 r.w2) else .reg r.a
/-- A field of word 2. -/
def w2f (r : RawX) (lo width : Nat) : Nat := r.w2 / 2 ^ lo % 2 ^ width

/-- The lowest reason among the conditions that hold (R390). -/
def worst : List (Nat × Bool) → Option Nat
  | [] => none
  | (n, bad) :: t =>
    match worst t with
    | none => if bad then some n else none
    | some k => if bad then some (min n k) else some k

/-- The instruction when no condition holds, else the lowest reason. -/
def unlessBad (cs : List (Nat × Bool)) (i : Instr) : Except Nat Instr :=
  match worst cs with
  | none => .ok i
  | some n => .error n

/-- The checks of an X-form without a guard field (REP, R68): the literal bits, the unused fields, its own. -/
def takeNoGuard (r : RawX) (z : List Slot) (cs : List (Nat × Bool)) (i : Instr) : Except Nat Instr :=
  unlessBad ((6, r.l || r.lit.isSome) :: (4, z.any (Slot.bad r)) :: cs) i
/-- The checks of an X-form: the guard, the literal bits, the unused fields, its own (R180). -/
def take (r : RawX) (z : List Slot) (cs : List (Nat × Bool)) (i : Instr) : Except Nat Instr :=
  takeNoGuard r z ((3, r.gp == 0 && r.gn) :: cs) i
/-- The checks of an X-form with a literal; I with L is refused (R198). -/
def takeLit (r : RawX) (z : List Slot) (cs : List (Nat × Bool)) (i : Instr) : Except Nat Instr :=
  unlessBad ((3, r.gp == 0 && r.gn) :: (6, r.i) :: (4, z.any (Slot.bad r)) :: cs) i
/-- The checks of an S-form without a guard field (REP). -/
def takeSNoGuard (_ : RawS) (cs : List (Nat × Bool)) (i : Instr) : Except Nat Instr := unlessBad cs i
/-- The checks of an S-form (R170, R172). -/
def takeS (r : RawS) (cs : List (Nat × Bool)) (i : Instr) : Except Nat Instr :=
  unlessBad ((3, r.gp == 0 && r.gn) :: cs) i
/-- All three operand fields are required to be 0 (R172). -/
def z3 (r : RawS) : List (Nat × Bool) := [(4, r.d != 0), (4, r.a != 0), (4, r.b != 0)]

/-- PMOV in its four forms (R208). -/
def decPmov (r : RawX) : Except Nat Instr :=
  match r.f3 with
  | 0 => take r [.b, .c, .m29, .m30, .m31, .sc, .i, .w2] [(4, decide (16 ≤ r.a))] (.pmov r.g (.toReg r.d r.a))
  | 1 => take r [.b, .c, .m29, .m30, .m31, .sc, .i, .w2] [(4, decide (16 ≤ r.d))] (.pmov r.g (.toPred r.d r.a))
  | 2 => take r [.a, .b, .c, .m29, .m30, .m31, .sc, .i, .w2] [] (.pmov r.g (.pack r.d))
  | 3 => take r [.d, .b, .c, .m29, .m30, .m31, .sc, .i, .w2] [] (.pmov r.g (.unpk r.a))
  | _ => take r [.b, .c, .m29, .m30, .m31, .sc, .i, .w2] [(5, true)] (.pmov r.g (.pack 0))
/-- The fields of a PMOV form. -/
def PmovForm.raw : PmovForm → RawX
  | .toReg d pa => { d := d, a := pa, f3 := 0 }
  | .toPred pd a => { d := pd, a := a, f3 := 1 }
  | .pack d => { d := d, f3 := 2 }
  | .unpk a => { a := a, f3 := 3 }
/-- The kind of a TLBINV (R276). -/
def TlbKind.dec (r : RawX) : TlbKind :=
  match r.f3 with
  | 0 => .va r.a r.b
  | 1 => .part r.b
  | _ => .all


/-- The X opcode of a mnemonic (R179). -/
def XOp.code : XOp → Nat
  | .nop => 0x000
  | .mov => 0x001
  | .movi => 0x002
  | .iadd => 0x003
  | .isub => 0x004
  | .imul => 0x005
  | .imulh => 0x006
  | .imad => 0x007
  | .imin => 0x008
  | .imax => 0x009
  | .iabs => 0x00A
  | .ineg => 0x00B
  | .and => 0x00C
  | .or => 0x00D
  | .xor => 0x00E
  | .andn => 0x00F
  | .not => 0x010
  | .shl => 0x011
  | .shr => 0x012
  | .sar => 0x013
  | .popc => 0x014
  | .clz => 0x015
  | .ctz => 0x016
  | .brev => 0x017
  | .bfx => 0x018
  | .bfi => 0x019
  | .sel => 0x01A
  | .iadd64 => 0x01B
  | .isub64 => 0x01C
  | .imul64 => 0x01D
  | .shl64 => 0x01E
  | .shr64 => 0x01F
  | .lea => 0x020
  | .imulw => 0x021
  | .imadw => 0x022
  | .icmp => 0x080
  | .icmp64 => 0x081
  | .fcmp => 0x082
  | .fclass => 0x083
  | .pand => 0x084
  | .por => 0x085
  | .pxor => 0x086
  | .pnot => 0x087
  | .pmov => 0x088
  | .pset => 0x089
  | .fadd => 0x0C0
  | .fsub => 0x0C1
  | .fmul => 0x0C2
  | .ffma => 0x0C3
  | .fmin => 0x0C4
  | .fmax => 0x0C5
  | .fabs => 0x0C6
  | .fneg => 0x0C7
  | .frcp => 0x0C8
  | .frsq => 0x0C9
  | .fsqrt => 0x0CA
  | .fdiv => 0x0CB
  | .fexp2 => 0x0CC
  | .flog2 => 0x0CD
  | .fsin => 0x0CE
  | .fcos => 0x0CF
  | .ftanh => 0x0D0
  | .frint => 0x0D1
  | .hadd2 => 0x0D2
  | .hmul2 => 0x0D3
  | .hfma2 => 0x0D4
  | .hmin2 => 0x0D5
  | .hmax2 => 0x0D6
  | .dadd => 0x0D7
  | .dmul => 0x0D8
  | .dfma => 0x0D9
  | .fscale => 0x0DA
  | .cvt => 0x140
  | .cvtpk => 0x141
  | .cvtex => 0x142
  | .qblk => 0x143
  | .dqblk => 0x144
  | .vdot4 => 0x145
  | .vdotb => 0x146
  | .bppack => 0x147
  | .bpunpk => 0x148
  | .vote => 0x180
  | .shfl => 0x181
  | .red => 0x182
  | .scan => 0x183
  | .elect => 0x184
  | .matchAny => 0x185
  | .bra => 0x1C0
  | .brx => 0x1C1
  | .call => 0x1C2
  | .callx => 0x1C3
  | .ret => 0x1C4
  | .exit => 0x1C5
  | .trap => 0x1C6
  | .brk => 0x1C7
  | .yield => 0x1C8
  | .rep => 0x1C9
  | .waitt => 0x200
  | .waitv => 0x201
  | .waitc => 0x202
  | .ffr => 0x203
  | .tclr => 0x204
  | .spawn => 0x205
  | .barinit => 0x206
  | .bararr => 0x207
  | .barwait => 0x208
  | .fwait => 0x209
  | .ffill => 0x20A
  | .freset => 0x20B
  | .parkw => 0x20C
  | .ld => 0x240
  | .st => 0x241
  | .ldu => 0x242
  | .atom => 0x243
  | .atomcas => 0x244
  | .atomn => 0x245
  | .fence => 0x246
  | .wld => 0x247
  | .wst => 0x248
  | .ald => 0x249
  | .ast => 0x24A
  | .cld => 0x24B
  | .cst => 0x24C
  | .ldc => 0x24D
  | .pref => 0x24E
  | .spalloc => 0x2C0
  | .spfree => 0x2C1
  | .sprenew => 0x2C2
  | .spstat => 0x2C3
  | .spclear => 0x2C4
  | .bread => 0x2E0
  | .bwrite => 0x2E1
  | .bcopy => 0x2E2
  | .bfill => 0x2E3
  | .bdigest => 0x2E4
  | .bstat => 0x2E5
  | .mxlw => 0x300
  | .mxrun => 0x301
  | .mxzero => 0x302
  | .mxver => 0x303
  | .mxhnd => 0x304
  | .mxrel => 0x305
  | .coll => 0x320
  | .movs => 0x330
  | .movsw => 0x331
  | .regset => 0x332
  | .shp => 0x333
  | .uni => 0x334
  | .ckpt => 0x335
  | .tret => 0x336
  | .cinv => 0x337
  | .tlbinv => 0x338
  | .csrr => 0x339
  | .csrw => 0x33A
  | .halt => 0x33B

/-- The ranges of R179: the first opcode, and the mnemonics in opcode order. -/
def XOp.ranges : List (Nat × List XOp) :=
  [(0x000, [.nop, .mov, .movi, .iadd, .isub, .imul, .imulh, .imad, .imin, .imax, .iabs, .ineg, .and, .or, .xor, .andn, .not, .shl, .shr, .sar, .popc, .clz, .ctz, .brev, .bfx, .bfi, .sel, .iadd64, .isub64, .imul64, .shl64, .shr64, .lea, .imulw, .imadw]),
   (0x080, [.icmp, .icmp64, .fcmp, .fclass, .pand, .por, .pxor, .pnot, .pmov, .pset]),
   (0x0C0, [.fadd, .fsub, .fmul, .ffma, .fmin, .fmax, .fabs, .fneg, .frcp, .frsq, .fsqrt, .fdiv, .fexp2, .flog2, .fsin, .fcos, .ftanh, .frint, .hadd2, .hmul2, .hfma2, .hmin2, .hmax2, .dadd, .dmul, .dfma, .fscale]),
   (0x140, [.cvt, .cvtpk, .cvtex, .qblk, .dqblk, .vdot4, .vdotb, .bppack, .bpunpk]),
   (0x180, [.vote, .shfl, .red, .scan, .elect, .matchAny]),
   (0x1C0, [.bra, .brx, .call, .callx, .ret, .exit, .trap, .brk, .yield, .rep]),
   (0x200, [.waitt, .waitv, .waitc, .ffr, .tclr, .spawn, .barinit, .bararr, .barwait, .fwait, .ffill, .freset, .parkw]),
   (0x240, [.ld, .st, .ldu, .atom, .atomcas, .atomn, .fence, .wld, .wst, .ald, .ast, .cld, .cst, .ldc, .pref]),
   (0x2C0, [.spalloc, .spfree, .sprenew, .spstat, .spclear]),
   (0x2E0, [.bread, .bwrite, .bcopy, .bfill, .bdigest, .bstat]),
   (0x300, [.mxlw, .mxrun, .mxzero, .mxver, .mxhnd, .mxrel]),
   (0x320, [.coll]),
   (0x330, [.movs, .movsw, .regset, .shp, .uni, .ckpt, .tret, .cinv, .tlbinv, .csrr, .csrw, .halt])]

/-- The mnemonic of an X opcode; an unassigned opcode has none (R180). -/
def XOp.ofCode (n : Nat) : Option XOp :=
  XOp.ranges.findSome? fun p => if p.1 ≤ n then p.2[n - p.1]? else none

/-- Read an X-form instruction without a literal from its fields (R176, R197, R226, R280). -/
def fromX (o : XOp) (r : RawX) : Except Nat Instr :=
  match o with
  | .nop => take r [.d, .a, .b, .c, .f3, .m29, .m30, .m31, .sc, .i, .w2] [] (.nop r.g)
  | .mov => take r [.b, .c, .f3, .m29, .m30, .m31, .sc, .i, .w2] [] (.mov r.g r.d r.a)
  | .movi => take r [.a, .b, .c, .f3, .m29, .m30, .m31, .sc, .i] [] (.movi r.g r.d (BitVec.ofNat 32 r.w2))
  | .iadd => take r [.c, .f3, .m31, .sc] [(4, r.i && r.b != 0), (4, !r.i && r.w2 != 0), (5, r.m30 && !r.m29)] (.iadd r.g r.d r.a r.srcB r.m29 r.m30)
  | .isub => take r [.c, .f3, .m31, .sc] [(4, r.i && r.b != 0), (4, !r.i && r.w2 != 0), (5, r.m30 && !r.m29)] (.isub r.g r.d r.a r.srcB r.m29 r.m30)
  | .imul => take r [.c, .f3, .m29, .m30, .m31, .sc] [(4, r.i && r.b != 0), (4, !r.i && r.w2 != 0)] (.imul r.g r.d r.a r.srcB)
  | .imulh => take r [.c, .f3, .m29, .m31, .sc] [(4, r.i && r.b != 0), (4, !r.i && r.w2 != 0)] (.imulh r.g r.d r.a r.srcB r.m30)
  | .imad => take r [.f3, .m29, .m30, .m31, .sc] [(4, r.i && r.b != 0), (4, !r.i && r.w2 != 0)] (.imad r.g r.d r.a r.srcB r.c)
  | .imin => take r [.c, .f3, .m29, .m31, .sc] [(4, r.i && r.b != 0), (4, !r.i && r.w2 != 0)] (.imin r.g r.d r.a r.srcB r.m30)
  | .imax => take r [.c, .f3, .m29, .m31, .sc] [(4, r.i && r.b != 0), (4, !r.i && r.w2 != 0)] (.imax r.g r.d r.a r.srcB r.m30)
  | .iabs => take r [.b, .c, .f3, .m30, .m31, .sc, .i, .w2] [] (.iabs r.g r.d r.a r.m29)
  | .ineg => take r [.b, .c, .f3, .m30, .m31, .sc, .i, .w2] [] (.ineg r.g r.d r.a r.m29)
  | .and => take r [.c, .f3, .m29, .m30, .m31, .sc] [(4, r.i && r.b != 0), (4, !r.i && r.w2 != 0)] (.and r.g r.d r.a r.srcB)
  | .or => take r [.c, .f3, .m29, .m30, .m31, .sc] [(4, r.i && r.b != 0), (4, !r.i && r.w2 != 0)] (.or r.g r.d r.a r.srcB)
  | .xor => take r [.c, .f3, .m29, .m30, .m31, .sc] [(4, r.i && r.b != 0), (4, !r.i && r.w2 != 0)] (.xor r.g r.d r.a r.srcB)
  | .andn => take r [.c, .f3, .m29, .m30, .m31, .sc] [(4, r.i && r.b != 0), (4, !r.i && r.w2 != 0)] (.andn r.g r.d r.a r.srcB)
  | .not => take r [.b, .c, .f3, .m29, .m30, .m31, .sc, .i, .w2] [] (.not r.g r.d r.a)
  | .shl => take r [.c, .f3, .m29, .m30, .m31, .sc] [(4, r.i && r.b != 0), (4, !r.i && r.w2 != 0)] (.shl r.g r.d r.a r.srcB)
  | .shr => take r [.c, .f3, .m29, .m30, .m31, .sc] [(4, r.i && r.b != 0), (4, !r.i && r.w2 != 0)] (.shr r.g r.d r.a r.srcB)
  | .sar => take r [.c, .f3, .m29, .m30, .m31, .sc] [(4, r.i && r.b != 0), (4, !r.i && r.w2 != 0)] (.sar r.g r.d r.a r.srcB)
  | .popc => take r [.b, .c, .f3, .m29, .m30, .m31, .sc, .i, .w2] [] (.popc r.g r.d r.a)
  | .clz => take r [.b, .c, .f3, .m29, .m30, .m31, .sc, .i, .w2] [] (.clz r.g r.d r.a)
  | .ctz => take r [.b, .c, .f3, .m29, .m30, .m31, .sc, .i, .w2] [] (.ctz r.g r.d r.a)
  | .brev => take r [.b, .c, .f3, .m29, .m30, .m31, .sc, .i, .w2] [] (.brev r.g r.d r.a)
  | .bfx => take r [.c, .f3, .m29, .m31, .sc] [(4, r.i && r.b != 0), (4, !r.i && r.w2 != 0)] (.bfx r.g r.d r.a r.srcB r.m30)
  | .bfi => take r [.f3, .m29, .m30, .m31, .sc] [(4, r.i && r.b != 0), (4, !r.i && r.w2 != 0)] (.bfi r.g r.d r.a r.srcB r.c)
  | .sel => take r [.f3, .m29, .m30, .m31, .sc] [(4, r.i && r.b != 0), (4, !r.i && r.w2 != 0), (4, decide (16 ≤ r.c))] (.sel r.g r.d r.a r.srcB r.c)
  | .iadd64 => take r [.c, .f3, .m29, .m30, .m31, .sc] [(7, odd r.d), (7, odd r.a), (4, r.i && r.b != 0), (4, !r.i && r.w2 != 0), (7, !r.i && odd r.b)] (.iadd64 r.g r.d r.a r.srcB)
  | .isub64 => take r [.c, .f3, .m29, .m30, .m31, .sc] [(7, odd r.d), (7, odd r.a), (4, r.i && r.b != 0), (4, !r.i && r.w2 != 0), (7, !r.i && odd r.b)] (.isub64 r.g r.d r.a r.srcB)
  | .imul64 => take r [.c, .f3, .m29, .m30, .m31, .sc] [(7, odd r.d), (7, odd r.a), (4, r.i && r.b != 0), (4, !r.i && r.w2 != 0), (7, !r.i && odd r.b)] (.imul64 r.g r.d r.a r.srcB)
  | .shl64 => take r [.c, .f3, .m29, .m30, .m31, .sc] [(7, odd r.d), (7, odd r.a), (4, r.i && r.b != 0), (4, !r.i && r.w2 != 0)] (.shl64 r.g r.d r.a r.srcB)
  | .shr64 => take r [.c, .f3, .m29, .m31, .sc] [(7, odd r.d), (7, odd r.a), (4, r.i && r.b != 0), (4, !r.i && r.w2 != 0)] (.shr64 r.g r.d r.a r.srcB r.m30)
  | .lea => take r [.c, .m29, .m31, .sc] [(7, odd r.d), (7, odd r.a), (4, r.i && r.b != 0), (4, !r.i && r.w2 != 0)] (.lea r.g r.d r.a r.srcB r.m30 r.f3)
  | .imulw => take r [.c, .f3, .m29, .m31, .sc] [(7, odd r.d), (4, r.i && r.b != 0), (4, !r.i && r.w2 != 0)] (.imulw r.g r.d r.a r.srcB r.m30)
  | .imadw => take r [.f3, .m29, .m31, .sc] [(7, odd r.d), (4, r.i && r.b != 0), (4, !r.i && r.w2 != 0), (7, odd r.c)] (.imadw r.g r.d r.a r.srcB r.c r.m30)
  | .icmp => take r [.c, .m29, .m31, .sc] [(4, decide (16 ≤ r.d)), (4, r.i && r.b != 0), (4, !r.i && r.w2 != 0), (5, decide (6 ≤ r.f3)), (5, r.m30 && decide (r.f3 < 2))] (.icmp r.g r.d r.a r.srcB (Cc.dec r.f3) r.m30)
  | .icmp64 => take r [.c, .m29, .m31, .sc] [(4, decide (16 ≤ r.d)), (7, odd r.a), (4, r.i && r.b != 0), (4, !r.i && r.w2 != 0), (7, !r.i && odd r.b), (5, decide (6 ≤ r.f3)), (5, r.m30 && decide (r.f3 < 2))] (.icmp64 r.g r.d r.a r.srcB (Cc.dec r.f3) r.m30)
  | .fcmp => take r [.c, .m29, .m30, .sc] [(4, decide (16 ≤ r.d)), (4, r.i && r.b != 0), (4, !r.i && r.w2 != 0), (5, decide (6 ≤ r.f3))] (.fcmp r.g r.d r.a r.srcB (Cc.dec r.f3) r.m31)
  | .fclass => take r [.b, .c, .f3, .m29, .m30, .m31, .sc, .i] [(5, decide (8 ≤ w2f r 9 4)), (5, decide ((Fmt.dec (w2f r 9 4)).lanes ≤ w2f r 13 5)), (7, w2f r 9 4 == 3 && odd r.a), (4, r.w2 % 512 != 0), (4, decide (262144 ≤ r.w2))] (.fclass r.g r.d r.a (Fmt.dec (w2f r 9 4)) ((w2f r 13 5)))
  | .pand => take r [.c, .f3, .m29, .m30, .m31, .sc, .i, .w2] [(4, decide (16 ≤ r.d)), (4, decide (16 ≤ r.a)), (4, decide (16 ≤ r.b))] (.pand r.g r.d r.a r.b)
  | .por => take r [.c, .f3, .m29, .m30, .m31, .sc, .i, .w2] [(4, decide (16 ≤ r.d)), (4, decide (16 ≤ r.a)), (4, decide (16 ≤ r.b))] (.por r.g r.d r.a r.b)
  | .pxor => take r [.c, .f3, .m29, .m30, .m31, .sc, .i, .w2] [(4, decide (16 ≤ r.d)), (4, decide (16 ≤ r.a)), (4, decide (16 ≤ r.b))] (.pxor r.g r.d r.a r.b)
  | .pnot => take r [.b, .c, .f3, .m29, .m30, .m31, .sc, .i, .w2] [(4, decide (16 ≤ r.d)), (4, decide (16 ≤ r.a))] (.pnot r.g r.d r.a)
  | .pmov => decPmov r
  | .pset => take r [.a, .b, .c, .f3, .m29, .m30, .m31, .sc, .i] [(4, decide (16 ≤ r.d)), (4, decide (2 ≤ r.w2))] (.pset r.g r.d (((w2f r 0 1) == 1)))
  | .fadd => take r [.c, .m29, .m30, .m31, .sc] [(4, r.i && r.b != 0), (4, !r.i && r.w2 != 0), (5, decide (4 ≤ r.f3))] (.fadd r.g r.d r.a r.srcB (RM.dec r.f3))
  | .fsub => take r [.c, .m29, .m30, .m31, .sc] [(4, r.i && r.b != 0), (4, !r.i && r.w2 != 0), (5, decide (4 ≤ r.f3))] (.fsub r.g r.d r.a r.srcB (RM.dec r.f3))
  | .fmul => take r [.c, .m29, .m30, .m31, .sc] [(4, r.i && r.b != 0), (4, !r.i && r.w2 != 0), (5, decide (4 ≤ r.f3))] (.fmul r.g r.d r.a r.srcB (RM.dec r.f3))
  | .ffma => take r [.m29, .m30, .m31, .sc] [(4, r.i && r.b != 0), (4, !r.i && r.w2 != 0), (5, decide (4 ≤ r.f3))] (.ffma r.g r.d r.a r.srcB r.c (RM.dec r.f3))
  | .fmin => take r [.c, .f3, .m29, .m30, .m31, .sc] [(4, r.i && r.b != 0), (4, !r.i && r.w2 != 0)] (.fmin r.g r.d r.a r.srcB)
  | .fmax => take r [.c, .f3, .m29, .m30, .m31, .sc] [(4, r.i && r.b != 0), (4, !r.i && r.w2 != 0)] (.fmax r.g r.d r.a r.srcB)
  | .fabs => take r [.b, .c, .f3, .m29, .m30, .m31, .sc, .i, .w2] [] (.fabs r.g r.d r.a)
  | .fneg => take r [.b, .c, .f3, .m29, .m30, .m31, .sc, .i, .w2] [] (.fneg r.g r.d r.a)
  | .frcp => take r [.b, .c, .f3, .m29, .m30, .m31, .sc, .i, .w2] [] (.frcp r.g r.d r.a)
  | .frsq => take r [.b, .c, .f3, .m29, .m30, .m31, .sc, .i, .w2] [] (.frsq r.g r.d r.a)
  | .fsqrt => take r [.b, .c, .m29, .m30, .m31, .sc, .i, .w2] [(5, decide (4 ≤ r.f3))] (.fsqrt r.g r.d r.a (RM.dec r.f3))
  | .fdiv => take r [.c, .m29, .m30, .m31, .sc] [(4, r.i && r.b != 0), (4, !r.i && r.w2 != 0), (5, decide (4 ≤ r.f3))] (.fdiv r.g r.d r.a r.srcB (RM.dec r.f3))
  | .fexp2 => take r [.b, .c, .f3, .m29, .m30, .m31, .sc, .i, .w2] [] (.fexp2 r.g r.d r.a)
  | .flog2 => take r [.b, .c, .f3, .m29, .m30, .m31, .sc, .i, .w2] [] (.flog2 r.g r.d r.a)
  | .fsin => take r [.b, .c, .f3, .m29, .m30, .m31, .sc, .i, .w2] [] (.fsin r.g r.d r.a)
  | .fcos => take r [.b, .c, .f3, .m29, .m30, .m31, .sc, .i, .w2] [] (.fcos r.g r.d r.a)
  | .ftanh => take r [.b, .c, .f3, .m29, .m30, .m31, .sc, .i, .w2] [] (.ftanh r.g r.d r.a)
  | .frint => take r [.b, .c, .m29, .m30, .m31, .sc, .i, .w2] [(5, decide (4 ≤ r.f3))] (.frint r.g r.d r.a (RM.dec r.f3))
  | .hadd2 => take r [.c, .m29, .m31, .sc] [(4, r.i && r.b != 0), (4, !r.i && r.w2 != 0), (5, decide (4 ≤ r.f3))] (.hadd2 r.g r.d r.a r.srcB (RM.dec r.f3) r.m30)
  | .hmul2 => take r [.c, .m29, .m31, .sc] [(4, r.i && r.b != 0), (4, !r.i && r.w2 != 0), (5, decide (4 ≤ r.f3))] (.hmul2 r.g r.d r.a r.srcB (RM.dec r.f3) r.m30)
  | .hfma2 => take r [.m29, .m31, .sc] [(4, r.i && r.b != 0), (4, !r.i && r.w2 != 0), (5, decide (4 ≤ r.f3))] (.hfma2 r.g r.d r.a r.srcB r.c (RM.dec r.f3) r.m30)
  | .hmin2 => take r [.c, .f3, .m29, .m31, .sc] [(4, r.i && r.b != 0), (4, !r.i && r.w2 != 0)] (.hmin2 r.g r.d r.a r.srcB r.m30)
  | .hmax2 => take r [.c, .f3, .m29, .m31, .sc] [(4, r.i && r.b != 0), (4, !r.i && r.w2 != 0)] (.hmax2 r.g r.d r.a r.srcB r.m30)
  | .dadd => take r [.c, .m29, .m30, .m31, .sc, .i, .w2] [(7, odd r.d), (7, odd r.a), (7, odd r.b), (5, decide (4 ≤ r.f3))] (.dadd r.g r.d r.a r.b (RM.dec r.f3))
  | .dmul => take r [.c, .m29, .m30, .m31, .sc, .i, .w2] [(7, odd r.d), (7, odd r.a), (7, odd r.b), (5, decide (4 ≤ r.f3))] (.dmul r.g r.d r.a r.b (RM.dec r.f3))
  | .dfma => take r [.m29, .m30, .m31, .sc, .i, .w2] [(7, odd r.d), (7, odd r.a), (7, odd r.b), (7, odd r.c), (5, decide (4 ≤ r.f3))] (.dfma r.g r.d r.a r.b r.c (RM.dec r.f3))
  | .fscale => take r [.c, .m29, .m30, .m31, .sc] [(4, r.i && r.b != 0), (4, !r.i && r.w2 != 0), (5, decide (4 ≤ r.f3))] (.fscale r.g r.d r.a r.srcB (RM.dec r.f3))
  | .cvt => take r [.c, .m30, .m31, .sc, .i] [(5, decide (5 ≤ r.f3)), (4, r.w2 % 512 != 0), (4, r.f3 != 4 && r.b != 0), (5, r.f3 == 4 && (Fmt.dec (w2f r 13 4)).noSr), (5, (Fmt.dec (w2f r 9 4)).isInt && (Fmt.dec (w2f r 13 4)).isInt && r.f3 != 0), (7, (Fmt.dec (w2f r 13 4)).is64 && odd r.d), (7, (Fmt.dec (w2f r 9 4)).is64 && odd r.a), (4, decide (131072 ≤ r.w2))] (.cvt r.g r.d r.a r.b (RMS.dec r.f3) r.m29 (Fmt.dec (w2f r 9 4)) (Fmt.dec (w2f r 13 4)))
  | .cvtpk => take r [.m30, .m31, .sc, .i] [(5, decide (5 ≤ r.f3)), (4, r.f3 != 4 && r.w2 % 512 != 0), (5, decide ((Fmt.dec (w2f r 9 4)).packSlots ≤ w2f r 13 4)), (4, decide (131072 ≤ r.w2))] (.cvtpk r.g r.d r.a r.b r.c (r.w2 % 512) (RMS.dec r.f3) r.m29 (Fmt.dec (w2f r 9 4)) ((w2f r 13 4)))
  | .cvtex => take r [.b, .c, .f3, .m29, .m30, .m31, .sc, .i] [(5, !(Fmt.dec (w2f r 9 4)).extractable), (5, decide ((Fmt.dec (w2f r 9 4)).lanes ≤ w2f r 13 5)), (4, r.w2 % 512 != 0), (4, decide (262144 ≤ r.w2))] (.cvtex r.g r.d r.a (Fmt.dec (w2f r 9 4)) ((w2f r 13 5)))
  | .qblk => take r [.c, .m30, .m31, .sc, .i] [(5, decide (5 ≤ r.f3)), (5, !Elem.valid (w2f r 9 4)), (5, w2f r 13 2 == 3), (5, w2f r 15 2 == 3), (4, r.f3 != 4 && r.b != 0), (5, w2f r 9 4 == 8 && !(w2f r 13 2 == 2 && w2f r 15 2 == 0)), (4, decide (131072 ≤ r.w2))] (.qblk r.g r.d (r.w2 % 512) r.a r.b (RMS.dec r.f3) r.m29 (Elem.dec (w2f r 9 4)) (Bsz.dec (w2f r 13 2)) (Scf.dec (w2f r 15 2)))
  | .dqblk => take r [.b, .c, .f3, .m29, .m30, .m31, .sc, .i] [(5, !Elem.valid (w2f r 9 4)), (5, w2f r 13 2 == 3), (5, w2f r 15 2 == 3), (5, w2f r 9 4 == 8 && !(w2f r 13 2 == 2 && w2f r 15 2 == 0)), (4, decide (131072 ≤ r.w2))] (.dqblk r.g r.d r.a (r.w2 % 512) (Elem.dec (w2f r 9 4)) (Bsz.dec (w2f r 13 2)) (Scf.dec (w2f r 15 2)))
  | .vdot4 => take r [.f3, .m29, .sc] [(4, r.i && r.b != 0), (4, !r.i && r.w2 != 0)] (.vdot4 r.g r.d r.a r.srcB r.c r.m30 r.m31)
  | .vdotb => take r [.f3, .m29, .m30, .m31, .sc, .i] [(5, !Elem.valid (w2f r 9 4)), (5, !Elem.valid (w2f r 13 4)), (5, w2f r 17 2 == 3), (5, w2f r 19 2 == 3), (5, (w2f r 9 4 == 8 || w2f r 13 4 == 8) && !(w2f r 17 2 == 2 && w2f r 19 2 == 0)), (4, decide (2097152 ≤ r.w2))] (.vdotb r.g r.d r.a r.b r.c (r.w2 % 512) (Elem.dec (w2f r 9 4)) (Elem.dec (w2f r 13 4)) (Bsz.dec (w2f r 17 2)) (Scf.dec (w2f r 19 2)))
  | .bppack => take r [.b, .c, .f3, .m29, .m30, .m31, .sc, .i, .w2] [] (.bppack r.g r.d r.a)
  | .bpunpk => take r [.b, .c, .f3, .m29, .m30, .m31, .sc, .i] [(5, !(decide (1 ≤ w2f r 9 4 ∧ w2f r 9 4 ≤ 8))), (4, r.w2 % 512 != 0), (4, decide (16384 ≤ r.w2))] (.bpunpk r.g r.d r.a ((w2f r 9 4)) (((w2f r 13 1) == 1)))
  | .vote => take r [.b, .c, .m29, .m30, .m31, .sc, .i, .w2] [(5, decide (3 ≤ r.f3)), (4, decide (16 ≤ r.a)), (4, r.f3 != 2 && decide (16 ≤ r.d))] (.vote r.g (VoteMode.dec r.f3) r.d r.a)
  | .shfl => take r [.c, .m29, .m30, .m31, .sc] [(4, r.i && r.b != 0), (4, !r.i && r.w2 != 0), (5, decide (4 ≤ r.f3))] (.shfl r.g r.d r.a r.srcB (ShflMode.dec r.f3))
  | .red => take r [.b, .c, .f3, .m29, .m30, .m31, .sc, .i] [(5, decide (11 ≤ w2f r 9 4)), (4, r.w2 % 512 != 0), (4, decide (8192 ≤ r.w2))] (.red r.g r.d r.a (RedOp.dec (w2f r 9 4)))
  | .scan => take r [.b, .c, .f3, .m29, .m31, .sc, .i] [(5, decide (11 ≤ w2f r 9 4)), (4, r.w2 % 512 != 0), (4, decide (8192 ≤ r.w2))] (.scan r.g r.d r.a (RedOp.dec (w2f r 9 4)) r.m30)
  | .elect => take r [.a, .b, .c, .f3, .m29, .m30, .m31, .sc, .i, .w2] [(4, decide (16 ≤ r.d))] (.elect r.g r.d)
  | .matchAny => take r [.b, .c, .f3, .m29, .m31, .sc, .i, .w2] [(7, r.m30 && odd r.a)] (.matchAny r.g r.d r.a r.m30)
  | .bra => take r [.d, .a, .b, .c, .f3, .m29, .m30, .m31, .sc, .i] [] (.bra r.g (BitVec.ofNat 32 r.w2))
  | .brx => take r [.d, .b, .c, .f3, .m29, .m30, .m31, .sc, .i, .w2] [(7, odd r.a)] (.brx r.g r.a)
  | .call => take r [.a, .b, .c, .f3, .m29, .m30, .m31, .sc, .i] [(7, odd r.d)] (.call r.g r.d (BitVec.ofNat 32 r.w2))
  | .callx => take r [.b, .c, .f3, .m29, .m30, .m31, .sc, .i, .w2] [(7, odd r.d), (7, odd r.a)] (.callx r.g r.d r.a)
  | .ret => take r [.d, .b, .c, .f3, .m29, .m30, .m31, .sc, .i, .w2] [(7, odd r.a)] (.ret r.g r.a)
  | .exit => take r [.d, .a, .b, .c, .f3, .m29, .m30, .m31, .sc, .i, .w2] [] (.exit r.g)
  | .trap => take r [.d, .a, .b, .c, .f3, .m29, .m30, .m31, .sc, .i] [(4, decide (4096 ≤ r.w2))] (.trap r.g ((w2f r 0 12)))
  | .brk => take r [.d, .a, .b, .c, .f3, .m29, .m30, .m31, .sc, .i] [(4, decide (4096 ≤ r.w2))] (.brk r.g ((w2f r 0 12)))
  | .yield => take r [.d, .a, .b, .c, .f3, .m29, .m30, .m31, .sc, .i, .w2] [] (.yield r.g)
  | .rep => takeNoGuard r [.d, .a, .b, .c, .f3, .m29, .m30, .m31, .sc, .i] [(4, decide (262144 ≤ r.w2))] (.rep ((w2f r 0 8)) ((w2f r 8 2)) ((w2f r 10 2)) ((w2f r 12 2)) ((w2f r 14 2)) ((w2f r 16 2)))
  | .waitt => take r [.d, .b, .c, .m29, .m30, .m31, .sc] [(5, decide (2 ≤ r.f3)), (4, r.i && r.a != 0), (4, !r.i && r.w2 != 0), (7, !r.i && odd r.a)] (.waitt r.g (r.f3 == 1) r.srcA)
  | .waitv => take r [.d, .c, .f3, .m29, .m30, .m31, .sc] [(4, r.i && r.b != 0), (4, !r.i && r.w2 != 0), (4, r.i && decide (65536 ≤ r.w2))] (.waitv r.g r.a r.srcB)
  | .waitc => take r [.d, .a, .b, .c, .m29, .m30, .m31, .sc, .i] [(5, decide (5 ≤ r.f3)), (4, decide (64 ≤ r.w2))] (.waitc r.g (CClass.dec r.f3) ((w2f r 0 6)))
  | .ffr => take r [.b, .f3, .m29, .m30, .m31, .sc] [(4, decide (16 ≤ r.c)), (4, r.i && r.a != 0), (4, !r.i && r.w2 != 0), (7, !r.i && odd r.a)] (.ffr r.g r.c r.d r.srcA)
  | .tclr => take r [.d, .b, .c, .f3, .m29, .m30, .m31, .sc] [(4, r.i && r.a != 0), (4, !r.i && r.w2 != 0), (7, !r.i && odd r.a)] (.tclr r.g r.srcA)
  | .spawn => take r [.d, .b, .c, .m31, .sc, .i] [(5, decide (17 ≤ r.n5)), (4, r.n5 == 0 && r.a != 0)] (.spawn r.g (BitVec.ofNat 32 r.w2) r.a r.n5)
  | .barinit => take r [.d, .c, .f3, .m29, .m30, .m31, .sc, .i] [] (.barinit r.g r.a (BitVec.ofNat 32 r.w2) r.b)
  | .bararr => take r [.b, .c, .f3, .m29, .m30, .m31, .sc, .i] [] (.bararr r.g r.d r.a (BitVec.ofNat 32 r.w2))
  | .barwait => take r [.d, .c, .f3, .m29, .m30, .m31, .sc, .i] [] (.barwait r.g r.a (BitVec.ofNat 32 r.w2) r.b)
  | .fwait => take r [.b, .c, .f3, .m30, .m31, .i] [(7, odd r.d), (7, !r.m29 && odd r.a), (9, decide (5 ≤ r.sc))] (.fwait r.g r.d r.a (BitVec.ofNat 32 r.w2) r.m29 (Scope.dec r.sc))
  | .ffill => take r [.c, .f3, .m30, .m31, .i] [(7, odd r.b), (7, !r.m29 && odd r.a), (9, decide (5 ≤ r.sc))] (.ffill r.g r.d r.a (BitVec.ofNat 32 r.w2) r.b r.m29 (Scope.dec r.sc))
  | .freset => take r [.d, .b, .c, .f3, .m30, .m31, .i] [(7, !r.m29 && odd r.a), (9, decide (5 ≤ r.sc))] (.freset r.g r.a (BitVec.ofNat 32 r.w2) r.m29 (Scope.dec r.sc))
  | .parkw => take r [.d, .i] [(7, odd r.a), (5, decide (6 ≤ r.f3)), (7, r.m29 && odd r.b), (7, r.m29 && odd r.c), (9, decide (5 ≤ r.sc)), (9, decide (2 ≤ r.ord)), (9, r.ord == 0 && r.sc != 0)] (.parkw r.g r.a (BitVec.ofNat 32 r.w2) r.b r.c (Cc.dec r.f3) r.m29 (Ord.dec r.ord) (Scope.dec r.sc))
  | .ld => take r [.b, .i] [(7, r.d % regAlign r.f3 != 0), (7, odd r.a), (5, decide (5 ≤ r.f3)), (9, decide (5 ≤ r.sc)), (4, decide (4 ≤ r.c)), (5, r.c % 4 == 3), (5, r.m29 && !(r.f3 == 1 || r.f3 == 2)), (9, decide (2 ≤ r.ord)), (9, r.ord == 0 && r.sc != 0)] (.ld r.g r.d r.a (BitVec.ofNat 32 r.w2) (Size.dec r.f3) r.m29 (Ord.dec r.ord) (Scope.dec r.sc) (Hint.dec r.c))
  | .st => take r [.b, .m29, .i] [(7, r.d % regAlign r.f3 != 0), (7, odd r.a), (5, decide (5 ≤ r.f3)), (9, decide (5 ≤ r.sc)), (4, decide (4 ≤ r.c)), (5, r.c % 4 == 3), (9, r.ord == 1 || r.ord == 3), (9, r.ord == 0 && r.sc != 0)] (.st r.g r.d r.a (BitVec.ofNat 32 r.w2) (Size.dec r.f3) (Ord.dec r.ord) (Scope.dec r.sc) (Hint.dec r.c))
  | .ldu => take r [.b, .c, .i] [(7, r.d % regAlign r.f3 != 0), (7, odd r.a), (5, decide (5 ≤ r.f3)), (9, decide (5 ≤ r.sc)), (5, r.m29 && !(r.f3 == 1 || r.f3 == 2)), (9, decide (2 ≤ r.ord)), (9, r.ord == 0 && r.sc != 0)] (.ldu r.g r.d r.a (BitVec.ofNat 32 r.w2) (Size.dec r.f3) r.m29 (Ord.dec r.ord) (Scope.dec r.sc))
  | .atom => take r [.m29, .i] [(7, odd r.a), (4, decide (16 ≤ r.c)), (5, decide (10 ≤ r.c % 16)), (4, decide (4 ≤ r.f3)), (9, decide (5 ≤ r.sc)), (7, r.f3 % 2 == 1 && odd r.d), (7, r.f3 % 2 == 1 && odd r.b), (5, r.c % 16 == 9 && r.f3 % 2 == 1), (9, r.ord == 0 && r.sc != 0)] (.atom r.g r.d r.a (BitVec.ofNat 32 r.w2) r.b (AtomOp.dec r.c) (r.f3 % 2 == 1) (r.f3 / 2 % 2 == 1) (Ord.dec r.ord) (Scope.dec r.sc))
  | .atomcas => take r [.m29, .i] [(7, odd r.a), (4, decide (4 ≤ r.f3)), (9, decide (5 ≤ r.sc)), (7, r.f3 % 2 == 1 && odd r.d), (7, r.f3 % 2 == 1 && odd r.b), (7, r.f3 % 2 == 1 && odd r.c), (9, r.ord == 0 && r.sc != 0)] (.atomcas r.g r.d r.a (BitVec.ofNat 32 r.w2) r.b r.c (r.f3 % 2 == 1) (r.f3 / 2 % 2 == 1) (Ord.dec r.ord) (Scope.dec r.sc))
  | .atomn => take r [.d, .m29, .i] [(7, odd r.a), (4, decide (16 ≤ r.c)), (5, decide (10 ≤ r.c % 16)), (4, decide (4 ≤ r.f3)), (9, decide (5 ≤ r.sc)), (7, r.f3 % 2 == 1 && odd r.b), (5, r.c % 16 == 9 && r.f3 % 2 == 1), (9, r.ord == 1 || r.ord == 3), (9, r.ord == 0 && r.sc != 0)] (.atomn r.g r.a (BitVec.ofNat 32 r.w2) r.b (AtomOp.dec r.c) (r.f3 % 2 == 1) (r.f3 / 2 % 2 == 1) (Ord.dec r.ord) (Scope.dec r.sc))
  | .fence => take r [.d, .a, .b, .c, .f3, .m29, .i, .w2] [(9, decide (5 ≤ r.sc))] (.fence r.g (FenceKind.dec r.ord) (Scope.dec r.sc))
  | .wld => take r [.b, .c, .m30, .m31, .sc, .i] [(7, r.d % regAlign r.f3 != 0), (5, decide (5 ≤ r.f3)), (5, r.m29 && !(r.f3 == 1 || r.f3 == 2))] (.wld r.g r.d r.a (BitVec.ofNat 32 r.w2) (Size.dec r.f3) r.m29)
  | .wst => take r [.b, .c, .m29, .m30, .m31, .sc, .i] [(7, r.d % regAlign r.f3 != 0), (5, decide (5 ≤ r.f3))] (.wst r.g r.d r.a (BitVec.ofNat 32 r.w2) (Size.dec r.f3))
  | .ald => take r [.b, .c, .m30, .m31, .sc, .i] [(7, r.d % regAlign r.f3 != 0), (5, decide (5 ≤ r.f3)), (5, r.m29 && !(r.f3 == 1 || r.f3 == 2))] (.ald r.g r.d r.a (BitVec.ofNat 32 r.w2) (Size.dec r.f3) r.m29)
  | .ast => take r [.b, .c, .m29, .m30, .m31, .sc, .i] [(7, r.d % regAlign r.f3 != 0), (5, decide (5 ≤ r.f3))] (.ast r.g r.d r.a (BitVec.ofNat 32 r.w2) (Size.dec r.f3))
  | .cld => take r [.b, .c, .m30, .m31, .sc, .i] [(7, r.d % regAlign r.f3 != 0), (5, decide (5 ≤ r.f3)), (5, r.m29 && !(r.f3 == 1 || r.f3 == 2))] (.cld r.g r.d r.a (BitVec.ofNat 32 r.w2) (Size.dec r.f3) r.m29)
  | .cst => take r [.b, .c, .m29, .m30, .m31, .sc, .i] [(7, r.d % regAlign r.f3 != 0), (5, decide (5 ≤ r.f3))] (.cst r.g r.d r.a (BitVec.ofNat 32 r.w2) (Size.dec r.f3))
  | .ldc => take r [.a, .b, .c, .m29, .i] [(7, r.d % regAlign r.f3 != 0), (5, decide (5 ≤ r.f3)), (5, r.f3 == 1 || r.f3 == 2), (9, r.ord != 0 || r.sc != 0)] (.ldc r.g r.d (BitVec.ofNat 32 r.w2) (Size.dec r.f3))
  | .pref => take r [.d, .b, .c, .f3, .m30, .m31, .sc, .i] [(7, odd r.a)] (.pref r.g r.a (BitVec.ofNat 32 r.w2) r.m29)
  | .spalloc => take r [.a, .c, .sc] [(4, r.i && r.b != 0), (4, !r.i && r.w2 != 0), (5, r.f3 % 4 == 3), (5, r.f3 / 4 + 2 * r.m29.toNat == 3)] (.spalloc r.g r.d r.srcB (Buf.dec (r.f3 % 4)) (LClass.dec (r.f3 / 4 + 2 * r.m29.toNat)) r.m30 r.m31)
  | .spfree => take r [.d, .b, .c, .m29, .m30, .m31, .sc, .i, .w2] [(5, r.f3 % 4 == 3), (4, decide (4 ≤ r.f3))] (.spfree r.g r.a (Buf.dec (r.f3 % 4)))
  | .sprenew => take r [.d, .c, .m29, .m30, .m31, .sc] [(4, r.i && r.b != 0), (4, !r.i && r.w2 != 0), (5, r.f3 % 4 == 3), (4, decide (4 ≤ r.f3))] (.sprenew r.g r.a r.srcB (Buf.dec (r.f3 % 4)))
  | .spstat => take r [.b, .c, .m29, .m30, .m31, .sc, .i, .w2] [(5, r.f3 % 4 == 3), (4, decide (4 ≤ r.f3))] (.spstat r.g r.d r.a (Buf.dec (r.f3 % 4)))
  | .spclear => take r [.d, .b, .c, .m29, .m30, .m31, .sc, .i, .w2] [(5, r.f3 % 4 == 3), (4, decide (4 ≤ r.f3))] (.spclear r.g r.a (Buf.dec (r.f3 % 4)))
  | .bread => take r [.c, .f3, .m29, .m30, .m31, .sc, .i] [(4, decide (16 ≤ r.d)), (7, odd r.b), (4, decide (64 ≤ r.w2))] (.bread r.g r.d r.a r.b r.w2)
  | .bwrite => take r [.b, .c, .f3, .m29, .m30, .m31, .i] [(4, decide (16 ≤ r.d)), (4, decide (64 ≤ r.w2)), (9, decide (5 ≤ r.sc))] (.bwrite r.g r.d r.a r.w2 (Scope.dec r.sc))
  | .bcopy => take r [.b, .c, .f3, .m29, .m30, .m31, .i] [(4, decide (16 ≤ r.d)), (4, decide (64 ≤ r.w2)), (9, decide (5 ≤ r.sc))] (.bcopy r.g r.d r.a r.w2 (Scope.dec r.sc))
  | .bfill => take r [.b, .c, .f3, .m29, .m30, .m31, .i] [(4, decide (16 ≤ r.d)), (4, decide (64 ≤ r.w2)), (9, decide (5 ≤ r.sc))] (.bfill r.g r.d r.a r.w2 (Scope.dec r.sc))
  | .bdigest => take r [.b, .c, .f3, .m29, .m30, .m31, .sc, .i] [(4, decide (16 ≤ r.d)), (4, decide (64 ≤ r.w2))] (.bdigest r.g r.d r.a r.w2)
  | .bstat => take r [.b, .c, .f3, .m29, .m30, .m31, .sc] [(4, r.i && r.a != 0), (4, !r.i && r.w2 != 0), (4, r.i && decide (64 ≤ r.w2))] (.bstat r.g r.d r.srcA)
  | .mxlw => take r [.b, .c, .f3, .m29, .m30, .m31, .sc, .i, .w2] [(4, decide (16 ≤ r.d))] (.mxlw r.g r.d r.a)
  | .mxrun => take r [.b, .c, .f3, .m29, .m30, .m31, .sc, .i, .w2] [(4, decide (16 ≤ r.d))] (.mxrun r.g r.d r.a)
  | .mxzero => take r [.b, .c, .f3, .m29, .m30, .m31, .sc, .i, .w2] [(4, decide (16 ≤ r.d))] (.mxzero r.g r.d r.a)
  | .mxver => take r [.b, .c, .f3, .m29, .m30, .m31, .sc, .i, .w2] [] (.mxver r.g r.d r.a)
  | .mxhnd => take r [.c, .f3, .m29, .m30, .m31, .sc, .i, .w2] [] (.mxhnd r.g r.d r.a r.b)
  | .mxrel => take r [.d, .b, .c, .f3, .m29, .m30, .m31, .sc, .i, .w2] [] (.mxrel r.g r.a)
  | .coll => take r [.b, .c, .f3, .m29, .m30, .m31, .sc, .i] [(4, decide (16 ≤ r.d)), (4, decide (64 ≤ r.w2))] (.coll r.g r.d r.a r.w2)
  | .movs => take r [.b, .c, .f3, .m29, .m30, .m31, .sc, .i, .w2] [(10, decide (34 ≤ r.a)), (7, (SReg.dec r.a).wide && odd r.d)] (.movs r.g r.d (SReg.dec r.a))
  | .movsw => take r [.b, .c, .f3, .m29, .m30, .m31, .sc, .i, .w2] [(10, r.d != 32)] (.movsw r.g (SReg.dec r.d) r.a)
  | .regset => take r [.c, .m29, .m30, .m31, .sc, .i] [(4, decide (2 ≤ r.f3)), (4, r.f3 == 1 && r.b != 0), (4, r.f3 != 1 && r.w2 != 0)] (.regset r.g r.d (r.a + 1) (if r.f3 == 1 then .imm (BitVec.ofNat 32 r.w2) else .reg r.b))
  | .shp => take r [.b, .c, .f3, .m29, .m30, .m31, .sc, .i, .w2] [] (.shp r.g r.d r.a)
  | .uni => take r [.b, .c, .f3, .m29, .m30, .m31, .sc, .i, .w2] [] (.uni r.g r.d r.a)
  | .ckpt => take r [.d, .a, .b, .c, .f3, .m29, .m30, .m31, .sc, .i, .w2] [] (.ckpt r.g)
  | .tret => take r [.d, .a, .b, .c, .f3, .m29, .m30, .m31, .sc, .i, .w2] [] (.tret r.g)
  | .cinv => take r [.d, .c, .f3, .m30, .m31, .i] [(7, odd r.a), (4, r.m29 && r.sc != 0), (9, decide (5 ≤ r.sc))] (.cinv r.g (if r.m29 then .d else .i (Scope.dec r.sc)) r.a (BitVec.ofNat 32 r.w2) r.b)
  | .tlbinv => take r [.d, .c, .m29, .m30, .m31, .i, .w2] [(4, decide (4 ≤ r.f3)), (5, r.f3 % 4 == 3), (9, decide (5 ≤ r.sc)), (7, r.f3 == 0 && odd r.a), (4, r.f3 % 4 != 0 && r.a != 0), (4, r.f3 % 4 == 2 && r.b != 0)] (.tlbinv r.g (TlbKind.dec r) (Scope.dec r.sc))
  | .csrr => take r [.a, .b, .c, .f3, .m29, .m30, .m31, .sc, .i] [(7, odd r.d), (11, !csrAssigned (w2f r 0 16)), (4, decide (65536 ≤ r.w2))] (.csrr r.g r.d ((w2f r 0 16)))
  | .csrw => take r [.d, .b, .c, .f3, .m29, .m30, .m31, .sc, .i] [(11, !csrAssigned (w2f r 0 16)), (7, odd r.a), (4, decide (65536 ≤ r.w2))] (.csrw r.g ((w2f r 0 16)) r.a)
  | .halt => take r [.d, .a, .b, .c, .f3, .m29, .m30, .m31, .sc, .i, .w2] [] (.halt r.g)

/-- Read an X-form instruction with a 64-bit literal (R178). -/
def fromLit (o : XOp) (r : RawX) (lit : DWord) : Except Nat Instr :=
  match o with
  | .movi => takeLit r [.a, .b, .c, .f3, .m29, .m30, .m31, .sc, .w2] [(7, odd r.d)] (.moviLit r.g r.d lit)
  | .iadd64 => takeLit r [.b, .c, .f3, .m29, .m30, .m31, .sc, .w2] [(7, odd r.d), (7, odd r.a)] (.iadd64Lit r.g r.d r.a lit)
  | .isub64 => takeLit r [.b, .c, .f3, .m29, .m30, .m31, .sc, .w2] [(7, odd r.d), (7, odd r.a)] (.isub64Lit r.g r.d r.a lit)
  | .imul64 => takeLit r [.b, .c, .f3, .m29, .m30, .m31, .sc, .w2] [(7, odd r.d), (7, odd r.a)] (.imul64Lit r.g r.d r.a lit)
  | .icmp64 => takeLit r [.b, .c, .m29, .m31, .sc, .w2] [(4, decide (16 ≤ r.d)), (7, odd r.a), (5, decide (6 ≤ r.f3)), (5, r.m30 && decide (r.f3 < 2))] (.icmp64Lit r.g r.d r.a (Cc.dec r.f3) r.m30 lit)
  | .dadd => takeLit r [.b, .c, .m29, .m30, .m31, .sc, .w2] [(7, odd r.d), (7, odd r.a), (5, decide (4 ≤ r.f3))] (.daddLit r.g r.d r.a (RM.dec r.f3) lit)
  | .dmul => takeLit r [.b, .c, .m29, .m30, .m31, .sc, .w2] [(7, odd r.d), (7, odd r.a), (5, decide (4 ≤ r.f3))] (.dmulLit r.g r.d r.a (RM.dec r.f3) lit)
  | .dfma => takeLit r [.b, .m29, .m30, .m31, .sc, .w2] [(7, odd r.d), (7, odd r.a), (7, odd r.c), (5, decide (4 ≤ r.f3))] (.dfmaLit r.g r.d r.a r.c (RM.dec r.f3) lit)
  | _ => fromX o r

/-- Read an X-form instruction from its fields. -/
def fromRawX (r : RawX) : Except Nat Instr :=
  match XOp.ofCode r.op with
  | none => .error 1
  | some o =>
    match r.lit with
    | none => fromX o r
    | some lit => if r.l then fromLit o r lit else fromX o r

/-- Read an S-form instruction from its fields (R172). -/
def fromRawS (r : RawS) : Except Nat Instr :=
  match r.op with
  | 0x00 => takeS r (z3 r) (.nopS r.g)
  | 0x01 => takeS r [(4, r.b != 0)] (.movS r.g r.d r.a)
  | 0x02 => takeS r [] (.iaddS r.g r.d r.a r.b)
  | 0x03 => takeS r [] (.isubS r.g r.d r.a r.b)
  | 0x04 => takeS r [] (.imulS r.g r.d r.a r.b)
  | 0x05 => takeS r [] (.andS r.g r.d r.a r.b)
  | 0x06 => takeS r [] (.orS r.g r.d r.a r.b)
  | 0x07 => takeS r [] (.xorS r.g r.d r.a r.b)
  | 0x08 => takeS r [] (.shlS r.g r.d r.a r.b)
  | 0x09 => takeS r [] (.shrS r.g r.d r.a r.b)
  | 0x0A => takeS r [] (.icmpS r.g (r.d % 8) r.a r.b (ccOf (r.d / 8)) (ccU (r.d / 8)))
  | 0x0B => takeS r [] (.faddS r.g r.d r.a r.b)
  | 0x0C => takeS r [] (.fsubS r.g r.d r.a r.b)
  | 0x0D => takeS r [] (.fmulS r.g r.d r.a r.b)
  | 0x0E => takeS r [] (.braS r.g (BitVec.ofNat 18 (r.d + 64 * r.a + 4096 * r.b)))
  | 0x0F => takeS r (z3 r) (.exitS r.g)
  | 0x10 => takeSNoGuard r [(4, r.b != 0)] (.repS r.d (r.a % 4) (r.a / 4 % 4) (r.a / 16))
  | 0x11 => takeS r [(4, decide (2 ≤ r.d)), (5, r.a == 0 && r.b == 0)] (.waittS r.g (r.d % 2 == 1) (BitVec.ofNat 12 (64 * r.a + r.b)))
  | 0x12 => takeS r [(4, decide (8 ≤ r.d)), (5, decide (5 ≤ r.d % 8)), (5, r.a != 0)] (.waitcS r.g (CClass.dec (r.d % 8)) r.b)
  | 0x13 => takeS r [(7, odd r.a)] (.ldS r.g r.d r.a r.b)
  | 0x14 => takeS r [(7, odd r.a)] (.stS r.g r.d r.a r.b)
  | 0x15 => takeS r [] (.aldS r.g r.d r.a r.b)
  | 0x16 => takeS r [] (.astS r.g r.d r.a r.b)
  | 0x17 => takeS r [(4, r.b != 0), (10, decide (34 ≤ r.a)), (7, (SReg.dec r.a).wide && odd r.d)] (.movsS r.g r.d (SReg.dec r.a))
  | _ => .error 1

/-- The uniform slot of its fields, or the reason it is refused (R174). -/
def fromU (op d a b : Nat) : List (Nat × Bool) :=
  (2, decide (17 ≤ op)) ::
  (match op with
   | 0x00 => [(4, d != 0), (4, a != 0), (4, b != 0)]
   | 0x01 => [(4, b != 0)]
   | 0x0B => [(7, odd d), (7, odd a), (7, odd b)]
   | 0x0C => [(7, odd d), (7, odd a)]
   | 0x0D | 0x0E => [(4, decide (16 ≤ d))]
   | _ => [])
/-- The vector slot of its fields, or the reason it is refused (R174). -/
def fromV (op d a b : Nat) : List (Nat × Bool) :=
  (2, decide (25 ≤ op)) ::
  (match op with
   | 0x00 => [(4, d != 0), (4, a != 0), (4, b != 0)]
   | 0x01 => [(4, b != 0)]
   | 0x0D | 0x0E => [(4, decide (16 ≤ d))]
   | _ => [])

/-- A field of a word: width bits from lo upwards. -/
def field (w : Word) (lo width : Nat) : Nat := w.toNat / 2 ^ lo % 2 ^ width
/-- One bit of a word. -/
def bit (w : Word) (i : Nat) : Bool := w.toNat / 2 ^ i % 2 == 1

/-- Read a P-form from its two words (R173). -/
def fromP (w0 w1 : Word) : Except Nat Instr :=
  unlessBad ([(3, field w0 2 3 == 0 && bit w0 5), (4, field w0 30 2 != 0)]
      ++ fromU (field w0 6 6) (field w0 12 6) (field w0 18 6) (field w0 24 6)
      ++ fromV (field w1 0 5) (field w1 5 9) (field w1 14 9) (field w1 23 9))
    (.pformPair { p := field w0 2 3, neg := bit w0 5 }
      { op := UOp.dec (field w0 6 6), d := field w0 12 6, a := field w0 18 6, b := field w0 24 6 }
      { op := VOp.dec (field w1 0 5), d := field w1 5 9, a := field w1 14 9, b := field w1 23 9 })

/-- The fields of an S-form word (R171). -/
def parseS (w : Word) : RawS :=
  { gp := field w 10 3, gn := bit w 13, op := field w 2 8, d := field w 14 6, a := field w 20 6, b := field w 26 6 }
/-- The fields of an X-form's words (R176). -/
def parseX (w0 w1 w2 : Word) (lit : Option DWord) : RawX :=
  { gp := field w0 12 4, gn := bit w0 16, op := field w0 2 10, d := field w0 17 9,
    f3 := field w0 26 3, m29 := bit w0 29, m30 := bit w0 30, m31 := bit w0 31,
    a := field w1 0 9, b := field w1 9 9, c := field w1 18 9, sc := field w1 27 3, i := bit w1 30, l := bit w1 31,
    w2 := w2.toNat, lit := lit }

/-- The number of words the first word announces (R168). -/
def lenWords (w : Word) : Nat :=
  match field w 0 2 with
  | 0 => 1
  | 1 => 2
  | 2 => 3
  | _ => 5

/-- The four instruction forms, numbered as R390 records them. -/
def formOf (w : Word) : Nat := field w 0 2

/-- The reasons of R390 for refusing words. -/
inductive Reason
  | opcode | slotOpcode | guardNotP0 | requiredZero | unlistedCode | literalForm | parity
  | repFollower | ordering | specialRegister | csrNumber
  deriving DecidableEq, Repr
/-- The number R390 records for a reason. -/
def Reason.code : Reason → Nat
  | .opcode => 1 | .slotOpcode => 2 | .guardNotP0 => 3 | .requiredZero => 4 | .unlistedCode => 5 | .literalForm => 6
  | .parity => 7 | .repFollower => 8 | .ordering => 9 | .specialRegister => 10 | .csrNumber => 11
/-- The reason of a number. -/
def Reason.dec : Nat → Reason
  | 1 => .opcode | 2 => .slotOpcode | 3 => .guardNotP0 | 4 => .requiredZero | 5 => .unlistedCode | 6 => .literalForm
  | 7 => .parity | 8 => .repFollower | 9 => .ordering | 10 => .specialRegister | _ => .csrNumber

/-- Why the decoder gives no instruction. -/
inductive Reject
  /-- Fewer words than the first word announces. -/
  | short
  /-- An encoding of R180; the invalid-instruction trap records the reason. -/
  | invalid (why : Reason)
  deriving DecidableEq, Repr

/-- The answer of a form's reader under the names of Reject. -/
def named : Except Nat Instr → Except Reject Instr
  | .ok i => .ok i
  | .error n => .error (.invalid (Reason.dec n))

/-- Decode the words of one instruction (R168-R180). -/
def decodeWords : List Word → Except Reject Instr
  | [] => .error .short
  | w0 :: t =>
    match field w0 0 2, t with
    | 0, _ => named (fromRawS (parseS w0))
    | 1, w1 :: _ => named (fromP w0 w1)
    | 2, w1 :: w2 :: _ => named (fromRawX (parseX w0 w1 w2 none))
    | 3, w1 :: w2 :: w3 :: w4 :: _ => named (fromRawX (parseX w0 w1 w2 (some (w4 ++ w3))))
    | _, _ => .error .short

/-- A word from four bytes, lowest address first (R2, R168). -/
def wordOf (b0 b1 b2 b3 : Byte) : Word := b3 ++ b2 ++ b1 ++ b0
/-- The words of a byte string; a tail of fewer than four bytes makes no word. -/
def wordsOf : List Byte → List Word
  | b0 :: b1 :: b2 :: b3 :: t => wordOf b0 b1 b2 b3 :: wordsOf t
  | _ => []
/-- Decode an instruction from the bytes that begin with it. -/
def decode (bs : List Byte) : Except Reject Instr := decodeWords (wordsOf bs)

/-- X-form fields in the order op, d, a, b, c, F3, [29], [30], [31], scope, I, word 2, without a guard field. -/
def xf0 (op d a b c f3 : Nat) (m29 m30 m31 : Bool) (sc : Nat) (i : Bool) (w2 : Nat) : Raw :=
  .x (RawX.mk 0 false op d a b c f3 m29 m30 m31 sc i false w2 none)
/-- X-form fields in the order op, d, a, b, c, F3, [29], [30], [31], scope, I, word 2, under a guard. -/
def xf (g : Guard) (op d a b c f3 : Nat) (m29 m30 m31 : Bool) (sc : Nat) (i : Bool) (w2 : Nat) : Raw :=
  .x (RawX.mk g.p g.neg op d a b c f3 m29 m30 m31 sc i false w2 none)
/-- The fields of an X-form with a literal: L = 1 and words 3 and 4 (R178). -/
def xl (g : Guard) (op d a b c f3 : Nat) (m29 m30 m31 : Bool) (sc : Nat) (i : Bool) (w2 : Nat) (lit : DWord) : Raw :=
  .x (RawX.mk g.p g.neg op d a b c f3 m29 m30 m31 sc i true w2 (some lit))


/-- The fields of a well-formed instruction; an event has none. -/
def toRaw : Instr → Raw
  | .nopS g => .s { gp := g.p, gn := g.neg, op := 0x00, d := 0, a := 0, b := 0 }
  | .movS g d a => .s { gp := g.p, gn := g.neg, op := 0x01, d := d, a := a, b := 0 }
  | .iaddS g d a b => .s { gp := g.p, gn := g.neg, op := 0x02, d := d, a := a, b := b }
  | .isubS g d a b => .s { gp := g.p, gn := g.neg, op := 0x03, d := d, a := a, b := b }
  | .imulS g d a b => .s { gp := g.p, gn := g.neg, op := 0x04, d := d, a := a, b := b }
  | .andS g d a b => .s { gp := g.p, gn := g.neg, op := 0x05, d := d, a := a, b := b }
  | .orS g d a b => .s { gp := g.p, gn := g.neg, op := 0x06, d := d, a := a, b := b }
  | .xorS g d a b => .s { gp := g.p, gn := g.neg, op := 0x07, d := d, a := a, b := b }
  | .shlS g d a b => .s { gp := g.p, gn := g.neg, op := 0x08, d := d, a := a, b := b }
  | .shrS g d a b => .s { gp := g.p, gn := g.neg, op := 0x09, d := d, a := a, b := b }
  | .icmpS g pd a b cc u => .s { gp := g.p, gn := g.neg, op := 0x0A, d := pd + 8 * ccCode cc u, a := a, b := b }
  | .faddS g d a b => .s { gp := g.p, gn := g.neg, op := 0x0B, d := d, a := a, b := b }
  | .fsubS g d a b => .s { gp := g.p, gn := g.neg, op := 0x0C, d := d, a := a, b := b }
  | .fmulS g d a b => .s { gp := g.p, gn := g.neg, op := 0x0D, d := d, a := a, b := b }
  | .braS g off => .s { gp := g.p, gn := g.neg, op := 0x0E, d := off.toNat % 64, a := off.toNat / 64 % 64, b := off.toNat / 4096 }
  | .exitS g => .s { gp := g.p, gn := g.neg, op := 0x0F, d := 0, a := 0, b := 0 }
  | .repS count sd sa sb => .s { op := 0x10, d := count, a := sd + 4 * sa + 16 * sb, b := 0 }
  | .waittS g all mask => .s { gp := g.p, gn := g.neg, op := 0x11, d := all.toNat, a := mask.toNat / 64, b := mask.toNat % 64 }
  | .waitcS g cls n => .s { gp := g.p, gn := g.neg, op := 0x12, d := cls.code, a := 0, b := n }
  | .ldS g d a off => .s { gp := g.p, gn := g.neg, op := 0x13, d := d, a := a, b := off }
  | .stS g d a off => .s { gp := g.p, gn := g.neg, op := 0x14, d := d, a := a, b := off }
  | .aldS g d a off => .s { gp := g.p, gn := g.neg, op := 0x15, d := d, a := a, b := off }
  | .astS g d a off => .s { gp := g.p, gn := g.neg, op := 0x16, d := d, a := a, b := off }
  | .movsS g d x => .s { gp := g.p, gn := g.neg, op := 0x17, d := d, a := x.code, b := 0 }
  | .pformPair g u v => .p { gp := g.p, gn := g.neg, u := u, v := v }
  | .nop g => xf g 0x000 0 0 0 0 0 false false false 0 false 0
  | .mov g d a => xf g 0x001 d a 0 0 0 false false false 0 false 0
  | .movi g d imm => xf g 0x002 d 0 0 0 0 false false false 0 false imm.toNat
  | .moviLit g d lit => xl g 0x002 d 0 0 0 0 false false false 0 false 0 lit
  | .iadd g d a b sat u => xf g 0x003 d a b.field 0 0 sat u false 0 b.isImm b.word
  | .isub g d a b sat u => xf g 0x004 d a b.field 0 0 sat u false 0 b.isImm b.word
  | .imul g d a b => xf g 0x005 d a b.field 0 0 false false false 0 b.isImm b.word
  | .imulh g d a b u => xf g 0x006 d a b.field 0 0 false u false 0 b.isImm b.word
  | .imad g d a b c => xf g 0x007 d a b.field c 0 false false false 0 b.isImm b.word
  | .imin g d a b u => xf g 0x008 d a b.field 0 0 false u false 0 b.isImm b.word
  | .imax g d a b u => xf g 0x009 d a b.field 0 0 false u false 0 b.isImm b.word
  | .iabs g d a sat => xf g 0x00A d a 0 0 0 sat false false 0 false 0
  | .ineg g d a sat => xf g 0x00B d a 0 0 0 sat false false 0 false 0
  | .and g d a b => xf g 0x00C d a b.field 0 0 false false false 0 b.isImm b.word
  | .or g d a b => xf g 0x00D d a b.field 0 0 false false false 0 b.isImm b.word
  | .xor g d a b => xf g 0x00E d a b.field 0 0 false false false 0 b.isImm b.word
  | .andn g d a b => xf g 0x00F d a b.field 0 0 false false false 0 b.isImm b.word
  | .not g d a => xf g 0x010 d a 0 0 0 false false false 0 false 0
  | .shl g d a b => xf g 0x011 d a b.field 0 0 false false false 0 b.isImm b.word
  | .shr g d a b => xf g 0x012 d a b.field 0 0 false false false 0 b.isImm b.word
  | .sar g d a b => xf g 0x013 d a b.field 0 0 false false false 0 b.isImm b.word
  | .popc g d a => xf g 0x014 d a 0 0 0 false false false 0 false 0
  | .clz g d a => xf g 0x015 d a 0 0 0 false false false 0 false 0
  | .ctz g d a => xf g 0x016 d a 0 0 0 false false false 0 false 0
  | .brev g d a => xf g 0x017 d a 0 0 0 false false false 0 false 0
  | .bfx g d a b u => xf g 0x018 d a b.field 0 0 false u false 0 b.isImm b.word
  | .bfi g d a b c => xf g 0x019 d a b.field c 0 false false false 0 b.isImm b.word
  | .sel g d a b pc => xf g 0x01A d a b.field pc 0 false false false 0 b.isImm b.word
  | .iadd64 g d a b => xf g 0x01B d a b.field 0 0 false false false 0 b.isImm b.word
  | .iadd64Lit g d a lit => xl g 0x01B d a 0 0 0 false false false 0 false 0 lit
  | .isub64 g d a b => xf g 0x01C d a b.field 0 0 false false false 0 b.isImm b.word
  | .isub64Lit g d a lit => xl g 0x01C d a 0 0 0 false false false 0 false 0 lit
  | .imul64 g d a b => xf g 0x01D d a b.field 0 0 false false false 0 b.isImm b.word
  | .imul64Lit g d a lit => xl g 0x01D d a 0 0 0 false false false 0 false 0 lit
  | .shl64 g d a b => xf g 0x01E d a b.field 0 0 false false false 0 b.isImm b.word
  | .shr64 g d a b s => xf g 0x01F d a b.field 0 0 false s false 0 b.isImm b.word
  | .lea g d a b u sh => xf g 0x020 d a b.field 0 sh false u false 0 b.isImm b.word
  | .imulw g d a b u => xf g 0x021 d a b.field 0 0 false u false 0 b.isImm b.word
  | .imadw g d a b c u => xf g 0x022 d a b.field c 0 false u false 0 b.isImm b.word
  | .icmp g pd a b cc u => xf g 0x080 pd a b.field 0 cc.code false u false 0 b.isImm b.word
  | .icmp64 g pd a b cc u => xf g 0x081 pd a b.field 0 cc.code false u false 0 b.isImm b.word
  | .icmp64Lit g pd a cc u lit => xl g 0x081 pd a 0 0 cc.code false u false 0 false 0 lit
  | .fcmp g pd a b cc un => xf g 0x082 pd a b.field 0 cc.code false false un 0 b.isImm b.word
  | .fclass g d a fmt laneIx => xf g 0x083 d a 0 0 0 false false false 0 false (512 * fmt.code + 8192 * laneIx)
  | .pand g pd pa pb => xf g 0x084 pd pa pb 0 0 false false false 0 false 0
  | .por g pd pa pb => xf g 0x085 pd pa pb 0 0 false false false 0 false 0
  | .pxor g pd pa pb => xf g 0x086 pd pa pb 0 0 false false false 0 false 0
  | .pnot g pd pa => xf g 0x087 pd pa 0 0 0 false false false 0 false 0
  | .pmov g f => .x { f.raw with gp := g.p, gn := g.neg, op := 0x088 }
  | .pset g pd v => xf g 0x089 pd 0 0 0 0 false false false 0 false (1 * v.toNat)
  | .fadd g d a b m => xf g 0x0C0 d a b.field 0 m.code false false false 0 b.isImm b.word
  | .fsub g d a b m => xf g 0x0C1 d a b.field 0 m.code false false false 0 b.isImm b.word
  | .fmul g d a b m => xf g 0x0C2 d a b.field 0 m.code false false false 0 b.isImm b.word
  | .ffma g d a b c m => xf g 0x0C3 d a b.field c m.code false false false 0 b.isImm b.word
  | .fmin g d a b => xf g 0x0C4 d a b.field 0 0 false false false 0 b.isImm b.word
  | .fmax g d a b => xf g 0x0C5 d a b.field 0 0 false false false 0 b.isImm b.word
  | .fabs g d a => xf g 0x0C6 d a 0 0 0 false false false 0 false 0
  | .fneg g d a => xf g 0x0C7 d a 0 0 0 false false false 0 false 0
  | .frcp g d a => xf g 0x0C8 d a 0 0 0 false false false 0 false 0
  | .frsq g d a => xf g 0x0C9 d a 0 0 0 false false false 0 false 0
  | .fsqrt g d a m => xf g 0x0CA d a 0 0 m.code false false false 0 false 0
  | .fdiv g d a b m => xf g 0x0CB d a b.field 0 m.code false false false 0 b.isImm b.word
  | .fexp2 g d a => xf g 0x0CC d a 0 0 0 false false false 0 false 0
  | .flog2 g d a => xf g 0x0CD d a 0 0 0 false false false 0 false 0
  | .fsin g d a => xf g 0x0CE d a 0 0 0 false false false 0 false 0
  | .fcos g d a => xf g 0x0CF d a 0 0 0 false false false 0 false 0
  | .ftanh g d a => xf g 0x0D0 d a 0 0 0 false false false 0 false 0
  | .frint g d a m => xf g 0x0D1 d a 0 0 m.code false false false 0 false 0
  | .hadd2 g d a b m h => xf g 0x0D2 d a b.field 0 m.code false h false 0 b.isImm b.word
  | .hmul2 g d a b m h => xf g 0x0D3 d a b.field 0 m.code false h false 0 b.isImm b.word
  | .hfma2 g d a b c m h => xf g 0x0D4 d a b.field c m.code false h false 0 b.isImm b.word
  | .hmin2 g d a b h => xf g 0x0D5 d a b.field 0 0 false h false 0 b.isImm b.word
  | .hmax2 g d a b h => xf g 0x0D6 d a b.field 0 0 false h false 0 b.isImm b.word
  | .dadd g d a b m => xf g 0x0D7 d a b 0 m.code false false false 0 false 0
  | .daddLit g d a m lit => xl g 0x0D7 d a 0 0 m.code false false false 0 false 0 lit
  | .dmul g d a b m => xf g 0x0D8 d a b 0 m.code false false false 0 false 0
  | .dmulLit g d a m lit => xl g 0x0D8 d a 0 0 m.code false false false 0 false 0 lit
  | .dfma g d a b c m => xf g 0x0D9 d a b c m.code false false false 0 false 0
  | .dfmaLit g d a c m lit => xl g 0x0D9 d a 0 c m.code false false false 0 false 0 lit
  | .fscale g d a b m => xf g 0x0DA d a b.field 0 m.code false false false 0 b.isImm b.word
  | .cvt g d a b m sat src dst => xf g 0x140 d a b 0 m.code sat false false 0 false (512 * src.code + 8192 * dst.code)
  | .cvtpk g d a b c e m sat dst j => xf g 0x141 d a b c m.code sat false false 0 false (e + 512 * dst.code + 8192 * j)
  | .cvtex g d a fmt laneIx => xf g 0x142 d a 0 0 0 false false false 0 false (512 * fmt.code + 8192 * laneIx)
  | .qblk g d e a b m sat el bsz scf => xf g 0x143 d a b 0 m.code sat false false 0 false (e + 512 * el.code + 8192 * bsz.code + 32768 * scf.code)
  | .dqblk g d a e el bsz scf => xf g 0x144 d a 0 0 0 false false false 0 false (e + 512 * el.code + 8192 * bsz.code + 32768 * scf.code)
  | .vdot4 g d a b c ua ub => xf g 0x145 d a b.field c 0 false ua ub 0 b.isImm b.word
  | .vdotb g d a b c e ea eb bsz scf => xf g 0x146 d a b c 0 false false false 0 false (e + 512 * ea.code + 8192 * eb.code + 131072 * bsz.code + 524288 * scf.code)
  | .bppack g d a => xf g 0x147 d a 0 0 0 false false false 0 false 0
  | .bpunpk g d a k mid => xf g 0x148 d a 0 0 0 false false false 0 false (512 * k + 8192 * mid.toNat)
  | .vote g mode d pa => xf g 0x180 d pa 0 0 mode.code false false false 0 false 0
  | .shfl g d a b mode => xf g 0x181 d a b.field 0 mode.code false false false 0 b.isImm b.word
  | .red g d a op => xf g 0x182 d a 0 0 0 false false false 0 false (512 * op.code)
  | .scan g d a op excl => xf g 0x183 d a 0 0 0 false excl false 0 false (512 * op.code)
  | .elect g pd => xf g 0x184 pd 0 0 0 0 false false false 0 false 0
  | .matchAny g d a w => xf g 0x185 d a 0 0 0 false w false 0 false 0
  | .bra g imm => xf g 0x1C0 0 0 0 0 0 false false false 0 false imm.toNat
  | .brx g a => xf g 0x1C1 0 a 0 0 0 false false false 0 false 0
  | .call g d imm => xf g 0x1C2 d 0 0 0 0 false false false 0 false imm.toNat
  | .callx g d a => xf g 0x1C3 d a 0 0 0 false false false 0 false 0
  | .ret g a => xf g 0x1C4 0 a 0 0 0 false false false 0 false 0
  | .exit g => xf g 0x1C5 0 0 0 0 0 false false false 0 false 0
  | .trap g n => xf g 0x1C6 0 0 0 0 0 false false false 0 false (1 * n)
  | .brk g n => xf g 0x1C7 0 0 0 0 0 false false false 0 false (1 * n)
  | .yield g => xf g 0x1C8 0 0 0 0 0 false false false 0 false 0
  | .rep count sd sa sb sc se => xf0 0x1C9 0 0 0 0 0 false false false 0 false (1 * count + 256 * sd + 1024 * sa + 4096 * sb + 16384 * sc + 65536 * se)
  | .waitt g all a => xf g 0x200 0 a.field 0 0 all.toNat false false false 0 a.isImm a.word
  | .waitv g a b => xf g 0x201 0 a b.field 0 0 false false false 0 b.isImm b.word
  | .waitc g cls n => xf g 0x202 0 0 0 0 cls.code false false false 0 false (1 * n)
  | .ffr g pc d a => xf g 0x203 d a.field 0 pc 0 false false false 0 a.isImm a.word
  | .tclr g a => xf g 0x204 0 a.field 0 0 0 false false false 0 a.isImm a.word
  | .spawn g imm a n => xf g 0x205 0 a 0 0 (n % 8) (n / 8 % 2 == 1) (n / 16 % 2 == 1) false 0 false imm.toNat
  | .barinit g a imm b => xf g 0x206 0 a b 0 0 false false false 0 false imm.toNat
  | .bararr g d a imm => xf g 0x207 d a 0 0 0 false false false 0 false imm.toNat
  | .barwait g a imm b => xf g 0x208 0 a b 0 0 false false false 0 false imm.toNat
  | .fwait g d a imm cellA sc => xf g 0x209 d a 0 0 0 cellA false false sc.code false imm.toNat
  | .ffill g d a imm b cellA sc => xf g 0x20A d a b 0 0 cellA false false sc.code false imm.toNat
  | .freset g a imm cellA sc => xf g 0x20B 0 a 0 0 0 cellA false false sc.code false imm.toNat
  | .parkw g a imm b c cc w ord sc => xf g 0x20C 0 a b c cc.code w ord.lo ord.hi sc.code false imm.toNat
  | .ld g d a imm size sgn ord sc hint => xf g 0x240 d a 0 hint.code size.code sgn ord.lo ord.hi sc.code false imm.toNat
  | .st g d a imm size ord sc hint => xf g 0x241 d a 0 hint.code size.code false ord.lo ord.hi sc.code false imm.toNat
  | .ldu g d a imm size sgn ord sc => xf g 0x242 d a 0 0 size.code sgn ord.lo ord.hi sc.code false imm.toNat
  | .atom g d a imm b op w rt ord sc => xf g 0x243 d a b op.code (w.toNat + 2 * rt.toNat) false ord.lo ord.hi sc.code false imm.toNat
  | .atomcas g d a imm b c w rt ord sc => xf g 0x244 d a b c (w.toNat + 2 * rt.toNat) false ord.lo ord.hi sc.code false imm.toNat
  | .atomn g a imm b op w rt ord sc => xf g 0x245 0 a b op.code (w.toNat + 2 * rt.toNat) false ord.lo ord.hi sc.code false imm.toNat
  | .fence g kind sc => xf g 0x246 0 0 0 0 0 false kind.lo kind.hi sc.code false 0
  | .wld g d a imm size sgn => xf g 0x247 d a 0 0 size.code sgn false false 0 false imm.toNat
  | .wst g d a imm size => xf g 0x248 d a 0 0 size.code false false false 0 false imm.toNat
  | .ald g d a imm size sgn => xf g 0x249 d a 0 0 size.code sgn false false 0 false imm.toNat
  | .ast g d a imm size => xf g 0x24A d a 0 0 size.code false false false 0 false imm.toNat
  | .cld g d a imm size sgn => xf g 0x24B d a 0 0 size.code sgn false false 0 false imm.toNat
  | .cst g d a imm size => xf g 0x24C d a 0 0 size.code false false false 0 false imm.toNat
  | .ldc g d imm size => xf g 0x24D d 0 0 0 size.code false false false 0 false imm.toNat
  | .pref g a imm l2 => xf g 0x24E 0 a 0 0 0 l2 false false 0 false imm.toNat
  | .spalloc g d b buf lc ar strict => xf g 0x2C0 d 0 b.field 0 (buf.code + 4 * lc.lo) lc.hi ar strict 0 b.isImm b.word
  | .spfree g a buf => xf g 0x2C1 0 a 0 0 buf.code false false false 0 false 0
  | .sprenew g a b buf => xf g 0x2C2 0 a b.field 0 buf.code false false false 0 b.isImm b.word
  | .spstat g d a buf => xf g 0x2C3 d a 0 0 buf.code false false false 0 false 0
  | .spclear g a buf => xf g 0x2C4 0 a 0 0 buf.code false false false 0 false 0
  | .bread g pd a b tag => xf g 0x2E0 pd a b 0 0 false false false 0 false tag
  | .bwrite g pd a tag sc => xf g 0x2E1 pd a 0 0 0 false false false sc.code false tag
  | .bcopy g pd a tag sc => xf g 0x2E2 pd a 0 0 0 false false false sc.code false tag
  | .bfill g pd a tag sc => xf g 0x2E3 pd a 0 0 0 false false false sc.code false tag
  | .bdigest g pd a tag => xf g 0x2E4 pd a 0 0 0 false false false 0 false tag
  | .bstat g d a => xf g 0x2E5 d a.field 0 0 0 false false false 0 a.isImm a.word
  | .mxlw g pd a => xf g 0x300 pd a 0 0 0 false false false 0 false 0
  | .mxrun g pd a => xf g 0x301 pd a 0 0 0 false false false 0 false 0
  | .mxzero g pd a => xf g 0x302 pd a 0 0 0 false false false 0 false 0
  | .mxver g d a => xf g 0x303 d a 0 0 0 false false false 0 false 0
  | .mxhnd g d a b => xf g 0x304 d a b 0 0 false false false 0 false 0
  | .mxrel g a => xf g 0x305 0 a 0 0 0 false false false 0 false 0
  | .coll g pd a tag => xf g 0x320 pd a 0 0 0 false false false 0 false tag
  | .movs g d x => xf g 0x330 d x.code 0 0 0 false false false 0 false 0
  | .movsw g x a => xf g 0x331 x.code a 0 0 0 false false false 0 false 0
  | .regset g d n b => xf g 0x332 d (n - 1) b.field 0 b.isImm.toNat false false false 0 false b.word
  | .shp g d a => xf g 0x333 d a 0 0 0 false false false 0 false 0
  | .uni g d a => xf g 0x334 d a 0 0 0 false false false 0 false 0
  | .ckpt g => xf g 0x335 0 0 0 0 0 false false false 0 false 0
  | .tret g => xf g 0x336 0 0 0 0 0 false false false 0 false 0
  | .cinv g k a imm b => xf g 0x337 0 a b 0 0 k.isD false false k.code false imm.toNat
  | .tlbinv g k sc => xf g 0x338 0 k.fieldA k.fieldB 0 k.code false false false sc.code false 0
  | .csrr g d csr => xf g 0x339 d 0 0 0 0 false false false 0 false (1 * csr)
  | .csrw g csr a => xf g 0x33A 0 a 0 0 0 false false false 0 false (1 * csr)
  | .halt g => xf g 0x33B 0 0 0 0 0 false false false 0 false 0
  | .stubEntry => .none
  | .stubBind => .none
  | .parkmapFetchDone _ _ => .none
  | .resultLanding _ _ _ => .none
  | .storePerformed _ => .none
  | .atomicAtHome _ _ => .none
  | .sprenewComplete _ => .none
  | .cinvComplete _ => .none
  | .tlbinvComplete _ => .none
  | .cohortFormation _ _ => .none
  | .drainAgeExpiry _ _ => .none
  | .cohortAgePromotion _ _ => .none
  | .spillReadback _ _ => .none
  | .recordForward _ _ => .none
  | .schedulerForward _ _ _ => .none
  | .waitEventFire _ _ => .none
  | .l2WatchEvent _ _ => .none
  | .burstReadStart _ _ => .none
  | .burstReturn _ _ _ _ _ => .none
  | .bulkOpComplete _ _ _ _ => .none
  | .mxlwStart _ => .none
  | .mxlwComplete _ => .none
  | .mxrunStart _ => .none
  | .mxrunComplete _ => .none
  | .mxzeroComplete _ => .none
  | .matrixStall _ _ => .none
  | .matrixStallTerminate _ _ => .none
  | .collHopReceive _ _ _ => .none
  | .collComplete _ => .none
  | .collHopTimeout _ => .none
  | .collAbort _ _ => .none
  | .launchPacket _ => .none
  | .launchStart _ => .none
  | .barrierPacket _ => .none
  | .signalPacket _ => .none
  | .sliceBoundary => .none
  | .qdoor _ _ => .none
  | .groveAdmission _ => .none
  | .evict _ _ => .none
  | .evictionOverBound _ => .none
  | .evictionAbandon _ => .none
  | .groveRestore _ _ => .none
  | .groveRetirement _ => .none
  | .registerSweepDone _ => .none
  | .spWrapSweepDone _ => .none
  | .expiryScan _ => .none
  | .sweeperRenew _ _ _ => .none
  | .l2ClassRefresh _ _ _ => .none
  | .watchdogExpiry _ _ => .none
  | .rotatedImageRestore _ => .none
  | .formationStarved _ _ => .none
  | .pfrzKill _ => .none
  | .pcalWrite _ _ => .none
  | .trapDelivery _ => .none
  | .flogcfgWrite _ _ => .none
  | .flogtailWrite _ _ => .none
  | .haltstage _ _ _ => .none
  | .releaseStage _ _ _ => .none
  | .listImages _ => .none
  | .readimg _ _ _ => .none
  | .writeimg _ _ _ => .none
  | .debugStep _ _ => .none
  | .resumeImage _ _ => .none
  | .stalemap _ _ => .none
  | .discardImage _ _ => .none
  | .readsp _ _ _ => .none
  | .demandReplay _ _ _ => .none
  | .demandRefuse _ _ _ => .none
  | .pageWalkComplete _ _ => .none
  | .patrolScrub _ _ _ _ => .none
  | .hostInboundWrite _ _ _ => .none
  | .hostInboundRead _ _ _ _ _ => .none
  | .outboundHostTimeout _ => .none
  | .biSnoopResponse _ => .none
  | .biSnoopTimeout _ => .none
  | .hostLinkDown => .none
  | .hotReset => .none
  | .vfFlr _ => .none
  | .pfFlr => .none
  | .aerError _ _ _ _ => .none
  | .spdmRequest _ => .none
  | .flitReceive _ _ => .none
  | .portRxTimeout _ => .none
  | .laneLoss _ => .none
  | .portRetrainDone _ _ => .none
  | .flowGapTimeout _ => .none
  | .breakMessage _ _ => .none
  | .noRouteTimeout _ => .none
  | .remoteResponseTimeout _ => .none
  | .remoteAtomicRequest _ _ _ _ _ _ _ _ _ _ => .none
  | .timingMessage _ => .none
  | .timeSyncLost => .none
  | .powerGood _ => .none
  | .mgmtPackageReset _ => .none
  | .powerSample _ _ => .none
  | .clockRaise => .none
  | .thermalReport _ _ => .none
  | .thermalTrip _ _ _ => .none
  | .standGate _ => .none
  | .d3hotEntry => .none
  | .loadObject _ => .none
  | .registerExport _ => .none
  | .unloadObject _ => .none
  | .loaderDone _ _ _ => .none
  | .mailboxAccessTable _ _ _ _ => .none
  | .mailboxKeyLoad _ => .none
  | .forensicChallenge => .none
  | .forensicUnlock => .none
  | .forensicRelock => .none
  | .iftRequest => .none
  | .iftScanDone _ _ => .none
  | .checkpointComplete _ => .none
  | .registerWrite _ _ _ => .none
  | .invalidInstruction _ _ => .none
  | .d3hotExit => .none
  | .powerRemoved => .none
  | .timeBaseExchange _ => .none
  | .cxlMemRequest _ _ _ => .none

/-- The word of S-form fields (R171). -/
def RawS.word (r : RawS) : Word :=
  BitVec.ofNat 32 (r.op * 2 ^ 2 + r.gp * 2 ^ 10 + r.gn.toNat * 2 ^ 13 + r.d * 2 ^ 14 + r.a * 2 ^ 20 + r.b * 2 ^ 26)
/-- The words of a pair (R173). -/
def RawP.words (r : RawP) : List Word :=
  [BitVec.ofNat 32 (1 + r.gp * 2 ^ 2 + r.gn.toNat * 2 ^ 5 + r.u.op.code * 2 ^ 6 + r.u.d * 2 ^ 12 + r.u.a * 2 ^ 18 + r.u.b * 2 ^ 24),
   BitVec.ofNat 32 (r.v.op.code + r.v.d * 2 ^ 5 + r.v.a * 2 ^ 14 + r.v.b * 2 ^ 23)]
/-- Word 0 of an X-form (R176). -/
def RawX.word0 (r : RawX) : Word :=
  BitVec.ofNat 32 ((if r.lit.isSome then 3 else 2) + r.op * 2 ^ 2 + r.gp * 2 ^ 12 + r.gn.toNat * 2 ^ 16 + r.d * 2 ^ 17
    + r.f3 * 2 ^ 26 + r.m29.toNat * 2 ^ 29 + r.m30.toNat * 2 ^ 30 + r.m31.toNat * 2 ^ 31)
/-- Word 1 of an X-form (R176). -/
def RawX.word1 (r : RawX) : Word :=
  BitVec.ofNat 32 (r.a + r.b * 2 ^ 9 + r.c * 2 ^ 18 + r.sc * 2 ^ 27 + r.i.toNat * 2 ^ 30 + r.l.toNat * 2 ^ 31)
/-- The words of an X-form (R176). -/
def RawX.words (r : RawX) : List Word :=
  r.word0 :: r.word1 :: BitVec.ofNat 32 r.w2 ::
    match r.lit with
    | none => []
    | some l => [l.setWidth 32, (l >>> 32).setWidth 32]
/-- The words of a form's fields. -/
def Raw.words : Raw → List Word
  | .s r => [r.word]
  | .p r => r.words
  | .x r => r.words
  | .none => []
/-- The words of a well-formed instruction; an event has none. -/
def encode (i : Instr) : List Word := (toRaw i).words

/-- Read an instruction from its fields; a pair's slots are read with it. -/
def fromRaw : Raw → Except Nat Instr
  | .s r => fromRawS r
  | .p r => .ok (.pformPair { p := r.gp, neg := r.gn } r.u r.v)
  | .x r => fromRawX r
  | .none => .error 1

/-- The instruction of the bits w, numbered from bit 0 of the first word; bits above nbits are 0 (the host's question). -/
def decodeTableWord (nbits w : Nat) : Option Instr :=
  let v := w % 2 ^ nbits
  match decodeWords ((List.range 5).map fun k => BitVec.ofNat 32 (v / 2 ^ (32 * k))) with
  | .ok i => some i
  | .error _ => none


end Sys2Proof
end

