-- ==== Sys2Proof/Machine/Numeric.lean ====
section
/-! DEFINITION. Number formats and arithmetic (04): decoding, the one rounding of R90, NaN and zero rules, exact sums, conversions, scaled blocks and bit planes. -/
namespace Sys2Proof

/-- A floating-point value: NaN, an infinity, or (-1)^neg * n * 2^e exactly. -/
inductive FVal
  | nan
  | inf (neg : Bool)
  | fin (neg : Bool) (n : Nat) (e : Int)
  deriving DecidableEq, Repr

/-- The rounding modes of R89 as one type, with the random bits of .sr. -/
inductive Mode
  | rn | rz | ru | rd
  | sr (rbits : Nat)
  deriving DecidableEq, Repr

/-- The mode of an instruction without .sr (R89). -/
def RM.mode : RM → Mode
  | .rn => .rn | .rz => .rz | .ru => .ru | .rd => .rd
/-- The mode of an instruction that accepts .sr, with its random operand (R91). -/
def RMS.mode (rbits : Nat) : RMS → Mode
  | .rn => .rn | .rz => .rz | .ru => .ru | .rd => .rd | .sr => .sr (rbits % 2 ^ 16)

/-- The parameters of a binary floating-point format (R77): fraction bits, bias, width, and the largest finite value as sig * 2^k. -/
structure FP where
  m : Nat
  bias : Nat
  width : Nat
  maxSig : Nat
  maxK : Int
  hasInf : Bool
  alwaysSat : Bool
  nanCode : Nat
  deriving DecidableEq, Repr

/-- The parameters of the formats that round_fmt writes (R77); integer formats and E8M0 have none. -/
def fpOf : Fmt → Option FP
  | .f32 => some { m := 23, bias := 127, width := 32, maxSig := 2 ^ 24 - 1, maxK := 104, hasInf := true, alwaysSat := false, nanCode := 0x7FC00000 }
  | .f16 => some { m := 10, bias := 15, width := 16, maxSig := 2 ^ 11 - 1, maxK := 5, hasInf := true, alwaysSat := false, nanCode := 0x7E00 }
  | .bf16 => some { m := 7, bias := 127, width := 16, maxSig := 2 ^ 8 - 1, maxK := 120, hasInf := true, alwaysSat := false, nanCode := 0x7FC0 }
  | .f64 => some { m := 52, bias := 1023, width := 64, maxSig := 2 ^ 53 - 1, maxK := 971, hasInf := true, alwaysSat := false, nanCode := 0x7FF8000000000000 }
  | .e4m3 => some { m := 3, bias := 7, width := 8, maxSig := 14, maxK := 5, hasInf := false, alwaysSat := true, nanCode := 0x7F }
  | .e5m2 => some { m := 2, bias := 15, width := 8, maxSig := 7, maxK := 13, hasInf := true, alwaysSat := false, nanCode := 0x7E }
  | .e2m1 => some { m := 1, bias := 1, width := 4, maxSig := 3, maxK := 1, hasInf := false, alwaysSat := true, nanCode := 0 }
  | _ => none

/-- FP32 (R77). -/
def fp32 : FP := { m := 23, bias := 127, width := 32, maxSig := 2 ^ 24 - 1, maxK := 104, hasInf := true, alwaysSat := false, nanCode := 0x7FC00000 }
/-- FP64 (R77). -/
def fp64 : FP := { m := 52, bias := 1023, width := 64, maxSig := 2 ^ 53 - 1, maxK := 971, hasInf := true, alwaysSat := false, nanCode := 0x7FF8000000000000 }
/-- FP16 (R77). -/
def fp16 : FP := { m := 10, bias := 15, width := 16, maxSig := 2 ^ 11 - 1, maxK := 5, hasInf := true, alwaysSat := false, nanCode := 0x7E00 }
/-- BF16 (R77). -/
def bf16 : FP := { m := 7, bias := 127, width := 16, maxSig := 2 ^ 8 - 1, maxK := 120, hasInf := true, alwaysSat := false, nanCode := 0x7FC0 }
/-- E4M3 (R77). -/
def e4m3 : FP := { m := 3, bias := 7, width := 8, maxSig := 14, maxK := 5, hasInf := false, alwaysSat := true, nanCode := 0x7F }
/-- E5M2 (R77). -/
def e5m2 : FP := { m := 2, bias := 15, width := 8, maxSig := 7, maxK := 13, hasInf := true, alwaysSat := false, nanCode := 0x7E }
/-- E2M1 (R77). -/
def e2m1 : FP := { m := 1, bias := 1, width := 4, maxSig := 3, maxK := 1, hasInf := false, alwaysSat := true, nanCode := 0 }

/-- The exponent bits of a format. -/
def FP.ebits (F : FP) : Nat := F.width - 1 - F.m
/-- emin = 1 - bias (R77). -/
def FP.emin (F : FP) : Int := 1 - (F.bias : Int)
/-- The sign bit of a result. -/
def FP.sign (F : FP) (neg : Bool) : Nat := if neg then 2 ^ (F.width - 1) else 0
/-- The code of the largest finite value of a sign. -/
def FP.maxCode (F : FP) (neg : Bool) : Nat :=
  F.sign neg + ((F.maxK + F.m + F.bias).toNat * 2 ^ F.m + (F.maxSig - 2 ^ F.m))
/-- The code of an infinity; a format without one is never asked (it always saturates). -/
def FP.infCode (F : FP) (neg : Bool) : Nat := F.sign neg + (2 ^ F.ebits - 1) * 2 ^ F.m

/-- Decode a code of a format (R78, R79). -/
def FP.decode (F : FP) (code : Nat) : FVal :=
  let neg := code / 2 ^ (F.width - 1) % 2 == 1
  let e := code / 2 ^ F.m % 2 ^ F.ebits
  let f := code % 2 ^ F.m
  if F.hasInf && e == 2 ^ F.ebits - 1 then (if f == 0 then .inf neg else .nan)
  else if F.width == 8 && !F.hasInf && e == 15 && f == 7 then .nan
  else if e == 0 then .fin neg f (F.emin - F.m)
  else .fin neg (2 ^ F.m + f) ((e : Int) - F.bias - F.m)

/-- Decode an E8M0 code (R80). -/
def decodeE8M0 (c : Nat) : FVal := if c == 0xFF then .nan else .fin false 1 ((c : Int) - 127)

/-- n * 2^e as a fraction of naturals. -/
def ratio (n : Nat) (e : Int) : Nat × Nat :=
  if 0 ≤ e then (n * 2 ^ e.toNat, 1) else (n, 2 ^ (-e).toNat)

/-- floor (log2 (num / den)) for positive num and den. -/
def flog2 (num den : Nat) : Int :=
  let d : Int := (Nat.log2 num : Int) - Nat.log2 den
  let ge := if 0 ≤ d then decide (den * 2 ^ d.toNat ≤ num) else decide (den ≤ num * 2 ^ (-d).toNat)
  if ge then d else d - 1

/-- Whether the truncated magnitude t with remainder r of D is rounded up (R90). -/
def roundsUp (mode : Mode) (neg : Bool) (t r D : Nat) : Bool :=
  match mode with
  | .rn => decide (D < 2 * r) || (decide (2 * r = D) && t % 2 == 1)
  | .rz => false
  | .ru => !neg && decide (0 < r)
  | .rd => neg && decide (0 < r)
  | .sr rb => decide (2 ^ 16 ≤ r * 2 ^ 16 / D + rb % 2 ^ 16)

/-- round_fmt on a finite magnitude num / den (R90). -/
def FP.roundMag (F : FP) (mode : Mode) (sat : Bool) (neg : Bool) (num den : Nat) : Nat :=
  if num == 0 then F.sign neg
  else
    let e := max (flog2 num den) F.emin
    let k := e - F.m
    let n := if 0 ≤ k then num else num * 2 ^ (-k).toNat
    let D := if 0 ≤ k then den * 2 ^ k.toNat else den
    let t := n / D
    let t' := if roundsUp mode neg t (n % D) D then t + 1 else t
    let tooBig := decide (F.maxK < k) || (decide (k = F.maxK) && decide (F.maxSig < t'))
    if tooBig then
      if sat || F.alwaysSat then F.maxCode neg
      else match mode with
        | .rz => F.maxCode neg
        | .ru => if neg then F.maxCode neg else F.infCode neg
        | .rd => if neg then F.infCode neg else F.maxCode neg
        | _ => F.infCode neg
    else if t' < 2 ^ F.m then F.sign neg + t'
    else F.sign neg + ((e + F.bias).toNat * 2 ^ F.m + (t' - 2 ^ F.m))

/-- round_fmt (R90, R93). -/
def FP.round (F : FP) (mode : Mode) (sat : Bool) : FVal → Nat
  | .nan => F.nanCode
  | .inf neg => if sat || F.alwaysSat then F.maxCode neg else F.infCode neg
  | .fin neg n e => let r := ratio n e; F.roundMag mode sat neg r.1 r.2

/-- The value of an FP32 register. -/
def f32 (w : Word) : FVal := fp32.decode w.toNat
/-- round_fp32 (R90). -/
def roundF32 (mode : Mode) (v : FVal) : Word := BitVec.ofNat 32 (fp32.round mode false v)
/-- The value of an FP64 pair. -/
def f64 (w : DWord) : FVal := fp64.decode w.toNat
/-- round_fmt into FP64. -/
def roundF64 (mode : Mode) (v : FVal) : DWord := BitVec.ofNat 64 (fp64.round mode false v)

/-- A value is negative, counting the sign of a zero. -/
def FVal.neg : FVal → Bool
  | .nan => false
  | .inf s => s
  | .fin s _ _ => s
/-- The value with its sign reversed. -/
def FVal.flip : FVal → FVal
  | .nan => .nan
  | .inf s => .inf (!s)
  | .fin s n e => .fin (!s) n e
/-- The magnitude. -/
def FVal.abs : FVal → FVal
  | .nan => .nan
  | .inf _ => .inf false
  | .fin _ n e => .fin false n e
/-- A zero of either sign. -/
def FVal.isZero : FVal → Bool
  | .fin _ n _ => n == 0
  | _ => false
/-- A finite value. -/
def FVal.isFin : FVal → Bool
  | .fin _ _ _ => true
  | _ => false
/-- A NaN. -/
def FVal.isNan : FVal → Bool
  | .nan => true
  | _ => false

/-- A signed mantissa at exponent e0 (e0 at most e). -/
def mant (neg : Bool) (n : Nat) (e e0 : Int) : Int :=
  let x : Int := ((n * 2 ^ (e - e0).toNat : Nat) : Int)
  if neg then -x else x

/-- The exact sum of two values (R93, R94); the mode decides the sign of an exact zero. -/
def FVal.add (mode : Mode) : FVal → FVal → FVal
  | .nan, _ => .nan
  | _, .nan => .nan
  | .inf s, .inf t => if s == t then .inf s else .nan
  | .inf s, .fin _ _ _ => .inf s
  | .fin _ _ _, .inf t => .inf t
  | .fin s n e, .fin t k f =>
    if n == 0 && k == 0 then
      .fin (if s == t then s else mode == .rd) 0 0
    else if n == 0 then .fin t k f
    else if k == 0 then .fin s n e
    else
      let e0 := min e f
      let x := mant s n e e0 + mant t k f e0
      if x == 0 then .fin (mode == .rd) 0 0 else .fin (decide (x < 0)) x.natAbs e0

/-- The exact product (R93). -/
def FVal.mul : FVal → FVal → FVal
  | .nan, _ => .nan
  | _, .nan => .nan
  | .inf s, .inf t => .inf (s != t)
  | .inf s, .fin t k _ => if k == 0 then .nan else .inf (s != t)
  | .fin s n _, .inf t => if n == 0 then .nan else .inf (s != t)
  | .fin s n e, .fin t k f => .fin (s != t) (n * k) (e + f)

/-- The order of two values that are not NaN, with -0 equal to +0: less, equal, greater. -/
def FVal.cmp : FVal → FVal → Ordering
  | .nan, _ => .eq
  | _, .nan => .eq
  | .inf s, .inf t => if s == t then .eq else if s then .lt else .gt
  | .inf s, .fin _ _ _ => if s then .lt else .gt
  | .fin _ _ _, .inf t => if t then .gt else .lt
  | .fin s n e, .fin t k f => compare (mant s n e (min e f)) (mant t k f (min e f))

/-- minimumNumber (R95): a NaN operand gives the other one, -0 is less than +0. -/
def FVal.minNum (a b : FVal) : FVal :=
  match a, b with
  | .nan, b => b
  | a, .nan => a
  | a, b =>
    match a.cmp b with
    | .lt => a
    | .gt => b
    | .eq => if a.neg then a else b
/-- maximumNumber (R95). -/
def FVal.maxNum (a b : FVal) : FVal :=
  match a, b with
  | .nan, b => b
  | a, .nan => a
  | a, b =>
    match a.cmp b with
    | .lt => b
    | .gt => a
    | .eq => if a.neg then b else a

/-- Integer square root, bit by bit. -/
def isqrtFrom (n : Nat) : Nat → Nat → Nat
  | 0, r => if (r + 1) * (r + 1) ≤ n then r + 1 else r
  | i + 1, r => isqrtFrom n i (if (r + 2 ^ (i + 1)) * (r + 2 ^ (i + 1)) ≤ n then r + 2 ^ (i + 1) else r)
/-- floor (sqrt n). -/
def isqrt (n : Nat) : Nat := isqrtFrom n (Nat.log2 n / 2 + 1) 0

/-- A positive dyadic n * 2^e written with an even exponent. -/
def evenExp (n : Nat) (e : Int) : Nat × Int := if e % 2 == 0 then (n, e) else (2 * n, e - 1)

/-- FSQRT (R209): the root is taken to 32 bits beyond the integer part and its remainder kept as one sticky bit. -/
def sqrtF32 (mode : Mode) : FVal → Word
  | .nan => BitVec.ofNat 32 fp32.nanCode
  | .inf s => if s then BitVec.ofNat 32 fp32.nanCode else BitVec.ofNat 32 (fp32.infCode false)
  | .fin s n e =>
    if n == 0 then BitVec.ofNat 32 (fp32.sign s)
    else if s then BitVec.ofNat 32 fp32.nanCode
    else
      let p := evenExp n e
      let x := p.1 * 2 ^ 64
      let r := isqrt x
      let sticky := if r * r == x then 2 * r else 2 * r + 1
      let q := ratio sticky (p.2 / 2 - 33)
      BitVec.ofNat 32 (fp32.roundMag mode false false q.1 q.2)

/-- FDIV (R209). -/
def divF32 (mode : Mode) (a b : FVal) : Word :=
  match a, b with
  | .nan, _ => BitVec.ofNat 32 fp32.nanCode
  | _, .nan => BitVec.ofNat 32 fp32.nanCode
  | .inf _, .inf _ => BitVec.ofNat 32 fp32.nanCode
  | .inf s, .fin t _ _ => BitVec.ofNat 32 (fp32.infCode (s != t))
  | .fin s _ _, .inf t => BitVec.ofNat 32 (fp32.sign (s != t))
  | .fin s n e, .fin t k f =>
    if k == 0 then (if n == 0 then BitVec.ofNat 32 fp32.nanCode else BitVec.ofNat 32 (fp32.infCode (s != t)))
    else
      let x := ratio n e
      let y := ratio k f
      BitVec.ofNat 32 (fp32.roundMag mode false (s != t) (x.1 * y.2) (x.2 * y.1))

/-- A magnitude num / den rounded to an integer (R96, R209). -/
def roundInt (mode : Mode) (neg : Bool) (num den : Nat) : Nat :=
  let t := num / den
  if roundsUp mode neg t (num % den) den then t + 1 else t

/-- FRINT (R209). -/
def rintF32 (mode : Mode) : FVal → Word
  | .nan => BitVec.ofNat 32 fp32.nanCode
  | .inf s => BitVec.ofNat 32 (fp32.infCode s)
  | .fin s n e =>
    let x := ratio n e
    BitVec.ofNat 32 (fp32.roundMag .rn false s (roundInt mode s x.1 x.2) 1)

/-- FSCALE (R209). A scale past 2^±1000 rounds as 2^±1000 does, beyond the format on either side. -/
def scaleF32 (mode : Mode) (b : Int) : FVal → Word
  | .nan => BitVec.ofNat 32 fp32.nanCode
  | .inf s => BitVec.ofNat 32 (fp32.infCode s)
  | .fin s n e =>
    if n == 0 then BitVec.ofNat 32 (fp32.sign s)
    else roundF32 mode (.fin s n (e + max (-1000) (min 1000 b)))

/-- Signed value of a w-bit code. -/
def sOf (w n : Nat) : Int := if n % 2 ^ w < 2 ^ (w - 1) then ((n % 2 ^ w : Nat) : Int) else ((n % 2 ^ w : Nat) : Int) - 2 ^ w
/-- The w-bit code of an integer, modulo 2^w (R76). -/
def wrapTo (w : Nat) (x : Int) : Nat := (x % 2 ^ w).toNat
/-- Clamp to a range (R76). -/
def clamp (lo hi x : Int) : Int := max lo (min hi x)

/-- Signed integer formats (R76). -/
def Fmt.isSigned : Fmt → Bool
  | .s8 | .s16 | .s32 | .s64 => true
  | _ => false
/-- The exact value of an integer code (R76). -/
def Fmt.intVal (f : Fmt) (code : Nat) : Int := if f.isSigned then sOf f.width code else ((code % 2 ^ f.width : Nat) : Int)
/-- The range of an integer format (R76). -/
def Fmt.intLo (f : Fmt) : Int := if f.isSigned then -(2 ^ (f.width - 1)) else 0
/-- The range of an integer format (R76). -/
def Fmt.intHi (f : Fmt) : Int := if f.isSigned then 2 ^ (f.width - 1) - 1 else 2 ^ f.width - 1

/-- The value of a code of any format (R78, R80, R82). -/
def Fmt.value (f : Fmt) (code : Nat) : FVal :=
  match fpOf f with
  | some F => F.decode code
  | none =>
    if f == .e8m0 then decodeE8M0 (code % 256)
    else let x := f.intVal code; .fin (decide (x < 0)) x.natAbs 0

/-- Conversion to an integer format: rounded, then clamped; NaN gives 0 (R96). -/
def toInt (f : Fmt) (mode : Mode) : FVal → Nat
  | .nan => 0
  | .inf s => wrapTo f.width (if s then f.intLo else f.intHi)
  | .fin s n e =>
    let x := ratio n e
    let t : Int := (roundInt mode s x.1 x.2 : Nat)
    wrapTo f.width (clamp f.intLo f.intHi (if s then -t else t))
/-- Conversion to E8M0 (R96). -/
def toE8M0 (mode : Mode) : FVal → Nat
  | .fin _ n e =>
    if n == 0 then 0xFF
    else
      let x := ratio n e
      let l := flog2 x.1 x.2
      let p := ratio 1 l
      let exact := decide (x.1 * p.2 = p.1 * x.2)
      let l' := if mode == .ru && !exact then l + 1 else l
      (clamp 0 254 (l' + 127)).toNat
  | _ => 0xFF
/-- CVT of a code (R213, R96). -/
def convert (src dst : Fmt) (mode : Mode) (sat : Bool) (code : Nat) : Nat :=
  if src.isInt && dst.isInt then
    let x := src.intVal code
    wrapTo dst.width (if sat then clamp dst.intLo dst.intHi x else x)
  else if dst.isInt then toInt dst mode (src.value code)
  else if dst == .e8m0 then toE8M0 mode (src.value code)
  else match fpOf dst with
    | some F => F.round mode sat (src.value code)
    | none => 0

/-- Element i of a packed register of width w (R81). -/
def elemOf (w i : Nat) (x : Nat) : Nat := x / 2 ^ (w * i) % 2 ^ w
/-- Replace element i of width w (R81). -/
def putElem (w i : Nat) (x v : Nat) : Nat := x - elemOf w i x * 2 ^ (w * i) + v % 2 ^ w * 2 ^ (w * i)

/-- FCLASS (R207): exactly one bit. -/
def classify (f : Fmt) (code : Nat) : Nat :=
  if f == .e8m0 then (if code == 0xFF then 2 ^ 9 else 2 ^ 6)
  else match fpOf f with
    | none => 0
    | some F =>
      let neg := code / 2 ^ (F.width - 1) % 2 == 1
      match F.decode code with
      | .inf s => if s then 2 ^ 0 else 2 ^ 7
      | .nan => if f == .e4m3 || code / 2 ^ (F.m - 1) % 2 == 1 then 2 ^ 9 else 2 ^ 8
      | .fin _ n _ =>
        if n == 0 then (if neg then 2 ^ 3 else 2 ^ 4)
        else if n < 2 ^ F.m then (if neg then 2 ^ 2 else 2 ^ 5)
        else (if neg then 2 ^ 1 else 2 ^ 6)

/-- The exact sum of a list, left to right (R99, R102). -/
def sumV (l : List FVal) : FVal :=
  match l with
  | [] => .fin false 0 0
  | x :: t => t.foldl (FVal.add .rn) x

/-- The format of a block element. -/
def Elem.fmt : Elem → Fmt
  | .e4m3 => .e4m3 | .e5m2 => .e5m2 | .e2m1 => .e2m1 | .s8 => .s8
/-- The exact value of an element code; MXINT8 has an implied scale of 2^-6 (R83). -/
def Elem.value (el : Elem) (code : Nat) : FVal :=
  match el with
  | .s8 => let x := sOf 8 code; .fin (decide (x < 0)) x.natAbs (-6)
  | _ => el.fmt.value code
/-- The width of an element. -/
def Elem.width (el : Elem) : Nat := el.fmt.width
/-- emax of an element format (R86). -/
def Elem.emax : Elem → Int
  | .e4m3 => 8 | .e5m2 => 15 | .e2m1 => 2 | .s8 => 0
/-- The largest finite element (R77). -/
def Elem.maxV : Elem → FVal
  | .e4m3 => .fin false 448 0
  | .e5m2 => .fin false 57344 0
  | .e2m1 => .fin false 6 0
  | .s8 => .fin false 127 (-6)
/-- The elements of a block (R84). -/
def Bsz.count : Bsz → Nat
  | .b8 => 8 | .b16 => 16 | .b32 => 32
/-- The value of a block scale (R84, R85): a NaN or an E5M2 infinity makes the block NaN. -/
def Scf.value (s : Scf) (code : Nat) : FVal :=
  match s with
  | .e8m0 => decodeE8M0 code
  | .e4m3 => FP.decode Sys2Proof.e4m3 code
  | .e5m2 => match FP.decode Sys2Proof.e5m2 code with
    | .inf _ => .nan
    | v => v
/-- The canonical NaN of a scale format (R86). -/
def Scf.nan : Scf → Nat
  | .e8m0 => 0xFF | .e5m2 => 0x7E | .e4m3 => 0x7F
/-- Element i of a block held in consecutive registers (R81). -/
def blockElem (w : Nat) (regs : List Word) (i : Nat) : Nat :=
  elemOf w (i % (32 / w)) ((regs.getD (i / (32 / w)) 0).toNat)

/-- The largest magnitude of finite values. -/
def amaxOf (xs : List FVal) : FVal :=
  xs.foldl (fun a x => if FVal.cmp a x.abs == .lt then x.abs else a) (.fin false 0 0)

/-- A quotient of finite values as a fraction with its sign; the divisor is not zero. -/
def quot : FVal → FVal → Bool × Nat × Nat
  | .fin s n e, .fin t k f =>
    let x := ratio n e
    let y := ratio k f
    (s != t, x.1 * y.2, x.2 * y.1)
  | _, _ => (false, 0, 1)

/-- The shared scale of a block of finite values (R86). -/
def scaleCode (el : Elem) (scf : Scf) (amax : FVal) : Nat :=
  match amax with
  | .fin _ n e =>
    if n == 0 then 0
    else
      let x := ratio n e
      match scf with
      | .e8m0 => (clamp 0 254 (flog2 x.1 x.2 - el.emax + 127)).toNat
      | .e5m2 => let q := quot amax el.maxV; e5m2.roundMag .ru true false q.2.1 q.2.2
      | .e4m3 => let q := quot amax el.maxV; e4m3.roundMag .ru true false q.2.1 q.2.2
  | _ => scf.nan

/-- One element of a quantised block of finite values under a decoded scale (R86, R216). -/
def quantElem (el : Elem) (mode : Mode) (sat : Bool) (s x : FVal) : Nat :=
  if s.isZero then 0
  else
    let q := quot x s
    match el with
    | .s8 =>
      let t : Int := (roundInt mode q.1 (q.2.1 * 64) q.2.2 : Nat)
      wrapTo 8 (clamp (-128) 127 (if q.1 then -t else t))
    | .e4m3 => e4m3.roundMag mode sat q.1 q.2.1 q.2.2
    | .e5m2 => e5m2.roundMag mode sat q.1 q.2.1 q.2.2
    | .e2m1 => e2m1.roundMag mode sat q.1 q.2.1 q.2.2

/-- The canonical NaN code of an element; E2M1 and MXINT8 have none and take 0 (R86). -/
def Elem.nan : Elem → Nat
  | .e4m3 => 0x7F | .e5m2 => 0x7E | .e2m1 => 0 | .s8 => 0

/-- Quantise a block under the shared-scale rule: the scale code and the element codes (R86). -/
def quantBlock (el : Elem) (scf : Scf) (mode : Mode) (sat : Bool) (xs : List FVal) : Nat × List Nat :=
  if xs.any (fun x => !x.isFin) then (scf.nan, xs.map fun _ => el.nan)
  else
    let c := scaleCode el scf (amaxOf xs)
    (c, xs.map (quantElem el mode sat (scf.value c)))

/-- Pack element codes of width w into 32-bit registers (R81). -/
def packElems (w : Nat) (codes : List Nat) : List Word :=
  (List.range ((codes.length * w + 31) / 32)).map fun r =>
    BitVec.ofNat 32 ((List.range (32 / w)).foldl (fun acc i => acc + codes.getD (r * (32 / w) + i) 0 % 2 ^ w * 2 ^ (w * i)) 0)

/-- One block product (R99). -/
def vdotb (acc : FVal) (as bs : List FVal) (sa sb : FVal) : Word :=
  if !sa.isFin || !sb.isFin then BitVec.ofNat 32 fp32.nanCode
  else
    let p := sumV (List.zipWith FVal.mul as bs)
    let t := roundF32 .rn (p.mul (sa.mul sb))
    roundF32 .rn (acc.add .rn (f32 t))

/-- The value of the first k planes of an INT8 code, with MID (R87). -/
def planeVal (k : Nat) (mid : Bool) (code : Nat) : Int :=
  let u := code % 256
  let t := u / 2 ^ (8 - k) * 2 ^ (8 - k)
  sOf 8 t + (if mid && decide (k < 8) then 2 ^ (7 - k) else 0)

/-- A node of the floating-point reduction tree (R100). -/
def faddW (a b : Word) : Word := roundF32 .rn ((f32 a).add .rn (f32 b))
/-- FMIN on FP32 patterns (R95). -/
def fminW (a b : Word) : Word := roundF32 .rn ((f32 a).minNum (f32 b))
/-- FMAX on FP32 patterns (R95). -/
def fmaxW (a b : Word) : Word := roundF32 .rn ((f32 a).maxNum (f32 b))

/-- One level of the balanced tree: neighbours combined, the lower index on the left (R100). -/
def pairUp (op : Word → Word → Word) : List Word → List Word
  | a :: b :: t => op a b :: pairUp op t
  | l => l
/-- The five levels of the tree over 32 values (R100). -/
def treeReduce (op : Word → Word → Word) (l : List Word) : Word :=
  (pairUp op (pairUp op (pairUp op (pairUp op (pairUp op l))))).headD 0
/-- One Kogge-Stone level at distance d (R101). -/
def scanLevel (op : Word → Word → Word) (d : Nat) (l : List Word) : List Word :=
  (List.range 32).map fun i => if d ≤ i then op (l.getD (i - d) 0) (l.getD i 0) else l.getD i 0
/-- The five levels of a scan (R101). -/
def treeScan (op : Word → Word → Word) (l : List Word) : List Word :=
  scanLevel op 16 (scanLevel op 8 (scanLevel op 4 (scanLevel op 2 (scanLevel op 1 l))))

end Sys2Proof
end

