-- ==== Sys2Proof/Machine/Flags.lean ====
section
/-! DEFINITION. The condition computations: integer and FP32 compares (R205, R206). -/
namespace Sys2Proof

/-- A condition on an ordering of two values. -/
def Cc.ofOrd (cc : Cc) (o : Ordering) : Bool :=
  match cc with
  | .eq => o == .eq
  | .ne => o != .eq
  | .lt => o == .lt
  | .le => o != .gt
  | .gt => o == .gt
  | .ge => o != .lt
/-- A condition on two integers. -/
def Cc.int (cc : Cc) (x y : Int) : Bool := cc.ofOrd (compare x y)
/-- The condition of ICMP (R205): the words read as s32, or as u32. -/
def icmp32 (cc : Cc) (u : Bool) (x y : Word) : Bool := if u then cc.int x.toNat y.toNat else cc.int x.toInt y.toInt
/-- The condition of ICMP64 (R205). -/
def icmp64 (cc : Cc) (u : Bool) (x y : DWord) : Bool := if u then cc.int x.toNat y.toNat else cc.int x.toInt y.toInt
/-- The condition of FCMP (R206): with a NaN it is .un. -/
def fcmp32 (cc : Cc) (un : Bool) (x y : Word) : Bool :=
  if (f32 x).isNan || (f32 y).isNan then un else cc.ofOrd ((f32 x).cmp (f32 y))

end Sys2Proof
end

