-- ==== Sys2Proof/Config.lean ====
section
/-! DEFINITION. What an implementation fixes and the values the spec leaves free. Every constant here is opaque: nothing can be proved of its value, so a claim holds for every value. -/
namespace Sys2Proof

/-- Which of the two FP32 values that bracket the exact result FRCP, FRSQ, FEXP2, FLOG2, FSIN, FCOS and FTANH return, by operation number and operand (R210); true is the one farther from zero. -/
opaque Config.sfuFar : Nat → Word → Bool
/-- A fresh free value for each number of the state's counter, where the spec leaves a value open. -/
opaque Config.free : Nat → Nat
/-- The time in ns that one step takes (R4 gives no duration to a step). -/
opaque Config.stepTime : Nat → Nat
/-- The AES-256-XTS ciphertext of a line (R348): the key (its slot plus 64 times the number of its load), the line's address, the 64 bytes as a number. The keys are never disclosed. -/
opaque Config.cipher : Nat → Nat → Nat → Nat
/-- The L2 slice, 256 × die + s, of a physical address under the address hash (R119); the hash is the part's own. -/
opaque Config.sliceOf : Nat → Nat
/-- The HBM4 stack, 0 to 15, that holds a local offset under the address hash (R116). -/
opaque Config.stackOf : Nat → Nat
/-- The number of the device register at an offset of space 3; the spec names the registers but not their addresses (R5, R324). -/
opaque Config.regAt : Nat → Nat
/-- The body of a capability or answer that the spec leaves to the part (R344, R349), by its kind and index. -/
opaque Config.answer : Nat → Nat → Nat

end Sys2Proof
end

