-- ==== Sys2Proof/Machine/State.lean ====
section
/-! DEFINITION. The state of one ZV-640 package as plain data, the two reason types, and the state after reset. -/
namespace Sys2Proof.Machine

/-- Why a step can stop for good. -/
inductive Fault
  /-- Raised by step when the schedule of outside events holds a row that is not an event. It is the model's own stuck state and safe: no run of the device has one. -/
  | agendaNotEvent
  deriving DecidableEq, Repr

/-- Why an instruction has no meaning. -/
inductive Refusal
  /-- Raised by an arm of exec for an instruction not modelled yet. Safe: nothing is claimed of it. -/
  | notModelled (mnemonic : String)
  deriving DecidableEq, Repr

/-- A 48-bit program counter (R24). -/
abbrev Pc := BitVec 48

/-- The content of a register slot with its shape (R60). A slot of a stale generation is not listed in its cohort. -/
inductive Reg
  | general (l : List Word)
  | uniform (u : Word)
  | affine (b st : Word)
  deriving DecidableEq, Repr

/-- What one lane's fault carries (R367, R389): code, address kind, address, generation, the two details. -/
structure Flt where
  code : Nat
  akind : Nat
  addr : Nat
  gen : Nat
  d0 : Nat
  d1 : Nat
  deriving DecidableEq, Repr

/-- A present lane of a cohort (R22, R24, R59, R70); `poison` lists its poisoned registers with the fault each raises (R420). `met` is the PC at which breakpoints have already halted the lane, with the mask of those that may not match there again yet (R381). -/
structure Lane where
  strand : Nat
  pc : Pc
  preds : BitVec 16
  repc : Nat
  poison : NMap Flt
  met : Option (Pc × Nat)
  deriving DecidableEq, Repr

/-- The kinds of cohort (R22, R375). -/
inductive Kind
  | stage | handler | trap
  deriving DecidableEq, Repr

/-- A resident cohort (R22, R57, R64): `regs` lists the registers whose slots hold the cohort's generation, `rslots` the slots of the core's register file that its registers take; `age` is the step it was formed or restored in, `readyTick` the core cycles at its last issue (R317); `segTick` counts for R409, `born` is the tick of its formation or restore (R400); `single` is a debug step's halt id (R387); `birthFault` is a fault that lane 0 raises before the first issue (R237, R32). -/
structure Cohort where
  launch : Nat
  stage : Nat
  kind : Kind
  allot : Nat
  nlanes : Nat
  gen : Nat
  lanes : NMap Lane
  regs : NMap Reg
  rslots : List Nat
  age : Nat
  readyTick : Nat
  segTick : Nat
  born : Nat
  boosted : Bool
  single : Option Nat
  birthFault : Option Flt
  wdogSeen : Bool
  deriving DecidableEq, Repr

/-- The coordinates of a burst in the handler extension (R37). -/
structure Burst where
  row : Nat
  col : Nat
  bseq : Nat
  len : Nat
  op : Nat
  ctx : DWord
  deriving DecidableEq, Repr

/-- An operation counted for a strand (R45): the operation's number, its class, whether it has completed. -/
structure Out where
  id : Nat
  cls : CClass
  done : Bool
  deriving DecidableEq, Repr

/-- A strand: its identity (R36), its burst (R37), its outstanding operations in issue order (R45), what its later accesses wait for (R143): fences still open, and operations its stores, its loads wait for; its core; the twin ordinals of its forwarded accesses, SPAWNs and BREADs, its signature and store count (R457 to R459). -/
structure Strand where
  launch : Nat
  grove : Nat
  stage : Nat
  index : Nat
  burst : Option Burst
  out : List Out
  befStore : List Nat
  befAll : List Nat
  core : Nat
  path : List Nat
  nOrd : Nat
  nSpawn : Nat
  nBread : Nat
  sig : DWord
  nStores : Nat
  deriving DecidableEq, Repr

/-- What a parked strand awaits (R30, R237). -/
inductive WaitEv
  | tags (all : Bool) (mask : DWord)
  | version (h v : Nat)
  | counter (cls : CClass) (n : Nat)
  | barrier (off : Nat) (b : Bool)
  | futA (off d : Nat)
  | futG (va pa key d : Nat) (sc : Scope)
  | watch (va pa key : Nat) (b c : DWord) (cc : Cc) (w : Bool) (ord : Ord) (sc : Scope)
  | xlat (part page va : Nat)
  | tableFree
  | codeReady (stub key : Nat)
  | sweepDone
  | slack
  | ckpt (n : Nat)
  | fwd (n : Nat)
  deriving DecidableEq, Repr

/-- A continuation record (R33 to R38): `regs` lists exactly the saved registers; `pend` the results PEND counts; `page` its page of the record store (R135); `tick` when it parked, then when it was queued; `origin` the PC of the parking instruction; `poison` the poisoned slots; `err` a fault found while parked (R237); `set` what numbers the records that were made ready together (R360), 0 for none; `after` the operations that the read of its condition is ordered after (R143, R160). -/
structure Record where
  strand : Nat
  launch : Nat
  stage : Nat
  hx : Bool
  pc : Pc
  preds : BitVec 16
  repc : Nat
  regs : NMap Word
  contig : Bool
  pend : List Nat
  wait : Option WaitEv
  widx : Option Nat
  held : Bool
  fwd : Bool
  provisional : Bool
  spilled : Bool
  page : Nat
  tick : Nat
  origin : Pc
  poison : NMap Flt
  err : Option Flt
  set : Nat
  after : List Nat
  deriving DecidableEq, Repr

/-- A bin: the records with one key, oldest first, each with the core cycles at its binning, and the record that has reached the drain age there (R39 to R41). -/
structure Bin where
  launch : Nat
  stage : Nat
  hx : Bool
  pc : Pc
  recs : List (Nat × Nat)
  aged : Option Nat
  deriving DecidableEq, Repr

/-- A granule of a scratchpad: its 32 bytes and metadata (R124); `poison` is an uncorrectable error (R430); `refreshed` the age tick of its last L2-class refresh (R132). -/
structure Granule where
  data : List Byte
  gen : Nat
  wtick : Nat
  exp : Bool
  poison : Bool
  refreshed : Nat
  deriving DecidableEq, Repr

/-- A scratchpad allocation (R122): its buffer, grove, offset in the grove's window and size in bytes, class, automatic renewal, strictness, generation (R123). -/
structure Alloc where
  buf : Buf
  grove : Nat
  off : Nat
  size : Nat
  cls : LClass
  ar : Bool
  strict : Bool
  gen : Nat
  deriving DecidableEq, Repr

/-- A cached leaf (R112): partition, the page's first VA and its size in bits, the leaf entry. -/
structure TlbEntry where
  part : Nat
  page : Nat
  bits : Nat
  leaf : DWord
  deriving DecidableEq, Repr

/-- A scratchpad access held in the memory pipeline behind what R143 orders before it (R29, R153, R254, R270). -/
inductive SpOp
  | load | store | stat | barinit | bararr | ffill | freset | alloc (cls : LClass) (ar strict : Bool) | free | clear
  deriving DecidableEq, Repr

/-- The kinds of a memory operation in flight. -/
inductive OpKind
  | load | store | atomic (op : AtomOp) (rt : Bool) | cas (rt : Bool) | ffill | freset | fence | renew (buf : Buf) | cinv | tlbinv | sp (op : SpOp) (buf : Buf)
  deriving DecidableEq, Repr

/-- A memory operation issued and not yet complete (R143, R151): who issued it, where it goes, what it carries, where its result lands, and which operations are ordered before it. `after` lists what must be complete first, `behind` what must only have been sent before it on its flow (R162, R163); `skip` the registers (strand, number) whose result is discarded (R34); `sent` that its request has left the package; `early` that a store is already seen in its core's L1 (R118, R150). `home` tells that an atomic has been performed, or that the host egress has accepted a store whose CXL.cache access is still open (R164), `got` is its value and `bad` the fault its destination takes; `fields` holds what its kind adds (R458 ordinal, CINV and TLBINV operands, OPID, the granules an SPRENEW has still to renew). -/
structure MemOp where
  id : Nat
  kind : OpKind
  cls : Option CClass
  strand : Nat
  grove : Nat
  launch : Nat
  core : Nat
  va : Nat
  pa : Nat
  leaf : DWord
  size : Nat
  sgn : Bool
  data : List Byte
  cmp : List Byte
  dst : Nat
  ndst : Nat
  uni : Bool
  sharers : List Nat
  ord : Ord
  sc : Scope
  nl1 : Bool
  pc : Pc
  after : List Nat
  behind : List Nat
  skip : List (Nat × Nat)
  sent : Bool
  early : Bool
  home : Bool
  got : List Byte
  issued : Nat
  born : Nat
  resends : Nat
  fields : List Nat
  bad : Option Flt
  deriving DecidableEq, Repr

/-- The five bulk operations (R279). -/
inductive BulkKind
  | read | write | copy | fill | digest
  deriving DecidableEq, Repr

/-- A burst of a bulk read (R285): not started, on its way, a handler strand, done; with its error. -/
inductive BurstSt
  | idle | reading | handler (strand : Nat) | done
  deriving DecidableEq, Repr

/-- A bulk operation in its queue (R281): the descriptor's bytes as copied at issue (R284, R288), the origin of its strand (R44, R457), what it waits for, its bursts, the page whose walk it is held on and the pages whose translation was refused (R114, R428), its status bits with the number of failed parts and the first (R423); how many of its parts are done, sectors or blocks of 128 bytes (R319), the message a digest has read so far, what reads outside the package have brought (by 128 × VA + length), the sectors it has written alone to poisoned lines (R419), and whether its own work is over and its entry waits for its tag group (R281, R282). -/
structure BulkOp where
  id : Nat
  kind : BulkKind
  opid : Nat
  core : Nat
  strand : Nat
  grove : Nat
  tag : Nat
  sc : Scope
  desc : List Byte
  ctx : DWord
  ordinal : Nat
  pc : Pc
  after : List Nat
  bursts : NMap BurstSt
  stage : Nat
  index : Nat
  path : List Nat
  started : Bool
  hold : Option Nat
  refused : List Nat
  stat : Nat
  fails : Nat
  first : Option Flt
  prog : Nat
  acc : List Byte
  got : NMap (List Byte × Option Flt)
  halves : List Nat
  done : Bool
  deriving DecidableEq, Repr

/-- The three matrix operations (R290). -/
inductive MatKind
  | lw | run | zero
  deriving DecidableEq, Repr

/-- A matrix operation in its queue or on a path (R290, R298): its parameter block as copied at issue, and what it follows (R159). -/
structure MatOp where
  id : Nat
  kind : MatKind
  strand : Nat
  grove : Nat
  block : List Byte
  pc : Pc
  after : List Nat
  issued : Nat
  started : Option Nat
  reported : Bool
  deriving DecidableEq, Repr

/-- A latched weight slot (R290, R292): the grove that latched it, the format, planes k, MID, and the latched rows, with the scales where there are any. -/
structure WeightSlot where
  grove : Nat
  fmt : Nat
  kpl : Nat
  mid : Bool
  rows : List (List Byte)
  scales : List Byte
  deriving DecidableEq, Repr

/-- A tile handle (R293, R294): its grove and grove-local number, the C offset, rows, version, status bits (1 OVF, 2 ACCE, 4 FMTE), and whether it is released. -/
structure Tile where
  grove : Nat
  num : Nat
  coff : Nat
  rows : Nat
  version : Nat
  status : Nat
  released : Bool
  deriving DecidableEq, Repr

/-- A fetched park-map entry (R193): partition, first and last-plus-one VA, the registers it names. -/
structure ParkMap where
  part : Nat
  lo : Nat
  hi : Nat
  regs : List Nat
  deriving DecidableEq, Repr

/-- A core (R9, R19 to R53). Tables list only what differs from reset: cohorts by slot; the slots of the register file that no resident cohort has written under its own generation, with the generation and content found there (R60, R64); the next register generation; grove slots; bins, the ready queue of sets, and records by their number; granules by physical granule number; the time of the last wrap sweep; live allocations; the engines; caches by sector, a poisoned one with no bytes (R419), and by line, the halves of instruction lines that were bad when filled, by 64-byte line, with the reason (R425); since when the latch path and the array path are idle (R439); fetched park maps; breakpoint registers with the partition that owns each; the slots kept for the handlers of traps to come, with launch, whether of a handler cohort, allotment and generation of the cohort that faulted there (R375). -/
structure Core where
  slots : NMap Cohort
  regFile : NMap (Nat × Reg)
  gen : Nat
  regSweep : Bool
  groves : NMap Nat
  bins : List Bin
  readyQ : List (List Nat)
  records : NMap Record
  spW : NMap Granule
  spA : NMap Granule
  spC : NMap Granule
  allocs : List Alloc
  spGen : Nat
  spSweep : Bool
  scanTick : Nat
  sweptAt : Nat
  bulkQ : List BulkOp
  matQ : List MatOp
  weights : NMap WeightSlot
  tiles : List Tile
  l1d : NMap (List Byte)
  l1i : NMap (List Byte)
  l1iBad : NMap Nat
  latchIdle : Nat
  arrayIdle : Nat
  tlb : List TlbEntry
  parkmaps : List ParkMap
  bps : NMap DWord
  bpOwner : NMap Nat
  kept : NMap (Nat × Bool × Nat × Nat)
  deriving DecidableEq, Repr

/-- A core right after reset: nothing resident, generation counters at their first value (R64, R129). -/
def Core.reset : Core :=
  { slots := [], regFile := [], gen := 1, regSweep := false, groves := [], bins := [], readyQ := [], records := [],
    spW := [], spA := [], spC := [], allocs := [], spGen := 1, spSweep := false, scanTick := 0, sweptAt := 0,
    bulkQ := [], matQ := [], weights := [], tiles := [], l1d := [], l1i := [], l1iBad := [], latchIdle := 0, arrayIdle := 0,
    tlb := [], parkmaps := [], bps := [], bpOwner := [], kept := [] }

/-- A stopped cohort kept outside the slots (R371, R374, R384, R409, R319): its core, its lanes and registers, the faults of its faulted lanes, the record's class and severity and the PC it names, the registers that were stale (once it is written: as it was), the code; when it stopped (R367); of a rotated cohort, a record of each bin that was to drain before it (R409); `edit` holds the image's bytes once a debugger has written into it (R385); `cnts` the counters of its lanes once it is written (R74, R371). -/
structure Stopped where
  core : Nat
  cohort : Cohort
  faults : NMap Flt
  sev : Nat
  pc : Pc
  stale : List Nat
  code : Nat
  tick : Nat
  bins : List Nat
  edit : List Byte
  cnts : Option (NMap Nat)
  deriving DecidableEq, Repr

/-- What is kept of a grove away from its core (R319 to R321, R134), or as the image of a twin checkpoint (R463): whether its windows stayed resident, its cohort images and records, per granule of its allocations the buffer, the window granule, its state (0 another generation, 1 current, 2 unreadable) and content, allocations, tags, tile handles, weight slots, matrix and bulk operations in order, strands. -/
structure Saved where
  resident : Bool
  images : List Stopped
  records : NMap Record
  grans : List (Nat × Nat × Nat × Granule)
  allocs : List Alloc
  tags : DWord
  stat : NMap DWord
  group : NMap (List (Nat × Nat))
  tiles : List Tile
  weights : NMap WeightSlot
  mats : List MatOp
  bulk : List BulkOp
  strands : NMap Strand
  deriving DecidableEq, Repr

/-- An unretired grove (R19, R121): launch, grove index, coordinates; its core and slot while placed; per buffer the window's physical base and size; tags, per tag the pending count in [30:24] with the error bits, and the operations (strand, id) of the open group (R282, R283); the twin pair it belongs to and its side (R456); what is saved of it while evicted; the time of an eviction in progress and the launch it makes room for; when it was placed; when it last issued a matrix operation. -/
structure Grove where
  launch : Nat
  idx : Nat
  x : Nat
  y : Nat
  z : Nat
  core : Nat
  slot : Nat
  placed : Bool
  base : List Nat
  size : List Nat
  tags : DWord
  stat : NMap DWord
  group : NMap (List (Nat × Nat))
  twin : Option (Nat × Bool)
  saved : Option Saved
  evicting : Option Nat
  evictFor : Nat
  evictSeen : Bool
  born : Nat
  matAt : Nat
  deriving DecidableEq, Repr

/-- The fields of a launch packet (R302), decoded. -/
structure Packet where
  prio : Nat
  flags : Nat
  entry : Nat
  codeVa : Nat
  gridX : Nat
  gridY : Nat
  gridZ : Nat
  nstage : Nat
  hallot : Nat
  nstr : List Nat
  allot : List Nat
  req : List Nat
  argVa : Nat
  trapEnt : Nat
  trapSave : Nat
  cplSig : Nat
  depSig : List Nat
  gangTick : Nat
  stageMib : Nat
  deriving DecidableEq, Repr

/-- A trap in delivery (R373 to R377): the image stopped, its present mask, the handler strands by lane, what TRET's restore waits for once it was asked for (R155, R376), whether it has restored. -/
structure Frame where
  img : Stopped
  strands : List Nat
  core : Nat
  trailing : Bool
  due : Option (List Nat)
  restored : Bool
  deriving DecidableEq, Repr

/-- A launch that has started and not retired (R302 to R308, R373, R467): its queue with that queue's GPC, its partition, packet, stage entry addresses, whether its queue is privileged, the next grove to place and the next grove index (R473), the frames in delivery (leading, trailing), the images waiting for them, the stages a debugger holds, each with the stage mask of the request and whether also its burst handlers (R386), staged bytes with the key slot of each of their lines, whether it has failed. -/
structure Launch where
  queue : Nat
  gpc : Nat
  part : Nat
  pkt : Packet
  entries : List Nat
  priv : Bool
  nextGrove : Nat
  nextIdx : Nat
  frames : List Frame
  waiting : List Stopped
  held : NMap (Nat × Bool)
  staged : NMap Byte
  stagedKeys : NMap Nat
  attempts : Nat
  started : Nat
  failed : Bool
  ended : Bool
  deriving DecidableEq, Repr

/-- An entry of a die's fault-coalescing table (R113, R427, R428): partition and page; walking or pending; the level and reason of a failed walk and the entry read; whether strands were told to refuse. -/
structure Coal where
  part : Nat
  page : Nat
  pending : Bool
  level : Nat
  reason : Nat
  leaf : DWord
  acc : Nat
  deriving DecidableEq, Repr

/-- A fault record before SEQ and OVR are known (R367). -/
structure FaultRec where
  cls : Nat
  sev : Nat
  flt : Flt
  src : Nat
  part : Nat
  launch : Nat
  lanes : Nat
  pc : Nat
  grove : Nat
  strand : Nat
  latent : Bool
  twint : Bool
  deriving DecidableEq, Repr

/-- The registers of a partition's block (R108, R136, R313, R325, R337, R338, R369, R380, R385, R401, R406, R409, R455, R461), each under its own name, and what the device keeps beside them: drops, the OVR mark, records that wait for the host to give up the ring's line (R328), the request that froze the partition, until it has had its turn (R406): 0 and a strand, 1 and a bulk operation, 2 and a memory operation, a debug command (OP, ID, ARG) that waits for its image to be written (R371), halted images by halt id with launch and code, rotated images, the measurement chain over its accepted objects (R349). -/
structure Part where
  root : Nat
  pq0 : DWord
  pq1 : DWord
  pcal : DWord
  winva : DWord
  loadsts : DWord
  keymask : BitVec 16
  flogcfg : DWord
  head : Nat
  tail : Nat
  drops : Nat
  ovr : Bool
  pend : List (Nat × FaultRec)
  xstat : DWord
  frozen : Bool
  first : Option (Nat × Nat)
  wdog : DWord
  slack : Nat
  rascnt : DWord
  dbgsel : Nat
  dbgctl : DWord
  dbgsts : DWord
  dbgdata : List Byte
  dbgwait : Option (Nat × Nat × Nat)
  halted : NMap Stopped
  haltId : Nat
  rotated : List Stopped
  forensic : Bool
  chain : List Byte
  deriving DecidableEq, Repr

/-- A partition's block after reset: DRAIN 256 cycles (R41, R313), SLACK 1,024 (R461); partition 0 has the whole capacity (R313). -/
def Part.reset (p : Nat) : Part :=
  { root := 0, pq0 := if p == 0 then 0x60C20010000008 else 8, pq1 := if p == 0 then 0x800080004000 else 0, pcal := 0, winva := 0, loadsts := 0,
    keymask := 0, flogcfg := 0, head := 0, tail := 0, drops := 0, ovr := false, pend := [], xstat := 0, frozen := false, first := none,
    wdog := 0, slack := 1024, rascnt := 0, dbgsel := 0, dbgctl := 0, dbgsts := 0, dbgdata := [], dbgwait := none,
    halted := [], haltId := 1, rotated := [], forensic := false, chain := List.replicate 64 0 }

/-- A store held in a compare buffer (R460): its strand, where it goes, the leaf it was translated by, its bytes. -/
structure Held where
  strand : Nat
  va : Nat
  pa : Nat
  leaf : DWord
  data : List Byte
  deriving DecidableEq, Repr

/-- A twin pair (R456 to R464): the trailing grove, the two halves of the compare buffer in entry order, what their release goes on with once all of it is performed (0 none, 1 the checkpoint, 2 retirement), completed checkpoints, attempts, the atomic log (pair path, ordinal, fields, result), forwarded results, signatures posted at exit, the two checkpoint images, the compare slice. -/
structure Twin where
  trail : Nat
  lead : List Held
  follow : List Held
  releasing : Nat
  ckpt : Nat
  attempts : Nat
  log : List (List Nat × Nat × List Nat × List Byte)
  fwd : List (List Nat × Nat × List Byte)
  posted : List (Bool × List Nat × DWord × Nat)
  leadImg : Saved
  trailImg : Saved
  slice : Nat
  deriving DecidableEq, Repr

/-- A mapped hardware queue slot (R308 to R311): queue id, the descriptor as read, the tick it was mapped at, the packets consumed (RIDX), the head packet once it has been read. -/
structure QSlot where
  qid : Nat
  desc : List Byte
  since : Nat
  ridx : Nat
  head : Option (List Byte)
  deriving DecidableEq, Repr

/-- The queue scheduler (R308 to R317, R413 to R416): QTBL, SCHEDCTL, slots, pending queue ids, queue ids by last mapping (oldest first), queues in the error state with whether their EN has been seen clear, the next launch id, the core of the previous placement, the last slice boundary, the dependency cycles found there with whether each has been recorded, the (launch, core) pairs reported as starved in this slice, the physical addresses each slot watches (R137), the partition through whose block each queue was last marked pending (R414). -/
structure Sched where
  qtbl : DWord
  schedctl : DWord
  slots : NMap QSlot
  pending : List Nat
  mapped : List Nat
  launchId : Nat
  prevCore : Nat
  boundary : Nat
  cycles : List (List Nat × Bool)
  errs : NMap Bool
  starved : List (Nat × Nat)
  watch : NMap (List Nat)
  rung : NMap Nat
  deriving DecidableEq, Repr

/-- A code object known to the loader (R339 to R342): partition, VA, length in bytes, whether it was accepted or only registered, whether it was refused and its WHY (R411), the physical pages made executable, KEYID. -/
structure CodeObj where
  part : Nat
  va : Nat
  len : Nat
  accepted : Bool
  refused : Bool
  why : Nat
  pages : List Nat
  keyid : Nat
  deriving DecidableEq, Repr

/-- The root of trust (R337 to R352, R426, R433, R434): code objects in load order, posted stubs, the public keys of the key store by slot, exec bits by 128 KiB physical page, memory key slots in use with the number of the load (the model's own), access tables by 256 × target + master (eight descriptors), mailbox, doorbell, challenge, the capability list published, the %tick at which step 8 of a boot in progress is done (R350), the recovery state. -/
structure Trust where
  objs : List CodeObj
  posts : List (Nat × Nat × Nat)
  keys : NMap PubKey
  execBits : List Nat
  slots : NMap Nat
  access : NMap (List (BitVec 256))
  mailbox : List Byte
  mbdoor : DWord
  challenge : Option Nat
  published : Bool
  step8 : Option Nat
  recovery : Bool
  deriving DecidableEq, Repr

/-- The host side (R322 to R328, R448 to R453): registers of the physical function, functions that keep an old partition; link and CXL mode; lines the host may hold and snoops without response, each with its time and whether that was reported; what the device has sent: egress (bus address, bytes, relaxed), reads (number, bus address, length), MSI-X (function, vector), completions (tag, status, bytes); AER status by function; last time of a rate-limited record by requester. -/
structure HostSt where
  funcmap : DWord
  funcHeld : NMap Nat
  aperbase : DWord
  pmmiobase : DWord
  linkUp : Bool
  cxl : Bool
  lines : List Nat
  snoops : List (Nat × Nat × Bool)
  egress : List (Nat × List Byte × Bool)
  reads : List (Nat × Nat × Nat)
  msix : List (Nat × Nat)
  completions : List (Nat × Nat × List Byte)
  aer : NMap DWord
  told : NMap Nat
  deriving DecidableEq, Repr

/-- A Chaeri port (R329 to R331, R442): up, lanes, next sequence number to send and to receive; by virtual channel the messages to send with their flow, and the channels whose first message has left in part; the data flits kept for replay, with their LSEQ and the flows of their messages; the channels the partner has stopped; by channel the payloads received and not yet delivered, the order they came in, and the bytes of a message not yet whole; the channels stopped at the partner; successive replay requests made, and those received with the LSEQ they ask from; retraining attempts, the cause that took it down last, last receipt. -/
structure Port where
  up : Bool
  lanes : Nat
  txSeq : Nat
  rxSeq : Nat
  txq : NMap (List (Nat × List Byte))
  cut : List Nat
  replay : List (Nat × List Byte × List Nat)
  xoff : List Nat
  rx : NMap (List (List Byte))
  order : List Nat
  part : NMap (List Byte)
  stopped : List Nat
  replays : Nat
  asks : Nat × Nat
  retrains : Nat
  cause : Nat
  lastRx : Nat
  deriving DecidableEq, Repr

/-- A port before it has trained. -/
def Port.reset : Port :=
  { up := false, lanes := 0, txSeq := 0, rxSeq := 0, txq := [], cut := [], replay := [], xoff := [], rx := [], order := [], part := [], stopped := [], replays := 0, asks := (0, 0),
    retrains := 0, cause := 0, lastRx := 0 }

/-- A flow (R333, R334, R443), one direction: next FSEQ, messages held (out of order at the destination, while broken at the source), since when a gap is open, broken and since when, next OPID, the port its last message left by (R162, R332). -/
structure Flow where
  seq : Nat
  held : List (Nat × List Byte)
  gapSince : Option Nat
  broken : Bool
  since : Nat
  opid : Nat
  port : Option Nat
  deriving DecidableEq, Repr

/-- A flow when the links come up (R333, R334). -/
def Flow.reset : Flow := { seq := 0, held := [], gapSince := none, broken := false, since := 0, opid := 1, port := none }

/-- A collective in progress on this member (R300, R301, R336, R447): its parameter block, its number on the communicator, what has been received by rank (agreement marks under 256 + rank, its own share under 512), since when it waits; `started` when its share has gone up the tree; the page it is held on and whether that was refused (R114, R428); whether its own work is over and its entry waits for its tag group (R281, R282). -/
structure CollOp where
  id : Nat
  core : Nat
  strand : Nat
  grove : Nat
  tag : Nat
  block : List Byte
  after : List Nat
  comm : Nat
  ordinal : Nat
  hops : List (Nat × List Byte)
  since : Nat
  started : Bool
  hold : Option Nat
  refused : Bool
  pc : Pc
  done : Bool
  deriving DecidableEq, Repr

/-- A hop of a collective on its way in (R336): communicator, number of the collective, source package, bytes in all, and the pieces that have come with their offsets. -/
structure HopIn where
  comm : Nat
  ordinal : Nat
  src : Nat
  total : Nat
  pieces : List (Nat × List Byte)
  deriving DecidableEq, Repr

/-- The link side (R329 to R336, R440 to R447): COMMTBL, ROUTE, the counters of CHLSTAT and ECNT, ports, flows by number (package, plus 256 × class, plus 1,024 × ORD, plus 4,096 for those this package sends), collectives, counts by communicator, fenced communicators, results kept by flow and OPID, messages sent with their flow, the flits that left with their port, messages delivered, hops not yet taken by their collective, messages whose write waits for the host to give up a line (R328), lines of this package that others watch: package, line, partition, place in the order of watches (R137, R403); what units of the device have read outside the package and not yet used, by physical address (R326). -/
structure LinkSt where
  commtbl : DWord
  route : NMap Nat
  chlstat : NMap DWord
  ecnt : NMap DWord
  ports : NMap Port
  flows : NMap Flow
  colls : List CollOp
  commCount : NMap Nat
  fenced : List Nat
  opids : List (Nat × Nat × List Byte)
  sent : List (Nat × List Byte)
  wire : List (Nat × List Byte)
  inbox : List (List Byte)
  hops : List HopIn
  waiting : List (List Byte)
  watches : List (Nat × Nat × Nat × Nat)
  got : NMap (List Byte × Option Flt)
  deriving DecidableEq, Repr

/-- The power states (R350, R354). -/
inductive PState
  | off | run | d3hot
  deriving DecidableEq, Repr

/-- The telemetry of the management bus as last refreshed (R359): Tj and its maximum by die in 0.25 °C, %lcmax by die, core-rail current in A, package power in W, clock in 100 MHz, temperature of each HBM4 stack in °C, the error counts (R431), power state, recovery state. -/
structure Telemetry where
  tj : NMap Nat
  tjMax : NMap Nat
  lcmax : List Nat
  amps : Nat
  watts : Nat
  clock : Nat
  stackTemps : List Nat
  ecnt : NMap DWord
  state : PState
  recovery : Bool
  deriving DecidableEq, Repr

/-- Power, clock and time base (R71, R132, R350 to R359): state, clock in MHz, PWRLIM, since when below the limits, %lcmax and the hot run by die, disabled and gated and withdrawn stands, idle since by stand, synchronisation of %tick: whether and since when, whether the one jump was made, the offset to the master still to take up and the ns towards the next step of the rate, the last exchange; the last sample of current and power, the greatest Tj by die, the telemetry. -/
structure PowerSt where
  state : PState
  mhz : Nat
  pwrlim : DWord
  below : Option Nat
  lcmax : NMap Nat
  cool : NMap Nat
  tj : NMap Nat
  disabled : List Nat
  gated : List Nat
  outOfService : List Nat
  idle : NMap Nat
  synced : Bool
  lastSync : Nat
  joined : Bool
  drift : Int
  slew : Nat
  lastExch : Option Nat
  amps : Nat
  watts : Nat
  tjMax : NMap Nat
  telem : Option Telemetry
  deriving DecidableEq, Repr

/-- The machine. Of its own making, not the spec's: `seq` numbers strands, operations, groves and records; `freeN` counts the free values taken; `stepN` counts steps; `lag` is how many steps an operation waits before it completes by default; `agenda` lists the outside and asynchronous events still to come with the time of each; `cur` is the core and slot whose cohort issues, `slot1` the PC and lanes where it is the second issue slot's turn, `next1` the core, slot, age, PC and lanes that the second issue slot takes next (R25, R317). `cyc` counts core cycles in thousandths (R4). -/
structure State where
  seq : Nat
  freeN : Nat
  stepN : Nat
  lag : Nat
  agenda : List (Nat × Instr)
  cur : Option (Nat × Nat)
  slot1 : Option (Pc × List Nat)
  next1 : Option (Nat × Nat × Nat × Pc × List Nat)
  cyc : Nat
  tick : Nat
  pkg : Nat
  mem : List Host.Cell
  dieLocal : Bool
  poisoned : List Nat
  tagBad : List Nat
  slotLines : NMap Nat
  scrubCounts : NMap Nat
  twininj : DWord
  cores : NMap Core
  standTlbs : NMap (List TlbEntry)
  dies : NMap (NMap Coal)
  strands : NMap Strand
  groves : NMap Grove
  launches : NMap Launch
  parts : NMap Part
  ops : List MemOp
  twins : NMap Twin
  sched : Sched
  trust : Trust
  host : HostSt
  link : LinkSt
  pow : PowerSt
  deriving DecidableEq, Repr

/-- The scheduler after reset: SLICE 100 µs (R310), nothing mapped. -/
def Sched.reset : Sched :=
  { qtbl := 0, schedctl := 0x640000, slots := [], pending := [], mapped := [], launchId := 1, prevCore := 639, boundary := 0,
    cycles := [], errs := [], starved := [], watch := [], rung := [] }

/-- The root of trust after reset: nothing loaded, every exec bit clear (R340), every access table 0 (R346). -/
def Trust.reset : Trust :=
  { objs := [], posts := [], keys := [], execBits := [], slots := [], access := [], mailbox := [], mbdoor := 0,
    challenge := none, published := true, step8 := none, recovery := false }

/-- The host side after reset: FUNCMAP maps function n to partition n (R323). -/
def HostSt.reset : HostSt :=
  { funcmap := 0xFEDCBA9876543210, funcHeld := [], aperbase := 0, pmmiobase := 0, linkUp := true, cxl := false, lines := [],
    snoops := [], egress := [], reads := [], msix := [], completions := [], aer := [], told := [] }

/-- The links after reset. -/
def LinkSt.reset : LinkSt :=
  { commtbl := 0, route := [], chlstat := [], ecnt := [], ports := [], flows := [], colls := [], commCount := [], fenced := [],
    opids := [], sent := [], wire := [], inbox := [], hops := [], waiting := [], watches := [], got := [] }

/-- Power after reset: 1,800 MHz (R4), PWRLIM 3,000 W (R353). -/
def PowerSt.reset : PowerSt :=
  { state := .run, mhz := 1800, pwrlim := 3000, below := none, lcmax := [], cool := [], tj := [], disabled := [], gated := [],
    outOfService := [], idle := [], synced := true, lastSync := 0, joined := false, drift := 0, slew := 0, lastExch := none,
    amps := 0, watts := 0, tjMax := [], telem := none }

/-- The machine right after reset, at the end of the boot sequence (R350): nothing placed, nothing loaded, memory with nothing listed. -/
def State.reset : State :=
  { seq := 1, freeN := 0, stepN := 0, lag := 0, agenda := [], cur := none, slot1 := none, next1 := none, cyc := 0, tick := 0, pkg := 0, mem := [], dieLocal := false,
    poisoned := [], tagBad := [], slotLines := [], scrubCounts := [], twininj := 0, cores := [], standTlbs := [], dies := [],
    strands := [], groves := [], launches := [], parts := [], ops := [], twins := [], sched := Sched.reset,
    trust := Trust.reset, host := HostSt.reset, link := LinkSt.reset, pow := PowerSt.reset }

end Sys2Proof.Machine
end

