-- ==== Sys2Proof/Machine/Ops.lean ====
section
/-! DEFINITION. The named operations over bytes, memory, registers, strands and records that every meaning uses. -/
namespace Sys2Proof

/-- The ticks a class holds for (R125). -/
def LClass.ticks : LClass → Nat
  | .l0 => 16
  | .l1 => 64
  | .l2 => 256
/-- The number of a class. -/
def LClass.num : LClass → Nat
  | .l0 => 0
  | .l1 => 1
  | .l2 => 2
/-- A comparison under a condition, unsigned (R205, R253). -/
def Cc.holdsU (cc : Cc) (x y : Nat) : Bool :=
  match cc with
  | .eq => x == y
  | .ne => x != y
  | .lt => decide (x < y)
  | .le => decide (x ≤ y)
  | .gt => decide (y < x)
  | .ge => decide (y ≤ x)
/-- The ordering kind carries an acquire. -/
def Ord.isAcq : Ord → Bool
  | .acq | .acqrel => true
  | .plain | .rel => false
/-- The ordering kind carries a release. -/
def Ord.isRel : Ord → Bool
  | .rel | .acqrel => true
  | .plain | .acq => false
end Sys2Proof

namespace Sys2Proof.Machine

/-! Bytes and bit fields -/

/-- Byte i of a number, little-endian (R2). -/
def byteAt (n i : Nat) : Byte := BitVec.ofNat 8 (n / 256 ^ i)
/-- The k low bytes of a number, little-endian (R2). -/
def leBytes (k n : Nat) : List Byte := (List.range k).map (byteAt n)
/-- The number that bytes hold, little-endian (R2). -/
def leNat : List Byte → Nat
  | [] => 0
  | b :: t => b.toNat + 256 * leNat t
/-- The bits [hi:lo] of a number. -/
def bitsN (n hi lo : Nat) : Nat := n / 2 ^ lo % 2 ^ (hi + 1 - lo)
/-- Bit i of a number. -/
def bitN (n i : Nat) : Bool := n / 2 ^ i % 2 == 1
/-- The bits [hi:lo] of a 64-bit register. -/
def fld (w : DWord) (hi lo : Nat) : Nat := bitsN w.toNat hi lo
/-- A 64-bit register with the bits [hi:lo] replaced. -/
def putFld (w : DWord) (hi lo v : Nat) : DWord :=
  BitVec.ofNat 64 (w.toNat - fld w hi lo * 2 ^ lo + v % 2 ^ (hi + 1 - lo) * 2 ^ lo)
/-- The number in k bytes of a block at an offset. -/
def getLe (bs : List Byte) (off k : Nat) : Nat := leNat ((bs.drop off).take k)
/-- A block with the bytes at an offset replaced. -/
def putBytes (bs : List Byte) (off : Nat) (new : List Byte) : List Byte :=
  bs.take off ++ new ++ bs.drop (off + new.length)
/-- Pad a block with zero bytes to a length. -/
def padTo (n : Nat) (bs : List Byte) : List Byte := bs ++ List.replicate (n - bs.length) 0
/-- Round up to a multiple. -/
def roundUp (n m : Nat) : Nat := (n + m - 1) / m * m
/-- The mask whose bit l is set for each listed l. -/
def maskOf (ls : List Nat) : Nat := ls.foldl (fun a l => a ||| 2 ^ l) 0
/-- The bits set in a mask below a width. -/
def bitsSet (width mask : Nat) : List Nat := (List.range width).filter (bitN mask)
/-- A 64-bit value from a register pair (R58). -/
def pairOf (lo hi : Word) : DWord := hi ++ lo

/-! Memory of space 0 (R115): what nothing has written reads as zero -/

/-- One byte of local memory at a physical address. An unlisted address reads 0x00 (DESIGN CHOICE, log 1). -/
def State.readByte (s : State) (a : Nat) : Byte := NMap.getD s.mem a 0
/-- The memory with one byte written; a byte equal to what an unlisted address reads as is not listed. -/
def memPut (m : List Host.Cell) (a : Nat) (b : Byte) : List Host.Cell := if b = 0 then NMap.del m a else NMap.put m a b
/-- Write one byte of local memory. -/
def State.writeByte (s : State) (a : Nat) (b : Byte) : State := { s with mem := memPut s.mem a b }
/-- k bytes from an address upwards. -/
def State.readMem (s : State) (a k : Nat) : List Byte := (List.range k).map fun i => s.readByte (a + i)
/-- The memory with bytes written from an address upwards. -/
def memPuts (m : List Host.Cell) (a : Nat) : List Byte → List Host.Cell
  | [] => m
  | b :: t => memPuts (memPut m a b) (a + 1) t
/-- Write bytes from an address upwards. -/
def State.writeMem (s : State) (a : Nat) (bs : List Byte) : State := { s with mem := memPuts s.mem a bs }
/-- The memory is in its one form: addresses rise strictly and no listed byte is 0. -/
def Memory.wf (m : List Host.Cell) : Bool := NMap.sorted m && m.all fun c => c.2 != 0

/-! Tables of the state -/

/-- A core's state. -/
def State.core (s : State) (c : Nat) : Core := s.cores.getD c Core.reset
/-- Replace a core's state. -/
def State.setCore (s : State) (c : Nat) (k : Core) : State := { s with cores := s.cores.put c k }
/-- Change a core's state. -/
def State.modCore (s : State) (c : Nat) (f : Core → Core) : State := s.setCore c (f (s.core c))
/-- A partition's registers. -/
def State.part (s : State) (p : Nat) : Part := s.parts.getD p (Part.reset p)
/-- Change a partition's registers. -/
def State.modPart (s : State) (p : Nat) (f : Part → Part) : State := { s with parts := s.parts.put p (f (s.part p)) }
/-- Change a grove. -/
def State.modGrove (s : State) (g : Nat) (f : Grove → Grove) : State := { s with groves := s.groves.adj g f }
/-- Change a strand. -/
def State.modStrand (s : State) (n : Nat) (f : Strand → Strand) : State := { s with strands := s.strands.adj n f }
/-- Change a launch. -/
def State.modLaunch (s : State) (n : Nat) (f : Launch → Launch) : State := { s with launches := s.launches.adj n f }
/-- The cohort of a slot. -/
def State.cohort? (s : State) (c sl : Nat) : Option Cohort := (s.core c).slots.find? sl
/-- The register file with what a cohort wrote, each slot stamped with its generation (R60, R64). -/
def Cohort.stamp (co : Cohort) (m : NMap (Nat × Reg)) : NMap (Nat × Reg) :=
  co.regs.foldl (fun m r => match co.rslots[r.1]? with
    | some n => NMap.put m n (co.gen, r.2)
    | none => m) m
/-- A cohort leaves its slot; the register file keeps what it wrote (R60, R64). -/
def Core.vacate (k : Core) (sl : Nat) : Core :=
  match k.slots.find? sl with
  | none => k
  | some co => { k with slots := k.slots.del sl, regFile := co.stamp k.regFile }
/-- The lowest n numbers from i whose bit is clear in a mask, among `fuel` of them. -/
def clearBits (used : Nat) : Nat → Nat → Nat → List Nat
  | 0, _, _ => []
  | fuel + 1, i, n => if n = 0 then [] else if bitN used i then clearBits used fuel (i + 1) n else i :: clearBits used fuel (i + 1) (n - 1)
/-- The slots of the register file that a new cohort takes (R60): the lowest that no resident cohort holds (DESIGN CHOICE, log 93). -/
def Core.regSlots (k : Core) (allot : Nat) : List Nat := clearBits (maskOf (k.slots.flatMap fun x => x.2.rslots)) 4096 0 allot
/-- The generation that a read finds in the slot of a register its cohort has not written (R64): 0 if nothing has since a sweep. -/
def Core.foundGen (k : Core) (co : Cohort) (n : Nat) : Nat := ((co.rslots[n]?).bind fun i => k.regFile.find? i).elim 0 Prod.fst
/-- Replace the cohort of a slot; a cohort with no present lane frees its slot (R22). -/
def State.setCohort (s : State) (c sl : Nat) (co : Cohort) : State :=
  s.modCore c fun k => if co.lanes.isEmpty then { k with slots := k.slots.put sl co }.vacate sl else { k with slots := k.slots.put sl co }
/-- Change the cohort of a slot, if one is there. -/
def State.modCohort (s : State) (c sl : Nat) (f : Cohort → Cohort) : State :=
  match s.cohort? c sl with
  | some co => s.setCohort c sl (f co)
  | none => s
/-- Take the next number for a strand, an operation, a grove or a record. -/
def State.fresh (s : State) : Nat × State := (s.seq, { s with seq := s.seq + 1 })
/-- Take the next free value (a value the spec leaves open). -/
def State.takeFree (s : State) : Nat × State := (Config.free s.freeN, { s with freeN := s.freeN + 1 })
/-- The die of a core (R9): 20 stands of 8 cores. -/
def dieOf (core : Nat) : Nat := core / 160
/-- The stand of a core (R9). -/
def standOf (core : Nat) : Nat := core / 8

/-- Put an event on the schedule, after what is already due. -/
def enqueue (t : Nat) (i : Instr) : List (Nat × Instr) → List (Nat × Instr)
  | [] => [(t, i)]
  | (u, j) :: r => if u ≤ t then (u, j) :: enqueue t i r else (t, i) :: (u, j) :: r
/-- An event that follows now. -/
def State.schedule (s : State) (i : Instr) : State := { s with agenda := enqueue s.tick i s.agenda }

/-! Registers, shapes and generations (R57 to R66) -/

/-- The value of a register slot in a lane (R60). -/
def Reg.lane (r : Reg) (l : Nat) : Word :=
  match r with
  | .general xs => xs.getD l 0
  | .uniform u => u
  | .affine b st => b + BitVec.ofNat 32 l * st
/-- The shape code of R60. -/
def Reg.tag : Reg → Nat
  | .general _ => 0
  | .uniform _ => 1
  | .affine _ _ => 2
/-- The value that gen_read gives without the strict fault (R64). -/
def Cohort.reg (co : Cohort) (n l : Nat) : Word :=
  match co.regs.find? n with
  | some r => r.lane l
  | none => 0
/-- A register pair of a lane (R58). -/
def Cohort.reg64 (co : Cohort) (n l : Nat) : DWord := pairOf (co.reg n l) (co.reg (n + 1) l)
/-- The slot is of a stale generation (R64). -/
def Cohort.stale (co : Cohort) (n : Nat) : Bool := (co.regs.find? n).isNone
/-- The value of predicate p in a lane; p0 reads 1 (R59). -/
def Lane.pred (x : Lane) (p : Nat) : Bool := p == 0 || x.preds.getLsbD p
/-- Write a predicate; p0 ignores writes (R59). -/
def Lane.setPred (x : Lane) (p : Nat) (v : Bool) : Lane :=
  if p == 0 ∨ 16 ≤ p then x
  else { x with preds := if v then x.preds ||| BitVec.ofNat 16 (2 ^ p) else x.preds &&& ~~~BitVec.ofNat 16 (2 ^ p) }
/-- A lane's predicate in a cohort; an absent lane has none. -/
def Cohort.pred (co : Cohort) (p l : Nat) : Bool :=
  match co.lanes.find? l with
  | some x => x.pred p
  | none => p == 0
/-- Change a present lane. -/
def Cohort.modLane (co : Cohort) (l : Nat) (f : Lane → Lane) : Cohort := { co with lanes := co.lanes.adj l f }
/-- Write a predicate in a lane. -/
def Cohort.setPred (co : Cohort) (p l : Nat) (v : Bool) : Cohort := co.modLane l fun x => x.setPred p v
/-- The present mask (R22). -/
def Cohort.present (co : Cohort) : List Nat := co.lanes.keys

/-- The shape of a source, or of a result (R60, R61). -/
inductive Sh
  | gen
  | uni
  | aff (b st : Word)
  deriving DecidableEq, Repr

/-- The shape a register has as a source; a stale one counts as uniform 0 (R61, R64). -/
def Cohort.shape (co : Cohort) (n : Nat) : Sh :=
  match co.regs.find? n with
  | some (.general _) => .gen
  | some (.uniform _) => .uni
  | some (.affine b st) => .aff b st
  | none => .uni

/-- Rows 1 and 5 of R61: uniform when every source is uniform, else general. -/
def Sh.all : List Sh → Sh
  | [] => .uni
  | .uni :: t => Sh.all t
  | _ :: _ => .gen

/-- Write values into the lanes listed. The write is full when the lanes are the whole present mask (R61); a stale slot is cleared in every lane not reached, a current slot keeps them (R65). -/
def Cohort.write (co : Cohort) (n : Nat) (sh : Sh) (ls : List Nat) (f : Nat → Word) : Cohort :=
  let full := decide (ls = co.present)
  let slot : Reg :=
    match sh, full with
    | .uni, true => .uniform (f (ls.headD 0))
    | .aff b st, true => .affine b st
    | _, _ => .general ((List.range 32).map fun l => if l ∈ ls then f l else co.reg n l)
  if ls.isEmpty then co else { co with regs := co.regs.put n slot }
/-- Write a pair, each register under its own shape (R61). -/
def Cohort.write64 (co : Cohort) (n : Nat) (lo hi : Sh) (ls : List Nat) (f : Nat → DWord) : Cohort :=
  (co.write n lo ls fun l => (f l).setWidth 32).write (n + 1) hi ls fun l => (f l >>> 32).setWidth 32
/-- A result that lands later in one lane (R230, R65): general. -/
def Cohort.land (co : Cohort) (n l : Nat) (w : Word) : Cohort :=
  { co with regs := co.regs.put n (.general ((List.range 32).map fun i => if i = l then w else co.reg n i)) }

/-! Outstanding counters (R45 to R48) -/

/-- Drop the completed prefix of a class, in issue order (R45). -/
def stripDone (cls : CClass) : List Out → List Out
  | [] => []
  | o :: t => if o.cls = cls then (if o.done then stripDone cls t else o :: t) else o :: stripDone cls t
/-- The value of a class's counter (R45). -/
def Strand.count (t : Strand) (cls : CClass) : Nat := (t.out.filter fun o => o.cls == cls).length
/-- The five counters packed as %cnt (R72). -/
def Strand.cnt (t : Strand) : Nat :=
  t.count .ld + 64 * (t.count .st + 64 * (t.count .bk + 64 * (t.count .mx + 64 * t.count .cl)))
/-- Count an operation at its issue. -/
def Strand.issue (t : Strand) (id : Nat) (cls : CClass) : Strand := { t with out := t.out ++ [{ id := id, cls := cls, done := false }] }
/-- Mark an operation complete and let the counter fall (R45). -/
def Strand.complete (t : Strand) (id : Nat) : Strand :=
  match t.out.find? fun o => o.id == id with
  | some o => { t with out := stripDone o.cls (t.out.map fun x => if x.id = id then { x with done := true } else x) }
  | none => t

/-! Scratchpads (R120 to R134) -/

/-- The age tick T of R125. -/
def State.T (s : State) : Nat := s.tick / 4000 % 512
/-- A granule after reset (R124). -/
def Granule.reset : Granule := { data := List.replicate 32 0, gen := 0, wtick := 0, exp := false, poison := false, refreshed := 0 }
/-- The granules of a buffer. -/
def Core.sp (k : Core) : Buf → NMap Granule
  | .w => k.spW
  | .a => k.spA
  | .c => k.spC
/-- Replace the granules of a buffer. -/
def Core.setSp (k : Core) (b : Buf) (m : NMap Granule) : Core :=
  match b with
  | .w => { k with spW := m }
  | .a => { k with spA := m }
  | .c => { k with spC := m }
/-- The granule at a physical granule number. -/
def Core.gran (k : Core) (b : Buf) (n : Nat) : Granule := (k.sp b).getD n Granule.reset
/-- A granule that nothing has written since reset or the last wrap sweep has WTICK 0, so the expiry scans made at ages of 256 and more have marked it since (R124, R126). -/
def State.scannedSince (s : State) (t : Nat) : Bool :=
  (List.range 4).any fun i => decide (2 ≤ (s.tick / 512000 - i) % 4 ∧ i ≤ s.tick / 512000 ∧ t < (s.tick / 512000 - i) * 512000)
/-- The granule as a read of its state finds it (R126). -/
def State.granNow (s : State) (core : Nat) (b : Buf) (n : Nat) : Granule :=
  match ((s.core core).sp b).find? n with
  | some q => q
  | none => { Granule.reset with exp := s.scannedSince (s.core core).sweptAt }
/-- Replace a granule. -/
def Core.setGran (k : Core) (b : Buf) (n : Nat) (g : Granule) : Core := k.setSp b ((k.sp b).put n g)
/-- The window of a grove in a buffer: physical base and size (R121). -/
def Grove.win (g : Grove) (b : Buf) : Nat × Nat := (g.base.getD b.code 0, g.size.getD b.code 0)
/-- age_ok of R125. -/
def ageOk (t : Nat) (g : Granule) (cls : LClass) : Bool := !g.exp && decide ((t + 512 - g.wtick) % 512 < cls.ticks)
/-- The allocation of a grove that contains an offset (R122). -/
def Core.alloc? (k : Core) (b : Buf) (grove off : Nat) : Option Alloc :=
  k.allocs.find? fun a => a.buf == b && a.grove == grove && decide (a.off ≤ off ∧ off < a.off + a.size)
/-- The numbers of the granules that a byte range touches. -/
def granules (pa len : Nat) : List Nat := (List.range ((pa + len + 31) / 32 - pa / 32)).map fun i => pa / 32 + i
/-- A launch flagged strict (R303). -/
def Launch.strict (la : Launch) : Bool := bitN la.pkt.flags 4
/-- The launch of a grove is strict. -/
def State.groveStrict (s : State) (g : Grove) : Bool :=
  match s.launches.find? g.launch with
  | some la => la.strict
  | none => false
/-- The checks of a granule read, in the order of R393: generation, lifetime, poison; none when it may be read. -/
def granCheck (t off : Nat) (b : Buf) (strict : Bool) (a : Alloc) (g : Granule) : Option Flt :=
  if g.gen != a.gen then
    if a.strict || strict then some { code := 0x0005, akind := 3 + b.code, addr := off, gen := g.gen, d0 := a.gen, d1 := 0 } else none
  else if !ageOk t g a.cls then
    some { code := 0x0006, akind := 3 + b.code, addr := off, gen := a.gen, d0 := 2 * g.wtick + g.exp.toNat, d1 := t + 65536 * a.cls.num }
  else if g.poison then some { code := 0x1006, akind := 3 + b.code, addr := off, gen := 0, d0 := 4, d1 := 0xFFFF }
  else none
/-- The scratchpad checks of R393 for an access of a grove: window, alignment, allocation, then, for a read, each granule upwards. -/
def State.spCheck (s : State) (core grove : Nat) (b : Buf) (off len align : Nat) (read : Bool) : Option Flt :=
  match s.groves.find? grove with
  | none => some { code := 0x0007, akind := 3 + b.code, addr := off, gen := 0, d0 := 0, d1 := 1 }
  | some g =>
    let w := g.win b
    if w.2 < off + len then some { code := 0x0007, akind := 3 + b.code, addr := off, gen := 0, d0 := w.2, d1 := 1 }
    else if off % align != 0 then some { code := 0x0004, akind := 3 + b.code, addr := off, gen := 0, d0 := len, d1 := 0 }
    else
      match (s.core core).alloc? b grove off with
      | none => some { code := 0x0007, akind := 3 + b.code, addr := off, gen := 0, d0 := w.2, d1 := 2 }
      | some a =>
        if a.off + a.size < off + len then some { code := 0x0007, akind := 3 + b.code, addr := off, gen := 0, d0 := w.2, d1 := 4 }
        else if read then
          (granules (w.1 + off) len).findSome? fun n => granCheck s.T off b (s.groveStrict g) a ((s.core core).gran b n)
        else none
/-- sp_read of a range of a grove's window, where the checks pass (R127). -/
def State.spRead (s : State) (core grove : Nat) (b : Buf) (off len : Nat) : List Byte :=
  match s.groves.find? grove with
  | none => List.replicate len 0
  | some g => (List.range len).map fun i =>
    match (s.core core).alloc? b grove (off + i) with
    | none => 0
    | some a =>
      let q := (s.core core).gran b (((g.win b).1 + off + i) / 32)
      if q.gen == a.gen then q.data.getD (((g.win b).1 + off + i) % 32) 0 else 0
/-- The part of sp_write that falls in one granule (R128): unreadable bytes become zero, the bytes go in, the metadata is renewed; a poisoned granule stays so unless all of it is written (R419). -/
def granWrite (t gen : Nat) (cls : LClass) (q : Granule) (pos : Nat) (bs : List Byte) : Granule :=
  let old := if q.gen != gen || !ageOk t q cls then List.replicate 32 0 else q.data
  { data := putBytes old pos bs, gen := gen, wtick := t, exp := false, poison := q.poison && decide (bs.length < 32), refreshed := t }
/-- sp_write of bytes at an offset of a grove's window, whose base is given, granule by granule, each under the allocation it lies in (R122, R128). -/
def Core.spPut (k : Core) (t : Nat) (b : Buf) (grove base : Nat) : Nat → Nat → List Byte → Core
  | 0, _, _ => k
  | fuel + 1, off, bs =>
    let pa := base + off
    let n := 32 - pa % 32
    if bs.isEmpty then k
    else
      let k := match k.alloc? b grove off with
        | some a => k.setGran b (pa / 32) (granWrite t a.gen a.cls (k.gran b (pa / 32)) (pa % 32) (bs.take n))
        | none => k
      Core.spPut k t b grove base fuel (off + n) (bs.drop n)
/-- sp_write of bytes into a grove's window (R128). -/
def State.spWrite (s : State) (core grove : Nat) (b : Buf) (off : Nat) (bs : List Byte) : State :=
  match s.groves.find? grove with
  | some g => s.modCore core fun k => k.spPut s.T b grove (g.win b).1 (bs.length + 1) off bs
  | none => s

/-! Translation and access checks (R108 to R117, R340, R345 to R347, R429) -/

/-- Canonical form: bits [63:57] copy bit 56 (R108). -/
def canonical (va : Nat) : Bool := va / 2 ^ 56 == 0 || va / 2 ^ 56 == 255
/-- Offset bits of a leaf at a level (R109). -/
def levelBits (level : Nat) : Nat := 7 + 10 * level
/-- The address space of a physical address (R115). -/
def spaceOf (pa : Nat) : Nat := bitsN pa 51 49
/-- The package id of a physical address (R115). -/
def pkgOf (pa : Nat) : Nat := bitsN pa 48 41
/-- The local offset of a physical address (R115). -/
def localOf (pa : Nat) : Nat := pa % 2 ^ 41
/-- The access is served by this package's memory: space 0, or space 1 of the own id (R115). -/
def State.isLocal (s : State) (pa : Nat) : Bool := spaceOf pa == 0 || (spaceOf pa == 1 && pkgOf pa == s.pkg)
/-- The one name of a physical address: space 1 of the own id is space 0 (R115). -/
def State.ownPa (s : State) (pa : Nat) : Nat := if spaceOf pa == 1 && pkgOf pa == s.pkg then pa - 2 ^ 49 else pa
/-- A page of space 0 names this package (R115), and its local offset is populated (R116). -/
def State.populated (s : State) (pa : Nat) : Bool :=
  pkgOf pa == s.pkg && if s.dieLocal then decide (localOf pa % 2 ^ 39 < 384 * 2 ^ 30) else decide (localOf pa < 1536 * 2 ^ 30)
/-- The HBM4 stack of a local address, 4 × die + j (R9, R116): one stack for each 4 KiB unit, on the die that PA[40:39] names in die-local mode; the hash is the part's own. -/
def State.stackOf (s : State) (pa : Nat) : Nat :=
  if s.dieLocal then 4 * (localOf pa / 2 ^ 39) + Config.stackOf (localOf pa / 4096) % 4 else Config.stackOf (localOf pa / 4096) % 16
/-- The home L2 slice of a local address, 256 × die + s (R8, R119): one slice for each 4 KiB unit, on the die of its stack. -/
def State.sliceOf (s : State) (pa : Nat) : Nat := 256 * (s.stackOf pa / 4) + Config.sliceOf (localOf pa / 4096) % 256
/-- The 64-byte lines that an access of local memory touches (R419). -/
def linesOf (pa len : Nat) : List Nat := (List.range ((localOf pa + len + 63) / 64 - localOf pa / 64)).map fun i => localOf pa / 64 + i
/-- Data read from local memory includes a poisoned part: 7 unpopulated, 0 a poisoned line (R418, R419). -/
def State.poisonAt (s : State) (pa len : Nat) : Option Nat :=
  if !s.populated pa then some 7
  else if (linesOf pa len).any fun n => decide (n ∈ s.poisoned) then some 0 else none
/-- A line fails its tag under key slot k (R348, R424, R426): written under an earlier key, under another slot, or in plaintext. A line that nothing has written fails none (log 1). -/
def State.tagFails (s : State) (leaf : DWord) (pa len : Nat) : Bool :=
  let k := fld leaf 63 58
  k != 0 && (linesOf pa len).any fun n => decide (n ∈ s.tagBad) ||
    match s.slotLines.find? n with
    | some j => j % 64 != k
    | none => (s.readMem (64 * n) 64).any (· != 0)

/-- A written line keeps the key slot it was written under; the model lists the lines written under one, each with the slot and, times 64, the load of its key (R348, R424). -/
def State.markKey (s : State) (leaf : DWord) (pa len : Nat) : State :=
  let k := fld leaf 63 58
  if k == 0 && s.slotLines.isEmpty then s
  else { s with slotLines := (linesOf pa len).foldl (fun m n => if k = 0 then NMap.del m n else NMap.put m n (k + 64 * s.trust.slots.getD k 0)) s.slotLines }
/-- A leaf that carries no more than a key slot. -/
def keyLeaf (key : Nat) : DWord := BitVec.ofNat 64 (key % 64 * 2 ^ 58)
/-- A byte as the memory holds it: that of the ciphertext, in a line written under a key (R348, log 96). -/
def State.rawByte (s : State) (a : Nat) : Byte :=
  match s.slotLines.find? (a / 64) with
  | none => s.readByte a
  | some k => BitVec.ofNat 8 (Config.cipher k (a / 64) (leNat (s.readMem (a / 64 * 64) 64)) / 256 ^ (a % 64))
/-- What a read of local memory through a leaf returns (R348): key slot 0 deciphers nothing. -/
def State.readAs (s : State) (leaf : DWord) (pa n : Nat) : List Byte :=
  if fld leaf 63 58 == 0 && !s.slotLines.isEmpty then (List.range n).map fun i => s.rawByte (localOf pa + i) else s.readMem (localOf pa) n
/-- Before a write as plaintext, the lines it touches that were written under a key stand as their ciphertext (R348). -/
def State.unseal (s : State) (leaf : DWord) (pa len : Nat) : State :=
  if fld leaf 63 58 == 0 && !s.slotLines.isEmpty then
    (linesOf pa len).foldl (fun s n =>
      if (s.slotLines.find? n).isSome then { s.writeMem (64 * n) (s.readAs 0 (64 * n) 64) with slotLines := s.slotLines.del n } else s) s
  else s

/-- How a walk ends without a leaf (R111, R417): level, reason 1 V = 0 or 2 malformed, the address and content of the entry. -/
structure WalkFail where
  level : Nat
  reason : Nat
  pa : Nat
  entry : DWord
  deriving DecidableEq, Repr

/-- A leaf entry breaks R111 at a level. -/
def leafBad (level : Nat) (e : DWord) : Bool :=
  level == 4 || fld e 53 52 != 0 || fld e 16 9 != 0 || fld e 2 2 != 0 ||
  (level == 2 && fld e 26 17 != 0) || (level == 3 && fld e 36 17 != 0) ||
  (fld e 4 4 == 1 && fld e 3 3 == 0) || ((fld e 6 6 == 1) != (fld e 51 49 == 4)) || decide (5 ≤ fld e 51 49) ||
  (fld e 63 58 != 0 && (fld e 51 49 == 2 || fld e 51 49 == 3 || fld e 51 49 == 4))
/-- A table entry breaks R110 or R111 at a level. -/
def tableBad (level : Nat) (e : DWord) : Bool := level == 1 || fld e 63 52 != 0 || fld e 12 2 != 0 || decide (5 ≤ fld e 51 49)
/-- A 64-bit entry of a table in local memory. DESIGN CHOICE (log 92): one in unpopulated or poisoned memory is read as its bytes stand. -/
def State.readEntry (s : State) (pa : Nat) : DWord := BitVec.ofNat 64 (leNat (s.readAs 0 pa 8))
/-- The walk of R109 from a table at a level downwards. -/
def State.walk (s : State) (part va : Nat) : Nat → Nat → Except WalkFail TlbEntry
  | 0, pa => .error { level := 0, reason := 2, pa := pa, entry := 0 }
  | level + 1, pa =>
    let bits := levelBits (level + 1)
    let at_ := pa + 8 * (va / 2 ^ bits % 1024)
    let e := s.readEntry at_
    -- DESIGN CHOICE (log 92): a table outside this package's memory counts as a malformed entry.
    if !s.isLocal at_ then .error { level := level + 1, reason := 2, pa := at_, entry := 0 }
    else if fld e 0 0 == 0 then .error { level := level + 1, reason := 1, pa := at_, entry := e }
    else if fld e 1 1 == 1 then
      if leafBad (level + 1) e then .error { level := level + 1, reason := 2, pa := at_, entry := e }
      else .ok { part := part, page := va % 2 ^ 57 / 2 ^ bits, bits := bits, leaf := e }
    else if tableBad (level + 1) e then .error { level := level + 1, reason := 2, pa := at_, entry := e }
    else State.walk s part va level (fld e 51 13 * 2 ^ 13)
/-- The walk of a partition's page table (R108, R109). -/
def State.walkVa (s : State) (part va : Nat) : Except WalkFail TlbEntry := s.walk part va 4 (s.part part).root
/-- A cached leaf covers an address of a partition (R112). -/
def TlbEntry.covers (e : TlbEntry) (part va : Nat) : Bool := e.part == part && e.page == va % 2 ^ 57 / 2 ^ e.bits
/-- The physical address a leaf gives (R110). -/
def TlbEntry.pa (e : TlbEntry) (va : Nat) : Nat := fld e.leaf 51 17 * 2 ^ 17 / 2 ^ e.bits * 2 ^ e.bits + va % 2 ^ e.bits
/-- The translation the core's two TLBs hold, if any (R112). -/
def State.tlbFind (s : State) (core part va : Nat) : Option TlbEntry :=
  match (s.core core).tlb.find? fun e => e.covers part va with
  | some e => some e
  | none => (s.standTlbs.getD (standOf core) []).find? fun e => e.covers part va

/-- The kinds of access that checks tell apart. -/
inductive Acc
  | read | write | atomic | future | fetch
  deriving DecidableEq, Repr

/-- An access writes. -/
def Acc.writes : Acc → Bool
  | .write | .atomic | .future => true
  | .read | .fetch => false
/-- An access reads. -/
def Acc.reads : Acc → Bool
  | .read | .atomic | .future => true
  | .write | .fetch => false
/-- The space is disabled by its aperture register (R326). -/
def State.spaceOff (s : State) (sp : Nat) : Bool :=
  (sp == 2 && fld s.host.aperbase 0 0 == 0) || (sp == 4 && fld s.host.pmmiobase 0 0 == 0)
/-- The reason of a permission fault (R117, R258, R326, R429), if the leaf does not permit the access. -/
def State.permReason (s : State) (part : Nat) (leaf : DWord) (kind : Acc) (len : Nat) : Option Nat :=
  let sp := fld leaf 51 49
  if kind.reads && fld leaf 3 3 == 0 then some 1
  else if kind.writes && fld leaf 4 4 == 0 then some 2
  else if fld leaf 57 54 != part then some 3
  else if kind == .future && decide (2 ≤ sp) then some 6
  else if decide (2 ≤ sp) && (kind == .atomic || (len != 4 && len != 8)) then some 4
  else if s.spaceOff sp then some 5
  else none
/-- The target that admits an access: 0 memory controller, 1 device registers, 2 link egress, 3 host egress (R346, R417). -/
def State.target (s : State) (pa : Nat) : Nat :=
  if s.isLocal pa then 0 else if spaceOf pa == 3 then 1 else if spaceOf pa == 1 then 2 else 3
/-- A region descriptor covers an access (R346, R347). -/
def descCovers (d : BitVec 256) (pa len : Nat) : Bool :=
  bitN d.toNat 0 && decide (bitsN d.toNat 92 58 ≤ pa / 2 ^ 17) && decide ((pa + len - 1) / 2 ^ 17 ≤ bitsN d.toNat 127 93)
/-- A region descriptor permits a kind of access (R346, R347). -/
def descPermits (d : BitVec 256) (kind : Acc) : Bool :=
  (!kind.reads || bitN d.toNat 1) && (!kind.writes || bitN d.toNat 2) && (kind != .fetch || bitN d.toNat 3)
/-- The reason of an access-table violation (R347, R417, R340): 1 not covered, 2 kind not permitted, 3 KEY differs. -/
def State.accessReason (s : State) (master pa len : Nat) (kind : Acc) (key : Nat) : Option Nat :=
  let ds := s.trust.access.getD (256 * s.target pa + master) []
  let cov := ds.filter fun d => descCovers d pa len
  if cov.isEmpty then some 1
  else if !(cov.any fun d => descPermits d kind) then some 2
  else if !(cov.any fun d => descPermits d kind && bitsN d.toNat 15 10 == key) then some 3
  else if kind.writes && s.target pa == 0 && decide (localOf pa / 2 ^ 17 ∈ s.trust.execBits) && master != 0x30 then some 2
  else none

/-- What the checks of a global address give (R393). -/
inductive GRes
  | ok (pa : Nat) (leaf : DWord)
  | miss
  | bad (f : Flt)
  deriving DecidableEq, Repr

/-- The checks of R393 after the address is canonical and aligned, on a leaf. -/
def State.leafCheck (s : State) (part master va len : Nat) (kind : Acc) (e : TlbEntry) : GRes :=
  let pa := e.pa va
  match s.permReason part e.leaf kind len with
  | some r => .bad { code := 0x1004, akind := 1, addr := va, gen := 0, d0 := r, d1 := e.leaf.toNat }
  | none =>
    match s.accessReason master pa len kind (fld e.leaf 63 58) with
    | some r => .bad { code := 0x1008, akind := 1, addr := va, gen := 0, d0 := master + 256 * s.target pa + 1024 * r, d1 := fld e.leaf 63 58 }
    | none => .ok (s.ownPa pa) e.leaf
/-- The global checks of R393 for a strand's access: canonical, aligned, translated, permitted, admitted. -/
def State.gCheck (s : State) (core part va len align : Nat) (kind : Acc) : GRes :=
  if !canonical va then .bad { code := 0x1001, akind := 1, addr := va, gen := 0, d0 := 0, d1 := 0 }
  else if va % align != 0 then .bad { code := 0x0004, akind := 1, addr := va, gen := 0, d0 := len, d1 := 0 }
  else
    match s.tlbFind core part va with
    | none => .miss
    | some e => s.leafCheck part part va len kind e
/-- The same checks for a unit that waits for its own walk (R114): the walk is made at once; a failed walk is the strand's or engine's translation failure. -/
def State.gWalk (s : State) (core part master va len : Nat) (kind : Acc) : GRes :=
  if !canonical va then .bad { code := 0x1001, akind := 1, addr := va, gen := 0, d0 := 0, d1 := 0 }
  else
    match s.tlbFind core part va with
    | some e => s.leafCheck part master va len kind e
    | none =>
      match s.walkVa part va with
      | .ok e => s.leafCheck part master va len kind e
      | .error w => .bad { code := 0x1003, akind := 1, addr := va, gen := 0, d0 := 0, d1 := w.reason }
/-- Keep a translation in a core's L1 TLB of 64 entries and its stand's TLB of 2,048 (R112). DESIGN CHOICE (log 92): a full TLB gives up the entry filled longest ago. -/
def State.tlbFill (s : State) (core : Nat) (e : TlbEntry) : State :=
  let s := s.modCore core fun k => { k with tlb := (e :: k.tlb.filter fun x => x != e).take 64 }
  { s with standTlbs := s.standTlbs.put (standOf core) ((e :: (s.standTlbs.getD (standOf core) []).filter fun x => x != e).take 2048) }

/-! Fault records and the fault log ring (R366 to R370) -/

/-- The 64 bytes of a record (R367). -/
def FaultRec.bytes (r : FaultRec) (tick seq : Nat) (ovr : Bool) : List Byte :=
  leBytes 64 (r.cls + r.sev * 2 ^ 8 + r.flt.code * 2 ^ 16 + seq % 2 ^ 32 * 2 ^ 32 + ovr.toNat * 2 ^ 64 + r.twint.toNat * 2 ^ 65 +
    r.latent.toNat * 2 ^ 66 + r.flt.akind * 2 ^ 72 + r.part * 2 ^ 76 + r.launch * 2 ^ 80 + r.lanes % 2 ^ 32 * 2 ^ 96 + r.pc % 2 ^ 48 * 2 ^ 128 +
    r.grove % 2 ^ 32 * 2 ^ 176 + r.strand % 2 ^ 10 * 2 ^ 208 + r.src % 2 ^ 16 * 2 ^ 224 + r.flt.gen % 2 ^ 16 * 2 ^ 240 +
    r.flt.addr % 2 ^ 64 * 2 ^ 256 + tick % 2 ^ 64 * 2 ^ 320 + r.flt.d0 % 2 ^ 64 * 2 ^ 384 + r.flt.d1 % 2 ^ 64 * 2 ^ 448)
/-- The partition of a function (R323): a function remapped while it had queues mapped keeps its old one until its next reset. -/
def State.funcPart (s : State) (f : Nat) : Nat := s.host.funcHeld.getD f (if f == 0 then 0 else fld s.host.funcmap (4 * f + 3) (4 * f))
/-- The functions of a partition (R323). -/
def State.functionsOf (s : State) (p : Nat) : List Nat := (List.range 16).filter fun f => s.funcPart f == p
/-- Raise an MSI-X vector of every function of a partition (R327); the message is lost while the host link is down (R451). -/
def State.msix (s : State) (p v : Nat) : State :=
  if s.host.linkUp then { s with host := { s.host with msix := s.host.msix ++ (s.functionsOf p).map fun f => (f, v) } } else s
/-- The address of a partition's ring that takes its next record (R369, R370). -/
def Part.ringPa (q : Part) : Nat := fld q.flogcfg 51 12 * 2 ^ 12 + 64 * (q.head % 2 ^ fld q.flogcfg 4 0)
/-- Send the snoops that are not out yet (R328). -/
def State.snoop (s : State) (lines : List Nat) : State :=
  { s with host := { s.host with snoops := s.host.snoops ++ (lines.filter fun n => !(s.host.snoops.any fun x => x.1 == n)).map fun n => (n, s.tick, false) } }
/-- Lines of a range of local memory that the host may hold under CXL (R328). -/
def State.hostHolds (s : State) (pa len : Nat) : List Nat :=
  if s.host.cxl && s.isLocal pa then (linesOf pa len).filter fun n => s.host.lines.contains n else []
/-- Write a record of a time into a partition's ring, or count it as dropped (R370); the partitioning controller, master 0x31, writes it in plaintext (R348), and one that the access table or an exec bit refuses is dropped (R340, R347, log 94). -/
def State.logAt (s : State) (p : Nat) (r : FaultRec) (tick : Nat) : State :=
  let q := s.part p
  let n := fld q.flogcfg 4 0
  if n == 0 || (q.head + 2 ^ 32 - q.tail) % 2 ^ 32 == 2 ^ n || (s.accessReason 0x31 q.ringPa 64 .write 0).isSome then
    s.modPart p fun q => { q with drops := min 0xFFFF (q.drops + 1), ovr := true }
  else
    let s := ((s.unseal 0 q.ringPa 64).writeMem (localOf q.ringPa) (r.bytes tick q.head q.ovr)).markKey 0 q.ringPa 64
    (s.modPart p fun q => { q with head := (q.head + 1) % 2 ^ 32, ovr := false }).msix p 0
/-- Log a record in a partition's ring (R370). It waits, and those after it, while the host may hold the ring's line (R328). -/
def State.log (s : State) (p : Nat) (r : FaultRec) : State :=
  let lines := s.hostHolds (s.part p).ringPa 64
  if lines.isEmpty && (s.part p).pend.isEmpty then s.logAt p r s.tick
  else (s.snoop lines).modPart p fun q => { q with pend := q.pend ++ [(s.tick, r)] }
/-- Records that waited for the host go into the ring once they can (R328). -/
def State.settleLogs (s : State) : State :=
  s.parts.foldl (fun s x =>
    match (s.part x.1).pend with
    | [] => s
    | (t, r) :: rest =>
      if (s.hostHolds (s.part x.1).ringPa 64).isEmpty then (s.modPart x.1 fun q => { q with pend := rest }).logAt x.1 r t
      else s.snoop (s.hostHolds (s.part x.1).ringPa 64)) s
/-- A record of no launch or strand (R367): a system or memory record of one unit. -/
def sysRec (cls sev code src p : Nat) (akind addr d0 d1 : Nat) : FaultRec :=
  { cls := cls, sev := sev, flt := { code := code, akind := akind, addr := addr, gen := 0, d0 := d0, d1 := d1 }, src := src, part := p,
    launch := 0, lanes := 0, pc := 0, grove := 0, strand := 0, latent := code == 0x100A, twint := false }
/-- The grove is the trailing copy of a twin pair (R456). -/
def Grove.trailing (g : Grove) : Bool :=
  match g.twin with
  | some (_, b) => b
  | none => false
/-- A record about a strand: its identity in the fields of R367. -/
def State.strandRec (s : State) (strand : Nat) (cls sev src : Nat) (lanes : Nat) (pc : Pc) (f : Flt) : FaultRec :=
  let base := { (sysRec cls sev f.code src 0 0 0 0 0) with flt := f, lanes := lanes, pc := pc.toNat }
  match s.strands.find? strand with
  | none => base
  | some t =>
    let part := (s.launches.find? t.launch).elim 0 fun la => la.part
    let g := s.groves.find? t.grove
    { base with part := part, launch := t.launch, grove := g.elim 0 fun g => g.idx, strand := t.index, twint := g.elim false Grove.trailing }
/-- Log a record in the ring of the partition it names. -/
def State.logRec (s : State) (r : FaultRec) : State := s.log r.part r

/-! Where a strand is, and results that land (R38, R230, R371) -/

/-- Change every stopped cohort the machine keeps. -/
def State.overStopped (s : State) (f : Stopped → Stopped) : State :=
  { s with
    launches := s.launches.map fun x => (x.1, { x.2 with waiting := x.2.waiting.map f })
    groves := s.groves.map fun x => (x.1, { x.2 with saved := x.2.saved.map fun v => { v with images := v.images.map f } })
    parts := s.parts.map fun x => (x.1, { x.2 with halted := x.2.halted.map fun h => (h.1, f h.2), rotated := x.2.rotated.map f }) }
/-- Every stopped cohort the machine keeps. -/
def State.allStopped (s : State) : List Stopped :=
  (s.launches.flatMap fun x => x.2.waiting) ++ (s.groves.flatMap fun x => x.2.saved.elim [] fun v => v.images) ++ s.parts.flatMap fun x => (x.2.halted.map fun h => h.2) ++ x.2.rotated
/-- Land words, each with its register, in the lane that holds a strand. -/
def Cohort.landStrand (co : Cohort) (strand : Nat) (ws : List (Word × Nat)) : Cohort :=
  match List.find? (fun x => x.2.strand == strand) co.lanes with
  | none => co
  | some (l, _) => ws.foldl (fun co w => co.land w.2 l w.1) co
/-- Fill the saved slots of a record; an unlisted register discards its result (R34). -/
def Record.fill (r : Record) (ws : List (Word × Nat)) : Record :=
  { r with regs := ws.foldl (fun m w => m.adj w.2 fun _ => w.1) r.regs }
/-- Land words, each with its register, for a strand, wherever it is; one that has exited discards them (R21). -/
def State.landWords (s : State) (strand : Nat) (ws : List (Word × Nat)) : State :=
  match s.strands.find? strand with
  | none => s
  | some t =>
    (s.modCore t.core fun k =>
      { k with
        slots := k.slots.map fun x => (x.1, x.2.landStrand strand ws)
        records := k.records.map fun x => (x.1, if x.2.strand = strand then x.2.fill ws else x.2) }).overStopped
      fun st => { st with cohort := st.cohort.landStrand strand ws }
/-- What a lane or record would have taken is poisoned and no register takes it (R420): one record of each failed access, with its source and its PA. DESIGN CHOICE (log 101): the PA is what the address leads to at that moment, and a register's number where a register word is lost. -/
def State.lostPoison (s : State) (base : Flt → FaultRec) (fs : List Flt) : State :=
  ((fs.map fun f => { f with d1 := 3 }).eraseDups).foldl (fun s f =>
    let r := base f
    let place :=
      if f.akind == 1 then
        match s.walkVa r.part f.addr with
        | .ok e => s.ownPa (e.pa f.addr)
        | .error _ => 0
      else f.addr
    let src := if f.code == 0x1006 then f.d0 else if f.code == 0x1007 then 0 else 8
    s.logRec { r with cls := 3, sev := 0, flt := { code := 0x100A, akind := 2, addr := place, gen := 0, d0 := src, d1 := 3 }, latent := true }) s
/-- A lane's registers in an image: a poisoned one holds 0, and the mark does not survive (R420). -/
def Cohort.healed (co : Cohort) : Cohort :=
  if co.lanes.all fun x => x.2.poison.isEmpty then co
  else
    let co := co.lanes.foldl (fun co x => x.2.poison.foldl (fun co q => co.land q.1 x.1 0) co) co
    { co with lanes := co.lanes.map fun x => (x.1, { x.2 with poison := [] }) }
/-- The result a strand is owed is poisoned: its registers become so in its lane; a record's slots, and the registers of an image, read 0 (R420). -/
def State.landPoison (s : State) (strand : Nat) (regs : List Nat) (f : Flt) : State :=
  match s.strands.find? strand with
  | none => s
  | some t =>
    let mark := fun (x : Lane) => { x with poison := regs.foldl (fun m r => m.put r (if f.code = 0x1006 then { f with d1 := r } else f)) x.poison }
    let inCo := fun (co : Cohort) => { co with lanes := co.lanes.map fun x => (x.1, if x.2.strand = strand then mark x.2 else x.2) }
    (s.modCore t.core fun k =>
      { k with
        slots := k.slots.map fun x => (x.1, inCo x.2)
        records := k.records.map fun x =>
          (x.1, if x.2.strand = strand && regs.any (fun r => (x.2.regs.find? r).isSome) then { (x.2.fill (regs.map fun r => (0, r))) with err := some (if f.code = 0x1006 then { f with d1 := regs.headD 0 } else f) } else x.2) }).overStopped
      fun st => { st with cohort := st.cohort.landStrand strand (regs.map fun r => (0, r)) }
/-- The operation belongs to a strand: it issued it, or it shares its one read (R256). -/
def MemOp.of (o : MemOp) (strand : Nat) : Bool := o.strand == strand || o.sharers.contains strand
/-- The registers of a strand that an operation will fill: not those whose result R34 discards. -/
def MemOp.fills (o : MemOp) (strand : Nat) : List Nat := ((List.range o.ndst).map (o.dst + ·)).filter fun r => !o.skip.contains (strand, r)
/-- Operations in flight whose results a strand's registers await (R30, R31). -/
def State.pendingFor (s : State) (strand : Nat) (regs : List Nat) : List Nat :=
  (s.ops.filter fun o => o.of strand && regs.any fun r => (o.fills strand).contains r).map MemOp.id
/-- Operations in flight that owe a strand a result. -/
def State.owed (s : State) (strand : Nat) : List Nat :=
  (s.ops.filter fun o => o.of strand && o.ndst != 0).map MemOp.id
/-- The results a strand awaits for registers other than those kept are discarded when they land (R34). -/
def State.discard (s : State) (strand : Nat) (kept : List Nat) : State :=
  { s with ops := s.ops.map fun o =>
      if o.of strand then { o with skip := o.skip ++ ((o.fills strand).filter fun r => !kept.contains r).map fun r => (strand, r) } else o }
/-- An operation is still in flight. -/
def State.flying (s : State) (id : Nat) : Bool := s.ops.any fun o => o.id == id
/-- The operation is a scratchpad access held in the memory pipeline, or a renewal under way (R153, R268). -/
def MemOp.isSp (o : MemOp) : Bool :=
  match o.kind with
  | .sp _ _ | .renew _ => true
  | _ => false
/-- What a scratchpad or engine access of a strand waits for (R143 cases 4 to 8, R153, R155): acquires and fences it is held by, its own scratchpad accesses still held; for one that writes, also what its stores are held by; for a release, everything the strand has in flight. -/
def State.spAfter (s : State) (strand : Nat) (release writes : Bool) : List Nat :=
  let own := (s.ops.filter fun o => o.of strand && (release || o.isSp)).map MemOp.id
  let held := (s.strands.find? strand).elim [] fun t => t.befAll ++ (if writes then t.befStore else [])
  (own ++ held.filter s.flying).eraseDups
/-- The 32-byte sectors of local memory that a range touches. -/
def sectorsOf (pa len : Nat) : List Nat := (List.range ((localOf pa + len + 31) / 32 - localOf pa / 32)).map fun i => localOf pa / 32 + i
/-- The number under which a unit that is no core acts: it has no TLB and no L1 of its own. -/
def noCore : Nat := 640
/-- A core's L1 forgets the sectors of a range. -/
def State.dropSectors (s : State) (core pa len : Nat) : State :=
  if core < noCore then s.modCore core fun k => { k with l1d := (sectorsOf pa len).foldl (fun m n => NMap.del m n) k.l1d } else s
/-- An operation that no lane issues (R137, R154, R157, R289, R328, R460): strand 0, for a grove or for none, of a launch, on a core. -/
def State.unitOp (s : State) (kind : OpKind) (grove launch core va pa : Nat) (leaf : DWord) (size : Nat) : MemOp :=
  { id := s.seq, kind := kind, cls := none, strand := 0, grove := grove, launch := launch, core := core, va := va, pa := pa, leaf := leaf, size := size,
    sgn := false, data := [], cmp := [], dst := 0, ndst := 0, uni := false, sharers := [], ord := .plain, sc := .core, nl1 := true, pc := 0, after := [],
    behind := [], skip := [], sent := false, early := false, home := false, got := [], issued := s.stepN, born := s.tick, resends := 0, fields := [], bad := none }
/-- It enters the memory pipeline as it is. -/
def State.addUnit (s : State) (o : MemOp) : State := { s with seq := s.seq + 1, ops := s.ops ++ [o] }

/-! Writes that leave the package (R162, R165, R326) -/

/-- The bus address of an access of spaces 2 and 4 (R326). -/
def State.busAddr (s : State) (pa : Nat) : Nat :=
  fld (if spaceOf pa == 2 then s.host.aperbase else s.host.pmmiobase) 63 41 * 2 ^ 41 + localOf pa
/-- A write enters the host egress (R165); it is dropped while the host link is down (R451). -/
def State.toHost (s : State) (pa : Nat) (bs : List Byte) (relaxed : Bool) : State :=
  if s.host.linkUp then { s with host := { s.host with egress := s.host.egress ++ [(s.busAddr pa, bs, relaxed)] } } else s
/-- A read request leaves by the host port (R326), unless the link is down (R451). -/
def State.askHost (s : State) (token pa len : Nat) : State :=
  if s.host.linkUp then { s with host := { s.host with reads := s.host.reads ++ [(token, s.busAddr pa, len)] } } else s
/-- The port's state (R440). -/
def State.port (s : State) (n : Nat) : Port := s.link.ports.getD n Port.reset
/-- The ports a message to a package may leave by (R332, R442). -/
def State.routeTo (s : State) (pkg : Nat) : List Nat := (bitsSet 16 (s.link.route.getD pkg 0)).filter fun n => (s.port n).up
/-- The number of a flow this package sends on (R162, R333). -/
def txFlow (pkg cls ord : Nat) : Nat := pkg + 256 * cls + 1024 * ord + 4096
/-- The OPC of a kind of message (R333), which the spec leaves open: 1 write, 2 hop, 3 abort, 4 read request, 5 atomic request, 6 break, 7 request for a break, 8 response, 9 completion signal, 10 timing, 11 TLBINV, 12 CINV, 13 the answer to one of these, 14 a read that also places a watch, 15 a watched line was written, 16 the time master's answer (log 34). -/
def opcOf (kind : Nat) : Nat := Config.answer 3 kind % 256
/-- A message: its header and payload (R333). -/
def message (dst src cls ord part fseq opc opid : Nat) (bs : List Byte) : List Byte :=
  [dst, src, cls + 4 * ord, part].flatMap (leBytes 1) ++ leBytes 4 fseq ++ leBytes 1 opc ++ leBytes 1 ((bs.length + 7) / 8) ++ [0, 0] ++ leBytes 4 opid ++
    padTo (roundUp bs.length 8) bs
/-- The port has messages of a flow that its partner has not acknowledged. -/
def Port.carries (p : Port) (key : Nat) : Bool := p.replay.any (fun m => m.2.2.contains key) || p.txq.any fun q => q.2.any fun m => m.1 == key
/-- The port a message leaves by (R332): the one that its flow's last message left by while it is up, so that what one strand sends to one line arrives in its order (R162, R330), else the lowest. -/
def State.portFor (s : State) (key : Nat) : Option Nat :=
  let ps := s.routeTo (key % 256)
  (ps.find? fun n => (s.link.flows.getD key Flow.reset).port == some n).orElse fun _ => ps.head?
/-- A message joins what a port has to send on the virtual channel of its class (R331). -/
def Port.queue (p : Port) (key : Nat) (msg : List Byte) : Port :=
  { p with txq := p.txq.put (key / 256 % 4) (p.txq.getD (key / 256 % 4) [] ++ [(key, msg)]) }
/-- Send one message on a flow (R331 to R333): it takes the next FSEQ and joins the queue of a port; on a broken flow it is held at the source (R443); without a route it goes nowhere. -/
def State.postMsg (s : State) (key : Nat) (msg : List Byte) : State :=
  let f := s.link.flows.getD key Flow.reset
  if f.broken then { s with link := { s.link with flows := s.link.flows.put key { f with held := f.held ++ [(0, msg)] } } }
  else
    match s.portFor key with
    | none => s
    | some n =>
      let msg := putBytes msg 4 (leBytes 4 f.seq)
      { s with link := { s.link with
        flows := s.link.flows.put key { f with seq := (f.seq + 1) % 2 ^ 32, port := some n }
        ports := s.link.ports.put n ((s.port n).queue key msg)
        sent := s.link.sent ++ [(key, msg)] } }
/-- Send one message of a kind. -/
def State.post1 (s : State) (pkg cls ord part kind opid : Nat) (bs : List Byte) : State :=
  s.postMsg (txFlow pkg cls ord) (message pkg s.pkg cls ord part 0 (opcOf kind) opid bs)
/-- Send bytes as messages of at most 256 bytes of payload each (R333). -/
def State.post (s : State) (pkg cls ord part kind opid : Nat) (bs : List Byte) : State :=
  (List.range (max 1 ((bs.length + 255) / 256))).foldl (fun s i => s.post1 pkg cls ord part kind opid ((bs.drop (256 * i)).take 256)) s
/-- The word that heads a message about memory of another package: PA, size less 1 in [57:52], key slot in [63:58] (log 34). -/
def peerAddr (pa size : Nat) (leaf : DWord) : List Byte := leBytes 8 (pa + (size - 1) % 64 * 2 ^ 52 + fld leaf 63 58 * 2 ^ 58)
/-- The next OPID of a flow (R334): from 1 up, skipping 0. -/
def State.nextOpid (s : State) (key : Nat) : Nat × State :=
  let f := s.link.flows.getD key Flow.reset
  (f.opid, { s with link := { s.link with flows := s.link.flows.put key { f with opid := if f.opid == 2 ^ 32 - 1 then 1 else f.opid + 1 } } })
/-- A write leaves for another package's home (R162), in messages of at most 64 bytes: its address, the number its home answers to (0 where nothing waits for it), its bytes. -/
def State.toPeer (s : State) (part pa : Nat) (leaf : DWord) (token : Nat) (bs : List Byte) : State :=
  (List.range ((bs.length + 63) / 64)).foldl (fun s i =>
    let t := (bs.drop (64 * i)).take 64
    s.post (pkgOf pa) 0 (fld leaf 8 8) part 1 0 (peerAddr (pa + 64 * i) t.length leaf ++ leBytes 8 token ++ t)) s
/-! Records, bins and the ready queue (R33 to R39) -/

/-- The bytes a record takes (R33). -/
def Record.bytes (r : Record) : Nat := 32 + (if r.hx then 32 else 0) + roundUp (4 * r.regs.length) 32
/-- A record is ready: nothing awaited, not held, its entry fetched (R38, R32). -/
def Record.ready (r : Record) : Bool := r.pend.isEmpty && r.wait.isNone && !r.held && !r.provisional
/-- Two records have one bin key (R39). -/
def Record.sameKey (a b : Record) : Bool := a.launch == b.launch && a.stage == b.stage && a.hx == b.hx && a.pc == b.pc
/-- A bin holds the key of a record. -/
def Bin.holds (b : Bin) (r : Record) : Bool := b.launch == r.launch && b.stage == r.stage && b.hx == r.hx && b.pc == r.pc
/-- A record already lies in a bin or on the ready queue. -/
def Core.queued (k : Core) (rid : Nat) : Bool := k.readyQ.any (·.contains rid) || k.bins.any fun b => b.recs.any fun x => x.1 == rid
/-- Take records out of the bins and the ready queue. -/
def Core.unqueue (k : Core) (out : Nat → Bool) : Core :=
  { k with
    bins := (k.bins.map fun b => { b with recs := b.recs.filter fun x => !out x.1 }).filter fun b => !b.recs.isEmpty
    readyQ := (k.readyQ.map fun set => set.filter fun i => !out i).filter fun set => !set.isEmpty }
/-- Put ready records of one key, in their order, into the bin of that key, or a free bin; where they do not fit they wait whole on the ready queue (R39, R360). The time of their binning is in core cycles. -/
def Core.bin (k : Core) (tick : Nat) (set : List Nat) (r : Record) : Core :=
  let recs := set.map fun i => (i, tick)
  let fits := fun (b : Bin) => b.holds r && decide (b.recs.length + set.length ≤ 32)
  if k.bins.any fits then { k with bins := k.bins.map fun b => if fits b then { b with recs := b.recs ++ recs } else b }
  else if !(k.bins.any fun b => b.holds r) && decide (k.bins.length < 64) then
    { k with bins := k.bins ++ [{ launch := r.launch, stage := r.stage, hx := r.hx, pc := r.pc, recs := recs, aged := none }] }
  else { k with readyQ := k.readyQ ++ [set] }
/-- Bin a set in one step, one of more than 32 records a record at a time (R39, R360). -/
def Core.binSet (k : Core) (tick : Nat) (set : List Nat) : Core :=
  match k.records.find? (set.headD 0) with
  | none => k
  | some r => if set.length ≤ 32 then k.bin tick set r else set.foldl (fun k i => k.bin tick [i] r) k
/-- The grove of a strand is placed and stays so: while it is evicted none of its records bins (R319). -/
def State.stays (s : State) (strand : Nat) : Bool :=
  ((s.strands.find? strand).bind fun t => s.groves.find? t.grove).elim true fun g => g.placed && g.evicting.isNone
/-- The partition of a launch; 0 for none. -/
def State.launchPart (s : State) (launch : Nat) : Nat := (s.launches.find? launch).elim 0 fun la => la.part
/-- The partition of a launch is frozen (R405). -/
def State.frozenL (s : State) (launch : Nat) : Bool := (s.launches.find? launch).elim false fun la => (s.part la.part).frozen
/-- Bin what waits on the ready queue, in its order, as bins drain (R39, R360); a set that may not bin now keeps its place (R405), and those of its key behind it. -/
def Core.rebin (k : Core) (cyc : Nat) (may : Record → Bool) : Core :=
  k.readyQ.foldl (fun k set =>
    match k.records.find? (set.headD 0) with
    | some r =>
      if may r && !(k.readyQ.any fun q => (k.records.find? (q.headD 0)).elim false fun y => y.sameKey r) then k.bin cyc set r
      else { k with readyQ := k.readyQ ++ [set] }
    | none => k) { k with readyQ := [] }
/-- A record is to be binned: ready, without a fault of its own, not yet queued (R38), its grove in its place, its partition not frozen (R405). -/
def State.toBin (s : State) (k : Core) (rid : Nat) (r : Record) : Bool :=
  r.ready && r.err.isNone && !k.queued rid && s.stays r.strand && !s.frozenL r.launch
/-- Two numbered records belong to one set (R360): they were made ready together and have one key. -/
def sameSet (a b : Nat × Record) : Bool := a.1 == b.1 || (a.2.set != 0 && a.2.set == b.2.set && a.2.sameKey b.2)
/-- The sets among some records, each in the order in which they parked. -/
def setsOf (rs : List (Nat × Record)) : List (List (Nat × Record)) :=
  rs.filterMap fun x => if rs.any fun y => decide (y.1 < x.1) && sameSet y x then none else some (rs.filter (sameSet x))
/-! What stands in the caldera (R73, R136, R137, R237, R404) -/

/-- Which wait-table key an event has (R237): two records with one key share an entry. -/
def WaitEv.key (strand grove : Nat) : WaitEv → Option (List Nat)
  | .tags _ _ => some [0, grove]
  | .version h _ => some [1, grove, h]
  | .counter _ _ => some [2, strand]
  | .barrier off _ => some [3, grove, off]
  | .futA off _ => some [4, grove, off]
  | _ => none
/-- The key of a record's event. -/
def State.recKey (s : State) (r : Record) : Option (List Nat) :=
  r.wait.bind fun w => w.key r.strand ((s.strands.find? r.strand).elim 0 fun t => t.grove)
/-- The physical address a parked strand watches (R137). -/
def WaitEv.watchPa : WaitEv → Option Nat
  | .futG _ pa _ _ _ => some pa
  | .watch _ pa _ _ _ _ _ _ _ => some pa
  | .codeReady stub _ => some stub
  | _ => none
/-- The place of a watch in the order they were set: by time, then by number. -/
def watchOrder (tick n : Nat) : Nat := tick * 2 ^ 64 + n
/-- The lines of this package that strands watch, here or in another package: the place in the order, the line, its partition (R137). A watch of another package's strand counts for the partition its message names (DEDUCED, log 101). -/
def State.watchLines (s : State) : List (Nat × Nat × Nat) :=
  (s.cores.flatMap fun k => k.2.records.filterMap fun (x : Nat × Record) => (x.2.wait.bind WaitEv.watchPa).bind fun pa =>
    if s.isLocal pa then some (watchOrder x.2.tick x.1, localOf pa / 128, s.launchPart x.2.launch) else none) ++
  s.link.watches.map fun x => (x.2.2.2, x.2.1, x.2.2.1)
/-- The lines of a slice that hardware queue slots watch (R137). -/
def State.otherWatches (s : State) (slice : Nat) : List Nat :=
  (((s.sched.watch.vals.flatMap id).filter s.isLocal).map (fun pa => localOf pa / 128)).eraseDups.filter fun n => s.sliceOf (128 * n) == slice
/-- The lines of a slice that strands watch and no slot does, each once, with its first watch and partition. -/
def State.sliceLines (s : State) (slice : Nat) : List (Nat × Nat × Nat) :=
  ((s.watchLines.filter fun x => s.sliceOf (128 * x.2.1) == slice && !(s.otherWatches slice).contains x.2.1).mergeSort fun a b => decide (a.1 ≤ b.1)).foldl
    (fun a x => if a.any fun y => y.2.1 == x.2.1 then a else a ++ [x]) []
/-- The watch entries of a slice in use (R137). -/
def State.watchUsed (s : State) (slice : Nat) : Nat := (s.otherWatches slice).length + (s.sliceLines slice).length
/-- The strand watches of a partition that are chain nodes in its caldera: of each slice with more than 256, the newest (R137, R403). -/
def State.chained (s : State) (p : Nat) : Nat :=
  ((s.watchLines.map fun x => s.sliceOf (128 * x.2.1)).eraseDups.map fun slice =>
    let ls := s.sliceLines slice
    (ls.filter fun x => x.2.2 == p && decide (256 ≤ (s.otherWatches slice).length + (ls.filter fun y => decide (y.1 < x.1)).length)).length).foldl (· + ·) 0
/-- The counters of a stopped cohort's lanes now (R48, R72). -/
def State.liveCnts (s : State) (st : Stopped) : NMap Nat := st.cohort.lanes.map fun x => (x.1, (s.strands.find? x.2.strand).elim 0 fun t => t.cnt)
/-- The shape-tagged payload of a register in an image (R73); an absent lane's word is 0. -/
def Reg.payload (present : List Nat) : Reg → List Byte
  | .general l => (List.range 32).flatMap fun i => leBytes 4 (if present.contains i then (l.getD i 0).toNat else 0)
  | .uniform u => leBytes 4 u.toNat
  | .affine b st => leBytes 4 b.toNat ++ leBytes 4 st.toNat
/-- The register an image holds: a stale one as uniform 0 (R75). -/
def Cohort.saved (co : Cohort) (n : Nat) : Reg := (co.regs.find? n).getD (.uniform 0)
/-- The tag area of an image (R73). -/
def tagArea (tags : List Nat) : List Byte :=
  padTo (roundUp (tags.length / 4) 32) ((List.range (tags.length / 4)).map fun i =>
    BitVec.ofNat 8 (tags.getD (4 * i) 0 + 4 * tags.getD (4 * i + 1) 0 + 16 * tags.getD (4 * i + 2) 0 + 64 * tags.getD (4 * i + 3) 0))
/-- The handler extension of a strand (R37). -/
def burstBytes (b : Option Burst) : List Byte :=
  match b with
  | none => List.replicate 32 0
  | some b => leBytes 4 b.row ++ leBytes 4 b.col ++ leBytes 4 b.bseq ++ leBytes 1 b.len ++ leBytes 1 b.op ++ [0, 0] ++ leBytes 8 b.ctx.toNat ++ List.replicate 8 0
/-- The bytes of a cohort image (R73, R74). -/
def State.imageBytes (s : State) (st : Stopped) : List Byte :=
  let co := st.cohort
  let t := fun (l : Nat) => (co.lanes.find? l).bind fun x => s.strands.find? x.strand
  let lane := fun (l : Nat) => co.lanes.find? l
  let lanes := List.range 32
  let slotOf := fun (l : Nat) => ((t l).bind fun t => s.groves.find? t.grove).elim 0 fun g => g.slot
  let words := lanes.flatMap fun l => leBytes 8 ((lane l).elim 0 fun x => x.pc.toNat + ((t l).elim 0 fun t => t.index) * 2 ^ 48 + slotOf l * 2 ^ 58)
  let cnts := lanes.flatMap fun l => leBytes 4 ((st.cnts.getD (s.liveCnts st)).getD l 0)
  let repcs := lanes.flatMap fun l => leBytes 1 ((lane l).elim 0 fun x => x.repc)
  let preds := (List.range 15).flatMap fun p => leBytes 4 (maskOf (lanes.filter fun l => (lane l).elim false fun x => x.pred (p + 1)))
  let ext := if co.kind == .handler then lanes.flatMap fun l => burstBytes ((t l).bind fun t => t.burst) else []
  let regs := (List.range co.allot).map co.saved
  let pay := regs.flatMap (Reg.payload co.present)
  let body := ext ++ tagArea (regs.map Reg.tag) ++ padTo (roundUp pay.length 32) pay
  words ++ cnts ++ repcs ++ preds ++ leBytes 4 (maskOf co.present) ++ leBytes 2 co.launch ++ leBytes 2 co.allot ++
    leBytes 1 (co.stage + 4 * (co.kind == .handler).toNat) ++ leBytes 1 co.nlanes ++ leBytes 2 1 ++ leBytes 4 (maskOf st.faults.keys) ++
    leBytes 4 0 ++ leBytes 8 (512 + body.length) ++ leBytes 8 0 ++ body
/-- The bytes held in the two halves of a compare buffer (R460). -/
def Twin.heldBytes (w : Twin) : Nat := (w.lead ++ w.follow).foldl (fun a e => a + e.data.length) 0
/-- The bytes of the caldera a saved grove takes beside its images (R319, R320): whole pages for its tags, the data of its granules, its tile handles, the contents of its weight slots and the operations kept for it. DESIGN CHOICE (log 101): 32 bytes for the tags and for a tile handle, 128 for an operation; the rules give no layout. -/
def Saved.bytes (v : Saved) : Nat :=
  let slot := fun (w : WeightSlot) => w.scales.length + w.rows.foldl (fun a r => a + r.length) 0
  roundUp (32 + 32 * (v.grans.filter fun g => g.2.2.1 == 1).length + 32 * v.tiles.length + v.weights.vals.foldl (fun a w => a + slot w) 0 + 128 * (v.mats.length + v.bulk.length)) 4096
/-- The bytes of the caldera that a partition has in use (R404, R460). -/
def State.calBytes (s : State) (p : Nat) : Nat :=
  let mine := fun (l : Nat) => (s.launches.find? l).elim false fun la => la.part == p
  let imgs := fun (xs : List Stopped) => xs.foldl (fun a st => a + roundUp ((s.imageBytes st).length) 4096) 0
  let chains := s.cores.vals.foldl (fun a k => a + 32 * (((k.records.vals.filter fun r => r.widx.isNone && mine r.launch).filterMap s.recKey).eraseDups).length) 0
  let spilled := s.cores.vals.foldl (fun a k => a + (k.records.vals.filter fun r => r.spilled && mine r.launch).foldl (fun a r => a + r.bytes) 0) 0
  let groves := s.groves.vals.filter fun g => mine g.launch
  let held := (s.twins.filter fun w => (s.groves.find? w.1).elim false fun g => mine g.launch).foldl (fun a w => a + (w.2.heldBytes - 2 ^ 20)) 0
  held + groves.foldl (fun a g => a + g.saved.elim 0 Saved.bytes) 0 + imgs (groves.flatMap fun g => g.saved.elim [] fun v => v.images) +
    imgs ((s.launches.vals.filter fun la => la.part == p).flatMap fun la => la.waiting) + imgs ((s.part p).halted.vals ++ (s.part p).rotated) + spilled + chains + 32 * s.chained p
/-- Why the record machinery, master 0x32, may not write a partition's caldera (R345, R347, R429): judged over the whole of it, in plaintext (log 94). -/
def State.calRefused (s : State) (p : Nat) : Option Nat :=
  let cal := (s.part p).pcal
  if fld cal 6 0 == 0 then none else s.accessReason 0x32 (fld cal 51 30 * 2 ^ 30) (fld cal 6 0 * 2 ^ 30) .write 0
/-- The caldera of a partition holds what stands in it with a need more (R136), and its writes are admitted (R429). -/
def State.calFits (s : State) (p need : Nat) : Bool := decide (s.calBytes p + need ≤ fld (s.part p).pcal 6 0 * 2 ^ 30) && (s.calRefused p).isNone
/-- The caldera of a partition has room for a need (R404). -/
def State.calRoom (s : State) (p need : Nat) : Bool := need == 0 || s.calFits p need
/-! The record store and its spills (R33, R135, R404) -/

/-- The record-store bytes a partition uses on a core (R135, R314). -/
def State.recBytes (s : State) (core p : Nat) : Nat :=
  ((s.core core).records.vals.filter fun r => !r.spilled && (s.launches.find? r.launch).elim false fun la => la.part == p).foldl (fun a r => a + r.bytes) 0
/-- The bytes of record store in use on a core. -/
def State.storeBytes (s : State) (core : Nat) : Nat :=
  ((s.core core).records.vals.filter fun r => !r.spilled).foldl (fun a r => a + r.bytes) 0
/-- The partition of a grove. -/
def State.grovePart (s : State) (grove : Nat) : Nat := ((s.groves.find? grove).bind fun g => s.launches.find? g.launch).elim 0 fun la => la.part
/-- The records on a page of a core's record store. -/
def Core.onPage (k : Core) (n : Nat) : List (Nat × Record) := k.records.filter fun x => !x.2.spilled && x.2.page == n
/-- The pages of a core's record store in use: the partition of each and the bytes taken on it (R135). -/
def State.pageFill (s : State) (core : Nat) : NMap (Nat × Nat) :=
  (s.core core).records.vals.foldl (fun m r => if r.spilled then m else NMap.put m r.page (s.launchPart r.launch, (NMap.getD m r.page (0, 0)).2 + r.bytes)) []
/-- The page of 4 KiB, of the 128, that a record of a partition goes to: the lowest with the partition's records and room, else, while the partition has less than a quota of pages, the lowest free (R135, R314; which one is a DESIGN CHOICE, log 58). -/
def roomyPage (quota p bytes : Nat) (fill : NMap (Nat × Nat)) : Option Nat :=
  ((List.range 128).find? fun n => (fill.find? n).elim false fun x => x.1 == p && decide (x.2 + bytes ≤ 4096)).orElse fun _ =>
    if (fill.filter fun x => x.2.1 == p).length < quota then (List.range 128).find? fun n => (fill.find? n).isNone else none
/-- The pages once records of some sizes have been put there; none if one of them finds no room. -/
def putSizes (quota p : Nat) : List Nat → NMap (Nat × Nat) → Option (NMap (Nat × Nat))
  | [], fill => some fill
  | b :: t, fill => (roomyPage quota p b fill).bind fun n => putSizes quota p t (fill.put n (p, (fill.getD n (0, 0)).2 + b))
/-- The page quota of a partition (R313). -/
def State.pageQuota (s : State) (p : Nat) : Nat := fld (s.part p).pq0 28 21
/-- The record store of a core has room for records of some sizes: within the RECPG quota of R313 and its 128 pages (R33, R135). -/
def State.storeFits (s : State) (core p : Nat) (sizes : List Nat) : Bool := (putSizes (s.pageQuota p) p sizes (s.pageFill core)).isSome
/-- The page a record of a partition goes to, if there is room. -/
def State.pageFor (s : State) (core : Nat) (r : Record) : Option Nat := roomyPage (s.pageQuota (s.launchPart r.launch)) (s.launchPart r.launch) r.bytes (s.pageFill core)
/-- A record that may spill: compacted, and not ready (R32, R135). -/
def Record.idle (r : Record) : Bool := !r.ready && !r.provisional && !r.spilled && r.err.isNone
/-- The page of a core that spills next (R135), of a partition or of any whose caldera has room (R404): first those all of whose records may spill, then those some of whose records may; the one with the oldest park. -/
def State.spillPage (s : State) (core : Nat) (p : Option Nat) : Option Nat :=
  let k := s.core core
  let rs := k.records.vals.filter fun r => r.idle && p.elim true (fun p => s.launchPart r.launch == p) && s.calRoom (s.launchPart r.launch) 4096
  let oldest := fun (rs : List Record) => ((rs.map Record.tick).min?).bind fun t => (rs.find? fun r => r.tick == t).map Record.page
  (oldest (rs.filter fun r => (k.onPage r.page).all fun y => y.2.idle)).orElse fun _ => oldest rs
/-- Spill what may spill of one page of a partition, or of any. -/
def State.spillOne (s : State) (core : Nat) (p : Option Nat) : State :=
  match s.spillPage core p with
  | none => s
  | some n => s.modCore core fun k => { k with records := k.records.map fun x => (x.1, if x.2.page == n && x.2.idle then { x.2 with spilled := true } else x.2) }
/-- Spill pages of a partition, or of any, while there is more in use than should be. -/
def State.spillWhile (s : State) (core : Nat) (p : Option Nat) (more : State → Bool) : Nat → State
  | 0 => s
  | fuel + 1 => if more s && (s.spillPage core p).isSome then State.spillWhile (s.spillOne core p) core p more fuel else s
/-- The pages of a partition in a core's record store. -/
def State.pagesHeld (s : State) (core p : Nat) : Nat := ((s.pageFill core).filter fun x => x.2.1 == p).length
/-- Spill what exceeds the store's threshold of 87.5%, until less than 75% is in use, and what exceeds a partition's page quota (R135, R314, R404). -/
def State.spill (s : State) (core : Nat) : State :=
  let n := (s.core core).records.length
  let s := if 458752 < s.storeBytes core then s.spillWhile core none (fun s => decide (393216 ≤ s.storeBytes core)) n else s
  let parts := ((s.core core).records.vals.map fun r => s.launchPart r.launch).eraseDups
  parts.foldl (fun s p => s.spillWhile core (some p) (fun s => decide (s.pageQuota p < s.pagesHeld core p)) n) s
/-- Room is made for a record that finds none: pages of its partition spill, then those of any (R135, R404). -/
def State.makeRoom (s : State) (core : Nat) (r : Record) : State :=
  let n := (s.core core).records.length
  let full := fun (s : State) => (s.pageFor core r).isNone
  (s.spillWhile core (some (s.launchPart r.launch)) full n).spillWhile core none full n
/-- The store has room for a spilled record, or can make it (R135). -/
def State.canReadBack (s : State) (core : Nat) (r : Record) : Bool := ((s.makeRoom core r).pageFor core r).isSome
/-- The sets of a core that are to be binned: a set waits until its spilled members are back in the store (R38, R360), but for those that nothing can make room for (DESIGN CHOICE, log 101: the rules give no outcome where a partition's page quota cannot hold a set). -/
def State.setsToBin (s : State) (core : Nat) : List (List Nat) :=
  let k := s.core core
  (setsOf (k.records.filter fun x => s.toBin k x.1 x.2)).filterMap fun set =>
    let back := set.filter fun x => !x.2.spilled
    if back.isEmpty || set.any fun x => x.2.spilled && s.canReadBack core x.2 then none else some (back.map Prod.fst)
/-- Bin on a core what waits on its ready queue, then what has become ready (R38, R39, R360). -/
def State.binCore (s : State) (core : Nat) : State :=
  let sets := s.setsToBin core
  if sets.isEmpty && (s.core core).readyQ.isEmpty then s
  else s.modCore core fun k => sets.foldl (fun k set => k.binSet s.cyc set) (k.rebin s.cyc fun r => !s.frozenL r.launch)
/-- What is ready at the end of a step is binned, where there is a bin for it (R38, R39, R360). -/
def State.settleBins (s : State) : State := s.cores.keys.foldl State.binCore s
/-- Store a record under its number, in the store or, where that has no room, in the caldera (R33, R135). -/
def State.putBack (s : State) (core rid : Nat) (r : Record) : State :=
  let s := s.makeRoom core r
  let r := match s.pageFor core r with
    | some n => { r with page := n, spilled := false }
    | none => { r with spilled := true }
  (s.modCore core fun k => { k with records := k.records.put rid r }).spill core
/-- Store a record under a fresh number; what the store has no room for spills. -/
def State.addRecord (s : State) (core : Nat) (r : Record) : State := s.fresh.2.putBack core s.seq r
/-- The hidden release and acquire at .dom of a strand that leaves a core (R154, R155): its later accesses wait for its own in flight, for what it inherited, and for the stores that only its core has seen; once all of that is complete the L1 of the core it is then on is emptied, as by a fence. -/
def State.hiddenRelease (s : State) (strand core : Nat) : State :=
  match s.strands.find? strand with
  | none => s
  | some t =>
    let ids := ((s.ops.filter fun o => o.of strand || (o.early && o.core == core)).map MemOp.id ++ t.befAll.filter s.flying).eraseDups
    if ids.isEmpty then s
    else (s.addUnit { s.unitOp .fence t.grove t.launch core 0 0 0 0 with strand := strand, after := ids, ord := .acq, sc := .dom }).modStrand strand fun t => { t with befAll := t.befAll ++ [s.seq] }
/-- An operation a record's PEND counts has delivered: PEND falls (R38); those that wait for one result become ready as a set (R360). -/
def State.unpend (s : State) (strand id : Nat) : State :=
  match s.strands.find? strand with
  | none => s
  | some t =>
    s.modCore t.core fun k =>
      { k with records := k.records.map fun x => (x.1, if x.2.strand = strand && x.2.pend.contains id then { x.2 with pend := x.2.pend.filter (· != id), tick := s.tick, set := id } else x.2) }

/-- The strand handles a trap of its launch (R375). -/
def State.isTrapStrand (s : State) (launch strand : Nat) : Bool :=
  match s.launches.find? launch with
  | some la => la.frames.any fun f => f.strands.contains strand
  | none => false
/-- The stage's records are held by a debugger (R386), those of burst handlers where the request said so. -/
def Launch.holds (la : Launch) (stage : Nat) (hx : Bool) : Bool := (la.held.find? stage).elim false fun r => !hx || r.2
/-- The stage mask of the request that holds a stage (R368). -/
def Launch.heldBy (la : Launch) (stage : Nat) : Nat := (la.held.find? stage).elim 0 Prod.fst
/-- The fetched park-map entry that covers a PC (R32). -/
def Core.parkmap? (k : Core) (part : Nat) (pc : Pc) : Option ParkMap :=
  k.parkmaps.find? fun m => m.part == part && decide (m.lo ≤ pc.toNat ∧ pc.toNat < m.hi)

/-- The wait-table entry for a key: the entry that holds it, or the lowest free of 1,024; none when the table is full (R237, R402). -/
def State.waitEntry (s : State) (core : Nat) (key : List Nat) : Option Nat :=
  let rs := (s.core core).records.vals
  match rs.find? fun r => r.widx.isSome && s.recKey r == some key with
  | some r => r.widx
  | none => (List.range 1024).find? fun i => !(rs.any fun r => r.widx == some i)

/-- The bytes of memory that the read of a wait's condition covers. -/
def WaitEv.watchLen : WaitEv → Nat
  | .futG _ _ _ _ _ | .codeReady _ _ => 16
  | .watch _ _ _ _ _ _ w _ _ => if w then 8 else 4
  | _ => 0
/-- The VA of the cell that a wait reads, as its faults give it. -/
def WaitEv.watchVa : WaitEv → Nat
  | .futG va _ _ _ _ | .watch va _ _ _ _ _ _ _ _ => va
  | _ => 0
/-- The key slot that the read of a wait's cell uses (R348). -/
def WaitEv.watchKey : WaitEv → Nat
  | .futG _ _ key _ _ | .watch _ _ key _ _ _ _ _ _ | .codeReady _ key => key
  | _ => 0
/-- What the read of a wait's condition is ordered after (R143 cases 1, 4 and 6, R153, R155, R160): of a scratchpad object, as any scratchpad read; of a global cell, what overlaps it among the strand's operations and the stores its core already sees, and what acquires and fences hold. -/
def State.waitAfter (s : State) (core strand : Nat) (w : WaitEv) : List Nat :=
  match w with
  | .barrier _ _ | .futA _ _ => s.spAfter strand false false
  | .futG _ pa _ _ _ | .watch _ pa _ _ _ _ _ _ _ =>
    let near := (s.ops.filter fun o => (o.of strand || (o.early && o.core == core)) && decide (o.pa < pa + w.watchLen ∧ pa < o.pa + o.size)).map MemOp.id
    (near ++ ((s.strands.find? strand).elim [] fun t => t.befAll.filter s.flying)).eraseDups
  | _ => []
/-! What a strand's reads return beside memory: held stores of its twin copy and staged bytes (R458, R460, R467) -/

/-- The side of a twin pair that a grove is: the leading grove's key, and whether it is the trailing copy (R456). -/
def State.sideOf (s : State) (grove : Nat) : Option (Nat × Bool) := (s.groves.find? grove).bind fun g => g.twin
/-- The origin of a strand, by which the two copies pair (R457). -/
def Strand.pair (t : Strand) : List Nat := t.stage :: t.index :: t.path
/-- A byte under entries of held stores, the newest winning. -/
def overlay (entries : List (Nat × List Byte)) (a : Nat) (b : Byte) : Byte :=
  entries.foldl (fun b e => if e.1 ≤ a ∧ a < e.1 + e.2.length then e.2.getD (a - e.1) 0 else b) b
/-- The stores a grove's copy holds in its compare half, by physical address (R460). -/
def State.heldStores (s : State) (grove : Nat) : List (Nat × List Byte) :=
  match s.sideOf grove with
  | none => []
  | some (lead, trailing) =>
    match s.twins.find? lead with
    | none => []
    | some w => (if trailing then w.follow else w.lead).map fun e => (e.pa, e.data)
/-- The bytes of a launch's staged store at local addresses (R467). -/
def State.stagedOf (s : State) (launch : Nat) : NMap Byte := (s.launches.find? launch).elim [] fun la => la.staged
/-- What a strand of a grove sees in place of bytes read at a physical address: its staged bytes, then its held stores. -/
def State.overlaid (s : State) (grove launch pa : Nat) (bs : List Byte) : List Byte :=
  let staged := if s.isLocal pa then s.stagedOf launch else []
  bs.zipIdx.map fun x => overlay (s.heldStores grove) (pa + x.2) (staged.getD (localOf pa + x.2) x.1)
/-- The bytes of local memory that a strand of a grove sees (R460, R467). -/
def State.viewMem (s : State) (grove launch : Nat) (leaf : DWord) (pa len : Nat) : List Byte := s.overlaid grove launch pa (s.readAs leaf pa len)
/-- The value forwarded to a trailing strand's access of an ordinal (R458). -/
def State.fwdFor (s : State) (t : Strand) (n : Nat) : Option (List Byte) :=
  match s.sideOf t.grove with
  | some (lead, true) => (s.twins.find? lead).bind fun w => (w.fwd.find? fun e => e.1 == t.pair && e.2.1 == n).map fun e => e.2.2
  | _ => none
/-- The trailing copy of a twin pair. -/
def State.isTrailing (s : State) (grove : Nat) : Bool := (s.sideOf grove).elim false Prod.snd
/-- The leading copy of a twin pair. -/
def State.isLeading (s : State) (grove : Nat) : Bool := (s.sideOf grove).elim false fun x => !x.2
/-- A forwarded access was performed: the leading copy posts its value under the strand's next ordinal, the trailing copy takes its next one (R458). -/
def State.forward (s : State) (strand : Nat) (bs : List Byte) : State :=
  match s.strands.find? strand with
  | none => s
  | some t =>
    match s.sideOf t.grove with
    | none => s
    | some (lead, trailing) =>
      let s := s.modStrand strand fun t => { t with nOrd := t.nOrd + 1 }
      if trailing then s else { s with twins := s.twins.adj lead fun w => { w with fwd := w.fwd ++ [(t.pair, t.nOrd, bs)] } }

/-! Parking (R30 to R34, R137) -/

/-- A parked strand's read of a cell of another package, which also places its watch at the cell's home (R137, R252, R253, R444). A trailing copy makes none: it takes what the leading one reads (R458). -/
def State.askCell (s : State) (core strand : Nat) (after : List Nat) (e : WaitEv) (pa : Nat) : State :=
  match s.strands.find? strand with
  | none => s
  | some t =>
    if s.isTrailing t.grove then s
    else s.addUnit { s.unitOp .load t.grove t.launch core e.watchVa pa (keyLeaf e.watchKey) e.watchLen with strand := strand, after := after }
/-- A watch of a strand is about to be placed on a line of this package: at a slice whose 256 entries hold other lines it goes on a chain, counted in LOVF (R403). -/
def State.countWatch (s : State) (part pa : Nat) : State :=
  let slice := s.sliceOf pa
  if s.watchUsed slice < 256 || (s.otherWatches slice).contains (localOf pa / 128) || (s.sliceLines slice).any (fun x => x.2.1 == localOf pa / 128) then s
  else s.modPart part fun q => { q with xstat := putFld q.xstat 47 32 (min 0xFFFF (fld q.xstat 47 32 + 1)) }
/-- A watch placed at a slice whose 256 entries are taken goes on a chain, counted in LOVF (R137, R403); for a cell of another package a read goes to its home, which places the watch there. -/
def State.placeWatch (s : State) (core strand part : Nat) (after : List Nat) (w : WaitEv) : State :=
  match w.watchPa with
  | none => s
  | some pa =>
    if !s.isLocal pa then s.askCell core strand after w pa
    else s.countWatch part pa

/-- Park a lane: its saved registers are those of the park-map entry at the resume PC, or of the whole allotment (R32, R33). The awaited results are those owed to the registers named; `set` numbers the lanes that park at one YIELD (R360). -/
def State.park (s : State) (core sl l : Nat) (origin resume : Pc) (w : Option WaitEv) (named : List Nat) (set : Nat) : State :=
  match s.cohort? core sl with
  | none => s
  | some co =>
    match co.lanes.find? l with
    | none => s
    | some x =>
      let la := s.launches.find? co.launch
      let part := la.elim 0 fun la => la.part
      let entry := (s.core core).parkmap? part resume
      let regs := entry.elim (List.range co.allot) fun m => m.regs
      let saved : NMap Word := regs.map fun n => (n, co.reg n l)
      let gone := x.poison.filter fun p => !regs.contains p.1
      let key := w.bind fun e => e.key x.strand ((s.strands.find? x.strand).elim 0 fun t => t.grove)
      let widx := key.bind fun k => s.waitEntry core k
      let r : Record :=
        { strand := x.strand, launch := co.launch, stage := co.stage, hx := co.kind == .handler, pc := resume, preds := x.preds,
          repc := x.repc, regs := saved, contig := entry.isNone, pend := s.pendingFor x.strand named, wait := w, widx := widx,
          held := la.elim false fun la => la.holds co.stage (co.kind == .handler), fwd := false, provisional := entry.isNone,
          spilled := false, page := 0, tick := s.tick, origin := origin, poison := x.poison.filter fun p => regs.contains p.1, err := none, set := set, after := w.elim [] (s.waitAfter core x.strand) }
      let s := if entry.isSome then s.discard x.strand regs else s
      let s := s.setCohort core sl { co with lanes := co.lanes.del l, segTick := s.tick, wdogSeen := false }
      let s := if key.isSome && widx.isNone then
          s.modPart part fun q => { q with xstat := putFld q.xstat 63 48 (min 0xFFFF (fld q.xstat 63 48 + 1)) } else s
      let s := w.elim s (s.placeWatch core x.strand part r.after)
      let s := s.lostPoison (s.strandRec x.strand 3 0 core 0 x.pc) (gone.map Prod.snd)
      s.addRecord core r

/-! Waits and their events (R137, R160, R237, R252, R253, R402) -/

/-- An L1 that has more lines than it holds gives up one, not of those just filled, that nothing fixes which (R8, R118; log 92). -/
def evictOne (lineOf : Nat → Nat) (cap free : Nat) (keep : List Nat) (m : NMap (List Byte)) : NMap (List Byte) :=
  let lines := ((m.map fun x => lineOf x.1).eraseDups).filter fun n => !keep.contains n
  if lines.length + keep.length ≤ cap then m else (lines[free % lines.length]?).elim m fun n => m.filter fun x => lineOf x.1 != n
/-- A core's L1 data cache keeps to its 256 KiB, 2,048 lines of four sectors (R8). -/
def State.trimL1d (s : State) (core : Nat) (keep : List Nat) : State :=
  if (s.core core).l1d.length ≤ 2048 then s
  else s.takeFree.2.modCore core fun k => { k with l1d := evictOne (· / 4) 2048 s.takeFree.1 keep k.l1d }
/-- A core's L1 instruction cache keeps to its 64 KiB, 512 lines (R8). -/
def State.trimL1i (s : State) (core n : Nat) : State :=
  if (s.core core).l1i.length ≤ 512 then s
  else s.takeFree.2.modCore core fun k => { k with l1i := evictOne id 512 s.takeFree.1 [n] k.l1i }
/-- Empty a core's L1 data cache: an acquire or fence at .die or wider (R118). -/
def State.invalidateL1 (s : State) (core : Nat) : State := s.modCore core fun k => { k with l1d := [] }
/-- The effect of an acquire at a scope on the core's L1 (R118, R144). -/
def State.acquire (s : State) (core : Nat) (sc : Scope) : State := if sc = .core then s else s.invalidateL1 core
/-- EXPECT of a barrier object (R139). -/
def barExpect (n : Nat) : Nat := bitsN n 42 32
/-- PHASE of a barrier object (R139). -/
def barPhase (n : Nat) : Bool := bitN n 31
/-- COUNT of a barrier object (R139). -/
def barCount (n : Nat) : Nat := bitsN n 10 0
/-- A barrier object that BARARR and BARWAIT refuse (R245). -/
def barBad (n : Nat) : Bool :=
  bitsN n 127 43 != 0 || bitsN n 30 11 != 0 || barExpect n == 0 || decide (1024 < barExpect n) || decide (barExpect n ≤ barCount n)
/-- The barrier fault (R389). -/
def barFault (off n : Nat) : Flt := { code := 0x000E, akind := 4, addr := off, gen := 0, d0 := n % 2 ^ 64, d1 := n / 2 ^ 64 }
/-- A future cell that FWAIT, FFILL and FRESET refuse (R138, R249). -/
def futBad (n : Nat) : Bool := decide (1 < n % 2 ^ 32) || n / 2 ^ 32 % 2 ^ 32 != 0
/-- The future fault (R389). -/
def futFault (akind addr n : Nat) : Flt :=
  { code := 0x000F, akind := akind, addr := addr, gen := 0, d0 := n % 2 ^ 32, d1 := n / 2 ^ 32 % 2 ^ 32 }
/-- A tile handle that a grove holds, or the matrix-handle fault's reason (R293, R389). -/
def Core.tile (k : Core) (grove h : Nat) : Except Nat Tile :=
  match k.tiles.find? fun t => t.grove == grove && t.num == h with
  | none => .error 1
  | some t => if t.released then .error 2 else .ok t
/-- The matrix-handle fault (R389). -/
def handleFault (h reason : Nat) : Flt := { code := 0x000C, akind := 0, addr := 0, gen := 0, d0 := h, d1 := reason }

/-- What a re-evaluation of a wait finds (R237). -/
inductive Woken
  | no
  | yes (dst : Nat) (ws : List Word) (acq : Option Scope)
  | err (f : Flt)
  deriving DecidableEq, Repr

/-- The two words of a 64-bit value (R58). -/
def words64 (n : Nat) : List Word := [BitVec.ofNat 32 n, BitVec.ofNat 32 (n / 2 ^ 32)]
/-- What a parked strand's read of a global cell returns. -/
inductive CellRead
  | none
  | poison (src : Nat)
  | tag (line : Nat)
  | bytes (bs : List Byte)
  deriving DecidableEq, Repr

/-- The read of a watched global cell (R252, R253): a trailing copy takes the forwarded value (R458); a cell of another package answers by an event. -/
def State.cellRead (s : State) (t : Strand) (pa key len : Nat) : CellRead :=
  if s.isTrailing t.grove then (s.fwdFor t t.nOrd).elim .none .bytes
  else if !s.isLocal pa then .none
  else
    match s.poisonAt pa len with
    | some src => .poison src
    | none => if s.tagFails (keyLeaf key) pa len then .tag (pa % 2 ^ 52 / 64) else .bytes (s.viewMem t.grove t.launch (keyLeaf key) pa len)
/-- FWAIT's judgement of a global cell it has read (R249, R252). -/
def futWoken (va d : Nat) (sc : Scope) (bs : List Byte) : Woken :=
  if futBad (leNat bs) then .err (futFault 1 va (leNat bs))
  else if leNat bs % 2 == 1 then .yes d (words64 (leNat bs / 2 ^ 64)) (some sc) else .no
/-- PARKW's condition on the word it has read (R253). -/
def watchWoken (b c : DWord) (cc : Cc) (ord : Ord) (sc : Scope) (bs : List Byte) : Woken :=
  if cc.holdsU (BitVec.ofNat 64 (leNat bs) &&& c).toNat b.toNat then .yes 0 [] (if ord = Ord.acq then some sc else none) else .no
/-- What the bytes of a watched cell decide for the wait that watches it (R249, R252, R253, R342). -/
def WaitEv.judge (w : WaitEv) (bs : List Byte) : Woken :=
  match w with
  | .futG va _ _ d sc => futWoken va d sc bs
  | .watch _ _ _ b c cc _ ord sc => watchWoken b c cc ord sc bs
  | .codeReady _ _ => if getLe bs 8 4 == 2 || getLe bs 8 4 == 3 then .yes 0 [] (some .dom) else .no
  | _ => .no
/-- The grove is evicted: no condition in its windows, or of its tiles, can be evaluated (R319). -/
def State.away (s : State) (grove : Nat) : Bool := (s.groves.find? grove).elim false fun g => !g.placed
/-- The condition of an event for a strand (R237 to R240, R248, R252, R253). An event with no condition of its own holds when it is fired. -/
def State.evalWait (s : State) (core strand : Nat) (w : WaitEv) : Woken :=
  match s.strands.find? strand with
  | none => .no
  | some t =>
    match w with
    | .tags all mask =>
      let tags := (s.groves.find? t.grove).elim 0 fun g => g.tags
      if (if all then tags &&& mask == mask else (tags &&& mask != 0) || mask == 0) then .yes 0 [] none else .no
    | .version h v =>
      if s.away t.grove then .no else
      match (s.core core).tile t.grove h with
      | .error r => .err (handleFault h r)
      | .ok x => if (x.version + 65536 - v) % 65536 < 0x8000 then .yes 0 [] none else .no
    | .counter cls n => if t.count cls ≤ n then .yes 0 [] none else .no
    | .barrier off b =>
      if s.away t.grove then .no else
      match s.spCheck core t.grove .a off 16 16 true with
      | some f => .err f
      | none =>
        let n := leNat (s.spRead core t.grove .a off 16)
        if barBad n then .err (barFault off n) else if barPhase n != b then .yes 0 [] none else .no
    | .futA off d =>
      if s.away t.grove then .no else
      match s.spCheck core t.grove .a off 16 16 true with
      | some f => .err f
      | none =>
        let n := leNat (s.spRead core t.grove .a off 16)
        if futBad n then .err (futFault 4 off n)
        else if n % 2 == 1 then .yes d (words64 (n / 2 ^ 64)) none else .no
    | .futG va pa key d sc =>
      match s.cellRead t pa key 16 with
      | .none => .no
      | .poison src => .err { code := 0x1006, akind := 1, addr := va, gen := 0, d0 := src, d1 := d }
      | .tag n => .err { code := 0x1007, akind := 1, addr := va, gen := 0, d0 := key, d1 := n }
      | .bytes bs => futWoken va d sc bs
    | .watch va pa key b c cc w ord sc =>
      match s.cellRead t pa key (if w then 8 else 4) with
      | .none => .no
      | .poison src => .err { code := 0x1006, akind := 1, addr := va, gen := 0, d0 := src, d1 := 0xFFFF }
      | .tag n => .err { code := 0x1007, akind := 1, addr := va, gen := 0, d0 := key, d1 := n }
      | .bytes bs => watchWoken b c cc ord sc bs
    | .codeReady stub key =>
      -- R342: STATE is 2 or 3; a stub that cannot be read is executed again and faults there.
      let st := leNat (s.readAs (keyLeaf key) (stub + 8) 4)
      if st == 2 || st == 3 || (s.poisonAt stub 16).isSome || s.tagFails (keyLeaf key) stub 16 then .yes 0 [] (some .dom) else .no
    | .fwd n => if (s.fwdFor t n).isSome then .yes 0 [] none else .no
    | .xlat _ _ _ | .tableFree | .sweepDone | .slack | .ckpt _ => .yes 0 [] none
/-- The oldest chain node moves into a table entry that has freed (R402). -/
def State.promote (s : State) (core : Nat) : State :=
  let chain := (s.core core).records.filter fun (x : Nat × Record) => x.2.widx.isNone && (s.recKey x.2).isSome
  match ((chain.map fun x => watchOrder x.2.tick x.1).min?).bind fun n => chain.find? fun x => watchOrder x.2.tick x.1 == n with
  | none => s
  | some (_, r) =>
    match s.recKey r with
    | none => s
    | some key =>
      match s.waitEntry core key with
      | none => s
      | some i => s.modCore core fun k =>
          { k with records := k.records.map fun x => (x.1, if s.recKey x.2 == some key then { x.2 with widx := some i } else x.2) }
/-- Chain nodes move into the table entries that have freed, the oldest first (R402). -/
def State.settleChains (s : State) : State :=
  s.cores.foldl (fun s x =>
    let n := (x.2.records.filter fun (y : Nat × Record) => y.2.widx.isNone && (s.recKey y.2).isSome).length
    (List.range n).foldl (fun s _ => s.promote x.1) s) s
/-- What a parked strand read when its wait cleared is posted for, or taken by, its twin (R458). -/
def State.forwardCell (s : State) (r : Record) (w : WaitEv) : State :=
  let bytes := fun (pa key len : Nat) => s.viewMem ((s.strands.find? r.strand).elim 0 fun t => t.grove) r.launch (keyLeaf key) pa len
  match w with
  | .futG _ pa key _ _ => s.forward r.strand (bytes pa key 16)
  | .watch _ pa key _ _ _ wide _ _ => s.forward r.strand (bytes pa key (if wide then 8 else 4))
  | _ => s
/-- The outcome of a re-evaluation (R237): the record's wait clears, stays, or the record leaves with the fault met. -/
def State.wakeAs (s : State) (core rid : Nat) (r : Record) (w : WaitEv) (res : Woken) : State :=
  let set := fun (s : State) (f : Record → Record) => s.modCore core fun k => { k with records := k.records.adj rid f }
  match res with
  | .no => s
  | .yes dst ws acq =>
    let s := set (s.forwardCell r w) fun r => { (r.fill (ws.zipIdx dst)) with wait := none, widx := none, tick := s.tick, set := 0 }
    let s := match w with
      | .futG _ pa _ _ _ | .watch _ pa _ _ _ _ _ _ _ => s.dropSectors core pa w.watchLen
      | _ => s
    let s := match acq with
      | some sc => s.acquire core sc
      | none => s
    s.promote core
  | .err f => (set s fun r => { r with wait := none, widx := none, err := some f }).promote core
/-- Re-evaluate one record's wait (R237), once nothing is in flight that its read is ordered after (R143). A global read takes the place of the L1's bytes (R118, R147). -/
def State.wakeOne (s : State) (core rid : Nat) : State :=
  match (s.core core).records.find? rid with
  | none => s
  | some r =>
    match r.wait with
    | none => s
    | some w => if r.after.any s.flying then s else s.wakeAs core rid r w (s.evalWait core r.strand w)
/-- The records of a core that one firing has made ready are one set (R360). -/
def State.asSet (s : State) (core : Nat) (rids : List Nat) : State :=
  let woken := rids.filter fun i => ((s.core core).records.find? i).elim false fun r => r.wait.isNone
  if woken.isEmpty then s else s.modCore core fun k => { k with records := k.records.map fun x => (x.1, if woken.contains x.1 then { x.2 with set := woken.headD 0 } else x.2) }
/-- An event on a core: re-evaluate every record whose wait it concerns (R237); those it makes ready are one set (R360). -/
def State.fire (s : State) (core : Nat) (sel : Record → WaitEv → Bool) : State :=
  let rids := ((s.core core).records.filter fun x => x.2.wait.elim false (sel x.2)).map Prod.fst
  (rids.foldl (fun s i => s.wakeOne core i) s).asSet core rids
/-- A tag of a grove was set (R237, R282). -/
def State.fireTags (s : State) (core grove : Nat) : State :=
  s.fire core fun r w => match w with
    | .tags _ _ => (s.strands.find? r.strand).elim false fun t => t.grove == grove
    | _ => false
/-- A class counter of a strand fell (R237, R240). -/
def State.fireCounter (s : State) (core strand : Nat) : State :=
  s.fire core fun r w => match w with
    | .counter _ _ => r.strand == strand
    | _ => false
/-- A tile handle's version advanced, or it was released (R237, R239). -/
def State.fireTile (s : State) (core grove h : Nat) : State :=
  s.fire core fun r w => match w with
    | .version x _ => x == h && (s.strands.find? r.strand).elim false fun t => t.grove == grove
    | _ => false
/-- A barrier object completed a phase, or was initialised (R246, R247). -/
def State.fireBarrier (s : State) (core grove off : Nat) : State :=
  s.fire core fun r w => match w with
    | .barrier o _ => o == off && (s.strands.find? r.strand).elim false fun t => t.grove == grove
    | _ => false
/-- Granules of the A-buffer were written: futures in them re-evaluate (R252). -/
def State.fireGran (s : State) (core grove off len : Nat) : State :=
  s.fire core fun r w => match w with
    | .futA o _ => decide (off / 32 ≤ o / 32 ∧ o / 32 ≤ (off + len - 1) / 32) && (s.strands.find? r.strand).elim false fun t => t.grove == grove
    | _ => false
/-- An allocation was freed or cleared: barriers and futures of the grove re-evaluate (R237). -/
def State.fireAlloc (s : State) (core grove : Nat) : State :=
  s.fire core fun r w => match w with
    | .futA _ _ | .barrier _ _ => (s.strands.find? r.strand).elim false fun t => t.grove == grove
    | _ => false
/-- Events without a condition of their own. -/
def State.firePlain (s : State) (core : Nat) (sel : WaitEv → Bool) : State := s.fire core fun _ w => sel w
/-- The home performed a write of a line: watches on it fire (R137). -/
def State.fireLine (s : State) (pa len : Nat) : State :=
  let hit := fun (a : Nat) => decide (localOf pa / 128 ≤ localOf a / 128 ∧ localOf a / 128 ≤ (localOf pa + len - 1) / 128)
  s.cores.keys.foldl (fun s c => s.fire c fun _ w => match w with
    | .futG _ a _ _ _ => hit a
    | .watch _ a _ _ _ _ _ _ _ => hit a
    | .codeReady a _ => hit a
    | _ => false) s
/-- The packages that watch a line of this one are told of a write, with the line's bytes; on class 3 (R331); their watches are spent (R137). -/
def State.tellWatchers (s : State) (pa len : Nat) : State :=
  let hit := s.link.watches.filter fun x => decide (localOf pa / 128 ≤ x.2.1 ∧ x.2.1 ≤ (localOf pa + len - 1) / 128)
  if hit.isEmpty then s
  else
    ((hit.map fun x => (x.1, x.2.1)).eraseDups).foldl (fun s x => s.post x.1 3 1 0 15 0 (leBytes 8 (2 ^ 49 + s.pkg * 2 ^ 41 + 128 * x.2) ++ s.readMem (128 * x.2) 128))
      { s with link := { s.link with watches := s.link.watches.filter fun x => !hit.contains x } }
/-- Perform a write at the home (R119): the bytes, poison and tags cleared by a whole line (R419, R424), the watches fired; the host holds the lines no more (R328, log 35). -/
def State.homeWrite (s : State) (pa : Nat) (bs : List Byte) : State :=
  let whole := fun (n : Nat) => decide (localOf pa ≤ 64 * n ∧ 64 * n + 64 ≤ localOf pa + bs.length)
  let s := s.writeMem (localOf pa) bs
  ({ s with
    poisoned := s.poisoned.filter fun n => !whole n
    tagBad := s.tagBad.filter fun n => !whole n
    host := { s.host with lines := s.host.lines.filter fun n => !(linesOf pa bs.length).contains n } }.fireLine pa bs.length).tellWatchers pa bs.length

/-! The end of strands, cohort formation (R21, R42, R62 to R66) -/

/-- A strand ends (R21): what it is owed is discarded; its twin signature is posted (R463). -/
def State.endStrand (s : State) (strand : Nat) : State :=
  match s.strands.find? strand with
  | none => s
  | some t =>
    let g := s.groves.find? t.grove
    let s := match g.bind Grove.twin with
      | none => s
      | some (lead, trailing) =>
        { s with twins := s.twins.adj lead fun w => { w with posted := w.posted ++ [(trailing, t.stage :: t.index :: t.path, t.sig, t.nStores)] } }
    { s with strands := s.strands.del strand }
/-- A lane leaves its cohort by EXIT (R21); a poisoned register it never read is recorded (R420). -/
def State.exitLane (s : State) (core sl l : Nat) : State :=
  match s.cohort? core sl with
  | none => s
  | some co =>
    match co.lanes.find? l with
    | none => s
    | some x =>
      let s := s.lostPoison (s.strandRec x.strand 3 0 core 0 x.pc) (x.poison.map Prod.snd)
      (s.setCohort core sl { co with lanes := co.lanes.del l, segTick := s.tick, wdogSeen := false }).endStrand x.strand
/-- The next register generation that no resident cohort holds; none when the counter would pass 65,535 (R64, R66). -/
def Core.nextGen (k : Core) : Option Nat :=
  ((List.range 97).map (k.gen + ·)).find? fun g => decide (g ≤ 65535) && !(k.slots.any fun x => x.2.gen == g)
/-- The tag of a register restored from records (R62): uniform when every present lane holds one value, else general. -/
def restoredReg (vals : List Word) : Reg :=
  match vals with
  | [] => .uniform 0
  | v :: t => if t.all (· == v) then .uniform v else .general (vals ++ List.replicate (32 - vals.length) 0)
/-- The registers of a cohort formed from records: each that at least one lane restores (R62). -/
def restoredRegs (allot : Nat) (rs : List Record) : NMap Reg :=
  ((List.range allot).filter fun n => rs.any fun r => (r.regs.find? n).isSome).map fun n => (n, restoredReg (rs.map fun r => r.regs.getD n 0))
/-- Form a cohort in a slot from records in binning order (R22, R42); the records are freed. -/
def State.form (s : State) (core sl : Nat) (rids : List Nat) : State :=
  let k := s.core core
  let rs := rids.filterMap fun i => k.records.find? i
  match rs, k.nextGen with
  | r :: _, some gen =>
    let la := s.launches.find? r.launch
    let trap := s.isTrapStrand r.launch r.strand
    let own := la.bind fun la => (la.frames.find? fun f => f.strands.contains r.strand).map fun f => f.img.cohort.allot
    let allot := own.getD (la.elim 0 fun la => if r.hx then la.pkt.hallot else la.pkt.allot.getD r.stage 0)
    let lanes : NMap Lane := (rs.zipIdx 0).map fun x =>
      (x.2, { strand := x.1.strand, pc := x.1.pc, preds := x.1.preds, repc := x.1.repc, poison := x.1.poison, met := none })
    let co : Cohort :=
      { launch := r.launch, stage := r.stage, kind := if trap then .trap else if r.hx then .handler else .stage, allot := allot,
        nlanes := rs.length, gen := gen, lanes := lanes, regs := restoredRegs allot rs, rslots := k.regSlots allot, age := s.stepN, readyTick := s.cyc, segTick := s.tick, born := s.tick,
        boosted := false, single := none, birthFault := r.err, wdogSeen := false }
    let s := s.modCore core fun k =>
      { k with slots := k.slots.put sl co, gen := gen + 1, records := rids.foldl (fun m i => NMap.del m i) k.records }
    rs.foldl (fun s r => s.modStrand r.strand fun t => { t with core := core }) s
  | _, _ => s

/-! Writes wherever they lead (R162, R165, R326) -/

/-- A write performed at its home under the key slot of its leaf (R119, R348). -/
def State.keyedWrite (s : State) (leaf : DWord) (pa : Nat) (bs : List Byte) : State :=
  ((s.unseal leaf pa bs.length).homeWrite pa bs).markKey leaf pa bs.length
/-- Write bytes at a physical address, wherever it leads. -/
def State.anyWrite (s : State) (part pa : Nat) (leaf : DWord) (bs : List Byte) : State :=
  if s.isLocal pa then (if s.populated pa then s.keyedWrite leaf pa bs else s)
  else if spaceOf pa == 1 then s.toPeer part pa leaf 0 bs
  else s.toHost pa bs false
/-- The host link is down for an address that it leads to (R451). -/
def State.cutOff (s : State) (pa : Nat) : Bool := (spaceOf pa == 2 || spaceOf pa == 4) && !s.host.linkUp
/-- Bytes at a physical address under a leaf; those of another package or the host are what their read has brought, and without one free values. -/
def State.anyRead (s : State) (leaf : DWord) (pa n : Nat) : List Byte :=
  if s.isLocal pa then s.readAs leaf pa n else ((s.link.got.find? pa).map Prod.fst).getD (leBytes n (Config.free (2 ^ 64 * (s.tick + 1) + pa)))
/-- How the read of a piece outside the package failed. -/
def State.awayFault (s : State) (pa : Nat) : Option Flt := if s.isLocal pa then none else (s.link.got.find? pa).bind Prod.snd

/-! Ranges of virtual memory that the device itself reads and writes -/

/-- The lines a range of bytes can touch, for the functions around. -/
def lineFuel (len : Nat) : Nat := len / 64 + 2

/-- Read bytes line by line through a partition's tables, or the fault met (R424). -/
def State.vaRead (s : State) (core part master : Nat) : Nat → Nat → Nat → Except Flt (List Byte)
  | 0, _, _ => .ok []
  | fuel + 1, va, len =>
    if len == 0 then .ok []
    else
      let n := min len (64 - va % 64)
      match s.gWalk core part master va n .read with
      | .ok pa leaf =>
        if s.cutOff pa then .error { code := 0x300C, akind := 1, addr := va, gen := 0, d0 := 4, d1 := 0 }
        else if let some f := s.awayFault pa then .error f
        else
          match if s.isLocal pa then s.poisonAt pa n else none with
          | some src => .error { code := 0x1006, akind := 1, addr := va, gen := 0, d0 := src, d1 := 0xFFFF }
          | none =>
            if s.isLocal pa && s.tagFails leaf pa n then .error { code := 0x1007, akind := 1, addr := va, gen := 0, d0 := fld leaf 63 58, d1 := pa % 2 ^ 52 / 64 }
            else match State.vaRead s core part master fuel (va + n) (len - n) with
            | .ok t => .ok (s.anyRead leaf pa n ++ t)
            | .error f => .error f
      | .bad f => .error f
      | .miss => .error { code := 0x1003, akind := 1, addr := va, gen := 0, d0 := 0, d1 := 0 }
/-- The pieces of a range that lie outside this package, as a unit reads them: VA, PA, leaf, bytes. -/
def State.piecesAway (s : State) (core part master : Nat) : Nat → Nat → Nat → List (Nat × Nat × DWord × Nat)
  | 0, _, _ => []
  | fuel + 1, va, len =>
    if len == 0 then []
    else
      let n := min len (64 - va % 64)
      (match s.gWalk core part master va n .read with
        | .ok pa leaf => if s.isLocal pa || s.cutOff pa || spaceOf pa == 0 || spaceOf pa == 3 then [] else [(va, pa, leaf, n)]
        | _ => []) ++ State.piecesAway s core part master fuel (va + n) (len - n)
/-- The pieces outside this package of several ranges: partition, VA, bytes. -/
def State.awayAll (s : State) (core master : Nat) (rs : List (Nat × Nat × Nat)) : List (Nat × Nat × DWord × Nat) :=
  rs.flatMap fun r => s.piecesAway core r.1 master (lineFuel r.2.2) r.2.1 r.2.2
/-- The pieces that have still to be read. -/
def State.unread (s : State) (ps : List (Nat × Nat × DWord × Nat)) : List (Nat × Nat × DWord × Nat) := ps.filter fun p => (s.link.got.find? p.2.1).isNone
/-- A read by a unit of the device, outside this package: a load of no strand, at the host port or over a flow (R162, R326, R345). -/
def MemOp.isUnitRead (o : MemOp) : Bool := o.kind == .load && o.strand == 0 && o.grove == 0 && o.fields.getD 3 0 == 10
/-- Ask for pieces outside this package, each once. -/
def State.askUnits (s : State) (part : Nat) (ps : List (Nat × Nat × DWord × Nat)) : State :=
  ps.foldl (fun s p => if s.ops.any fun o => o.isUnitRead && o.pa == p.2.1 then s
    else s.addUnit { s.unitOp .load 0 0 noCore p.1 p.2.1 p.2.2.1 p.2.2.2 with fields := [0, 0, part, 10] }) s
/-- A unit has used what it read outside this package. -/
def State.unitsRead (s : State) (ps : List (Nat × Nat × DWord × Nat)) : State :=
  if ps.isEmpty then s else { s with link := { s.link with got := s.link.got.filter fun x => !(ps.any fun p => p.2.1 == x.1) } }
/-- A unit of the device reads ranges of virtual memory and goes on once what lies outside this package has come (R162, R326); until then its requests are on their way. -/
def State.whenRead (s : State) (core master : Nat) (rs : List (Nat × Nat × Nat)) (go : State → State) : State :=
  let ps := s.awayAll core master rs
  let new := s.unread ps
  if new.isEmpty then (go s).unitsRead ps else s.askUnits (rs.headD (0, 0, 0)).1 new
/-- A walk made for a unit of a core fills the TLBs (R113). -/
def State.keepWalk (s : State) (core part va : Nat) : State :=
  if (s.tlbFind core part va).isNone then
    match s.walkVa part va with
    | .ok e => s.tlbFill core e
    | .error _ => s
  else s
/-- What a write by a unit of a core does to the core: its walk fills the TLBs, and the L1 forgets the sectors (R113, R157). -/
def State.coreWrites (s : State) (core part va pa n : Nat) : State := if core < noCore then (s.keepWalk core part va).dropSectors core pa n else s
/-- Write bytes line by line through a partition's tables; the lines before a failing one are written. -/
def State.vaWrite (s : State) (core part master : Nat) : Nat → Nat → List Byte → State × Option Flt
  | 0, _, _ => (s, none)
  | fuel + 1, va, bs =>
    if bs.isEmpty then (s, none)
    else
      let n := min bs.length (64 - va % 64)
      match s.gWalk core part master va n .write with
      | .ok pa leaf =>
        if s.cutOff pa then (s, some { code := 0x300C, akind := 1, addr := va, gen := 0, d0 := 4, d1 := 0 })
        else State.vaWrite ((s.coreWrites core part va pa n).anyWrite part pa leaf (bs.take n)) core part master fuel (va + n) (bs.drop n)
      | .bad f => (s, some f)
      | .miss => (s, some { code := 0x1003, akind := 1, addr := va, gen := 0, d0 := 0, d1 := 0 })
/-- The lines of local memory in a range of virtual memory that the host may hold (R328). -/
def State.vaHeld (s : State) (core part master : Nat) : Nat → Nat → Nat → List Nat
  | 0, _, _ => []
  | fuel + 1, va, len =>
    if len == 0 || !s.host.cxl then []
    else
      let n := min len (64 - va % 64)
      (match s.gWalk core part master va n .write with
        | .ok pa _ => s.hostHolds pa n
        | _ => []) ++ State.vaHeld s core part master fuel (va + n) (len - n)
/-- A unit that writes lines goes on once the host holds none of them: until then it waits for the snoops (R328). -/
def State.whenFree (s : State) (lines : List Nat) (go : State → State) : State := if lines.isEmpty then go s else s.snoop lines

/-! Completion signals, the end and the termination of launches (R15, R16, R304, R379, R415) -/

/-- The update of a completion signal's word in this package's memory (R15, R304). -/
def State.signalWord (s : State) (leaf : DWord) (pa : Nat) (failed : Bool) : State :=
  let new := (leNat (s.readAs leaf pa 8) + 2 ^ 64 - 1) % 2 ^ 64
  s.keyedWrite leaf pa (leBytes 8 (if failed then new ||| 2 ^ 63 else new))
/-- The record of a completion signal that could not be written (R415). -/
def State.signalFails (s : State) (part launch va code : Nat) : State := s.log part { (sysRec 3 2 0x200E 0x7000 part 1 va code 0) with launch := launch }
/-- The one atomic update of a completion signal: (old − 1), with bit 63 set for a failed launch (R15, R16, R304); a failure is logged (R415). The update of another package's word is an operation, answered by its home. -/
def State.signal (s : State) (part launch va : Nat) (failed : Bool) : State :=
  if va == 0 || va % 8 != 0 then s
  else
    let fail := s.signalFails part launch va
    match s.gWalk noCore part 0x31 va 8 .atomic with
    | .miss => fail 0x1003
    | .bad f => fail f.code
    | .ok pa leaf =>
      if !s.isLocal pa then s.addUnit { s.unitOp .store 0 0 noCore va pa leaf 8 with data := leBytes 8 failed.toNat, fields := [0, 0, part, 9, launch] }
      else if (s.poisonAt pa 8).isSome then fail 0x1006
      else if s.tagFails leaf pa 8 then fail 0x1007
      else s.signalWord leaf pa failed
/-- The lines of a completion signal, or another word of the scheduler's, that the host may hold (R328). -/
def State.wordHeld (s : State) (part va : Nat) : List Nat := if va == 0 then [] else s.vaHeld noCore part 0x31 2 va 8
/-- Take out of a core everything that belongs to the groves and the launch named. -/
def Core.purge (k : Core) (launch : Nat) (mine : Nat → Bool) : Core :=
  let records := k.records.filter fun x => x.2.launch != launch
  let k := (k.slots.filter fun x => x.2.launch == launch).foldl (fun k x => k.vacate x.1) k
  { k with
    records := records
    bins := k.bins.filter fun b => b.launch != launch
    readyQ := (k.readyQ.map fun set => set.filter fun i => (NMap.find? records i).isSome).filter fun set => !set.isEmpty
    groves := k.groves.filter fun x => !mine x.2
    kept := k.kept.filter fun x => x.2.1 != launch
    allocs := k.allocs.filter fun a => !mine a.grove
    bulkQ := k.bulkQ.filter fun o => !mine o.grove
    matQ := k.matQ.filter fun o => !mine o.grove
    weights := k.weights.filter fun x => !mine x.2.grove
    tiles := k.tiles.filter fun x => !mine x.grove }
/-- A core lost a grove: its stand is idle from now on if none is left there (R354). -/
def State.restStand (s : State) (core : Nat) : State :=
  if (List.range 8).any fun i => !(s.core (8 * standOf core + i)).groves.isEmpty then s
  else { s with pow := { s.pow with idle := s.pow.idle.put (standOf core) s.tick } }
/-- The launch is a staged node (R467). -/
def Launch.isStaged (la : Launch) : Bool := bitN la.pkt.flags 2
/-- The stores of an operation are staged: a staged node, a page with STG = 1, local memory (R467). -/
def State.stages (s : State) (o : MemOp) : Bool :=
  (s.launches.find? o.launch).elim false (fun la => la.isStaged) && fld o.leaf 7 7 == 1 && s.isLocal o.pa
/-- The access of a twin grove whose value crosses from the leading to the trailing copy (R458). -/
def MemOp.forwarded (o : MemOp) : Bool :=
  match o.kind with
  | .load => o.strand != 0 && (o.ord.isAcq || decide (2 ≤ spaceOf o.pa))
  | .atomic _ _ | .cas _ | .ffill | .freset => true
  | .store | .fence | .renew _ | .cinv | .tlbinv | .sp _ _ => false
/-- An access in flight that ends with its launch without reaching memory (R16, R379): a store of a twin grove, which would only be held, what a trailing copy has forwarded to it (R458, R460), and what a staged node writes (R469). -/
def State.lostWith (s : State) (launch : Nat) (o : MemOp) : Bool :=
  o.launch == launch && (((s.sideOf o.grove).isSome && o.kind == .store) || (s.isTrailing o.grove && o.forwarded) || (s.stages o && o.kind != .load))
/-- Steps 1 to 4 of R379: the cohorts, strands, records, images, engine operations and groves of a launch end. -/
def State.endGroves (s : State) (launch : Nat) : State :=
  let gs := (s.groves.filter fun x => x.2.launch == launch).map Prod.fst
  let mine := fun g => gs.contains g
  let comms := ((s.link.colls.filter fun c => mine c.grove && !c.done).map fun c => c.comm).eraseDups
  let s := comms.foldl (fun s n => s.schedule (.collAbort n 0x105)) s
  let cores := ((s.groves.filter fun x => mine x.1).map fun x => x.2.core).eraseDups
  cores.foldl (fun s c => s.restStand c) { s with
    cores := s.cores.map fun x => (x.1, x.2.purge launch mine)
    strands := s.strands.filter fun x => x.2.launch != launch
    groves := s.groves.filter fun x => x.2.launch != launch
    twins := s.twins.filter fun x => !mine x.1
    ops := s.ops.filter fun o => !s.lostWith launch o
    parts := s.parts.map fun x => (x.1, { x.2 with
      halted := x.2.halted.filter fun h => h.2.cohort.launch != launch
      rotated := x.2.rotated.filter fun h => h.cohort.launch != launch })
    link := { s.link with colls := s.link.colls.filter fun c => !mine c.grove } }
/-- Count a termination with a code of R455 in RASCNT.TERM. -/
def State.countTerm (s : State) (part code : Nat) : State :=
  if [0x4002, 0x4003, 0x4006, 0x4007].contains code then s.modPart part fun q => { q with rascnt := putFld q.rascnt 15 0 (min 0xFFFF (fld q.rascnt 15 0 + 1)) } else s
/-- Terminate a launch (R379) and write its one record. The completion signal follows when its stores are done (R16). -/
def State.terminate (s : State) (launch : Nat) (rec : FaultRec) : State :=
  match s.launches.find? launch with
  | none => s
  | some la =>
    if la.ended then s
    else
      let s := ((s.log la.part { rec with launch := launch, part := la.part }).countTerm la.part rec.flt.code).endGroves launch
      s.modLaunch launch fun la => { la with frames := [], waiting := [], staged := [], stagedKeys := [], ended := true, failed := true }
/-- A launch id that no unretired launch holds (R306). -/
def State.newLaunchId (s : State) : Nat :=
  (((List.range 65535).map fun i => (s.sched.launchId - 1 + i) % 65535 + 1).find? fun n => (s.launches.find? n).isNone).getD 0
/-- A staged node consumed an uncorrectable error (R469): it starts again under a new launch id, up to three times. -/
def State.restage (s : State) (launch code : Nat) : State :=
  match s.launches.find? launch with
  | none => s
  | some la =>
    let n := la.attempts + 1
    let rec_ := { (sysRec 3 1 0x4005 0x7000 la.part 0 0 n code) with launch := launch }
    if 3 < n then s.terminate launch { rec_ with sev := 3, flt := { rec_.flt with code := 0x4006, d0 := 4 } }
    else
      let s := (s.log la.part rec_).endGroves launch
      let s := s.modPart la.part fun q => { q with rascnt := putFld q.rascnt 31 16 (min 0xFFFF (fld q.rascnt 31 16 + 1)) }
      let id := s.newLaunchId
      let fresh : Launch := { la with nextGrove := 0, nextIdx := 0, frames := [], waiting := [], staged := [], stagedKeys := [], attempts := n, started := s.seq }
      { s with seq := s.seq + 1, launches := (s.launches.del launch).put id fresh, sched := { s.sched with launchId := id % 65535 + 1 } }
/-- The codes that restart a staged node (R469). -/
def restages (code : Nat) : Bool := code == 0x1006 || code == 0x100B

/-! Taking an exception (R371 to R378) and returning from it (R75, R274, R376, R399) -/

/-- The record of a fault of a cohort's lanes: code and fields of the lowest, LANES all of them (R392). -/
def State.cohortRec (s : State) (core : Nat) (co : Cohort) (pc : Pc) (faults : NMap Flt) (cls sev : Nat) : FaultRec :=
  match faults with
  | [] => sysRec cls sev 0 core 0 0 0 0 0
  | (l, f) :: _ =>
    let rec_ := s.strandRec ((co.lanes.find? l).elim 0 fun x => x.strand) cls sev core (maskOf faults.keys) pc f
    { rec_ with launch := co.launch, part := (s.launches.find? co.launch).elim 0 fun la => la.part }
/-- A stopped cohort, its image not yet written (R371). -/
def Cohort.stop (co : Cohort) (tick core : Nat) (faults : NMap Flt) (sev : Nat) (pc : Pc) (code : Nat) : Stopped :=
  { core := core, cohort := co.healed, faults := faults, sev := sev, pc := pc, stale := (List.range co.allot).filter co.stale, code := code, tick := tick, bins := [], edit := [], cnts := none }
/-- Images whose lanes are owed no result any more are written (R371): their counters (R74), and the registers that are stale (R384), are those of this moment. -/
def State.settleImages (s : State) : State :=
  if (s.allStopped.any fun st => st.cnts.isNone) then
    s.overStopped fun st => if st.cnts.isNone && st.cohort.lanes.all (fun x => (s.owed x.2.strand).isEmpty) then { st with cnts := some (s.liveCnts st), stale := (List.range st.cohort.allot).filter st.cohort.stale } else st
  else s
/-- A lane holds a register word with an uncorrectable error (R418 source 5, R420, R421). -/
def Lane.lost (x : Lane) (regs : List Nat) : Bool := x.poison.any fun q => regs.contains q.1 && q.2.code == 0x1006 && q.2.akind == 6
/-- A register word of a lane that an image cannot be saved without (R421). -/
def Cohort.lostReg (co : Cohort) : Option Nat := co.lanes.findSome? fun x => (List.find? (fun (q : Nat × Flt) => decide (q.1 < co.allot) && q.2.code == 0x1006 && q.2.akind == 6) x.2.poison).map Prod.fst
/-- A strand's state is lost (R421): its launch is terminated, or a staged node starts again (R469). DESIGN CHOICE (log 101): a register or a record of the record store has no PA; the record names its number. -/
def State.stateLost (s : State) (core launch src addr : Nat) : State :=
  match s.launches.find? launch with
  | none => s
  | some la =>
    if la.isStaged then s.restage launch 0x100B
    else s.terminate launch (sysRec 1 3 0x100B core la.part 2 addr src 0)
/-- 5 µs into the eviction of a grove no matrix operation of it starts (R319 step 3). -/
def State.matTaken (s : State) (grove : Nat) : Bool := ((s.groves.find? grove).bind fun g => g.evicting).elim false fun t => decide (t + 5000 ≤ s.tick)
/-! Record space (R313, R404, R405) -/

/-- Record space for records of some sizes with some bytes of chain nodes: the record store or the caldera for the one, the caldera for the other (R404). -/
def State.recRoomWith (s : State) (core p : Nat) (sizes : List Nat) (nodes : Nat) : Bool :=
  s.calRoom p (nodes + if s.storeFits core p sizes then 0 else sizes.foldl (· + ·) 0)
/-- Record space for records of some sizes (R404). -/
def State.recRoom (s : State) (core p : Nat) (sizes : List Nat) : Bool := s.recRoomWith core p sizes 0
/-- The bytes of wait-table chain nodes that new parks of a core need (R402): a key that no entry and no node holds, beyond the free entries. -/
def State.waitNodes (s : State) (core : Nat) (parks : List (Nat × Option WaitEv)) : Nat :=
  match (parks.filterMap fun x => x.2.bind fun w => w.key x.1 ((s.strands.find? x.1).elim 0 fun t => t.grove)).eraseDups with
  | [] => 0
  | keys =>
    let rs := (s.core core).records.vals
    let fresh := keys.filter fun k => !(rs.any fun r => s.recKey r == some k)
    32 * (fresh.length + ((rs.filterMap Record.widx).eraseDups).length - 1024)
/-- The bytes of watch chain nodes that new parks need (R403): lines that no watch of their slice holds, beyond its 256 entries. -/
def State.watchNodes (s : State) (parks : List (Nat × Option WaitEv)) : Nat :=
  let lines := ((parks.filterMap fun x => x.2.bind WaitEv.watchPa).filter s.isLocal).map fun pa => localOf pa / 128
  32 * (lines.eraseDups.filter fun n => let sl := s.sliceOf (128 * n); decide (256 ≤ s.watchUsed sl) && !(s.otherWatches sl).contains n && !(s.sliceLines sl).any fun x => x.2.1 == n).length
/-- Record space is exhausted: the request `who` is held and the partition freezes, with one record of a launch, a grove and a PC (R400, R404); where the caldera refuses the write, that record is an access-table violation in partition 0's ring, of the caldera's own address, which is not translated (R417, R429; DEDUCED, log 101). -/
def State.freezeAs (s : State) (core p : Nat) (who : Nat × Nat) (launch grove : Nat) (pc : Pc) : State :=
  if (s.part p).frozen then s
  else
    let s := s.modPart p fun q => { q with frozen := true, first := some who }
    match s.calRefused p with
    | some r => s.log 0 (sysRec 1 2 0x1008 core 0 1 (fld (s.part p).pcal 51 30 * 2 ^ 30) (0x32 + 1024 * r) 0)
    | none => s.log p { (sysRec 3 4 0x2002 core p 0 0 (fld (s.part p).pcal 6 0) (s.recBytes core p)) with launch := launch, grove := grove, pc := pc.toNat }
/-- The request that froze the partition waits no more: its strand stands in no cohort, its operation is over (R406). -/
def State.firstGone (s : State) (p : Nat) : Bool :=
  match (s.part p).first with
  | none => true
  | some (0, t) => !(s.cores.any fun k => k.2.slots.any fun x => x.2.lanes.any fun y => y.2.strand == t)
  | some (1, id) => !(s.cores.any fun k => k.2.bulkQ.any fun o => o.id == id)
  | some (_, id) => !s.flying id
/-- A request may take its space: none that was held before it waits (R406). -/
def State.hasTurn (s : State) (p : Nat) (who : Nat × Nat) : Bool := (s.part p).first.elim true (· == who) || s.firstGone p
/-- The request that froze the partition has its space (R406). -/
def State.tookTurn (s : State) (p : Nat) (who : Nat × Nat) : State :=
  if (s.part p).first == some who then s.modPart p fun q => { q with first := none } else s
/-- The index of a grove. -/
def State.groveIdx (s : State) (grove : Nat) : Nat := (s.groves.find? grove).elim 0 fun g => g.idx
/-- The same for a strand that would park, spawn or stop. -/
def State.freeze (s : State) (core p : Nat) (strand : Nat) (pc : Pc) : State :=
  let t := s.strands.find? strand
  s.freezeAs core p (0, strand) (t.elim 0 fun t => t.launch) (s.groveIdx (t.elim 0 fun t => t.grove)) pc
/-- The bytes of the caldera that a stopped cohort's image takes (R404). -/
def State.imageRoom (s : State) (st : Stopped) : Nat := roundUp (s.imageBytes st).length 4096

/-- The stopped cohort belongs to the trailing copy of twin groves. -/
def State.imgTrailing (s : State) (st : Stopped) : Bool :=
  st.cohort.lanes.any fun x => ((s.strands.find? x.2.strand).bind fun t => s.groves.find? t.grove).elim false Grove.trailing
/-- A trap of the same copy of a launch is in delivery, from its frame's write to its restore (R376), or waits for it (R374, R458). -/
def State.trapAhead (s : State) (la : Launch) (trailing : Bool) : Bool :=
  la.frames.any (fun f => f.trailing == trailing && !f.restored) || la.waiting.any fun st => s.imgTrailing st == trailing
/-- Stop a cohort for a precise fault of the lanes listed (R371, R372): with a trap handler its image joins those waiting for the frame (R374), its slot kept for its handler (R375), or in the caldera if the frame is taken (R404); without one the launch is terminated; a fault of a trap handler terminates too (R378). -/
def State.trap (s : State) (core sl : Nat) (pc : Pc) (faults : NMap Flt) (sev : Nat) : State :=
  match s.cohort? core sl, faults with
  | some co, (_, f) :: _ =>
    let la := s.launches.find? co.launch
    if la.elim false (fun la => la.isStaged) && restages f.code then s.restage co.launch f.code
    else if co.kind == .trap then
      s.terminate co.launch { (s.cohortRec core co pc faults 1 3) with flt := { f with code := 0x5008, d0 := f.code, d1 := 0 } }
    else if la.elim true fun la => la.pkt.trapEnt == 0 then s.terminate co.launch (s.cohortRec core co pc faults 1 3)
    else if co.lostReg.isSome && !(f.code == 0x1006 && f.akind == 6) then s.stateLost core co.launch 5 (co.lostReg.getD 0)
    else
      let st := { co with single := none, birthFault := none }.stop s.tick core faults sev pc f.code
      let ahead := la.elim false fun la => s.trapAhead la (s.imgTrailing st)
      let part := s.launchPart co.launch
      if ahead && !s.calRoom part (s.imageRoom st) then
        s.freeze core part ((co.lanes.head?.map fun x => x.2.strand).getD 0) pc
      else
      let s := s.modCore core fun k => k.vacate sl
      let s := if ahead then s else s.modCore core fun k => { k with kept := k.kept.put sl (co.launch, co.kind == .handler, co.allot, co.gen) }
      let s := s.modLaunch co.launch fun la => { la with waiting := la.waiting ++ [st] }
      match co.single with
      | none => s
      | some _ => s.modPart (la.elim 0 fun la => la.part) fun q => { q with dbgsts := putFld (putFld q.dbgsts 63 32 1) 3 0 2 }
  | _, _ => s

/-- The size of the payload a tag calls for (R73). -/
def tagSize (tag : Nat) : Nat := if tag == 0 then 128 else if tag == 1 then 4 else 8
/-- Read the registers of an image from its tag and payload areas (R73). -/
def parseRegs (bs : List Byte) (tagOff : Nat) : Nat → Nat → Nat → NMap Reg
  | 0, _, _ => []
  | k + 1, n, pay =>
    let tag := (bs.getD (tagOff + n / 4) 0).toNat / 4 ^ (n % 4) % 4
    let r : Reg :=
      if tag == 0 then .general ((List.range 32).map fun l => BitVec.ofNat 32 (getLe bs (pay + 4 * l) 4))
      else if tag == 1 then .uniform (BitVec.ofNat 32 (getLe bs pay 4))
      else .affine (BitVec.ofNat 32 (getLe bs pay 4)) (BitVec.ofNat 32 (getLe bs (pay + 4) 4))
    (n, r) :: parseRegs bs tagOff k (n + 1) (pay + tagSize tag)
/-- The bytes of an image before its payload: header, handler extensions, tag area (R73). -/
def Cohort.imageTop (co : Cohort) : Nat := 512 + (if co.kind == .handler then 1024 else 0) + roundUp (co.allot / 4) 32
/-- The tags in an image's tag area (R73). -/
def Cohort.imageTags (co : Cohort) (bs : List Byte) : List Nat :=
  (List.range co.allot).map fun n => (bs.getD (512 + (if co.kind == .handler then 1024 else 0) + n / 4) 0).toNat / 4 ^ (n % 4) % 4
/-- The size that an image's contents call for (R75). -/
def Cohort.imageSize (co : Cohort) (bs : List Byte) : Nat :=
  co.imageTop + roundUp ((co.imageTags bs).foldl (fun a t => a + tagSize t) 0) 32
/-- The refusals of R75 with the offset of the first field refused (R389), in ascending offset. -/
def imageRefused (st : Stopped) (bs : List Byte) : Option (Nat × Nat) :=
  let co := st.cohort
  let present := getLe bs 0x1DC 4
  let tags := co.imageTags bs
  match (List.range 32).find? fun l => getLe bs (0x100 + 4 * l) 4 / 2 ^ 30 != 0 with
  | some l => some (2, 0x100 + 4 * l)
  | none =>
    if present / 2 ^ co.nlanes != 0 || (bitsSet 32 present).any (fun l => !(co.present.contains l)) then some (4, 0x1DC)
    else if getLe bs 0x1E4 1 / 8 != 0 then some (2, 0x1E4)
    else if getLe bs 0x1E6 2 != 1 then some (3, 0x1E6)
    else if getLe bs 0x1EC 4 != 0 then some (2, 0x1EC)
    else if !(tags.contains 3) && getLe bs 0x1F0 8 != co.imageSize bs then some (5, 0x1F0)
    else if getLe bs 0x1F8 8 != 0 then some (2, 0x1F8)
    else
      let ext := if co.kind == .handler then (List.range 32).flatMap fun l => [(0x20E + 32 * l, 2), (0x218 + 32 * l, 8)] else []
      match ext.find? fun x => getLe bs x.1 x.2 != 0 with
      | some x => some (2, x.1)
      | none => (tags.findIdx? (· == 3)).map fun n => (1, co.imageTop - roundUp (co.allot / 4) 32 + n / 4)
/-- The stopped cohort that an edited image describes (R75): lanes whose PRESENT bit was cleared are given apart. -/
def imageCohort (st : Stopped) (bs : List Byte) : Cohort × List Nat :=
  let co := st.cohort
  let present := getLe bs 0x1DC 4
  let ext := if co.kind == .handler then 1024 else 0
  let tagOff := 512 + ext
  let lanes := co.lanes.map fun x =>
    (x.1, { x.2 with
      pc := BitVec.ofNat 48 (getLe bs (8 * x.1) 6)
      repc := getLe bs (0x180 + x.1) 1
      poison := []
      preds := BitVec.ofNat 16 (2 * maskOf ((List.range 15).filter fun p => bitN (getLe bs (0x1A0 + 4 * p) 4) x.1)) })
  let kept := lanes.filter fun x => bitN present x.1
  ({ co with lanes := kept, regs := parseRegs bs tagOff co.allot 0 (tagOff + roundUp (co.allot / 4) 32) },
    (lanes.filter fun x => !bitN present x.1).map fun x => x.2.strand)
/-- The image as edited (R385, R399): the stopped cohort it describes and the strands it ends, or why it is refused. -/
def Stopped.edited (st : Stopped) : Except Nat (Stopped × List Nat) :=
  if st.edit.isEmpty then .ok (st, [])
  else
    match imageRefused st st.edit with
    | some (reason, _) => .error reason
    | none =>
      let (co, ended) := imageCohort st st.edit
      .ok ({ st with cohort := co }, ended)
/-- GSLOT and STRAND of an edited image give each lane's strand its grove and index again (R74). -/
def State.imageIdentity (s : State) (core : Nat) (co : Cohort) (bs : List Byte) : State :=
  co.lanes.foldl (fun s x =>
    let g := (s.core core).groves.find? (getLe bs (8 * x.1 + 7) 1 / 4)
    s.modStrand x.2.strand fun t => { t with index := getLe bs (8 * x.1 + 6) 2 % 1024, grove := g.getD t.grove }) s
/-- The lowest free cohort slot (R40): none that is kept for a trap's handler (R375). -/
def Core.freeSlot (k : Core) : Option Nat := (List.range 96).find? fun i => (k.slots.find? i).isNone && (k.kept.find? i).isNone
/-- The slot kept for the handler of a faulting cohort's trap (R375). -/
def Core.keptFor (k : Core) (co : Cohort) : Option Nat := (List.find? (fun (x : Nat × Nat × Bool × Nat × Nat) => x.2.1 == co.launch && x.2.2.2.2 == co.gen) k.kept).map Prod.fst
/-- A slot is kept no more. -/
def Core.release (k : Core) (sl : Option Nat) : Core := sl.elim k fun i => { k with kept := k.kept.del i }
/-- Count a generation-wrap sweep of a core in every partition with a grove there (R401, R410). -/
def State.countWrap (s : State) (core : Nat) : State :=
  let parts := ((s.core core).groves.vals.filterMap fun g => (s.groves.find? g).bind fun g => (s.launches.find? g.launch).map fun la => la.part).eraseDups
  parts.foldl (fun s p => s.modPart p fun q => { q with xstat := putFld q.xstat 31 16 (min 0xFFFF (fld q.xstat 31 16 + 1)) }) s
/-- Start the register sweep when no generation is left (R66, R410). -/
def State.needSweep (s : State) (core : Nat) : State :=
  if (s.core core).regSweep then s else (s.countWrap core).modCore core fun k => { k with regSweep := true }
/-! The room a core has (R52, R313 to R315) -/

/-- The slots and registers a launch uses or reserves on a core (R52, R314), those kept for trap handlers among them (R375), with dh more handler cohorts, and the charge of dg more groves (R315). -/
def State.useL (s : State) (core launch dh dg : Nat) : Nat × Nat :=
  let hallot := (s.launches.find? launch).elim 0 fun la => la.pkt.hallot
  let cs := (s.core core).slots.vals.filter fun c => c.launch == launch
  let kept := (s.core core).kept.vals.filter fun x => x.1 == launch
  let st := (cs.filter fun c => c.kind != .handler).map (fun c => c.allot) ++ (kept.filter fun x => !x.2.1).map fun x => x.2.2.1
  let h := (cs.filter fun c => c.kind == .handler).length + (kept.filter fun x => x.2.1).length + dh
  let g := ((s.core core).groves.vals.filter fun g => (s.groves.find? g).elim false fun g => g.launch == launch).length
  (st.length + max h g + dg, st.foldl (· + ·) 0 + (max h g + dg) * hallot)
/-- The launches that have a cohort or a grove on a core. -/
def State.launchesOn (s : State) (core : Nat) : List Nat :=
  ((s.core core).slots.vals.map (fun c => c.launch) ++ (s.core core).kept.vals.map Prod.fst ++ ((s.core core).groves.vals.filterMap fun g => (s.groves.find? g).map fun g => g.launch)).eraseDups
/-- The slots and registers in use on a core by the launches of a partition, or by all, with more handlers and groves of one launch. -/
def State.useOn (s : State) (core : Nat) (p : Option Nat) (launch dh dg : Nat) : Nat × Nat :=
  let mine := fun (l : Nat) => p.elim true fun p => (s.launches.find? l).elim false fun la => la.part == p
  ((launch :: s.launchesOn core).eraseDups.filter mine).foldl (fun a l =>
    let u := s.useL core l (if l = launch then dh else 0) (if l = launch then dg else 0)
    (a.1 + u.1, a.2 + u.2)) (0, 0)
/-- A use with one more cohort stays within slots and registers: a handler cohort is counted in the use already. -/
def useWithin (hx : Bool) (allot : Nat) (u : Nat × Nat) (slots regs : Nat) : Bool :=
  if hx then decide (u.1 ≤ slots ∧ u.2 ≤ regs) else decide (u.1 + 1 ≤ slots ∧ u.2 + allot ≤ regs)
/-- A cohort of a launch fits within a core's slots and registers (R40, R52). -/
def State.coreFits (s : State) (core launch : Nat) (hx : Bool) (allot : Nat) : Bool := useWithin hx allot (s.useOn core none launch hx.toNat 0) 96 4096
/-- A cohort of a launch fits within its partition's quota on a core (R40, R314). -/
def State.quotaFits (s : State) (core launch : Nat) (hx : Bool) (allot : Nat) : Bool :=
  useWithin hx allot (s.useOn core (some (s.launchPart launch)) launch hx.toNat 0) (fld (s.part (s.launchPart launch)).pq0 54 48) (fld (s.part (s.launchPart launch)).pq0 41 29)
/-- A cohort of a launch fits on a core: a stage cohort outside the reserve, a handler cohort also inside it, within the core and the partition's quota (R40, R52). -/
def State.cohortFits (s : State) (core launch : Nat) (hx : Bool) (allot : Nat) : Bool :=
  s.coreFits core launch hx allot && s.quotaFits core launch hx allot
/-- An image can take its place: nothing is owed to it any more, and its groves are placed and stay so (R371, R385). -/
def State.seatable (s : State) (st : Stopped) : Bool := st.cohort.lanes.all fun x => (s.owed x.2.strand).isEmpty && s.stays x.2.strand
/-- There is a place for an image now: room within its quota, a free slot, a generation, its groves. -/
def State.seats (s : State) (st : Stopped) : Bool :=
  let k := s.core st.core
  s.cohortFits st.core st.cohort.launch (st.cohort.kind == .handler) st.cohort.allot && s.seatable st && k.freeSlot.isSome && k.nextGen.isSome && !k.regSweep
/-- Put a stopped cohort back as a unit, under a new generation (R75); without room within its quota, a free slot, a generation or its groves it waits among the images to be restored (R52, R385). -/
def State.resume (s : State) (st : Stopped) : State :=
  let k := s.core st.core
  let part := (s.launches.find? st.cohort.launch).elim 0 fun la => la.part
  let wait := fun (s : State) => s.modPart part fun q => { q with rotated := q.rotated ++ [st] }
  if st.cohort.lanes.isEmpty then s
  else
    match (if s.cohortFits st.core st.cohort.launch (st.cohort.kind == .handler) st.cohort.allot && s.seatable st then k.freeSlot else none), k.nextGen, k.regSweep with
    | some sl, some gen, false =>
      let regs := (List.range st.cohort.allot).map fun n => (n, st.cohort.saved n)
      let co := { st.cohort with gen := gen, regs := regs, rslots := k.regSlots st.cohort.allot, age := s.stepN, readyTick := s.cyc, segTick := s.tick, born := s.tick, boosted := false, wdogSeen := false }
      s.modCore st.core fun k => { k with slots := k.slots.put sl co, gen := gen + 1 }
    | _, none, _ => (wait s).needSweep st.core
    | _, _, _ => wait s
/-- The frames of a launch whose handlers have all ended are free; an image no TRET restored ends with them (R377). -/
def State.closeFrames (s : State) (launch : Nat) : State :=
  match s.launches.find? launch with
  | none => s
  | some la =>
    let dead := fun (f : Frame) => f.due.isNone && f.strands.all fun t => (s.strands.find? t).isNone
    let gone := la.frames.filter dead
    let s := s.modLaunch launch fun la => { la with frames := la.frames.filter fun f => !dead f }
    (gone.filter fun f => !f.restored).foldl (fun s f => f.img.cohort.lanes.foldl (fun s x => s.endStrand x.2.strand) s) s
/-- The VA of the frame of a launch's copy (R373, R458). -/
def Launch.frameVa (la : Launch) (trailing : Bool) : Nat := la.pkt.trapSave + if trailing then 0x11000 else 0
/-- What is in flight and happens before the next action of a strand (R155): its own accesses, and those it inherited. -/
def State.before (s : State) (strand : Nat) : List Nat :=
  (s.ops.filter fun o => o.of strand).map MemOp.id ++ ((s.strands.find? strand).elim [] fun t => t.befAll.filter s.flying)
/-- Deliver a waiting image (R373, R375): write the frame, then form the handler cohort, in the slot that the faulting cohort freed, one strand for each lane. An image that had to wait for its turn gave its slot up: its handler takes the lowest free one (DEDUCED, log 41). No cohort forms during a register sweep (R410). -/
def State.deliver (s : State) (launch : Nat) (st : Stopped) : State :=
  match s.launches.find? launch with
  | none => s
  | some la =>
    let trailing := s.imgTrailing st
    let va := la.frameVa trailing
    let rec_ := s.cohortRec st.core st.cohort st.pc st.faults 1 st.sev
    let codes := (List.range 32).flatMap fun l => leBytes 2 ((st.faults.find? l).elim 0 fun f => f.code)
    let addrs := (List.range 32).flatMap fun l => leBytes 8 ((st.faults.find? l).elim 0 fun f => f.addr)
    let img := s.imageBytes st
    let bs := rec_.bytes st.tick 0 false ++ codes ++ addrs ++ List.replicate 128 0 ++ img
    s.whenFree (s.vaHeld st.core la.part la.part (lineFuel bs.length) va bs.length) fun s =>
    match s.vaWrite st.core la.part la.part (lineFuel bs.length) va bs with
    | (s, some f) => s.terminate launch { rec_ with sev := 3, flt := { rec_.flt with code := 0x5009, d0 := rec_.flt.code, d1 := f.code } }
    | (s, none) =>
      let kept := (s.core st.core).keptFor st.cohort
      let t := s.modCore st.core fun k => k.release kept
      match (if t.cohortFits st.core launch false st.cohort.allot then kept.orElse fun _ => (s.core st.core).freeSlot else none), (s.core st.core).nextGen with
      | some sl, some gen =>
        if (s.core st.core).regSweep then s
        else
        let s := t
        let co := st.cohort
        let before := (co.lanes.flatMap fun x => s.before x.2.strand).eraseDups
        let entry : Pc := BitVec.ofNat 48 (la.pkt.codeVa + la.pkt.trapEnt)
        let owner := fun (l : Nat) => ((co.lanes.find? l).orElse fun _ => co.lanes.head?.map Prod.snd).bind fun x => s.strands.find? x.strand
        let ids := (List.range co.nlanes).map (s.seq + ·)
        let strands : NMap Strand := (List.range co.nlanes).map fun l =>
          (s.seq + l, ({
            launch := launch, grove := ((owner l).elim 0 fun t => t.grove), stage := co.stage, index := l, burst := none, out := [],
            befStore := [], befAll := before, core := st.core, path := ((owner l).elim [] fun t => t.path), nOrd := 0, nSpawn := 0, nBread := 0,
            sig := 0, nStores := 0 }))
        let lanes : NMap Lane := (List.range co.nlanes).map fun l => (l, { strand := s.seq + l, pc := entry, preds := 0, repc := 0, poison := [], met := none })
        let h : Cohort := { co with kind := .trap, gen := gen, lanes := lanes, regs := [], rslots := (s.core st.core).regSlots co.allot, age := s.stepN, readyTick := s.cyc, segTick := s.tick, born := s.tick, boosted := false, single := none, birthFault := none, wdogSeen := false }
        let s := { s with seq := s.seq + co.nlanes, strands := s.strands ++ strands }
        let s := s.modCore st.core fun k => { k with slots := k.slots.put sl h, gen := gen + 1 }
        s.modLaunch launch fun la => { la with
          waiting := la.waiting.erase st
          frames := la.frames ++ [{ img := st, strands := ids, core := st.core, trailing := trailing, due := none, restored := false }] }
      | _, none => s.needSweep st.core
      | _, _ => s
/-- The frame that a handler strand serves. -/
def Launch.frameOf (la : Launch) (strand : Nat) : Option Frame := la.frames.find? fun f => f.strands.contains strand
/-- Replace a frame of a launch. -/
def State.setFrame (s : State) (launch : Nat) (f : Frame) : State :=
  s.modLaunch launch fun la => { la with frames := la.frames.map fun g => if g.strands = f.strands then f else g }
/-- What the restore of a frame reads (R375, R376): the codes, the image's top, and the registers that its tags name. -/
def State.frameRanges (s : State) (la : Launch) (f : Frame) : List (Nat × Nat × Nat) :=
  let va := la.frameVa f.trailing
  let top := f.img.cohort.imageTop
  [(la.part, va + 0x40, 64), (la.part, va + 0x200, top)] ++
    match s.vaRead f.core la.part la.part (lineFuel 2048) (va + 0x200) top with
    | .ok bs => [(la.part, va + 0x200 + bs.length, f.img.cohort.imageSize bs - bs.length)]
    | .error _ => []
/-- The restore that a TRET asked for (R75, R376, R399): the image is restored if every faulted lane's code is 0; without a place for it, or room in the caldera to wait there, the restore is held and the partition freezes (R404). -/
def State.restoreFrame (s : State) (launch : Nat) (la : Launch) (f : Frame) : State :=
    let va := la.frameVa f.trailing
    let ps := s.awayAll f.core la.part (s.frameRanges la f)
    if !(s.unread ps).isEmpty then (s.setFrame launch { f with due := some [] }).askUnits la.part (s.unread ps) else State.unitsRead (ps := ps) <|
    let rec_ := s.cohortRec f.core f.img.cohort f.img.pc f.img.faults 1 3
    let die := fun (g : Flt) => s.terminate launch { rec_ with flt := g }
    match s.vaRead f.core la.part la.part 3 (va + 0x40) 64 with
    | .error g => die { g with code := 0x500B, akind := 1, d0 := g.code, d1 := 0, gen := 0 }
    | .ok codes =>
      match List.find? (fun x : Nat × Flt => getLe codes (2 * x.1) 2 != 0) f.img.faults with
      | some (l, _) => die { code := 0x500A, akind := 0, addr := 0, gen := 0, d0 := getLe codes (2 * l) 2, d1 := 0 }
      | none =>
        match s.vaRead f.core la.part la.part (lineFuel 2048) (va + 0x200) f.img.cohort.imageTop with
        | .error g => die { g with code := 0x500B, akind := 1, d0 := g.code, d1 := 0, gen := 0 }
        | .ok top =>
          match imageRefused f.img top with
          | some (reason, off) => die { code := 0x0011, akind := 1, addr := va + 0x200, gen := 0, d0 := reason, d1 := off }
          | none =>
            match s.vaRead f.core la.part la.part (lineFuel 65536) (va + 0x200 + top.length) (f.img.cohort.imageSize top - top.length) with
            | .error g => die { g with code := 0x500B, akind := 1, d0 := g.code, d1 := 0, gen := 0 }
            | .ok rest =>
              let bs := top ++ rest
              let (co, ended) := imageCohort f.img bs
              let back := { f.img with cohort := co, faults := [] }
              if !s.seats back && !s.calRoom la.part (s.imageRoom back) then
                (s.setFrame launch { f with due := some [] }).freeze f.core la.part ((co.lanes.head?.map fun x => x.2.strand).getD 0) f.img.pc
              else
              let s := s.imageIdentity f.core co bs
              let s := ended.foldl (fun s t => s.endStrand t) s
              let later := f.strands.flatMap s.before
              let s := co.lanes.foldl (fun s x => s.modStrand x.2.strand fun t => { t with befAll := t.befAll ++ later }) s
              let s := s.setFrame launch { f with due := none, restored := true }
              s.resume back
/-- What the restore of a handler strand's frame waits for: what is in flight and happens before the TRET (R155, R376). -/
def State.returnWaits (s : State) (launch strand : Nat) : List Nat :=
  (((s.launches.find? launch).bind fun la => la.frameOf strand).elim [] fun f => f.strands.flatMap s.before).eraseDups
/-- TRET (R155, R274, R376): the first to execute restores the image, once what was in flight and happens before it is complete. -/
def State.trapReturn (s : State) (launch strand : Nat) (flying : List Nat) : State :=
  match s.launches.find? launch with
  | none => s
  | some la =>
    match la.frameOf strand with
    | none => s
    | some f =>
      if f.restored || f.due.isSome then s else if flying.isEmpty then s.restoreFrame launch la f else s.setFrame launch { f with due := some flying }
/-- The restores asked for whose handlers have nothing in flight any more (R155). -/
def State.settleFrames (s : State) : State :=
  s.launches.foldl (fun s x => x.2.frames.foldl (fun s f =>
    match f.due with
    | some ops => if ops.any s.flying then s else (s.restoreFrame x.1 x.2 f).closeFrames x.1
    | none => s) s) s

/-- The next halt id of a partition (R384): one that no halted image and no image under a step has. -/
def State.newHaltId (s : State) (p : Nat) : Nat :=
  let used := (s.part p).halted.keys ++ (s.cores.flatMap fun k => k.2.slots.vals.filterMap fun c => c.single)
  (((List.range 65535).map fun i => ((s.part p).haltId - 1 + i) % 65535 + 1).find? fun n => !used.contains n).getD 0
/-- Stop a cohort as a debug halt (R384), with the record about lanes of the cohort `who`, some of which may have parked since: the image is kept in the caldera under a halt id and a record is written; without room the cohort is held and the partition freezes (R404). -/
def State.debugHaltAs (s : State) (core sl : Nat) (who : Cohort) (pc : Pc) (lanes : List Nat) (f : Flt) : State :=
  match s.cohort? core sl with
  | none => s
  | some co =>
    let part := (s.launches.find? co.launch).elim 0 fun la => la.part
    let id := co.single.getD (s.newHaltId part)
    let flts : NMap Flt := lanes.map fun l => (l, { f with d1 := id })
    let st := { co with single := none }.stop s.tick core [] 0 pc f.code
    if !s.calRoom part (s.imageRoom st) then s.freeze core part ((co.lanes.head?.map fun x => x.2.strand).getD 0) pc else
    let s := s.log part (s.cohortRec core who pc flts 1 0)
    let s := s.modCore core fun k => k.vacate sl
    if co.lostReg.isSome then s.stateLost core co.launch 5 (co.lostReg.getD 0) else
    s.modPart part fun q => { q with halted := q.halted.put id st, haltId := if co.single.isSome then q.haltId else id % 65535 + 1 }
/-- Stop a cohort as a debug halt (R384). -/
def State.debugHalt (s : State) (core sl : Nat) (pc : Pc) (lanes : List Nat) (f : Flt) : State :=
  match s.cohort? core sl with
  | none => s
  | some co => s.debugHaltAs core sl co pc lanes f

end Sys2Proof.Machine
end

