-- ==== Sys2Proof/Machine/Plan.lean ====
section
/-! DEFINITION. How one instruction is issued: the checks of R181 in their order, the combination of the lanes' outcomes (R392), parking, and the advance of the program counters (R24). -/
namespace Sys2Proof.Machine

/-- What every meaning and a step answer with. -/
abbrev Res := Host.Outcome State Fault Refusal

/-- One issue: the cohort's place, the cohort, the executing set and its PC (R24), the partition and launch. -/
structure Ctx where
  core : Nat
  slot : Nat
  co : Cohort
  xs : List Nat
  pc : Pc
  part : Nat
  strict : Bool
  deriving DecidableEq, Repr

/-- The least of the PCs of the present lanes (R24). -/
def minPc : NMap Lane → Pc
  | [] => 0
  | [(_, x)] => x.pc
  | (_, x) :: t => if x.pc.toNat ≤ (minPc t).toNat then x.pc else minPc t
/-- The lanes at a PC. -/
def lanesAt (pc : Pc) (ls : NMap Lane) : List Nat := (ls.filter fun x => x.2.pc == pc).map Prod.fst
/-- The issue that the cohort of a slot makes next (R24). -/
def State.ctxAt (s : State) (core sl : Nat) : Option Ctx :=
  match s.cohort? core sl with
  | none => none
  | some co =>
    if co.lanes.isEmpty then none
    else
      let la := s.launches.find? co.launch
      some { core := core, slot := sl, co := co, xs := lanesAt (minPc co.lanes) co.lanes, pc := minPc co.lanes,
             part := la.elim 0 fun la => la.part, strict := la.elim false Launch.strict }
/-- The issue of the second issue slot: the lanes that were at the second-lowest PC of the cohort, at that PC (R25). -/
def Ctx.second (x : Ctx) (pc : Pc) (ls : List Nat) : Option Ctx :=
  match ls.filter fun l => (x.co.lanes.find? l).elim false fun y => y.pc == pc with
  | [] => none
  | m => some { x with xs := m, pc := pc }
/-- The issue of the current cohort. -/
def State.ctx (s : State) : Option Ctx :=
  (s.cur.bind fun c => s.ctxAt c.1 c.2).bind fun x => match s.slot1 with
    | none => some x
    | some (pc, ls) => x.second pc ls

/-- The outcome of rows 6 and 7 for a lane (R181, R392): it executes; it parks at the instruction; it parks after it; it faults. -/
inductive Verdict
  | go
  | stay (w : Option WaitEv)
  | leave (w : Option WaitEv)
  | bad (f : Flt)
  deriving DecidableEq, Repr

/-- A global access of a lane as watchpoints see it (R383). -/
structure Access where
  va : Nat
  len : Nat
  reads : Bool
  writes : Bool
  data : Nat
  deriving DecidableEq, Repr

/-- An instruction's checks and effect. `bad` is a context-dependent row 3; `priv` row 4; `regs` every register it names (rows 5 and 6); `over` a further row-5 limit; `srcs` its operand reads (the strict check of R64); `heeds` that row 6 raises what its registers are poisoned with (R263); `cls` the class it counts in (R47); `need` the record-space bytes each executing lane takes (R404); `check` row 7 for a lane of E; `act` the effect for the lanes that execute; `acc` its global accesses. -/
structure Plan where
  g : Guard
  len : Nat
  xop : Nat
  bad : State → Ctx → Option Flt
  priv : State → Ctx → Bool
  regs : List Nat
  misses : State → Ctx → Option Nat
  srcs : List Nat
  heeds : Bool
  cls : Option CClass
  need : Nat
  check : State → Ctx → List Nat → Nat → Verdict
  act : State → Ctx → List Nat → State
  acc : State → Ctx → List Nat → Nat → Option Access

/-- A plan that only fills in what most instructions share: no privilege, no class, no operand-dependent check. -/
def plain (g : Guard) (len xop : Nat) (regs srcs : List Nat) (act : State → Ctx → List Nat → State) : Plan :=
  { g := g, len := len, xop := xop, bad := fun _ _ => none, priv := fun _ _ => false, regs := regs, misses := fun _ _ => none, srcs := srcs,
    heeds := true, cls := none, need := 0, check := fun _ _ _ _ => .go, act := act, acc := fun _ _ _ _ => none }

/-- The guard of a lane (R170). -/
def Guard.holds (g : Guard) (co : Cohort) (l : Nat) : Bool := co.pred g.p l != g.neg
/-- E of R199: the lanes of the executing set whose guard is true. -/
def Ctx.en (x : Ctx) (g : Guard) : List Nat := x.xs.filter (Guard.holds g x.co)
/-- The strand of a lane. -/
def Ctx.strand (x : Ctx) (l : Nat) : Nat := (x.co.lanes.find? l).elim 0 fun y => y.strand
/-- The grove of a lane's strand. -/
def State.groveOf (s : State) (x : Ctx) (l : Nat) : Nat := (s.strands.find? (x.strand l)).elim 0 fun t => t.grove
/-- The registers named that lie at or above the allotment (R57). -/
def overAllot (regs : List Nat) (a : Nat) : Option Nat := (regs.filter fun r => decide (a ≤ r)).min?
/-- The register-range fault (R389). -/
def rangeFault (r a d1 : Nat) : Flt := { code := 0x0003, akind := 6, addr := r, gen := 0, d0 := a, d1 := d1 }
/-- %repc of the lowest lane of the executing set. -/
def Ctx.repc (x : Ctx) : Nat := (x.co.lanes.find? (x.xs.headD 0)).elim 0 fun y => y.repc
/-- Rows 3 to 5 of R181: one outcome for the whole executing set. -/
def Plan.upfront (p : Plan) (s : State) (x : Ctx) : Option Flt :=
  match p.bad s x with
  | some f => some f
  | none =>
    if p.priv s x then some { code := 0x0002, akind := 0, addr := 0, gen := 0, d0 := p.xop, d1 := 0 }
    else
      match p.misses s x with
      | some a => some (rangeFault a a x.repc)
      | none => (overAllot p.regs x.co.allot).map fun r => rangeFault r x.co.allot x.repc
/-- Row 7 of R181 for a lane: the strict generation check (R64), then the instruction's own (R393). DESIGN CHOICE (log 101): of several stale sources the fault names the first in the plan's list, a, c, b for three sources. -/
def Plan.row7 (p : Plan) (s : State) (x : Ctx) (en : List Nat) (l : Nat) : Verdict :=
  match if x.strict then p.srcs.find? x.co.stale else none with
  | some r => .bad { code := 0x0005, akind := 6, addr := r, gen := (s.core x.core).foundGen x.co r, d0 := x.co.gen, d1 := 0 }
  | none => p.check s x en l
/-- Rows 6 and 7 of R181 for a lane. -/
def Plan.verdict (p : Plan) (s : State) (x : Ctx) (en : List Nat) (l : Nat) : Verdict :=
  let t := x.strand l
  match if p.heeds then (x.co.lanes.find? l).bind fun y => List.find? (fun q : Nat × Flt => (if q.2.akind = 6 then p.srcs else p.regs).contains q.1) y.poison else none with
  | some (_, f) => .bad f
  | none =>
    if !(s.pendingFor t p.regs).isEmpty then .stay none
    else
      match p.cls with
      | some c =>
        if ((s.strands.find? t).elim 0 fun t => t.count c) == 63 then .stay (some (.counter c 62)) else p.row7 s x en l
      | none => p.row7 s x en l
/-- The lanes that fail, with their faults (R392). -/
def failing : List (Nat × Verdict) → NMap Flt
  | [] => []
  | (l, .bad f) :: t => (l, f) :: failing t
  | _ :: t => failing t
/-- The lanes that park at the instruction, with what they await. -/
def staying : List (Nat × Verdict) → List (Nat × Option WaitEv)
  | [] => []
  | (l, .stay w) :: t => (l, w) :: staying t
  | _ :: t => staying t
/-- The lanes that execute and park after the instruction, with what they await. -/
def leaving : List (Nat × Verdict) → List (Nat × Option WaitEv)
  | [] => []
  | (l, .leave w) :: t => (l, w) :: leaving t
  | _ :: t => leaving t
/-- The lanes that execute and go on. -/
def going : List (Nat × Verdict) → List Nat
  | [] => []
  | (l, .go) :: t => l :: going t
  | _ :: t => going t
/-- The register at or above the allotment that the fetched park-map entry of a resume PC names (R32, R398). -/
def State.badParkMap (s : State) (x : Ctx) (resume : Pc) : Option Nat :=
  ((s.core x.core).parkmap? x.part resume).bind fun m => overAllot m.regs x.co.allot
/-- Set the PCs of lanes. -/
def State.setPcs (s : State) (x : Ctx) (ls : List Nat) (pc : Pc) : State :=
  s.modCohort x.core x.slot fun co => { co with lanes := co.lanes.map fun y => (y.1, if ls.contains y.1 then { y.2 with pc := pc } else y.2) }
/-- Set the PC of one lane. -/
def State.setPc (s : State) (x : Ctx) (l : Nat) (pc : Pc) : State := s.modCohort x.core x.slot fun co => co.modLane l fun y => { y with pc := pc }
/-- The address after the instruction. -/
def Ctx.after (x : Ctx) (len : Nat) : Pc := x.pc + BitVec.ofNat 48 len

/-- A watchpoint of the core matches an access of a lane (R382, R383). -/
def State.wpMatch (s : State) (x : Ctx) (n : Nat) (a : Access) : Bool :=
  let k := s.core x.core
  let reg := fun (i : Nat) => k.bps.getD (16 + 4 * n + i) 0
  let lo := fld (reg 0) 56 0
  let ctl := reg 1
  fld ctl 0 0 == 1 && k.bpOwner.getD (16 + 4 * n) 99 == x.part && decide (a.va % 2 ^ 57 < lo + fld ctl 39 8 + 1 ∧ lo < a.va % 2 ^ 57 + a.len) &&
    (if fld ctl 3 3 == 1 then a.writes && fld ctl 2 2 == 1 &&
        (let d := if a.len == 16 then (if a.va % 2 ^ 57 + 8 ≤ lo then a.data / 2 ^ 64 else a.data % 2 ^ 64) else a.data
         BitVec.ofNat 64 d &&& reg 3 == reg 2 &&& reg 3)
     else (a.reads && fld ctl 1 1 == 1) || (a.writes && fld ctl 2 2 == 1))
/-- The accesses that a watchpoint matches, and the mask of the watchpoints (R383). -/
def State.watchHits (s : State) (x : Ctx) (accs : List (Nat × Access)) : List (Nat × Access) × Nat :=
  (accs.filter fun a => (List.range 4).any fun n => s.wpMatch x n a.2, maskOf ((List.range 4).filter fun n => accs.any fun b => s.wpMatch x n b.2))
/-- The watchpoint halt after an instruction whose accesses matched (R383, R388). Lanes that parked at it are named in the record; where none is left there is no cohort to stop (DESIGN CHOICE, log 101). -/
def State.watchHalt (s : State) (x : Ctx) (hits : List (Nat × Access) × Nat) : State :=
  match hits.1 with
  | [] => s
  | (_, a) :: _ => s.debugHaltAs x.core x.slot x.co x.pc (hits.1.map Prod.fst) { code := 0x5004, akind := 1, addr := a.va, gen := 0, d0 := hits.2, d1 := 0 }
/-- The end of a debug step: the cohort halts again, or its halt id ends with its lanes (R387); one that trapped has its result already. -/
def State.stepDone (s : State) (x : Ctx) : State :=
  match x.co.single with
  | none => s
  | some id =>
    let result := fun (s : State) (r : Nat) => s.modPart x.part fun q => { q with dbgsts := putFld (putFld q.dbgsts 63 32 r) 3 0 2 }
    match s.cohort? x.core x.slot with
    | some co =>
      if co.single = some id then
        result (s.debugHalt x.core x.slot x.pc x.xs { code := 0x5005, akind := 0, addr := 0, gen := 0, d0 := 0, d1 := 0 }) 0
      else s
    | none =>
      if ((s.part x.part).halted.find? id).isSome then result s 0
      else if fld (s.part x.part).dbgsts 3 0 != 1 then s
      else result s 2
/-- The request that froze a partition has had its turn (R406). -/
def State.firstIssued (s : State) (x : Ctx) : State :=
  match (s.part x.part).first with
  | none => s
  | some t => if (s.part x.part).frozen || t.1 != 0 || !(x.co.lanes.any fun y => y.2.strand == t.2) then s else s.modPart x.part fun q => { q with first := none }
/-- The cohort has issued: its age restarts (R317), and a breakpoint it was resumed from may match again (R381). -/
def State.issued (s : State) (x : Ctx) : State :=
  (s.firstIssued x).modCohort x.core x.slot fun co => { co with
    readyTick := s.cyc, boosted := false,
    lanes := co.lanes.map fun y => (y.1, if x.xs.contains y.1 then { y.2 with met := none } else y.2) }

/-- The next scratchpad generation that no live allocation holds; none when the counter would pass 65,535 (R129, R133). -/
def Core.nextSpGen (k : Core) : Option Nat :=
  ((List.range 257).map (k.spGen + ·)).find? fun g => decide (g ≤ 65535) && !(k.allocs.any fun a => a.gen == g)
/-- Start the wrap sweep of the scratchpads, counted in WRAP (R133, R401, R410). -/
def State.startSpSweep (s : State) (core : Nat) : State :=
  if (s.core core).spSweep then s
  else (s.countWrap core).modCore core fun k => { k with spSweep := true }
/-- The die's coalescing table has an entry for the page (R113). -/
def State.walking (s : State) (core part page : Nat) : Bool := (s.dies.getD (dieOf core) []).any fun e => e.2.part == part && e.2.page == page
/-- What a park at a missing thing starts: a scratchpad sweep that SPALLOC and SPCLEAR await (R133), or, for a translation miss, the die's coalescing entry for the page and its walk (R113). -/
def State.joinWalk (s : State) (core : Nat) (w : Option WaitEv) : State :=
  match w with
  | some .sweepDone => s.startSpSweep core
  | some (.xlat part page _) =>
    let tab := s.dies.getD (dieOf core) []
    if s.walking core part page then s
    else
      match (List.range 512).find? fun i => (tab.find? i).isNone with
      | some i => { s with dies := s.dies.put (dieOf core) (tab.put i { part := part, page := page, pending := false, level := 0, reason := 0, leaf := 0, acc := core }) }
      | none => s
  | _ => s
/-- What a lane that misses both TLBs awaits: the page's translation, or a free entry of a full table (R30, R113). -/
def State.missEv (s : State) (core part va : Nat) : WaitEv :=
  let page := va % 2 ^ 57 / 2 ^ 17
  let tab := s.dies.getD (dieOf core) []
  if s.walking core part page || decide (tab.length < 512) then .xlat part page va else .tableFree
/-- What a parking lane awaits once lower lanes of its instruction have joined their walks: the entry they took may have been the last (R113). -/
def State.missNow (s : State) (core : Nat) (w : Option WaitEv) : Option WaitEv :=
  match w with
  | some (.xlat part _ va) => some (s.missEv core part va)
  | w => w
/-- The lanes hold a register word with an uncorrectable error among those named. -/
def Ctx.lost (x : Ctx) (ls regs : List Nat) : Bool := ls.any fun l => (x.co.lanes.find? l).elim false fun y => y.lost regs
/-- A register word with an uncorrectable error that an instruction overwrites is good again (R420). -/
def State.healRegs (s : State) (x : Ctx) (ls regs : List Nat) : State :=
  if x.lost ls regs then
    s.modCohort x.core x.slot fun co => { co with lanes := co.lanes.map fun y => (y.1, if ls.contains y.1 then { y.2 with poison := y.2.poison.filter fun q => !(regs.contains q.1 && q.2.akind == 6) } else y.2) }
  else s
/-- The bytes of the record of a lane that parks with some registers (R33). -/
def Ctx.recSize (x : Ctx) (n : Nat) : Nat := 32 + (if x.co.kind == .handler then 32 else 0) + roundUp (4 * n) 32
/-- The registers that a park at a PC saves (R32). -/
def State.parkRegs (s : State) (x : Ctx) (pc : Pc) : List Nat := ((s.core x.core).parkmap? x.part pc).elim (List.range x.co.allot) fun m => m.regs
/-- Rows 6 and 7, the effect, the parks and the advance, for lanes already past rows 3 to 5. `next` is the resume PC of a lane that parks after the instruction; `move` advances the lanes that do not park at it, given also those that park after it. -/
def Plan.body (p : Plan) (s : State) (x : Ctx) (next : Pc) (move : State → List Nat → List Nat → State) : State :=
  let en := x.en p.g
  let vs := en.map fun l => (l, p.verdict s x en l)
  match failing vs with
  | (l, f) :: t => s.trap x.core x.slot x.pc ((l, f) :: t) 2
  | [] =>
    let stays := staying vs
    let leaves := leaving vs
    let go := going vs
    let bad := fun (l : Nat) => if stays.any (fun v => v.1 == l) then s.badParkMap x x.pc else if leaves.any (fun v => v.1 == l) then s.badParkMap x next else none
    match x.xs.filterMap fun l => (bad l).map fun r => (l, rangeFault r x.co.allot (x.repc + 2 ^ 32)) with
    | f :: t => s.trap x.core x.slot x.pc (f :: t) 2
    | [] =>
      let parks := stays ++ leaves
      if x.lost (stays.map Prod.fst) (s.parkRegs x x.pc) || x.lost (leaves.map Prod.fst) (s.parkRegs x next) then s.stateLost x.core x.co.launch 5 (x.co.lostReg.getD 0)
      else
      let sizes := (stays.map fun _ => x.recSize (s.parkRegs x x.pc).length) ++ (leaves.map fun _ => x.recSize (s.parkRegs x next).length) ++
        if p.need = 0 then [] else List.replicate go.length p.need
      let waits := parks.map fun v => (x.strand v.1, v.2)
      if !sizes.isEmpty && !s.recRoomWith x.core x.part sizes (s.waitNodes x.core waits + s.watchNodes waits) then
        s.freeze x.core x.part (x.strand ((parks.map Prod.fst ++ go).headD 0)) x.pc
      else
        let moving := x.xs.filter fun l => !(stays.any fun v => v.1 == l)
        let s := move s moving (leaves.map Prod.fst)
        let hits := s.watchHits x <| (x.xs.filter fun l => go.contains l || leaves.any fun v => v.1 == l).filterMap fun l => (p.acc s x en l).map fun a => (l, a)
        let s := (if go.isEmpty then s else p.act s x go).healRegs x go p.regs
        let s := stays.foldl (fun s v => (s.joinWalk x.core (s.missNow x.core v.2)).park x.core x.slot v.1 x.pc x.pc (s.missNow x.core v.2) p.regs 0) s
        let set := s.seq
        let s := leaves.foldl (fun s v => s.park x.core x.slot v.1 x.pc next v.2 [] set) s
        s.watchHalt x hits
/-- Issue an instruction for the executing set: rows 3 to 5, then the body (R181). -/
def Plan.run (p : Plan) (s : State) (x : Ctx) : State :=
  match p.upfront s x with
  | some f => s.trap x.core x.slot x.pc (x.xs.map fun l => (l, f)) 2
  | none => p.body s x (x.after p.len) fun s ls _ => s.setPcs x ls (x.after p.len)
/-- The meaning of an instruction of a plan: it is issued for the current cohort; with no cohort at issue nothing happens. -/
def State.exec (s : State) (p : Plan) : State :=
  match s.ctx with
  | none => s
  | some x => ((p.run s x).issued x).stepDone x

end Sys2Proof.Machine
end

