-- ==== Sys2Proof/Machine/Operands.lean ====
section
/-! DEFINITION. Operand forms (R197 to R199), the shape a result takes (R61), and the builders that most meanings share. -/
namespace Sys2Proof

/-- The registers a 32-bit source names. -/
def Src.regs : Src → List Nat
  | .reg n => [n]
  | .imm _ => []
/-- The registers a 64-bit source names. -/
def Src.regs64 : Src → List Nat
  | .reg n => [n, n + 1]
  | .imm _ => []

end Sys2Proof

namespace Sys2Proof.Machine

/-- The k registers from n upwards. -/
def run (n k : Nat) : List Nat := (List.range k).map (n + ·)
/-- The value of a 32-bit source in a lane (R199). -/
def Cohort.src (co : Cohort) (b : Src) (l : Nat) : Word :=
  match b with
  | .reg n => co.reg n l
  | .imm w => w
/-- The shape of a 32-bit source; an immediate counts as uniform (R61). -/
def Cohort.srcShape (co : Cohort) (b : Src) : Sh :=
  match b with
  | .reg n => co.shape n
  | .imm _ => .uni
/-- The value of a 64-bit source in a lane; an immediate is sign-extended (R198). -/
def Cohort.src64 (co : Cohort) (b : Src) (l : Nat) : DWord :=
  match b with
  | .reg n => co.reg64 n l
  | .imm w => w.signExtend 64
/-- The shapes of a 64-bit source. -/
def Cohort.srcShape64 (co : Cohort) (b : Src) : List Sh :=
  match b with
  | .reg n => [co.shape n, co.shape (n + 1)]
  | .imm _ => []
/-- Row 2 of R61: the sum of an affine and a uniform source. -/
def addShape (a b : Sh) (va vb : Word) : Sh :=
  match a, b with
  | .uni, .uni => .uni
  | .aff x st, .uni => .aff (x + vb) st
  | .uni, .aff x st => .aff (va + x) st
  | _, _ => .gen
/-- Row 3 of R61: the product of an affine and a uniform source. -/
def mulShape (a b : Sh) (va vb : Word) : Sh :=
  match a, b with
  | .uni, .uni => .uni
  | .aff x st, .uni => .aff (x * vb) (st * vb)
  | .uni, .aff x st => .aff (va * x) (va * st)
  | _, _ => .gen

/-- Change the cohort at issue. -/
def State.onCohort (s : State) (x : Ctx) (f : Cohort → Cohort) : State := s.modCohort x.core x.slot f

/-- d := f a, lane by lane. -/
def map1 (g : Guard) (len xop d a : Nat) (f : Word → Word) : Plan :=
  plain g len xop [d, a] [a] fun s x ls => s.onCohort x fun co => co.write d (Sh.all [co.shape a]) ls fun l => f (co.reg a l)
/-- d := f a b, lane by lane, under a shape rule. -/
def map2Sh (g : Guard) (len xop d a : Nat) (b : Src) (sh : Sh → Sh → Word → Word → Sh) (f : Word → Word → Word) : Plan :=
  plain g len xop (d :: a :: b.regs) (a :: b.regs) fun s x ls => s.onCohort x fun co =>
    co.write d (sh (co.shape a) (co.srcShape b) (co.reg a 0) (co.src b 0)) ls fun l => f (co.reg a l) (co.src b l)
/-- d := f a b, lane by lane. -/
def map2 (g : Guard) (len xop d a : Nat) (b : Src) (f : Word → Word → Word) : Plan :=
  map2Sh g len xop d a b (fun p q _ _ => Sh.all [p, q]) f
/-- d := f a b c, lane by lane. -/
def map3 (g : Guard) (len xop d a : Nat) (b : Src) (c : Nat) (f : Word → Word → Word → Word) : Plan :=
  plain g len xop (d :: a :: c :: b.regs) (a :: c :: b.regs) fun s x ls => s.onCohort x fun co =>
    co.write d (Sh.all [co.shape a, co.srcShape b, co.shape c]) ls fun l => f (co.reg a l) (co.src b l) (co.reg c l)
/-- The pair d := f of the lane's operands; both registers take the shape the sources give (R61). -/
def mapPair (g : Guard) (len xop d : Nat) (srcs : List Nat) (shapes : Cohort → List Sh) (f : Cohort → Nat → DWord) : Plan :=
  plain g len xop (d :: (d + 1) :: srcs) srcs fun s x ls => s.onCohort x fun co =>
    co.write64 d (Sh.all (shapes co)) (Sh.all (shapes co)) ls (f co)
/-- pd := f of the lane's operands; p0 discards it (R59). -/
def mapPred (g : Guard) (len xop pd : Nat) (srcs : List Nat) (f : Cohort → Nat → Bool) : Plan :=
  plain g len xop srcs srcs fun s x ls => s.onCohort x fun co => ls.foldl (fun c l => c.setPred pd l (f co l)) co

/-- The X opcode of an instruction (R179), for the records that name it. -/
def opc (o : XOp) : Nat := o.code

end Sys2Proof.Machine
end

