-- ==== Sys2Proof/Machine/Issue.lean ====
section
/-! DEFINITION. The issue of memory operations: addresses (R228), the order among a strand's operations (R143), twin and staged rules at issue (R458 to R462), and the plans that loads, stores and atomics share. -/
namespace Sys2Proof

/-- The bytes of an access size (R227). -/
def Size.bytes : Size → Nat
  | .b32 => 4
  | .b8 => 1
  | .b16 => 2
  | .b64 => 8
  | .b128 => 16
end Sys2Proof

namespace Sys2Proof.Machine

/-- The global address of a lane (R228). -/
def Cohort.gAddr (co : Cohort) (a : Nat) (imm : Word) (l : Nat) : Nat := (co.reg64 a l + imm.signExtend 64).toNat
/-- The scratchpad offset of a lane (R228). -/
def Cohort.sOff (co : Cohort) (a : Nat) (imm : Word) (l : Nat) : Nat := (co.reg a l + imm).toNat
/-- The word 4 × b of an S-form offset (R228). -/
def sImm (b : Nat) : Word := BitVec.ofNat 32 (4 * b)
/-- The bytes of a register, pair or quad of a lane (R227). -/
def Cohort.dataBytes (co : Cohort) (d size l : Nat) : List Byte :=
  leBytes size (leNat ((run d 4).flatMap fun r => leBytes 4 (co.reg r l).toNat))
/-- The 16 bytes of a scratchpad object as a number. -/
def State.spObj (s : State) (core grove off : Nat) : Nat := leNat (s.spRead core grove .a off 16)

/-- The operation writes a location. -/
def MemOp.writes (o : MemOp) : Bool :=
  match o.kind with
  | .store | .atomic _ _ | .cas _ | .ffill | .freset | .renew _ => true
  | .sp op _ => op != .load && op != .stat
  | .load | .fence | .cinv | .tlbinv => false
/-- The operation reads a location or holds what follows as a load does (R143 case 6). -/
def MemOp.reads (o : MemOp) : Bool :=
  match o.kind with
  | .load | .atomic _ _ | .cas _ | .ffill => true
  | .sp op _ => op == .load || op == .stat || op == .ffill || op == .bararr
  | .store | .freset | .fence | .renew _ | .cinv | .tlbinv => false
/-- The bytes of two operations overlap (R143 case 1). -/
def MemOp.overlaps (o p : MemOp) : Bool := decide (o.pa < p.pa + p.size ∧ p.pa < o.pa + o.size)
/-- The access leaves the package: another package's memory, host or peer space. -/
def State.outside (s : State) (pa : Nat) : Bool := !s.isLocal pa && spaceOf pa != 3 && spaceOf pa != 0
/-- The access travels to another package's home on a flow (R162). -/
def State.remote (s : State) (pa : Nat) : Bool := s.outside pa && spaceOf pa == 1
/-- The operation asks another package, or reads the host or a peer (R162, R326): not a held store of a twin copy, nor what a trailing copy has forwarded to it (R458). -/
def State.asks (s : State) (o : MemOp) : Bool :=
  (s.remote o.pa || (o.kind == .load && s.outside o.pa)) && !(s.isTrailing o.grove && o.forwarded) && !(o.kind == .store && (s.sideOf o.grove).isSome)
/-- Two accesses travel on one flow (R162). -/
def State.sameFlow (s : State) (o p : MemOp) : Bool :=
  s.remote o.pa && s.remote p.pa && s.asks o && s.asks p && pkgOf o.pa == pkgOf p.pa && fld o.leaf 8 8 == fld p.leaf 8 8
/-- The update of a completion signal in another package's memory (R304, R415). -/
def MemOp.isSignal (o : MemOp) : Bool := o.kind == .store && o.strand == 0 && o.grove == 0 && o.fields.getD 3 0 == 9
/-- A parked strand's read of a cell of another package (R252, R253): it fills no register. -/
def MemOp.isCell (o : MemOp) : Bool := o.kind == .load && o.strand != 0 && o.ndst == 0
/-- A read of the host that another package serves (R325). -/
def MemOp.isHostRead (o : MemOp) : Bool := o.kind == .load && o.strand == 0 && o.grove == 0 && !o.isUnitRead
/-- A store that the host egress has accepted and whose CXL.cache access is still open (R164): complete but for a .sys release or fence. -/
def MemOp.cxlOpen (o : MemOp) : Bool := o.kind == .store && o.home
/-- The operation is a store to host or peer space (R165). -/
def MemOp.toEgress (o : MemOp) : Bool := o.kind == .store && (spaceOf o.pa == 2 || spaceOf o.pa == 4)
/-- The flow itself keeps an operation behind another (R162): any two on an ordered flow; on an unordered one, two of one strand to one 128-byte line. -/
def State.flowOrders (s : State) (o p : MemOp) : Bool :=
  s.sameFlow o p && (fld o.leaf 8 8 == 1 || (o.pa / 128 == p.pa / 128 && (o.strand :: o.sharers).any p.of))
/-- An operation must be complete before another one is performed (R143 cases 1 and 5, R145, R150, R165, R229): of its strands, what it overlaps, and everything for a release; two of one instruction that overlap; of what its core alone sees yet, what it meets past the L1, and everything for a release. -/
def MemOp.mustPrecede (p o : MemOp) : Bool :=
  let mine := (o.strand :: o.sharers).any p.of && !p.cxlOpen
  let rel := o.ord.isRel
  (mine && (rel || p.overlaps o || (o.toEgress && p.toEgress))) || (p.core == o.core && p.issued == o.issued && p.overlaps o) ||
    (p.early && p.core == o.core && (rel || (p.overlaps o && (o.kind != .load || o.nl1 || (o.ord.isAcq && o.sc != .core)))))
/-- What an operation waits for among those in flight: what must be complete (R143 to R150, R163, R165), and what must only have left before it on its flow (R162), for a release on the ordered flow alone (R163). -/
def State.orderedBefore (s : State) (o : MemOp) : List Nat × List Nat :=
  let must := s.ops.filter fun p => p.mustPrecede o && !(s.flowOrders o p && (!o.ord.isRel || fld o.leaf 8 8 == 1))
  let held := (o.strand :: o.sharers).eraseDups.flatMap fun t =>
    (s.strands.find? t).elim [] fun t => t.befAll ++ (if o.writes || o.ord.isRel then t.befStore else [])
  let pads := if o.isSp then s.ops.filter fun p => p.isSp && p.of o.strand else []
  (((must ++ pads).map MemOp.id ++ held.filter s.flying).eraseDups, (s.ops.filter fun p => s.flowOrders o p).map MemOp.id)

/-- A fresh operation of a lane with the fields every kind has. -/
def State.newOp (s : State) (x : Ctx) (l : Nat) (kind : OpKind) (cls : Option CClass) (va pa : Nat) (leaf : DWord) (size : Nat) : MemOp :=
  { id := s.seq, kind := kind, cls := cls, strand := x.strand l, grove := s.groveOf x l, launch := x.co.launch, core := x.core, va := va, pa := pa,
    leaf := leaf, size := size, sgn := false, data := [], cmp := [], dst := 0, ndst := 0, uni := false, sharers := [], ord := .plain, sc := .core,
    nl1 := false, pc := x.pc, after := [], behind := [], skip := [], sent := false, early := false, home := false, got := [], issued := s.stepN, born := s.tick, resends := 0, fields := [], bad := none }
/-- What a twin strand keeps of an operation it issues: the fold of a store into its signature (R459), the ordinal of a trailing forwarded access (R458). -/
def State.twinNote (s : State) (o : MemOp) : State × MemOp :=
  match s.sideOf o.grove, s.strands.find? o.strand with
  | some (_, trailing), some t =>
    if o.kind == .store then
      (s.modStrand o.strand fun t => { t with sig := crc64 t.sig (leBytes 8 o.va ++ [BitVec.ofNat 8 o.size] ++ o.data), nStores := t.nStores + 1 }, o)
    else if trailing && o.forwarded then (s.modStrand o.strand fun t => { t with nOrd := t.nOrd + 1 }, { o with fields := [t.nOrd] })
    else (s, o)
  | _, _ => (s, o)
/-- The number of a kind of operation in the log of atomics and in messages (R462, log 34). -/
def OpKind.code : OpKind → Nat
  | .atomic op _ => op.code
  | .cas _ => 16
  | .ffill => 17
  | .freset => 18
  | _ => 19
/-- The partition of an operation: its launch's, or the one it carries itself where no launch issued it. -/
def State.opPart (s : State) (o : MemOp) : Nat := (s.launches.find? o.launch).elim (o.fields.getD 2 0) fun la => la.part
/-- The request of an operation: to another package a message with its address, its number with its kind, and its operands (R162, R334, R444); for a load of host or peer space a read of the host port at its bus address (R326). -/
def State.sendRequest (s : State) (o : MemOp) : State :=
  let head := peerAddr o.pa o.size o.leaf ++ leBytes 8 (o.id + o.kind.code * 2 ^ 56)
  let ord := fld o.leaf 8 8
  let part := s.opPart o
  if !s.remote o.pa then s.askHost o.id o.pa o.size
  else match o.kind with
  | .load => s.post (pkgOf o.pa) 0 ord part (if o.isCell then 14 else 4) 0 head
  | .store =>
    if o.isSignal then s.post (pkgOf o.pa) 0 ord part 9 (o.fields.getD 1 0) (peerAddr o.pa 8 o.leaf ++ leBytes 8 o.id ++ o.data) else s.toPeer part o.pa o.leaf o.id o.data
  | .atomic _ _ | .cas _ | .ffill | .freset => s.post (pkgOf o.pa) 0 ord part 5 (o.fields.getD 1 0) (head ++ padTo 16 o.data ++ padTo 16 o.cmp)
  | _ => s
/-- An atomic for another package takes the next OPID of its flow as it is sent (R334); an FRESET, which R444 counts with the stores, takes none. -/
def State.takeOpid (s : State) (o : MemOp) : State × MemOp :=
  match o.kind with
  | .atomic _ _ | .cas _ | .ffill =>
    let (opid, s) := s.nextOpid (txFlow (pkgOf o.pa) 0 (fld o.leaf 8 8))
    (s, { o with fields := [o.fields.headD 0, opid] })
  | _ =>
    if o.isSignal then
      let (opid, s) := s.nextOpid (txFlow (pkgOf o.pa) 0 (fld o.leaf 8 8))
      (s, { o with fields := o.fields.set 1 opid })
    else (s, o)
/-- A store updates the sectors the core's L1 holds and allocates none (R118); a poisoned one, listed with no bytes, stays so (R419). -/
def State.writeThrough (s : State) (core pa : Nat) (bs : List Byte) : State :=
  s.modCore core fun k => { k with l1d := k.l1d.map fun x =>
    (x.1, if x.2.isEmpty then [] else (List.range 32).map fun i => overlay [(localOf pa, bs)] (32 * x.1 + i) (x.2.getD i 0)) }
/-- The core's L1 takes the store before it is performed at its home (R118, R150): a store to local memory that nothing is ordered before, of a grove whose stores are not held back (R458, R467). -/
def State.seenEarly (s : State) (o : MemOp) : Bool :=
  o.kind == .store && o.after.isEmpty && s.isLocal o.pa && (s.sideOf o.grove).isNone && !s.stages o
/-- An operation enters the memory pipeline: the core's L1 may take a store at once, its class counts it (R45), and an acquire holds every later access (R143 case 4). -/
def State.enterOp (s : State) (o : MemOp) : State :=
  let s := if o.early then s.writeThrough o.core o.pa o.data else s
  let s := { s with ops := s.ops ++ [o] }
  (o.strand :: o.sharers).eraseDups.foldl (fun s n => s.modStrand n fun t =>
    let t := match o.cls with
      | some c => t.issue o.id c
      | none => t
    if o.ord.isAcq then { t with befAll := t.befAll ++ [o.id] } else t) s
/-- Issue an operation: it takes its place after what R143 orders before it (R45). -/
def State.issueOp (s : State) (o : MemOp) : State :=
  let (s, o) := s.twinNote o
  let (id, s) := s.fresh
  let (after, behind) := s.orderedBefore o
  let o := { o with id := id, after := after, behind := behind }
  s.enterOp { o with early := s.seenEarly o }
/-- It enters the memory pipeline, behind what its flow keeps before it (R162). -/
def State.pushUnit (s : State) (o : MemOp) : State :=
  { s with seq := s.seq + 1, ops := s.ops ++ [{ o with behind := (s.ops.filter fun p => s.flowOrders o p).map MemOp.id }] }
/-- A store that no strand issues: a sector write of an engine, a held store that is released, a write that waits for the host's snoop response. -/
def State.pushStore (s : State) (grove launch core va pa : Nat) (leaf : DWord) (data : List Byte) (after fields : List Nat) : State :=
  s.pushUnit { s.unitOp .store grove launch core va pa leaf data.length with data := data, after := after, fields := fields }
/-- Every lane's scratchpad access may be performed at its issue: nothing is in flight that it is ordered after (R153, R270). -/
def State.spNow (s : State) (x : Ctx) (ls : List Nat) (release writes : Bool) : Bool :=
  ls.all fun l => (s.spAfter (x.strand l) release writes).isEmpty
/-- A scratchpad access of a lane enters the memory pipeline, behind what it is ordered after and the accesses of lower lanes of its instruction (R29, R153, R229, R254). -/
def State.holdSp (s : State) (x : Ctx) (l : Nat) (op : SpOp) (buf : Buf) (off size : Nat) (data : List Byte) (dst ndst : Nat) (sgn release : Bool) : State :=
  let (id, s) := s.fresh
  let o := s.newOp x l (.sp op buf) none off 0 0 0
  let lower := (s.ops.filter fun p => p.isSp && p.core == o.core && p.issued == o.issued).map MemOp.id
  { s with ops := s.ops ++ [{ o with
      id := id, after := (s.spAfter o.strand release o.writes ++ lower).eraseDups, data := data, dst := dst, ndst := ndst, sgn := sgn, fields := [size] }] }

/-- The checks of a scratchpad access of a lane (R228, R265, R393). -/
def State.sVerdict (s : State) (x : Ctx) (l : Nat) (b : Buf) (off size : Nat) (read : Bool) : Verdict :=
  match s.spCheck x.core (s.groveOf x l) b off size size read with
  | some f => .bad f
  | none => .go
/-- What a scratchpad access that reads meets at the moment it is performed (R245, R249, R397). -/
def State.spRefuses (s : State) (core grove : Nat) (op : SpOp) (b : Buf) (off size : Nat) : Option Flt :=
  match op with
  | .load | .bararr | .ffill | .freset =>
    match s.spCheck core grove b off size size true with
    | some f => some f
    | none =>
      let n := s.spObj core grove off
      if op == .bararr && barBad n then some (barFault off n)
      else if (op == .ffill || op == .freset) && futBad n then some (futFault 4 off n)
      else none
  | .store | .stat | .barinit | .alloc _ _ _ | .free | .clear => none
/-- The slack of a twin pair: stores and bytes the leading copy has made beyond the trailing one (R461). -/
def State.slack (s : State) (lead : Nat) : Nat × Nat :=
  match s.twins.find? lead with
  | none => (0, 0)
  | some w =>
    let open_ := fun (g : Nat) => s.ops.filter fun o => o.grove == g && o.kind == .store
    let bytes := fun (es : List Held) => es.foldl (fun a e => a + e.data.length) 0
    let opB := fun (g : Nat) => (open_ g).foldl (fun a o => a + o.size) 0
    (w.lead.length + (open_ lead).length - (w.follow.length + (open_ w.trail).length),
      bytes w.lead + opB lead - (bytes w.follow + opB w.trail))
/-- A leading strand's store that would take the slack past its limit parks (R461). -/
def State.slackCheck (s : State) (x : Ctx) (en : List Nat) (l size : Nat) : Verdict :=
  match s.sideOf (s.groveOf x l) with
  | some (lead, false) =>
    let lim := (s.part x.part).slack
    let (n, b) := s.slack lead
    let k := (en.filter fun m => decide (m ≤ l)).length
    if lim < n + k || 64 * lim < b + k * size then .stay (some .slack) else .go
  | _ => .go
/-- A strand has a store in flight that its atomic must come after: before a release, an overlap, behind a fence or an acquire (R143). -/
def State.storeAhead (s : State) (strand : Nat) (rel : Bool) (va size : Nat) : Bool :=
  let held := rel || (s.strands.find? strand).elim false fun t => (t.befAll ++ t.befStore).any s.flying
  s.ops.any fun o => o.kind == .store && o.of strand && (held || decide (o.va < va + size ∧ va < o.va + o.size))
/-- A leading strand's atomic arrives at a checkpoint first while the leading half holds a store; a trailing strand waits at its own for the forwarded result (R462). DEDUCED (log 101): so it does where a store that it must follow is still on its way into the half, which a release atomic never passes. -/
def State.atomicCheck (s : State) (x : Ctx) (l : Nat) (rel : Bool) (va size : Nat) : Verdict :=
  match s.sideOf (s.groveOf x l) with
  | some (lead, false) =>
    match s.twins.find? lead with
    | some w => if w.lead.isEmpty && !s.storeAhead (x.strand l) rel va size then .go else .stay (some (.ckpt (w.ckpt + 1)))
    | none => .go
  | some (_, true) =>
    match s.strands.find? (x.strand l) with
    | some t => if (s.fwdFor t t.nOrd).isSome then .go else .stay (some (.fwd t.nOrd))
    | none => .go
  | _ => .go
/-- One check after another. -/
def Verdict.and (v : Verdict) (w : Verdict) : Verdict :=
  match v with
  | .go => w
  | _ => v

/-- The global checks of R393 as an outcome for a lane. -/
def State.gVerdict (s : State) (x : Ctx) (va size : Nat) (kind : Acc) : Verdict :=
  match s.gCheck x.core x.part va size size kind with
  | .ok pa leaf =>
    -- DEDUCED (log 20): a store to a line that fails its integrity tag is refused at issue (R424).
    if kind == .write && s.isLocal pa && s.tagFails leaf pa size then
      .bad { code := 0x1007, akind := 1, addr := va, gen := 0, d0 := fld leaf 63 58, d1 := pa % 2 ^ 52 / 64 }
    else .go
  | .miss => .stay (some (s.missEv x.core x.part va))
  | .bad f => .bad f
/-- Issue a global operation of each lane listed, in ascending order (R229), under the translation its check found. -/
def State.gIssue (s : State) (x : Ctx) (ls : List Nat) (va : Nat → Nat) (size : Nat) (kind : Acc) (mk : State → Nat → Nat → DWord → MemOp) : State :=
  ls.foldl (fun s l =>
    match s.gCheck x.core x.part (va l) size size kind with
    | .ok pa leaf => s.issueOp (mk s l pa leaf)
    | _ => s) s
/-- The access a watchpoint sees (R383). -/
def seen (va : Cohort → Nat → Nat) (len : Nat) (r w : Bool) (data : Cohort → Nat → Nat) : State → Ctx → List Nat → Nat → Option Access :=
  fun _ x _ l => some { va := va x.co l, len := len, reads := r, writes := w, data := data x.co l }

end Sys2Proof.Machine
end

