-- ==== Sys2Proof/Machine/Engine.lean ====
section
/-! DEFINITION. Issue to the bulk, matrix and link engines (R279 to R301, R335): the checks of descriptors and parameter blocks, tags, queues and handles. -/
namespace Sys2Proof.Machine

/-! Tags (R282, R283) -/

/-- The status word of a tag of a grove (R283). -/
def Grove.tagStat (g : Grove) (t : Nat) : DWord := putFld (g.stat.getD t 0) 31 31 (fld g.tags t t)
/-- An operation claims a tag (R282): a new group clears the tag and its error bits. -/
def State.claimTag (s : State) (grove t strand id : Nat) : State :=
  s.modGrove grove fun g =>
    let w := g.stat.getD t 0
    let pend := fld w 30 24
    { g with
      tags := if pend == 0 then putFld g.tags t t 0 else g.tags
      stat := g.stat.put t (putFld (if pend == 0 then 0 else w) 30 24 (pend + 1))
      group := g.group.put t ((if pend == 0 then [] else g.group.getD t []) ++ [(strand, id)]) }
/-- Operations of strands are complete: their counters fall, records that await them go on (R45, R46). -/
def State.completeAll (s : State) (core : Nat) (ops : List (Nat × Nat)) : State :=
  ops.foldl (fun s o => ((s.modStrand o.1 fun t => t.complete o.2).unpend o.1 o.2).fireCounter core o.1) s
/-- The entries of a group's operations are freed at its tag setting (R281, R282, R285). -/
def State.freeEntries (s : State) (core grove : Nat) (ops : List (Nat × Nat)) : State :=
  let ended := fun (i : Nat) (done : Bool) => done && ops.any fun o => o.2 == i
  { (s.modCore core fun k => { k with bulkQ := k.bulkQ.filter fun o => !ended o.id o.done }).modGrove grove fun g =>
      { g with saved := g.saved.map fun v => { v with bulk := v.bulk.filter fun o => !ended o.id o.done } } with
    link := { s.link with colls := s.link.colls.filter fun o => !ended o.id o.done } }
/-- An operation on a tag finishes its work with error bits (R282): the last of the group sets the tag, which completes every operation of the group. -/
def State.finishTag (s : State) (core grove t err : Nat) : State :=
  match s.groves.find? grove with
  | none => s
  | some g =>
    let w := g.stat.getD t 0
    let pend := fld w 30 24
    let w := putFld (w ||| BitVec.ofNat 64 (err % 256)) 30 24 (pend - 1)
    if pend ≤ 1 then
      let ops := g.group.getD t []
      let s := s.modGrove grove fun g => { g with tags := putFld g.tags t t 1, stat := g.stat.put t w, group := g.group.del t }
      ((s.freeEntries core grove ops).completeAll core ops).fireTags core grove
    else s.modGrove grove fun g => { g with stat := g.stat.put t w }

/-! Checks of blocks, in ascending byte offset (R393) -/

/-- The offset of the first field refused. -/
def firstBad : List (Bool × Nat) → Option Nat
  | [] => none
  | (bad, off) :: t => if bad then some off else firstBad t
/-- A range check. -/
def outOf (n lo hi : Nat) : Bool := decide (n < lo ∨ hi < n)
/-- The number of bursts of a BREAD (R284, R285). -/
def burstCount (d : List Byte) : Nat := getLe d 0x14 4 * ((getLe d 0x10 4 + 63) / 64)
/-- The descriptor of BREAD (R284). -/
def breadBad (d : List Byte) : Option Nat :=
  firstBad [(getLe d 0 8 % 8 != 0, 0), (getLe d 8 8 % 8 != 0, 8), (outOf (getLe d 0x10 4) 1 (2 ^ 24), 0x10),
    (outOf (getLe d 0x14 4) 1 (2 ^ 24) || decide (2 ^ 32 - 1 < burstCount d), 0x14), (getLe d 0x18 4 % 4 != 0, 0x18), (getLe d 0x1C 4 != 0, 0x1C)]
/-- The descriptor of BWRITE (R288). -/
def bwriteBad (d : List Byte) : Option Nat :=
  firstBad [(getLe d 0 8 % 32 != 0, 0), (getLe d 8 8 % 32 != 0, 8), (outOf (getLe d 0x10 4) 32 (2 ^ 24) || getLe d 0x10 4 % 32 != 0, 0x10),
    (outOf (getLe d 0x14 4) 1 (2 ^ 24), 0x14), (getLe d 0x18 4 % 32 != 0, 0x18), (getLe d 0x1C 2 != 1 && getLe d 0x1C 2 != 2, 0x1C)]
/-- The descriptor of BCOPY (R288). -/
def bcopyBad (d : List Byte) : Option Nat :=
  let (dst, src, n) := (getLe d 0 8, getLe d 8 8, getLe d 0x10 8)
  firstBad [(dst % 32 != 0, 0), (src % 32 != 0, 8), (outOf n 32 (2 ^ 40) || n % 32 != 0 || decide (dst < src + n ∧ src < dst + n), 0x10), (getLe d 0x18 8 != 0, 0x18)]
/-- The descriptor of BFILL (R288). -/
def bfillBad (d : List Byte) : Option Nat :=
  let n := getLe d 8 8
  firstBad [(getLe d 0 8 % 32 != 0, 0), (outOf n 32 (2 ^ 40) || n % 32 != 0, 8), (getLe d 0x18 8 != 0, 0x18)]
/-- The descriptor of BDIGEST (R288). -/
def bdigestBad (d : List Byte) : Option Nat :=
  firstBad [(outOf (getLe d 8 8) 0 (2 ^ 40), 8), (getLe d 0x10 4 % 64 != 0, 0x10), (getLe d 0x14 4 != 0, 0x14), (getLe d 0x18 8 != 0, 0x18)]
/-- The descriptor of a bulk operation. -/
def BulkKind.bad (k : BulkKind) (d : List Byte) : Option Nat :=
  match k with
  | .read => breadBad d
  | .write => bwriteBad d
  | .copy => bcopyBad d
  | .fill => bfillBad d
  | .digest => bdigestBad d
/-- The least distance between K-rows for a weight format (R291). -/
def wRow (fmt : Nat) : Nat := if fmt == 0 then 256 else if fmt == 3 then 64 else 128
/-- The parameter block of MXLW (R291). -/
def mxlwBad (b : List Byte) : Option Nat :=
  let fmt := getLe b 1 1
  let kpl := getLe b 2 1
  let fl := getLe b 3 1
  firstBad [(decide (1 < getLe b 0 1), 0), (decide (4 < fmt), 1), (if fmt == 4 then outOf kpl 1 8 else kpl != 0, 2),
    (decide (4 ≤ fl) || (bitN fl 0 && fmt != 4) || (bitN fl 1 && outOf fmt 1 3), 3), (getLe b 4 4 % 32 != 0, 4),
    (getLe b 8 4 % 32 != 0 || decide (getLe b 8 4 < wRow fmt), 8), (if bitN fl 1 then getLe b 0xC 4 % 32 != 0 else getLe b 0xC 4 != 0, 0xC),
    ((b.drop 0x10).any (· != 0), 0x10)]
/-- The fields of an MXRUN or MXZERO block below HANDLE (R295). -/
def mxLowBad (zero : Bool) (b : List Byte) : Option Nat :=
  firstBad [(decide ((if zero then 0 else 1) < getLe b 0 1), 0),
    (if zero then getLe b 1 1 != 0 else !([2, 4, 5, 6, 8].contains (getLe b 1 1)), 1),
    (decide ((if zero then 0 else 1) < getLe b 2 1), 2), (getLe b 3 1 != 0, 3), (outOf (getLe b 4 2) 1 256, 4)]
/-- The fields above HANDLE, with R of the handle (R295). -/
def mxHighBad (zero : Bool) (rows : Nat) (b : List Byte) : Option Nat :=
  let asc := getLe b 2 1 == 1
  firstBad [(getLe b 0xA 2 != 0, 0xA), (if zero then getLe b 0xC 4 != 0 else getLe b 0xC 4 % 32 != 0, 0xC),
    (if zero then getLe b 0x10 4 != 0 else getLe b 0x10 4 % 32 != 0, 0x10), (!asc && getLe b 0x14 4 != 0, 0x14), (!asc && getLe b 0x18 4 != 0, 0x18),
    (decide (rows < getLe b 0x1C 4 + getLe b 4 2), 0x1C), ((b.drop 0x20).any (· != 0), 0x20)]
/-- The descriptor fault (R389). -/
def descFault (off xop n : Nat) : Flt := { code := 0x000A, akind := 4, addr := off, gen := 0, d0 := n, d1 := xop }
/-- The matrix-parameter fault (R389). -/
def paramFault (off xop n : Nat) : Flt := { code := 0x000B, akind := 4, addr := off, gen := 0, d0 := n, d1 := xop }
/-- The collective-parameter fault (R389). -/
def collFault (off comm n : Nat) : Flt := { code := 0x000D, akind := 4, addr := off, gen := 0, d0 := n, d1 := comm }
/-- A check that finds the first refused field. -/
def refuse (r : Option Nat) (f : Nat → Flt) : Verdict :=
  match r with
  | some n => .bad (f n)
  | none => .go
/-- The check of a matrix block for a grove (R291, R295): a HANDLE the grove does not hold is refused in its place (DEDUCED, log 29). -/
def State.matVerdict (s : State) (core grove : Nat) (k : MatKind) (xop off : Nat) (b : List Byte) : Verdict :=
  let bad := fun n => paramFault off xop n
  match k with
  | .lw => refuse (mxlwBad b) bad
  | _ =>
    let zero := k == MatKind.zero
    (refuse (mxLowBad zero b) bad).and <|
      match (s.core core).tile grove (getLe b 6 2) with
      | .error r => .bad (handleFault (getLe b 6 2) r)
      | .ok t => refuse (mxHighBad zero t.rows b) bad

/-! Communicators (R335) -/

/-- The entry of a communicator, read by the link engines, master 0x34; one they may not read is all zeros, so not valid (R345, R347, log 94). -/
def State.commEntry (s : State) (n : Nat) : List Byte :=
  let pa := fld s.link.commtbl 51 14 * 2 ^ 14 + 64 * n
  if (s.accessReason 0x34 pa 64 .read 0).isSome then List.replicate 64 0 else s.readAs 0 pa 64
/-- The members of a communicator, ascending by package id: their index is their rank (R336). -/
def State.members (s : State) (n : Nat) : List Nat := bitsSet 256 (leNat ((s.commEntry n).take 32))
/-- A communicator that a partition of this package may use (R300, R335). DESIGN CHOICE (log 92): an entry with a reserved bit set beside PART or V is none that may be used, as one with a byte from 0x22 on that is not 0. -/
def State.commOk (s : State) (part n : Nat) : Bool :=
  let e := s.commEntry n
  fld s.link.commtbl 0 0 == 1 && decide (n < 256) && getLe e 0x20 1 == part && getLe e 0x21 1 == 1 && ((e.take 64).drop 0x22).all (· == 0) && (s.members n).contains s.pkg
/-- The bytes of an element of a collective, MXFP8 without its scale (R300). -/
def collElem (ty : Nat) : Nat := if ty == 0 || ty == 2 then 4 else if ty == 1 then 2 else 1
/-- The parameter block of COLL (R300); ROOT is a member where it names one (DEDUCED, log 29). -/
def State.collBad (s : State) (core part : Nat) (b : List Byte) : Option Nat :=
  let op := getLe b 0 1
  let ty := getLe b 1 1
  let red := getLe b 2 1
  let comm := getLe b 4 4
  let va := getLe b 8 8
  let away := match (s.tlbFind core part va), s.walkVa part va with
    | some e, _ => spaceOf (s.ownPa (e.pa va)) != 0
    | none, .ok e => spaceOf (s.ownPa (e.pa va)) != 0
    | none, .error _ => false
  firstBad [(decide (3 < op), 0), (decide (3 < ty), 1), (decide (2 < red) || (red != 0 && (decide (2 ≤ op) || ty == 3)), 2), (decide (1 < getLe b 3 1), 3),
    (!s.commOk part comm, 4), (va % 32 != 0 || away, 8), (outOf (getLe b 0x10 8) 1 (2 ^ 32) || (ty == 3 && getLe b 0x10 8 % 32 != 0), 0x10),
    (if op == 1 || op == 2 then !((s.members comm).contains (getLe b 0x18 2)) else getLe b 0x18 2 != 0, 0x18), ((b.drop 0x1A).any (· != 0), 0x1A)]

/-! Issue (R279 to R281) -/

/-- The entries of the bulk queue in use: bulk operations and collectives of the core (R281). -/
def State.bulkUsed (s : State) (core : Nat) : Nat := (s.core core).bulkQ.length + (s.link.colls.filter fun c => c.core == core).length
/-- The lowest queue index no operation of the core holds. -/
def Core.freeOp (k : Core) : Nat := ((List.range 64).find? fun i => !(k.bulkQ.any fun o => o.opid == i)).getD 0
/-- The accesses in flight that happen before a bulk operation or a collective of a strand (R145, R155 to R157, R161): its own, those it is held by, and what its core alone sees yet. -/
def State.flyingOf (s : State) (core strand : Nat) : List Nat :=
  (s.spAfter strand true true ++ (s.ops.filter fun o => o.early && o.core == core).map MemOp.id).eraseDups
/-- Count an issued engine operation of a strand (R45). -/
def State.countOp (s : State) (strand id : Nat) (cls : CClass) : State := s.modStrand strand fun t => t.issue id cls
/-- Write pd in one lane. -/
def State.setPd (s : State) (x : Ctx) (pd l : Nat) (v : Bool) : State := s.onCohort x fun co => co.setPred pd l v
/-- Bytes of a strand's A-buffer window under the stores it has in the memory pipeline (R143 case 1, R153). -/
def State.ownStores (s : State) (strand off : Nat) (bs : List Byte) : List Byte :=
  let held := (s.ops.filter fun o => o.strand == strand && o.kind == .sp .store .a).map fun o => (o.va, o.data)
  bs.zipIdx.map fun x => overlay held (off + x.2) x.1
/-- The block of a lane as copied at issue: its bytes in the A-buffer (R280, R281). -/
def State.block (s : State) (x : Ctx) (a size l : Nat) : List Byte :=
  s.ownStores (x.strand l) (x.co.reg a l).toNat (s.spRead x.core (s.groveOf x l) .a (x.co.reg a l).toNat size)
/-- An engine instruction with a block (R281): the scratchpad checks, the block's own, then each lane in turn. -/
def enginePlan (g : Guard) (o : XOp) (pd a size : Nat) (more : List Nat) (cls : CClass) (check : State → Ctx → Nat → Verdict)
    (full : State → Nat → Bool) (put : State → Ctx → Nat → State) : Plan :=
  { plain g 12 (opc o) (a :: more) (a :: more) (fun s x ls => ls.foldl (fun s l =>
      if full s x.core then s.setPd x pd l false else (put s x l).setPd x pd l true) s) with
    cls := some cls
    check := fun s x _ l =>
      match s.spCheck x.core (s.groveOf x l) .a (x.co.reg a l).toNat size size true with
      | some f => .bad f
      | none => check s x l }
/-- A bulk operation of a lane enters the queue (R281, R284, R288). -/
def State.putBulk (s : State) (x : Ctx) (l : Nat) (k : BulkKind) (a tag : Nat) (ctx : DWord) (sc : Scope) : State :=
  let (id, s) := s.fresh
  let t := x.strand l
  let op : BulkOp :=
    { id := id, kind := k, opid := (s.core x.core).freeOp, core := x.core, strand := t, grove := s.groveOf x l, tag := tag, sc := sc,
      desc := s.block x a 32 l, ctx := ctx, ordinal := (s.strands.find? t).elim 0 fun y => y.nBread, pc := x.pc, after := s.flyingOf x.core t, bursts := [],
      stage := x.co.stage, index := (s.strands.find? t).elim 0 fun y => y.index, path := (s.strands.find? t).elim [] fun y => y.path,
      started := false, hold := none, refused := [], stat := 0, fails := 0, first := none, prog := 0, acc := [], got := [], halves := [], done := false }
  let s := ((s.modCore x.core fun c => { c with bulkQ := c.bulkQ ++ [op] }).claimTag op.grove tag t id).countOp t id .bk
  if k = .read then s.modStrand t fun y => { y with nBread := y.nBread + 1 } else s
/-- The five bulk instructions (R280, R281). -/
def bulkPlan (g : Guard) (o : XOp) (k : BulkKind) (pd a : Nat) (more : List Nat) (tag : Nat) (sc : Scope) (ctx : Cohort → Nat → DWord) : Plan :=
  enginePlan g o pd a 32 more .bk
    (fun s x l => refuse (k.bad (s.block x a 32 l)) (descFault (x.co.reg a l).toNat (opc o)))
    (fun s c => decide (64 ≤ s.bulkUsed c))
    (fun s x l => s.putBulk x l k a tag (ctx x.co l) sc)
/-- BREAD (R284). -/
def planBread (g : Guard) (pd a b tag : Nat) : Plan := bulkPlan g .bread .read pd a [b, b + 1] tag .core fun co l => co.reg64 b l
/-- BWRITE (R288). -/
def planBwrite (g : Guard) (pd a tag : Nat) (sc : Scope) : Plan := bulkPlan g .bwrite .write pd a [] tag sc fun _ _ => 0
/-- BCOPY (R288). -/
def planBcopy (g : Guard) (pd a tag : Nat) (sc : Scope) : Plan := bulkPlan g .bcopy .copy pd a [] tag sc fun _ _ => 0
/-- BFILL (R288). -/
def planBfill (g : Guard) (pd a tag : Nat) (sc : Scope) : Plan := bulkPlan g .bfill .fill pd a [] tag sc fun _ _ => 0
/-- BDIGEST (R288). -/
def planBdigest (g : Guard) (pd a tag : Nat) : Plan := bulkPlan g .bdigest .digest pd a [] tag .core fun _ _ => 0
/-- BSTAT (R283). -/
def planBstat (g : Guard) (d : Nat) (a : Src) : Plan :=
  plain g 12 (opc .bstat) (d :: a.regs) a.regs fun s x ls => s.onCohort x fun co => co.write d .gen ls fun l =>
    (s.groves.find? (s.groveOf x l)).elim 0 fun g => (g.tagStat ((x.co.src a l).toNat % 64)).setWidth 32
/-- A matrix operation of a lane enters the queue (R281, R298). -/
def State.putMat (s : State) (x : Ctx) (l : Nat) (k : MatKind) (a : Nat) : State :=
  let (id, s) := s.fresh
  let op : MatOp :=
    { id := id, kind := k, strand := x.strand l, grove := s.groveOf x l, block := s.block x a 64 l, pc := x.pc, after := s.spAfter (x.strand l) false (k != .lw), issued := s.tick, started := none, reported := false }
  ((s.modCore x.core fun c => { c with matQ := c.matQ ++ [op] }).modGrove op.grove fun g => { g with matAt := s.tick }).countOp op.strand id .mx
/-- The three queued matrix instructions (R280, R281). -/
def matPlan (g : Guard) (o : XOp) (k : MatKind) (pd a : Nat) : Plan :=
  enginePlan g o pd a 64 [] .mx
    (fun s x l => s.matVerdict x.core (s.groveOf x l) k (opc o) (x.co.reg a l).toNat (s.block x a 64 l))
    (fun s c => decide (16 ≤ (s.core c).matQ.length))
    (fun s x l => s.putMat x l k a)
/-- MXLW (R291). -/
def planMxlw (g : Guard) (pd a : Nat) : Plan := matPlan g .mxlw .lw pd a
/-- MXRUN (R295). -/
def planMxrun (g : Guard) (pd a : Nat) : Plan := matPlan g .mxrun .run pd a
/-- MXZERO (R295). -/
def planMxzero (g : Guard) (pd a : Nat) : Plan := matPlan g .mxzero .zero pd a
/-- The operation names a handle of a grove. -/
def MatOp.names (o : MatOp) (grove h : Nat) : Bool := o.kind != .lw && o.grove == grove && getLe o.block 6 2 == h
/-- The status word of a handle (R294). -/
def Tile.word (t : Tile) : Nat := t.version % 65536 + t.status % 8 * 65536 + t.released.toNat * 2 ^ 19
/-- A handle of a grove that an instruction names in a[5:0], or the fault (R293). -/
def State.handleVerdict (s : State) (x : Ctx) (l h : Nat) : Verdict :=
  match (s.core x.core).tile (s.groveOf x l) h with
  | .error r => .bad (handleFault h r)
  | .ok _ => .go
/-- MXVER (R293, R294). -/
def planMxver (g : Guard) (d a : Nat) : Plan :=
  let h := fun (x : Ctx) (l : Nat) => (x.co.reg a l).toNat % 64
  { plain g 12 (opc .mxver) [d, a] [a] (fun s x ls => s.onCohort x fun co => co.write d .gen ls fun l =>
      match (s.core x.core).tile (s.groveOf x l) (h x l) with
      | .ok t => BitVec.ofNat 32 t.word
      | .error _ => 0) with
    check := fun s x _ l => s.handleVerdict x l (h x l) }
/-- The lowest grove-local number a grove does not hold; none when all 64 handles of the core are taken (R293). -/
def Core.freeHandle (k : Core) (grove : Nat) : Option Nat :=
  if 64 ≤ k.tiles.length then none else (List.range 64).find? fun n => !(k.tiles.any fun t => t.grove == grove && t.num == n)
/-- MXHND in a lane (R293). -/
def State.newTile (s : State) (core grove coff rows : Nat) : State × Nat :=
  match (s.core core).freeHandle grove with
  | none => (s, 0xFFFFFFFF)
  | some n =>
    (s.modCore core fun k => { k with
      tiles := k.tiles ++ [{ grove := grove, num := n, coff := coff, rows := rows, version := 0, status := 0, released := false }] }, n)
/-- The handles the lanes obtain in ascending order (R293). -/
def State.newTiles (s : State) (x : Ctx) (a b : Nat) : List Nat → State × NMap Nat
  | [] => (s, [])
  | l :: t =>
    let (s, n) := s.newTile x.core (s.groveOf x l) (x.co.reg a l).toNat (x.co.reg b l).toNat
    let (s, m) := State.newTiles s x a b t
    (s, (l, n) :: m)
/-- MXHND (R293): R, then COFF, then one C allocation around the tile. -/
def planMxhnd (g : Guard) (d a b : Nat) : Plan :=
  { plain g 12 (opc .mxhnd) [d, a, b] [a, b] (fun s x ls =>
      let (s, got) := s.newTiles x a b ls
      s.onCohort x fun co => co.write d .gen ls fun l => BitVec.ofNat 32 (got.getD l 0)) with
    check := fun s x _ l =>
      let rows := (x.co.reg b l).toNat
      let coff := (x.co.reg a l).toNat
      if outOf rows 1 256 then .bad (handleFault 0 3)
      else if coff % 512 != 0 then .bad (handleFault 0 4)
      else
        match s.spCheck x.core (s.groveOf x l) .c coff (512 * rows) 512 false with
        | some f => .bad f
        | none => .go }
/-- Release a handle (R293): it stays, released, while a queued operation names it. -/
def State.releaseTile (s : State) (core grove h : Nat) : State :=
  let s := s.modCore core fun k =>
    if k.matQ.any fun o => o.names grove h then
      { k with tiles := k.tiles.map fun t => if t.grove = grove ∧ t.num = h then { t with released := true } else t }
    else { k with tiles := k.tiles.filter fun t => !(t.grove == grove && t.num == h) }
  s.fireTile core grove h
/-- MXREL (R293). -/
def planMxrel (g : Guard) (a : Nat) : Plan :=
  { plain g 12 (opc .mxrel) [a] [a] (fun s x ls => ls.foldl (fun s l => s.releaseTile x.core (s.groveOf x l) ((x.co.reg a l).toNat % 64)) s) with
    check := fun s x _ l => s.handleVerdict x l ((x.co.reg a l).toNat % 64) }
/-- A collective of a lane enters the link engine (R281, R301, R336). On a fenced communicator it finishes at once with COLE (R447). -/
def State.putColl (s : State) (x : Ctx) (l a tag : Nat) : State :=
  let (id, s) := s.fresh
  let t := x.strand l
  let b := s.block x a 64 l
  let comm := getLe b 4 4
  let n := s.link.commCount.getD comm 0
  let grove := s.groveOf x l
  let op : CollOp :=
    { id := id, core := x.core, strand := t, grove := grove, tag := tag, block := b, after := s.flyingOf x.core t, comm := comm, ordinal := n, hops := [],
      since := s.tick, started := false, hold := none, refused := false, pc := x.pc, done := s.link.fenced.contains comm }
  let s := (s.claimTag grove tag t id).countOp t id .cl
  let s := { s with link := { s.link with colls := s.link.colls ++ [op] } }
  if op.done then
    (s.log x.part { (sysRec 2 2 0x3009 0x3000 x.part 0 0 (comm + 256 * 6) n) with launch := x.co.launch }).finishTag x.core grove tag 0x80
  else { s with link := { s.link with commCount := s.link.commCount.put comm (n + 1) } }
/-- COLL (R300); a twin grove raises 0x4004 (R458). -/
def planColl (g : Guard) (pd a tag : Nat) : Plan :=
  let p := enginePlan g .coll pd a 64 [] .cl
    (fun s x l => refuse (s.collBad x.core x.part (s.block x a 64 l)) (collFault (x.co.reg a l).toNat (getLe (s.block x a 64 l) 4 4)))
    (fun s c => decide (64 ≤ s.bulkUsed c))
    (fun s x l => s.putColl x l a tag)
  { p with check := fun s x en l =>
      if (s.sideOf (s.groveOf x l)).isSome then .bad { code := 0x4004, akind := 0, addr := 0, gen := 0, d0 := opc .coll, d1 := 0 } else p.check s x en l }

/-! What each instruction does: its plan, issued for the current cohort -/

/-- BREAD (R284). -/
def execBread (g : Guard) (pd a b tag : Nat) (s : State) : Res := .next (s.exec (planBread g pd a b tag))
/-- BWRITE (R289). -/
def execBwrite (g : Guard) (pd a tag : Nat) (sc : Scope) (s : State) : Res := .next (s.exec (planBwrite g pd a tag sc))
/-- BCOPY (R289). -/
def execBcopy (g : Guard) (pd a tag : Nat) (sc : Scope) (s : State) : Res := .next (s.exec (planBcopy g pd a tag sc))
/-- BFILL (R289). -/
def execBfill (g : Guard) (pd a tag : Nat) (sc : Scope) (s : State) : Res := .next (s.exec (planBfill g pd a tag sc))
/-- BDIGEST (R289). -/
def execBdigest (g : Guard) (pd a tag : Nat) (s : State) : Res := .next (s.exec (planBdigest g pd a tag))
/-- BSTAT (R283). -/
def execBstat (g : Guard) (d : Nat) (a : Src) (s : State) : Res := .next (s.exec (planBstat g d a))
/-- MXLW (R291). -/
def execMxlw (g : Guard) (pd a : Nat) (s : State) : Res := .next (s.exec (planMxlw g pd a))
/-- MXRUN (R295). -/
def execMxrun (g : Guard) (pd a : Nat) (s : State) : Res := .next (s.exec (planMxrun g pd a))
/-- MXZERO (R297). -/
def execMxzero (g : Guard) (pd a : Nat) (s : State) : Res := .next (s.exec (planMxzero g pd a))
/-- MXVER (R293). -/
def execMxver (g : Guard) (d a : Nat) (s : State) : Res := .next (s.exec (planMxver g d a))
/-- MXHND (R293). -/
def execMxhnd (g : Guard) (d a b : Nat) (s : State) : Res := .next (s.exec (planMxhnd g d a b))
/-- MXREL (R293). -/
def execMxrel (g : Guard) (a : Nat) (s : State) : Res := .next (s.exec (planMxrel g a))
/-- COLL (R300). -/
def execColl (g : Guard) (pd a tag : Nat) (s : State) : Res := .next (s.exec (planColl g pd a tag))

end Sys2Proof.Machine
end

