-- ==== Sys2Proof/Machine/Debug.lean ====
section
/-! DEFINITION. The debug command interface (R384 to R387, R399) and forensic reads (R434). -/
namespace Sys2Proof.Machine

/-- A debug command ends: DBGSTS.STATE (2 done, 3 refused) and RESULT (R385). -/
def State.dbg (s : State) (part st result : Nat) : State := s.modPart part fun q => { q with dbgsts := putFld (putFld q.dbgsts 63 32 result) 3 0 st }
/-- A command is done with a result. -/
def State.dbgDone (s : State) (part result : Nat) : State := s.dbg part 2 result
/-- A command is refused. -/
def State.dbgRefuse (s : State) (part result : Nat) : State := s.dbg part 3 result
/-- A debug halt of a cohort with its present lanes (R384, R386). -/
def State.haltSlot (s : State) (core sl code detail : Nat) : State :=
  match s.cohort? core sl with
  | none => s
  | some co => s.debugHalt core sl (minPc co.lanes) co.present { code := code, akind := 0, addr := 0, gen := 0, d0 := detail, d1 := 0 }
/-- The cohort belongs to a held stage of its launch (R386). -/
def State.isHeld (s : State) (co : Cohort) : Bool := (s.launches.find? co.launch).elim false fun la => la.holds co.stage (co.kind == .handler)
/-- Take out of bins and ready queues what is held (R386). -/
def Core.unqueueHeld (k : Core) : Core :=
  k.unqueue fun i => (k.records.find? i).elim true fun r => r.held
/-- Hold the records of a launch's held stages on every core (R386). -/
def State.holdRecords (s : State) (launch : Nat) : State :=
  match s.launches.find? launch with
  | none => s
  | some la =>
    let hold := fun (r : Record) => if r.launch = launch && la.holds r.stage r.hx then { r with held := true } else r
    let onCore := fun (k : Core) => { k with records := k.records.map fun (x : Nat × Record) => (x.1, hold x.2) }
    { s with cores := s.cores.map fun (x : Nat × Core) => (x.1, (onCore x.2).unqueueHeld) }
/-- Halt every running cohort of the held stages (R386); while the partition is frozen no image is written, and they halt as they would issue again (R405). -/
def State.haltHeld (s : State) (launch mask : Nat) : State :=
  if s.frozenL launch then s
  else s.cores.foldl (fun s x => x.2.slots.foldl (fun s y => if y.2.launch == launch && s.isHeld y.2 then s.haltSlot x.1 y.1 0x5007 mask else s) s) s
/-- An image that an eviction has saved is listed as halted (R388): it takes a halt id, and a record is written (R384). -/
def State.haltSaved (s : State) (part grove mask : Nat) (st : Stopped) : State :=
  let id := s.newHaltId part
  let pc := minPc st.cohort.lanes
  let f : Flt := { code := 0x5007, akind := 0, addr := 0, gen := 0, d0 := mask, d1 := id }
  let s := s.log part (s.cohortRec st.core st.cohort pc (st.cohort.present.map fun l => (l, f)) 1 0)
  let s := s.modGrove grove fun g => { g with saved := g.saved.map fun v => { v with images := v.images.erase st } }
  s.modPart part fun q => { q with halted := q.halted.put id { st with pc := pc, code := 0x5007 }, haltId := id % 65535 + 1 }
/-- HALTSTAGE during an eviction takes the images of the held stages that it has saved (R388). -/
def State.haltEvicted (s : State) (part launch mask : Nat) : State :=
  (s.groves.filter fun x => x.2.launch == launch).foldl (fun s x =>
    ((x.2.saved.elim [] fun v => v.images).filter fun st => s.isHeld st.cohort).foldl (fun s st => s.haltSaved part x.1 mask st) s) s
/-- The stages that a HALTSTAGE names are held, with its mask; their burst handlers too where bit 4 says so, now or in an earlier request (R386). -/
def Launch.holdStages (la : Launch) (arg : Nat) : Launch :=
  { la with held := (bitsSet 4 arg).foldl (fun m n => NMap.put m n (arg % 16, bitN arg 4 || (NMap.find? m n).elim false Prod.snd)) la.held }
/-- HALTSTAGE (R386). -/
def State.haltStage (s : State) (part launch arg : Nat) : State :=
  match s.launches.find? launch with
  | none => s.dbgRefuse part 0
  | some la =>
    if la.part != part then s.dbgRefuse part 0
    else ((((s.modLaunch launch fun la => la.holdStages arg).holdRecords launch).haltHeld launch (arg % 16)).haltEvicted part launch (arg % 16)).dbgDone part 0
/-- Restore a halted image and end its halt id (R385): the strands of lanes whose PRESENT bit was cleared end, and a trap whose handlers have all ended with them (R75, R377). A step keeps the id in the cohort (R387). Without room, or while a grove of it is evicted, it waits among the images to be restored. -/
def State.restoreHalted (s : State) (part id : Nat) (st : Stopped) (single : Bool) : State :=
  match st.edited with
  | .error reason => s.dbgRefuse part reason
  | .ok (st', ended) =>
    let s := ended.foldl (fun s t => s.endStrand t) s
    let s := if st.edit.isEmpty then s else s.imageIdentity st.core st'.cohort st.edit
    let s := s.modPart part fun q => { q with halted := q.halted.del id }
    let s := if single then s.dbg part 1 0 else s.dbgDone part 0
    let s := if ended.isEmpty then s else s.closeFrames st.cohort.launch
    s.resume { st' with cohort := { st'.cohort with single := if single then some id else none }, edit := [] }
/-- RELEASE (R385): HELD clears on the stages' records, and their halted images resume. -/
def State.releaseStages (s : State) (part launch arg : Nat) : State :=
  match s.launches.find? launch with
  | none => s.dbgRefuse part 0
  | some la =>
    if la.part != part then s.dbgRefuse part 0
    else
      let s := s.modLaunch launch fun la => { la with held := la.held.filter fun x => !bitN arg x.1 }
      let free := fun (r : Record) => if r.launch = launch && bitN arg r.stage then { r with held := false } else r
      let onCore := fun (k : Core) => { k with records := k.records.map fun (x : Nat × Record) => (x.1, free x.2) }
      let s := { s with cores := s.cores.map fun (x : Nat × Core) => (x.1, onCore x.2) }
      let s := (s.part part).halted.foldl (fun (s : State) (x : Nat × Stopped) =>
        if x.2.cohort.launch == launch && bitN arg x.2.cohort.stage then s.restoreHalted part x.1 x.2 false else s) s
      s.dbgDone part 0
/-- LIST (R385). -/
def State.listHalted (s : State) (part : Nat) : State :=
  let hs := (s.part part).halted.take 512
  let entry := fun (x : Nat × Stopped) =>
    leBytes 8 (x.1 + x.2.cohort.launch * 2 ^ 16 + x.2.cohort.stage * 2 ^ 32 + (x.2.cohort.kind == .handler).toNat * 2 ^ 34 + x.2.code * 2 ^ 48)
  (s.modPart part fun q => { q with dbgdata := padTo 4096 (hs.flatMap entry) }).dbgDone part hs.length
/-- The bytes of a halted image as they stand. -/
def State.haltedBytes (s : State) (st : Stopped) : List Byte := if st.edit.isEmpty then s.imageBytes st else st.edit
/-- Run a command on a halted image of the partition, or refuse it (R385). -/
def State.onHalted (s : State) (part id : Nat) (f : Stopped → State) : State :=
  match (s.part part).halted.find? id with
  | none => s.dbgRefuse part 0
  | some st => f st
/-- Run a command on the bytes of a halted image once it is written: until the results it is owed have landed the command is busy (R371, R384). -/
def State.onImage (s : State) (part op id arg : Nat) (f : Stopped → State) : State :=
  s.onHalted part id fun st => if st.cnts.isNone then (s.dbg part 1 0).modPart part fun q => { q with dbgwait := some (op, id, arg) } else f st
/-- READIMG (R385). -/
def State.readImg (s : State) (part id off : Nat) : State :=
  s.onImage part 4 id off fun st =>
    if off % 4096 != 0 then s.dbgRefuse part 0
    else (s.modPart part fun q => { q with dbgdata := padTo 4096 ((s.haltedBytes st).drop off |>.take 4096) }).dbgDone part 0
/-- A byte of an image that must stay as written (R74): the RO fields and the handler extensions. -/
def imageRO (handler : Bool) (i : Nat) : Bool :=
  decide (0x1E0 ≤ i ∧ i < 0x1F0) || decide (0x1F8 ≤ i ∧ i < 0x200) || (handler && decide (0x200 ≤ i ∧ i < 0x600))
/-- A byte written into an image: RO fields keep theirs; of a CNT word only bits [31:30] change. -/
def imageByte (handler : Bool) (i : Nat) (old new : Byte) : Byte :=
  if imageRO handler i then old
  else if 0x100 ≤ i ∧ i < 0x180 then (if i % 4 = 3 then (new &&& 0xC0) ||| (old &&& 0x3F) else old)
  else new
/-- The length of the longest image of a cohort's allotment and kind (R73). -/
def Cohort.imageMax (co : Cohort) : Nat := co.imageTop + 128 * co.allot
/-- WRITEIMG (R385): the image may grow to the longest its tags can call for. -/
def State.writeImg (s : State) (part id off : Nat) : State :=
  s.onImage part 5 id off fun st =>
    let old := padTo st.cohort.imageMax (s.haltedBytes st)
    let data := (s.part part).dbgdata
    let new := old.zipIdx.map fun x => if off ≤ x.2 ∧ x.2 < off + 4096 then imageByte (st.cohort.kind == .handler) x.2 x.1 (data.getD (x.2 - off) 0) else x.1
    (s.modPart part fun q => { q with halted := q.halted.put id { st with edit := new } }).dbgDone part 0
/-- RESUME and STEP (R385, R387): refused while the image's stage is held. -/
def State.resumeHalted (s : State) (part id : Nat) (single : Bool) : State :=
  s.onHalted part id fun st => if s.isHeld st.cohort then s.dbgRefuse part 0 else s.restoreHalted part id st single
/-- STALEMAP (R384, R385). -/
def State.staleMap (s : State) (part id : Nat) : State :=
  s.onImage part 8 id 0 fun st => (s.modPart part fun q => { q with dbgdata := padTo 4096 (leBytes 64 (maskOf st.stale)) }).dbgDone part 0
/-- Commands that waited for their image run once it is written (R371). -/
def State.settleDebug (s : State) : State :=
  s.parts.foldl (fun s x =>
    match x.2.dbgwait with
    | none => s
    | some (op, id, arg) =>
      if ((s.part x.1).halted.find? id).elim false fun st => st.cnts.isNone then s
      else
        let s := s.modPart x.1 fun q => { q with dbgwait := none }
        if op = 4 then s.readImg x.1 id arg else if op = 5 then s.writeImg x.1 id arg else s.staleMap x.1 id) s
/-- DISCARD (R385): each strand of the image ends. -/
def State.discardHalted (s : State) (part id : Nat) : State :=
  s.onHalted part id fun st =>
    let s := st.cohort.lanes.foldl (fun s x => s.endStrand x.2.strand) s
    ((s.modPart part fun q => { q with halted := q.halted.del id }).closeFrames st.cohort.launch).dbgDone part 0
/-- What READSP returns of a granule: its bytes and its bitmap bit (R385, R434); past the window there is none, zeros and the bit. -/
def State.spGran (s : State) (core key : Nat) (g : Grove) (b : Buf) (raw : Bool) (off : Nat) : List Byte × Bool :=
  let q := s.granNow core b (((g.win b).1 + off) / 32)
  if (g.win b).2 ≤ off then (List.replicate 32 0, true) else match (s.core core).alloc? b key off with
  | some a =>
    if raw then (q.data, q.poison || !ageOk s.T q a.cls) else if q.gen == a.gen then (q.data, false) else (List.replicate 32 0, true)
  | none => if raw then (q.data, q.poison || q.exp) else (List.replicate 32 0, true)
/-- READSP (R385): the request's fields follow one another in DBGDATA (DEDUCED, log 31); ARG bit 0 reads raw bytes under a forensic unlock (R434). -/
def State.readSp (s : State) (part launch arg : Nat) : State :=
  let d := (s.part part).dbgdata
  let (gi, b, off, len) := (getLe d 0 4, getLe d 4 1, getLe d 5 4, getLe d 9 4)
  let raw := bitN arg 0
  match List.find? (fun x : Nat × Grove => x.2.launch == launch && x.2.idx == gi && x.2.placed) s.groves, s.launches.find? launch with
  | some (key, g), some la =>
    let buf := Buf.dec b
    if la.part != part || decide (2 < b) || off % 32 != 0 || len % 32 != 0 || decide (2048 < len) || (raw && !(s.part part).forensic) then
      s.dbgRefuse part 0
    else
      let out := (List.range (len / 32)).map fun i => s.spGran g.core key g buf raw (off + 32 * i)
      let bits := leBytes ((len / 32 + 7) / 8) (maskOf ((out.zipIdx.filter fun x => x.1.2).map Prod.snd))
      (s.modPart part fun q => { q with dbgdata := padTo 4096 (out.flatMap Prod.fst ++ bits) }).dbgDone part 0
  | _, _ => s.dbgRefuse part 0

/-- HALTSTAGE (R386). -/
def execHaltstage (part launch arg : Nat) (s : State) : Res := .next (s.haltStage part launch arg)
/-- RELEASE (R385). -/
def execReleaseStage (part launch arg : Nat) (s : State) : Res := .next (s.releaseStages part launch arg)
/-- LIST (R385). -/
def execListImages (part : Nat) (s : State) : Res := .next (s.listHalted part)
/-- READIMG (R385). -/
def execReadimg (part hid off : Nat) (s : State) : Res := .next (s.readImg part hid off)
/-- WRITEIMG (R385). -/
def execWriteimg (part hid off : Nat) (s : State) : Res := .next (s.writeImg part hid off)
/-- STEP (R387). -/
def execDebugStep (part hid : Nat) (s : State) : Res := .next (s.resumeHalted part hid true)
/-- RESUME (R385). -/
def execResumeImage (part hid : Nat) (s : State) : Res := .next (s.resumeHalted part hid false)
/-- STALEMAP (R385). -/
def execStalemap (part hid : Nat) (s : State) : Res := .next (s.staleMap part hid)
/-- DISCARD (R385). -/
def execDiscardImage (part hid : Nat) (s : State) : Res := .next (s.discardHalted part hid)
/-- READSP (R385). -/
def execReadsp (part launch arg : Nat) (s : State) : Res := .next (s.readSp part launch arg)

end Sys2Proof.Machine
end

