-- ==== Sys2Proof/Machine/Fetch.lean ====
section
/-! DEFINITION. Instruction fetch (R118, R168, R181 row 1, R340, R425) and the code object's tables that the core reads (R189 to R194). -/
namespace Sys2Proof.Machine

/-- What a fetch gives: the words, a translation miss at an address, or the fault of a word. -/
inductive FetchRes
  | ok (ws : List Word)
  | miss (va : Nat)
  | bad (f : Flt)
  deriving DecidableEq, Repr

/-- The fetch fault of R425. -/
def fetchFault (va reason : Nat) : Flt := { code := 0x1005, akind := 1, addr := va, gen := 0, d0 := reason, d1 := 0 }
/-- Fetch one word (R181 row 1): translation, the leaf's X, the exec bit, the access table, then, for a line the L1 does not hold, poison and the integrity tag. -/
def State.fetchWord (s : State) (core part va : Nat) : FetchRes :=
  match s.tlbFind core part va with
  | none => .miss va
  | some e =>
    let pa := s.ownPa (e.pa va)
    if fld e.leaf 57 54 != part then .bad { code := 0x1004, akind := 1, addr := va, gen := 0, d0 := 3, d1 := e.leaf.toNat }
    else if fld e.leaf 5 5 == 0 then .bad (fetchFault va 1)
    else if !s.isLocal pa || !(s.trust.execBits.contains (localOf pa / 2 ^ 17)) then .bad (fetchFault va 2)
    else if (s.accessReason part pa 4 .fetch (fld e.leaf 63 58)).isSome then .bad (fetchFault va 5)
    else
      match (s.core core).l1i.find? (localOf pa / 128) with
      | some line =>
        match (s.core core).l1iBad.find? (localOf pa / 64) with
        | some why => .bad (fetchFault va why)
        | none => .ok [BitVec.ofNat 32 (getLe line (localOf pa % 128) 4)]
      | none =>
        if (s.poisonAt pa 4).isSome then .bad (fetchFault va 3)
        else if s.tagFails e.leaf pa 4 then .bad (fetchFault va 4)
        else .ok [BitVec.ofNat 32 (leNat (s.readAs e.leaf pa 4))]
/-- Why a 64-byte line cannot be fetched (R425): 3 poisoned, 4 its tag fails. -/
def State.codeBad (s : State) (leaf : DWord) (pa : Nat) : Option Nat := if (s.poisonAt pa 64).isSome then some 3 else if s.tagFails leaf pa 64 then some 4 else none
/-- Keep the line of a fetched word in the core's L1 instruction cache (R118). The half filled ahead of issue may be bad: it is marked, and one record says so (R425). -/
def State.fillL1i (s : State) (core part va : Nat) : State :=
  match s.tlbFind core part va with
  | none => s
  | some e =>
    let pa := s.ownPa (e.pa va) / 128 * 128
    let n := localOf pa / 128
    if ((s.core core).l1i.find? n).isSome then s
    else
      let bad := [0, 1].filterMap fun h => (s.codeBad e.leaf (pa + 64 * h)).map fun why => (2 * n + h, why)
      let s := (s.modCore core fun k => { k with l1i := k.l1i.put n (s.readAs e.leaf pa 128), l1iBad := bad.foldl (fun m x => m.put x.1 x.2) ((k.l1iBad.del (2 * n)).del (2 * n + 1)) }).trimL1i core n
      bad.foldl (fun s x => s.logRec (sysRec 3 0 0x100A core part 2 (s.pkg * 2 ^ 41 + 64 * x.1) 0 2)) s
/-- Fetch k words from an address upwards; the first that fails decides. -/
def State.fetchWords (s : State) (core part va : Nat) : Nat → FetchRes
  | 0 => .ok []
  | k + 1 =>
    match s.fetchWord core part (va % 2 ^ 48) with
    | .ok w =>
      match State.fetchWords s core part (va + 4) k with
      | .ok ws => .ok (w ++ ws)
      | r => r
    | r => r
/-- Fetch the words of the instruction at a PC: word 0 gives the length (R168). -/
def State.fetchInstr (s : State) (core part va : Nat) : FetchRes :=
  match s.fetchWord core part va with
  | .ok (w :: _) => s.fetchWords core part va (lenWords w)
  | r => r
/-- The lines of fetched words are kept. -/
def State.keepLines (s : State) (core part va k : Nat) : State := (List.range k).foldl (fun s i => s.fillL1i core part ((va + 4 * i) % 2 ^ 48)) s

/-- A plan whose every lane parks at the instruction for an event (R30). -/
def parkPlan (w : Option WaitEv) : Plan :=
  { plain { p := 0, neg := false } 0 0 [] [] (fun s _ _ => s) with check := fun _ _ _ _ => .stay w }
/-- Every lane of the executing set parks at its PC for an event. -/
def State.parkAll (s : State) (x : Ctx) (w : Option WaitEv) : State := (parkPlan w).body s x x.pc fun s _ _ => s
/-- Every lane of the executing set faults at its PC (R392). -/
def State.trapAll (s : State) (x : Ctx) (f : Flt) (sev : Nat) : State := s.trap x.core x.slot x.pc (x.xs.map fun l => (l, f)) sev
/-- The outcome of a fetch that gave no words: a park on the translation, or the fault. -/
def State.fetchStop (s : State) (x : Ctx) (r : FetchRes) : State :=
  match r with
  | .ok _ => s
  | .miss va => s.parkAll x (some (s.missEv x.core x.part va))
  | .bad f => s.trapAll x f 2

/-- The invalid-instruction fault of words (R390): word 0 and 1, word 2, form, reason. -/
def invalidWords (ws : List Word) (reason : Nat) : Flt :=
  let w := fun (i : Nat) => (ws.getD i 0).toNat
  { code := 0x0001, akind := 0, addr := 0, gen := 0, d0 := w 0 + 2 ^ 32 * w 1, d1 := reason + 256 * formOf (ws.getD 0 0) + 2 ^ 32 * w 2 }
/-- The reason number of a refused encoding; what is too short has no listed opcode. -/
def rejectNumber : Reject → Nat
  | .short => 1
  | .invalid r => r.code

/-! The code object (R189 to R194) -/

/-- The code object of a partition that covers an address (R189). -/
def State.objAt (s : State) (part va : Nat) : Option CodeObj :=
  s.trust.objs.find? fun o => o.part == part && o.accepted && decide (o.va ≤ va ∧ va < o.va + o.len)
/-- Bytes of a code object, read through the partition's tables; nothing where they cannot be read. -/
def State.codeBytes (s : State) (core part va len : Nat) : List Byte :=
  match s.vaRead core part part (lineFuel len) va len with
  | .ok bs => bs
  | .error _ => []
/-- The entries of a table of an object: offset and count from the header, entries of a size (R190). -/
def State.codeTable (s : State) (core : Nat) (o : CodeObj) (field size : Nat) : List (List Byte) :=
  let hdr := s.codeBytes core o.part o.va 128
  let off := getLe hdr field 4
  let bs := s.codeBytes core o.part (o.va + off) (size * getLe hdr (field + 4) 4)
  (List.range (getLe hdr (field + 4) 4)).map fun i => (bs.drop (size * i)).take size
/-- The park-map entry that covers an address (R32, R193), as the core's cache holds it; none when no entry covers it. -/
def State.parkEntry (s : State) (core part va : Nat) : Option ParkMap :=
  (s.objAt part va).bind fun o =>
    ((s.codeTable core o 0x18 80).find? fun e => decide (o.va + getLe e 0 4 ≤ va ∧ va < o.va + getLe e 4 4)).map fun e =>
      { part := part, lo := o.va + getLe e 0 4, hi := o.va + getLe e 4 4, regs := bitsSet 512 (getLe e 16 64) }
/-- The PC is the address of an import stub of the launch's code object (R194, R342). -/
def State.isStub (s : State) (core part codeVa : Nat) (pc : Pc) : Bool :=
  match s.trust.objs.find? fun o => o.part == part && o.accepted && o.va == codeVa with
  | none => false
  | some o => (s.codeTable core o 0x20 16).any fun e => o.va + getLe e 4 4 == pc.toNat

end Sys2Proof.Machine
end

