-- ==== Sys2Proof/Machine/Loader.lean ====
section
/-! DEFINITION. Loading, registering and unloading code objects, and the binding of import stubs (R189 to R196, R337 to R342, R411). -/
namespace Sys2Proof.Machine

/-! The checks of R196 on the bytes of an image -/

/-- The tables of an image (R190): offset, entries, bytes of an entry. -/
def objTables (b : List Byte) : List (Nat × Nat × Nat) :=
  [(0x10, 2, 32), (0x18, 4, 80), (0x20, 4, 16), (0x28, 4, 16), (0x30, 4, 64), (0x38, 4, 1)].map fun f => (getLe b f.1 4, getLe b (f.1 + 4) f.2.1, f.2.2)
/-- The entries of a table of an image, by its place in objTables. -/
def objEntries (b : List Byte) (n : Nat) : List (List Byte) :=
  let t := (objTables b).getD n (0, 0, 1)
  (List.range t.2.1).map fun i => (b.drop (t.1 + t.2.2 * i)).take t.2.2
/-- The sections (R191): kind, offset, size. -/
def objSections (b : List Byte) : List (Nat × Nat × Nat) := (objEntries b 0).map fun e => (getLe e 4 2, getLe e 8 8, getLe e 16 8)
/-- `.text` of an image: offset and size. -/
def objText (b : List Byte) : Nat × Nat := (((objSections b).find? fun x => x.1 == 1).map Prod.snd).getD (0, 0)
/-- A name of the string table (R190). -/
def objName (b : List Byte) (off : Nat) : List Byte := ((b.drop (getLe b 0x38 4 + off)).take 255).takeWhile (· != 0)
/-- A name offset that R196 refuses. -/
def nameBad (b : List Byte) (off : Nat) : Bool :=
  let size := getLe b 0x3C 4
  decide (size ≤ off) || !(((b.drop (getLe b 0x38 4 + off)).take (min 255 (size - off))).contains 0)
/-- All bytes of a range are zero. -/
def zeros (b : List Byte) (off n : Nat) : Bool := ((b.drop off).take n).all (· == 0)
/-- WHY 1 of R196. -/
def headerBad (b : List Byte) : Bool :=
  getLe b 0 4 != 0x014F435A || getLe b 4 2 != 1 || getLe b 0x16 2 != 0 || !zeros b 0x44 60 || outOf3 (getLe b 0x14 2) || getLe b 0x40 4 % 8 != 0 ||
    getLe b 0x40 4 + 520 != getLe b 8 8
where
  /-- SECCNT outside 1 to 3. -/
  outOf3 (n : Nat) : Bool := decide (n < 1 ∨ 3 < n)
/-- WHY 2 of R196. DESIGN CHOICE (log 101): a table with no entries is held to none of the three conditions (alignment, place, overlap), since it takes no byte. -/
def tablesBad (b : List Byte) : Bool :=
  let ts := (objTables b).filter fun t => t.2.1 != 0
  let first := (((objSections b).map fun x => x.2.1).min?).getD 0
  (ts.any fun t => t.1 % 8 != 0 || decide (t.1 < 128) || decide (first < t.1 + t.2.1 * t.2.2)) ||
    (ts.zipIdx.any fun p => ts.zipIdx.any fun q => p.2 != q.2 && decide (p.1.1 < q.1.1 + q.1.2.1 * q.1.2.2 ∧ q.1.1 < p.1.1 + p.1.2.1 * p.1.2.2)) ||
    ((objEntries b 0).any fun e => nameBad b (getLe e 0 4) || !zeros e 6 2 || !zeros e 24 8) ||
    ((objEntries b 1).any fun e => !zeros e 8 8) ||
    ((objEntries b 2).any fun e => nameBad b (getLe e 0 4) || !zeros e 8 8) ||
    ((objEntries b 3).any fun e => nameBad b (getLe e 0 4) || !zeros e 10 6 || decide (getLe e 8 2 < 1 ∨ 4 < getLe e 8 2)) ||
    ((objEntries b 4).any fun e => nameBad b (getLe e 0 4) || !zeros e 5 1 || !zeros e 0x2E 18 || decide (getLe e 4 1 < 1 ∨ 4 < getLe e 4 1))
/-- WHY 3 of R196. -/
def sectionsBad (b : List Byte) : Bool :=
  let ss := objSections b
  let rising := fun (f : Nat × Nat × Nat → Nat) => (ss.zip (ss.drop 1)).all fun p => decide (f p.1 < f p.2)
  !(ss.any fun x => x.1 == 1) || (ss.any fun x => decide (x.1 < 1 ∨ 3 < x.1) || x.2.1 % 0x20000 != 0 || decide (getLe b 0x40 4 < x.2.1 + x.2.2)) ||
    !rising (fun x => x.1) || !rising (fun x => x.2.1) || (ss.zip (ss.drop 1)).any fun p => decide (p.2.2.1 < p.1.2.1 + p.1.2.2)
/-- WHY 4 of R196. -/
def parkmapBad (b : List Byte) : Bool :=
  let es := (objEntries b 1).map fun e => (getLe e 0 4, getLe e 4 4)
  let t := objText b
  (es.any fun e => decide (e.2 ≤ e.1) || decide (e.1 < t.1) || decide (t.1 + t.2 < e.2)) || (es.zip (es.drop 1)).any fun p => decide (p.2.1 < p.1.2)
/-- An offset lies in a section, with room for n bytes. -/
def inSection (sec : Nat × Nat) (off n : Nat) : Bool := decide (sec.1 ≤ off ∧ off + n ≤ sec.1 + sec.2)
/-- WHY 5 of R196. -/
def entriesBad (b : List Byte) : Bool :=
  let t := objText b
  let code := fun (o : Nat) => inSection t o 1 && o % 4 == 0
  let data := (objSections b).filter fun x => x.1 != 1
  let lr := getLe b 0x30 4
  ((objEntries b 4).any fun e => (List.range 4).any fun i =>
      if i < getLe e 4 1 then !code (getLe e (8 + 4 * i) 4) else getLe e (8 + 4 * i) 4 != 0xFFFFFFFF) ||
    ((objEntries b 3).any fun e =>
      let o := getLe e 4 4
      match getLe e 8 2 with
      | 2 => !(data.any fun x => inSection x.2 o 1)
      | 4 => decide (o < lr) || (o - lr) % 64 != 0 || decide (lr + 64 * getLe b 0x34 4 ≤ o)
      | _ => !code o) ||
    ((objEntries b 2).any fun e => !inSection t (getLe e 4 4) 32 || getLe e 4 4 % 4 != 0)
/-- A key of the key store with a KEYID, in an admitted slot, verifies a signature over the bytes covered (R195, R338). -/
def State.sigOk (s : State) (admits : Nat → Bool) (keyid : Nat) (covered sig : List Byte) : Bool :=
  s.trust.keys.any fun k => k.2.keyid == keyid && admits k.1 && rsaPssOk k.2.modulus k.2.exponent covered sig
/-- The signature block of an image or test package fails (R195): ALG, and the signature over the bytes 0 to SIGOFF + 7. -/
def State.blockBad (s : State) (admits : Nat → Bool) (b : List Byte) : Bool :=
  let off := getLe b 0x40 4
  getLe b (off + 4) 4 != 1 || !s.sigOk admits (getLe b off 4) (b.take (off + 8)) ((b.drop (off + 8)).take 512)
/-- The key and signature checks of R195 and R338: 7 an unknown key, 8 a failed signature. -/
def State.sigWhy (s : State) (part : Nat) (b : List Byte) : Option Nat :=
  let admits := fun (i : Nat) => (s.part part).keymask.getLsbD i
  if !(s.trust.keys.any fun k => k.2.keyid == getLe b (getLe b 0x40 4) 4 && admits k.1) then some 7
  else if s.blockBad admits b then some 8
  else none
/-- The lowest WHY of an image's own checks (R196). -/
def State.imageWhy (s : State) (part : Nat) (b : List Byte) : Option Nat :=
  if headerBad b then some 1 else if tablesBad b then some 2 else if sectionsBad b then some 3 else if parkmapBad b then some 4
  else if entriesBad b then some 5 else if getLe b 6 2 != 0 && getLe b 6 2 != 32 then some 6 else s.sigWhy part b
/-- The image of an object as master 0x30 reads it (R339); none where it cannot be read or passes 2^48. -/
def State.readImage (s : State) (part va : Nat) : Option (List Byte) :=
  match s.vaRead noCore part 0x30 4 va 128 with
  | .error _ => none
  | .ok hdr =>
    let size := getLe hdr 8 8
    if 2 ^ 48 < va + size then none
    else
      match s.vaRead noCore part 0x30 (lineFuel size) va size with
      | .ok b => some b
      | .error _ => none
/-- What the loader reads of an image: its header, then its SIZE bytes. -/
def State.imageRanges (s : State) (part va : Nat) : List (Nat × Nat × Nat) :=
  match s.vaRead noCore part 0x30 4 va 128 with
  | .error _ => [(part, va, 128)]
  | .ok hdr => [(part, va, 128)] ++ if 2 ^ 48 < va + getLe hdr 8 8 then [] else [(part, va, getLe hdr 8 8)]
/-- The physical pages of `.text`, when it is mapped as R339 requires. -/
def State.textPages (s : State) (part va : Nat) (b : List Byte) : Option (List Nat) :=
  let t := objText b
  ((List.range ((t.2 + 2 ^ 17 - 1) / 2 ^ 17)).map fun i => va + t.1 + 2 ^ 17 * i).foldr (fun a r =>
    match s.walkVa part a, r with
    | .ok e, some l =>
      if s.isLocal (e.pa a) && fld e.leaf 51 49 == 0 && fld e.leaf 3 3 == 1 && fld e.leaf 5 5 == 1 && fld e.leaf 4 4 == 0 then some (localOf (e.pa a) / 2 ^ 17 :: l) else none
    | _, _ => none) (some [])
/-- Verify an object under R339: its bytes and pages, or WHY. -/
def State.verify (s : State) (part va : Nat) : Except Nat (List Byte × List Nat) :=
  match s.readImage part va with
  | none => .error 9
  | some b =>
    match s.imageWhy part b with
    | some w => .error w
    | none =>
      match s.textPages part va b with
      | some pages => .ok (b, pages)
      | none => .error 9
/-- The object at a VA of a partition. -/
def CodeObj.isAt (o : CodeObj) (part va : Nat) : Bool := o.part == part && o.va == va
/-- The exec bits of the objects at a VA clear (R339, R340). -/
def State.clearExec (s : State) (part va : Nat) : State :=
  let pages := (s.trust.objs.filter fun o => o.isAt part va).flatMap CodeObj.pages
  { s with trust := { s.trust with execBits := s.trust.execBits.filter fun p => !pages.contains p } }
/-- Keep an object in load order; a new entry for a VA replaces what was there, whose exec bits clear (log 95). -/
def State.putObj (s : State) (o : CodeObj) : State :=
  let s := s.clearExec o.part o.va
  { s with trust := { s.trust with
      objs := if s.trust.objs.any (fun q => q.isAt o.part o.va) then s.trust.objs.map fun q => if q.isAt o.part o.va then o else q else s.trust.objs ++ [o]
      execBits := (s.trust.execBits ++ o.pages).eraseDups } }
/-- Accept a verified image (R339, R349): its exec bits are set and its digest, that of R195, joins the partition's measurement chain. -/
def State.accept (s : State) (o : CodeObj) (b : List Byte) (pages : List Nat) : State :=
  (s.putObj { o with accepted := true, refused := false, pages := pages }).modPart o.part fun q =>
    { q with chain := sha512 (q.chain ++ sha512 (b.take (getLe b 0x40 4 + 8))) }
/-- A refused object has no page mapped Exec (R196): what stood at its VA is refused from now on, with its WHY (R411). -/
def State.refuse (s : State) (part va why : Nat) : State :=
  let s := s.clearExec part va
  { s with trust := { s.trust with objs := s.trust.objs.map fun o => if o.isAt part va then { o with accepted := false, refused := true, why := why, pages := [] } else o } }
/-- The VA of a loader request in progress (R337). -/
def State.loadVa (s : State) (part : Nat) : Nat := fld (s.part part).loadsts 47 17 * 2 ^ 17
/-- The request is in progress. -/
def State.loading (s : State) (part : Nat) : Bool := fld (s.part part).loadsts 3 0 == 1
/-- LOADREQ op 0 (R339). -/
def State.loadObj (s : State) (part : Nat) : State :=
  let va := s.loadVa part
  match s.verify part va with
  | .error w => (s.refuse part va w).schedule (.loaderDone part 4 w)
  | .ok (b, pages) =>
    (s.accept { part := part, va := va, len := b.length, accepted := true, refused := false, why := 0, pages := pages, keyid := getLe b (getLe b 0x40 4) 4 } b pages).schedule
      (.loaderDone part 2 0)
/-- LOADREQ op 1 (R339): the header and table checks only; an object that fails them is refused (R196). -/
def State.registerObj (s : State) (part : Nat) : State :=
  let va := s.loadVa part
  match s.readImage part va with
  | none => (s.refuse part va 9).schedule (.loaderDone part 4 9)
  | some b =>
    if headerBad b then (s.refuse part va 1).schedule (.loaderDone part 4 1)
    else if tablesBad b then (s.refuse part va 2).schedule (.loaderDone part 4 2)
    else
      (s.putObj { part := part, va := va, len := b.length, accepted := false, refused := false, why := 0, pages := [], keyid := getLe b (getLe b 0x40 4) 4 }).schedule
        (.loaderDone part 3 0)
/-- LOADREQ op 2 (R339): the exec bits clear and the exports go. -/
def State.unloadObj (s : State) (part : Nat) : State :=
  let va := s.loadVa part
  let s := s.clearExec part va
  { s with trust := { s.trust with objs := s.trust.objs.filter fun o => !o.isAt part va } }.schedule (.loaderDone part 5 0)
/-- LOAD (R339): a request in progress is carried out. -/
def execLoadObject (part : Nat) (s : State) : Res := .next (if s.loading part then s.whenRead noCore 0x30 (s.imageRanges part (s.loadVa part)) (·.loadObj part) else s)
/-- REGISTER_EXPORT (R339). -/
def execRegisterExport (part : Nat) (s : State) : Res := .next (if s.loading part then s.whenRead noCore 0x30 (s.imageRanges part (s.loadVa part)) (·.registerObj part) else s)
/-- UNLOAD (R339). -/
def execUnloadObject (part : Nat) (s : State) : Res := .next (if s.loading part then s.unloadObj part else s)
/-- LOADER_DONE (R337, R327): LOADSTS takes the result and vector 1 is raised. -/
def execLoaderDone (part st why : Nat) (s : State) : Res :=
  .next (if s.loading part then (s.modPart part fun q => { q with loadsts := putFld (putFld q.loadsts 11 4 why) 3 0 st }).msix part 1 else s)
/-- A write to LOADREQ (R337): ignored while busy. -/
def State.loadReq (s : State) (part : Nat) (v : DWord) : State :=
  if s.loading part || fld v 1 0 == 3 then s
  else
    (s.modPart part fun q => { q with loadsts := putFld (putFld 0 47 17 (fld v 47 17)) 3 0 1 }).schedule
      (if fld v 1 0 == 0 then .loadObject part else if fld v 1 0 == 1 then .registerExport part else .unloadObject part)

/-! Binding (R341, R342, R411) -/

/-- A stub as the root of trust reaches it (R341, R345, R347): its local address and leaf, where master 0x30 may read and write it and it can be read. The leaf's W bit does not apply. -/
def State.stubPa (s : State) (part va : Nat) : Option (Nat × DWord) :=
  match s.gWalk noCore part 0x30 va 16 .read with
  | .ok pa leaf =>
    if s.isLocal pa && (s.accessReason 0x30 pa 16 .write (fld leaf 63 58)).isNone && (s.poisonAt pa 16).isNone && !s.tagFails leaf pa 16 then
      some (s.ownPa pa, leaf) else none
  | _ => none
/-- Write TARGET and then STATE and DETAIL of a stub, by physical address and under its leaf's key (R341, R348). -/
def State.setStub (s : State) (stub : Nat × DWord) (target state detail : Nat) : State :=
  (if state = 2 then s.keyedWrite stub.2 stub.1 (leBytes 8 target) else s).keyedWrite stub.2 (stub.1 + 8) (leBytes 4 state ++ leBytes 4 detail)
/-- The name that a stub of an object imports (R194). -/
def State.stubName (s : State) (part obj va : Nat) : Option (List Byte) :=
  (s.readImage part obj).bind fun b => ((objEntries b 2).find? fun e => obj + getLe e 4 4 == va).map fun e => objName b (getLe e 0 4)
/-- The offset of the function an object exports under a name (R342). -/
def exportOf (b : List Byte) (name : List Byte) : Option Nat :=
  ((objEntries b 3).find? fun e => getLe e 8 2 == 1 && objName b (getLe e 0 4) == name).map fun e => getLe e 4 4
/-- The first object, in load order, that exports a name (R342). -/
def State.exporter (s : State) (part : Nat) (name : List Byte) : Option (CodeObj × Nat) :=
  s.trust.objs.findSome? fun o => if o.part != part then none else (s.readImage part o.va).bind fun b => (exportOf b name).map fun off => (o, off)
/-- A stub fails as its exporting object is refused: one record names the object and its WHY (R411). -/
def State.failStub (s : State) (part : Nat) (o : CodeObj) (why : Nat) (stub : Nat × DWord) : State :=
  (s.logRec (sysRec 3 2 0x200F 0x8000 part 1 o.va why 0)).setStub stub 0 3 2
/-- Bind a stub whose STATE is 1 (R342, R411). -/
def State.bindStub (s : State) (part obj va : Nat) (stub : Nat × DWord) : State :=
  match (s.stubName part obj va).bind (s.exporter part) with
  | none => s.setStub stub 0 3 1
  | some (o, off) =>
    if o.accepted then s.setStub stub (o.va + off) 2 0
    else if o.refused then s.failStub part o o.why stub
    else
      match s.verify part o.va with
      | .ok (b, pages) => (s.accept o b pages).setStub stub (o.va + off) 2 0
      | .error w => (s.refuse part o.va w).failStub part o w stub
/-- STUB_BIND (R342): the oldest post; STATE 0 becomes 1, STATE 1 is bound or failed, and any other post is discarded. DESIGN CHOICE (log 101): so is one whose stub the root of trust cannot reach. -/
def execStubBind (s : State) : Res :=
  .next <|
    match s.trust.posts with
    | [] => s
    | (part, obj, va) :: t =>
      match s.stubPa part va with
      | none => { s with trust := { s.trust with posts := t } }
      | some stub => s.whenFree (s.hostHolds stub.1 16) fun s =>
        let drop := { s with trust := { s.trust with posts := t } }
        match getLe (s.readAs stub.2 stub.1 16) 8 4 with
        | 0 => s.setStub stub 0 1 0
        | 1 => s.whenRead noCore 0x30 ((s.trust.objs.filter fun o => o.part == part).flatMap fun o => s.imageRanges part o.va) fun s =>
            { s with trust := { s.trust with posts := t } }.bindStub part obj va stub
        | _ => drop

end Sys2Proof.Machine
end

