-- ==== Sys2Proof/Machine/Translation.lean ====
section
/-! DEFINITION. Page walks, demand faults and their answers (R113, R114, R427, R428), and errors found by the background scrub (R418, R419, R431, R432). -/
namespace Sys2Proof.Machine

/-- The cores of a die (R9). -/
def coresOf (die : Nat) : List Nat := (List.range 160).map (160 * die + ·)
/-- The cores of a die that the state lists. -/
def State.listedOn (s : State) (die : Nat) : List Nat := s.cores.keys.filter fun c => dieOf c == die
/-- The event is the translation of a page. -/
def WaitEv.isXlat (part page : Nat) : WaitEv → Bool
  | .xlat p g _ => p == part && g == page
  | _ => false
/-- The event is the table-free event (R113). -/
def WaitEv.isTableFree : WaitEv → Bool
  | .tableFree => true
  | _ => false
/-- The records of a core that await a page. -/
def State.waitersOf (s : State) (core part page : Nat) : NMap Record := (s.core core).records.filter fun x => x.2.wait.elim false (WaitEv.isXlat part page)
/-- Free a coalescing entry; the table-free event fires (R113). -/
def State.freeEntry (s : State) (die n : Nat) : State :=
  let s := { s with dies := s.dies.put die ((s.dies.getD die []).del n) }
  (s.listedOn die).foldl (fun s c => s.firePlain c WaitEv.isTableFree) s
/-- A successful walk (R113): the TLBs are filled, the event fires, the entry is free. -/
def State.walkDone (s : State) (die n : Nat) (e : Coal) (t : TlbEntry) : State :=
  let cs := (s.listedOn die).filter fun c => c == e.acc || !(s.waitersOf c e.part e.page).isEmpty
  let s := cs.foldl (fun s c => s.tlbFill c t) s
  let s := cs.foldl (fun s c => s.firePlain c (WaitEv.isXlat e.part e.page)) s
  s.freeEntry die n
/-- A failed walk (R427): the entry stays, pending, and one 0x1002 record is written. -/
def State.walkFailed (s : State) (die n : Nat) (e : Coal) (w : WalkFail) : State :=
  let count := (s.listedOn die).foldl (fun k c => k + (s.waitersOf c e.part e.page).length) 0
  let s := { s with dies := s.dies.put die ((s.dies.getD die []).put n { e with pending := true, level := w.level, reason := w.reason, leaf := w.entry }) }
  s.logRec (sysRec 3 2 0x1002 e.acc e.part 1 (e.page * 2 ^ 17)
    (n + die * 2 ^ 16 + w.level * 2 ^ 20 + w.reason * 2 ^ 24 + min count 0xFFFF * 2 ^ 32) w.pa)
/-- PAGE_WALK_COMPLETE (R113): the walk of a coalescing entry of a die ends. -/
def execPageWalkComplete (die n : Nat) (s : State) : Res :=
  .next <|
    match (s.dies.getD die []).find? n with
    | none => s
    | some e =>
      if e.pending then s
      else
        match s.walkVa e.part (e.page * 2 ^ 17) with
        | .ok t => s.walkDone die n e t
        | .error w => s.walkFailed die n e w
/-- The entry is pending for a partition (R428). -/
def State.pendingEntry (s : State) (part die n : Nat) : Option Coal :=
  ((s.dies.getD die []).find? n).bind fun e => if e.pending && e.part == part then some e else none
/-- XREPLAY with ACT 0 (R428): the entry's walk starts again. -/
def State.demandReplay (s : State) (part die n : Nat) : State :=
  match s.pendingEntry part die n with
  | none => s
  | some e => { s with dies := s.dies.put die ((s.dies.getD die []).put n { e with pending := false }) }
/-- The fault of a refused strand (R428, R425): a refused fetch when the page holds its resume PC (DEDUCED, log 30). -/
def refusedFault (r : Record) (die n : Nat) (e : Coal) : Flt :=
  let va := match r.wait with
    | some (.xlat _ _ va) => va
    | _ => e.page * 2 ^ 17
  if r.pc.toNat / 2 ^ 17 == e.page then { code := 0x1005, akind := 1, addr := r.pc.toNat, gen := 0, d0 := 6, d1 := 0 }
  else { code := 0x1003, akind := 1, addr := va, gen := 0, d0 := n + die * 2 ^ 16, d1 := e.reason }
/-- XREPLAY with ACT 1 (R428): every strand parked on the entry will raise the refusal, engine accesses held on it fail, the entry is free. -/
def State.demandRefuse (s : State) (part die n : Nat) : State :=
  match s.pendingEntry part die n with
  | none => s
  | some e =>
    let s := (s.listedOn die).foldl (fun s c => s.modCore c fun k => { k with
      records := k.records.map fun x =>
        (x.1, if x.2.wait.elim false (WaitEv.isXlat e.part e.page) then { x.2 with wait := none, err := some (refusedFault x.2 die n e) } else x.2)
      bulkQ := k.bulkQ.map fun o => if o.hold = some e.page && s.grovePart o.grove == e.part then { o with refused := o.refused ++ [e.page] } else o }) s
    let colls := s.link.colls.map fun o => if o.hold = some e.page && dieOf o.core == die && s.grovePart o.grove == e.part then { o with refused := true } else o
    { s with link := { s.link with colls := colls } }.freeEntry die n
/-- DEMAND_REPLAY (R428). -/
def execDemandReplay (part die n : Nat) (s : State) : Res := .next (s.demandReplay part die n)
/-- DEMAND_REFUSE (R428). -/
def execDemandRefuse (part die n : Nat) (s : State) : Res := .next (s.demandRefuse part die n)

/-! Errors (R418, R419, R431, R432) -/

/-- Add to a field of an error counter, saturating (R431). -/
def State.countErr (s : State) (n hi lo : Nat) : State :=
  let w := s.link.ecnt.getD n 0
  { s with link := { s.link with ecnt := s.link.ecnt.put n (putFld w hi lo (min (2 ^ (hi + 1 - lo) - 1) (fld w hi lo + 1))) } }
/-- A corrected error of a unit (R431): counted, and recorded at most once per 1 ms for each source of the unit (R417), with the count since the last record. -/
def State.corrected (s : State) (n src srcId addr : Nat) : State :=
  let s := s.countErr n 31 0
  let unit := 2 * (8 * srcId + src)
  let since := s.scrubCounts.getD unit 0 + 1
  let last := s.scrubCounts.find? (unit + 1)
  if last.elim true fun t => decide (t + 1000000 ≤ s.tick) then
    { s with scrubCounts := (s.scrubCounts.put unit 0).put (unit + 1) s.tick }.logRec (sysRec 3 1 0x1009 srcId 0 2 addr src since)
  else { s with scrubCounts := s.scrubCounts.put unit since }
/-- The physical address of a byte of local memory (R115). -/
def State.ownAt (s : State) (off : Nat) : Nat := s.pkg * 2 ^ 41 + off
/-- The counter and the unit of a line's source: the stack of an HBM line, the slice of an L2 line (R418, R431). -/
def State.lineUnit (s : State) (src line : Nat) : Nat × Nat :=
  if src == 0 then (s.stackOf (64 * line), 0x4000 + s.stackOf (64 * line))
  else (16 + s.sliceOf (64 * line) / 256, 0x5000 + s.sliceOf (64 * line))
/-- Mark a line of local memory poisoned and record it, once (R419). -/
def State.poisonLine (s : State) (src line why : Nat) : State :=
  if s.poisoned.contains line then s
  else
    let u := s.lineUnit src line
    ({ s with poisoned := s.poisoned ++ [line] }.countErr u.1 47 32).logRec (sysRec 3 0 0x100A u.2 0 2 (s.ownAt (64 * line)) src why)
/-- A granule with an uncorrectable error (R418, R419). DESIGN CHOICE (log 101): a place with no PA is named in ADDR by its offset in the buffer. -/
def State.poisonGranule (s : State) (core : Nat) (b : Buf) (n why : Nat) : State :=
  if ((s.core core).gran b n).poison then s
  else ((s.modCore core fun k => k.setGran b n { k.gran b n with poison := true }).countErr (20 + dieOf core) 47 32).logRec (sysRec 3 0 0x100A core 0 2 (32 * n) 4 why)
/-- The fault that a register word with an uncorrectable error raises (R420). -/
def wordFault (reg : Nat) : Flt := { code := 0x1006, akind := 6, addr := reg, gen := 0, d0 := 5, d1 := reg }
/-- An uncorrectable error in the register file of a resident cohort (R418 source 5, R420): in a register's word of one lane, or in its shape, which every present lane reads. -/
def State.poisonWord (s : State) (core sl lane reg : Nat) (shape : Bool) : State :=
  (s.modCohort core sl fun co => { co with lanes := co.lanes.map fun x =>
    (x.1, if shape || x.1 = lane then { x.2 with poison := x.2.poison.put reg (wordFault reg) } else x.2) }).countErr (24 + dieOf core) 47 32
/-- An error in a record (R418 source 6, R421): one in the caldera is one of HBM, source 0, at the caldera's address. -/
def State.recordError (s : State) (core rid : Nat) (r : Record) (ue : Bool) : State :=
  let cal := fld (s.part (s.launchPart r.launch)).pcal 51 30 * 2 ^ 30
  let (n, src, unit, addr) := if r.spilled then (s.stackOf cal, 0, 0x4000 + s.stackOf cal, s.ownAt cal) else (24 + dieOf core, 6, core, rid)
  if ue then (s.countErr n 47 32).stateLost core r.launch src addr else s.corrected n src unit addr
/-- PATROL_SCRUB (R418, R421, R432): an error is met, corrected (ue false) or uncorrectable. src 0 an HBM line, 1 an L2 line, met by the scrub or, where loc is not 0, by a fill or prefetch (R417); 2 sector `line` of core loc's L1, 3 line `line` of its L1 instruction cache, both refilled at their next use; 4 a granule of the buffer loc mod 4 of core loc / 4; 5 a register word of core loc (line names slot × 2^14 + lane × 2^9 + register, and from 2^30 on the register's shape); 6 record `line` of core loc. -/
def execPatrolScrub (src : Nat) (ue : Bool) (loc line : Nat) (s : State) : Res :=
  .next <|
    if src == 4 then
      let b := Buf.dec (loc % 4)
      if ue then s.poisonGranule (loc / 4) b line 1 else s.corrected (20 + dieOf (loc / 4)) 4 (loc / 4) (32 * line)
    else if src == 0 || src == 1 then
      if ue then s.poisonLine src line (if loc = 0 then 1 else 2) else s.corrected (s.lineUnit src line).1 src (s.lineUnit src line).2 (s.ownAt (64 * line))
    else if src == 2 then (s.dropSectors loc (32 * line) 32).corrected (28 + dieOf loc) 2 loc (s.ownAt (32 * line))
    else if src == 3 then (s.modCore loc fun k => { k with l1i := k.l1i.del line }).corrected (28 + dieOf loc) 3 loc (s.ownAt (128 * line))
    else if src == 5 then
      if ue then s.poisonWord loc (line / 2 ^ 14 % 2 ^ 16) (line / 2 ^ 9 % 32) (line % 2 ^ 9) (decide (2 ^ 30 ≤ line)) else s.corrected (24 + dieOf loc) 5 loc (line % 2 ^ 9)
    else if src == 6 then ((s.core loc).records.find? line).elim s fun r => s.recordError loc line r ue
    else s

end Sys2Proof.Machine
end

