-- ==== Sys2Proof/Machine/Registers.lean ====
section
/-! DEFINITION. The device registers (R5, R6): which there are, who writes them, what reads and writes do. The spec names them and gives no address; Config.regAt numbers the offsets of space 3. -/
namespace Sys2Proof.Machine

/-- The registers of a partition's block. -/
inductive PReg
  | tableRoot | pq0 | pq1 | pcal | qdoor | winva | loadreq | loadsts | keymask | flogcfg | floghead | flogtail | xreplay | xstat | pfrz | wdog
  | twinctl | rascnt | dbgsel | dbgctl | dbgcmd | dbgsts
  | bpa (n : Nat) | bpf (n : Nat) | wp (n field : Nat) | dbgdata (n : Nat)
  deriving DecidableEq, Repr
/-- The package registers. -/
inductive GReg
  | qtbl | schedctl | funcmap | aperbase | pmmiobase | commtbl | pwrlim | mbdoor | chlstat (n : Nat) | ecnt (n : Nat) | route (n : Nat) | mailbox (n : Nat)
  deriving DecidableEq, Repr
/-- A register of a block by the model's own number (log 32). -/
def PReg.ofNat (n : Nat) : Option PReg :=
  if n < 22 then [PReg.tableRoot, .pq0, .pq1, .pcal, .qdoor, .winva, .loadreq, .loadsts, .keymask, .flogcfg, .floghead, .flogtail, .xreplay, .xstat,
    .pfrz, .wdog, .twinctl, .rascnt, .dbgsel, .dbgctl, .dbgcmd, .dbgsts][n]?
  else if 32 ≤ n ∧ n < 40 then some (.bpa (n - 32))
  else if 40 ≤ n ∧ n < 48 then some (.bpf (n - 40))
  else if 48 ≤ n ∧ n < 64 then some (.wp ((n - 48) / 4) (n % 4))
  else if 512 ≤ n ∧ n < 1024 then some (.dbgdata (n - 512))
  else none
/-- A package register by the model's own number (log 32). -/
def GReg.ofNat (n : Nat) : Option GReg :=
  if n < 7 then [GReg.qtbl, .schedctl, .funcmap, .aperbase, .pmmiobase, .commtbl, .pwrlim][n]?
  else if 16 ≤ n ∧ n < 32 then some (.chlstat (n - 16))
  else if 32 ≤ n ∧ n < 64 then some (.ecnt (n - 32))
  else if 256 ≤ n ∧ n < 512 then some (.route (n - 256))
  else if 512 ≤ n ∧ n < 1023 then some (.mailbox (n - 512))
  else if n == 1023 then some .mbdoor
  else none

/-! Reads -/

/-- The core's register slot that a debug register names: breakpoint addresses 0 to 7, filters 8 to 15, watchpoints from 16. -/
def PReg.dbgSlot : PReg → Option Nat
  | .bpa n => some n
  | .bpf n => some (8 + n)
  | .wp n f => some (16 + 4 * n + f)
  | _ => none
/-- The value of a register of a partition's block (R5: WO reads zero). -/
def State.readP (s : State) (p : Nat) (r : PReg) : DWord :=
  let q := s.part p
  match r with
  | .tableRoot => BitVec.ofNat 64 q.root
  | .pq0 => q.pq0
  | .pq1 => q.pq1
  | .pcal => q.pcal
  | .qdoor | .loadreq | .xreplay | .dbgcmd => 0
  | .winva => q.winva
  | .loadsts => q.loadsts
  | .keymask => q.keymask.setWidth 64
  | .flogcfg => q.flogcfg
  | .floghead => BitVec.ofNat 64 (q.head + q.drops * 2 ^ 32)
  | .flogtail => BitVec.ofNat 64 q.tail
  | .xstat => q.xstat
  | .pfrz => if q.frozen then 1 else 0
  | .wdog => q.wdog
  | .twinctl => BitVec.ofNat 64 q.slack
  | .rascnt => q.rascnt
  | .dbgsel => BitVec.ofNat 64 q.dbgsel
  | .dbgctl => q.dbgctl
  | .dbgsts => q.dbgsts
  | .bpa n => (s.core q.dbgsel).bps.getD n 0
  | .bpf n => (s.core q.dbgsel).bps.getD (8 + n) 0
  | .wp n f => (s.core q.dbgsel).bps.getD (16 + 4 * n + f) 0
  | .dbgdata n => BitVec.ofNat 64 (getLe q.dbgdata (8 * n) 8)
/-- CHLSTATn (R440): LANES and STATE of the port beside its counters. -/
def State.chlstat (s : State) (n : Nat) : DWord :=
  let w := s.link.chlstat.getD n 0
  match s.link.ports.find? n with
  | some p => putFld (putFld w 11 8 (if p.up then p.lanes else 0)) 1 0 (if p.up then 2 else if p.retrains < 3 then 1 else 0)
  | none => putFld w 1 0 3
/-- The value of a package register. -/
def State.readG (s : State) (r : GReg) : DWord :=
  match r with
  | .qtbl => s.sched.qtbl
  | .schedctl => s.sched.schedctl
  | .funcmap => s.host.funcmap
  | .aperbase => s.host.aperbase
  | .pmmiobase => s.host.pmmiobase
  | .commtbl => s.link.commtbl
  | .pwrlim => s.pow.pwrlim
  | .mbdoor => s.trust.mbdoor
  | .chlstat n => s.chlstat n
  | .ecnt n => s.link.ecnt.getD n 0
  | .route n => BitVec.ofNat 64 (s.link.route.getD n 0)
  | .mailbox n => BitVec.ofNat 64 (getLe s.trust.mailbox (8 * n) 8)
/-- The requester is the PF (R345: master 0x20). -/
def isPf (who : Nat) : Bool := who == 0x20
/-- The partition that a requester acts for: a strand's, or its function's (R323, R345). -/
def State.partOf (s : State) (who : Nat) : Option Nat :=
  if who < 16 then some who else if 0x20 ≤ who ∧ who < 0x30 then some (s.funcPart (who - 0x20)) else none
/-- A device register as a requester names it: a partition's block n / 4096 - 1, or a package register; a function reaches its own block, the PF every register (R323). -/
inductive DevReg
  | part (p : Nat) (r : PReg)
  | pkg (r : GReg)
  deriving DecidableEq, Repr
/-- The register of a number, when the requester reaches it. -/
def State.devReg (s : State) (who n : Nat) : Option DevReg :=
  if n < 4096 then (if isPf who then (GReg.ofNat n).map .pkg else none)
  else if n < 4096 * 17 && (isPf who || s.partOf who == some (n / 4096 - 1)) then (PReg.ofNat (n % 4096)).map (.part (n / 4096 - 1))
  else none
/-- Read a device register; what holds no register reads 0 (R324). -/
def State.readReg (s : State) (who n : Nat) : DWord :=
  match s.devReg who n with
  | some (.part p r) => s.readP p r
  | some (.pkg r) => s.readG r
  | none => 0

/-! Writes -/

/-- Take a field from a written value when it is in range, else keep the old one. -/
def rangeFld (hi lo min_ max_ : Nat) (old v : DWord) : DWord := if outOf3 (fld v hi lo) then old else putFld old hi lo (fld v hi lo)
where
  /-- The value lies outside the field's range. -/
  outOf3 (n : Nat) : Bool := decide (n < min_ ∨ max_ < n)
/-- PQ0 after a write (R313). -/
def pq0Write (old v : DWord) : DWord :=
  rangeFld 7 0 1 128 (rangeFld 28 21 0 128 (rangeFld 41 29 0 4096 (rangeFld 47 42 0 48 (rangeFld 54 48 0 96 old v) v) v) v) v
/-- PQ1 after a write (R313). -/
def pq1Write (old v : DWord) : DWord := rangeFld 15 0 0 16384 (rangeFld 31 16 0 32768 (rangeFld 47 32 0 32768 old v) v) v
/-- Thaw a partition with its record (R406): 1 a larger caldera, 2 KILL. -/
def State.thaw (s : State) (p why : Nat) : State :=
  if (s.part p).frozen then (s.modPart p fun q => { q with frozen := false }).log p (sysRec 3 0 0x2003 0x7000 p 0 0 why 0) else s
/-- A write of PCAL (R136, R406). -/
def State.pcalWrite (s : State) (p : Nat) (v : DWord) : State :=
  let old := (s.part p).pcal
  let size := if 64 < fld v 6 0 then fld old 6 0 else fld v 6 0
  let new := putFld (putFld 0 51 30 (fld v 51 30)) 6 0 size
  if (fld new 51 30 != fld old 51 30 || decide (size < fld old 6 0)) && s.calBytes p != 0 then s
  else
    let s := s.modPart p fun q => { q with pcal := new }
    if fld old 6 0 < size then s.thaw p 1 else s
/-- PCAL_WRITE (R136). -/
def execPcalWrite (part : Nat) (v : DWord) (s : State) : Res := .next (s.pcalWrite part v)
/-- KILL (R406): every launch of the partition is terminated, then it thaws. -/
def State.kill (s : State) (p : Nat) : State :=
  let ls := (s.launches.filter fun x => x.2.part == p && !x.2.ended).map Prod.fst
  (ls.foldl (fun s l => s.terminate l { (sysRec 3 3 0x2002 0x7000 p 0 0 (fld (s.part p).pcal 6 0) 0) with launch := l }) s).thaw p 2
/-- PFRZ_KILL (R406). -/
def execPfrzKill (part : Nat) (s : State) : Res := .next (s.kill part)
/-- A write of FLOGCFG (R369): a LOG outside 6 to 16 and 0 is ignored. -/
def State.flogcfgWrite (s : State) (p : Nat) (v : DWord) : State :=
  s.modPart p fun q =>
    let n := fld v 4 0
    let new := putFld (putFld 0 51 12 (fld v 51 12)) 4 0 (if n == 0 || decide (6 ≤ n ∧ n ≤ 16) then n else fld q.flogcfg 4 0)
    { q with flogcfg := new, head := 0, tail := 0, drops := 0 }
/-- FLOGCFG_WRITE (R369). -/
def execFlogcfgWrite (part : Nat) (v : DWord) (s : State) : Res := .next (s.flogcfgWrite part v)
/-- A write of FLOGTAIL (R370): one that passes HEAD is ignored. -/
def State.flogtailWrite (s : State) (p : Nat) (v : DWord) : State :=
  s.modPart p fun q =>
    let new := fld v 31 0
    if (q.head + 2 ^ 32 - q.tail) % 2 ^ 32 < (new + 2 ^ 32 - q.tail) % 2 ^ 32 then q else { q with tail := new, drops := 0 }
/-- FLOGTAIL_WRITE (R370). -/
def execFlogtailWrite (part : Nat) (v : DWord) (s : State) : Res := .next (s.flogtailWrite part v)
/-- XREPLAY (R428). -/
def State.xreplay (s : State) (p : Nat) (v : DWord) : State :=
  if fld v 31 30 == 0 then s.demandReplay p (fld v 17 16) (fld v 8 0)
  else if fld v 31 30 == 1 then s.demandRefuse p (fld v 17 16) (fld v 8 0)
  else s
/-- The bits of a debug register that hold a value; reserved ones keep 0 (R6). -/
def PReg.keep : PReg → DWord
  | .bpa _ => ~~~2#64
  | .bpf _ => ~~~0x1FFFF#64
  | .wp _ 0 => 0x01FFFFFFFFFFFFFF#64
  | .wp _ 1 => 0xFFFFFFFF0F#64
  | _ => ~~~0#64
/-- The slot whose bit 0 enables a breakpoint or watchpoint, and the slot that names its owner. -/
def PReg.dbgEn : PReg → Nat × Nat
  | .bpa n | .bpf n => (n, n)
  | .wp n _ => (16 + 4 * n + 1, 16 + 4 * n)
  | _ => (0, 0)
/-- Breakpoint n of a core is written: it may match again where the one before it has halted lanes (R381). -/
def State.rearm (s : State) (core n : Nat) : State :=
  let fresh := fun (co : Cohort) => { co with lanes := co.lanes.map fun y => (y.1, { y.2 with met := y.2.met.map fun m => (m.1, m.2 - if bitN m.2 n then 2 ^ n else 0) }) }
  (s.modCore core fun k => { k with slots := k.slots.map fun x => (x.1, fresh x.2) }).overStopped fun st => if st.core = core then { st with cohort := fresh st.cohort } else st
/-- A write of a breakpoint or watchpoint register of the selected core (R380): ignored while another partition has it enabled. -/
def State.dbgRegWrite (s : State) (p : Nat) (r : PReg) (v : DWord) : State :=
  match r.dbgSlot with
  | none => s
  | some n =>
    let core := (s.part p).dbgsel
    let s := if 16 ≤ n then s else s.rearm core (n % 8)
    s.modCore core fun k =>
      let on := fld (k.bps.getD r.dbgEn.1 0) 0 0 == 1
      if on && k.bpOwner.getD r.dbgEn.2 p != p then k
      else
        let k := { k with bps := k.bps.put n (v &&& r.keep) }
        if fld (k.bps.getD r.dbgEn.1 0) 0 0 == 1 then { k with bpOwner := k.bpOwner.put r.dbgEn.2 p } else k
/-- DBGCMD (R385): ignored while busy. -/
def State.dbgcmd (s : State) (p : Nat) (v : DWord) : State :=
  let arg := fld v 63 32
  let id := fld v 31 16
  if fld (s.part p).dbgsts 3 0 == 1 then s
  else
    match fld v 7 0 with
    | 1 => s.haltStage p id arg
    | 2 => s.releaseStages p id arg
    | 3 => s.listHalted p
    | 4 => s.readImg p id arg
    | 5 => s.writeImg p id arg
    | 6 => s.resumeHalted p id true
    | 7 => s.resumeHalted p id false
    | 8 => s.staleMap p id
    | 9 => s.discardHalted p id
    | 10 => s.readSp p id arg
    | _ => s.dbgRefuse p 0
/-- The descriptor of a queue in the queue table, read under the root of trust's master id, to which R308 has the table mapped; one that the access table does not admit reads as zeros, so disabled (R347, log 94). -/
def State.queueDesc (s : State) (qid : Nat) : List Byte :=
  let pa := fld s.sched.qtbl 51 22 * 2 ^ 22 + 64 * qid
  if (s.accessReason 0x30 pa 64 .read 0).isSome then List.replicate 64 0 else s.readAs 0 pa 64
/-- A queue's EN bit in its descriptor. -/
def queueOn (d : List Byte) : Bool := bitN (getLe d 0x1B 1) 0
/-- Note whether the EN of a queue in the error state has been seen clear; set again, the queue leaves that state (R414). -/
def State.seeErr (s : State) (qid : Nat) : State :=
  match s.sched.errs.find? qid with
  | none => s
  | some seen =>
    let on := queueOn (s.queueDesc qid)
    { s with sched := { s.sched with errs := if on then (if seen then s.sched.errs.del qid else s.sched.errs) else s.sched.errs.put qid true } }
/-- QDOOR (R310): the queue is pending if it is enabled and the partition's. -/
def State.qdoor (s : State) (p qid : Nat) : State :=
  let s := s.seeErr qid
  let d := s.queueDesc qid
  if fld s.sched.qtbl 0 0 == 1 && queueOn d && getLe d 0x19 1 == p && (s.sched.errs.find? qid).isNone &&
      !(s.sched.slots.any fun x => x.2.qid == qid) && !(s.sched.pending.contains qid) then
    { s with sched := { s.sched with pending := s.sched.pending ++ [qid], rung := s.sched.rung.put qid p } }
  else s
/-- QDOOR (R310). -/
def execQdoor (part qid : Nat) (s : State) : Res := .next (s.qdoor part (qid % 65536))
/-- The partition a descriptor names. -/
def descPart (d : List Byte) : Nat := getLe d 0x19 1
/-- Read bytes as the queue scheduler (R345). -/
def State.schedRead (s : State) (part va len : Nat) : Except Flt (List Byte) := s.vaRead noCore part 0x31 (lineFuel len) va len
/-- Unmap a slot's queue (R311): it stays pending when packets are left. -/
def State.unmapSlot (s : State) (sl : Nat) : State :=
  match s.sched.slots.find? sl with
  | none => s
  | some q =>
    let left := match s.schedRead (descPart q.desc) (getLe q.desc 0x10 8) 8 with
      | .ok w => leNat w != q.ridx
      | .error _ => false
    { s with sched := { s.sched with
      slots := s.sched.slots.del sl
      watch := s.sched.watch.del sl
      pending := if left && !(s.sched.pending.contains q.qid) then s.sched.pending ++ [q.qid] else s.sched.pending } }
/-- Clear the bits written as 1 (R5: W1C). -/
def w1c (old v : DWord) : DWord := old &&& ~~~v
/-- The registers of a block that only the PF writes (R313, R338, R406). -/
def PReg.pfOnly : PReg → Bool
  | .pq0 | .pq1 | .keymask | .pfrz => true
  | _ => false
/-- A write to a register of a partition's block by a requester (R5, R6). -/
def State.writeP (s : State) (who p : Nat) (r : PReg) (v : DWord) : State :=
  if r.pfOnly && !isPf who then s
  else
    match r with
    | .tableRoot => s.modPart p fun q => { q with root := fld v 51 13 * 2 ^ 13 }
    | .pq0 => s.modPart p fun q => { q with pq0 := pq0Write q.pq0 v }
    | .pq1 => s.modPart p fun q => { q with pq1 := pq1Write q.pq1 v }
    | .pcal => s.pcalWrite p v
    | .qdoor => s.qdoor p (fld v 15 0)
    | .winva => s.modPart p fun q => { q with winva := putFld 0 63 17 (fld v 63 17) }
    | .loadreq => s.loadReq p v
    | .keymask => s.modPart p fun q => { q with keymask := v.setWidth 16 }
    | .flogcfg => s.flogcfgWrite p v
    | .flogtail => s.flogtailWrite p v
    | .xreplay => s.xreplay p v
    | .xstat => s.modPart p fun q => { q with xstat := w1c q.xstat v }
    | .pfrz => if fld v 1 1 == 1 then s.kill p else s
    | .wdog => s.modPart p fun q => { q with wdog := rangeFld 1 0 0 1 (putFld q.wdog 31 8 (fld v 31 8)) v }
    | .twinctl => s.modPart p fun q => { q with slack := if 8 ≤ fld v 10 0 ∧ fld v 10 0 ≤ 1024 then fld v 10 0 else q.slack }
    | .rascnt => s.modPart p fun q => { q with rascnt := w1c q.rascnt v }
    | .dbgsel => s.modPart p fun q => { q with dbgsel := if fld v 9 0 < 640 then fld v 9 0 else q.dbgsel }
    | .dbgctl => s.modPart p fun q => { q with dbgctl := putFld 0 0 0 (fld v 0 0) }
    | .dbgcmd => s.dbgcmd p v
    | .bpa _ | .bpf _ | .wp _ _ => s.dbgRegWrite p r v
    | .dbgdata n => s.modPart p fun q => { q with dbgdata := putBytes (padTo 4096 q.dbgdata) (8 * n) (leBytes 8 v.toNat) }
    | .loadsts | .floghead | .dbgsts => s
/-- A write to a package register by the PF (R5, R6). -/
def State.writeG (s : State) (r : GReg) (v : DWord) : State :=
  match r with
  | .qtbl =>
    let s := if fld v 0 0 == 0 then s.sched.slots.keys.foldl (fun s sl => s.unmapSlot sl) s else s
    { s with sched := { s.sched with qtbl := putFld (putFld 0 51 22 (fld v 51 22)) 0 0 (fld v 0 0) } }
  | .schedctl => { s with sched := { s.sched with schedctl := rangeFld 31 16 10 10000 s.sched.schedctl v } }
  | .funcmap =>
    let busy := fun (p : Nat) => s.sched.slots.any fun x => getLe x.2.desc 0x19 1 == p
    let held := (List.range 16).filterMap fun f =>
      let old := s.funcPart f
      if (s.host.funcHeld.find? f).isSome then some (f, old)
      else if old != (if f == 0 then 0 else fld v (4 * f + 3) (4 * f)) && busy old then some (f, old) else none
    { s with host := { s.host with funcmap := putFld v 3 0 0, funcHeld := held } }
  | .aperbase => { s with host := { s.host with aperbase := putFld (putFld 0 63 41 (fld v 63 41)) 0 0 (fld v 0 0) } }
  | .pmmiobase => { s with host := { s.host with pmmiobase := putFld (putFld 0 63 41 (fld v 63 41)) 0 0 (fld v 0 0) } }
  | .commtbl => { s with link := { s.link with commtbl := putFld (putFld 0 51 14 (fld v 51 14)) 0 0 (fld v 0 0) } }
  | .pwrlim => { s with pow := { s.pow with pwrlim := rangeFld 11 0 600 3000 s.pow.pwrlim v } }
  | .chlstat n => { s with link := { s.link with chlstat := s.link.chlstat.put n (w1c (s.link.chlstat.getD n 0) (v &&& 0xFFFFFFFF0000#64)) } }
  | .ecnt n => { s with link := { s.link with ecnt := s.link.ecnt.put n (w1c (s.link.ecnt.getD n 0) (v &&& 0xFFFFFFFFFFFF#64)) } }
  | .route n => { s with link := { s.link with route := s.link.route.put n (fld v 15 0) } }
  | .mbdoor => if s.trust.mbdoor == 1 || v != 1 then s else { s with trust := { s.trust with mbdoor := 1 } }
  | .mailbox n =>
    if s.trust.mbdoor == 1 then s
    else { s with trust := { s.trust with mailbox := putBytes (padTo 4088 s.trust.mailbox) (8 * n) (leBytes 8 v.toNat) } }
/-- A register whose untouched half keeps its value under a 4-byte write; the others take zeros there (log 33). -/
def DevReg.holds : DevReg → Bool
  | .part _ r => match r with
    | .qdoor | .loadreq | .xreplay | .dbgcmd | .xstat | .pfrz | .rascnt => false
    | _ => true
  | .pkg r => match r with
    | .chlstat _ | .ecnt _ => false
    | _ => true
/-- Write a device register; a write to what holds no register, or from a requester that does not reach it, is ignored (R5, R310, R324). -/
def State.writeReg (s : State) (who n : Nat) (v : DWord) : State :=
  match s.devReg who n with
  | some (.part p r) => s.writeP who p r v
  | some (.pkg r) => s.writeG r v
  | none => s

/-! The capability list (R343, R344) -/

/-- The entries that a function sees (R343, R350). -/
def State.capIds (s : State) (f : Nat) : List Nat :=
  if !s.trust.published then [] else if s.trust.recovery then (if f == 0 then [1] else [])
  else if f == 0 then [1, 2, 3, 4, 5, 6, 7, 8, 9] else [1, 2, 3, 4, 5, 9]
/-- The body of a capability for a function (R344); the layout within each body is the model's (log 37). -/
def State.capBody (s : State) (f id : Nat) : List Byte :=
  let p := s.funcPart f
  if id == 1 then leBytes 2 0x0640 ++ leBytes 1 (Config.answer 1 1) ++ leBytes 1 32 ++ leBytes 1 s.pkg
  else if id == 2 then leBytes 80 (maskOf ((List.range 640).filter fun c => !(s.pow.disabled.contains c)))
  else if id == 3 then leBytes 1 s.dieLocal.toNat ++ leBytes 2 1536
  else if id == 4 then (List.range 4).flatMap fun d => leBytes 1 (s.pow.lcmax.getD d 2)
  else if id == 5 then leBytes 1 p ++ leBytes 1 (fld (s.part p).pcal 6 0)
  else if id == 6 then (List.range 16).flatMap fun n => leBytes 1 (s.port n).lanes ++ leBytes 1 (Config.answer 7 n)
  else if id == 7 then leBytes 8 64 ++ leBytes 8 (maskOf s.trust.slots.keys)
  else if id == 8 then s.trust.keys.vals.flatMap fun k => leBytes 4 k.keyid
  else if id == 9 then leBytes 1 s.host.cxl.toNat
  else []
/-- The BAR0 offset of a body, which the part fixes (log 37). -/
def bodyAt (id : Nat) : Nat := Config.answer 6 id
/-- The list of a function: entries of 16 bytes, each naming the next (R343). -/
def State.capList (s : State) (f : Nat) : List Byte :=
  let ids := s.capIds f
  ids.zipIdx.flatMap fun x =>
    leBytes 2 x.1 ++ leBytes 1 1 ++ [0] ++ leBytes 2 (if x.2 + 1 < ids.length then 0x1000 + 16 * (x.2 + 1) else 0) ++ leBytes 2 0 ++
      leBytes 4 (bodyAt x.1) ++ leBytes 4 (s.capBody f x.1).length
/-- The capability list or one of its bodies stands at an offset of a function's BAR0. -/
def State.inList (s : State) (f off : Nat) : Bool :=
  decide (0x1000 ≤ off ∧ off < 0x1000 + (s.capList f).length) || (s.capIds f).any fun id => decide (bodyAt id ≤ off ∧ off < bodyAt id + (s.capBody f id).length)

/-! BAR0 (R324) -/

/-- The number of the register at an offset of a function's BAR0 (R324, R351): the PF's has the package registers, the mailbox among them, and block p at 0x10_0000 + 0x1_0000 × p in 32 MiB; a VF's has its partition's block at 0x10_0000 in 2 MiB. No register is where the capability list and its bodies are (R343). Where a register lies within its block the part fixes (log 32). -/
def State.bar0Reg (s : State) (f off : Nat) : Nat :=
  let inBlock := fun (p : Nat) => 4096 * (p + 1) + Config.regAt (0x100000 + off % 0x10000 / 8 * 8) % 4096
  if f == 0 then
    if s.inList f off then 4096 * 17
    else if decide (0x8000 ≤ off ∧ off < 0x9000) then 512 + (off - 0x8000) / 8
    else if off < 0x100000 then Config.regAt (off / 8 * 8) % 4096
    else if off < 0x200000 then inBlock (off / 0x10000 - 16)
    else 4096 * 17
  else if decide (0x100000 ≤ off ∧ off < 0x110000) then inBlock (s.funcPart f)
  else 4096 * 17
/-- The device has booted and serves its functions (R350): step 8 is done and it is not in the recovery state. -/
def State.serves (s : State) : Bool := s.trust.published && !s.trust.recovery
/-- REGISTER_WRITE (R5, R324, R350): a requester writes a device register, by its number, or, from 2^25 on, a function at an offset of its BAR0. -/
def execRegisterWrite (who n : Nat) (v : DWord) (s : State) : Res :=
  .next (if !s.serves then s else s.writeReg who (if 2 ^ 25 ≤ n then s.bar0Reg (who - 0x20) (n - 2 ^ 25) else n) v)

/-! Space 3 (R115, R151, R258) -/

/-- The bytes that a strand's load of space 3 returns. -/
def State.readSpace3 (s : State) (part pa len : Nat) : List Byte :=
  let off := localOf pa
  ((leBytes 8 (s.readReg part (Config.regAt (off / 8 * 8))).toNat).drop (off % 8)).take len
/-- A strand's store of 4 or 8 bytes to space 3. -/
def State.writeSpace3 (s : State) (part pa : Nat) (bs : List Byte) : State :=
  let off := localOf pa
  let n := Config.regAt (off / 8 * 8)
  match s.devReg part n with
  | none => s
  | some r =>
    let base := if r.holds then leBytes 8 (s.readReg part n).toNat else List.replicate 8 0
    s.writeReg part n (BitVec.ofNat 64 (leNat (putBytes base (off % 8) bs)))

end Sys2Proof.Machine
end

