-- ==== Sys2Proof/Machine/RegState.lean ====
section
/-! DEFINITION. Register state and special registers (R67, R71, R271). -/
namespace Sys2Proof.Machine

/-- SHP (R67): the tag code; 1 for a stale register; never a generation fault. -/
def planShp (g : Guard) (d a : Nat) : Plan :=
  plain g 12 (opc .shp) [d, a] [] fun s x ls => s.onCohort x fun co =>
    co.write d .uni ls fun _ => match co.regs.find? a with
      | some r => BitVec.ofNat 32 r.tag
      | none => 1
/-- UNI (R67): the value of the lowest lane of E. DESIGN CHOICE (log 92): when that lane parks on a pending register, the lowest lane that executes gives the value. -/
def planUni (g : Guard) (d a : Nat) : Plan :=
  plain g 12 (opc .uni) [d, a] [a] fun s x ls => s.onCohort x fun co => co.write d .uni ls fun _ => co.reg a (ls.headD 0)
/-- REGSET (R67). -/
def planRegset (g : Guard) (d n : Nat) (b : Src) : Plan :=
  plain g 12 (opc .regset) (run d n ++ b.regs) b.regs fun s x ls => s.onCohort x fun co =>
    (run d n).foldl (fun c r => c.write r (Sh.all [co.srcShape b]) ls fun l => co.src b l) co

/-- The frame a trap-handler strand serves, with the VA of its base (R373, R375). -/
def State.frameFor (s : State) (launch strand : Nat) : Option (Frame × Nat) :=
  (s.launches.find? launch).bind fun la => (la.frameOf strand).map fun f => (f, la.frameVa f.trailing)
/-- Where the frame's code for a handler strand's lane stands (R373, R375). DESIGN CHOICE (log 101): where the frame can no longer be translated or accessed, `%fault` reads 0 and a write of it is dropped. -/
def State.faultCodePa (s : State) (x : Ctx) (strand : Nat) (kind : Acc) : Option (Nat × DWord) :=
  match s.strands.find? strand, s.frameFor x.co.launch strand with
  | some t, some (_, va) =>
    match s.gWalk x.core x.part x.part (va + 0x40 + 2 * t.index) 2 kind with
    | .ok pa leaf => some (pa, leaf)
    | _ => none
  | _, _ => none
/-- Bytes under the stores of a strand that are not performed yet (R143 case 1). -/
def State.underOwn (s : State) (strand pa : Nat) (bs : List Byte) : List Byte :=
  bs.zipIdx.map fun x => overlay ((s.ops.filter fun o => o.kind == .store && o.strand == strand).map fun o => (o.pa, o.data)) (pa + x.2) x.1
/-- The frame's code for a handler strand's lane (R375): as it will stand once the strand's own writes of it are performed; a free value in a frame outside this package. -/
def State.faultCode (s : State) (x : Ctx) (strand : Nat) : Nat :=
  if x.co.kind == .trap then (s.faultCodePa x strand .read).elim 0 fun p => leNat (s.underOwn strand p.1 (s.anyRead p.2 p.1 2)) else 0
/-- %lcmax of a die (R71, R132). -/
def State.lcmax (s : State) (die : Nat) : Nat := s.pow.lcmax.getD die 2
/-- The value of a special register in a lane (R71). DESIGN CHOICE (log 92): under REP, %pc gives the PC of the unit, the address of the REP (R70). -/
def State.sreg (s : State) (x : Ctx) (l : Nat) (r : SReg) : Nat :=
  let t := x.strand l
  let st := s.strands.find? t
  let gr := st.bind fun t => s.groves.find? t.grove
  let la := s.launches.find? x.co.launch
  let burst := fun (f : Burst → Nat) => (st.bind fun t => t.burst).elim 0 f
  let pkt := fun (f : Packet → Nat) => la.elim 0 fun la => f la.pkt
  match r with
  | .laneid => l
  | .nlanes => x.co.nlanes
  | .width => 32
  | .strand => st.elim 0 fun t => t.index
  | .nstrand => pkt fun p => p.nstr.getD x.co.stage 0
  | .groveX => gr.elim 0 fun g => g.x
  | .groveY => gr.elim 0 fun g => g.y
  | .groveZ => gr.elim 0 fun g => g.z
  | .ngroveX => pkt fun p => p.gridX
  | .ngroveY => pkt fun p => p.gridY
  | .ngroveZ => pkt fun p => p.gridZ
  | .stage => x.co.stage
  | .launch => x.co.launch
  | .core => x.core
  | .stand => standOf x.core
  | .die => dieOf x.core
  | .pkg => s.pkg
  | .tick => s.tick
  | .pc => x.pc.toNat
  | .cnt => st.elim 0 Strand.cnt
  | .tags => gr.elim 0 fun g => g.tags.toNat
  | .bcRow => burst fun b => b.row
  | .bcCol => burst fun b => b.col
  | .bcSeq => burst fun b => b.bseq
  | .bcLen => burst fun b => b.len
  | .bcOp => burst fun b => b.op
  | .bcCtx => burst fun b => b.ctx.toNat
  | .repc => (x.co.lanes.find? l).elim 0 fun y => y.repc
  | .allot => x.co.allot
  | .gen => x.co.gen
  | .lcmax => s.lcmax (dieOf x.core)
  | .trapimg => (s.frameFor x.co.launch t).elim 0 fun f => f.2 + 0x200
  | .fault => s.faultCode x t
  | .twin => match gr.bind Grove.twin with
    | none => 2
    | some (_, b) => b.toNat
/-- The shape of a special register as a source (R71). -/
def sregShape : SReg → Sh
  | .laneid => .aff 0 1
  | .nlanes | .width | .nstrand | .ngroveX | .ngroveY | .ngroveZ | .stage | .launch | .core | .stand | .die | .pkg | .tick
  | .allot | .gen | .lcmax | .trapimg => .uni
  | _ => .gen
/-- MOVS (R71, R271); %laneid gives an affine result (R61). -/
def planMovs (g : Guard) (d : Nat) (r : SReg) : Plan :=
  plain g 12 (opc .movs) (if r.wide then [d, d + 1] else [d]) [] fun s x ls => s.onCohort x fun co =>
    if r.wide then co.write64 d (sregShape r) (sregShape r) ls fun l => BitVec.ofNat 64 (s.sreg x l r)
    else co.write d (sregShape r) ls fun l => BitVec.ofNat 32 (s.sreg x l r)
/-- The invalid-instruction trap of an instruction refused for its context (R390): its words, form 2, the reason. -/
def contextInvalid (i : Instr) (reason : Nat) : Flt :=
  let ws := encode i
  { code := 0x0001, akind := 0, addr := 0, gen := 0, d0 := (ws.getD 0 0).toNat + 2 ^ 32 * (ws.getD 1 0).toNat,
    d1 := reason + 256 * 2 + 2 ^ 32 * (ws.getD 2 0).toNat }
/-- MOVSW %fault (R71, R271, R375): the lane's code in the frame, by a store where the host must first give up the line (R328); outside a trap handler the invalid-instruction trap, reason 10. -/
def planMovsw (g : Guard) (r : SReg) (a : Nat) : Plan :=
  { plain g 12 (opc .movsw) [a] [a] (fun s x ls => ls.foldl (fun s l =>
      match s.faultCodePa x (x.strand l) .write with
      | some (pa, leaf) =>
        let bs := leBytes 2 (x.co.reg a l).toNat
        if (s.hostHolds pa 2).isEmpty && s.isLocal pa then s.keyedWrite leaf pa bs else s.issueOp { s.newOp x l .store none 0 pa leaf 2 with data := bs }
      | none => s) s) with
    bad := fun _ x => if x.co.kind == .trap && r == .fault then none else some (contextInvalid (.movsw g r a) 10) }

/-! What each instruction does: its plan, issued for the current cohort -/

/-- MOVS (R271). -/
def execMovs (g : Guard) (d : Nat) (r : SReg) (s : State) : Res := .next (s.exec (planMovs g d r))
/-- MOVSW (R271). -/
def execMovsw (g : Guard) (r : SReg) (a : Nat) (s : State) : Res := .next (s.exec (planMovsw g r a))
/-- REGSET (R67). -/
def execRegset (g : Guard) (d n : Nat) (b : Src) (s : State) : Res := .next (s.exec (planRegset g d n b))
/-- SHP (R67). -/
def execShp (g : Guard) (d a : Nat) (s : State) : Res := .next (s.exec (planShp g d a))
/-- UNI (R67). -/
def execUni (g : Guard) (d a : Nat) (s : State) : Res := .next (s.exec (planUni g d a))

end Sys2Proof.Machine
end

