-- ==== Sys2Proof/Machine/Scratch.lean ====
section
/-! DEFINITION. Scratchpad access and management (R264 to R270). -/
namespace Sys2Proof.Machine

/-- A loaded value of 1, 2 or 4 bytes as a word: zero- or sign-extended (R227). -/
def extendLoad (bs : List Byte) (sgn : Bool) : Word :=
  let n := leNat bs
  if sgn && bitN n (8 * bs.length - 1) then BitVec.ofInt 32 ((n : Int) - 2 ^ (8 * bs.length)) else BitVec.ofNat 32 n
/-- The words that loaded bytes fill (R227). -/
def loadWords (bs : List Byte) (sgn : Bool) : List Word :=
  if bs.length ≤ 4 then [extendLoad bs sgn] else (List.range (bs.length / 4)).map fun i => BitVec.ofNat 32 (getLe bs (4 * i) 4)
/-- The lanes read a buffer (R264, R265): each at once, or in the memory pipeline behind what they are ordered after. -/
def State.spLoads (s : State) (x : Ctx) (ls : List Nat) (buf : Buf) (d : Nat) (off : Nat → Nat) (size : Size) (sgn : Bool) : State :=
  let now := ls.filter fun l => s.spNow x [l] false false
  let word := fun (i l : Nat) => (loadWords (s.spRead x.core (s.groveOf x l) buf (off l) size.bytes) sgn).getD i 0
  (ls.filter fun l => !now.contains l).foldl (fun s l => s.holdSp x l .load buf (off l) size.bytes [] d size.regs sgn false)
    (s.onCohort x fun co => (List.range size.regs).foldl (fun c i => c.write (d + i) .gen now (word i)) co)
/-- Bytes written into a buffer of a grove's window (R128); futures in the A-buffer re-evaluate (R252). -/
def State.spStore1 (s : State) (core grove : Nat) (buf : Buf) (off : Nat) (bs : List Byte) : State :=
  let s := s.spWrite core grove buf off bs
  if buf == .a then s.fireGran core grove off bs.length else s
/-- The lanes write a buffer in ascending order (R229, R264, R265): at once, or in the memory pipeline. -/
def State.spStores (s : State) (x : Ctx) (ls : List Nat) (buf : Buf) (off : Nat → Nat) (bs : Nat → List Byte) : State :=
  if s.spNow x ls false true then ls.foldl (fun s l => s.spStore1 x.core (s.groveOf x l) buf (off l) (bs l)) s
  else ls.foldl (fun s l => s.holdSp x l .store buf (off l) (bs l).length (bs l) 0 0 false false) s
/-- A scratchpad load (R264, R265): its generation and lifetime are checked as it is performed, here unless it is held (R397). -/
def spLoad (g : Guard) (o : XOp) (buf : Buf) (d a : Nat) (imm : Word) (size : Size) (sgn : Bool) : Plan :=
  { plain g 12 (opc o) (run d size.regs ++ [a]) [a] (fun s x ls => s.spLoads x ls buf d (x.co.sOff a imm) size sgn) with
    check := fun s x _ l => s.sVerdict x l buf (x.co.sOff a imm l) size.bytes (s.spNow x [l] false false) }
/-- A scratchpad store (R264, R265): the lanes write in ascending order (R229). -/
def spStore (g : Guard) (o : XOp) (buf : Buf) (d a : Nat) (imm : Word) (size : Size) : Plan :=
  { plain g 12 (opc o) (run d size.regs ++ [a]) (run d size.regs ++ [a]) (fun s x ls =>
      s.spStores x ls buf (x.co.sOff a imm) (x.co.dataBytes d size.bytes)) with
    check := fun s x _ l => s.sVerdict x l buf (x.co.sOff a imm l) size.bytes false }
/-- WLD (R264). -/
def planWld (g : Guard) (d a : Nat) (imm : Word) (size : Size) (sgn : Bool) : Plan := spLoad g .wld .w d a imm size sgn
/-- WST (R264). -/
def planWst (g : Guard) (d a : Nat) (imm : Word) (size : Size) : Plan := spStore g .wst .w d a imm size
/-- ALD (R264). -/
def planAld (g : Guard) (d a : Nat) (imm : Word) (size : Size) (sgn : Bool) : Plan := spLoad g .ald .a d a imm size sgn
/-- AST (R264). -/
def planAst (g : Guard) (d a : Nat) (imm : Word) (size : Size) : Plan := spStore g .ast .a d a imm size
/-- CLD (R264). -/
def planCld (g : Guard) (d a : Nat) (imm : Word) (size : Size) (sgn : Bool) : Plan := spLoad g .cld .c d a imm size sgn
/-- CST (R264). -/
def planCst (g : Guard) (d a : Nat) (imm : Word) (size : Size) : Plan := spStore g .cst .c d a imm size
/-- ALD_S (R172, R264). -/
def planAldS (g : Guard) (d a off : Nat) : Plan := { planAld g d a (sImm off) .b32 false with len := 4 }
/-- AST_S (R172, R264). -/
def planAstS (g : Guard) (d a off : Nat) : Plan := { planAst g d a (sImm off) .b32 with len := 4 }

/-- The live allocations of a grove in a buffer. -/
def Core.allocsOf (k : Core) (b : Buf) (grove : Nat) : List Alloc := k.allocs.filter fun a => a.buf == b && a.grove == grove
/-- The lowest window offset with room for a size (R122). -/
def firstFit (as : List Alloc) (win size : Nat) : Option Nat :=
  ((0 :: as.map fun a => a.off + a.size).filter fun o =>
    decide (o + size ≤ win) && !(as.any fun a => decide (o < a.off + a.size ∧ a.off < o + size))).min?
/-- Carve an allocation under a generation (R122, R129). -/
def State.carve (s : State) (core grove : Nat) (b : Buf) (off size : Nat) (cls : LClass) (ar strict : Bool) (gen : Nat) : State :=
  s.modCore core fun k => { k with
    allocs := k.allocs ++ [{ buf := b, grove := grove, off := off, size := size, cls := cls, ar := ar, strict := strict, gen := gen }], spGen := gen + 1 }
/-- SPALLOC for one lane (R266): the state after, and the offset, 0xFFFFFFFF when nothing was made. -/
def State.spAlloc (s : State) (core grove : Nat) (b : Buf) (cls : LClass) (ar strict : Bool) (bytes : Nat) : State × Nat :=
  let size := roundUp bytes 256
  let win := (s.groves.find? grove).elim 0 fun g => (g.win b).2
  let k := s.core core
  match firstFit (k.allocsOf b grove) win size, k.nextSpGen with
  | some off, some gen =>
    if bytes == 0 || decide (256 ≤ k.allocs.length) then (s, 0xFFFFFFFF) else (s.carve core grove b off size cls ar strict gen, off)
  | _, _ => (s, 0xFFFFFFFF)
/-- SPALLOC for the lanes in ascending order. -/
def State.spAllocs (s : State) (x : Ctx) (f : State → Nat → State × Nat) : List Nat → State × NMap Nat
  | [] => (s, [])
  | l :: t =>
    let (s, o) := f s l
    let (s, m) := State.spAllocs s x f t
    (s, (l, o) :: m)
/-- The launch's auto-renew flag (R266, R303). -/
def State.autoRenew (s : State) (launch : Nat) : Bool := (s.launches.find? launch).elim false fun la => bitN la.pkt.flags 6
/-- A lane that needs a scratchpad generation parks while the wrap sweep runs, or starts it (R133, R267): `before` lanes of the instruction take one first. -/
def State.genVerdict (s : State) (x : Ctx) (before : Nat) : Verdict :=
  let k := s.core x.core
  let room := ((List.range (257 + before)).filter fun i => decide (k.spGen + i ≤ 65535) && !(k.allocs.any fun a => a.gen == k.spGen + i)).length
  if k.spSweep || decide (room ≤ before) then .stay (some .sweepDone) else .go
/-- SPALLOC (R266). -/
def planSpalloc (g : Guard) (d : Nat) (b : Src) (buf : Buf) (lc : LClass) (ar strict : Bool) : Plan :=
  { plain g 12 (opc .spalloc) (d :: b.regs) b.regs (fun s x ls =>
      let auto := ar || s.autoRenew x.co.launch
      if s.spNow x ls false true then
        let (s, got) := s.spAllocs x (fun s l => s.spAlloc x.core (s.groveOf x l) buf lc auto strict (x.co.src b l).toNat) ls
        s.onCohort x fun co => co.write d .gen ls fun l => BitVec.ofNat 32 (got.getD l 0)
      else ls.foldl (fun s l => s.holdSp x l (.alloc lc auto strict) buf 0 (x.co.src b l).toNat [] d 1 false false) s) with
    check := fun s x en l =>
      if lc == .l2 && s.lcmax (dieOf x.core) == 1 then .bad { code := 0x0008, akind := 0, addr := 0, gen := 0, d0 := 2, d1 := 1 }
      else s.genVerdict x (en.filter fun m => decide (m < l)).length }
/-- The allocation that begins at an offset, or the bounds fault (R267). -/
def State.startOf (s : State) (core grove : Nat) (b : Buf) (off : Nat) : Except Flt Alloc :=
  match (s.core core).allocs.find? fun a => a.buf == b && a.grove == grove && a.off == off with
  | some a => .ok a
  | none => .error { code := 0x0007, akind := 3 + b.code, addr := off, gen := 0, d0 := (s.groves.find? grove).elim 0 fun g => (g.win b).2, d1 := 3 }
/-- The check of SPFREE and SPCLEAR (R267). -/
def State.startVerdict (s : State) (x : Ctx) (l : Nat) (b : Buf) (off : Nat) : Verdict :=
  match s.startOf x.core (s.groveOf x l) b off with
  | .ok _ => .go
  | .error f => .bad f
/-- The allocation that begins at an offset is freed (R267): barriers and futures in it re-evaluate (R237). -/
def State.spFree (s : State) (core grove : Nat) (buf : Buf) (off : Nat) : State :=
  match s.startOf core grove buf off with
  | .ok al => (s.modCore core fun k => { k with allocs := k.allocs.erase al }).fireAlloc core grove
  | .error _ => s
/-- The allocation that begins at an offset takes a new generation (R129, R267). -/
def State.spClear (s : State) (core grove : Nat) (buf : Buf) (off : Nat) : State :=
  match s.startOf core grove buf off, (s.core core).nextSpGen with
  | .ok al, some gen =>
    let base := (s.groves.find? grove).elim 0 fun g => (g.win buf).1
    let clean := fun (k : Core) => (List.range (al.size / 32)).foldl (fun k i =>
      let n := (base + al.off) / 32 + i
      if (k.gran buf n).poison then k.setGran buf n { k.gran buf n with poison := false } else k) k
    (s.modCore core fun k => clean { k with allocs := k.allocs.map fun y => if y = al then { y with gen := gen } else y, spGen := gen + 1 }).fireAlloc core grove
  | _, _ => s
/-- SPFREE (R267). -/
def planSpfree (g : Guard) (a : Nat) (buf : Buf) : Plan :=
  { plain g 12 (opc .spfree) [a] [a] (fun s x ls =>
      if s.spNow x ls false true then ls.foldl (fun s l => s.spFree x.core (s.groveOf x l) buf (x.co.reg a l).toNat) s
      else ls.foldl (fun s l => s.holdSp x l .free buf (x.co.reg a l).toNat 0 [] 0 0 false false) s) with
    check := fun s x _ l => s.startVerdict x l buf (x.co.reg a l).toNat }
/-- SPCLEAR (R267): the allocation takes a new generation (R129). -/
def planSpclear (g : Guard) (a : Nat) (buf : Buf) : Plan :=
  { plain g 12 (opc .spclear) [a] [a] (fun s x ls =>
      if s.spNow x ls false true then ls.foldl (fun s l => s.spClear x.core (s.groveOf x l) buf (x.co.reg a l).toNat) s
      else ls.foldl (fun s l => s.holdSp x l .clear buf (x.co.reg a l).toNat 0 [] 0 0 false false) s) with
    check := fun s x en l => (s.startVerdict x l buf (x.co.reg a l).toNat).and (s.genVerdict x (en.filter fun m => decide (m < l)).length) }

/-- A renewal of one granule (R130). -/
def renewed (t : Nat) (a : Alloc) (q : Granule) : Granule :=
  if q.gen != a.gen then q else if ageOk t q a.cls then { q with wtick := t, refreshed := t } else { q with exp := true }
/-- The granule range of an SPRENEW, widened to whole granules (R268). -/
def renewRange (off len : Nat) : Nat × Nat := (off / 32 * 32, roundUp (off + len) 32 - off / 32 * 32)
/-- The check of SPRENEW (R268): the range lies inside one allocation. -/
def State.renewCheck (s : State) (x : Ctx) (l : Nat) (b : Buf) (off len : Nat) : Verdict :=
  let gr := s.groveOf x l
  let win := (s.groves.find? gr).elim 0 fun g => (g.win b).2
  let (lo, n) := renewRange off len
  let fault := fun (why : Nat) => Verdict.bad { code := 0x0007, akind := 3 + b.code, addr := off, gen := 0, d0 := win, d1 := why }
  if len == 0 then .go
  else if win < lo + n then fault 1
  else
    match (s.core x.core).alloc? b gr lo with
    | none => fault 2
    | some a => if a.off + a.size < lo + n then fault 4 else .go
/-- Renew one granule of a grove's window (R130). -/
def State.renewGran (s : State) (core grove : Nat) (b : Buf) (off : Nat) : State :=
  match s.groves.find? grove, (s.core core).alloc? b grove off with
  | some g, some a => s.modCore core fun k => k.setGran b (((g.win b).1 + off) / 32) (renewed s.T a (k.gran b (((g.win b).1 + off) / 32)))
  | _, _ => s
/-- The window offsets of the granules that an SPRENEW renews, ascending (R268). -/
def renewOffs (off len : Nat) : List Nat := (List.range ((renewRange off len).2 / 32)).map fun i => (renewRange off len).1 + 32 * i
/-- SPRENEW of a lane (R268): it takes its place among the scratchpad accesses, and is counted in st until all of its granules are renewed. -/
def State.renewIssue (s : State) (x : Ctx) (l : Nat) (b : Buf) (off len : Nat) : State :=
  if len == 0 then s
  else
    s.issueOp { s.newOp x l (.renew b) (some .st) off 0 0 0 with fields := renewOffs off len }
/-- SPRENEW (R268). -/
def planSprenew (g : Guard) (a : Nat) (b : Src) (buf : Buf) : Plan :=
  { plain g 12 (opc .sprenew) (a :: b.regs) (a :: b.regs) (fun s x ls => ls.foldl (fun s l =>
      s.renewIssue x l buf (x.co.reg a l).toNat (x.co.src b l).toNat) s) with
    cls := some .st
    check := fun s x _ l => s.renewCheck x l buf (x.co.reg a l).toNat (x.co.src b l).toNat }
/-- The word SPSTAT returns (R269). -/
def State.spStat (s : State) (core grove : Nat) (b : Buf) (off : Nat) : Nat :=
  match s.groves.find? grove with
  | none => 0
  | some g =>
    let q := s.granNow core b (((g.win b).1 + off) / 32)
    let meta_ := q.gen * 1024 + q.wtick * 2 + q.exp.toNat
    match (s.core core).alloc? b grove off with
    | none => meta_
    | some a =>
      let cur := q.gen == a.gen
      meta_ + 2 ^ 31 + cur.toNat * 2 ^ 30 + (cur && ageOk s.T q a.cls).toNat * 2 ^ 29
/-- SPSTAT (R268, R269): a read of the granule, in its place among the strand's scratchpad accesses. -/
def planSpstat (g : Guard) (d a : Nat) (buf : Buf) : Plan :=
  { plain g 12 (opc .spstat) [d, a] [a] (fun s x ls =>
      if s.spNow x ls false false then s.onCohort x fun co =>
        co.write d .gen ls fun l => BitVec.ofNat 32 (s.spStat x.core (s.groveOf x l) buf (x.co.reg a l).toNat)
      else ls.foldl (fun s l => s.holdSp x l .stat buf (x.co.reg a l).toNat 0 [] d 1 false false) s) with
    check := fun s x _ l =>
      let win := (s.groves.find? (s.groveOf x l)).elim 0 fun g => (g.win buf).2
      if win ≤ (x.co.reg a l).toNat then .bad { code := 0x0007, akind := 3 + buf.code, addr := (x.co.reg a l).toNat, gen := 0, d0 := win, d1 := 1 } else .go }

/-! What each instruction does: its plan, issued for the current cohort -/

/-- ALD_S (R264). -/
def execAldS (g : Guard) (d a off : Nat) (s : State) : Res := .next (s.exec (planAldS g d a off))
/-- AST_S (R264). -/
def execAstS (g : Guard) (d a off : Nat) (s : State) : Res := .next (s.exec (planAstS g d a off))
/-- WLD (R264). -/
def execWld (g : Guard) (d a : Nat) (imm : Word) (size : Size) (sgn : Bool) (s : State) : Res := .next (s.exec (planWld g d a imm size sgn))
/-- WST (R264). -/
def execWst (g : Guard) (d a : Nat) (imm : Word) (size : Size) (s : State) : Res := .next (s.exec (planWst g d a imm size))
/-- ALD (R264). -/
def execAld (g : Guard) (d a : Nat) (imm : Word) (size : Size) (sgn : Bool) (s : State) : Res := .next (s.exec (planAld g d a imm size sgn))
/-- AST (R264). -/
def execAst (g : Guard) (d a : Nat) (imm : Word) (size : Size) (s : State) : Res := .next (s.exec (planAst g d a imm size))
/-- CLD (R264). -/
def execCld (g : Guard) (d a : Nat) (imm : Word) (size : Size) (sgn : Bool) (s : State) : Res := .next (s.exec (planCld g d a imm size sgn))
/-- CST (R264). -/
def execCst (g : Guard) (d a : Nat) (imm : Word) (size : Size) (s : State) : Res := .next (s.exec (planCst g d a imm size))
/-- SPALLOC (R266). -/
def execSpalloc (g : Guard) (d : Nat) (b : Src) (buf : Buf) (lc : LClass) (ar strict : Bool) (s : State) : Res := .next (s.exec (planSpalloc g d b buf lc ar strict))
/-- SPFREE (R267). -/
def execSpfree (g : Guard) (a : Nat) (buf : Buf) (s : State) : Res := .next (s.exec (planSpfree g a buf))
/-- SPRENEW (R268). -/
def execSprenew (g : Guard) (a : Nat) (b : Src) (buf : Buf) (s : State) : Res := .next (s.exec (planSprenew g a b buf))
/-- SPSTAT (R269). -/
def execSpstat (g : Guard) (d a : Nat) (buf : Buf) (s : State) : Res := .next (s.exec (planSpstat g d a buf))
/-- SPCLEAR (R267). -/
def execSpclear (g : Guard) (a : Nat) (buf : Buf) (s : State) : Res := .next (s.exec (planSpclear g a buf))

end Sys2Proof.Machine
end

