-- ==== Sys2Proof/Machine/Control.lean ====
section
/-! DEFINITION. Control flow, the end of strands, traps, halts and tasks (R232 to R236, R243, R244, R274, R278). -/
namespace Sys2Proof.Machine

/-- A PC moved by a signed number of words (R232). -/
def Pc.plus (pc : Pc) (words : Int) : Pc := pc + BitVec.ofInt 48 (4 * words)
/-- Send every lane listed to a PC. -/
def State.jump (s : State) (x : Ctx) (ls : List Nat) (pc : Pc) : State := s.setPcs x ls pc
/-- BRA (R232). -/
def planBra (g : Guard) (imm : Word) : Plan := plain g 12 (opc .bra) [] [] fun s x ls => s.jump x ls (x.pc.plus imm.toInt)
/-- The check of an indirect target (R233). -/
def targetCheck (a : Nat) (x : Ctx) (l : Nat) : Verdict :=
  let v := (x.co.reg64 a l).toNat
  if v / 2 ^ 48 != 0 || v % 4 != 0 then .bad { code := 0x0009, akind := 0, addr := 0, gen := 0, d0 := v, d1 := 0 } else .go
/-- Send each lane to its own target (R232, R233). -/
def State.jumpTo (s : State) (x : Ctx) (a : Nat) (ls : List Nat) : State :=
  ls.foldl (fun s l => s.setPc x l ((x.co.reg64 a l).setWidth 48)) s
/-- BRX (R232). -/
def planBrx (g : Guard) (a : Nat) : Plan :=
  { plain g 12 (opc .brx) [a, a + 1] [a, a + 1] (fun s x ls => s.jumpTo x a ls) with check := fun _ x _ l => targetCheck a x l }
/-- Write the link pair: the address after the call, uniform (R232). -/
def State.writeLink (s : State) (x : Ctx) (d : Nat) (ls : List Nat) : State :=
  s.onCohort x fun co => co.write64 d .uni .uni ls fun _ => (x.after 12).setWidth 64
/-- CALL (R232). -/
def planCall (g : Guard) (d : Nat) (imm : Word) : Plan :=
  plain g 12 (opc .call) [d, d + 1] [] fun s x ls => (s.writeLink x d ls).jump x ls (x.pc.plus imm.toInt)
/-- CALLX (R232): the target is read before the link is written. -/
def planCallx (g : Guard) (d a : Nat) : Plan :=
  { plain g 12 (opc .callx) [d, d + 1, a, a + 1] [a, a + 1] (fun s x ls => (s.writeLink x d ls).jumpTo x a ls) with check := fun _ x _ l => targetCheck a x l }
/-- RET (R232). -/
def planRet (g : Guard) (a : Nat) : Plan :=
  { plain g 12 (opc .ret) [a, a + 1] [a, a + 1] (fun s x ls => s.jumpTo x a ls) with check := fun _ x _ l => targetCheck a x l }
/-- The strands of the lanes listed end (R21, R234), and frames whose handlers have all ended are free (R377). -/
def State.exitLanes (s : State) (x : Ctx) (ls : List Nat) : State :=
  (ls.foldl (fun s l => s.exitLane x.core x.slot l) s).closeFrames x.co.launch
/-- EXIT (R234). -/
def planExit (g : Guard) : Plan := plain g 12 (opc .exit) [] [] fun s x ls => s.exitLanes x ls
/-- TRAP (R235, R372): the cohort stops with the PCs past the TRAP and takes the software trap. -/
def planTrap (g : Guard) (n : Nat) : Plan :=
  plain g 12 (opc .trap) [] [] fun s x ls =>
    s.trap x.core x.slot x.pc (ls.map fun l => (l, { code := 0x5001, akind := 0, addr := 0, gen := 0, d0 := n, d1 := 0 })) 0
/-- The launch carries the debug-hold flag (R303). -/
def State.debugHold (s : State) (launch : Nat) : Bool := (s.launches.find? launch).elim false fun la => bitN la.pkt.flags 5
/-- The launch comes from a privileged queue (R272). -/
def State.privileged (s : State) (launch : Nat) : Bool := (s.launches.find? launch).elim false fun la => la.priv
/-- BRK (R235): a debug halt where breakpoints are enabled, else no effect. -/
def planBrk (g : Guard) (n : Nat) : Plan :=
  plain g 12 (opc .brk) [] [] fun s x ls =>
    if s.debugHold x.co.launch || fld (s.part x.part).dbgctl 0 0 == 1 then
      s.debugHalt x.core x.slot x.pc ls { code := 0x5003, akind := 0, addr := 0, gen := 0, d0 := n, d1 := 0 }
    else s
/-- HALT (R272, R278). -/
def planHalt (g : Guard) : Plan :=
  { plain g 12 (opc .halt) [] [] (fun s x ls => s.debugHalt x.core x.slot x.pc ls { code := 0x5006, akind := 0, addr := 0, gen := 0, d0 := 0, d1 := 0 }) with
    priv := fun s x => !(s.privileged x.co.launch || s.debugHold x.co.launch) }
/-- YIELD (R236). -/
def planYield (g : Guard) : Plan := { plain g 12 (opc .yield) [] [] (fun s _ _ => s) with check := fun _ _ _ _ => .leave none }
/-- TRET (R272, R274, R376): the lanes of E exit and the image is restored. -/
def planTret (g : Guard) : Plan :=
  { plain g 12 (opc .tret) [] [] (fun s x ls =>
      let t := x.strand (ls.headD 0)
      ((ls.foldl (fun s l => s.exitLane x.core x.slot l) s).trapReturn x.co.launch t (s.returnWaits x.co.launch t)).closeFrames x.co.launch) with
    priv := fun _ x => x.co.kind != .trap }
/-- One task of SPAWN (R43, R244, R155, R457): its record takes the argument words, and its accesses follow those of the spawner. -/
def State.spawnOne (s : State) (x : Ctx) (entry : Pc) (a n l : Nat) : State :=
  let t := x.strand l
  match s.strands.find? t with
  | none => s
  | some st =>
    let (id, s) := s.fresh
    let mine := (s.ops.filter fun o => o.strand == t || o.sharers.contains t).map MemOp.id
    let child : Strand :=
      { st with burst := none, out := [], befStore := [], befAll := st.befAll ++ mine, path := st.path ++ [0, st.nSpawn, 0], nOrd := 0,
                nSpawn := 0, nBread := 0, sig := 0, nStores := 0 }
    let s := { s with strands := s.strands.put id child }.modStrand t fun y => { y with nSpawn := y.nSpawn + 1 }
    s.addRecord x.core
      { strand := id, launch := x.co.launch, stage := x.co.stage, hx := false, pc := entry, preds := 0, repc := 0,
        regs := (List.range n).map fun i => (i, x.co.reg (a + i) l), contig := true, pend := [], wait := none, widx := none,
        held := (s.launches.find? x.co.launch).elim false fun la => la.holds x.co.stage false, fwd := false, provisional := false,
        spilled := false, page := 0, tick := s.tick, origin := x.pc, poison := [], err := none, set := 0, after := [] }
/-- SPAWN (R43, R244): n is checked against the stage's allotment at row 5. -/
def planSpawn (g : Guard) (imm : Word) (a n : Nat) : Plan :=
  { plain g 12 (opc .spawn) (run a n) (run a n) (fun s x ls => ls.foldl (fun s l => s.spawnOne x (x.pc.plus imm.toInt) a n l) s) with
    misses := fun s x =>
      let al := (s.launches.find? x.co.launch).elim 0 fun la => la.pkt.allot.getD x.co.stage 0
      if al < n then some al else none
    need := 32 + roundUp (4 * n) 32 }

/-! What each instruction does: its plan, issued for the current cohort -/

/-- BRA (R232). -/
def execBra (g : Guard) (imm : Word) (s : State) : Res := .next (s.exec (planBra g imm))
/-- BRX (R232). -/
def execBrx (g : Guard) (a : Nat) (s : State) : Res := .next (s.exec (planBrx g a))
/-- CALL (R232). -/
def execCall (g : Guard) (d : Nat) (imm : Word) (s : State) : Res := .next (s.exec (planCall g d imm))
/-- CALLX (R232). -/
def execCallx (g : Guard) (d a : Nat) (s : State) : Res := .next (s.exec (planCallx g d a))
/-- RET (R232). -/
def execRet (g : Guard) (a : Nat) (s : State) : Res := .next (s.exec (planRet g a))
/-- EXIT (R234). -/
def execExit (g : Guard) (s : State) : Res := .next (s.exec (planExit g))
/-- TRAP (R235). -/
def execTrap (g : Guard) (n : Nat) (s : State) : Res := .next (s.exec (planTrap g n))
/-- BRK (R235). -/
def execBrk (g : Guard) (n : Nat) (s : State) : Res := .next (s.exec (planBrk g n))
/-- YIELD (R236). -/
def execYield (g : Guard) (s : State) : Res := .next (s.exec (planYield g))
/-- SPAWN (R244). -/
def execSpawn (g : Guard) (imm : Word) (a n : Nat) (s : State) : Res := .next (s.exec (planSpawn g imm a n))
/-- TRET (R274). -/
def execTret (g : Guard) (s : State) : Res := .next (s.exec (planTret g))
/-- HALT (R278). -/
def execHalt (g : Guard) (s : State) : Res := .next (s.exec (planHalt g))

end Sys2Proof.Machine
end

