-- ==== Sys2Proof/Machine/System.lean ====
section
/-! DEFINITION. Cache and TLB invalidation, the CSR, and checkpoints (R272, R273, R275 to R277). -/
namespace Sys2Proof.Machine

/-- The core lies in the instance of a scope around another (R140). -/
def sameInstance (sc : Scope) (a b : Nat) : Bool :=
  match sc with
  | .core => a == b
  | .die => dieOf a == dieOf b
  | .pkg | .dom | .sys => true
/-- The local ranges (address, length) behind a range of virtual addresses; unmapped pages are skipped (R275). -/
def State.mappedRanges (s : State) (core part va len : Nat) : List (Nat × Nat) :=
  if len == 0 then []
  else
    ((List.range ((va + len - 1) / 2 ^ 17 + 1 - va / 2 ^ 17)).map (va / 2 ^ 17 + ·)).filterMap fun page =>
      let lo := max va (page * 2 ^ 17)
      let hi := min (va + len) ((page + 1) * 2 ^ 17)
      let at_ := fun (e : TlbEntry) => if s.isLocal (e.pa lo) then some (localOf (e.pa lo), hi - lo) else none
      match s.tlbFind core part lo with
      | some e => at_ e
      | none =>
        match s.walkVa part lo with
        | .ok e => at_ e
        | .error _ => none
/-- A unit of a size, by its number, overlaps one of the ranges. -/
def touches (rs : List (Nat × Nat)) (size n : Nat) : Bool := rs.any fun r => decide (n * size < r.1 + r.2 ∧ r.1 < (n + 1) * size)
/-- Remove the lines of ranges from a core's L1 data cache (R275). -/
def State.dropL1d (s : State) (core : Nat) (rs : List (Nat × Nat)) : State :=
  s.modCore core fun k => { k with l1d := k.l1d.filter fun x => !(touches rs 128 (x.1 / 4)) }
/-- CINV (R275): CINV.d acts at issue, CINV.i when it completes after the strand's earlier accesses; both count in st. -/
def planCinv (g : Guard) (k : CinvKind) (a : Nat) (imm : Word) (b : Nat) : Plan :=
  { plain g 12 (opc .cinv) [a, a + 1, b] [a, a + 1, b] (fun s x ls => ls.foldl (fun s l =>
      let va := x.co.gAddr a imm l
      let len := (x.co.reg b l).toNat
      let op := { s.newOp x l .cinv (some .st) va 0 0 0 with ord := .rel }
      if len == 0 then s
      else
        match k with
        | .d => (s.dropL1d x.core (s.mappedRanges x.core x.part va len)).issueOp op
        | .i sc => s.issueOp { op with sc := sc, fields := [va, len, x.part] }) s) with
    cls := some .st
    check := fun _ x _ l =>
      let va := x.co.gAddr a imm l
      if canonical va then .go else .bad { code := 0x1001, akind := 1, addr := va, gen := 0, d0 := 0, d1 := 0 } }
/-- The entry is one that a TLBINV of these fields removes (R276). -/
def tlbinvHits (fields : List Nat) (e : TlbEntry) : Bool :=
  match fields with
  | [0, va, p] => e.covers p va
  | [1, _, p] => e.part == p
  | _ => true
/-- TLBINV (R276): counted in st, acting when it completes. -/
def planTlbinv (g : Guard) (k : TlbKind) (sc : Scope) : Plan :=
  let regs := match k with
    | .va a b => [a, a + 1, b]
    | .part b => [b]
    | .all => []
  { plain g 12 (opc .tlbinv) regs regs (fun s x ls => ls.foldl (fun s l =>
      let fields := match k with
        | .va a b => [0, (x.co.reg64 a l).toNat, (x.co.reg b l).toNat % 16]
        | .part b => [1, 0, (x.co.reg b l).toNat % 16]
        | .all => [2, 0, 0]
      s.issueOp { s.newOp x l .tlbinv (some .st) 0 0 0 0 with sc := sc, fields := fields }) s) with
    cls := some .st
    priv := fun s x => !s.privileged x.co.launch }
/-- The 64-bit value of a CSR (R277); TWININJ is CSR 0x0400 (R466). -/
def State.csr (s : State) (n : Nat) : DWord := if n == 0x0400 then s.twininj else 0
/-- Write a CSR; reserved bits of TWININJ keep their required value 0 (R466). -/
def State.setCsr (s : State) (n : Nat) (v : DWord) : State := if n == 0x0400 then { s with twininj := v &&& ~~~0xFC#64 } else s
/-- CSRR (R277). -/
def planCsrr (g : Guard) (d n : Nat) : Plan :=
  { plain g 12 (opc .csrr) [d, d + 1] [] (fun s x ls => s.onCohort x fun co => co.write64 d .uni .uni ls fun _ => s.csr n) with
    priv := fun s x => !s.privileged x.co.launch
    bad := fun _ _ => if csrAssigned n then none else some (contextInvalid (.csrr g d n) 11) }
/-- CSRW (R277): the lanes write in ascending order. -/
def planCsrw (g : Guard) (n a : Nat) : Plan :=
  { plain g 12 (opc .csrw) [a, a + 1] [a, a + 1] (fun s x ls => ls.foldl (fun s l => s.setCsr n (x.co.reg64 a l)) s) with
    priv := fun s x => !s.privileged x.co.launch
    bad := fun _ _ => if csrAssigned n then none else some (contextInvalid (.csrw g n a) 11) }
/-- CKPT (R273, R463): in a twin grove the strand arrives at the next checkpoint; elsewhere no effect. -/
def planCkpt (g : Guard) : Plan :=
  { plain g 12 (opc .ckpt) [] [] (fun s _ _ => s) with
    check := fun s x _ l =>
      match (s.sideOf (s.groveOf x l)).bind fun t => s.twins.find? t.1 with
      | some w => .leave (some (.ckpt (w.ckpt + 1)))
      | none => .go }

/-! What each instruction does: its plan, issued for the current cohort -/

/-- CKPT (R463). -/
def execCkpt (g : Guard) (s : State) : Res := .next (s.exec (planCkpt g))
/-- CINV (R275). -/
def execCinv (g : Guard) (k : CinvKind) (a : Nat) (imm : Word) (b : Nat) (s : State) : Res := .next (s.exec (planCinv g k a imm b))
/-- TLBINV (R276). -/
def execTlbinv (g : Guard) (k : TlbKind) (sc : Scope) (s : State) : Res := .next (s.exec (planTlbinv g k sc))
/-- CSRR (R277). -/
def execCsrr (g : Guard) (d n : Nat) (s : State) : Res := .next (s.exec (planCsrr g d n))
/-- CSRW (R277). -/
def execCsrw (g : Guard) (n a : Nat) (s : State) : Res := .next (s.exec (planCsrw g n a))

end Sys2Proof.Machine
end

