-- ==== Sys2Proof/Machine/Wait.lean ====
section
/-! DEFINITION. Waits, tags, barriers, futures and watched memory (R237 to R253). -/
namespace Sys2Proof.Machine

/-- The outcome of a wait's condition at issue (R237): it continues, parks after the instruction, or faults. DEDUCED (log 101): while the read of its condition must follow something in flight (R143 cases 1, 4 and 6, R160) the condition is not yet known, and the strand parks. -/
def State.waitVerdict (s : State) (x : Ctx) (l : Nat) (w : WaitEv) : Verdict :=
  if !(s.waitAfter x.core (x.strand l) w).isEmpty then .leave (some w)
  else match s.evalWait x.core (x.strand l) w with
  | .yes _ _ _ => .go
  | .no => .leave (some w)
  | .err f => .bad f
/-- A mask operand of WAITT, TCLR, FFR and BSTAT: a pair, or word 2 zero-extended (R238, R242, R243). -/
def Cohort.mask (co : Cohort) (a : Src) (l : Nat) : DWord :=
  match a with
  | .reg n => co.reg64 n l
  | .imm w => w.setWidth 64
/-- WAITT (R238): a mask of 0 makes the condition true in the X-form. -/
def planWaitt (g : Guard) (all : Bool) (a : Src) : Plan :=
  { plain g 12 (opc .waitt) a.regs64 a.regs64 (fun s _ _ => s) with check := fun s x _ l => s.waitVerdict x l (.tags all (x.co.mask a l)) }
/-- WAITT_S (R172, R238). -/
def planWaittS (g : Guard) (all : Bool) (mask : BitVec 12) : Plan := { planWaitt g all (.imm (mask.setWidth 32)) with len := 4 }
/-- WAITV (R239). -/
def planWaitv (g : Guard) (a : Nat) (b : Src) : Plan :=
  { plain g 12 (opc .waitv) (a :: b.regs) (a :: b.regs) (fun s _ _ => s) with
    check := fun s x _ l => s.waitVerdict x l (.version ((x.co.reg a l).toNat % 64) ((x.co.src b l).toNat % 65536)) }
/-- WAITC (R240, R152). -/
def planWaitc (g : Guard) (cls : CClass) (n : Nat) : Plan :=
  { plain g 12 (opc .waitc) [] [] (fun s _ _ => s) with check := fun s x _ l => s.waitVerdict x l (.counter cls n) }
/-- WAITC_S (R172, R240). -/
def planWaitcS (g : Guard) (cls : CClass) (n : Nat) : Plan := { planWaitc g cls n with len := 4 }

/-- Change the tags of a lane's grove (R241). -/
def State.modTags (s : State) (grove : Nat) (f : DWord → DWord) : State := s.modGrove grove fun g => { g with tags := f g.tags }
/-- TCLR (R242). -/
def planTclr (g : Guard) (a : Src) : Plan :=
  plain g 12 (opc .tclr) a.regs64 a.regs64 fun s x ls => ls.foldl (fun s l => s.modTags (s.groveOf x l) fun t => t &&& ~~~x.co.mask a l) s
/-- The lowest tag set under a mask (R243). -/
def lowestTag (m : DWord) : Option Nat := (List.range 64).find? fun i => m.getLsbD i
/-- FFR for the lanes in ascending order: each lane's tag, 64 when none is set, and the groves' tags after it (R243). -/
def State.ffr (s : State) (x : Ctx) (mask : Nat → DWord) : List Nat → State × NMap Nat
  | [] => (s, [])
  | l :: t =>
    let gr := s.groveOf x l
    match lowestTag (((s.groves.find? gr).elim 0 fun g => g.tags) &&& mask l) with
    | none => let (s, m) := State.ffr s x mask t; (s, (l, 64) :: m)
    | some i =>
      let (s, m) := State.ffr (s.modTags gr fun w => w &&& ~~~BitVec.ofNat 64 (2 ^ i)) x mask t
      (s, (l, i) :: m)
/-- FFR (R243): each lane takes the lowest tag of its mask, or 64 with a false predicate. -/
def planFfr (g : Guard) (pc d : Nat) (a : Src) : Plan :=
  plain g 12 (opc .ffr) (d :: a.regs64) a.regs64 fun s x ls =>
    let (s, got) := s.ffr x (x.co.mask a) ls
    s.onCohort x fun co =>
      ls.foldl (fun c l => c.setPred pc l (got.getD l 64 != 64)) (co.write d .gen ls fun l => BitVec.ofNat 32 (got.getD l 64))

/-! Barriers (R139, R245 to R248) -/

/-- The 16 bytes of a barrier object. -/
def barBytes (expect : Nat) (phase : Bool) (count : Nat) : List Byte := leBytes 16 (count + phase.toNat * 2 ^ 31 + expect * 2 ^ 32)
/-- The checks of BARARR: the scratchpad's, then the object's fields (R245); one that is held is checked as a read when it is performed (R397). -/
def State.barCheck (s : State) (x : Ctx) (l off : Nat) : Verdict :=
  if s.spNow x [l] true true then
    match s.spRefuses x.core (s.groveOf x l) .bararr .a off 16 with
    | some f => .bad f
    | none => .go
  else s.sVerdict x l .a off 16 false
/-- A barrier object is written, and what waits on it re-evaluates (R237, R246). -/
def State.barInit (s : State) (core grove off : Nat) (bs : List Byte) : State :=
  ((s.spWrite core grove .a off bs).fireGran core grove off 16).fireBarrier core grove off
/-- BARINIT (R246). -/
def planBarinit (g : Guard) (a : Nat) (imm : Word) (b : Nat) : Plan :=
  { plain g 12 (opc .barinit) [a, b] [a, b] (fun s x ls =>
      let bs := fun (l : Nat) => barBytes (x.co.reg b l).toNat false 0
      if s.spNow x ls false true then ls.foldl (fun s l => s.barInit x.core (s.groveOf x l) (x.co.sOff a imm l) (bs l)) s
      else ls.foldl (fun s l => s.holdSp x l .barinit .a (x.co.sOff a imm l) 16 (bs l) 0 0 false false) s) with
    check := fun s x _ l =>
      let e := (x.co.reg b l).toNat
      match s.spCheck x.core (s.groveOf x l) .a (x.co.sOff a imm l) 16 16 false with
      | some f => .bad f
      | none => if e == 0 || decide (1024 < e) then .bad { code := 0x000E, akind := 4, addr := x.co.sOff a imm l, gen := 0, d0 := e, d1 := 0 } else .go }
/-- One arrival at a barrier object (R247): its phase before, and the state after. -/
def State.arrive (s : State) (core grove off : Nat) : Bool × State :=
  let n := s.spObj core grove off
  let done := barCount n + 1 == barExpect n
  let bs := if done then barBytes (barExpect n) (!barPhase n) 0 else barBytes (barExpect n) (barPhase n) (barCount n + 1)
  let s := (s.spWrite core grove .a off bs).fireGran core grove off 16
  (barPhase n, if done then s.fireBarrier core grove off else s)
/-- BARARR for the lanes in ascending order. -/
def State.arrivals (s : State) (x : Ctx) (off : Nat → Nat) : List Nat → State × NMap Nat
  | [] => (s, [])
  | l :: t =>
    let (p, s) := s.arrive x.core (s.groveOf x l) (off l)
    let (s, m) := State.arrivals s x off t
    (s, (l, p.toNat) :: m)
/-- BARARR (R247). -/
def planBararr (g : Guard) (d a : Nat) (imm : Word) : Plan :=
  { plain g 12 (opc .bararr) [d, a] [a] (fun s x ls =>
      if s.spNow x ls true true then
        let (s, got) := s.arrivals x (x.co.sOff a imm) ls
        s.onCohort x fun co => co.write d .gen ls fun l => BitVec.ofNat 32 (got.getD l 0)
      else ls.foldl (fun s l => s.holdSp x l .bararr .a (x.co.sOff a imm l) 16 [] d 1 false true) s) with
    check := fun s x _ l => s.barCheck x l (x.co.sOff a imm l) }
/-- BARWAIT (R248). -/
def planBarwait (g : Guard) (a : Nat) (imm : Word) (b : Nat) : Plan :=
  { plain g 12 (opc .barwait) [a, b] [a, b] (fun s _ _ => s) with
    check := fun s x _ l => s.waitVerdict x l (.barrier (x.co.sOff a imm l) ((x.co.reg b l).getLsbD 0)) }

/-! Futures (R138, R249 to R252) -/

/-- The checks of an .a future cell (R249): the scratchpad's at 16 bytes, then the cell's words; one that is held is checked as a read when it is performed (R397). -/
def State.futCheck (s : State) (x : Ctx) (l off : Nat) : Verdict :=
  if s.spNow x [l] true true then
    match s.spRefuses x.core (s.groveOf x l) .ffill .a off 16 with
    | some f => .bad f
    | none => .go
  else s.sVerdict x l .a off 16 false
/-- The check of FWAIT and PARKW on a global cell (R137, R249, R252, R253, R393): translated, permitted by the leaf's bits, in space 0 or 1, admitted; the strand then parks at once. -/
def State.watchVerdict (s : State) (x : Ctx) (va len : Nat) (ev : Nat → Nat → WaitEv) : Verdict :=
  if !canonical va then .bad { code := 0x1001, akind := 1, addr := va, gen := 0, d0 := 0, d1 := 0 }
  else if va % len != 0 then .bad { code := 0x0004, akind := 1, addr := va, gen := 0, d0 := len, d1 := 0 }
  else
    match s.tlbFind x.core x.part va with
    | none => .stay (some (s.missEv x.core x.part va))
    | some e =>
      if fld e.leaf 3 3 == 1 && fld e.leaf 57 54 == x.part && decide (2 ≤ fld e.leaf 51 49) then .bad { code := 0x0010, akind := 1, addr := va, gen := 0, d0 := fld e.leaf 51 49, d1 := 0 }
      else
        match s.leafCheck x.part x.part va len .read e with
        | .ok pa leaf => .leave (some (ev pa (fld leaf 63 58)))
        | .miss => .stay (some (s.missEv x.core x.part va))
        | .bad f => .bad f
/-- FWAIT (R250, R252). -/
def planFwait (g : Guard) (d a : Nat) (imm : Word) (cellA : Bool) (sc : Scope) : Plan :=
  let srcs := if cellA then [a] else [a, a + 1]
  { plain g 12 (opc .fwait) (d :: (d + 1) :: srcs) srcs (fun s x ls =>
      if cellA then s.onCohort x fun co => co.write64 d .gen .gen ls fun l =>
        BitVec.ofNat 64 (s.spObj x.core (s.groveOf x l) (co.sOff a imm l) / 2 ^ 64)
      else s) with
    check := fun s x _ l =>
      if cellA then s.waitVerdict x l (.futA (x.co.sOff a imm l) d)
      else s.watchVerdict x (x.co.gAddr a imm l) 16 fun pa key => .futG (x.co.gAddr a imm l) pa key d sc
    acc := if cellA then fun _ _ _ _ => none else seen (fun co l => co.gAddr a imm l) 16 true false fun _ _ => 0 }
/-- The 16 bytes of a full future cell. -/
def fullCell (v : DWord) : List Byte := leBytes 16 (1 + v.toNat * 2 ^ 64)
/-- Bytes written into the A-buffer, with the futures in their granules re-evaluated (R252). -/
def State.cellWrite (s : State) (core grove off : Nat) (bs : List Byte) : State := (s.spWrite core grove .a off bs).fireGran core grove off bs.length
/-- FFILL.a of one cell (R250): whether it was filled, and the state after. -/
def State.fill1 (s : State) (core grove off : Nat) (v : DWord) : Bool × State :=
  if s.spObj core grove off % 2 == 0 then (true, s.cellWrite core grove off (fullCell v)) else (false, s)
/-- FFILL.a for the lanes in ascending order: whether each filled its cell (R250). -/
def State.fills (s : State) (x : Ctx) (off : Nat → Nat) (v : Nat → DWord) : List Nat → State × NMap Nat
  | [] => (s, [])
  | l :: t =>
    let (b, s) := s.fill1 x.core (s.groveOf x l) (off l) (v l)
    let (s, m) := State.fills s x off v t
    (s, (l, b.toNat) :: m)
/-- FFILL (R250, R251): a global one is an atomic at the home, counted in ld. -/
def planFfill (g : Guard) (d a : Nat) (imm : Word) (b : Nat) (cellA : Bool) (sc : Scope) : Plan :=
  let srcs := (if cellA then [a] else [a, a + 1]) ++ [b, b + 1]
  { plain g 12 (opc .ffill) (d :: srcs) srcs (fun s x ls =>
      if cellA then
        if s.spNow x ls true true then
          let (s, got) := s.fills x (x.co.sOff a imm) (x.co.reg64 b) ls
          s.onCohort x fun co => co.write d .gen ls fun l => BitVec.ofNat 32 (got.getD l 0)
        else ls.foldl (fun s l => s.holdSp x l .ffill .a (x.co.sOff a imm l) 16 (leBytes 8 (x.co.reg64 b l).toNat) d 1 false true) s
      else s.gIssue x ls (x.co.gAddr a imm) 16 .future fun s l pa leaf =>
        { s.newOp x l .ffill (some .ld) (x.co.gAddr a imm l) pa leaf 16 with
          data := leBytes 8 (x.co.reg64 b l).toNat, dst := d, ndst := 1, ord := .rel, sc := sc }) with
    cls := if cellA then none else some .ld
    check := fun s x _ l =>
      if cellA then s.futCheck x l (x.co.sOff a imm l) else (s.gVerdict x (x.co.gAddr a imm l) 16 .future).and (s.atomicCheck x l true (x.co.gAddr a imm l) 16)
    acc := if cellA then fun _ _ _ _ => none else seen (fun co l => co.gAddr a imm l) 16 true true fun co l => (co.reg64 b l).toNat * (1 + 2 ^ 64) }
/-- FRESET (R250, R251): a global one is counted in st. -/
def planFreset (g : Guard) (a : Nat) (imm : Word) (cellA : Bool) (sc : Scope) : Plan :=
  let srcs := if cellA then [a] else [a, a + 1]
  { plain g 12 (opc .freset) srcs srcs (fun s x ls =>
      if cellA then
        if s.spNow x ls true true then ls.foldl (fun s l => s.cellWrite x.core (s.groveOf x l) (x.co.sOff a imm l) (leBytes 16 0)) s
        else ls.foldl (fun s l => s.holdSp x l .freset .a (x.co.sOff a imm l) 16 (leBytes 16 0) 0 0 false true) s
      else s.gIssue x ls (x.co.gAddr a imm) 16 .future fun s l pa leaf =>
        { s.newOp x l .freset (some .st) (x.co.gAddr a imm l) pa leaf 16 with data := leBytes 16 0, ord := .rel, sc := sc }) with
    cls := if cellA then none else some .st
    check := fun s x _ l =>
      if cellA then s.futCheck x l (x.co.sOff a imm l) else (s.gVerdict x (x.co.gAddr a imm l) 16 .future).and (s.atomicCheck x l true (x.co.gAddr a imm l) 16)
    acc := if cellA then fun _ _ _ _ => none else seen (fun co l => co.gAddr a imm l) 16 false true fun _ _ => 0 }
/-- PARKW (R253). -/
def planParkw (g : Guard) (a : Nat) (imm : Word) (b c : Nat) (cc : Cc) (w : Bool) (ord : Ord) (sc : Scope) : Plan :=
  let srcs := [a, a + 1] ++ (if w then [b, b + 1, c, c + 1] else [b, c])
  let val := fun (co : Cohort) (r l : Nat) => if w then co.reg64 r l else (co.reg r l).setWidth 64
  { plain g 12 (opc .parkw) srcs srcs (fun s _ _ => s) with
    check := fun s x _ l => s.watchVerdict x (x.co.gAddr a imm l) (if w then 8 else 4) fun pa key =>
      .watch (x.co.gAddr a imm l) pa key (val x.co b l) (val x.co c l) cc w ord sc
    acc := seen (fun co l => co.gAddr a imm l) (if w then 8 else 4) true false fun _ _ => 0 }

/-! What each instruction does: its plan, issued for the current cohort -/

/-- WAITT_S (R238). -/
def execWaittS (g : Guard) (all : Bool) (mask : BitVec 12) (s : State) : Res := .next (s.exec (planWaittS g all mask))
/-- WAITC_S (R172). -/
def execWaitcS (g : Guard) (cls : CClass) (n : Nat) (s : State) : Res := .next (s.exec (planWaitcS g cls n))
/-- WAITT (R238). -/
def execWaitt (g : Guard) (all : Bool) (a : Src) (s : State) : Res := .next (s.exec (planWaitt g all a))
/-- WAITV (R239). -/
def execWaitv (g : Guard) (a : Nat) (b : Src) (s : State) : Res := .next (s.exec (planWaitv g a b))
/-- WAITC (R240). -/
def execWaitc (g : Guard) (cls : CClass) (n : Nat) (s : State) : Res := .next (s.exec (planWaitc g cls n))
/-- FFR (R243). -/
def execFfr (g : Guard) (pc d : Nat) (a : Src) (s : State) : Res := .next (s.exec (planFfr g pc d a))
/-- TCLR (R242). -/
def execTclr (g : Guard) (a : Src) (s : State) : Res := .next (s.exec (planTclr g a))
/-- BARINIT (R246). -/
def execBarinit (g : Guard) (a : Nat) (imm : Word) (b : Nat) (s : State) : Res := .next (s.exec (planBarinit g a imm b))
/-- BARARR (R247). -/
def execBararr (g : Guard) (d a : Nat) (imm : Word) (s : State) : Res := .next (s.exec (planBararr g d a imm))
/-- BARWAIT (R248). -/
def execBarwait (g : Guard) (a : Nat) (imm : Word) (b : Nat) (s : State) : Res := .next (s.exec (planBarwait g a imm b))
/-- FWAIT (R252). -/
def execFwait (g : Guard) (d a : Nat) (imm : Word) (cellA : Bool) (sc : Scope) (s : State) : Res := .next (s.exec (planFwait g d a imm cellA sc))
/-- FFILL (R250). -/
def execFfill (g : Guard) (d a : Nat) (imm : Word) (b : Nat) (cellA : Bool) (sc : Scope) (s : State) : Res := .next (s.exec (planFfill g d a imm b cellA sc))
/-- FRESET (R250). -/
def execFreset (g : Guard) (a : Nat) (imm : Word) (cellA : Bool) (sc : Scope) (s : State) : Res := .next (s.exec (planFreset g a imm cellA sc))
/-- PARKW (R253). -/
def execParkw (g : Guard) (a : Nat) (imm : Word) (b c : Nat) (cc : Cc) (w : Bool) (ord : Ord) (sc : Scope) (s : State) : Res := .next (s.exec (planParkw g a imm b c cc w ord sc))

end Sys2Proof.Machine
end

