-- ==== Sys2Proof/Machine/Perform.lean ====
section
/-! DEFINITION. Memory operations perform and complete (R38, R45, R118, R119, R149, R151, R230, R251, R418 to R424, R458 to R468). -/
namespace Sys2Proof.Machine

/-! The end of an operation -/

/-- Nothing that R143 orders before the operation is in flight, and what its flow keeps before it has left (R162); for a release at .sys no CXL.cache access is open (R164). -/
def State.opReady (s : State) (o : MemOp) : Bool :=
  o.after.all (fun i => !s.flying i) && s.ops.all (fun p => p.sent || !o.behind.contains p.id) &&
    (!(o.ord.isRel && o.sc == .sys && !o.cxlOpen) || s.ops.all fun p => !p.cxlOpen)
/-- The core an operation's strand is on now (R154). -/
def State.coreNow (s : State) (o : MemOp) : Nat := (s.strands.find? o.strand).elim o.core fun t => t.core
/-- The acquire of an operation acts on the core of each strand it belongs to (R118, R144, R256). -/
def State.acquireOp (s : State) (o : MemOp) : State :=
  (((o.strand :: o.sharers).map fun t => (s.strands.find? t).elim o.core fun t => t.core).eraseDups).foldl (fun s c => s.acquire c o.sc) s
/-- What an operation completes in its strands: the class's counter, the records that wait for it (R38, R45). -/
def State.tellDone (s : State) (o : MemOp) (gone : Bool) : State :=
  (o.strand :: o.sharers).eraseDups.foldl (fun s n =>
    let s := s.modStrand n fun t =>
      let t := t.complete o.id
      if gone then { t with befAll := t.befAll.filter (· != o.id), befStore := t.befStore.filter (· != o.id) } else t
    match s.strands.find? n with
    | none => s
    | some t => (s.unpend n o.id).fireCounter t.core n) s
/-- An operation leaves: the counters of its strands fall, their later accesses no longer wait for it (R45, R143). -/
def State.retireOp (s : State) (o : MemOp) : State :=
  let s := if o.kind == .fence && o.ord.isAcq then s.acquireOp o else s
  ({ s with ops := s.ops.filter fun (p : MemOp) => p.id != o.id } : State).tellDone o true
/-- A load is complete that read stores which only its core sees yet: what is ordered after the load goes on waiting, until they are performed at their home (R145 item 3, R146, R147). -/
def State.linger (s : State) (o : MemOp) (stores : List Nat) : State :=
  let m := { s.unitOp .fence o.grove o.launch o.core o.va o.pa 0 0 with id := o.id, strand := o.strand, sharers := o.sharers, after := stores, issued := o.issued }
  ({ s with ops := s.ops.map fun (p : MemOp) => if p.id = o.id then m else p } : State).tellDone o false
/-- The stores that a core's L1 shows and their home does not, under the bytes of a load that the L1 serves. -/
def State.earlyUnder (s : State) (o : MemOp) : List Nat :=
  if s.isLocal o.pa && !o.nl1 && !(o.ord.isAcq && o.sc != .core) then (s.ops.filter fun p => p.early && p.core == o.core && p.overlaps o).map MemOp.id else []
/-- Fences with nothing left before them end. -/
def State.settleFences (s : State) : Nat → State
  | 0 => s
  | k + 1 =>
    match s.ops.find? fun o => o.kind == .fence && s.opReady o with
    | none => s
    | some o => State.settleFences (s.retireOp o) k
/-- An operation is complete (R151). -/
def State.opDone (s : State) (o : MemOp) : State := (s.retireOp o).settleFences s.ops.length
/-- A load is complete, its value landed (R151). -/
def State.loadDone (s : State) (o : MemOp) : State := if (s.earlyUnder o).isEmpty then s.opDone o else s.linger o (s.earlyUnder o)

/-! Landing (R38, R230, R256) -/

/-- Every present strand of a cohort is among those listed. -/
def Cohort.allIn (co : Cohort) (ts : List Nat) : Bool := !co.lanes.isEmpty && co.lanes.all fun x => ts.contains x.2.strand
/-- A read of an engine outside the package gives its bytes, or fails, to its bulk operation (R156, R285). -/
def State.engGot (s : State) (o : MemOp) (r : List Byte × Option Flt) : State :=
  s.modCore o.core fun k => { k with bulkQ := k.bulkQ.map fun b => if b.id = o.fields.headD 0 then { b with got := b.got.put (128 * o.va + o.size) r } else b }
/-- A part of an operation fails: its bit, the count, the first failure (R282, R423). -/
def BulkOp.failed (o : BulkOp) (bit : Nat) (f : Flt) : BulkOp := { o with stat := o.stat ||| bit, fails := o.fails + 1, first := some (o.first.getD f), refused := o.refused.filter (· != f.addr % 2 ^ 57 / 2 ^ 17) }
/-- A sector write fails for its bulk operation on its way: LINK, or INTG on a line that fails its tag (R283, R424, R436). -/
def State.engFailed (s : State) (o : MemOp) (f : Flt) : State :=
  let fail := fun (b : BulkOp) => if f.code = 0x1007 then b.failed 8 { f with code := 0x100C, d0 := 8, d1 := 0 } else b.failed 64 f
  s.modCore o.core fun k => { k with bulkQ := k.bulkQ.map fun b => if b.id = o.fields.headD 0 then fail b else b }
/-- A sector write of a bulk operation to a poisoned line is performed: the second of two that cover the line clears it (R419). -/
def State.halfLine (s : State) (o : BulkOp) (pa len : Nat) : State × BulkOp :=
  let n := localOf pa / 32
  if len != 32 || !s.poisoned.contains (n / 2) then (s, o)
  else if o.halves.contains (n + 1 - 2 * (n % 2)) then ({ s with poisoned := s.poisoned.filter fun m => m != n / 2 }, o)
  else (s, { o with halves := n :: o.halves })
/-- The same for a sector write that was held on its way. -/
def State.halfHeld (s : State) (o : MemOp) : State :=
  match (s.core o.core).bulkQ.find? fun b => b.id == o.fields.headD 0 with
  | none => s
  | some b =>
    let (s, b) := s.halfLine b o.pa o.size
    s.modCore o.core fun k => { k with bulkQ := k.bulkQ.map fun p => if p.id = b.id then b else p }
/-- The operation is an engine's, for a bulk operation (R289). -/
def MemOp.isEng (o : MemOp) : Bool := o.strand == 0 && o.grove != 0
/-- Words land for the strands of an operation; one read that fills a whole present mask is uniform (R256, R61). -/
def State.landOp (s : State) (o : MemOp) (ws : List Word) : State :=
  let ts := (o.strand :: o.sharers).eraseDups
  let s := ts.foldl (fun s t => s.landWords t ((ws.zipIdx o.dst).filter fun w => !o.skip.contains (t, w.2))) s
  if o.uni then
    s.modCore o.core fun k => { k with
      slots := k.slots.map fun (x : Nat × Cohort) =>
        (x.1, if x.2.allIn ts then { x.2 with regs := ((ws.zipIdx o.dst).filter fun w => ts.all fun t => !o.skip.contains (t, w.2)).foldl (fun m w => NMap.put m w.2 (.uniform w.1)) x.2.regs } else x.2) }
  else s
/-- The registers an operation would have filled fail with a fault (R420, R446); where a strand is gone or has given a register up, a record says so. -/
def State.failOp (s : State) (o : MemOp) (f : Flt) : State :=
  let ts := (o.strand :: o.sharers).eraseDups
  let lost := ts.filter fun t => (s.strands.find? t).isNone || o.skip.any fun x => x.1 == t
  let s := ts.foldl (fun s t => s.landPoison t (o.fills t) f) s
  if o.ndst = 0 then s
  else lost.foldl (fun s t => s.lostPoison (fun f => { (s.strandRec t 3 0 o.core 0 o.pc f) with part := s.opPart o, launch := o.launch, grove := s.groveIdx o.grove }) [if f.akind = 1 then { f with akind := 2, addr := o.pa } else f]) s

/-! The L1 data cache (R118) -/

/-- The memory fault of an access (R417). -/
def memFault (code va d0 d1 : Nat) : Flt := { code := code, akind := 1, addr := va, gen := 0, d0 := d0, d1 := d1 }
/-- What makes local data unreadable: poison, or the integrity tag (R420, R424). -/
def State.badLine (s : State) (o : MemOp) (pa len : Nat) : Option Flt :=
  match s.poisonAt pa len with
  | some src => some (memFault 0x1006 o.va src 0xFFFF)
  | none => if s.tagFails o.leaf pa len then some (memFault 0x1007 o.va (fld o.leaf 63 58) (pa % 2 ^ 52 / 64)) else none
/-- A read at the L2, past the L1, which forgets what it held of the bytes (R118, R147). -/
def State.readL2 (s : State) (o : MemOp) : State × Except Flt (List Byte) :=
  match s.badLine o o.pa o.size with
  | some f => (s, .error f)
  | none => (s.dropSectors o.core o.pa o.size, .ok (s.readAs o.leaf o.pa o.size))
/-- A sector as it fills a core's L1: memory, under the stores that the core sees before their home (R118, R150). -/
def State.l1Fill (s : State) (core : Nat) (leaf : DWord) (n : Nat) : List Byte :=
  let seen := (s.ops.filter fun o => o.early && o.core == core).map fun o => (localOf o.pa, o.data)
  (s.readAs leaf (32 * n) 32).zipIdx.map fun x => overlay seen (32 * n + x.2) x.1
/-- What a missing sector fills the L1 with: nothing where its read fails otherwise; the fill of a poisoned line is a poisoned sector, listed with no bytes (R419). -/
def State.l1Sector (s : State) (o : MemOp) (n : Nat) : Option (List Byte) :=
  match s.badLine o (o.pa - localOf o.pa + 32 * n) 32 with
  | none => some (s.l1Fill o.core o.leaf n)
  | some f => if f.code = 0x1006 ∧ f.d0 = 0 then some [] else none
/-- A read through the L1: the sectors it lacks are filled (R118, R419, R424); one that fails its tag, or is not populated, is not; a poisoned sector fails the read. A line that a full cache gives up for it is free (log 92). -/
def State.readL1 (s : State) (o : MemOp) : State × Except Flt (List Byte) :=
  let missing := (sectorsOf o.pa o.size).filter fun n => ((s.core o.core).l1d.find? n).isNone
  let bad := missing.findSome? fun n => s.badLine o (o.pa - localOf o.pa + 32 * n) 32
  let old := if (sectorsOf o.pa o.size).any fun n => (s.core o.core).l1d.find? n == some [] then some (memFault 0x1006 o.va 0 0xFFFF) else none
  let s := s.modCore o.core fun k => { k with l1d := missing.foldl (fun m n => (s.l1Sector o n).elim m (NMap.put m n)) k.l1d }
  let s := s.trimL1d o.core (missing.map (· / 4)).eraseDups
  match bad.or old with
  | some f => (s, .error f)
  | none =>
    (s, .ok ((List.range o.size).map fun i => (((s.core o.core).l1d.getD ((localOf o.pa + i) / 32) []).getD ((localOf o.pa + i) % 32) 0)))

/-! Loads (R254, R256 to R258) -/

/-- The operation carries .rt (R261). -/
def MemOp.rt (o : MemOp) : Bool :=
  match o.kind with
  | .atomic _ r | .cas r => r
  | _ => false
/-- How an access outside this package's memory fails, by the status of its completion (R424, R444 to R446, R449): 1 poison, 100 an atomic's outcome unknown, 101 its id expired, 102 a write that its home does not perform on a line that fails its tag, else the reason plus 1. -/
def outFault (o : MemOp) (status : Nat) : Flt :=
  if status == 1 then memFault 0x1006 o.va 8 0xFFFF
  else if status == 102 then memFault 0x1007 o.va (fld o.leaf 63 58) (o.pa % 2 ^ 52 / 64)
  else if status == 100 || status == 101 then memFault (if status == 100 then 0x3007 else 0x3008) o.va (o.fields.getD 1 0) (pkgOf o.pa + 256 * o.rt.toNat)
  else if spaceOf o.pa == 1 then memFault 0x3006 o.va (status - 1 + 256 * pkgOf o.pa) 0
  else memFault 0x300C o.va (status - 1) 0
/-- No port that is up leads to the package of an address (R332, R442). -/
def State.noRoute (s : State) (pa : Nat) : Bool := spaceOf pa == 1 && (s.routeTo (pkgOf pa)).isEmpty
/-- The status of an access outside the package: what cannot leave fails at once (R442, R449, R451), else as its completion says. -/
def State.outStatus (s : State) (pa status : Nat) : Nat :=
  if s.noRoute pa then 2 else if s.cutOff pa then 5 else if s.spaceOff (spaceOf pa) then 6 else status
/-- Bytes that come from outside this machine: those given, or free ones (log 5). -/
def State.outBytes (s : State) (size : Nat) (data : List Byte) : State × List Byte :=
  if data.length == size then (s, data)
  else
    let (v, s) := s.takeFree
    (s, leBytes size v)
/-- A CXL.cache response that carries poison is reported (R452). -/
def State.cxlPoison (s : State) (pa status : Nat) : State :=
  if s.host.cxl && spaceOf pa == 2 && status == 1 then s.log 0 (sysRec 3 2 0x300D 0x6000 0 2 pa 1 0) else s
/-- The value a load returns, from the L1, the L2, a device register or from outside, under the copy's held stores and the node's staged bytes (R458, R460, R467). -/
def State.loadBytes (s : State) (o : MemOp) (data : List Byte) (status : Nat) : State × Except Flt (List Byte) :=
  if spaceOf o.pa == 3 then (s, .ok (s.readSpace3 (s.opPart o) o.pa o.size))
  else
    let wide := o.ord.isAcq && o.sc != .core
    let (s, r) :=
      if s.isLocal o.pa then (if o.nl1 || wide then s.readL2 o else s.readL1 o)
      else if spaceOf o.pa == 0 then (s, .error (memFault 0x1006 o.va 7 0xFFFF))
      else if s.outStatus o.pa status != 0 then (s.cxlPoison o.pa (s.outStatus o.pa status), .error (outFault o (s.outStatus o.pa status)))
      else let (s, bs) := s.outBytes o.size data; (s, .ok bs)
    match r with
    | .ok bs => (s, .ok (s.overlaid o.grove o.launch o.pa bs))
    | .error f => (s, .error f)
/-- The value forwarded to a trailing access (R458): no bytes stand for a poisoned one. -/
def State.forwarded? (s : State) (o : MemOp) : Option (List Byte) := (s.strands.find? o.strand).bind fun t => s.fwdFor t (o.fields.headD 0)
/-- The access takes its value from the leading copy (R458). -/
def State.takesForward (s : State) (o : MemOp) : Bool := s.isTrailing o.grove && o.forwarded
/-- A completion goes to the host (R448): 0 successful, 1 Unsupported Request, 4 Completer Abort, 256 successful with EP. -/
def State.complete (s : State) (tag status : Nat) (bs : List Byte) : State :=
  if s.host.linkUp then { s with host := { s.host with completions := s.host.completions ++ [(tag, status, bs)] } } else s
/-- What a piece of a host's read has brought (R325, R448): the next piece is read, or the read is completed; one that fails for another reason than poison with Completer Abort (DESIGN CHOICE, log 101). -/
def State.hostGot (s : State) (o : MemOp) (r : Except Flt (List Byte)) : State :=
  let tag := o.fields.getD 4 0
  let left := o.fields.getD 5 0
  match r with
  | .error f => s.complete tag (if f.code == 0x1006 then 256 else 4) []
  | .ok bs =>
    if left ≤ bs.length then s.complete tag 0 (o.data ++ bs)
    else s.addUnit { s.unitOp .load 0 0 noCore (o.va + bs.length) (o.pa + bs.length) o.leaf (min 64 (left - bs.length)) with
      data := o.data ++ bs, fields := o.fields.set 5 (left - bs.length) }
/-- What a unit of the device has read outside this package. -/
def State.unitGot (s : State) (o : MemOp) (r : Except Flt (List Byte)) : State :=
  { s with link := { s.link with got := s.link.got.put o.pa (match r with
    | .ok bs => (bs, none)
    | .error f => ([], some f)) } }
/-- What a parked strand's read of a cell of another package has brought (R249, R252, R253). -/
def State.cellGot (s : State) (o : MemOp) (r : Except Flt (List Byte)) : State :=
  match s.strands.find? o.strand with
  | none => s
  | some t =>
    match List.find? (fun (x : Nat × Record) => x.2.strand == o.strand && x.2.wait.bind WaitEv.watchPa == some o.pa) (s.core t.core).records with
    | none => s
    | some (rid, x) =>
      match x.wait with
      | none => s
      | some w => s.wakeAs t.core rid x w (match r with
        | .error f => .err f
        | .ok bs => w.judge bs)
/-- A load is performed and its value lands (R38, R151, R254, R420). -/
def State.landLoad (s : State) (o : MemOp) (data : List Byte) (status : Nat) : State :=
  let s := if o.ord.isAcq then s.acquireOp o else s
  let (s, r) :=
    if s.takesForward o then
      match s.forwarded? o with
      | some bs => (s, if bs.isEmpty then .error (memFault 0x1006 o.va 8 0xFFFF) else .ok bs)
      | none => (s, .ok [])
    else s.loadBytes o data status
  let s := if s.isLeading o.grove && o.forwarded then s.forward o.strand (match r with
    | .ok bs => bs
    | .error _ => []) else s
  if o.isHostRead then (s.hostGot o r).opDone o
  else if o.isUnitRead then (s.unitGot o r).opDone o
  else if o.isCell then (s.opDone o).cellGot o r
  else match r with
    | .ok bs => (if o.isEng then s.engGot o (bs, none) else s.landOp o (loadWords bs o.sgn)).loadDone o
    | .error f => (if o.isEng then s.engGot o ([], some f) else s.failOp o f).opDone o

/-! Atomics (R149, R250, R251, R259, R260, R422, R462, R464) -/

/-- The new value of an atomic (R259) on operands of a width in bits. -/
def atomNew (op : AtomOp) (w o b : Nat) : Nat :=
  let sg := fun (n : Nat) => (if bitN n (w - 1) then (n : Int) - 2 ^ w else n)
  match op with
  | .add => (o + b) % 2 ^ w
  | .min => if sg o ≤ sg b then o else b
  | .minU => min o b
  | .max => if sg o ≤ sg b then b else o
  | .maxU => max o b
  | .and => o &&& b
  | .or => o ||| b
  | .xor => o ^^^ b
  | .xchg => b
  | .fadd => (faddW (BitVec.ofNat 32 o) (BitVec.ofNat 32 b)).toNat
/-- What an atomic finds in the bytes at its home: the bytes it writes (none when it writes nothing) and the value it returns; or the cell is malformed (R249, R250). -/
def MemOp.atomStep (o : MemOp) (old : List Byte) : Except Flt (Option (List Byte) × List Byte) :=
  match o.kind with
  | .atomic op _ => .ok (some (leBytes o.size (atomNew op (8 * o.size) (leNat old) (leNat o.data))), old)
  | .cas _ => .ok (if old == o.cmp then some o.data else none, old)
  | .ffill =>
    if futBad (leNat old) then .error (futFault 1 o.va (leNat old))
    else if leNat old % 2 == 0 then .ok (some (leBytes 8 1 ++ o.data.take 8), leBytes 4 1) else .ok (none, leBytes 4 0)
  | .freset => if futBad (leNat old) then .error (futFault 1 o.va (leNat old)) else .ok (some (leBytes 16 0), [])
  | _ => .ok (none, old)
/-- Hold bytes in the staging ways of a launch (R467, R468): beyond STAGEMIB the node ends with 0x4007. -/
def State.stage (s : State) (launch pa : Nat) (leaf : DWord) (bs : List Byte) : State :=
  let s := s.modLaunch launch fun la => { la with
    staged := bs.zipIdx.foldl (fun m x => NMap.put m (localOf pa + x.2) x.1) la.staged
    stagedKeys := (linesOf pa bs.length).foldl (fun m n => NMap.put m n (fld leaf 63 58)) la.stagedKeys }
  match s.launches.find? launch with
  | none => s
  | some la =>
    if la.pkt.stageMib * 2 ^ 20 < la.staged.length then
      s.terminate launch (sysRec 3 3 0x4007 (0x5000 + s.sliceOf pa) la.part 0 0 la.pkt.stageMib 0)
    else s
/-- Perform a write of an operation at its home, or in the staging ways. -/
def State.putHome (s : State) (o : MemOp) (bs : List Byte) : State :=
  if s.stages o then s.stage o.launch o.pa o.leaf bs else if s.populated o.pa then s.keyedWrite o.leaf o.pa bs else s
/-- The numbers by which a log entry tells operations apart (R462): VA, operation, operands. -/
def MemOp.logFields (o : MemOp) : List Nat :=
  [o.va, o.kind.code, leNat o.data, leNat o.cmp]
/-- Perform an atomic at its home: the operation with its value or its fault (R149, R422). -/
def State.atHome (s : State) (o : MemOp) (data : List Byte) : State × MemOp :=
  if s.noRoute o.pa then (s, { o with home := true, bad := some (outFault o 2) })
  else if !s.isLocal o.pa then
    let (s, old) := s.outBytes o.size data
    match o.atomStep old with
    | .ok (_, got) => (s, { o with home := true, got := got })
    | .error f => (s, { o with home := true, bad := some f })
  else
    match s.badLine o o.pa o.size with
    | some f => (s, { o with home := true, bad := some f })
    | none =>
      let staged := if s.stages o then s.stagedOf o.launch else []
      let old := (s.readAs o.leaf o.pa o.size).zipIdx.map fun x => NMap.getD staged (localOf o.pa + x.2) x.1
      match o.atomStep old with
      | .error f => (s, { o with home := true, bad := some f })
      | .ok (new, got) =>
        let s := match new with
          | some bs => s.putHome o bs
          | none => s
        (s.dropSectors o.core o.pa o.size, { o with home := true, got := got })
/-- A leading strand's atomic under the grove's log (R462, R464): a logged one is not performed again, and one that differs from its entry ends the launch. -/
def State.atHomeTwin (s : State) (o : MemOp) (lead : Nat) (data : List Byte) : State × MemOp :=
  match s.strands.find? o.strand, s.twins.find? lead with
  | some t, some w =>
    match w.log.find? fun e => e.1 == t.pair && e.2.1 == t.nOrd with
    | some (_, _, fields, got) =>
      if fields == o.logFields then (s.forward o.strand got, { o with home := true, got := got })
      else
        let f := memFault 0x4003 o.va (fields.getD 2 0) (leNat o.data)
        (s.terminate o.launch (s.strandRec o.strand 2 3 o.core 0 o.pc f), { o with home := true })
    | none =>
      let n := t.nOrd
      let (s, o) := s.atHome o data
      let s := s.forward o.strand (if o.bad.isSome then [] else o.got)
      if o.bad.isSome then (s, o)
      else ({ s with twins := s.twins.adj lead fun w => { w with log := w.log ++ [(t.pair, n, o.logFields, o.got)] } }, o)
  | _, _ => s.atHome o data
/-- Trailing strands that wait for a forwarded result re-evaluate (R458, R462). -/
def State.fireFwd (s : State) (lead : Nat) : State :=
  match (s.twins.find? lead).bind fun w => s.groves.find? w.trail with
  | none => s
  | some g => s.fire g.core fun _ w => match w with
    | .fwd _ => true
    | _ => false
/-- An atomic, FFILL or FRESET is performed (R149, R458): by the trailing copy never, which takes the forwarded result. -/
def State.performAtomic (s : State) (o : MemOp) (data : List Byte) : State × MemOp :=
  if s.takesForward o then
    match s.forwarded? o with
    | some bs => (s, { o with home := true, got := bs, bad := if bs.isEmpty && o.ndst != 0 then some (memFault 0x1006 o.va 8 0xFFFF) else none })
    | none => (s, o)
  else
    match s.sideOf o.grove with
    | some (lead, false) =>
      let (s, o) := s.atHomeTwin o lead data
      (s.fireFwd lead, o)
    | _ => s.atHome o data
/-- The record of an operation with no result that meets bad memory or a malformed cell (R249, R422, R446); an engine's failure goes to its bulk operation; a staged node that met poison starts again (R469). -/
def State.recordFailed (s : State) (o : MemOp) (f : Flt) : State :=
  if o.isEng then (if o.kind == .load then s.engGot o ([], some f) else s.engFailed o f)
  else if o.isSignal then s.signalFails (s.opPart o) (o.fields.getD 4 0) o.va f.code else
  let poison := f.code == 0x1006
  let f := if f.code = 0x1006 then { f with code := 0x100C, d0 := 4, d1 := 0 } else if f.code = 0x1007 then { f with code := 0x100C, d0 := 8, d1 := 0 } else f
  let r := s.strandRec o.strand 2 2 o.core 0 o.pc f
  let s := s.logRec (if o.strand = 0 then { r with part := s.opPart o, launch := o.launch } else r)
  if poison && (s.launches.find? o.launch).elim false fun la => la.isStaged then s.restage o.launch 0x100C else s
/-- Replace an operation in flight. -/
def State.setOp (s : State) (o : MemOp) : State := { s with ops := s.ops.map fun p => if p.id = o.id then o else p }

/-! Stores (R151, R255, R258, R460, R467) -/

/-- A store of a copy of a twin grove enters its half of the compare buffer (R460). -/
def State.holdStore (s : State) (o : MemOp) (lead : Nat) (trailing : Bool) : State :=
  let e : Held := { strand := o.strand, va := o.va, pa := o.pa, leaf := o.leaf, data := o.data }
  { s with twins := s.twins.adj lead fun w => if trailing then { w with follow := w.follow ++ [e] } else { w with lead := w.lead ++ [e] } }
/-- Leading strands parked on slack are ready once it has fallen below its limit (R461). -/
def State.fireSlack (s : State) (lead : Nat) : State :=
  match s.groves.find? lead with
  | none => s
  | some g =>
    let lim := ((s.launches.find? g.launch).elim 1024 fun la => (s.part la.part).slack)
    let (n, b) := s.slack lead
    if n < lim && b < 64 * lim then
      s.fire g.core fun r w => w == .slack && (s.strands.find? r.strand).elim false fun t => t.grove == lead
    else s
/-- A held store has no room: the compare buffer's 1 MiB is used up, and so is the caldera (R404, R460). -/
def State.heldFull (s : State) (o : MemOp) : Bool :=
  match (s.sideOf o.grove).bind fun x => s.twins.find? x.1 with
  | none => false
  | some w => decide (2 ^ 20 < w.heldBytes + o.size) && !s.calRoom (s.opPart o) o.size
/-- Perform a store where it goes: one to another package was sent, and is performed there (R151). -/
def State.performStore (s : State) (o : MemOp) : State :=
  match s.sideOf o.grove with
  | some (lead, trailing) => s.holdStore o lead trailing
  | none =>
    if spaceOf o.pa == 3 then s.writeSpace3 (s.opPart o) o.pa o.data
    else if spaceOf o.pa == 2 || spaceOf o.pa == 4 then s.toHost o.pa o.data (o.isEng && fld o.leaf 8 8 == 0)
    else if !s.isLocal o.pa then (if s.noRoute o.pa && !o.sent then s.recordFailed o (outFault o 2) else s)
    else if s.tagFails o.leaf o.pa o.size then (if o.strand == 0 && o.grove == 0 then s else s.recordFailed o (memFault 0x1007 o.va (fld o.leaf 63 58) (o.pa % 2 ^ 52 / 64)))
    else if o.strand == 0 && o.grove == 0 then s.putHome o o.data
    else if o.isEng && !s.stages o then ((s.putHome o o.data).halfHeld o).writeThrough o.core o.pa o.data
    else (s.putHome o o.data).writeThrough o.core o.pa (if s.stages o then [] else o.data)

/-- Lines of a write that the host may hold under CXL (R328): the home waits for their back-invalidation snoops. -/
def State.snoopLines (s : State) (o : MemOp) : List Nat :=
  if !o.writes || s.stages o || s.takesForward o || (o.kind == .store && (s.sideOf o.grove).isSome) || o.home then [] else s.hostHolds o.pa o.size

/-! The events -/

/-- An operation in flight, ready to perform. -/
def State.readyOp (s : State) (id : Nat) : Option MemOp := (s.ops.find? fun o => o.id == id).bind fun o => if s.opReady o then some o else none
/-- The access is held at its source while its flow is broken (R443). -/
def State.flowHeld (s : State) (o : MemOp) : Bool :=
  !o.sent && s.remote o.pa && (s.link.flows.getD (txFlow (pkgOf o.pa) 0 (fld o.leaf 8 8)) Flow.reset).broken
/-- A trailing access has what it waits for (R458); no access is held by its flow. -/
def State.canGo (s : State) (o : MemOp) : Bool := (!(s.takesForward o) || (s.forwarded? o).isSome) && !s.flowHeld o
/-- The operation has a request to send, and a way for it. -/
def State.toSend (s : State) (o : MemOp) : Bool := s.asks o && !o.sent && !s.noRoute o.pa && !s.cutOff o.pa
/-- The request of an operation leaves (R162, R163, R334): now it has its place on its flow, and its time-out runs (R444). -/
def State.sendOp (s : State) (o : MemOp) : State × MemOp :=
  let (s, o) := s.takeOpid o
  let o := { o with sent := true, born := s.tick }
  ((s.sendRequest o).setOp o, o)
/-- An operation whose request has left, if it has one. -/
def State.onceSent (s : State) (o : MemOp) : State × MemOp := if s.toSend o then s.sendOp o else (s, o)

/-! Scratchpad accesses held in the memory pipeline (R29, R153, R254, R268, R270) -/

/-- What a held scratchpad access does at last: the state after, and the words it returns. -/
def State.spPerform (s : State) (c : Nat) (o : MemOp) (op : SpOp) (b : Buf) : State × List Word :=
  match op with
  | .load => (s, loadWords (s.spRead c o.grove b o.va (o.fields.headD 0)) o.sgn)
  | .store => (s.spStore1 c o.grove b o.va o.data, [])
  | .stat => (s, [BitVec.ofNat 32 (s.spStat c o.grove b o.va)])
  | .barinit => (s.barInit c o.grove o.va o.data, [])
  | .bararr => let (p, s) := s.arrive c o.grove o.va; (s, [BitVec.ofNat 32 p.toNat])
  | .ffill => let (p, s) := s.fill1 c o.grove o.va (BitVec.ofNat 64 (leNat o.data)); (s, [BitVec.ofNat 32 p.toNat])
  | .freset => (s.cellWrite c o.grove o.va o.data, [])
  | .alloc cls ar strict => let (s, off) := s.spAlloc c o.grove b cls ar strict (o.fields.headD 0); (s, [BitVec.ofNat 32 off])
  | .free => (s.spFree c o.grove b o.va, [])
  | .clear => (s.spClear c o.grove b o.va, [])
/-- A held allocation or clear needs a generation: the wrap sweep comes first when none is left (R133). -/
def State.spWaits (s : State) (c : Nat) (op : SpOp) : Bool :=
  match op with
  | .alloc _ _ _ | .clear => (s.core c).spSweep || (s.core c).nextSpGen.isNone
  | _ => false
/-- A held scratchpad access is performed on its grove's core, and what it returns lands (R153, R230). One that fails its checks at that moment (R397) fails its registers, or is recorded, as a failing global access is (DESIGN CHOICE, log 101). -/
def State.spLands (s : State) (o : MemOp) (op : SpOp) (b : Buf) : State :=
  match s.groves.find? o.grove with
  | none => s.opDone o
  | some g =>
    if !g.placed then s
    else if s.spWaits g.core op then s.startSpSweep g.core
    else
      match s.spRefuses g.core o.grove op b o.va (o.fields.headD 0) with
      | some f => (if o.ndst == 0 then s.recordFailed o f else s.failOp o f).opDone o
      | none =>
        let (s, ws) := s.spPerform g.core o op b
        (s.landOp o ws).opDone o
/-- The next granule of an SPRENEW is renewed (R268). -/
def State.renewNext (s : State) (o : MemOp) (b : Buf) : State :=
  match o.fields, s.groves.find? o.grove with
  | off :: t, some g => if g.placed then (s.renewGran g.core o.grove b off).setOp { o with fields := t } else s
  | _, _ => s.opDone o
/-- All granules of an SPRENEW that are left are renewed, and it is complete (R268). -/
def State.renewAll (s : State) (o : MemOp) (b : Buf) : State :=
  match s.groves.find? o.grove with
  | some g => if g.placed then (o.fields.foldl (fun s off => s.renewGran g.core o.grove b off) s).opDone o else s
  | none => s.opDone o

/-- A load's value, or the value of an atomic already performed, lands (R38, R151). -/
def State.landRes (s : State) (o : MemOp) (data : List Byte) (status : Nat) : State :=
  if o.kind == .load then s.landLoad o data status
    else if o.home && o.ndst != 0 then
      let s := if o.ord.isAcq then s.acquireOp o else s
      match (if status == 0 then o.bad else some (outFault o status)) with
      | some f => (s.failOp o f).opDone o
      | none => (s.landOp o (loadWords o.got false)).opDone o
    else s
/-- The result of an operation lands, its request having left (R38, R151); a held scratchpad access is performed. -/
def State.resultLands (s : State) (id : Nat) (data : List Byte) (status : Nat) : State :=
  match s.readyOp id with
  | none => s
  | some o =>
    match o.kind with
    | .sp op b => s.spLands o op b
    | _ => if s.canGo o then (s.onceSent o).1.landRes (s.onceSent o).2 data status else s
/-- RESULT_LANDING (R38): a load is performed and its value lands, or the value of an atomic lands; from outside the package with the bytes and the status given. -/
def execResultLanding (id : Nat) (data : List Byte) (status : Nat) (s : State) : Res := .next (s.resultLands id data status)
/-- The operation is an atomic, an FFILL or an FRESET. -/
def MemOp.atomicKind (o : MemOp) : Bool :=
  match o.kind with
  | .atomic _ _ | .cas _ | .ffill | .freset => true
  | _ => false
/-- The host egress has accepted a store whose CXL.cache access goes on (R151, R164): it is complete but for .sys releases. -/
def State.acceptStore (s : State) (o : MemOp) : State :=
  ((s.setOp { o with home := true }).modStrand o.strand fun t => t.complete o.id).fireCounter (s.coreNow o) o.strand
/-- A store, ATOMN or FRESET is performed and complete (R151); one that another package performs first leaves, and is complete once it has been performed there. -/
def State.storePerforms (s : State) (id : Nat) : State :=
  match s.readyOp id with
  | none => s
  | some o =>
    if o.cxlOpen then s.opDone o
    else if o.kind == .store && s.heldFull o then s.freezeAs o.core (s.opPart o) (2, o.id) o.launch (s.groveIdx o.grove) o.pc
    else if !(s.snoopLines o).isEmpty then s.snoop (s.snoopLines o)
    else if s.toSend o then (if s.canGo o then (s.sendOp o).1 else s)
    else if o.kind == .store then
      if s.flowHeld o then s
      else if s.host.cxl && s.host.linkUp && spaceOf o.pa == 2 && (s.sideOf o.grove).isNone then (s.performStore o).acceptStore o
      else
      let s := (s.performStore o).opDone o
      match s.sideOf o.grove with
      | some (lead, _) => s.fireSlack lead
      | none => s
    else if o.atomicKind && o.ndst == 0 && s.canGo o then
      let (s, o) := if o.home then (s, o) else s.performAtomic o []
      match o.bad with
      | some f => (s.recordFailed o f).opDone o
      | none => s.opDone o
    else s
/-- STORE_PERFORMED (R151): a store, ATOMN or FRESET is performed at its ordering point and its counter falls. -/
def execStorePerformed (id : Nat) (s : State) : Res := .next (s.storePerforms id)
/-- ATOMIC_AT_HOME (R149): an atomic or FFILL is performed at the home; the data is the old value where the home lies on another package. -/
def execAtomicAtHome (id : Nat) (data : List Byte) (s : State) : Res :=
  .next <|
    match s.readyOp id with
    | none => s
    | some o =>
      if !(s.snoopLines o).isEmpty then s.snoop (s.snoopLines o)
      else if o.atomicKind && !o.home && s.canGo o then
        let (s, o) := s.onceSent o
        let (s, o) := s.performAtomic o data
        s.setOp o
      else s
/-- SPRENEW_COMPLETE (R268): the renewal reaches its end. -/
def execSprenewComplete (id : Nat) (s : State) : Res :=
  .next <|
    match s.readyOp id with
    | some o => (match o.kind with
      | .renew b => s.renewAll o b
      | _ => s)
    | none => s
/-- Remove instruction-cache lines and park-map entries that overlap a range of a partition, on the cores of a scope instance (R275). -/
def State.dropCode (s : State) (sc : Scope) (core va len part : Nat) : State :=
  let rs := s.mappedRanges core part va len
  { s with cores := s.cores.map fun (x : Nat × Core) =>
      if sameInstance sc core x.1 then
        (x.1, { x.2 with
          l1i := x.2.l1i.filter fun y => !touches rs 128 y.1
          parkmaps := x.2.parkmaps.filter fun m => !(m.part == part && decide (m.lo < va + len ∧ va < m.hi)) })
      else x }
/-- The translations of given fields leave every TLB of a scope instance of a core (R276). -/
def State.tlbRemove (s : State) (sc : Scope) (core : Nat) (fields : List Nat) : State :=
  let keep := fun (es : List TlbEntry) => es.filter fun e => !tlbinvHits fields e
  { s with
    cores := s.cores.map fun (x : Nat × Core) => if sameInstance sc core x.1 then (x.1, { x.2 with tlb := keep x.2.tlb }) else x
    standTlbs := s.standTlbs.map fun (x : Nat × List TlbEntry) => if sameInstance sc core (8 * x.1) || standOf core == x.1 then (x.1, keep x.2) else x }
/-- The other packages of the domain, in the instance of a scope, that a message reaches (R140, R332). -/
def State.farPkgs (s : State) (sc : Scope) : List Nat :=
  if sc == .dom || sc == .sys then s.link.route.keys.filter fun n => n != s.pkg && !(s.routeTo n).isEmpty else []
/-- A removal tells the other packages of its instance on class 3 (R331), then waits until each has answered, and acts here (R275, R276); `fields` are its operands, followed by the packages that have still to answer. DESIGN CHOICE (log 101): a package with no live route is neither told nor awaited, and one whose route goes down is awaited no more. -/
def State.invalidate (s : State) (o : MemOp) (kind : Nat) (act : State → State) : State :=
  let far := s.farPkgs o.sc
  if !o.sent && !far.isEmpty && 3 ≤ o.fields.length then
    let s := far.foldl (fun s n => s.post n 3 1 (s.opPart o) kind 0 (leBytes 8 o.id ++ (o.fields.take 3).flatMap (leBytes 8))) s
    s.setOp { o with sent := true, fields := o.fields.take 3 ++ far }
  else if (o.fields.drop 3).any fun n => !(s.routeTo n).isEmpty then s
  else (act s).opDone o
/-- Another package has made the removal that an operation asked for. -/
def State.invAnswered (s : State) (id src : Nat) : State :=
  { s with ops := s.ops.map fun o => if o.id = id ∧ o.sent = true then { o with fields := o.fields.take 3 ++ (o.fields.drop 3).filter (· != src) } else o }
/-- CINV_COMPLETE (R275): the removal follows every store that happens before it, in every package of the instance. -/
def execCinvComplete (id : Nat) (s : State) : Res :=
  .next <|
    match s.readyOp id with
    | some o =>
      if o.kind == .cinv then s.invalidate o 12 fun s => match o.fields with
        | va :: len :: part :: _ => s.dropCode o.sc o.core va len part
        | _ => s
      else s
    | none => s
/-- TLBINV_COMPLETE (R276): every TLB of the instance has removed the entries. -/
def execTlbinvComplete (id : Nat) (s : State) : Res :=
  .next <|
    match s.readyOp id with
    | some o => if o.kind == .tlbinv then s.invalidate o 11 fun s => s.tlbRemove o.sc o.core (o.fields.take 3) else s
    | none => s

end Sys2Proof.Machine
end

