-- ==== Sys2Proof/Machine/Bulk.lean ====
section
/-! DEFINITION. The bulk engine at work (R114, R156 to R158, R279 to R289, R419, R423, R424, R436). -/
namespace Sys2Proof.Machine

/-- The status bits of R283. -/
inductive Bit
  | xlat | perm | pois | intg | stal | bnds | link | cole
  deriving DecidableEq, Repr
/-- The value of a status bit. -/
def Bit.num : Bit → Nat
  | .xlat => 1
  | .perm => 2
  | .pois => 4
  | .intg => 8
  | .stal => 16
  | .bnds => 32
  | .link => 64
  | .cole => 128
/-- An engine's access of a part: where it goes, a page to wait for, or the failure with its record's fault (R114, R423). -/
inductive Eng
  | ok (pa : Nat) (leaf : DWord)
  | hold (page : Nat)
  | bad (b : Bit) (f : Flt)
  deriving DecidableEq, Repr
/-- The fault of a failing part of an engine operation (R417: 0x100C). -/
def engFault (b : Bit) (akind addr : Nat) : Flt := { code := 0x100C, akind := akind, addr := addr, gen := 0, d0 := b.num, d1 := 0 }
/-- The partition a bulk operation acts for. -/
def State.bulkPart (s : State) (o : BulkOp) : Nat := ((s.groves.find? o.grove).bind fun g => s.launches.find? g.launch).elim 0 fun la => la.part
/-- The launch a bulk operation acts for. -/
def State.bulkLaunch (s : State) (o : BulkOp) : Nat := (s.groves.find? o.grove).elim 0 fun g => g.launch
/-- The checks of an engine's access on a leaf: permission, the spaces it may use, the access table (R285, R289, R429). -/
def State.engLeaf (s : State) (part va len : Nat) (w : Bool) (spaces : List Nat) (e : TlbEntry) : Eng :=
  let sp := fld e.leaf 51 49
  let bad := .bad .perm (engFault .perm 1 va)
  if fld e.leaf (if w then 4 else 3) (if w then 4 else 3) == 0 || fld e.leaf 57 54 != part || !spaces.contains sp || s.spaceOff sp then bad
  else if (s.accessReason part (s.ownPa (e.pa va)) len (if w then .write else .read) (fld e.leaf 63 58)).isSome then bad
  else .ok (s.ownPa (e.pa va)) e.leaf
/-- An engine's access of a part that lies in one page (R114): it waits for a walk that fails until the driver has answered it; refused, the access that was held fails, whatever the page has become by then, and later ones walk anew (R428). -/
def State.engAt (s : State) (o : BulkOp) (va len : Nat) (w : Bool) (spaces : List Nat) : Eng :=
  let part := s.bulkPart o
  let page := va % 2 ^ 57 / 2 ^ 17
  if !canonical va then .bad .xlat (engFault .xlat 1 va)
  else if o.refused.contains page then .bad .xlat (engFault .xlat 1 va)
  else
    match s.tlbFind o.core part va with
    | some e => s.engLeaf part va len w spaces e
    | none =>
      if s.walking o.core part page then .hold page
      else
        match s.walkVa part va with
        | .ok e => s.engLeaf part va len w spaces e
        | .error _ => .hold page
/-- What a read of a part gives: its bytes, a page to wait for, a request to another package or the host to wait for, or the failure. -/
inductive EngRead
  | ok (bs : List Byte)
  | hold (page : Nat)
  | wait (va pa : Nat) (leaf : DWord) (len : Nat)
  | bad (b : Bit) (f : Flt)
  deriving DecidableEq, Repr
/-- What a read outside the package has brought (R423, R436, R444, R449). -/
def EngRead.ofGot (va : Nat) (r : List Byte × Option Flt) : EngRead :=
  match r.2 with
  | none => .ok r.1
  | some f => if f.code = 0x1006 then .bad .pois (engFault .pois 1 va) else .bad .link f
/-- Read one part within a 64-byte line from memory, past the L1, under the copy's held stores and the node's staged bytes (R156, R423, R424); from outside the package, what the request for it has brought. -/
def State.engReadLine (s : State) (o : BulkOp) (va len : Nat) (spaces : List Nat) : EngRead :=
  match s.engAt o va len false spaces with
  | .hold p => .hold p
  | .bad b f => .bad b f
  | .ok pa leaf =>
    if s.isLocal pa then
      if (s.poisonAt pa len).isSome then .bad .pois (engFault .pois 1 va)
      else if s.tagFails leaf pa len then .bad .intg (engFault .intg 1 va)
      else .ok (s.viewMem o.grove (s.bulkLaunch o) leaf pa len)
    else if spaceOf pa == 0 then .bad .pois (engFault .pois 1 va)
    else
      match o.got.find? (128 * va + len) with
      | some r => .ofGot va r
      | none =>
        if s.outStatus pa 0 != 0 then .bad .link (outFault (s.unitOp .load o.grove 0 o.core va pa leaf len) (s.outStatus pa 0))
        else .wait va pa leaf len
/-- The parts of a range, a line each, in ascending order: what the read of each gives. -/
def State.engParts (s : State) (o : BulkOp) (spaces : List Nat) : Nat → Nat → Nat → List EngRead
  | 0, _, _ => []
  | fuel + 1, va, len =>
    if len == 0 then []
    else
      let n := min len (64 - va % 64)
      s.engReadLine o va n spaces :: State.engParts s o spaces fuel ((va + n) % 2 ^ 64) (len - n)
/-- Parts as one: the first that does not give its bytes decides (R285). -/
def joinReads : List EngRead → EngRead
  | [] => .ok []
  | .ok bs :: t =>
    match joinReads t with
    | .ok cs => .ok (bs ++ cs)
    | r => r
  | r :: _ => r
/-- Read a range as one. -/
def State.engRead (s : State) (o : BulkOp) (spaces : List Nat) (fuel va len : Nat) : EngRead := joinReads (s.engParts o spaces fuel va len)
/-- Replace a bulk operation in its queue. -/
def State.setBulk (s : State) (o : BulkOp) : State := s.modCore o.core fun k => { k with bulkQ := k.bulkQ.map fun p => if p.id = o.id then o else p }
/-- A part of an operation fails with a bit of R283. -/
def BulkOp.fail (o : BulkOp) (b : Bit) (f : Flt) : BulkOp := o.failed b.num f
/-- An engine that misses holds its operation on the page's walk (R114). -/
def State.engHold (s : State) (o : BulkOp) (page : Nat) : State := (s.setBulk { o with started := true, hold := some page }).joinWalk o.core (some (.xlat (s.bulkPart o) page (page * 2 ^ 17)))
/-- No eviction of the grove is in progress (R319). -/
def State.groveStays (s : State) (grove : Nat) : Bool := (s.groves.find? grove).elim true fun g => g.placed && g.evicting.isNone
/-- Everything the operation must follow is complete (R156, R157). -/
def State.bulkReady (s : State) (o : BulkOp) : Bool := o.after.all fun i => !s.flying i
/-- A bulk operation of a core whose own work is not over. -/
def State.bulk? (s : State) (core id : Nat) : Option BulkOp := (s.core core).bulkQ.find? fun o => o.id == id && !o.done
/-- The accesses of an operation outside the package that are on their way: a sector write that the host egress has accepted is on its way no more (R157). -/
def State.engOps (s : State) (o : BulkOp) : List MemOp := s.ops.filter fun p => p.isEng && p.grove == o.grove && p.fields.headD 0 == o.id && !p.cxlOpen
/-- The request for a part outside the package leaves, once (R156, R162, R326). -/
def State.engAsk (s : State) (o : BulkOp) (va pa : Nat) (leaf : DWord) (len : Nat) : State :=
  if (s.engOps o).any fun p => p.kind == .load && p.va == va && p.size == len then s
  else (s.setBulk { o with started := true, hold := none }).pushUnit { s.unitOp .load o.grove (s.bulkLaunch o) o.core va pa leaf len with fields := [o.id] }
/-- Bytes or a status that an event brings for the part asked for. -/
def State.engAnswer (s : State) (o : BulkOp) (va len : Nat) (data : List Byte) (status : Nat) : State :=
  match (s.engOps o).find? fun p => p.kind == .load && p.va == va && p.size == len with
  | some p => if data.isEmpty && status == 0 then s else s.resultLands p.id (data.take len) status
  | none => s
/-- The operation's own work is over: its record, its tag's count, and, for a staged node that met poison, the node's restart (R282, R423, R469). Its entry stays until its group ends (R281). -/
def State.bulkEnd (s : State) (o : BulkOp) : State :=
  let launch := s.bulkLaunch o
  let s := match o.first with
    | none => s
    | some f =>
      let f := if f.code = 0x100C then { f with d1 := o.tag + o.fails * 2 ^ 32 } else f
      let r := s.strandRec o.strand 2 2 (0x1000 + o.core) 0 o.pc f
      s.logRec { r with launch := launch, part := s.bulkPart o, grove := (s.groves.find? o.grove).elim 0 fun g => g.idx, strand := o.index }
  let staged := (s.launches.find? launch).elim false fun la => la.isStaged
  let s := (s.setBulk { o with done := true, hold := none, acc := [], got := [] }).finishTag o.core o.grove o.tag o.stat
  if staged && bitN o.stat 2 then s.restage launch 0x100C else s

/-! BREAD (R44, R284 to R287) -/

/-- Burst seq of a BREAD (R285): row, column, bytes, address. -/
def BulkOp.burst (o : BulkOp) (seq : Nat) : Nat × Nat × Nat × Nat :=
  let rb := getLe o.desc 0x10 4
  let nb := (rb + 63) / 64
  let (r, c) := (seq / nb, 64 * (seq % nb))
  (r, c, min 64 (rb - c), (getLe o.desc 0 8 + r * getLe o.desc 8 8 + c) % 2 ^ 64)
/-- A burst is done (R285): its read failed, or its handler strand has ended, with what it had in flight (R156). -/
def State.burstDone (s : State) (b : BurstSt) : Bool :=
  match b with
  | .done => true
  | .handler t => (s.strands.find? t).isNone && !(s.ops.any fun p => p.of t && !p.cxlOpen)
  | .idle | .reading => false
/-- A BREAD whose bursts are all done (R285). -/
def State.readDone (s : State) (o : BulkOp) : Bool := o.bursts.length == burstCount o.desc && o.bursts.all fun x => s.burstDone x.2
/-- The spaces that burst reads and copies may use (R285, R289). -/
def readSpaces : List Nat := [0, 1, 2]
/-- A burst is done at once, with its bit (R285). -/
def State.burstFails (s : State) (o : BulkOp) (seq : Nat) (b : Bit) (f : Flt) : State :=
  s.setBulk ({ o with started := true, hold := none, bursts := o.bursts.put seq .done }.fail b f)
/-- The bytes of the records that the bursts being read on a core will take, of a partition or of all (R287). -/
def State.burstsComing (s : State) (core : Nat) (p : Option Nat) : List Nat :=
  List.replicate (((s.core core).bulkQ.filter fun o => p.elim true fun p => s.bulkPart o == p).foldl (fun a o => a + (o.bursts.filter fun b => b.2 == .reading).length) 0) 128
/-- The operation reads its next burst when the record store can take its record (R114, R156, R287, R404, R405). -/
def State.burstStart (s : State) (core id : Nat) : State :=
  match s.bulk? core id with
  | none => s
  | some o =>
    let seq := o.bursts.length
    let part := s.bulkPart o
    if o.kind != .read || seq == burstCount o.desc || !s.bulkReady o || !s.groveStays o.grove || (s.part part).frozen || decide (458752 < s.storeBytes core + 128 * (s.burstsComing core none).length) || !s.hasTurn part (1, o.id) then s
    else if !s.recRoom core part (128 :: s.burstsComing core (some part)) then s.freezeAs core part (1, o.id) (s.bulkLaunch o) (s.groveIdx o.grove) o.pc
    else
      let s := s.tookTurn part (1, o.id)
      let (_, _, len, va) := o.burst seq
      let last := (va + len - 1) % 2 ^ 64
      match s.engAt o va (min len (64 - va % 64)) false readSpaces, s.engAt o last 1 false readSpaces with
      | .hold p, _ => s.engHold o p
      | .bad b f, _ => s.burstFails o seq b f
      | _, .hold p => s.engHold o p
      | _, .bad b f => s.burstFails o seq b f
      | .ok _ _, .ok _ _ => s.setBulk { o with started := true, hold := none, bursts := o.bursts.put seq .reading }
/-- BURST_READ_START (R287). -/
def execBurstReadStart (core id : Nat) (s : State) : Res := .next (s.burstStart core id)
/-- The handler record of a burst that was read (R37, R44). -/
def State.burstBorn (s : State) (o : BulkOp) (seq : Nat) (bs : List Byte) : State :=
  let (t, s) := s.fresh
  let launch := s.bulkLaunch o
  let la := s.launches.find? launch
  let (row, col, len, _) := o.burst seq
  let strand : Strand :=
    { launch := launch, grove := o.grove, stage := o.stage, index := o.index,
      burst := some { row := row, col := col, bseq := seq, len := len, op := o.opid, ctx := o.ctx },
      out := [], befStore := [], befAll := [], core := o.core, path := o.path ++ [1, o.ordinal, seq], nOrd := 0, nSpawn := 0, nBread := 0,
      sig := 0, nStores := 0 }
  let s := { s with strands := s.strands.put t strand }.setBulk { o with hold := none, bursts := o.bursts.put seq (.handler t) }
  let data := padTo 64 bs
  let pc := BitVec.ofNat 48 ((la.elim 0 fun la => la.pkt.codeVa) + getLe o.desc 0x18 4)
  s.addRecord o.core
    { strand := t, launch := launch, stage := o.stage, hx := true, pc := pc, preds := 0, repc := 0,
      regs := (List.range 16).map fun i => (i, BitVec.ofNat 32 (getLe data (4 * i) 4)), contig := true, pend := [], wait := none, widx := none,
      held := la.elim false fun la => la.holds o.stage true, fwd := false, provisional := false, spilled := false, page := 0, tick := s.tick, origin := pc,
      poison := [], err := none, set := 0, after := [] }
/-- What the reads outside the package brought for a range is used up. -/
def BulkOp.use (o : BulkOp) (va len : Nat) : BulkOp := { o with got := o.got.filter fun x => !decide (va ≤ x.1 / 128 ∧ x.1 / 128 < va + len) }
/-- A burst that was being read returns: it becomes a handler record, or is done with its bit (R285, R423); outside the package it is asked for first. -/
def State.burstReturn (s : State) (core id seq : Nat) (data : List Byte) (status : Nat) : State :=
  match s.bulk? core id with
  | none => s
  | some o =>
    if o.bursts.find? seq != some .reading then s
    else
      let (_, _, len, va) := o.burst seq
      match s.engRead o readSpaces 3 va len with
      | .ok bs => s.burstBorn (o.use va len) seq bs
      | .bad b f => s.burstFails (o.use va len) seq b f
      | .hold p => s.engHold o p
      | .wait v pa leaf n => (s.engAsk o v pa leaf n).engAnswer o v n (data.drop (v - va)) status
/-- BURST_RETURN (R285). -/
def execBurstReturn (core id seq : Nat) (data : List Byte) (status : Nat) (s : State) : Res := .next (s.burstReturn core id seq data status)

/-! BWRITE, BCOPY, BFILL, BDIGEST (R157, R288, R289) -/

/-- The status bit of a refused scratchpad read (R283). -/
def spBit (f : Flt) : Bit := if f.code = 0x0007 then .bnds else if f.code = 0x1006 then .pois else .stal
/-- A 32-byte source of BWRITE in a scratchpad (R127, R289). -/
def State.engSp (s : State) (o : BulkOp) (b : Buf) (off : Nat) : EngRead :=
  match s.spCheck o.core o.grove b off 32 32 true with
  | some f => .bad (spBit f) (engFault (spBit f) (3 + b.code) off)
  | none => .ok (s.spRead o.core o.grove b off 32)
/-- How many parts an operation has: sectors of 32 bytes, or blocks of 128 of a digest (R289, R319). -/
def BulkOp.parts (o : BulkOp) : Nat :=
  match o.kind with
  | .read => 0
  | .write => getLe o.desc 0x14 4 * (getLe o.desc 0x10 4 / 32)
  | .copy => getLe o.desc 0x10 8 / 32
  | .fill => getLe o.desc 8 8 / 32
  | .digest => (getLe o.desc 8 8 + 127) / 128
/-- Sector n of an operation: its destination VA and what its source gives (R289). -/
def State.sectorAt (s : State) (o : BulkOp) (n : Nat) : Nat × EngRead :=
  let d := o.desc
  match o.kind with
  | .write =>
    let rb := getLe d 0x10 4
    let pitch := if getLe d 0x1E 2 == 0 then rb else 32 * getLe d 0x1E 2
    let (r, k) := (n / (rb / 32), n % (rb / 32))
    ((getLe d 0 8 + r * getLe d 8 8 + 32 * k) % 2 ^ 64, s.engSp o (Buf.dec (getLe d 0x1C 2)) (getLe d 0x18 4 + r * pitch + 32 * k))
  | .copy => ((getLe d 0 8 + 32 * n) % 2 ^ 64, s.engRead o readSpaces 2 ((getLe d 8 8 + 32 * n) % 2 ^ 64) 32)
  | .fill =>
    let p := leBytes 8 (getLe d 0x10 8)
    ((getLe d 0 8 + 32 * n) % 2 ^ 64, .ok (p ++ p ++ p ++ p))
  | .read | .digest => (0, .ok [])
/-- The writing strand's twin signature takes a sector write (R459). -/
def State.foldSector (s : State) (o : BulkOp) (va : Nat) (bs : List Byte) : State :=
  s.modStrand o.strand fun t => { t with sig := crc64 t.sig (leBytes 8 va ++ [BitVec.ofNat 8 bs.length] ++ bs), nStores := t.nStores + 1 }
/-- The sectors of 32 bytes of a write. -/
def sectors32 (va : Nat) (bs : List Byte) : List (Nat × List Byte) := (List.range (bs.length / 32)).map fun i => (va + 32 * i, (bs.drop (32 * i)).take 32)
/-- A twin copy's sector writes enter its half of the compare buffer (R459, R460). -/
def State.holdSectors (s : State) (o : BulkOp) (lead : Nat) (trailing : Bool) (va pa : Nat) (leaf : DWord) (bs : List Byte) : State :=
  (sectors32 va bs).foldl (fun s x =>
    let e : Held := { strand := o.strand, va := x.1, pa := pa + (x.1 - va), leaf := leaf, data := x.2 }
    { (s.foldSector o x.1 x.2) with twins := s.twins.adj lead fun w => if trailing then { w with follow := w.follow ++ [e] } else { w with lead := w.lead ++ [e] } }) s
/-- A sector write to local memory is performed, staged, or waits for the host to give up its line (R157, R328, R467). -/
def State.localSector (s : State) (o : BulkOp) (va pa : Nat) (leaf : DWord) (bs : List Byte) : State × BulkOp :=
  let launch := s.bulkLaunch o
  let staged := (s.launches.find? launch).elim false (fun la => la.isStaged) && fld leaf 7 7 == 1
  let held := !(s.hostHolds pa bs.length).isEmpty
  let s :=
    if staged then s.stage launch pa leaf bs
    else if held then s.pushStore o.grove launch o.core va pa leaf bs [] [o.id]
    else if s.populated pa then s.keyedWrite leaf pa bs
    else s
  let x := if staged || held then (s, o) else s.halfLine o pa bs.length
  (x.1.dropSectors o.core pa bs.length, x.2)
/-- Perform a sector write, send it where it goes, or fail with its bit (R157, R289, R424, R460, R467). -/
def State.sectorWrite (s : State) (o : BulkOp) (va pa : Nat) (leaf : DWord) (bs : List Byte) : State × BulkOp :=
  match s.sideOf o.grove with
  | some (lead, trailing) => (s.holdSectors o lead trailing va pa leaf bs, o)
  | none =>
    if s.isLocal pa then
      if s.tagFails leaf pa bs.length && decide (bs.length < 64) then (s, o.fail .intg (engFault .intg 1 va))
      else s.localSector o va pa leaf bs
    else if s.outStatus pa 0 != 0 then (s, o.fail .link (outFault (s.unitOp .store o.grove 0 o.core va pa leaf bs.length) (s.outStatus pa 0)))
    else
      let id := s.seq
      let s := s.pushStore o.grove (s.bulkLaunch o) o.core va pa leaf bs [] [o.id]
      (if s.remote pa then s else s.storePerforms id, o)
/-- Parts of an operation are done. -/
def BulkOp.on (o : BulkOp) (n : Nat) : BulkOp := { o with started := true, hold := none, prog := o.prog + n, got := [] }
/-- The bytes of a part, or of two that cover a line, go to their destination (R289, R419); without room for a held store the partition freezes (R404, R460). Answers whether the operation goes on at once. -/
def State.putSectors (s : State) (o : BulkOp) (va : Nat) (bs : List Byte) : State × Bool :=
  match s.engAt o va bs.length true readSpaces with
  | .hold p => (s.engHold o p, false)
  | .bad b f => (s.setBulk ((o.on 1).fail b f), true)
  | .ok pa leaf =>
    let held := { s.unitOp .store o.grove (s.bulkLaunch o) o.core va pa leaf bs.length with data := bs }
    if s.heldFull held then (s.freezeAs o.core (s.bulkPart o) (1, o.id) (s.bulkLaunch o) (s.groveIdx o.grove) o.pc, false)
    else
      let (s, o) := (s.tookTurn (s.bulkPart o) (1, o.id)).sectorWrite (o.on (bs.length / 32)) va pa leaf bs
      (s.setBulk o, true)
/-- A source that does not give its bytes: the operation waits, or the part fails (R114, R289). -/
def State.partStops (s : State) (o : BulkOp) (r : EngRead) (data : List Byte) (status : Nat) : State × Bool :=
  match r with
  | .ok _ => (s, false)
  | .hold p => (s.engHold o p, false)
  | .wait va pa leaf n =>
    let t := (s.engAsk o va pa leaf n).engAnswer o va n data status
    (t, (t.bulk? o.core o.id).elim false fun p => p.got != o.got)
  | .bad b f => (s.setBulk ((o.on 1).fail b f), true)
/-- The next sector of an operation, with the one after it where the two cover a line (R289, R419). -/
def State.sectorStep (s : State) (o : BulkOp) (data : List Byte) (status : Nat) : State × Bool :=
  let (va, r) := s.sectorAt o o.prog
  let next := s.sectorAt o (o.prog + 1)
  let paired := va % 64 == 0 && decide (o.prog + 1 < o.parts) && next.1 == va + 32
  match r with
  | .ok bs =>
    match paired, next.2 with
    | true, .ok cs => s.putSectors o va (bs ++ cs)
    | true, .hold p => (s.engHold o p, false)
    | true, .wait v pa leaf n => s.partStops o (.wait v pa leaf n) (data.drop (32 * (o.prog + 1))) status
    | _, _ => s.putSectors o va bs
  | r => s.partStops o r (data.drop (32 * o.prog)) status
/-- The failures of a list of parts go into an operation (R289, R423). -/
def BulkOp.failAll (o : BulkOp) (rs : List EngRead) : BulkOp :=
  rs.foldl (fun o r => match r with
    | .bad b f => o.fail b f
    | _ => o) o
/-- The next 128 bytes of a digest's message are read; each failing part sets its bit (R289, R319). -/
def State.digestStep (s : State) (o : BulkOp) (data : List Byte) (status : Nat) : State × Bool :=
  let src := getLe o.desc 0 8
  let va := (src + 128 * o.prog) % 2 ^ 64
  let rs := s.engParts o [0, 1] 4 va (min 128 (getLe o.desc 8 8 - 128 * o.prog))
  match rs.find? fun r => match r with
    | .hold _ | .wait _ _ _ _ => true
    | _ => false with
  | some (.wait v pa leaf n) => s.partStops o (.wait v pa leaf n) (data.drop ((v + 2 ^ 64 - src) % 2 ^ 64)) status
  | some r => s.partStops o r [] 0
  | none =>
    let o := (o.on 1).failAll rs
    match joinReads rs with
    | .ok bs => (s.setBulk { o with acc := o.acc ++ bs }, true)
    | _ => (s.setBulk o, true)
/-- The digest is written by sp_write, unless a part failed (R289, R423). -/
def State.digestEnd (s : State) (o : BulkOp) : State :=
  let off := getLe o.desc 0x10 4
  if o.fails != 0 then s.bulkEnd o
  else
    match s.spCheck o.core o.grove .a off 64 64 false with
    | some _ => s.bulkEnd (o.fail .bnds (engFault .bnds 4 off))
    | none => ((s.spWrite o.core o.grove .a off (sha512 o.acc)).fireGran o.core o.grove off 64).bulkEnd o
/-- All parts are done: the operation's own work is over once nothing of it is on its way (R157, R285). -/
def State.bulkClose (s : State) (o : BulkOp) : State :=
  if !(s.engOps o).isEmpty then s
  else
    match o.kind with
    | .read => if s.readDone o then s.bulkEnd o else s
    | .digest => s.digestEnd o
    | .write | .copy | .fill => s.bulkEnd o
/-- One part of a bulk operation, or its end (R157, R289); while its grove is evicted it stops between parts (R319). Answers whether it goes on at once. -/
def State.bulkStep (s : State) (o : BulkOp) (data : List Byte) (status : Nat) : State × Bool :=
  if !s.bulkReady o || !s.groveStays o.grove then (s, false)
  else if o.parts ≤ o.prog then (s.bulkClose o, false)
  else if o.kind = .digest then s.digestStep o data status
  else s.sectorStep o data status
/-- One part of a bulk operation of a core. -/
def State.bulkTurn (s : State) (core id : Nat) : State := (s.bulk? core id).elim s fun o => (s.bulkStep o [] 0).1
/-- The parts of a bulk operation that are left, one after another. -/
def State.bulkRun (s : State) (core id : Nat) (data : List Byte) (status : Nat) : Nat → State
  | 0 => s
  | fuel + 1 =>
    match s.bulk? core id with
    | none => s
    | some o =>
      match s.bulkStep o data status with
      | (s, true) => State.bulkRun s core id data status fuel
      | (s, false) => s
/-- A bulk operation does its work and ends as far as it can (R157, R282, R285, R289). -/
def State.bulkComplete (s : State) (core id : Nat) (data : List Byte) (status : Nat) : State :=
  s.bulkRun core id data status ((s.bulk? core id).elim 0 fun o => 4 * o.parts + 2)
/-- BULK_OP_COMPLETE (R157): a bulk operation does its work and sets its tag; a BREAD does when every burst is done. Data and a status answer its requests outside the package. -/
def execBulkOpComplete (core id : Nat) (data : List Byte) (status : Nat) (s : State) : Res := .next (s.bulkComplete core id data status)

end Sys2Proof.Machine
end

