-- ==== Sys2Proof/Machine/Coll.lean ====
section
/-! DEFINITION. Collectives on a member (R106, R161, R300, R301, R336, R447): the fixed tree, the combination of elements, failures and the fence. -/
namespace Sys2Proof.Machine

/-! The tree (R336) -/

/-- The steps j of the tree of P members, j = 0, 1, … while 2^j < P. -/
def treeSteps (p : Nat) : List Nat := (List.range 9).filter fun j => decide (2 ^ j < p)
/-- The ranks that rank k receives from on the way up, in the order of the steps, and sends to on the way down in reverse. -/
def treeKids (p k : Nat) : List Nat := ((treeSteps p).filter fun j => k % 2 ^ (j + 1) == 0 && decide (k + 2 ^ j < p)).map fun j => k + 2 ^ j
/-- The rank that rank k sends to on the way up. -/
def treeParent (p k : Nat) : Option Nat := ((treeSteps p).find? fun j => k % 2 ^ (j + 1) == 2 ^ j).map fun j => k - 2 ^ j
/-- The fields of a collective's block: OP, TYPE, RED, COUNT. -/
def CollOp.op (o : CollOp) : Nat := getLe o.block 0 1
/-- TYPE of a collective. -/
def CollOp.ty (o : CollOp) : Nat := getLe o.block 1 1
/-- COUNT of a collective. -/
def CollOp.count (o : CollOp) : Nat := getLe o.block 0x10 8
/-- The bytes of one member's slice: the elements, and for MXFP8 the scales after them (R300). -/
def CollOp.slice (o : CollOp) : Nat := o.count * collElem o.ty + if o.ty == 3 then o.count / 32 else 0
/-- This member's rank on a communicator. -/
def State.myRank (s : State) (comm : Nat) : Nat := (s.members comm).idxOf s.pkg
/-- The rank of ROOT. -/
def State.rootRank (s : State) (o : CollOp) : Nat := (s.members o.comm).idxOf (getLe o.block 0x18 2)
/-- The key under which an agreement of a rank is kept: it brings no share. -/
def agreed (rank : Nat) : Nat := 256 + rank
/-- The key of the member's own share. -/
def ownKey : Nat := 512
/-- What must come up to this member before it sends its own (R336): the shares of its kids; of a broadcast, only that their parameters agree (DEDUCED, log 97). -/
def State.upFrom (s : State) (o : CollOp) : List Nat :=
  (treeKids (s.members o.comm).length (s.myRank o.comm)).map fun k => if o.op == 2 then agreed k else k
/-- What must come to this member before it can end (R336): the result; for a reduce the agreement of all, which every member passes down, and at ROOT the result from rank 0. -/
def State.downFrom (s : State) (o : CollOp) : List Nat :=
  let k := s.myRank o.comm
  let r := s.rootRank o
  let parent := (treeParent (s.members o.comm).length k).toList
  if o.op == 1 then parent.map agreed ++ (if k == r && r != 0 then [0] else [])
  else if o.op == 2 && k == 0 then (if r != 0 then [r] else [])
  else parent
/-- A member holds the result in the end (R301). -/
def State.takesResult (s : State) (o : CollOp) : Bool := o.op != 1 || s.myRank o.comm == s.rootRank o

/-! Combination (R95, R106, R301) -/

/-- Two elements of a type combined, the lower rank on the left. -/
def combine1 (ty red x y : Nat) : Nat :=
  let fp := fun (F : FP) =>
    let a := F.decode x
    let b := F.decode y
    F.round .rn false (if red == 0 then a.add .rn b else if red == 1 then a.maxNum b else a.minNum b)
  if ty == 0 then fp fp32
  else if ty == 1 then fp bf16
  else
    let i := sOf 32 x
    let j := sOf 32 y
    if red == 0 then (x + y) % 2 ^ 32 else if red == 1 then (if i ≤ j then y else x) else (if i ≤ j then x else y)
/-- A block of 32 E4M3 codes with its E8M0 scale combined with another (R106). -/
def combineMx (x y : List Nat × Nat) : List Nat × Nat :=
  let deq := fun (b : List Nat × Nat) => b.1.map fun c => f32 (roundF32 .rn ((decodeE8M0 b.2).mul (e4m3.decode c)))
  let sum := ((deq x).zip (deq y)).map fun p => f32 (roundF32 .rn (p.1.add .rn p.2))
  let (c, q) := quantBlock .e4m3 .e8m0 .rn true sum
  (q, c)
/-- Elements of k bytes. -/
def elemsOf (k : Nat) (bs : List Byte) : List Nat := (List.range (bs.length / k)).map fun i => getLe bs (k * i) k
/-- One hop's combination of two shares, the lower rank on the left; an all-gather concatenates (R336). -/
def CollOp.combine (o : CollOp) (x y : List Byte) : List Byte :=
  if o.op == 3 then x ++ y
  else if o.ty == 3 then
    let n := o.count
    let block := fun (bs : List Byte) (i : Nat) => ((List.range 32).map (fun e => getLe bs (32 * i + e) 1), getLe bs (n + i) 1)
    let out := (List.range (n / 32)).map fun i => combineMx (block x i) (block y i)
    (out.flatMap fun b => b.1.flatMap (leBytes 1)) ++ out.flatMap fun b => leBytes 1 b.2
  else
    let k := collElem o.ty
    ((elemsOf k x).zip (elemsOf k y)).flatMap fun p => leBytes k (combine1 o.ty (getLe o.block 2 1) p.1 p.2)

/-! Messages (R336, R447) -/

/-- The partition of a collective. -/
def State.collPart (s : State) (o : CollOp) : Nat := ((s.groves.find? o.grove).bind fun g => s.launches.find? g.launch).elim 0 fun la => la.part
/-- The parameters that members must agree in (R301): OP, TYPE, RED, COUNT, ROOT. They head every hop. -/
def CollOp.head (o : CollOp) : List Byte := o.block.take 3 ++ (o.block.drop 0x10).take 10
/-- A share of one byte stands for the agreement of parameters alone: no share has that size. -/
def agreeMark : List Byte := [1]
/-- The pieces of at most 232 bytes that a hop's bytes travel in, with their offsets (log 34). -/
def pieces (bs : List Byte) : List (Nat × List Byte) := (List.range ((bs.length + 231) / 232)).map fun i => (232 * i, (bs.drop (232 * i)).take 232)
/-- A collective whose own work is not over. -/
def State.coll? (s : State) (id : Nat) : Option CollOp := s.link.colls.find? fun o => o.id == id && !o.done
/-- Replace a collective. -/
def State.setColl (s : State) (o : CollOp) : State := { s with link := { s.link with colls := s.link.colls.map fun p => if p.id = o.id then o else p } }
/-- A collective's own work is over, with status bits (R282); its entry stays until its group ends (R281). -/
def State.collEnd (s : State) (o : CollOp) (bits : Nat) : State :=
  (s.setColl { o with done := true, hops := [] }).finishTag o.core o.grove o.tag bits
/-- The partition that uses a communicator (R335). -/
def State.commPart (s : State) (comm : Nat) : Nat := getLe (s.commEntry comm) 0x20 1 % 16
/-- The bits of a reason (R447). -/
def collBits (reason : Nat) : Nat := if reason == 2 || reason == 3 then 0xC0 else if reason == 4 then 0x84 else 0x80
/-- The record of a failed collective (R447). -/
def State.collRec (s : State) (comm launch n reason : Nat) : State :=
  let p := s.commPart comm
  s.log p { (sysRec 2 2 0x3009 0x3000 p 0 0 (comm + 256 * reason) n) with launch := launch }
/-- The communicator fails on this member (R447): its oldest collective ends with the reason, later ones as on a fenced communicator, and it is fenced. -/
def State.commFail (s : State) (comm reason : Nat) : State :=
  let ops := s.link.colls.filter fun o => o.comm == comm && !o.done
  let launchOf := fun (s : State) (o : CollOp) => (s.groves.find? o.grove).elim 0 fun g => g.launch
  let again := s.link.fenced.contains comm
  let s := { s with link := { s.link with fenced := if again then s.link.fenced else s.link.fenced ++ [comm] } }
  match ops with
  | [] => if again then s else s.collRec comm 0 (s.link.commCount.getD comm 0) reason
  | o :: t =>
    let s := (s.collRec comm (launchOf s o) o.ordinal reason).collEnd o (collBits reason)
    t.foldl (fun s o => (s.collRec comm (launchOf s o) o.ordinal 6).collEnd o (collBits 6)) s
/-- This member detects a failure and tells every other member on class 3 (R447). -/
def State.commAbort (s : State) (comm reason : Nat) : State :=
  let others := (s.members comm).filter (· != s.pkg)
  others.foldl (fun s p => s.post p 3 1 (s.commPart comm) 3 0 (leBytes 4 comm ++ leBytes 4 reason)) (s.commFail comm reason)
/-- A hop to a rank, on a class-2 flow whose ORD comes from DLV (R300, R336): its pieces carry the communicator, the number of the collective, the bytes in all and their offset (log 34). A member that cannot be reached fails the collective with LINK (R332, R447). -/
def State.hop (s : State) (o : CollOp) (rank : Nat) (bs : List Byte) : State :=
  let pkg := (s.members o.comm).getD rank 0
  let all := o.head ++ bs
  if (s.coll? o.id).isNone then s
  else if (s.routeTo pkg).isEmpty then s.commAbort o.comm 3
  else (pieces all).foldl (fun s p => s.post1 pkg 2 (1 - getLe o.block 3 1) (s.collPart o) 2 0
    (leBytes 4 o.comm ++ leBytes 4 o.ordinal ++ leBytes 8 all.length ++ leBytes 8 p.1 ++ p.2)) s

/-! Progress -/

/-- What a member's local read gives. -/
inductive CollRead
  | ok (bs : List Byte)
  | hold (page : Nat)
  | bad (bits : Nat) (f : Flt)
  | poison (f : Flt)
  deriving DecidableEq, Repr
/-- What a failing access of the member's region means (R114, R423, R447). -/
def CollOp.fault (o : CollOp) (f : Flt) : CollRead :=
  if f.code == 0x1006 then .poison { f with code := 0x100C, d0 := 4, d1 := o.tag + 2 ^ 32 }
  else if f.code == 0x1007 then .bad 8 { f with code := 0x100C, d0 := 8, d1 := o.tag + 2 ^ 32 }
  else if f.code == 0x1003 && !o.refused then .hold (f.addr % 2 ^ 57 / 2 ^ 17)
  else if f.code == 0x1003 || f.code == 0x1001 then .bad 1 { f with code := 0x100C, d0 := 1, d1 := o.tag + 2 ^ 32 }
  else .bad 2 { f with code := 0x100C, d0 := 2, d1 := o.tag + 2 ^ 32 }
/-- Read bytes of the member's region as the master of collectives (R345). -/
def State.collRead (s : State) (o : CollOp) (va len : Nat) : CollRead :=
  let refused := o.refused && o.hold.any fun p => decide (va % 2 ^ 57 / 2 ^ 17 ≤ p ∧ p ≤ (va + len - 1) % 2 ^ 57 / 2 ^ 17)
  if refused then o.fault { code := 0x1003, akind := 1, addr := max va (o.hold.getD 0 * 2 ^ 17), gen := 0, d0 := 0, d1 := 0 }
  else
    match s.vaRead o.core (s.collPart o) (0x10 + s.collPart o) (lineFuel len) va len with
    | .ok bs => .ok bs
    | .error f => o.fault f
/-- This member's own share (R301): its elements, or its slice of an all-gather. -/
def State.ownShare (s : State) (o : CollOp) : CollRead :=
  let va := getLe o.block 8 8
  let k := s.myRank o.comm
  let n := o.count * collElem o.ty
  let p := (s.members o.comm).length
  if o.op == 2 && k != s.rootRank o then .ok agreeMark
  else if o.op == 3 then
    match s.collRead o (va + k * n) n with
    | .ok bs =>
      if o.ty == 3 then
        match s.collRead o (va + p * n + k * (o.count / 32)) (o.count / 32) with
        | .ok cs => .ok (bs ++ cs)
        | r => r
      else .ok bs
    | r => r
  else s.collRead o va o.slice
/-- Where this member's own share stands in its region (R301). -/
def State.shareRanges (s : State) (o : CollOp) : List (Nat × Nat × Nat) :=
  let va := getLe o.block 8 8
  let k := s.myRank o.comm
  let n := o.count * collElem o.ty
  let p := (s.members o.comm).length
  let part := s.collPart o
  if o.op == 2 && k != s.rootRank o then []
  else if o.op == 3 then (part, va + k * n, n) :: (if o.ty == 3 then [(part, va + p * n + k * (o.count / 32), o.count / 32)] else [])
  else [(part, va, o.slice)]
/-- The places of the result in this member's region (R301). -/
def State.resultAt (s : State) (o : CollOp) (bs : List Byte) : List (Nat × List Byte) :=
  let va := getLe o.block 8 8
  let n := o.count * collElem o.ty
  let p := (s.members o.comm).length
  if o.op == 3 && o.ty == 3 then
    (List.range p).flatMap fun k =>
      let sl := (bs.drop (k * o.slice)).take o.slice
      [(va + k * n, sl.take n), (va + p * n + k * (o.count / 32), sl.drop n)]
  else [(va, bs)]
/-- A failing access ends the operation on this member, holds it, or fails the communicator; poison is recorded too (R423), and starts a staged node again (R469). -/
def State.collFault (s : State) (o : CollOp) (r : CollRead) : State :=
  match r with
  | .ok _ => s
  | .hold page => (s.setColl { o with hold := some page }).joinWalk o.core (some (.xlat (s.collPart o) page (page * 2 ^ 17)))
  | .poison f =>
    let launch := (s.groves.find? o.grove).elim 0 fun g => g.launch
    let s := (s.logRec (s.strandRec o.strand 2 2 0x3000 0 o.pc f)).commAbort o.comm 4
    if (s.launches.find? launch).elim false fun la => la.isStaged then s.restage launch 0x100C else s
  | .bad bits f => (s.logRec (s.strandRec o.strand 2 2 0x3000 0 o.pc f)).collEnd o bits
/-- All hops with the keys listed are there. -/
def CollOp.has (o : CollOp) (keys : List Nat) : Bool := keys.all fun r => o.hops.any fun h => h.1 == r
/-- What was received under a key. -/
def CollOp.from (o : CollOp) (r : Nat) : List Byte := (o.hops.find? fun h => h.1 == r).elim [] Prod.snd
/-- The hops that a member sends on the way up, once what comes up to it is combined with its own (R336): to its parent, of a reduce from rank 0 to ROOT, of a broadcast ROOT's data to rank 0. -/
def State.upHops (s : State) (o : CollOp) (acc : List Byte) : List (Nat × List Byte) :=
  let k := s.myRank o.comm
  let r := s.rootRank o
  (if o.op == 2 && k == r && k != 0 then [(0, acc)] else []) ++
    ((treeParent (s.members o.comm).length k).toList.map fun p => (p, if o.op == 2 then agreeMark else acc)) ++
    (if o.op == 1 && k == 0 && r != 0 then [(r, acc)] else [])
/-- The member combines its share with what came up and sends it on (R161, R336). -/
def State.collUp (s : State) (o : CollOp) : State :=
  if o.started || !o.has (s.upFrom o) || !(o.after.all fun i => !s.flying i) then s
  else s.whenRead o.core (0x10 + s.collPart o) (s.shareRanges o) fun s =>
    match s.ownShare o with
    | .ok own =>
      let acc := if o.op == 2 then own else (s.upFrom o).foldl (fun a r => o.combine a (o.from r)) own
      let o := { o with hops := o.hops ++ [(ownKey, acc)], started := true, since := s.tick, hold := none }
      (s.upHops o acc).foldl (fun s h => s.hop o h.1 h.2) (s.setColl o)
    | r => s.collFault o r
/-- The bytes the member ends with, when everything is there. -/
def State.collResult (s : State) (o : CollOp) : Option (List Byte) :=
  let from_ := s.downFrom o
  if !o.started || !o.has from_ then none
  else some (o.from ((from_.find? fun r => decide (r < 256)).getD ownKey))
/-- Write the result through the tables of the partition; the first failing line ends the writing. -/
def State.collWrite (s : State) (o : CollOp) : List (Nat × List Byte) → State × Option Flt
  | [] => (s, none)
  | (va, bs) :: t =>
    match s.vaWrite o.core (s.collPart o) (0x10 + s.collPart o) (lineFuel bs.length) va bs with
    | (s, none) => State.collWrite s o t
    | (s, some f) => (s, some f)
/-- The member writes the result, passes it or the agreement down, and sets its tag (R161, R301); the host gives up the lines first (R328). -/
def State.collDown (s : State) (o : CollOp) (bs : List Byte) : State :=
  let writes := if s.takesResult o then s.resultAt o bs else []
  s.whenFree (writes.flatMap fun w => s.vaHeld o.core (s.collPart o) (0x10 + s.collPart o) (lineFuel w.2.length) w.1 w.2.length) fun s =>
  match s.collWrite o writes with
  | (s, some f) => s.collFault o (o.fault f)
  | (s, none) =>
    let kids := (treeKids (s.members o.comm).length (s.myRank o.comm)).reverse
    let s := kids.foldl (fun s r => s.hop o r (if o.op == 1 then agreeMark else bs)) s
    (s.coll? o.id).elim s fun o => s.collEnd o 0
/-- A collective proceeds as far as it can. -/
def State.collTurn (s : State) (id : Nat) : State :=
  match s.coll? id with
  | none => s
  | some o =>
    if o.hold.any fun page => s.walking o.core (s.collPart o) page then s
    else
    let s := s.collUp o
    match s.coll? id with
    | none => s
    | some o =>
      match s.collResult o with
      | some bs => s.collDown o bs
      | none => s
/-- COLL_COMPLETE (R301): the member's share goes up, and with the result there the collective finishes. -/
def execCollComplete (id : Nat) (s : State) : Res := .next (s.collTurn id)
/-- The keys of the hops a collective still expects. -/
def State.expects (s : State) (o : CollOp) : List Nat :=
  ((if o.started then [] else s.upFrom o) ++ s.downFrom o).filter fun r => !(o.hops.any fun h => h.1 == r)
/-- A hop arrives from a rank, headed by its parameters (R301, R336); a hop without data is a poisoned one (R447). -/
def State.takeHop (s : State) (o : CollOp) (rank : Nat) (data : List Byte) : State :=
  let key := if data.length == 14 then agreed rank else rank
  if !(s.expects o).any fun k => k == rank || k == agreed rank then s
  else if data.take 13 != o.head then s.commAbort o.comm 1
  else if data.length == 13 then s.commAbort o.comm 4
  else if (s.expects o).contains key then s.setColl { o with hops := o.hops ++ [(key, data.drop 13)], since := s.tick }
  else s
/-- COLL_HOP_RECEIVE (R336): a hop arrives whole from a rank. -/
def execCollHopReceive (id rank : Nat) (data : List Byte) (s : State) : Res := .next ((s.coll? id).elim s fun o => s.takeHop o rank data)
/-- A piece of a hop comes in from a package (R336). -/
def State.hopPiece (s : State) (src : Nat) (bs : List Byte) : State :=
  let h : HopIn := { comm := getLe bs 0 4, ordinal := getLe bs 4 4, src := src, total := getLe bs 8 8, pieces := [] }
  let p := (getLe bs 16 8, (bs.drop 24).take (h.total - getLe bs 16 8))
  let same := fun (x : HopIn) => { x with pieces := [] } == h
  let hs := if s.link.hops.any same then s.link.hops else s.link.hops ++ [h]
  { s with link := { s.link with hops := hs.map fun x => if same x then { x with pieces := x.pieces ++ [p] } else x } }
/-- All of a hop has come. -/
def HopIn.whole (h : HopIn) : Bool := decide (h.total ≤ h.pieces.foldl (fun a p => a + p.2.length) 0)
/-- The bytes of a hop. -/
def HopIn.bytes (h : HopIn) : List Byte := h.pieces.foldl (fun bs p => putBytes bs p.1 p.2) (List.replicate h.total 0)
/-- Hops that have come whole go into the collective of their communicator with their number, once it has been issued here (R301, R336). -/
def State.settleHops (s : State) : State :=
  s.link.hops.foldl (fun s h =>
    if !h.whole then s
    else
      match s.link.colls.find? fun o => o.comm == h.comm && o.ordinal == h.ordinal && !o.done with
      | none => s
      | some o => { s with link := { s.link with hops := s.link.hops.erase h } }.takeHop o ((s.members h.comm).idxOf h.src) h.bytes) s
/-- COLL_HOP_TIMEOUT (R447): an expected hop has been missing for 1 ms. -/
def execCollHopTimeout (id : Nat) (s : State) : Res :=
  .next <|
    match s.coll? id with
    | none => s
    | some o => if !(s.expects o).isEmpty && decide (o.since + 1000000 ≤ s.tick) then s.commAbort o.comm 2 else s
/-- COLL_ABORT (R447): an abort message of another member, with its reason; a reason above 255 is this member's own finding, which it tells the others. -/
def execCollAbort (comm reason : Nat) (s : State) : Res :=
  .next (if 256 ≤ reason then s.commAbort comm (reason - 256) else s.commFail comm reason)
/-- Clearing V of its entry ends a communicator's fence, starts its count again and forgets what came for it (R447). -/
def State.settleComms (s : State) : State :=
  let gone := s.link.fenced.filter fun n => getLe (s.commEntry n) 0x21 1 % 2 == 0
  { s with link := { s.link with fenced := s.link.fenced.filter (fun n => !gone.contains n), commCount := gone.foldl (fun m n => NMap.del m n) s.link.commCount, hops := s.link.hops.filter fun h => !gone.contains h.comm } }

end Sys2Proof.Machine
end

