-- ==== Sys2Proof/Machine/Convert.lean ====
section
/-! DEFINITION. Conversion, quantisation and dot products (R213 to R219). -/
namespace Sys2Proof

/-- VDOT4 (R98, R218). -/
def vdot4W (ua ub : Bool) (a b c : Word) : Word :=
  let byte := fun (u : Bool) (x : Word) (i : Nat) => if u then ((elemOf 8 i x.toNat : Nat) : Int) else sOf 8 (elemOf 8 i x.toNat)
  BitVec.ofInt 32 (c.toInt + (List.range 4).foldl (fun s i => s + byte ua a i * byte ub b i) 0)

end Sys2Proof

namespace Sys2Proof.Machine

/-- The registers of a value of a format: one, or a pair. -/
def fmtRegs (f : Fmt) (n : Nat) : List Nat := if f.is64 then [n, n + 1] else [n]
/-- The source code of CVT: the low element of a, or the pair (R213). -/
def Cohort.fmtCode (co : Cohort) (f : Fmt) (n l : Nat) : Nat :=
  if f.is64 then (co.reg64 n l).toNat else (co.reg n l).toNat % 2 ^ f.width
/-- The random operand that .sr names (R91). -/
def srRegs (m : RMS) (b : Nat) : List Nat := if m = .sr then [b] else []
/-- CVT (R213). -/
def planCvt (g : Guard) (d a b : Nat) (m : RMS) (sat : Bool) (src dst : Fmt) : Plan :=
  let srcs := fmtRegs src a ++ srRegs m b
  plain g 12 (opc .cvt) (fmtRegs dst d ++ srcs) srcs fun s x ls => s.onCohort x fun co =>
    let sh := Sh.all (srcs.map co.shape)
    let f := fun l => convert src dst (m.mode ((co.reg b l).toNat % 65536)) sat (co.fmtCode src a l)
    if dst.is64 then co.write64 d sh sh ls fun l => BitVec.ofNat 64 (f l) else co.write d sh ls fun l => BitVec.ofNat 32 (f l)
/-- CVTPK (R215). -/
def planCvtpk (g : Guard) (d a b c e : Nat) (m : RMS) (sat : Bool) (dst : Fmt) (j : Nat) : Plan :=
  let srcs := [a, b, c] ++ srRegs m e
  plain g 12 (opc .cvtpk) (d :: srcs) srcs fun s x ls => s.onCohort x fun co =>
    co.write d (Sh.all (srcs.map co.shape)) ls fun l =>
      let cv := fun (r : Nat) => convert .f32 dst (m.mode ((co.reg e l).toNat % 65536)) sat (co.reg r l).toNat
      BitVec.ofNat 32 (putElem dst.width (2 * j + 1) (putElem dst.width (2 * j) (co.reg c l).toNat (cv a)) (cv b))
/-- CVTEX (R214): an integer element is extended, a floating-point one converted exactly to FP32. -/
def planCvtex (g : Guard) (d a : Nat) (fmt : Fmt) (i : Nat) : Plan :=
  map1 g 12 (opc .cvtex) d a fun v =>
    let code := elemOf fmt.width i v.toNat
    if fmt.isInt then BitVec.ofInt 32 (fmt.intVal code) else roundF32 .rn (fmt.value code)
/-- QBLK (R216). DESIGN CHOICE (log 101): where e names a register of the codes' destination, the scale is written last and stays. -/
def planQblk (g : Guard) (d e a b : Nat) (m : RMS) (sat : Bool) (el : Elem) (bsz : Bsz) (scf : Scf) : Plan :=
  let n := bsz.count
  let k := n * el.width / 32
  let srcs := run a n ++ srRegs m b
  plain g 12 (opc .qblk) (run d k ++ e :: srcs) srcs fun s x ls => s.onCohort x fun co =>
    let sh := Sh.all (srcs.map co.shape)
    let q := fun l => quantBlock el scf (m.mode ((co.reg b l).toNat % 65536)) sat ((run a n).map fun r => f32 (co.reg r l))
    let out := (List.range 32).map fun l => if ls.contains l then let r := q l; (r.1, packElems el.width r.2) else (0, [])
    let co := (List.range k).foldl (fun c i => c.write (d + i) sh ls fun l => (out.getD l (0, [])).2.getD i 0) co
    co.write e sh ls fun l => BitVec.ofNat 32 (out.getD l (0, [])).1
/-- DQBLK (R217). -/
def planDqblk (g : Guard) (d a e : Nat) (el : Elem) (bsz : Bsz) (scf : Scf) : Plan :=
  let n := bsz.count
  let srcs := run a (n * el.width / 32) ++ [e]
  plain g 12 (opc .dqblk) (run d n ++ srcs) srcs fun s x ls => s.onCohort x fun co =>
    let sh := Sh.all (srcs.map co.shape)
    (List.range n).foldl (fun c i => c.write (d + i) sh ls fun l =>
      roundF32 .rn ((el.value (blockElem el.width ((run a (n * el.width / 32)).map fun r => co.reg r l) i)).mul (scf.value ((co.reg e l).toNat % 256)))) co
/-- VDOT4 (R218). -/
def planVdot4 (g : Guard) (d a : Nat) (b : Src) (c : Nat) (ua ub : Bool) : Plan := map3 g 12 (opc .vdot4) d a b c (vdot4W ua ub)
/-- VDOTB (R99, R219). -/
def planVdotb (g : Guard) (d a b c e : Nat) (ea eb : Elem) (bsz : Bsz) (scf : Scf) : Plan :=
  let n := bsz.count
  let ra := run a (n * ea.width / 32)
  let rb := run b (n * eb.width / 32)
  let srcs := ra ++ rb ++ [c, e]
  plain g 12 (opc .vdotb) (d :: srcs) srcs fun s x ls => s.onCohort x fun co =>
    co.write d (Sh.all (srcs.map co.shape)) ls fun l =>
      let blk := fun (el : Elem) (rs : List Nat) => (List.range n).map fun i => el.value (blockElem el.width (rs.map fun r => co.reg r l) i)
      vdotb (f32 (co.reg c l)) (blk ea ra) (blk eb rb) (scf.value ((co.reg e l).toNat % 256)) (scf.value ((co.reg e l).toNat / 256 % 256))

/-! What each instruction does: its plan, issued for the current cohort -/

/-- CVT (R213). -/
def execCvt (g : Guard) (d a b : Nat) (m : RMS) (sat : Bool) (src dst : Fmt) (s : State) : Res := .next (s.exec (planCvt g d a b m sat src dst))
/-- CVTPK (R215). -/
def execCvtpk (g : Guard) (d a b c e : Nat) (m : RMS) (sat : Bool) (dst : Fmt) (j : Nat) (s : State) : Res := .next (s.exec (planCvtpk g d a b c e m sat dst j))
/-- CVTEX (R214). -/
def execCvtex (g : Guard) (d a : Nat) (fmt : Fmt) (i : Nat) (s : State) : Res := .next (s.exec (planCvtex g d a fmt i))
/-- QBLK (R216). -/
def execQblk (g : Guard) (d e a b : Nat) (m : RMS) (sat : Bool) (el : Elem) (bsz : Bsz) (scf : Scf) (s : State) : Res := .next (s.exec (planQblk g d e a b m sat el bsz scf))
/-- DQBLK (R217). -/
def execDqblk (g : Guard) (d a e : Nat) (el : Elem) (bsz : Bsz) (scf : Scf) (s : State) : Res := .next (s.exec (planDqblk g d a e el bsz scf))
/-- VDOT4 (R218). -/
def execVdot4 (g : Guard) (d a : Nat) (b : Src) (c : Nat) (ua ub : Bool) (s : State) : Res := .next (s.exec (planVdot4 g d a b c ua ub))
/-- VDOTB (R219). -/
def execVdotb (g : Guard) (d a b c e : Nat) (ea eb : Elem) (bsz : Bsz) (scf : Scf) (s : State) : Res := .next (s.exec (planVdotb g d a b c e ea eb bsz scf))

end Sys2Proof.Machine
end

