-- ==== Sys2Proof/Machine/CrossLane.lean ====
section
/-! DEFINITION. Bit planes and the cross-lane instructions (R220 to R225). Every result is general (R222). -/
namespace Sys2Proof

/-- The identity of a reduction (R100). -/
def RedOp.unit : RedOp → Word
  | .add | .or | .xor | .maxU => 0
  | .and | .minU => 0xFFFFFFFF
  | .minS => 0x7FFFFFFF
  | .maxS => 0x80000000
  | .fadd => 0x80000000
  | .fmin | .fmax => 0x7FC00000
/-- The node of a reduction (R100, R225). -/
def RedOp.node : RedOp → Word → Word → Word
  | .add, a, b => a + b
  | .and, a, b => a &&& b
  | .or, a, b => a ||| b
  | .xor, a, b => a ^^^ b
  | .minS, a, b => if a.sle b then a else b
  | .minU, a, b => if a.ule b then a else b
  | .maxS, a, b => if a.sle b then b else a
  | .maxU, a, b => if a.ule b then b else a
  | .fadd, a, b => faddW a b
  | .fmin, a, b => fminW a b
  | .fmax, a, b => fmaxW a b

end Sys2Proof

namespace Sys2Proof.Machine

/-- A cross-lane plan over register a: the contributing lanes are the lanes that execute (R222). DESIGN CHOICE (log 101): a guarded-true lane that parks here on a pending register (R31, R392) does not contribute. -/
def crossLane (g : Guard) (xop d : Nat) (srcs : List Nat) (f : Cohort → List Nat → Nat → Word) : Plan :=
  plain g 12 xop (d :: srcs) srcs fun s x ls => s.onCohort x fun co =>
    let out := (List.range 32).map fun l => if ls.contains l then f co ls l else 0
    co.write d .gen ls fun l => out.getD l 0
/-- The 32 lane values, a lane that does not contribute supplying a given word. -/
def Cohort.lanes32 (co : Cohort) (a : Nat) (ls : List Nat) (unit : Word) : List Word :=
  (List.range 32).map fun l => if ls.contains l then co.reg a l else unit
/-- BPPACK (R220). -/
def planBppack (g : Guard) (d a : Nat) : Plan :=
  crossLane g (opc .bppack) d [a] fun co ls l =>
    BitVec.ofNat 32 (ofBits32 fun k =>
      let e := 32 * (l % 4) + k
      ls.contains (e / 4) && bitN (elemOf 8 (e % 4) (co.reg a (e / 4)).toNat) (7 - l / 4))
where
  /-- The number whose 32 bits are given. -/
  ofBits32 (f : Nat → Bool) : Nat := (List.range 32).foldl (fun acc i => if f i then acc + 2 ^ i else acc) 0
/-- BPUNPK (R87, R221). -/
def planBpunpk (g : Guard) (d a k : Nat) (mid : Bool) : Plan :=
  crossLane g (opc .bpunpk) d [a] fun co ls l =>
    let plane := fun (j e : Nat) => ls.contains (4 * j + e / 32) && bitN (co.reg a (4 * j + e / 32)).toNat (e % 32)
    let code := fun (e : Nat) => (List.range k).foldl (fun acc j => if plane j e then acc + 2 ^ (7 - j) else acc) 0
    BitVec.ofNat 32 ((List.range 4).foldl (fun acc i => acc + wrapTo 8 (planeVal k mid (code (4 * l + i))) * 256 ^ i) 0)
/-- VOTE (R223). -/
def planVote (g : Guard) (mode : VoteMode) (d pa : Nat) : Plan :=
  match mode with
  | .any => plain g 12 (opc .vote) [] [] fun s x ls => s.onCohort x fun co => ls.foldl (fun c l => c.setPred d l (ls.any fun m => co.pred pa m)) co
  | .all => plain g 12 (opc .vote) [] [] fun s x ls => s.onCohort x fun co => ls.foldl (fun c l => c.setPred d l (ls.all fun m => co.pred pa m)) co
  | .ballot => crossLane g (opc .vote) d [] fun co ls _ => BitVec.ofNat 32 (maskOf (ls.filter fun m => co.pred pa m))
/-- SHFL (R224): a lane outside 0 to 31, or one that does not contribute, gives the lane's own value. -/
def planShfl (g : Guard) (d a : Nat) (b : Src) (mode : ShflMode) : Plan :=
  crossLane g (opc .shfl) d (a :: b.regs) fun co ls l =>
    let n := (co.src b l).toNat
    let src : Option Nat := match mode with
      | .idx => some (n % 32)
      | .up => if n ≤ l then some (l - n) else none
      | .down => some (l + n)
      | .xor => some (l ^^^ (n % 32))
    match src with
    | some m => if ls.contains m then co.reg a m else co.reg a l
    | none => co.reg a l
/-- RED (R100, R225). -/
def planRed (g : Guard) (d a : Nat) (op : RedOp) : Plan :=
  crossLane g (opc .red) d [a] fun co ls _ => treeReduce op.node (co.lanes32 a ls op.unit)
/-- SCAN (R101, R225). DESIGN CHOICE (log 101): a lane whose prefix no node combines takes the one value as it stands, a non-canonical NaN too, though R93 makes every NaN result canonical. -/
def planScan (g : Guard) (d a : Nat) (op : RedOp) (excl : Bool) : Plan :=
  crossLane g (opc .scan) d [a] fun co ls l =>
    let y := treeScan op.node (co.lanes32 a ls op.unit)
    if excl then (if l = 0 then op.unit else y.getD (l - 1) 0) else y.getD l 0
/-- ELECT (R223). -/
def planElect (g : Guard) (pd : Nat) : Plan :=
  plain g 12 (opc .elect) [] [] fun s x ls => s.onCohort x fun co => ls.foldl (fun c l => c.setPred pd l (ls.headD 0 == l)) co
/-- MATCH (R223). -/
def planMatchAny (g : Guard) (d a : Nat) (w : Bool) : Plan :=
  crossLane g (opc .matchAny) d (if w then [a, a + 1] else [a]) fun co ls l =>
    BitVec.ofNat 32 (maskOf (ls.filter fun m => if w then co.reg64 a m == co.reg64 a l else co.reg a m == co.reg a l))

/-! What each instruction does: its plan, issued for the current cohort -/

/-- BPPACK (R220). -/
def execBppack (g : Guard) (d a : Nat) (s : State) : Res := .next (s.exec (planBppack g d a))
/-- BPUNPK (R221). -/
def execBpunpk (g : Guard) (d a k : Nat) (mid : Bool) (s : State) : Res := .next (s.exec (planBpunpk g d a k mid))
/-- VOTE (R223). -/
def execVote (g : Guard) (mode : VoteMode) (d pa : Nat) (s : State) : Res := .next (s.exec (planVote g mode d pa))
/-- SHFL (R224). -/
def execShfl (g : Guard) (d a : Nat) (b : Src) (mode : ShflMode) (s : State) : Res := .next (s.exec (planShfl g d a b mode))
/-- RED (R225). -/
def execRed (g : Guard) (d a : Nat) (op : RedOp) (s : State) : Res := .next (s.exec (planRed g d a op))
/-- SCAN (R225). -/
def execScan (g : Guard) (d a : Nat) (op : RedOp) (excl : Bool) (s : State) : Res := .next (s.exec (planScan g d a op excl))
/-- ELECT (R223). -/
def execElect (g : Guard) (pd : Nat) (s : State) : Res := .next (s.exec (planElect g pd))
/-- MATCH (R223). -/
def execMatchAny (g : Guard) (d a : Nat) (w : Bool) (s : State) : Res := .next (s.exec (planMatchAny g d a w))

end Sys2Proof.Machine
end

