-- ==== Sys2Proof/Machine/Records.lean ====
section
/-! DEFINITION. Bins, formation, forwarding, spilling and the waking of records (R32, R38 to R42, R49 to R53, R135, R137, R237, R312, R408). -/
namespace Sys2Proof.Machine

/-! The room a core has (R52, R313 to R315) -/

/-- The allotment of a record's cohort (R40). -/
def State.allotOf (s : State) (launch stage : Nat) (hx : Bool) : Nat :=
  (s.launches.find? launch).elim 0 fun la => if hx then la.pkt.hallot else la.pkt.allot.getD stage 0

/-! Which cohort of a core issues (R24, R317) -/

/-- The class of a cohort (R317). -/
def State.classOf (s : State) (co : Cohort) : Nat := if co.boosted then 8 else (s.launches.find? co.launch).elim 0 fun la => la.pkt.prio
/-- Until the request that froze the partition has its space, no cohort issues before it (R406): where it stands in a cohort, that one does; where it is an engine's or a store in the memory pipeline, none. -/
def State.inTurn (s : State) (co : Cohort) : Bool :=
  let p := s.launchPart co.launch
  s.firstGone p || co.lanes.any fun y => (s.part p).first == some (0, y.2.strand)
/-- A cohort may issue: it has present lanes, its partition is not frozen (R405), and no request held before it waits for space (R406). -/
def State.canIssue (s : State) (co : Cohort) : Bool := !co.lanes.isEmpty && !s.frozenL co.launch && s.inTurn co
/-- The better of two candidates: the higher class, then the older. -/
def better (a b : Nat × Nat × Nat) : Nat × Nat × Nat := if a.2.1 < b.2.1 || (a.2.1 == b.2.1 && decide (b.2.2 < a.2.2)) then b else a
/-- The slot of a core, among some, that issues next (R317): slot, class, age since its formation or restore. -/
def State.pickFrom (s : State) (core : Nat) (may : Nat → Bool) : Option (Nat × Nat × Nat) :=
  match (s.core core).slots.filter fun (x : Nat × Cohort) => s.canIssue x.2 && may x.1 with
  | [] => none
  | (sl, co) :: t => some (t.foldl (fun a x => better a (x.1, s.classOf x.2, x.2.age)) (sl, s.classOf co, co.age))
/-- The slot of a core that issue slot 0 takes next (R317). -/
def State.pick (s : State) (core : Nat) : Option (Nat × Nat × Nat) := s.pickFrom core fun _ => true
/-- The second-lowest PC of a diverged cohort, with the lanes at it (R25). -/
def Cohort.second (co : Cohort) : Option (Pc × List Nat) :=
  match co.lanes.filter fun x => x.2.pc != minPc co.lanes with
  | [] => none
  | rest => some (minPc rest, lanesAt (minPc rest) rest)
/-- An issue slot of a core would go idle (R40 row 4, R317): it has nothing for one of its two slots. -/
def State.idleSlot (s : State) (core : Nat) : Bool :=
  (s.pick core).elim true fun p => (s.cohort? core p.1).elim true fun co => co.second.isNone && (s.pickFrom core (· != p.1)).isNone

/-! Formation (R22, R40 to R42, R53) -/

/-- The core cycles since a moment of the cycle count (R4, R353). -/
def State.cycles (s : State) (since : Nat) : Nat := (s.cyc - since) / 1000
/-- When the oldest record of a bin was binned. -/
def Bin.oldest (b : Bin) : Nat := (b.recs.map Prod.snd).foldl min (b.recs.headD (0, 0)).2
/-- The drain age of a launch's partition, in cycles (R41, R313). -/
def State.drainAge (s : State) (launch : Nat) : Nat := 32 * (s.launches.find? launch).elim 8 fun la => fld (s.part la.part).pq0 7 0
/-- The row of R40 that makes a bin a drain candidate. -/
def Core.binRow (k : Core) (idle : Bool) (b : Bin) : Option Nat :=
  let waiting := k.readyQ.any fun set => (k.records.find? (set.headD 0)).elim false fun r => !(k.bins.any fun b => b.holds r)
  if b.recs.length == 32 then some 1
  else if k.bins.length == 64 && waiting && k.bins.all fun c => decide (b.oldest ≤ c.oldest) then some 2
  else if b.aged.isSome && b.aged == b.recs.head?.map Prod.fst then some 3
  else if idle && k.bins.all fun c => decide (c.recs.length ≤ b.recs.length) then some 4
  else none
/-- The candidates of a core, each with its place in the order of R40: priority, row, age. -/
def State.candidates (s : State) (core : Nat) (idle : Bool) : List (Nat × Bin) :=
  (s.core core).bins.filterMap fun b =>
    match (s.core core).binRow idle b, s.launches.find? b.launch with
    | some row, some la => if (s.part la.part).frozen then none else some (((7 - la.pkt.prio) * 8 + row) * 2 ^ 128 + b.oldest, b)
    | _, _ => none
/-- A bin has room for its cohort (R40). -/
def State.binFits (s : State) (core : Nat) (b : Bin) : Bool := s.cohortFits core b.launch b.hx (s.allotOf b.launch b.stage b.hx)
/-- The slots and registers that a partition's groves reserve on a core (R52). -/
def State.reserves (s : State) (core p : Nat) : Nat × Nat :=
  ((s.core core).groves.vals.filterMap fun g => (s.groves.find? g).bind fun g => s.launches.find? g.launch).foldl
    (fun a la => if la.part == p then (a.1 + 1, a.2 + la.pkt.hallot) else a) (0, 0)
/-- The quota of a bin's partition admits at least one cohort of its stage and kind (R53): within it beside the reserves alone. -/
def State.couldFit (s : State) (core : Nat) (b : Bin) : Bool :=
  let p := s.launchPart b.launch
  b.hx || useWithin false (s.allotOf b.launch b.stage false) (s.reserves core p) (fld (s.part p).pq0 54 48) (fld (s.part p).pq0 41 29)
/-- The drain of a bin would take room: not that of a handler bin which finds its place in the reserve (R52). -/
def State.takesRoom (s : State) (core : Nat) (b : Bin) : Bool := !b.hx || s.useL core b.launch 1 0 != s.useL core b.launch 0 0
/-- A bin that has reached its drain age and lacks room holds another back which comes later in the order of R40 and would take of that room (R53): of the core, or of its partition's quota. DEDUCED (log 101): one that lacks only its quota holds back its own partition alone, and no bin holds back the reserve of handlers (R52). -/
def State.holdsBack (s : State) (core : Nat) (b c : Nat × Bin) : Bool :=
  decide (b.1 < c.1) && b.2.aged.isSome && s.couldFit core b.2 && !s.binFits core b.2 && s.takesRoom core c.2 &&
    (s.launchPart b.2.launch == s.launchPart c.2.launch || !s.coreFits core b.2.launch b.2.hx (s.allotOf b.2.launch b.2.stage b.2.hx))
/-- The candidates that may drain: they have room, and none that comes before waits for it (R40, R53). -/
def State.drains (s : State) (core : Nat) (idle : Bool) : List (Nat × Bin) :=
  let cs := s.candidates core idle
  cs.filter fun c => s.binFits core c.2 && !(cs.any fun b => s.holdsBack core b c)
/-- The least of numbered things. -/
def leastOf {α : Type} : List (Nat × α) → Option α
  | [] => none
  | (n, x) :: t => if t.all fun y => decide (n ≤ y.1) then some x else leastOf t
/-- A record that is formed alone, for the fault it carries (R32, R237, R420, R428). -/
def State.loneRecord (s : State) (core : Nat) : Option Nat :=
  (List.find? (fun (x : Nat × Record) => x.2.err.isSome && x.2.pend.isEmpty && !x.2.held && !x.2.provisional && !x.2.spilled && s.stays x.2.strand && !s.frozenL x.2.launch &&
    s.cohortFits core x.2.launch x.2.hx (s.allotOf x.2.launch x.2.stage x.2.hx)) (s.core core).records).map Prod.fst
/-- Form a cohort from records, when a slot and a generation are there; without a generation the sweep starts (R66, R410). -/
def State.formNow (s : State) (core : Nat) (rids : List Nat) (b : Option Bin) : State :=
  let k := s.core core
  if k.regSweep then s
  else
    match k.freeSlot, k.nextGen with
    | some sl, some _ =>
      let s := match b with
        | some b => s.modCore core fun k => { k with bins := k.bins.erase b }
        | none => s
      s.form core sl rids
    | _, none => s.needSweep core
    | none, _ => s
/-- COHORT_FORMATION (R42): what a core forms next; `idle` tells that an issue slot would go idle (R40 row 4). DESIGN CHOICE (log 92): a record formed alone for its fault comes before the drain candidates, the lowest-numbered first. -/
def State.formation (s : State) (core : Nat) (idle : Bool) : State :=
  match s.loneRecord core with
  | some rid => s.formNow core [rid] none
  | none =>
    match leastOf (s.drains core idle) with
    | some b => s.formNow core (b.recs.map Prod.fst) (some b)
    | none => s
/-- COHORT_FORMATION (R42). -/
def execCohortFormation (core : Nat) (idle : Bool) (s : State) : Res := .next (s.formation core idle)
/-- DRAIN_AGE_EXPIRY (R40, R41): the n-th bin's oldest record has been binned for the drain age. -/
def execDrainAgeExpiry (core n : Nat) (s : State) : Res :=
  .next <|
    match (s.core core).bins[n]? with
    | none => s
    | some b =>
      if s.drainAge b.launch ≤ s.cycles b.oldest then s.modCore core fun k => { k with bins := k.bins.set n { b with aged := b.recs.head?.map Prod.fst } } else s
/-- COHORT_AGE_PROMOTION (R317): ready for 128 cycles without issuing. -/
def execCohortAgePromotion (core slot : Nat) (s : State) : Res :=
  .next (s.modCohort core slot fun co => if 128 ≤ s.cycles co.readyTick then { co with boosted := true } else co)

/-! Records on their way (R32, R38, R49, R50, R312) -/

/-- Compact a provisional record to the registers of a park-map entry (R32). -/
def Record.compact (r : Record) (m : Option ParkMap) (allot : Nat) : Record :=
  match m with
  | none => { r with provisional := false }
  | some m =>
    let r := { r with provisional := false, contig := false, regs := r.regs.filter fun x => m.regs.contains x.1, poison := r.poison.filter fun x => m.regs.contains x.1 }
    match overAllot m.regs allot with
    | none => r
    | some n => { r with pc := r.origin, err := some (rangeFault n allot (r.repc + 2 ^ 32)) }
/-- The registers a record that faults at its park restores: its whole allotment (R32). -/
def Record.compactFor (r : Record) (m : Option ParkMap) (allot : Nat) : Record :=
  let c := r.compact m allot
  if c.err.isSome && r.err.isNone then { c with regs := r.regs, poison := r.poison } else c
/-- Keep a park-map entry in a core's cache of 64 (R32). DESIGN CHOICE (log 92): a full cache gives up the entry fetched longest ago; a hit does not renew one. -/
def Core.keepMap (k : Core) (m : Option ParkMap) : Core :=
  match m with
  | none => k
  | some m => { k with parkmaps := (m :: k.parkmaps.filter fun x => x != m).take 64 }
/-- PARKMAP_FETCH_DONE (R32): the entry of a PC is there, and the provisional records at it are compacted and may bin. Under an entry that names a register at or above the allotment nothing is given up: the lone cohort restores the whole allotment. -/
def State.parkmapDone (s : State) (core pc : Nat) : State :=
  let rs := (s.core core).records.filter fun x => x.2.provisional && x.2.pc.toNat == pc
  rs.foldl (fun s x =>
    let part := (s.launches.find? x.2.launch).elim 0 fun la => la.part
    let e := s.parkEntry core part pc
    let allot := s.allotOf x.2.launch x.2.stage x.2.hx
    let m := e.bind fun m => if (overAllot m.regs allot).isSome then none else some m
    let gone := x.2.poison.filter fun p => m.elim false fun m => !m.regs.contains p.1
    let s := s.modCore core fun k => { k.keepMap e with records := k.records.put x.1 { x.2.compactFor e allot with tick := s.tick } }
    let s := match m with
      | some m => s.discard x.2.strand m.regs
      | none => s
    s.lostPoison (s.strandRec x.2.strand 3 0 core 0 x.2.pc) (gone.map Prod.snd)) s
/-- PARKMAP_FETCH_DONE (R32). -/
def execParkmapFetchDone (core pc : Nat) (s : State) : Res := .next (s.parkmapDone core pc)
/-- A spilled record is read back where the store has room for it, or makes it (R135). -/
def State.readBack (s : State) (core rid : Nat) (r : Record) : State := if s.canReadBack core r then s.putBack core rid r else s
/-- SPILL_READBACK (R38, R135): a spilled record that became ready is read back; its set bins once all of it is there (R360). -/
def execSpillReadback (core rid : Nat) (s : State) : Res :=
  .next <|
    match (s.core core).records.find? rid with
    | none => s
    | some r =>
      if r.spilled && (r.ready || r.err.isSome) && s.stays r.strand then
        s.readBack core rid r
      else s
/-- A record that may be forwarded (R49): ready, of a portable launch, with every counter 0, not forwarded since its last formation. -/
def State.forwardable (s : State) (r : Record) : Bool :=
  r.ready && r.err.isNone && !r.spilled && !r.fwd && !s.frozenL r.launch && ((s.launches.find? r.launch).elim false fun la => bitN la.pkt.flags 0) &&
    ((s.strands.find? r.strand).elim false fun t => t.out.isEmpty) && !(s.ops.any fun o => o.of r.strand)
/-- A core can take a forwarded record (R49): less than 50% full, its quota admits a cohort of the stage, in service. -/
def State.canTake (s : State) (r : Record) (core : Nat) : Bool :=
  decide (s.storeBytes core < 262144) && s.cohortFits core r.launch r.hx (s.allotOf r.launch r.stage r.hx) && !(s.pow.disabled.contains core) &&
    !(s.pow.outOfService.contains (standOf core))
/-- Move a ready record to another core with FWD = 1, under a hidden release and acquire (R49, R50, R154). -/
def State.moveRecord (s : State) (core rid dest : Nat) (r : Record) : State :=
  let s := s.modCore core fun k => { k.unqueue (· == rid) with records := k.records.del rid }
  let s := ((s.hiddenRelease r.strand core).modStrand r.strand fun t => { t with core := dest }).invalidateL1 dest
  s.putBack dest rid { r with fwd := true }
/-- The core of a stand a record is forwarded to: the least filled that can take it (R49), the lowest-numbered of several (DESIGN CHOICE, log 92). -/
def State.forwardTo (s : State) (core : Nat) (r : Record) : Option Nat :=
  leastOf ((((List.range 8).map (8 * standOf core + ·)).filter fun c => c != core && s.canTake r c).map fun c => (s.storeBytes c, c))
/-- RECORD_FORWARD (R49): above 75%, a ready record goes to another core of the stand. -/
def execRecordForward (core rid : Nat) (s : State) : Res :=
  .next <|
    match (s.core core).records.find? rid with
    | none => s
    | some r =>
      if 393216 < s.storeBytes core && s.forwardable r then
        match s.forwardTo core r with
        | some dest => s.moveRecord core rid dest r
        | none => s
      else s
/-- SCHEDULER_FORWARD (R312): beyond a stand all of whose cores are above 75%, to another stand of the die, or failing that of another die. -/
def execSchedulerForward (core rid dest : Nat) (s : State) : Res :=
  .next <|
    match (s.core core).records.find? rid with
    | none => s
    | some r =>
      let full := ((List.range 8).map (8 * standOf core + ·)).all fun c => decide (393216 < s.storeBytes c)
      let near := (coresOf (dieOf core)).any fun c => standOf c != standOf core && s.canTake r c
      if full && s.forwardable r && s.canTake r dest && decide (dest < 640) && standOf dest != standOf core && (dieOf dest == dieOf core || !near) then
        s.moveRecord core rid dest r
      else s

/-! Waking (R137, R237, R252, R253) -/

/-- The event has a condition of its own that a firing evaluates again (R237). -/
def WaitEv.judged : WaitEv → Bool
  | .tags _ _ | .version _ _ | .counter _ _ | .barrier _ _ | .futA _ _ | .futG _ _ _ _ _ | .watch _ _ _ _ _ _ _ _ _ | .codeReady _ _ | .fwd _ => true
  | .xlat _ _ _ | .tableFree | .sweepDone | .slack | .ckpt _ => false
/-- Two waits hang on one wait-table entry, or on one watched line (R237, R137). -/
def State.oneEvent (s : State) (a b : Record) : Bool :=
  match s.recKey a with
  | some k => s.recKey b == some k
  | none => ((a.wait.bind WaitEv.watchPa).map (· / 128)).elim (a.strand == b.strand) fun n => (b.wait.bind WaitEv.watchPa).map (· / 128) == some n
/-- WAIT_EVENT_FIRE (R237): an event re-evaluates the records that wait for it. -/
def execWaitEventFire (core rid : Nat) (s : State) : Res :=
  .next <|
    match (s.core core).records.find? rid with
    | none => s
    | some r => if r.wait.elim false WaitEv.judged then s.fire core fun y _ => s.oneEvent r y else s
/-- The bytes of a watched cell of another package within a line just written there. -/
def cellOf (line : Nat) (data : List Byte) (pa len : Nat) : Option (List Byte) :=
  if pa / 128 == line && data.length == 128 then some ((data.drop (pa % 128)).take len) else none
/-- What a strand finds when a line of another package was written (R137); without bytes its read of the line has failed, resends and all (R444). -/
def remoteWoken (line : Nat) (data : List Byte) (w : WaitEv) : Woken :=
  match w.watchPa with
  | none => .no
  | some pa =>
    if data.isEmpty && pa / 128 == line then .err { code := 0x3006, akind := 1, addr := w.watchVa, gen := 0, d0 := 3 + 256 * pkgOf pa, d1 := 0 }
    else (cellOf line data pa w.watchLen).elim .no w.judge
/-- A line of another package was written (R137): its watches here fire with its bytes; a strand that goes on waiting reads and watches it again. -/
def State.lineWritten (s : State) (pa : Nat) (data : List Byte) : State :=
  s.cores.keys.foldl (fun s c =>
    let rs := (s.core c).records.filter fun (x : Nat × Record) => x.2.wait.isSome
    (rs.foldl (fun (s : State) (x : Nat × Record) =>
      match x.2.wait with
      | none => s
      | some w =>
        if s.isTrailing ((s.strands.find? x.2.strand).elim 0 fun t => t.grove) || x.2.after.any s.flying then s
        else
          match remoteWoken (pa / 128) data w with
          | .no => if w.watchPa.elim false fun a => a / 128 == pa / 128 then s.placeWatch c x.2.strand (s.launchPart x.2.launch) [] w else s
          | r => s.wakeAs c x.1 x.2 w r) s).asSet c (rs.map Prod.fst)) s
/-- L2_WATCH_EVENT (R137): a write to a watched line fires its watches; a line of another package comes with its bytes. -/
def execL2WatchEvent (pa : Nat) (data : List Byte) (s : State) : Res := .next (if s.isLocal pa then s.fireLine pa 1 else s.lineWritten pa data)
/-- Why a ready record has not formed (R408): 3 held, 1 no quota for it, 2 others took the slots. -/
def State.starvedWhy (s : State) (core : Nat) (r : Record) : Nat :=
  let allot := s.allotOf r.launch r.stage r.hx
  let q := fun (la : Launch) => (fld (s.part la.part).pq0 54 48, fld (s.part la.part).pq0 41 29)
  if r.held then 3
  else if (s.launches.find? r.launch).elim true fun la =>
      let u := s.useOn core (some la.part) r.launch r.hx.toNat 0
      decide ((q la).1 < u.1 + (!r.hx).toNat) || decide ((q la).2 < u.2 + (if r.hx then 0 else allot)) then 1
  else 2
/-- FORMATION_STARVED (R408): a record ready for 1 ms and not formed is reported, once per launch and core in a slice. -/
def execFormationStarved (core rid : Nat) (s : State) : Res :=
  .next <|
    match (s.core core).records.find? rid with
    | none => s
    | some r =>
      let waited := (s.tick - r.tick) / 1000
      if r.pend.isEmpty && r.wait.isNone && !r.provisional && r.err.isNone && s.stays r.strand && decide (1000 ≤ waited) && !(s.sched.starved.contains (r.launch, core)) &&
          !s.frozenL r.launch && !(s.core core).regSweep then
        let part := (s.launches.find? r.launch).elim 0 fun la => la.part
        let s := s.log part { (sysRec 3 0 0x200A core part 0 0 (r.stage + 4 * r.hx.toNat + 256 * s.starvedWhy core r) waited) with launch := r.launch }
        { s with sched := { s.sched with starved := s.sched.starved ++ [(r.launch, core)] } }
      else s

end Sys2Proof.Machine
end

