-- ==== Sys2Proof/Machine/Sched.lean ====
section
/-! DEFINITION. Queues, packets and time slices (R302 to R311, R358, R413 to R416): mapping, the checks of a packet, the start of launches, barriers and signals, dependency cycles. -/
namespace Sys2Proof.Machine

/-! Queue descriptors (R308, R414) -/

/-- The priority cap of a descriptor. -/
def descPmax (d : List Byte) : Nat := getLe d 0x1A 1
/-- A descriptor breaks R308 (reason 2 of R414). -/
def descBad (d : List Byte) : Bool :=
  getLe d 0 8 % 128 != 0 || getLe d 8 8 % 8 != 0 || getLe d 0x10 8 % 8 != 0 || decide (getLe d 0x18 1 < 1 ∨ 20 < getLe d 0x18 1) || decide (15 < descPart d) ||
    decide (7 < descPmax d) || getLe d 0x1B 1 / 4 != 0 || decide (48 < getLe d 0x1C 1) || (d.drop 0x1D).any (· != 0)
/-- The queue enters the error state (R414): unmapped at once, recorded, vector 2 raised. -/
def State.queueError (s : State) (qid part reason d1 : Nat) : State :=
  let s := { s with sched := { s.sched with
    slots := s.sched.slots.filter fun x => x.2.qid != qid
    watch := s.sched.watch.filter fun x => s.sched.slots.any fun y => y.1 == x.1 && y.2.qid != qid
    pending := s.sched.pending.filter (· != qid)
    errs := s.sched.errs.put qid false } }
  (s.log part (sysRec 3 2 0x2005 0x7000 part 0 0 (qid + 65536 * reason) d1)).msix part 2
/-- The reason of R414 for a failing read. -/
def readReason (f : Flt) : Nat := if f.code == 0x1006 || f.code == 0x1007 then 4 else 3
/-- An address of a queue that the scheduler cannot reach (reason 3 of R414). -/
def State.queueVaBad (s : State) (d : List Byte) : Option Nat :=
  [(getLe d 0 8, Acc.read), (getLe d 8 8, Acc.write), (getLe d 0x10 8, Acc.read)].findSome? fun x =>
    match s.gWalk noCore (descPart d) 0x31 x.1 8 x.2 with
    | .ok _ _ => none
    | _ => some x.1
/-- The physical address of a signal. -/
def State.sigPa (s : State) (part va : Nat) : Option Nat :=
  if va == 0 then none
  else
    match s.walkVa part va with
    | .ok e => some (s.ownPa (e.pa va))
    | .error _ => none
/-- The partition whose strand watch at a slice gives way to a slot's watch (R137): the newest of those in the table, when its 256 entries are all in use. -/
def State.displaced (s : State) (slice : Nat) : Option Nat :=
  let others := (s.otherWatches slice).length
  let ls := s.sliceLines slice
  if others + ls.length < 256 then none
  else
    let held := ls.filter fun x => decide (others + (ls.filter fun y => decide (y.1 < x.1)).length < 256)
    ((held.map Prod.fst).max?).bind fun t => (held.find? fun x => x.1 == t).map fun x => x.2.2
/-- A slot's watch is placed; a strand watch that gives way to it is counted in LOVF (R137, R403). One the slot held already displaces nothing. -/
def State.slotWatch (s : State) (sl : Nat) (old : List Nat) (pa : Nat) : State :=
  let had := s.sched.watch.getD sl []
  let gone := if s.isLocal pa && !old.contains pa && !((s.otherWatches (s.sliceOf pa)).contains (localOf pa / 128)) then s.displaced (s.sliceOf pa) else none
  let s := { s with sched := { s.sched with watch := s.sched.watch.put sl (had ++ [pa]) } }
  match gone with
  | some p => s.modPart p fun q => { q with xstat := putFld q.xstat 47 32 (min 0xFFFF (fld q.xstat 47 32 + 1)) }
  | none => s
/-- The lines a slot watches: its queue's WIDX, and the dependency signals of its head packet (R137, R306). -/
def State.watchSlot (s : State) (sl : Nat) : State :=
  match s.sched.slots.find? sl with
  | none => { s with sched := { s.sched with watch := s.sched.watch.del sl } }
  | some q =>
    let vas := getLe q.desc 0x10 8 :: q.head.elim [] fun b => [0x58, 0x60, 0x68].map fun o => getLe b o 8
    (vas.filterMap fun va => s.sigPa (descPart q.desc) va).foldl (fun t pa => t.slotWatch sl (s.sched.watch.getD sl []) pa)
      { s with sched := { s.sched with watch := s.sched.watch.del sl } }
/-- Map a queue to a slot (R308, R309, R311, R414). DEDUCED (log 101): the function of a queue is the one through whose partition's block it was marked pending, so PART must be that partition still. -/
def State.mapQueue (s : State) (sl qid : Nat) : State :=
  let s := s.unmapSlot sl
  let d := s.queueDesc qid
  let part := descPart d % 16
  if descBad d || s.sched.rung.getD qid part != part then s.queueError qid part 2 0
  else
    match s.queueVaBad d with
    | some va => s.queueError qid part 3 va
    | none =>
      match s.schedRead part (getLe d 8 8) 8 with
      | .error f => s.queueError qid part (readReason f) (getLe d 8 8)
      | .ok r =>
        { s with sched := { s.sched with
          slots := s.sched.slots.put sl { qid := qid, desc := d, since := s.tick, ridx := leNat r, head := none }
          pending := s.sched.pending.filter (· != qid)
          mapped := s.sched.mapped.filter (· != qid) ++ [qid] } }.watchSlot sl

/-! The checks of a packet (R302 to R305, R413) -/

/-- The accepted object of a partition at a VA (R196). -/
def State.objectAt (s : State) (part va : Nat) : Bool := s.trust.objs.any fun o => o.part == part && o.va == va && o.accepted && !o.refused
/-- Bytes of a code object as the queue scheduler reads them (R345), with what cannot be read as zero. -/
def State.objBytes (s : State) (part va n : Nat) : List Byte :=
  match s.vaRead noCore part 0x31 (lineFuel n) va n with
  | .ok b => b
  | .error _ => List.replicate n 0
/-- The launch record at an image offset, if the object has one there (R192, R304). -/
def State.launchRecord (s : State) (part va off : Nat) : Option (List Byte) :=
  let h := s.objBytes part va 128
  let lr := getLe h 0x30 4
  if s.objectAt part va && decide (lr ≤ off ∧ off < lr + 64 * getLe h 0x34 4) && (off - lr) % 64 == 0 then some (s.objBytes part (va + off) 64) else none
/-- What the check of a launch packet reads of its code object: header, section table, launch record. -/
def State.objRanges (s : State) (part : Nat) (b : List Byte) : List (Nat × Nat × Nat) :=
  let va := getLe b 8 8
  if getLe b 0 1 != 1 || !s.objectAt part va then []
  else
    let h := s.objBytes part va 128
    [(part, va, 128), (part, va + getLe b 4 4, 64), (part, va + getLe h 0x10 4, 32 * getLe h 0x14 2)]
/-- `.text` of a code object: image offset and size (R191). -/
def State.objTextAt (s : State) (part va : Nat) : Nat × Nat :=
  let h := s.objBytes part va 128
  let es := (List.range (getLe h 0x14 2)).map fun i => s.objBytes part (va + getLe h 0x10 4 + 32 * i) 32
  ((es.find? fun e => getLe e 4 2 == 1).map fun e => (getLe e 8 8, getLe e 16 8)).getD (0, 0)
/-- A request of a launch packet breaks R302. -/
def reqBad (r lim : Nat) : Bool := bitsN r 7 2 != 0 || decide (lim < r / 256) || (r / 256 == 0 && r % 4 != 0)
/-- A signal VA is refused (R304): misaligned, or not translating to space 0 or 1 of the partition with R and W. -/
def State.sigBad (s : State) (part va : Nat) : Bool :=
  va != 0 && (va % 8 != 0 || !canonical va ||
    match s.walkVa part va with
    | .ok e => fld e.leaf 3 3 == 0 || fld e.leaf 4 4 == 0 || fld e.leaf 57 54 != part || decide (1 < fld e.leaf 51 49)
    | .error _ => true)
/-- The refusals common to every packet: its signals (R304, R305). -/
def State.sigsBad (s : State) (part : Nat) (b : List Byte) : List (Bool × Nat) :=
  [0x50, 0x58, 0x60, 0x68].map fun o => (s.sigBad part (getLe b o 8), o)
/-- The offset at which a launch packet is refused (R302 to R304, R413). -/
def State.launchBad (s : State) (part : Nat) (b : List Byte) : Option Nat :=
  let g := fun (o k : Nat) => getLe b o k
  let fl := g 2 2
  let portable := bitN fl 0
  let rec_ := s.launchRecord part (g 8 8) (g 4 4)
  let text := s.objTextAt part (g 8 8)
  let out := fun (n lo hi : Nat) => decide (n < lo ∨ hi < n)
  let nst := g 0x18 1
  let nstr := fun (i : Nat) => g (0x1C + 2 * i) 2
  let sum := (List.range 4).foldl (fun a i => a + nstr i) 0
  firstBad ([(decide (7 < g 1 1), 1), (fl / 128 != 0 || (bitN fl 1 && (portable || bitN fl 2)), 2), (rec_.isNone, 8), (out (g 0x10 4) 1 (2 ^ 31 - 1), 0x10),
      (g 0x14 2 == 0, 0x14), (g 0x16 2 == 0, 0x16),
      (out nst 1 4 || rec_.elim false (fun r => (List.range nst).any fun i => getLe r (8 + 4 * i) 4 == 0xFFFFFFFF), 0x18), (g 0x19 1 != 0, 0x19),
      (out (g 0x1A 2) 16 512 || g 0x1A 2 % 8 != 0, 0x1A)] ++
    (List.range 4).map (fun i => (decide (1024 < nstr i) || (decide (nst ≤ i) && nstr i != 0) || (i == 3 && decide (1024 < sum)), 0x1C + 2 * i)) ++
    (List.range 4).map (fun i =>
      let a := g (0x24 + 2 * i) 2
      (if i < nst then out a 8 512 || a % 8 != 0 else a != 0, 0x24 + 2 * i)) ++
    [(0x2C, 4096), (0x30, 4096), (0x34, 2048)].map (fun x => (reqBad (g x.1 4) x.2 || (portable && g x.1 4 != 0), x.1)) ++
    [(g 0x40 8 != 0 && (g 0x40 8 % 4 != 0 || decide (g 0x40 8 < text.1) || decide (text.1 + text.2 ≤ g 0x40 8)), 0x40),
      (g 0x48 8 % 64 != 0 || (g 0x48 8 == 0) != (g 0x40 8 == 0), 0x48)] ++
    s.sigsBad part b ++
    [((!bitN fl 3 && g 0x70 8 != 0) || (bitN fl 3 && !s.pow.synced), 0x70), (if bitN fl 2 then out (g 0x7A 2) 1 1024 else g 0x7A 2 != 0, 0x7A), (g 0x7C 4 != 0, 0x7C)])
/-- The offset at which a barrier or signal packet is refused (R305): every field but TYPE, the signals and PART is 0. -/
def State.plainBad (s : State) (part : Nat) (b : List Byte) : Option Nat :=
  let z := fun (o k : Nat) => (getLe b o k != 0, o)
  firstBad ([z 1 1, z 2 2, z 4 4, z 8 8, z 0x10 4, z 0x14 2, z 0x16 2, z 0x18 1, z 0x19 1, z 0x1A 2] ++ (List.range 8).map (fun i => z (0x1C + 2 * i) 2) ++
    [z 0x2C 4, z 0x30 4, z 0x34 4, z 0x38 8, z 0x40 8, z 0x48 8] ++ s.sigsBad part b ++ [z 0x70 8, z 0x7A 2, z 0x7C 4])
/-- The offset at which a packet is refused, if it is (R304, R305, R413). -/
def State.packetBad (s : State) (part : Nat) (b : List Byte) : Option Nat :=
  let ty := getLe b 0 1
  if ty == 1 then s.launchBad part b else if ty == 2 || ty == 3 then s.plainBad part b else some 0

/-! The head of a queue (R306, R309) -/

/-- The queue of a slot; none while the queue table is not valid (R310). -/
def State.slot? (s : State) (sl : Nat) : Option QSlot := if fld s.sched.qtbl 0 0 == 0 then none else s.sched.slots.find? sl
/-- The packet at the read index is done with: RIDX := n + 1 as a release at .sys (R309). -/
def State.consume (s : State) (sl : Nat) : State :=
  match s.slot? sl with
  | none => s
  | some q =>
    let part := descPart q.desc
    let va := getLe q.desc 8 8
    let n := (q.ridx + 1) % 2 ^ 64
    let s := { s with sched := { s.sched with slots := s.sched.slots.put sl { q with ridx := n, head := none } } }.watchSlot sl
    match s.vaWrite noCore part 0x31 2 va (leBytes 8 n) with
    | (s, none) => s
    | (s, some _) => s.queueError q.qid part 3 va
/-- The lines that a slot writes as it is done with a packet, and the host may hold (R328): its read index, and the packet's completion signal where it is updated at once. -/
def State.slotHeld (s : State) (q : QSlot) (sig : Nat) : List Nat := s.wordHeld (descPart q.desc) (getLe q.desc 8 8) ++ s.wordHeld (descPart q.desc) sig
/-- A packet is refused at an offset and consumed; its completion signal receives the failure bit (R304, R358, R413). -/
def State.refusePacket (s : State) (sl : Nat) (q : QSlot) (b : List Byte) (off : Nat) : State :=
  s.whenFree (s.slotHeld q (getLe b 0x50 8)) fun s =>
    let part := descPart q.desc
    let s := s.log part (sysRec 3 2 0x2004 0x7000 part 0 0 (q.ridx % 2 ^ 32 + 2 ^ 32 * q.qid) off)
    (s.signal part 0 (getLe b 0x50 8) true).consume sl
/-- The slot reads the packet at the read index once WIDX has passed it, and refuses it or keeps it at the head (R304, R309, R413, R414). -/
def State.readPacket (s : State) (sl : Nat) : State :=
  match s.slot? sl with
  | none => s
  | some q =>
    let part := descPart q.desc
    let widxVa := getLe q.desc 0x10 8
    s.whenRead noCore 0x31 [(part, widxVa, 8)] fun s =>
    match s.schedRead part widxVa 8 with
    | .error f => s.queueError q.qid part (readReason f) widxVa
    | .ok w =>
      let w := leNat w
      if decide (w < q.ridx) || decide (2 ^ getLe q.desc 0x18 1 < w - q.ridx) then s.queueError q.qid part 1 w
      else if w == q.ridx || q.head.isSome then s
      else
        let va := getLe q.desc 0 8 + 128 * (q.ridx % 2 ^ getLe q.desc 0x18 1)
        s.whenRead noCore 0x31 [(part, va, 128)] fun s =>
        match s.schedRead part va 128 with
        | .error f => s.queueError q.qid part (readReason f) va
        | .ok b => s.whenRead noCore 0x31 (s.objRanges part b) fun s =>
          match s.packetBad part b with
          | none => { s with sched := { s.sched with slots := s.sched.slots.put sl { q with head := some b } } }.watchSlot sl
          | some off => s.refusePacket sl q b off
/-- LAUNCH_PACKET (R306). -/
def execLaunchPacket (slot : Nat) (s : State) : Res := .next (s.readPacket slot)
/-- A dependency signal reads 0 (R306); one that cannot be read does not. -/
def State.sigZero (s : State) (part va : Nat) : Bool :=
  va == 0 ||
    match s.schedRead part va 8 with
    | .ok b => leNat b == 0
    | .error _ => false
/-- Every dependency signal of a packet reads 0. -/
def State.depsMet (s : State) (part : Nat) (b : List Byte) : Bool := [0x58, 0x60, 0x68].all fun o => s.sigZero part (getLe b o 8)
/-- What the dependency signals of a packet are read at. -/
def depRanges (part : Nat) (b : List Byte) : List (Nat × Nat × Nat) :=
  (([0x58, 0x60, 0x68].map fun o => getLe b o 8).filter (· != 0)).map fun va => (part, va, 8)
/-- The fields of a launch packet under its queue's priority cap (R302). -/
def packetOf (b : List Byte) (pmax : Nat) : Packet :=
  let g := fun (o k : Nat) => getLe b o k
  { prio := min (g 1 1) pmax, flags := g 2 2, entry := g 4 4, codeVa := g 8 8, gridX := g 0x10 4, gridY := g 0x14 2, gridZ := g 0x16 2, nstage := g 0x18 1,
    hallot := g 0x1A 2, nstr := (List.range 4).map fun i => g (0x1C + 2 * i) 2, allot := (List.range 4).map fun i => g (0x24 + 2 * i) 2,
    req := [g 0x2C 4, g 0x30 4, g 0x34 4], argVa := g 0x38 8, trapEnt := g 0x40 8, trapSave := g 0x48 8, cplSig := g 0x50 8,
    depSig := [g 0x58 8, g 0x60 8, g 0x68 8], gangTick := g 0x70 8, stageMib := g 0x7A 2 }
/-- Start the launch at a slot's head (R306, R307); a gang launch is refused while the package is not synchronised (R358). -/
def State.startLaunch (s : State) (sl : Nat) : State :=
  match s.slot? sl with
  | none => s
  | some q =>
    match q.head with
    | none => s
    | some b =>
      let part := descPart q.desc
      let id := s.newLaunchId
      let pkt := packetOf b (descPmax q.desc)
      if getLe b 0 1 != 1 || (s.part part).frozen || (bitN pkt.flags 3 && decide (s.tick < pkt.gangTick)) || id == 0 then s
      else s.whenRead noCore 0x31 (depRanges part b ++ s.objRanges part b) fun s =>
      if !s.depsMet part b then s
      else if bitN pkt.flags 3 && !s.pow.synced then s.refusePacket sl q b 0x70
      else s.whenFree (s.slotHeld q 0) fun s =>
        let r := (s.launchRecord part pkt.codeVa pkt.entry).getD []
        let (n, s) := s.fresh
        let la : Launch :=
          { queue := q.qid, gpc := getLe q.desc 0x1C 1, part := part, pkt := pkt, entries := (List.range 4).map fun i => pkt.codeVa + getLe r (8 + 4 * i) 4,
            priv := bitN (getLe q.desc 0x1B 1) 1, nextGrove := 0, nextIdx := 0, frames := [], waiting := [], held := [], staged := [], stagedKeys := [], attempts := 0, started := n,
            failed := false, ended := false }
        { s with launches := s.launches.put id la, sched := { s.sched with launchId := id % 65535 + 1 } }.consume sl
/-- LAUNCH_START (R306). -/
def execLaunchStart (slot : Nat) (s : State) : Res := .next (s.startLaunch slot)
/-- A barrier or signal packet at the head completes (R305): its completion signal is decremented. -/
def State.passPacket (s : State) (sl ty : Nat) : State :=
  match s.slot? sl with
  | none => s
  | some q =>
    match q.head with
    | none => s
    | some b =>
      let part := descPart q.desc
      if getLe b 0 1 != ty || (ty == 2 && s.launches.any fun x => x.2.queue == q.qid) then s
      else s.whenRead noCore 0x31 (depRanges part b) fun s =>
      if !s.depsMet part b then s
      else s.whenFree (s.slotHeld q (getLe b 0x50 8)) fun s => (s.signal part 0 (getLe b 0x50 8) false).consume sl
/-- BARRIER_PACKET (R305). -/
def execBarrierPacket (slot : Nat) (s : State) : Res := .next (s.passPacket slot 2)
/-- SIGNAL_PACKET (R305). -/
def execSignalPacket (slot : Nat) (s : State) : Res := .next (s.passPacket slot 3)

/-! Dependency cycles (R416) -/

/-- A packet in the graph: its queue id and index, what it signals, and the unread signals it waits for, by physical address. -/
structure DepNode where
  qid : Nat
  n : Nat
  part : Nat
  cpl : Option Nat
  deps : List Nat
  deriving DecidableEq, Repr
/-- The VAs of up to 64 packets of a slot from its read index (R416). -/
def State.packetVas (s : State) (q : QSlot) : List (Nat × Nat) :=
  match s.schedRead (descPart q.desc) (getLe q.desc 0x10 8) 8 with
  | .ok w => (List.range (min 64 (leNat w - q.ridx))).map fun i => (q.ridx + i, getLe q.desc 0 8 + 128 * ((q.ridx + i) % 2 ^ getLe q.desc 0x18 1))
  | .error _ => []
/-- What the search for cycles reads of a slot: its packets and their dependency signals. -/
def State.nodeRanges (s : State) (q : QSlot) : List (Nat × Nat × Nat) :=
  let part := descPart q.desc
  match q.head with
  | none => []
  | some h => depRanges part h ++ (s.packetVas q).flatMap fun x => (part, x.2, 128) ::
      match s.schedRead part x.2 128 with
      | .ok b => depRanges part b
      | .error _ => []
/-- Up to 64 packets of a slot whose head waits on a dependency. -/
def State.depNodes (s : State) (q : QSlot) : List DepNode :=
  let part := descPart q.desc
  match q.head with
  | none => []
  | some h =>
    if s.depsMet part h then []
    else
      (s.packetVas q).filterMap fun x =>
        match s.schedRead part x.2 128 with
        | .error _ => none
        | .ok b =>
          let deps := ([0x58, 0x60, 0x68].map fun o => getLe b o 8).filterMap fun va => if s.sigZero part va then none else s.sigPa part va
          some { qid := q.qid, n := x.1, part := part, cpl := s.sigPa part (getLe b 0x50 8), deps := deps }
/-- P waits for Q: by a signal, or as the packet before it in its queue. -/
def DepNode.waitsFor (p q : DepNode) : Bool := (q.cpl.elim false fun a => p.deps.contains a) || (p.qid == q.qid && p.n == q.n + 1)
/-- A packet as a number, in the order of queue id and index. -/
def DepNode.key (p : DepNode) : Nat := p.qid * 2 ^ 64 + p.n
/-- The cycles through a packet v on which it is the least, that go on from a path, newest packet first; no packet occurs twice on one. -/
def cyclesFrom (nodes : List DepNode) (v : DepNode) : Nat → List DepNode → List (List DepNode)
  | 0, _ => []
  | fuel + 1, p =>
    match p with
    | [] => []
    | h :: _ =>
      (if h.waitsFor v then [p.reverse] else []) ++
        (nodes.filter fun q => h.waitsFor q && decide (v.key < q.key) && !p.contains q).flatMap fun q => cyclesFrom nodes v fuel (q :: p)
/-- The cycles of the mapped queues, each as its packets from the least on in the order in which they wait (R416). -/
def State.depCycles (s : State) : List (List Nat) :=
  let nodes := s.sched.slots.vals.flatMap s.depNodes
  nodes.flatMap fun v => (cyclesFrom nodes v nodes.length [v]).map fun p => p.map DepNode.key
/-- Record the cycles found at two boundaries in a row, once each (R416). -/
def State.cycleCheck (s : State) : State :=
  let old := s.sched.cycles
  let now := s.depCycles.map fun c =>
    match old.find? fun o => o.1 == c with
    | some (_, done) => (c, true, done)
    | none => (c, false, false)
  let s := now.foldl (fun s c =>
    if c.2.1 && !c.2.2 then
      let k := c.1.headD 0
      let part := (s.sched.slots.vals.find? fun q => q.qid == k / 2 ^ 64).elim 0 fun q => descPart q.desc
      s.log part (sysRec 3 2 0x2006 0x7000 part 0 0 (k % 2 ^ 32 + 2 ^ 32 * (k / 2 ^ 64)) c.1.length)
    else s) s
  { s with sched := { s.sched with cycles := now.map fun c => (c.1, c.2.1) } }

/-! Slice boundaries (R308, R310, R311) -/

/-- The length of a slice in ns (R310). -/
def State.slice (s : State) : Nat := 1000 * fld s.sched.schedctl 31 16
/-- The pending queue that is served first: the highest PMAX, then the least recently mapped (R311). -/
def State.nextPending (s : State) (left : List Nat) : Option Nat :=
  leastOf (left.map fun q => ((7 - descPmax (s.queueDesc q)) * 2 ^ 32 + (if s.sched.mapped.contains q then s.sched.mapped.idxOf q + 1 else 0), q))
/-- The slot a pending queue takes (R311). -/
def State.slotFor (s : State) (qid : Nat) : Option Nat :=
  let slots := s.sched.slots
  let idle := fun (q : QSlot) => q.head.isNone &&
    match s.schedRead (descPart q.desc) (getLe q.desc 0x10 8) 8 with
    | .ok w => leNat w == q.ridx
    | .error _ => false
  let pmax := descPmax (s.queueDesc qid)
  match (List.range 64).find? fun i => (slots.find? i).isNone with
  | some i => some i
  | none =>
    match (List.find? (fun (x : Nat × QSlot) => idle x.2) slots).map Prod.fst with
    | some i => some i
    | none => leastOf ((slots.filter fun (x : Nat × QSlot) => decide (descPmax x.2.desc ≤ pmax) && decide (x.2.since + s.slice ≤ s.tick)).map fun x =>
        (descPmax x.2.desc * 2 ^ 64 + x.2.since, x.1))
/-- Map the pending queues in their order. -/
def State.mapPending (s : State) : Nat → List Nat → State
  | 0, _ => s
  | fuel + 1, left =>
    match s.nextPending left with
    | none => s
    | some q =>
      let s := match s.slotFor q with
        | some sl => s.mapQueue sl q
        | none => s
      State.mapPending s fuel (left.filter (· != q))
/-- A stalled matrix operation may be reported again in the next slice (R439). -/
def Core.unreported (k : Core) : Core := { k with matQ := k.matQ.map fun (o : MatOp) => { o with reported := false } }
/-- What a slice boundary reads (R311, R416): the write index of each mapped queue, the read index of each pending one, and, of a queue whose head waits, its packets and their signals. -/
def State.sliceRanges (s : State) : List (Nat × Nat × Nat) :=
  (s.sched.slots.vals.flatMap fun q => (descPart q.desc, getLe q.desc 0x10 8, 8) :: s.nodeRanges q) ++
    s.sched.pending.map fun q => (descPart (s.queueDesc q) % 16, getLe (s.queueDesc q) 8 8, 8)
/-- SLICE_BOUNDARY (R311): %tick has reached a multiple of the slice. -/
def State.sliceTurn (s : State) : State :=
  if s.tick / s.slice ≤ s.sched.boundary / s.slice then s
  else s.whenRead noCore 0x31 s.sliceRanges fun s =>
    let s := { s with
      sched := { s.sched with boundary := s.tick, starved := [] }
      cores := s.cores.map fun (x : Nat × Core) => (x.1, x.2.unreported) }
    let s := s.sched.errs.keys.foldl (fun s q => s.seeErr q) s
    let off := s.sched.slots.filter fun (x : Nat × QSlot) => fld s.sched.qtbl 0 0 == 0 || !queueOn (s.queueDesc x.2.qid)
    let s := off.foldl (fun s x => s.unmapSlot x.1) s
    let s := s.cycleCheck
    if fld s.sched.qtbl 0 0 == 0 then s else s.mapPending s.sched.pending.length (s.sched.pending.filter fun q => queueOn (s.queueDesc q))
/-- SLICE_BOUNDARY (R311). -/
def execSliceBoundary (s : State) : Res := .next s.sliceTurn

end Sys2Proof.Machine
end

