-- ==== Sys2Proof/Machine/Place.lean ====
section
/-! DEFINITION. Admission and placement of groves (R10, R19, R20, R121, R129, R313 to R316, R456), and the scratchpad of a grove saved and restored (R134). -/
namespace Sys2Proof.Machine

/-! Scratchpads saved and restored (R134) -/

/-- The granules of a grove's allocations: buffer, granule of the window, state (0 another generation, 1 current, 2 unreadable), content. -/
def State.saveGrans (s : State) (core grove : Nat) : List (Nat × Nat × Nat × Granule) :=
  match s.groves.find? grove with
  | none => []
  | some g =>
    ((s.core core).allocs.filter fun a => a.grove == grove).flatMap fun a =>
      (List.range (a.size / 32)).map fun i =>
        let n := a.off / 32 + i
        let q := (s.core core).gran a.buf ((g.win a.buf).1 / 32 + n)
        (a.buf.code, n, if q.gen != a.gen then 0 else if ageOk s.T q a.cls then 1 else 2, q)
/-- A granule as it is written back under a fresh generation (R134). DESIGN CHOICE (log 92): one of another generation takes WTICK 0 and EXP 0 beside the GEN and data the rule gives. -/
def backGranule (t gen st : Nat) (q : Granule) : Granule :=
  if st == 1 then { q with gen := gen, wtick := t, exp := false, refreshed := t }
  else if st == 2 then { q with gen := gen, exp := true }
  else { Granule.reset with poison := q.poison }
/-- A core has n scratchpad generations left before the wrap (R129, R133). -/
def Core.gensLeft (k : Core) (n : Nat) : Bool :=
  !k.spSweep && decide (n ≤ ((List.range (257 + n)).filter fun i => decide (k.spGen + i ≤ 65535) && !(k.allocs.any fun a => a.gen == k.spGen + i)).length)
/-- Restore a grove's allocations on its core, each under a fresh generation (R134). -/
def State.restoreAllocs (s : State) (core grove : Nat) (allocs : List Alloc) (grans : List (Nat × Nat × Nat × Granule)) : State :=
  allocs.foldl (fun s a =>
    match s.groves.find? grove, (s.core core).nextSpGen with
    | some g, some gen =>
      let s := s.carve core grove a.buf a.off a.size a.cls a.ar a.strict gen
      let mine := grans.filter fun x => x.1 == a.buf.code && decide (a.off / 32 ≤ x.2.1 ∧ x.2.1 < (a.off + a.size) / 32)
      s.modCore core fun k => mine.foldl (fun k x => k.setGran a.buf ((g.win a.buf).1 / 32 + x.2.1) (backGranule s.T gen x.2.2.1 x.2.2.2)) k
    | _, _ => s) s

/-! Admission (R315, R316) -/

/-- The bytes of a buffer. -/
def bufBytes (b : Buf) : Nat :=
  match b with
  | .c => 2 ^ 19
  | _ => 2 ^ 20
/-- The groves whose windows lie on a core: placed there, or evicted with their windows kept (R320). -/
def State.windowsOn (s : State) (core : Nat) : List Grove :=
  s.groves.vals.filter fun g => g.core == core && (g.placed || g.saved.elim false fun v => v.resident)
/-- The lowest base at which a window fits (R121; DESIGN CHOICE, log 92: the rule leaves the base to the device). -/
def State.windowBase (s : State) (core : Nat) (b : Buf) (size : Nat) : Option Nat :=
  if size == 0 then some 0
  else
    let ws := ((s.windowsOn core).map fun g => g.win b).filter fun w => w.2 != 0
    ((0 :: ws.map fun w => w.1 + w.2).filter fun o =>
      decide (o + size ≤ bufBytes b) && !(ws.any fun w => decide (o < w.1 + w.2 ∧ w.1 < o + size))).min?
/-- The size in bytes of a request (R302). -/
def reqSize (r : Nat) : Nat := 256 * (r / 256)
/-- The window sizes of a launch's groves, by buffer. -/
def Packet.wins (p : Packet) : List Nat := p.req.map reqSize
/-- A core can take groves (R10, R471). -/
def State.inService (s : State) (core : Nat) : Bool :=
  decide (core < 640) && !(s.pow.disabled.contains core) && !(s.pow.outOfService.contains (standOf core))
/-- The windows of a partition on a core, in granules of a buffer (R314). -/
def State.granUse (s : State) (core part : Nat) (b : Buf) : Nat :=
  ((s.windowsOn core).filter fun g => (s.launches.find? g.launch).elim false fun la => la.part == part).foldl (fun a g => a + (g.win b).2 / 32) 0
/-- The placement allocations that a launch's groves need. -/
def Packet.placed (p : Packet) : Nat := (p.req.filter fun r => r / 256 != 0 && r % 4 != 3).length
/-- The record pages that a grove is charged (R315). -/
def Packet.recPages (p : Packet) : Nat := (32 * p.nstr.foldl (· + ·) 0 + 4095) / 4096
/-- The record pages of a partition in use on a core (R314): those its resident records lie on, and at least what its placed groves were charged (R315, log 85). -/
def State.pagesUsed (s : State) (core part : Nat) : Nat :=
  let held := (((s.core core).records.vals.filter fun r => !r.spilled && s.launchPart r.launch == part).map Record.page).eraseDups.length
  let charged := ((s.core core).groves.vals.filterMap fun g => (s.groves.find? g).bind fun g => s.launches.find? g.launch).foldl (fun a la => a + (if la.part == part then la.pkt.recPages else 0)) 0
  max held charged
/-- A core has room for a grove of a launch with n allocations (R52, R53, R122, R314, R315), whose windows are still there when `keep` (R320). -/
def State.roomFor (s : State) (core launch : Nat) (keep : Bool) (n : Nat) : Bool :=
  match s.launches.find? launch with
  | none => false
  | some la =>
    let q0 := (s.part la.part).pq0
    let q1 := (s.part la.part).pq1
    let p := la.pkt
    let gs := (s.core core).groves.vals
    let ofLaunch := (gs.filter fun g => (s.groves.find? g).elim false fun g => g.launch == launch).length
    let u := s.useOn core (some la.part) launch 0 1
    let all := s.useOn core none launch 0 1
    let maxA := p.allot.foldl max 0
    let quota := [(Buf.w, fld q1 47 32), (Buf.a, fld q1 31 16), (Buf.c, fld q1 15 0)]
    s.inService core && !(s.part la.part).frozen &&
    decide ((gs.filter fun g => s.grovePart g == la.part).length + 1 ≤ fld q0 47 42) && decide (gs.length < 48) && (la.gpc == 0 || decide (ofLaunch < la.gpc)) &&
    decide (u.1 + 1 ≤ fld q0 54 48 ∧ u.2 + maxA ≤ fld q0 41 29 ∧ all.1 + 1 ≤ 96 ∧ all.2 + maxA ≤ 4096) &&
    decide (s.pagesUsed core la.part + p.recPages ≤ fld q0 28 21) &&
    (keep || (quota.all fun x =>
      let size := p.wins.getD x.1.code 0
      decide (s.granUse core la.part x.1 + size / 32 ≤ x.2) && (s.windowBase core x.1 size).isSome)) &&
    (!(p.req.any fun r => r / 256 != 0 && r % 4 == 2) || s.lcmax (dieOf core) == 2) && decide ((s.core core).allocs.length + n ≤ 256)
/-- A core admits the next grove of a launch (R133, R315): it has room, and the generations its placement allocations take. -/
def State.admits (s : State) (core launch : Nat) : Bool :=
  let n := (s.launches.find? launch).elim 0 fun la => la.pkt.placed
  s.roomFor core launch false n && (s.core core).gensLeft n
/-- The admitting core that is chosen among some: fewest groves of the launch, then fewest groves, then the first after the previous placement (R315). -/
def State.chooseCore (s : State) (launch : Nat) (cores : List Nat) : Option Nat :=
  leastOf (cores.map fun c =>
    let gs := (s.core c).groves.vals
    let mine := (gs.filter fun g => (s.groves.find? g).elim false fun g => g.launch == launch).length
    ((mine * 64 + gs.length) * 1024 + (c + 640 - 1 - s.sched.prevCore % 640) % 640, c))
/-- The cores of the package. -/
def allCores : List Nat := List.range 640
/-- The core for the trailing copy: on die d + 1, d + 2 or d + 3, in that order (R456). -/
def State.trailCore (s : State) (launch lead : Nat) : Option Nat :=
  [1, 2, 3].findSome? fun i => s.chooseCore launch ((coresOf ((dieOf lead + i) % 4)).filter fun c => s.admits c launch)
/-- The launch runs as twin groves (R303). -/
def Launch.isTwin (la : Launch) : Bool := bitN la.pkt.flags 1
/-- Where the next grove of a launch goes: its core, and the trailing copy's (R315, R456). -/
def State.placeFor (s : State) (launch : Nat) : Option (Nat × Option Nat) :=
  match s.launches.find? launch with
  | none => none
  | some la =>
    let ok := allCores.filter fun c => s.admits c launch
    if la.isTwin then
      let ok := ok.filter fun c => (s.trailCore launch c).isSome
      (s.chooseCore launch ok).bind fun c => (s.trailCore launch c).map fun t => (c, some t)
    else (s.chooseCore launch ok).map fun c => (c, none)
/-- Groves of a launch are still to be placed. -/
def Launch.hasNext (la : Launch) : Bool := !la.ended && decide (la.nextGrove < la.pkt.gridX * la.pkt.gridY * la.pkt.gridZ)
/-- The place of a waiting launch in the order of service: highest priority, then earliest started (R316). -/
def Launch.turn (la : Launch) : Nat := (7 - la.pkt.prio) * 2 ^ 64 + la.started

/-! Placement (R19, R20, R121, R129) -/

/-- The lowest free slot of a core's grove table (R19). -/
def Core.groveSlot (k : Core) : Nat := ((List.range 48).find? fun i => (k.groves.find? i).isNone).getD 0
/-- A stand that takes a grove has its clocks running (R354). -/
def State.wakeStand (s : State) (core : Nat) : State :=
  { s with pow := { s.pow with gated := s.pow.gated.filter (· != standOf core), idle := s.pow.idle.del (standOf core) } }
/-- Give a grove its place on a core: slot, windows, clocks. -/
def State.seat (s : State) (key core : Nat) (wins : List Nat) : State :=
  let bases := [Buf.w, Buf.a, Buf.c].map fun b => (s.windowBase core b (wins.getD b.code 0)).getD 0
  let slot := (s.core core).groveSlot
  ((s.modCore core fun k => { k with groves := k.groves.put slot key }).modGrove key fun g =>
    { g with core := core, slot := slot, placed := true, base := bases, size := wins, born := s.tick, evicting := none, evictFor := 0, evictSeen := false }).wakeStand core
/-- The class that a request's class field names. -/
def reqClass (r : Nat) : LClass := if r % 4 == 0 then .l0 else if r % 4 == 1 then .l1 else .l2
/-- The placement allocations (R121, R129, R303). -/
def State.placeAllocs (s : State) (key core : Nat) (p : Packet) : State :=
  [Buf.w, Buf.a, Buf.c].foldl (fun s b =>
    let r := p.req.getD b.code 0
    if r / 256 == 0 || r % 4 == 3 then s
    else
      match (s.core core).nextSpGen with
      | some gen => s.carve core key b 0 (reqSize r) (reqClass r) (bitN p.flags 6) false gen
      | none => s) s
/-- The initial records of a grove, stage by stage, those of one stage a set (R20, R303, R360, R386). -/
def State.initial (s : State) (launch key core : Nat) (la : Launch) : State :=
  (List.range 4).foldl (fun s st =>
    let set := s.seq
    (List.range (la.pkt.nstr.getD st 0)).foldl (fun s i =>
      let (id, s) := s.fresh
      let t : Strand :=
        { launch := launch, grove := key, stage := st, index := i, burst := none, out := [], befStore := [], befAll := [], core := core,
          path := [], nOrd := 0, nSpawn := 0, nBread := 0, sig := 0, nStores := 0 }
      let pc : Pc := BitVec.ofNat 48 (la.entries.getD st 0)
      { s with strands := s.strands.put id t }.addRecord core
        { strand := id, launch := launch, stage := st, hx := false, pc := pc, preds := 0, repc := 0, regs := [], contig := true, pend := [], wait := none,
          widx := none, held := bitN la.pkt.flags 5 || la.holds st false, fwd := false, provisional := false, spilled := false, page := 0, tick := s.tick, origin := pc,
          poison := [], err := none, set := set, after := [] }) s) s
/-- The next grove index of a launch (R19, R473): it skips those that unretired groves of the launch hold. -/
def State.nextIdx (s : State) (launch : Nat) : Nat :=
  let held := (s.groves.vals.filter fun g => g.launch == launch).map fun g => g.idx
  let i := (s.launches.find? launch).elim 0 fun la => la.nextIdx
  (((List.range (held.length + 1)).map fun k => (i + k) % 2 ^ 32).find? fun n => !held.contains n).getD 0
/-- Place one grove, or one copy of a twin grove: its grove, windows, allocations and records; the grove's key. The core's L1 is emptied: what the launch's start acquired at .sys comes before every access of its strands (R118, R306, R309). -/
def State.placeOne (s : State) (launch core : Nat) (la : Launch) (twin : Nat → Option (Nat × Bool)) : Nat × State :=
  let n := la.nextGrove
  let i := s.nextIdx launch
  let (key, s) := (s.modLaunch launch fun la => { la with nextIdx := (i + 1) % 2 ^ 32 }).fresh
  let gx := la.pkt.gridX
  let g : Grove :=
    { launch := launch, idx := i, x := n % gx, y := n / gx % la.pkt.gridY, z := n / (gx * la.pkt.gridY), core := core, slot := 0, placed := true,
      base := [0, 0, 0], size := [0, 0, 0], tags := 0, stat := [], group := [], twin := twin key, saved := none, evicting := none, evictFor := 0, evictSeen := false,
      born := s.tick, matAt := s.tick }
  let s := (({ s with groves := s.groves.put key { g with placed := false } }.seat key core la.pkt.wins).placeAllocs key core la.pkt).invalidateL1 core
  (key, s.initial launch key core la)
/-- The image of a grove all of whose strands are records (R463). -/
def State.snapshot (s : State) (key : Nat) : Saved :=
  match s.groves.find? key with
  | none =>
    { resident := false, images := [], records := [], grans := [], allocs := [], tags := 0, stat := [], group := [], tiles := [], weights := [], mats := [],
      bulk := [], strands := [] }
  | some g =>
    let k := s.core g.core
    let strands : NMap Strand := s.strands.filter fun x => x.2.grove == key
    { resident := false, images := [], records := k.records.filter fun x => (strands.find? x.2.strand).isSome, grans := s.saveGrans g.core key,
      allocs := k.allocs.filter fun a => a.grove == key, tags := g.tags, stat := g.stat, group := g.group, tiles := k.tiles.filter fun t => t.grove == key,
      weights := k.weights.filter fun w => w.2.grove == key, mats := [], bulk := [], strands := strands }
/-- Place the next grove of a launch, with its trailing copy for a twin launch (R456, R463: checkpoint 0 is placement). -/
def State.placeNext (s : State) (launch : Nat) (la : Launch) (core : Nat) (trail : Option Nat) : State :=
  let advance := fun (s : State) => s.modLaunch launch fun la => { la with nextGrove := la.nextGrove + 1 }
  match trail with
  | none =>
    let (_, s) := s.placeOne launch core la fun _ => none
    { (advance s) with sched := { s.sched with prevCore := core } }
  | some tc =>
    let (lead, s) := s.placeOne launch core la fun k => some (k, false)
    let (tr, s) := s.placeOne launch tc la fun _ => some (lead, true)
    let w : Twin :=
      { trail := tr, lead := [], follow := [], releasing := 0, ckpt := 0, attempts := 0, log := [], fwd := [], posted := [], leadImg := s.snapshot lead,
        trailImg := s.snapshot tr, slice := 256 * dieOf core + Config.free s.freeN % 256 }
    { (advance s) with freeN := s.freeN + 1, twins := s.twins.put lead w, sched := { s.sched with prevCore := tc } }
/-- GROVE_ADMISSION (R315, R316): the launch's next grove is placed, unless a launch served before it can place one; a core short only of scratchpad generations starts its sweep (R133, R410). -/
def State.admission (s : State) (launch : Nat) : State :=
  match s.launches.find? launch with
  | none => s
  | some la =>
    if !la.hasNext then s
    else if s.launches.any fun x => x.2.hasNext && decide (x.2.turn < la.turn) && (s.placeFor x.1).isSome then s
    else
      match s.placeFor launch with
      | some (c, t) => s.placeNext launch la c t
      | none =>
        if la.pkt.placed == 0 then s
        else
          match allCores.find? fun c => !((s.core c).gensLeft la.pkt.placed) && s.inService c with
          | some c => s.startSpSweep c
          | none => s
/-- GROVE_ADMISSION (R315). -/
def execGroveAdmission (launch : Nat) (s : State) : Res := .next (s.admission launch)

end Sys2Proof.Machine
end

