-- ==== Sys2Proof/Machine/Twin.lean ====
section
/-! DEFINITION. Checkpoints of twin groves, rollback, and the retirement of groves and launches (R15, R16, R21, R379, R415, R455 to R468). -/
namespace Sys2Proof.Machine

/-! The compare (R457, R463, R466) -/

/-- The order of pairs (R457): stage, index, then the origin path step by step. -/
def lexLt : List Nat → List Nat → Bool
  | [], [] => false
  | [], _ :: _ => true
  | _ :: _, [] => false
  | x :: s, y :: t => decide (x < y) || (x == y && lexLt s t)
/-- A strand's side of a compare: pair, signature, count. -/
structure Side where
  pair : List Nat
  sig : DWord
  count : Nat
  deriving DecidableEq, Repr
/-- The sides of a copy: its strands, and those that exited since the last checkpoint (R463). -/
def State.sides (s : State) (w : Twin) (key : Nat) (trailing : Bool) : List Side :=
  ((s.strands.filter fun x => x.2.grove == key).map fun x => { pair := x.2.pair, sig := x.2.sig, count := x.2.nStores }) ++
    ((w.posted.filter fun p => p.1 == trailing).map fun p => { pair := p.2.1, sig := p.2.2.1, count := p.2.2.2 })
/-- A pair that does not agree: the pair, the XOR of the signatures, the cause (R463). -/
def mismatchOf (a b : List Side) (pair : List Nat) : Option (DWord × Nat) :=
  match a.find? fun x => x.pair == pair, b.find? fun x => x.pair == pair with
  | some x, some y => if x.count != y.count then some (x.sig ^^^ y.sig, 2) else if x.sig != y.sig then some (x.sig ^^^ y.sig, 1) else none
  | some x, none => some (x.sig, 3)
  | none, some y => some (y.sig, 3)
  | none, none => none
/-- The lowest of some pairs. -/
def lowestPair (ps : List (List Nat)) : Option (List Nat) := ps.find? fun p => ps.all fun q => !lexLt q p
/-- The lowest mismatching pair of two copies. -/
def firstMismatch (a b : List Side) : Option (List Nat × DWord × Nat) :=
  let ps := ((a ++ b).map fun x => x.pair).eraseDups
  (lowestPair (ps.filter fun p => (mismatchOf a b p).isSome)).bind fun p => (mismatchOf a b p).map fun m => (p, m)
/-- TWININJ fires at the completing checkpoint (R466). -/
def State.injects (s : State) (g : Grove) (n : Nat) : Bool :=
  fld s.twininj 0 0 == 1 && fld s.twininj 63 48 == g.launch && fld s.twininj 47 16 == g.idx && (fld s.twininj 15 8 == 0 || fld s.twininj 15 8 == n % 256)
/-- Bit 0 of the lowest pair's signature inverted (R466). -/
def injectSide (xs : List Side) (p : List Nat) : List Side := xs.map fun x => if x.pair = p then { x with sig := x.sig ^^^ 1 } else x

/-! Arrival (R462, R463) -/

/-- The record of a strand. -/
def State.recordOf (s : State) (strand : Nat) : Option Record :=
  (s.strands.find? strand).bind fun t => (s.core t.core).records.vals.find? fun r => r.strand == strand
/-- A strand has arrived at checkpoint n: by CKPT or a deferred atomic, or, of the trailing copy, waiting at the operation its partner arrived with. -/
def State.arrived (s : State) (lead strand n : Nat) (trailing : Bool) : Bool :=
  match s.recordOf strand, s.strands.find? strand with
  | some r, some t =>
    if r.wait == some (.ckpt n) then true
    else if trailing && r.wait == some (.fwd t.nOrd) then
      s.strands.any fun x => x.2.grove == lead && x.2.pair == t.pair && (s.recordOf x.1).elim false fun q => q.wait == some (.ckpt n) && q.pc == r.pc && q.origin == q.pc
    else false
  | _, _ => false
/-- No operation of a grove is in flight, in an engine or in a link engine. -/
def State.quiet (s : State) (key : Nat) : Bool :=
  let core := (s.groves.find? key).elim 0 fun g => g.core
  !(s.ops.any fun o => o.grove == key) && !((s.core core).bulkQ.any fun o => o.grove == key) && !((s.core core).matQ.any fun o => o.grove == key) &&
    !(s.link.colls.any fun c => c.grove == key)
/-- The strands of a grove. -/
def State.strandsOf (s : State) (key : Nat) : List Nat := (s.strands.filter fun x => x.2.grove == key).map Prod.fst
/-- Every strand of both copies has arrived at the next checkpoint, and one has (R463). -/
def State.allArrived (s : State) (lead : Nat) (w : Twin) : Bool :=
  let n := w.ckpt + 1
  let a := s.strandsOf lead
  let b := s.strandsOf w.trail
  !(a ++ b).isEmpty && a.all (fun t => s.arrived lead t n false) && b.all fun t => s.arrived lead t n true

/-! Completion and rollback (R460, R463, R464) -/

/-- The stores of a pair that are being released and not yet performed. -/
def State.releasingOps (s : State) (lead : Nat) : List Nat := (s.ops.filter fun o => o.grove == 0 && o.fields.headD 0 == lead).map MemOp.id
/-- Release a held store behind those released before it (R460): it is performed at once, or goes on to another package, or waits for the host. -/
def State.releaseOne (s : State) (launch lead core : Nat) (h : Held) : State :=
  let before := s.releasingOps lead
  let id := s.seq
  let s := s.pushStore 0 launch core h.va h.pa h.leaf h.data before [lead]
  if before.isEmpty && !s.remote h.pa then s.storePerforms id else s
/-- The cores of both copies forget what they held of the stores released (R118): every later load reads them at their home. -/
def State.dropHeld (s : State) (lead : Nat) (w : Twin) : State :=
  [lead, w.trail].foldl (fun s key => (s.groves.find? key).elim s fun g => w.lead.foldl (fun s h => s.dropSectors g.core h.pa h.data.length) s) s
/-- Arrived records bind (R463): the wait at checkpoint n clears. -/
def State.bindArrived (s : State) (key n : Nat) : State :=
  match s.groves.find? key with
  | none => s
  | some g => s.fire g.core fun r w => w == .ckpt n && (s.strands.find? r.strand).elim false fun t => t.grove == key
/-- A checkpoint completes once the leading half is released (R463). -/
def State.ckptDone (s : State) (lead : Nat) (w : Twin) : State :=
  let n := w.ckpt + 1
  let s := s.dropHeld lead w
  let s := { s with
    strands := s.strands.map fun (x : Nat × Strand) => (x.1, if x.2.grove = lead ∨ x.2.grove = w.trail then { x.2 with sig := 0, nStores := 0 } else x.2)
    twins := s.twins.adj lead fun w => { w with lead := [], follow := [], releasing := 0, ckpt := n, attempts := 0, log := [], fwd := [], posted := [] } }
  let s := (s.bindArrived lead n).bindArrived w.trail n
  { s with twins := s.twins.adj lead fun w => { w with leadImg := s.snapshot lead, trailImg := s.snapshot w.trail } }
/-- Restore one copy from its image on its own core (R464, R134). -/
def State.rollOne (s : State) (key : Nat) (v : Saved) : State :=
  match s.groves.find? key with
  | none => s
  | some g =>
    let mine := fun (t : Nat) => (s.strands.find? t).elim false fun t => t.grove == key
    let s := s.modCore g.core fun k => { k with
      records := k.records.filter fun x => !mine x.2.strand
      allocs := k.allocs.filter fun a => a.grove != key
      tiles := k.tiles.filter (fun t => t.grove != key) ++ v.tiles
      weights := v.weights.foldl (fun m w => NMap.put m w.1 w.2) (k.weights.filter fun w => w.2.grove != key)
      bulkQ := k.bulkQ.filter fun o => o.grove != key
      matQ := k.matQ.filter fun o => o.grove != key }
    let s := s.modCore g.core fun k =>
      k.unqueue fun i => (NMap.find? k.records i).isNone
    let s := { s with
      strands := v.strands.foldl (fun (m : NMap Strand) (x : Nat × Strand) => NMap.put m x.1 { x.2 with core := g.core }) (s.strands.filter fun (x : Nat × Strand) => x.2.grove != key)
      ops := s.ops.filter fun o => o.grove != key }
    let s := (s.modGrove key fun g => { g with tags := v.tags, stat := v.stat, group := v.group }).restoreAllocs g.core key v.allocs v.grans
    v.records.foldl (fun (s : State) (x : Nat × Record) => s.putBack g.core x.1 { x.2 with tick := s.tick }) s
/-- Roll a pair back to its last checkpoint (R464). -/
def State.rollback (s : State) (lead : Nat) (w : Twin) (part : Nat) : State :=
  let s := (s.rollOne lead w.leadImg).rollOne w.trail w.trailImg
  let s := { s with twins := s.twins.adj lead fun w => { w with lead := [], follow := [], attempts := w.attempts + 1, fwd := [], posted := [] } }
  s.modPart part fun q => { q with rascnt := putFld q.rascnt 47 32 (min 0xFFFF (fld q.rascnt 47 32 + 1)) }
/-- The cores of a pair have generations for a rollback; one that has none starts its sweep (R410). -/
def State.pairGens (s : State) (lead : Nat) (w : Twin) : Option Nat :=
  [(lead, w.leadImg), (w.trail, w.trailImg)].findSome? fun x =>
    (s.groves.find? x.1).bind fun g => if (s.core g.core).gensLeft x.2.allocs.length then none else some g.core
/-- The record of a mismatch (R463, R464). -/
def State.twinRec (s : State) (g : Grove) (w : Twin) (m : List Nat × DWord × Nat) (inj : Bool) : FaultRec :=
  let retry := w.attempts + 1
  let last := decide (3 < retry)
  let part := (s.launches.find? g.launch).elim 0 fun la => la.part
  { (sysRec 2 (if last then 3 else 1) (if last then 0x4002 else 0x4001) (0x5000 + w.slice) part 0 0 m.2.1.toNat
      (min 4 retry + 256 * m.2.2 + 65536 * (w.ckpt + 1) + 2 ^ 48 * inj.toNat)) with launch := g.launch, grove := g.idx, strand := m.1.getD 1 0 }
/-- Compare the copies at a checkpoint or at retirement: `good` when they agree (R463, R464, R466). -/
def State.compareTwin (s : State) (lead : Nat) (good : State → Twin → Nat → State) : State :=
  match s.groves.find? lead, s.twins.find? lead with
  | some g, some w =>
    if w.releasing != 0 then s
    else
    match s.pairGens lead w with
    | some core => s.startSpSweep core
    | none =>
      let part := (s.launches.find? g.launch).elim 0 fun la => la.part
      let inj := s.injects g (w.ckpt + 1)
      let copy := fld s.twininj 1 1 == 1
      let a := s.sides w lead false
      let b := s.sides w w.trail true
      let low := lowestPair (((if copy then b else a).map fun x => x.pair))
      let hit := fun (xs : List Side) (here : Bool) => if inj && here then low.elim xs (injectSide xs) else xs
      let s := if inj then { s with twininj := putFld s.twininj 0 0 0 } else s
      match firstMismatch (hit a (!copy)) (hit b copy) with
      | none => good s w part
      | some m =>
        let r := s.twinRec g w m inj
        let s := s.modPart part fun q => { q with rascnt := putFld q.rascnt 63 48 (min 0xFFFF (fld q.rascnt 63 48 + 1)) }
        if 3 < w.attempts + 1 then s.terminate g.launch r else (s.log part r).rollback lead w part
  | _, _ => s
/-! Retirement (R15, R16, R21, R415, R468) -/

/-- Runs of staged bytes within a line, ascending. -/
def stagedRuns : NMap Byte → List (Nat × List Byte)
  | [] => []
  | (a, b) :: t =>
    match stagedRuns t with
    | (c, bs) :: r => if c = a + 1 ∧ a / 64 = c / 64 then (a, b :: bs) :: r else (a, [b]) :: (c, bs) :: r
    | [] => [(a, [b])]
/-- A write of a unit that is no strand (R328): performed at once, or once the host has answered the snoop of a line it may hold. -/
def State.unitWrite (s : State) (launch part pa : Nat) (leaf : DWord) (bs : List Byte) : State :=
  if s.host.cxl && s.isLocal pa && (linesOf pa bs.length).any (fun n => s.host.lines.contains n) then
    let id := s.seq
    (s.pushStore 0 launch 0 0 pa leaf bs [] []).storePerforms id
  else s.anyWrite part pa leaf bs
/-- Commit a staged node (R468), each line under the key slot it was staged with (R348). -/
def State.commit (s : State) (launch : Nat) (la : Launch) : State :=
  (stagedRuns la.staged).foldl (fun s x => s.unitWrite launch la.part (x.1 + s.pkg * 2 ^ 41) (BitVec.ofNat 64 (la.stagedKeys.getD (x.1 / 64) 0 * 2 ^ 58)) x.2) s
/-- Every grove of a launch has been placed and has retired (R15). -/
def State.allRetired (s : State) (launch : Nat) (la : Launch) : Bool := !la.hasNext && !la.ended && !(s.groves.any fun g => g.2.launch == launch)
/-- A launch that has ended is reported once nothing it issued is in flight (R15, R16, R306, R379): its completion signal is updated, the id is free. -/
def State.settleLaunch (s : State) (launch : Nat) (la : Launch) : State :=
  if s.ops.any fun o => o.launch == launch then s
  else s.whenFree (s.wordHeld la.part la.pkt.cplSig) fun s =>
    let s := s.signal la.part launch la.pkt.cplSig la.ended
    { s with launches := s.launches.del launch }
/-- A launch whose groves have all retired ends (R15, R306, R468): commit, then its completion signal. -/
def State.endLaunch (s : State) (launch : Nat) : State :=
  match s.launches.find? launch with
  | none => s
  | some la =>
    if s.allRetired launch la then
      ((s.commit launch la).modLaunch launch fun la => { la with staged := [], stagedKeys := [] }).settleLaunch launch la
    else s
/-- Launches that were terminated, or have retired, end once their stores are performed (R15, R16, R379). -/
def State.settleEnded (s : State) : State :=
  s.launches.foldl (fun s x => if x.2.ended || s.allRetired x.1 x.2 then s.settleLaunch x.1 x.2 else s) s
/-- Everything of a grove has ended (R21). -/
def State.groveEmpty (s : State) (key : Nat) : Bool := (s.strandsOf key).isEmpty && s.quiet key
/-- A grove leaves its core: its scratchpad allocations, tags and tile handles are released (R21). -/
def State.removeGrove (s : State) (key : Nat) : State :=
  match s.groves.find? key with
  | none => s
  | some g =>
    { (s.modCore g.core fun k => { k with
        groves := k.groves.filter fun x => x.2 != key
        allocs := k.allocs.filter fun a => a.grove != key
        tiles := k.tiles.filter fun t => t.grove != key
        weights := k.weights.filter fun w => w.2.grove != key }) with groves := s.groves.del key }.restStand g.core

/-! The release of a compare buffer goes on (R460, R463) -/

/-- A twin pair retires once its stores are released (R15, R463). -/
def State.pairDone (s : State) (lead : Nat) (w : Twin) (launch : Nat) : State :=
  let s := (((s.dropHeld lead w).removeGrove lead).removeGrove w.trail)
  { s with twins := s.twins.del lead }.endLaunch launch
/-- The stores of a pair being released are all performed: what waited for that goes on. -/
def State.afterRelease (s : State) (lead : Nat) : State :=
  match s.twins.find? lead, s.groves.find? lead with
  | some w, some g =>
    if w.releasing == 0 || !(s.releasingOps lead).isEmpty || [lead, w.trail].any (fun k => (s.groves.find? k).elim true fun g => !g.placed || g.evicting.isSome) then s
    else if w.releasing == 1 then s.ckptDone lead w
    else s.pairDone lead w g.launch
  | _, _ => s
/-- Release the leading half in entry order, then go on (R460). -/
def State.release (s : State) (lead how : Nat) (w : Twin) : State :=
  match s.groves.find? lead with
  | none => s
  | some g =>
    let s := { s with twins := s.twins.adj lead fun w => { w with releasing := how } }
    (w.lead.foldl (fun s h => s.releaseOne g.launch lead g.core h) s).afterRelease lead
/-- Releases that have come to their end go on. -/
def State.settleTwins (s : State) : State := s.twins.keys.foldl (fun s lead => s.afterRelease lead) s
/-- CHECKPOINT_COMPLETE (R463). -/
def State.checkpoint (s : State) (lead : Nat) : State :=
  match s.twins.find? lead with
  | none => s
  | some w =>
    if s.allArrived lead w && s.quiet lead && s.quiet w.trail then s.compareTwin lead fun s w _ => s.release lead 1 w else s
/-- CHECKPOINT_COMPLETE (R463). -/
def execCheckpointComplete (lead : Nat) (s : State) : Res := .next (s.checkpoint lead)

/-- GROVE_RETIREMENT (R21): of a twin pair both at once, after their last compare (R463). -/
def State.retire (s : State) (key : Nat) : State :=
  match s.groves.find? key with
  | none => s
  | some g =>
    match g.twin with
    | none => if g.placed && s.groveEmpty key then (s.removeGrove key).endLaunch g.launch else s
    | some (_, true) => s
    | some (_, false) =>
      match s.twins.find? key with
      | none => s
      | some w =>
        if g.placed && s.groveEmpty key && s.groveEmpty w.trail then
          s.compareTwin key fun s w _ => s.release key 2 w
        else s
/-- GROVE_RETIREMENT (R21). -/
def execGroveRetirement (grove : Nat) (s : State) : Res := .next (s.retire grove)

end Sys2Proof.Machine
end

