-- ==== Sys2Proof/Machine/Evict.lean ====
section
/-! DEFINITION. Eviction and restore of groves (R51, R154, R318 to R321, R407, R412, R456). -/
namespace Sys2Proof.Machine

/-! Victims (R318) -/

/-- A grove may be evicted for a waiting launch of priority p (R318, R405). -/
def State.evictable (s : State) (p : Nat) (g : Grove) : Bool :=
  match s.launches.find? g.launch with
  | none => false
  | some la => g.placed && g.evicting.isNone && !(s.part la.part).frozen && (decide (la.pkt.prio < p) || (la.pkt.prio == p && decide (g.born + s.slice ≤ s.tick)))
/-- The groves that go with a victim: both copies of a twin pair (R456). -/
def State.pairOf (s : State) (key : Nat) : List Nat :=
  match s.sideOf key with
  | none => [key]
  | some (lead, _) => lead :: ((s.twins.find? lead).map fun w => w.trail).toList
/-- The victims of a core in their order: lowest priority, then most recently placed or restored (R318). -/
def State.victims (s : State) (core p : Nat) : List Nat :=
  let gs := s.groves.filter fun (x : Nat × Grove) => x.2.core == core && s.evictable p x.2 && (s.pairOf x.1).all fun k => (s.groves.find? k).elim false (s.evictable p)
  ((gs.map fun x => (((s.launches.find? x.2.launch).elim 0 fun la => la.pkt.prio) * 2 ^ 64 + (2 ^ 64 - 1 - x.2.born % 2 ^ 64), x.1)).mergeSort fun a b => decide (a.1 ≤ b.1)).map Prod.snd
/-- The machine with groves gone from a core, to ask what it would admit. -/
def State.without (s : State) (core : Nat) (gs : List Nat) : State :=
  let mine := fun (t : Nat) => (s.strands.find? t).elim false fun t => gs.contains t.grove
  let s := s.modCore core fun k => { k with
    groves := k.groves.filter fun x => !gs.contains x.2
    slots := k.slots.filter fun x => !(x.2.lanes.all fun l => mine l.2.strand)
    records := k.records.filter fun x => !mine x.2.strand
    allocs := k.allocs.filter fun a => !gs.contains a.grove }
  { s with groves := s.groves.filter fun x => !gs.contains x.1 }
/-- The victims whose going lets a core admit the launch's next grove: as few as suffice, none where it is admitted already (R318). -/
def State.victimsFor (s : State) (core launch p : Nat) : Option (List Nat) :=
  let vs := s.victims core p
  (List.range (vs.length + 1)).findSome? fun n => if (s.without core (vs.take n)).admits core launch then some (vs.take n) else none

/-! Steps 1 and 2 (R51, R319) -/

/-- The record of a lane that parks with its whole allotment, its current PC and %repc; what it is still owed lands in its slots, so it may bin at once (R33, R51). -/
def State.wholeRecord (s : State) (co : Cohort) (l : Nat) (x : Lane) (held : Bool) : Record :=
  { strand := x.strand, launch := co.launch, stage := co.stage, hx := co.kind == .handler, pc := x.pc, preds := x.preds, repc := x.repc,
    regs := (List.range co.allot).map fun n => (n, co.reg n l), contig := true, pend := [], wait := none, widx := none,
    held := held, fwd := false, provisional := false, spilled := false, page := 0, tick := s.tick, origin := x.pc, poison := x.poison, err := none, set := 0, after := [] }
/-- Park a lane with its whole allotment, its current PC and %repc (R51). -/
def State.parkWhole (s : State) (core sl l : Nat) : State :=
  match s.cohort? core sl with
  | none => s
  | some co =>
    match co.lanes.find? l with
    | none => s
    | some x =>
      let held := (s.launches.find? co.launch).elim false fun la => la.holds co.stage (co.kind == .handler)
      let r := s.wholeRecord co l x held
      (s.setCohort core sl { co with lanes := co.lanes.del l, segTick := s.tick, wdogSeen := false }).addRecord core r
/-- Stop a cohort that holds lanes of a grove: those go into an image, the others park (R51, R319). -/
def State.stopFor (s : State) (core sl key : Nat) : State :=
  match s.cohort? core sl with
  | none => s
  | some co =>
    let mine := fun (x : Nat × Lane) => (s.strands.find? x.2.strand).elim false fun t => t.grove == key
    let img := co.lanes.filter mine
    if img.isEmpty then s
    else
      let others := (co.lanes.filter fun x => !mine x).map Prod.fst
      let st := { co with lanes := img }.stop s.tick core [] 0 ((img.map fun (x : Nat × Lane) => x.2.pc).foldl (fun a p => if p < a then p else a) (BitVec.allOnes 48)) 0
      let s := others.foldl (fun s l => s.parkWhole core sl l) s
      let s := s.modCore core fun k => k.vacate sl
      match { co with lanes := img }.lostReg with
      | some n => s.stateLost core co.launch 5 n
      | none =>
      s.modGrove key fun g => { g with saved := g.saved.map fun v => { v with images := v.images ++ [st] } }
/-- An image is split as a running cohort is (R51, R385): the lanes of a grove stay in it, the others become records on their own core, as its registers stand. -/
def State.splitImage (s : State) (st : Stopped) (key : Nat) (held : Bool) (put : State → Stopped → State) : State :=
  let mine := fun (x : Nat × Lane) => (s.strands.find? x.2.strand).elim false fun t => t.grove == key
  let kept := st.cohort.lanes.filter mine
  let others := st.cohort.lanes.filter fun x => !mine x
  if kept.isEmpty || others.isEmpty then s
  else
    let now := match st.edited with
      | .ok (st', _) => st'.cohort
      | .error _ => st.cohort
    let s := put s { st with cohort := { now with lanes := now.lanes.filter mine }, edit := [] }
    others.foldl (fun s x => match now.lanes.find? x.1 with
      | some y => s.addRecord st.core (s.wholeRecord now x.1 y held)
      | none => s.endStrand x.2.strand) s
/-- The halted and rotated images of an evicted grove's core that hold lanes of other groves too are split (R385); those lanes' records are held in the one case until RELEASE. -/
def State.splitImages (s : State) (part key : Nat) : State :=
  let s := (s.part part).halted.foldl (fun (s : State) (x : Nat × Stopped) =>
    s.splitImage x.2 key true fun s st => s.modPart part fun q => { q with halted := q.halted.put x.1 st }) s
  (s.part part).rotated.foldl (fun (s : State) (st : Stopped) =>
    s.splitImage st key false fun s t => s.modPart part fun q => { q with rotated := q.rotated.map fun u => if u = st then t else u }) s
/-- The victims that make room for a launch's next grove: on the first core where that helps, and for a twin launch on one for the trailing copy too (R318, R456). -/
def State.victimSet (s : State) (launch : Nat) (la : Launch) : Option (List Nat) :=
  let p := la.pkt.prio
  if la.isTwin then
    allCores.findSome? fun c => (s.victimsFor c launch p).bind fun a =>
      [1, 2, 3].findSome? fun i => (coresOf ((dieOf c + i) % 4)).findSome? fun t => (s.victimsFor t launch p).map fun b => a ++ b
  else allCores.findSome? fun c => s.victimsFor c launch p
/-- A trap whose image waits on a core that its grove leaves keeps no slot there (R321, R375). -/
def State.dropKept (s : State) (core key : Nat) : State :=
  let mine := fun (st : Stopped) => st.core == core && st.cohort.lanes.any fun x => (s.strands.find? x.2.strand).elim false fun t => t.grove == key
  s.modCore core fun k => (((s.launches.vals.flatMap fun la => la.waiting).filter mine)).foldl (fun k st => k.release (k.keptFor st.cohort)) k
/-- A grove begins to be evicted, to make room for a launch (R319 steps 1 and 2): its ready records move to the caldera. -/
def State.evictBegin (s : State) (launch key : Nat) : State :=
  match s.groves.find? key with
  | none => s
  | some g =>
    let mine := fun (r : Record) => (s.strands.find? r.strand).elim false fun t => t.grove == key
    let empty : Saved :=
      { resident := false, images := [], records := [], grans := [], allocs := [], tags := 0, stat := [], group := [], tiles := [], weights := [], mats := [],
        bulk := [], strands := [] }
    let s := s.modCore g.core fun k =>
      let rids := (k.records.filter fun x => mine x.2).map Prod.fst
      { k.unqueue rids.contains with
        records := k.records.map fun (x : Nat × Record) => (x.1, if mine x.2 && x.2.ready then { x.2 with spilled := true } else x.2) }
    let s := s.modGrove key fun g => { g with evicting := some s.tick, evictFor := launch, evictSeen := false, saved := some empty }
    let s := (s.splitImages (s.launchPart g.launch) key).dropKept g.core key
    (s.core g.core).slots.keys.foldl (fun s sl => s.stopFor g.core sl key) s
/-- The machine as it will be once the evictions in progress for a launch, or for one that has gone, have ended. -/
def State.afterEvictions (s : State) (launch : Nat) : State :=
  s.groves.foldl (fun (t : State) (x : Nat × Grove) => if x.2.evicting.isSome && (x.2.evictFor == launch || (s.launches.find? x.2.evictFor).isNone) then t.without x.2.core [x.1] else t) s
/-- A waiting launch evicts (R316, R318), unless those in progress for it make room enough. -/
def State.evictFor (s : State) (launch : Nat) : State :=
  match s.launches.find? launch with
  | none => s
  | some la =>
    if !la.hasNext || (s.part la.part).frozen || ((s.afterEvictions launch).placeFor launch).isSome then s
    else
      match (s.afterEvictions launch).victimSet launch la with
      | none => s
      | some vs => ((vs.flatMap s.pairOf).eraseDups).foldl (fun s k => s.evictBegin launch k) s

/-! Steps 3 to 6 (R319, R320) -/

/-- The step of R319 that an eviction has not finished; 6 when it can end. -/
def State.evictStep (s : State) (key : Nat) (g : Grove) : Nat :=
  let k := s.core g.core
  let began := g.evicting.getD 0
  let owed := (g.saved.elim [] fun v => v.images).any fun st => st.cohort.lanes.any fun x => !(s.owed x.2.strand).isEmpty
  let mats := k.matQ.filter fun o => o.grove == key
  if owed || s.ops.any (fun o => o.grove == key && o.isSp) then 2
  else if (mats.any fun o => o.started.isSome) || (!mats.isEmpty && decide (s.tick < began + 5000)) then 3
  else if (k.bulkQ.any fun o => o.grove == key && o.bursts.any fun b => b.2 == .reading) || s.ops.any (fun o => o.isEng && o.grove == key && !o.cxlOpen) then 4
  else 6
/-- What is saved of a grove at the end of its eviction (R319 step 6, R320). -/
def State.saveOf (s : State) (key : Nat) (g : Grove) (resident : Bool) : Saved :=
  let k := s.core g.core
  { resident := resident, images := g.saved.elim [] fun v => v.images, records := [], grans := if resident then [] else s.saveGrans g.core key,
    allocs := if resident then [] else k.allocs.filter fun a => a.grove == key, tags := g.tags, stat := g.stat, group := [],
    tiles := k.tiles.filter fun t => t.grove == key, weights := k.weights.filter fun w => w.2.grove == key, mats := k.matQ.filter (fun o => o.grove == key) ++ g.saved.elim [] (fun v => v.mats),
    bulk := k.bulkQ.filter fun o => o.grove == key, strands := [] }
/-- Take what is saved of a grove out of its core (R319 step 6, R320). -/
def State.evictEnd (s : State) (key : Nat) (g : Grove) (resident : Bool) : State :=
  let v := s.saveOf key g resident
  let part := s.launchPart g.launch
  let first := (fld (s.part part).pcal 51 30 * 2 ^ 30 + s.calBytes part) / 64
  let s := if resident then s else { s with poisoned := s.poisoned.filter fun n => !decide (first ≤ n ∧ n < first + v.bytes / 64) }
  let s := s.modCore g.core fun k => { k with
    groves := k.groves.filter fun x => x.2 != key
    allocs := if resident then k.allocs else k.allocs.filter fun a => a.grove != key
    tiles := k.tiles.filter fun t => t.grove != key
    weights := k.weights.filter fun w => w.2.grove != key
    matQ := k.matQ.filter fun o => o.grove != key
    bulkQ := k.bulkQ.filter fun o => o.grove != key }
  (s.modGrove key fun g => { g with placed := false, evicting := none, saved := some v }).restStand g.core
/-- A grove that was being evicted goes on in its place (R407). -/
def State.evictUndo (s : State) (key : Nat) (g : Grove) : State :=
  let images := g.saved.elim [] fun v => v.images
  let s := s.modGrove key fun g => { g with evicting := none, saved := none }
  let s := s.modCore g.core fun k => { k with matQ := k.matQ ++ g.saved.elim [] fun v => v.mats }
  images.foldl (fun s st => s.resume st) s
/-- The waiting grove's windows fit while this grove keeps its own (R320): in the buffers' free space, and, where both are of one partition, in its quota of granules, to which kept windows are charged (DESIGN CHOICE, log 101: the rule says fit, not what is counted). -/
def State.staysResident (s : State) (launch : Nat) (g : Grove) : Bool :=
  match s.launches.find? launch with
  | none => false
  | some la =>
    [(Buf.w, 47, 32), (Buf.a, 31, 16), (Buf.c, 15, 0)].all fun x =>
      let size := la.pkt.wins.getD x.1.code 0
      (s.windowBase g.core x.1 size).isSome && (s.launchPart g.launch != la.part || decide (s.granUse g.core la.part x.1 + size / 32 ≤ fld (s.part la.part).pq1 x.2.1 x.2.2))
/-- 5 µs after the start of an eviction the grove's matrix operations that have not started leave the queue, and are kept in order (R319 step 3). -/
def State.takeMats (s : State) (key : Nat) : State :=
  match s.groves.find? key with
  | none => s
  | some g =>
    let out := (s.core g.core).matQ.filter fun o => o.grove == key && o.started.isNone
    if out.isEmpty || g.evicting.isNone || !s.matTaken key then s
    else
      (s.modCore g.core fun k => { k with matQ := k.matQ.filter fun o => !(o.grove == key && o.started.isNone) }).modGrove key fun g =>
        { g with saved := g.saved.map fun v => { v with mats := v.mats ++ out } }
/-- An eviction that can end does so; without room in the caldera for its tags, granules, handles, weight slots and operations it is abandoned and the partition freezes (R319, R320, R407); none ends while the partition is frozen (R405). -/
def State.evictTurn (s : State) (key : Nat) : State :=
  match s.groves.find? key with
  | none => s
  | some g =>
    if g.evicting.isNone || s.evictStep key g != 6 || s.frozenL g.launch then s
    else
      let part := (s.launches.find? g.launch).elim 0 fun la => la.part
      let resident := s.staysResident g.evictFor g && !(s.pow.outOfService.contains (standOf g.core))
      if s.calFits part (s.saveOf key g resident).bytes then s.evictEnd key g resident else (s.evictUndo key g).freeze g.core part ((s.strandsOf key).headD 0) 0
/-- The groves being evicted for a launch, with those whose launch has gone. -/
def State.evictedFor (s : State) (launch : Nat) : List Nat :=
  (s.groves.filter fun (x : Nat × Grove) => x.2.evicting.isSome && (x.2.evictFor == launch || (s.launches.find? x.2.evictFor).isNone)).map Prod.fst
/-- EVICTION (R318, R319): step 1 chooses victims for a waiting launch and stops them; a later step ends what can end. -/
def execEvict (launch step : Nat) (s : State) : Res :=
  .next (if step ≤ 1 then s.evictFor launch else (s.evictedFor launch).foldl (fun s k => (s.takeMats k).evictTurn k) s)
/-- A record about an eviction (R400). -/
def State.evictRec (s : State) (key : Nat) (g : Grove) (cls sev code : Nat) : FaultRec :=
  let part := (s.launches.find? g.launch).elim 0 fun la => la.part
  { (sysRec cls sev code g.core part 0 0 (s.evictStep key g) 0) with launch := g.launch, grove := g.idx }
/-- EVICTION_OVER_BOUND (R412): unfinished after 40 µs. -/
def execEvictionOverBound (grove : Nat) (s : State) : Res :=
  .next <|
    match s.groves.find? grove with
    | none => s
    | some g =>
      if g.evicting.elim false (fun t => decide (t + 40000 ≤ s.tick)) && !g.evictSeen then
        (s.logRec (s.evictRec grove g 3 1 0x2007)).modGrove grove fun g => { g with evictSeen := true }
      else s
/-- EVICTION_ABANDON (R412): unfinished after 1 ms, the launch of the grove is terminated. -/
def execEvictionAbandon (grove : Nat) (s : State) : Res :=
  .next <|
    match s.groves.find? grove with
    | none => s
    | some g => if g.evicting.elim false (fun t => decide (t + 1000000 ≤ s.tick)) then s.terminate g.launch (s.evictRec grove g 1 3 0x2008) else s

/-! Restore (R321, R134, R154) -/

/-- Frames whose image holds lanes of a grove follow it to its core (R321). -/
def Launch.moveFrames (la : Launch) (core : Nat) (mine : Nat → Bool) : Launch :=
  let move := fun (f : Frame) => if f.img.cohort.lanes.any (fun l => mine l.2.strand) then { f with core := core, img := { f.img with core := core } } else f
  { la with frames := la.frames.map move }
/-- The lane words of an image with the grove's old slot replaced by its new one (R75): bits [63:58] of each lane's word. -/
def reslot (lanes : List Nat) (old new : Nat) (bs : List Byte) : List Byte :=
  lanes.foldl (fun bs l => if getLe bs (8 * l + 7) 1 / 4 = old then putBytes bs (8 * l + 7) [BitVec.ofNat 8 (getLe bs (8 * l + 7) 1 % 4 + 4 * new)] else bs) bs
/-- The images that an evicted grove's lanes stand in follow it: their core, and GSLOT in those that were written (R75, R321). -/
def Stopped.follow (st : Stopped) (core old new : Nat) (mine : Nat → Bool) : Stopped :=
  let lanes := (st.cohort.lanes.filter fun (x : Nat × Lane) => mine x.2.strand).map Prod.fst
  if lanes.isEmpty then st else { st with core := core, edit := if st.edit.isEmpty then [] else reslot lanes old new st.edit }
/-- GSLOT in a trap frame of the grove's lanes (R75, R373). -/
def State.reslotFrame (s : State) (la : Launch) (f : Frame) (core old new : Nat) (mine : Nat → Bool) : State :=
  let va := la.frameVa f.trailing + 0x200
  let lanes := (f.img.cohort.lanes.filter fun (x : Nat × Lane) => mine x.2.strand).map Prod.fst
  if lanes.isEmpty then s
  else
    match s.vaRead core la.part la.part (lineFuel 256) va 256 with
    | .error _ => s
    | .ok bs => (s.vaWrite core la.part la.part (lineFuel 256) va (reslot lanes old new bs)).1
/-- What a moved record awaits on its new core: the walk of its page on that die, a table entry there, or a sweep that may not run there (R113, R133). -/
def State.rejoin (s : State) (core rid : Nat) : State :=
  match ((s.core core).records.find? rid).bind fun r => r.wait with
  | some (.xlat p g v) =>
    let w := s.missNow core (some (.xlat p g v))
    (s.joinWalk core w).modCore core fun k => { k with records := k.records.adj rid fun r => { r with wait := w } }
  | some .tableFree | some .sweepDone => s.wakeOne core rid
  | _ => s
/-- The windows and allocations of an evicted grove are attached in place, or restored on its core (R134, R321). -/
def State.reseat (s : State) (key core : Nat) (g : Grove) (v : Saved) : State :=
  if v.resident && core == g.core then
    ((s.modCore core fun k => { k with groves := k.groves.put k.groveSlot key }).modGrove key fun g =>
      { g with slot := (s.core core).groveSlot, placed := true, saved := none, born := s.tick }).wakeStand core
  else
    let (allocs, grans) := if v.resident then ((s.core g.core).allocs.filter fun a => a.grove == key, s.saveGrans g.core key) else (v.allocs, v.grans)
    let s := if v.resident then s.modCore g.core fun k => { k with allocs := k.allocs.filter fun a => a.grove != key } else s
    ((s.modGrove key fun g => { g with saved := none }).seat key core g.size).restoreAllocs core key allocs grans
/-- A bulk operation takes an entry of a core's queue again: its own, or the lowest free (R285, R321). -/
def Core.requeue (k : Core) (core : Nat) (o : BulkOp) : Core :=
  { k with bulkQ := k.bulkQ ++ [{ o with core := core, opid := if k.bulkQ.any fun p => p.opid == o.opid then k.freeOp else o.opid }] }
/-- The engines take back what an evicted grove had there (R321), ahead of any new issue by it. DESIGN CHOICE (log 101): the restore waits for no queue entry and no tile handle: it may pass the core's 64 bulk and 16 matrix entries and its 64 handles, and new ones are refused until it is below them. -/
def State.reload (s : State) (core : Nat) (v : Saved) : State :=
  s.modCore core fun k => v.bulk.foldl (fun k o => k.requeue core o) { k with
    tiles := k.tiles ++ v.tiles
    weights := v.weights.foldl (fun (m : NMap WeightSlot) (w : Nat × WeightSlot) => NMap.put m w.1 w.2) k.weights
    matQ := k.matQ ++ v.mats.map fun o => { o with issued := s.tick } }
/-- The strands, records, images and frames of an evicted grove follow it to its core (R75, R154, R321). -/
def State.follow (s : State) (key core : Nat) (g : Grove) : State :=
  let moved := core != g.core
  let mine := fun (t : Nat) => (s.strands.find? t).elim false fun t => t.grove == key
  let slot := (s.groves.find? key).elim 0 fun g => g.slot
  let recs := (s.core g.core).records.filter fun (x : Nat × Record) => mine x.2.strand
  let s := if moved then (s.strandsOf key).foldl (fun s t => s.hiddenRelease t g.core) s else s
  let s := s.modCore g.core fun k => { k with records := k.records.filter fun (x : Nat × Record) => !mine x.2.strand }
  let s := { s with strands := s.strands.map fun (x : Nat × Strand) => (x.1, if x.2.grove = key then { x.2 with core := core } else x.2) }
  let s := s.launches.foldl (fun (s : State) (x : Nat × Launch) => x.2.frames.foldl (fun s f => s.reslotFrame x.2 f core g.slot slot mine) s) s
  let s := { s with launches := s.launches.map fun (x : Nat × Launch) => (x.1, x.2.moveFrames core mine) }
  let s := s.overStopped fun st => st.follow core g.slot slot mine
  let s := if moved then s.invalidateL1 core else s
  let s := recs.foldl (fun (s : State) (x : Nat × Record) => s.putBack core x.1 { x.2 with fwd := x.2.fwd || moved }) s
  let s := if moved then recs.foldl (fun (s : State) (x : Nat × Record) => s.rejoin core x.1) s else s
  s.fire core fun r w => mine r.strand && w.judged
/-- Put an evicted grove back on a core (R321); an image that R75 refuses terminates the launch (R399). -/
def State.restoreOn (s : State) (key core : Nat) : State :=
  match s.groves.find? key with
  | none => s
  | some g =>
    match g.saved with
    | none => s
    | some v =>
      match v.images.findSome? fun st => (imageRefused st (s.imageBytes st)).map fun r => (st, r) with
      | some (st, reason, off) =>
        s.terminate g.launch { (sysRec 1 3 0x0011 core (s.launchPart g.launch) 0 0 reason off) with launch := g.launch, lanes := maskOf st.cohort.present, pc := st.pc.toNat, grove := g.idx }
      | none => v.images.foldl (fun s st => s.resume { st with core := core }) (((s.reseat key core g v).reload core v).follow key core g)
/-- The allocations an evicted grove takes back. -/
def State.allocsBack (s : State) (key : Nat) (g : Grove) : Nat :=
  if g.saved.elim false (fun v => v.resident) then ((s.core g.core).allocs.filter fun a => a.grove == key).length else g.saved.elim 0 fun v => v.allocs.length
/-- A core has room for an evicted grove (R315, R320, R321): its windows may be there still. -/
def State.backRoom (s : State) (key core : Nat) : Bool :=
  match s.groves.find? key with
  | none => false
  | some g =>
    let stay := g.core == core && g.saved.elim false fun v => v.resident
    !g.placed && s.roomFor core g.launch stay (if stay then 0 else s.allocsBack key g)
/-- The core has the generations that an evicted grove's allocations take (R129, R133). -/
def State.backGens (s : State) (key core : Nat) : Bool :=
  match s.groves.find? key with
  | none => true
  | some g => (g.core == core && g.saved.elim false fun v => v.resident) || (s.core core).gensLeft (s.allocsBack key g)
/-- A core takes an evicted grove back (R315, R321). -/
def State.takesBack (s : State) (key core : Nat) : Bool := s.backRoom key core && s.backGens key core
/-- A core short only of generations for an evicted grove starts its sweep (R133, R410). -/
def State.sweepFor (s : State) (key core : Nat) : State := if s.backRoom key core && !s.backGens key core then s.startSpSweep core else s
/-- The lines of trap frames that a restore of a grove writes and the host may hold (R75, R328). -/
def State.framesHeld (s : State) (key core : Nat) : List Nat :=
  s.launches.flatMap fun x => (x.2.frames.filter fun f => f.img.cohort.lanes.any fun l => (s.strands.find? l.2.strand).elim false fun t => t.grove == key).flatMap fun f =>
    s.vaHeld core x.2.part x.2.part (lineFuel 256) (x.2.frameVa f.trailing + 0x200) 256
/-- GROVE_RESTORE (R321): an evicted grove restores on a core that admits it, a twin pair on two dies (R456). -/
def execGroveRestore (grove core : Nat) (s : State) : Res :=
  .next <|
    match s.groves.find? grove with
    | none => s
    | some g =>
      match g.twin with
      | none => if s.takesBack grove core then s.whenFree (s.framesHeld grove core) (·.restoreOn grove core) else s.sweepFor grove core
      | some (_, true) => s
      | some (_, false) =>
        match s.twins.find? grove with
        | none => s
        | some w =>
          match [1, 2, 3].findSome? fun i => s.chooseCore g.launch ((coresOf ((dieOf core + i) % 4)).filter fun c => s.backRoom w.trail c) with
          | none => s
          | some tc =>
            if s.takesBack grove core && s.takesBack w.trail tc then
              s.whenFree (s.framesHeld grove core ++ s.framesHeld w.trail tc) fun s =>
              let s := (s.restoreOn grove core).restoreOn w.trail tc
              { s with freeN := s.freeN + 1, twins := s.twins.adj grove fun w => { w with slice := 256 * dieOf core + Config.free s.freeN % 256 } }
            else if s.backRoom grove core then (s.sweepFor grove core).sweepFor w.trail tc else s

end Sys2Proof.Machine
end

