-- ==== Sys2Proof/Machine/Sfu.lean ====
section
/-! DEFINITION. The special functions of R210. The exact value is bracketed in fixed point to some hundreds of bits with one sticky bit, and the result is one of the two FP32 values around it; the stated values are given exactly. -/
namespace Sys2Proof

/-- One of the two FP32 values that bracket num / den with a sign: the one nearer to zero, or the farther when the free choice says so. A representable value is returned as it is. -/
def bracket (op : Nat) (a : Word) (neg : Bool) (num den : Nat) : Word :=
  let m : Mode := if Config.sfuFar op a then (if neg then .rd else .ru) else .rz
  BitVec.ofNat 32 (fp32.roundMag m false neg num den)

/-- The FP32 canonical NaN. -/
def nan32 : Word := 0x7FC00000
/-- An FP32 infinity. -/
def inf32 (neg : Bool) : Word := if neg then 0xFF800000 else 0x7F800000
/-- An FP32 zero. -/
def zero32 (neg : Bool) : Word := if neg then 0x80000000 else 0
/-- An FP32 one. -/
def one32 (neg : Bool) : Word := if neg then 0xBF800000 else 0x3F800000

/-- The fraction bits of the fixed-point work. -/
def fixBits : Nat := 480
/-- One in fixed point. -/
def fixOne : Nat := 2 ^ fixBits
/-- A product in fixed point, truncated. -/
def fixMul (x y : Nat) : Nat := x * y / fixOne
/-- A fixed-point result with its guard bits dropped and a sticky half step added: it stands strictly between two neighbours. -/
def sticky (x : Nat) : Nat × Nat := (2 * (x / 2 ^ 64) + 1, 2 ^ (fixBits - 63))

/-- FRCP (R210). -/
def frcp (a : Word) : Word :=
  match f32 a with
  | .nan => nan32
  | .inf s => zero32 s
  | .fin s n e => if n == 0 then inf32 s else let r := ratio n e; bracket 0 a s r.2 r.1

/-- FRSQ (R210): an exact square root is recognised, which happens for powers of 4 alone. -/
def frsq (a : Word) : Word :=
  match f32 a with
  | .nan => nan32
  | .inf s => if s then nan32 else zero32 false
  | .fin s n e =>
    if n == 0 then inf32 s
    else if s then nan32
    else
      let p := evenExp n e
      let r := isqrt (2 ^ 256 / p.1)
      let x := if r * r * p.1 == 2 ^ 256 then 2 * r else 2 * r + 1
      let q := ratio x (-129 - p.2 / 2)
      bracket 1 a false q.1 q.2

/-- Successive square roots of 2: the product of 2^(2^-i) over the set bits of a fraction, the first bit after the point first. -/
def exp2Bits : List Bool → Nat → Nat → Nat
  | [], _, acc => acc
  | b :: t, c, acc =>
    let c' := isqrt (c * fixOne)
    exp2Bits t c' (if b then fixMul acc c' else acc)
/-- The first k bits after the point of num / 2^k. -/
def fracBits (num : Nat) : Nat → List Bool
  | 0 => []
  | k + 1 => (num / 2 ^ k % 2 == 1) :: fracBits num k

/-- FEXP2 (R210). -/
def fexp2 (a : Word) : Word :=
  match f32 a with
  | .nan => nan32
  | .inf s => if s then zero32 false else inf32 false
  | .fin s n e =>
    if n == 0 then one32 false
    else
      let x := mant s n e (min e 0)
      let k := (-(min e 0)).toNat
      let ip := x / 2 ^ k
      let fr := (x - ip * 2 ^ k).toNat
      if 128 ≤ ip then inf32 false
      else if ip < -150 || (ip == -150 && fr == 0) then zero32 false
      else if fr == 0 then
        let q := ratio 1 ip
        BitVec.ofNat 32 (fp32.roundMag .rn false false q.1 q.2)
      else
        let m := sticky (exp2Bits (fracBits fr k) (2 * fixOne) fixOne)
        let q := ratio 1 ip
        bracket 4 a false (m.1 * q.1) (m.2 * q.2)

/-- Bits of log2 of a mantissa in [1, 2) by repeated squaring. -/
def log2Bits : Nat → Nat → Nat → Nat
  | 0, _, acc => acc
  | k + 1, y, acc =>
    let y2 := fixMul y y
    if 2 * fixOne ≤ y2 then log2Bits k (y2 / 2) (2 * acc + 1) else log2Bits k y2 (2 * acc)

/-- FLOG2 (R210). -/
def flog2F (a : Word) : Word :=
  match f32 a with
  | .nan => nan32
  | .inf s => if s then nan32 else inf32 false
  | .fin s n e =>
    if n == 0 then inf32 true
    else if s then nan32
    else
      let l := Nat.log2 n
      let k := e + (l : Int)
      if n == 2 ^ l then roundF32 .rn (.fin (decide (k < 0)) k.natAbs 0)
      else
        let y := n * fixOne / 2 ^ l
        let v : Int := k * 2 ^ 160 + (log2Bits 160 y 0 : Nat)
        let neg := decide (v < 0)
        let mag := if neg then 2 * (v.natAbs - 1) + 1 else 2 * v.natAbs + 1
        bracket 5 a neg mag (2 ^ 161)

/-- arctan (1 / q) in fixed point, by its series. -/
def atanInv (q : Nat) : Nat → Nat → Nat → Int → Int
  | 0, _, _, acc => acc
  | k + 1, i, p, acc =>
    let t : Int := (p / (2 * i + 1) : Nat)
    atanInv q k (i + 1) (p / (q * q)) (if i % 2 == 0 then acc + t else acc - t)
/-- 2 π in fixed point (Machin). -/
def twoPi : Nat :=
  (8 * (4 * atanInv 5 120 0 (fixOne / 5) 0 - atanInv 239 40 0 (fixOne / 239) 0)).toNat

/-- The alternating series of sine or cosine: term, index of the next factor pair. -/
def trigSeries (x2 : Nat) : Nat → Nat → Nat → Int → Bool → Int
  | 0, _, _, acc, _ => acc
  | k + 1, term, i, acc, minus =>
    let t : Int := if minus then -(term : Int) else term
    trigSeries x2 k (fixMul term x2 / ((i + 1) * (i + 2))) (i + 2) (acc + t) (!minus)
/-- sin (2 π f) for f in (0, 1/4), in fixed point. -/
def sinTurn (f : Nat) : Nat :=
  let x := fixMul twoPi f
  (trigSeries (fixMul x x) 50 x 1 0 false).toNat
/-- cos (2 π f) for f in (0, 1/4), in fixed point. -/
def cosTurn (f : Nat) : Nat :=
  let x := fixMul twoPi f
  (trigSeries (fixMul x x) 50 fixOne 0 0 false).toNat

/-- The fractional part of |a| in turns: quarter and the rest over 2^k, exact. -/
def turn (n : Nat) (e : Int) : Nat × Nat × Nat :=
  let k := (-(min e (-2))).toNat
  let x := n * 2 ^ (e + k).toNat % 2 ^ k
  (x / 2 ^ (k - 2), x % 2 ^ (k - 2), k)

/-- sine or cosine of a quarter and a rest that is not 0: the sign and the magnitude in fixed point. -/
def quarterVal (cosine : Bool) (q rest k : Nat) : Bool × Nat :=
  let f := rest * fixOne / 2 ^ k
  let s := sinTurn f
  let c := cosTurn f
  match (if cosine then (q + 1) % 4 else q) with
  | 0 => (false, s)
  | 1 => (false, c)
  | 2 => (true, s)
  | _ => (true, c)

/-- FSIN (R210). -/
def fsin (a : Word) : Word :=
  match f32 a with
  | .nan => nan32
  | .inf _ => nan32
  | .fin s n e =>
    let t := turn n e
    if t.2.1 == 0 then
      match t.1 with
      | 1 => one32 s
      | 3 => one32 (!s)
      | _ => zero32 s
    else
      let v := quarterVal false t.1 t.2.1 t.2.2
      let m := sticky v.2
      bracket 6 a (v.1 != s) m.1 m.2

/-- FCOS (R210). -/
def fcos (a : Word) : Word :=
  match f32 a with
  | .nan => nan32
  | .inf _ => nan32
  | .fin _ n e =>
    let t := turn n e
    if t.2.1 == 0 then
      match t.1 with
      | 0 => one32 false
      | 2 => one32 true
      | _ => zero32 false
    else
      let v := quarterVal true t.1 t.2.1 t.2.2
      let m := sticky v.2
      bracket 7 a v.1 m.1 m.2

/-- The series of e^x in fixed point. -/
def expSeries (x : Nat) : Nat → Nat → Nat → Nat → Nat
  | 0, _, _, acc => acc
  | k + 1, term, i, acc => expSeries x k (fixMul term x / (i + 1)) (i + 1) (acc + term)

/-- FTANH (R210): below 2^-13 the exact value lies just under the operand. -/
def ftanh (a : Word) : Word :=
  match f32 a with
  | .nan => nan32
  | .inf s => one32 s
  | .fin s n e =>
    if n == 0 then zero32 s
    else
      let r := ratio n e
      if 10 * r.2 ≤ r.1 then one32 s
      else if r.1 * 2 ^ 13 < r.2 then bracket 8 a s (r.1 * 2 ^ 64 - 1) (r.2 * 2 ^ 64)
      else
        let ex := expSeries (2 * r.1 * fixOne / r.2) 240 fixOne 0 0
        let m := sticky ((ex - fixOne) * fixOne / (ex + fixOne))
        bracket 8 a s m.1 m.2

end Sys2Proof
end

