-- ==== Sys2Proof/Machine/Float.lean ====
section
/-! DEFINITION. The floating-point instructions (R209 to R212). -/
namespace Sys2Proof

/-- FADD (R209). -/
def faddR (m : Mode) (a b : Word) : Word := roundF32 m ((f32 a).add m (f32 b))
/-- FSUB (R209). -/
def fsubR (m : Mode) (a b : Word) : Word := roundF32 m ((f32 a).add m (f32 b).flip)
/-- FMUL (R209). -/
def fmulR (m : Mode) (a b : Word) : Word := roundF32 m ((f32 a).mul (f32 b))
/-- FFMA, rounded once (R97, R209). -/
def ffmaR (m : Mode) (a b c : Word) : Word := roundF32 m (((f32 a).mul (f32 b)).add m (f32 c))
/-- The two halves of a word. -/
def halves (a : Word) : Nat × Nat := (a.toNat % 65536, a.toNat / 65536)
/-- The word of two halves. -/
def ofHalves (lo hi : Nat) : Word := BitVec.ofNat 32 (lo % 65536 + 65536 * hi)
/-- The half-precision format SG selects (R211). -/
def halfFp (h : Bool) : FP := if h then fp16 else bf16
/-- Apply an exact operation to the two halves and round each (R211). -/
def half2 (h : Bool) (m : Mode) (op : FVal → FVal → FVal) (a b : Word) : Word :=
  let F := halfFp h
  let f := fun (x y : Nat) => F.round m false (op (F.decode x) (F.decode y))
  ofHalves (f (halves a).1 (halves b).1) (f (halves a).2 (halves b).2)
/-- HFMA2, each half rounded once (R211). -/
def half3 (h : Bool) (m : Mode) (a b c : Word) : Word :=
  let F := halfFp h
  let f := fun (x y z : Nat) => F.round m false (((F.decode x).mul (F.decode y)).add m (F.decode z))
  ofHalves (f (halves a).1 (halves b).1 (halves c).1) (f (halves a).2 (halves b).2 (halves c).2)

end Sys2Proof

namespace Sys2Proof.Machine

/-- FADD (R209). -/
def planFadd (g : Guard) (d a : Nat) (b : Src) (m : RM) : Plan := map2 g 12 (opc .fadd) d a b (faddR m.mode)
/-- FSUB (R209). -/
def planFsub (g : Guard) (d a : Nat) (b : Src) (m : RM) : Plan := map2 g 12 (opc .fsub) d a b (fsubR m.mode)
/-- FMUL (R209). -/
def planFmul (g : Guard) (d a : Nat) (b : Src) (m : RM) : Plan := map2 g 12 (opc .fmul) d a b (fmulR m.mode)
/-- FFMA (R209). -/
def planFfma (g : Guard) (d a : Nat) (b : Src) (c : Nat) (m : RM) : Plan := map3 g 12 (opc .ffma) d a b c (ffmaR m.mode)
/-- FMIN (R95). -/
def planFmin (g : Guard) (d a : Nat) (b : Src) : Plan := map2 g 12 (opc .fmin) d a b fminW
/-- FMAX (R95). -/
def planFmax (g : Guard) (d a : Nat) (b : Src) : Plan := map2 g 12 (opc .fmax) d a b fmaxW
/-- FABS (R209): arithmetic, so a NaN gives the canonical NaN. -/
def planFabs (g : Guard) (d a : Nat) : Plan := map1 g 12 (opc .fabs) d a fun v => roundF32 .rn (f32 v).abs
/-- FNEG (R209). -/
def planFneg (g : Guard) (d a : Nat) : Plan := map1 g 12 (opc .fneg) d a fun v => roundF32 .rn (f32 v).flip
/-- FRCP (R210). -/
def planFrcp (g : Guard) (d a : Nat) : Plan := map1 g 12 (opc .frcp) d a frcp
/-- FRSQ (R210). -/
def planFrsq (g : Guard) (d a : Nat) : Plan := map1 g 12 (opc .frsq) d a frsq
/-- FSQRT (R209). -/
def planFsqrt (g : Guard) (d a : Nat) (m : RM) : Plan := map1 g 12 (opc .fsqrt) d a fun v => sqrtF32 m.mode (f32 v)
/-- FDIV (R209). -/
def planFdiv (g : Guard) (d a : Nat) (b : Src) (m : RM) : Plan := map2 g 12 (opc .fdiv) d a b fun v w => divF32 m.mode (f32 v) (f32 w)
/-- FEXP2 (R210). -/
def planFexp2 (g : Guard) (d a : Nat) : Plan := map1 g 12 (opc .fexp2) d a fexp2
/-- FLOG2 (R210). -/
def planFlog2 (g : Guard) (d a : Nat) : Plan := map1 g 12 (opc .flog2) d a flog2F
/-- FSIN (R210). -/
def planFsin (g : Guard) (d a : Nat) : Plan := map1 g 12 (opc .fsin) d a fsin
/-- FCOS (R210). -/
def planFcos (g : Guard) (d a : Nat) : Plan := map1 g 12 (opc .fcos) d a fcos
/-- FTANH (R210). -/
def planFtanh (g : Guard) (d a : Nat) : Plan := map1 g 12 (opc .ftanh) d a ftanh
/-- FRINT (R209). -/
def planFrint (g : Guard) (d a : Nat) (m : RM) : Plan := map1 g 12 (opc .frint) d a fun v => rintF32 m.mode (f32 v)
/-- FSCALE (R209). -/
def planFscale (g : Guard) (d a : Nat) (b : Src) (m : RM) : Plan := map2 g 12 (opc .fscale) d a b fun v w => scaleF32 m.mode w.toInt (f32 v)
/-- HADD2 (R211). -/
def planHadd2 (g : Guard) (d a : Nat) (b : Src) (m : RM) (h : Bool) : Plan := map2 g 12 (opc .hadd2) d a b (half2 h m.mode (FVal.add m.mode))
/-- HMUL2 (R211). -/
def planHmul2 (g : Guard) (d a : Nat) (b : Src) (m : RM) (h : Bool) : Plan := map2 g 12 (opc .hmul2) d a b (half2 h m.mode FVal.mul)
/-- HFMA2 (R211). -/
def planHfma2 (g : Guard) (d a : Nat) (b : Src) (c : Nat) (m : RM) (h : Bool) : Plan := map3 g 12 (opc .hfma2) d a b c (half3 h m.mode)
/-- HMIN2 (R95, R211). -/
def planHmin2 (g : Guard) (d a : Nat) (b : Src) (h : Bool) : Plan := map2 g 12 (opc .hmin2) d a b (half2 h .rn FVal.minNum)
/-- HMAX2 (R95, R211). -/
def planHmax2 (g : Guard) (d a : Nat) (b : Src) (h : Bool) : Plan := map2 g 12 (opc .hmax2) d a b (half2 h .rn FVal.maxNum)
/-- The shapes of a pair. -/
def Cohort.pairShapes (co : Cohort) (a : Nat) : List Sh := [co.shape a, co.shape (a + 1)]
/-- DADD (R212). -/
def planDadd (g : Guard) (d a b : Nat) (m : RM) : Plan :=
  mapPair g 12 (opc .dadd) d [a, a + 1, b, b + 1] (fun co => co.pairShapes a ++ co.pairShapes b)
    fun co l => roundF64 m.mode ((f64 (co.reg64 a l)).add m.mode (f64 (co.reg64 b l)))
/-- DADD, literal form (R212). -/
def planDaddLit (g : Guard) (d a : Nat) (m : RM) (lit : DWord) : Plan :=
  mapPair g 20 (opc .dadd) d [a, a + 1] (fun co => co.pairShapes a) fun co l => roundF64 m.mode ((f64 (co.reg64 a l)).add m.mode (f64 lit))
/-- DMUL (R212). -/
def planDmul (g : Guard) (d a b : Nat) (m : RM) : Plan :=
  mapPair g 12 (opc .dmul) d [a, a + 1, b, b + 1] (fun co => co.pairShapes a ++ co.pairShapes b)
    fun co l => roundF64 m.mode ((f64 (co.reg64 a l)).mul (f64 (co.reg64 b l)))
/-- DMUL, literal form (R212). -/
def planDmulLit (g : Guard) (d a : Nat) (m : RM) (lit : DWord) : Plan :=
  mapPair g 20 (opc .dmul) d [a, a + 1] (fun co => co.pairShapes a) fun co l => roundF64 m.mode ((f64 (co.reg64 a l)).mul (f64 lit))
/-- DFMA (R212). -/
def planDfma (g : Guard) (d a b c : Nat) (m : RM) : Plan :=
  mapPair g 12 (opc .dfma) d [a, a + 1, b, b + 1, c, c + 1] (fun co => co.pairShapes a ++ co.pairShapes b ++ co.pairShapes c)
    fun co l => roundF64 m.mode (((f64 (co.reg64 a l)).mul (f64 (co.reg64 b l))).add m.mode (f64 (co.reg64 c l)))
/-- DFMA, literal form (R212). -/
def planDfmaLit (g : Guard) (d a c : Nat) (m : RM) (lit : DWord) : Plan :=
  mapPair g 20 (opc .dfma) d [a, a + 1, c, c + 1] (fun co => co.pairShapes a ++ co.pairShapes c)
    fun co l => roundF64 m.mode (((f64 (co.reg64 a l)).mul (f64 lit)).add m.mode (f64 (co.reg64 c l)))

/-! What each instruction does: its plan, issued for the current cohort -/

/-- FADD (R209). -/
def execFadd (g : Guard) (d a : Nat) (b : Src) (m : RM) (s : State) : Res := .next (s.exec (planFadd g d a b m))
/-- FSUB (R209). -/
def execFsub (g : Guard) (d a : Nat) (b : Src) (m : RM) (s : State) : Res := .next (s.exec (planFsub g d a b m))
/-- FMUL (R209). -/
def execFmul (g : Guard) (d a : Nat) (b : Src) (m : RM) (s : State) : Res := .next (s.exec (planFmul g d a b m))
/-- FFMA (R209). -/
def execFfma (g : Guard) (d a : Nat) (b : Src) (c : Nat) (m : RM) (s : State) : Res := .next (s.exec (planFfma g d a b c m))
/-- FMIN (R95). -/
def execFmin (g : Guard) (d a : Nat) (b : Src) (s : State) : Res := .next (s.exec (planFmin g d a b))
/-- FMAX (R95). -/
def execFmax (g : Guard) (d a : Nat) (b : Src) (s : State) : Res := .next (s.exec (planFmax g d a b))
/-- FABS (R209). -/
def execFabs (g : Guard) (d a : Nat) (s : State) : Res := .next (s.exec (planFabs g d a))
/-- FNEG (R209). -/
def execFneg (g : Guard) (d a : Nat) (s : State) : Res := .next (s.exec (planFneg g d a))
/-- FRCP (R210). -/
def execFrcp (g : Guard) (d a : Nat) (s : State) : Res := .next (s.exec (planFrcp g d a))
/-- FRSQ (R210). -/
def execFrsq (g : Guard) (d a : Nat) (s : State) : Res := .next (s.exec (planFrsq g d a))
/-- FSQRT (R209). -/
def execFsqrt (g : Guard) (d a : Nat) (m : RM) (s : State) : Res := .next (s.exec (planFsqrt g d a m))
/-- FDIV (R209). -/
def execFdiv (g : Guard) (d a : Nat) (b : Src) (m : RM) (s : State) : Res := .next (s.exec (planFdiv g d a b m))
/-- FEXP2 (R210). -/
def execFexp2 (g : Guard) (d a : Nat) (s : State) : Res := .next (s.exec (planFexp2 g d a))
/-- FLOG2 (R210). -/
def execFlog2 (g : Guard) (d a : Nat) (s : State) : Res := .next (s.exec (planFlog2 g d a))
/-- FSIN (R210). -/
def execFsin (g : Guard) (d a : Nat) (s : State) : Res := .next (s.exec (planFsin g d a))
/-- FCOS (R210). -/
def execFcos (g : Guard) (d a : Nat) (s : State) : Res := .next (s.exec (planFcos g d a))
/-- FTANH (R210). -/
def execFtanh (g : Guard) (d a : Nat) (s : State) : Res := .next (s.exec (planFtanh g d a))
/-- FRINT (R209). -/
def execFrint (g : Guard) (d a : Nat) (m : RM) (s : State) : Res := .next (s.exec (planFrint g d a m))
/-- HADD2 (R211). -/
def execHadd2 (g : Guard) (d a : Nat) (b : Src) (m : RM) (h : Bool) (s : State) : Res := .next (s.exec (planHadd2 g d a b m h))
/-- HMUL2 (R211). -/
def execHmul2 (g : Guard) (d a : Nat) (b : Src) (m : RM) (h : Bool) (s : State) : Res := .next (s.exec (planHmul2 g d a b m h))
/-- HFMA2 (R211). -/
def execHfma2 (g : Guard) (d a : Nat) (b : Src) (c : Nat) (m : RM) (h : Bool) (s : State) : Res := .next (s.exec (planHfma2 g d a b c m h))
/-- HMIN2 (R211). -/
def execHmin2 (g : Guard) (d a : Nat) (b : Src) (h : Bool) (s : State) : Res := .next (s.exec (planHmin2 g d a b h))
/-- HMAX2 (R211). -/
def execHmax2 (g : Guard) (d a : Nat) (b : Src) (h : Bool) (s : State) : Res := .next (s.exec (planHmax2 g d a b h))
/-- DADD (R212). -/
def execDadd (g : Guard) (d a b : Nat) (m : RM) (s : State) : Res := .next (s.exec (planDadd g d a b m))
/-- DADD_LIT (R212). -/
def execDaddLit (g : Guard) (d a : Nat) (m : RM) (lit : DWord) (s : State) : Res := .next (s.exec (planDaddLit g d a m lit))
/-- DMUL (R212). -/
def execDmul (g : Guard) (d a b : Nat) (m : RM) (s : State) : Res := .next (s.exec (planDmul g d a b m))
/-- DMUL_LIT (R212). -/
def execDmulLit (g : Guard) (d a : Nat) (m : RM) (lit : DWord) (s : State) : Res := .next (s.exec (planDmulLit g d a m lit))
/-- DFMA (R212). -/
def execDfma (g : Guard) (d a b c : Nat) (m : RM) (s : State) : Res := .next (s.exec (planDfma g d a b c m))
/-- DFMA_LIT (R212). -/
def execDfmaLit (g : Guard) (d a c : Nat) (m : RM) (lit : DWord) (s : State) : Res := .next (s.exec (planDfmaLit g d a c m lit))
/-- FSCALE (R209). -/
def execFscale (g : Guard) (d a : Nat) (b : Src) (m : RM) (s : State) : Res := .next (s.exec (planFscale g d a b m))

end Sys2Proof.Machine
end

