-- ==== Sys2Proof/Machine/Links.lean ====
section
/-! DEFINITION. The Chaeri ports, flows and messages (R329 to R334, R440 to R446): flits, replay, retraining, broken flows, requests that find no answer, remote atomics at their target. -/
namespace Sys2Proof.Machine

/-! How remote accesses end (R443 to R446) -/

/-- An access to another package fails for a strand (R446): its registers, or a record for one without a result. -/
def State.failRemote (s : State) (o : MemOp) (status : Nat) : State :=
  if o.kind == .load then s.landLoad o [] status
  else if o.ndst == 0 then (s.recordFailed o (outFault o status)).opDone o
  else
    let s := if s.isLeading o.grove && o.forwarded then s.forward o.strand [] else s
    (s.failOp o (outFault o status)).opDone o
/-- The operations in flight to a package. -/
def State.opsTo (s : State) (pkg : Nat) : List MemOp := s.ops.filter fun o => s.outside o.pa && spaceOf o.pa == 1 && pkgOf o.pa == pkg
/-- A response arrives for an operation (R444): its status, then the bytes its home held; a store is then performed there, and complete (R151). -/
def State.answered (s : State) (id status : Nat) (data : List Byte) : State :=
  match s.readyOp id with
  | none => s
  | some o =>
    if o.kind == .load then s.landLoad o data status
    else if o.kind == .store then (if !o.sent then s else if status != 0 then s.failRemote o status else s.storePerforms id)
    else if !o.atomicKind || !s.canGo o then s
    else if status != 0 then s.failRemote o status
    else
      let (s, o) := if o.home then (s, o) else s.performAtomic o data
      let s := s.setOp o
      if o.ndst == 0 then s.storePerforms id else s.resultLands id [] 0
/-- A request has waited for its response for 50 µs since it was last sent (R444). -/
def State.overdue (s : State) (o : MemOp) : Bool := s.remote o.pa && o.sent && decide (o.born + 50000 * (o.resends + 1) ≤ s.tick)
/-- REMOTE_RESPONSE_TIMEOUT (R444): loads and atomics with .rt are sent again, up to four times; another atomic's outcome is unknown, as is a completion signal's; a store fails. -/
def execRemoteResponseTimeout (id : Nat) (s : State) : Res :=
  .next <|
    match s.readyOp id with
    | none => s
    | some o =>
      if !s.overdue o || s.flowHeld o || s.takesForward o || o.home then s
      else if o.kind == .load || o.rt then
        if o.resends < 4 then (s.setOp { o with resends := o.resends + 1 }).sendRequest { o with resends := o.resends + 1 }
        else s.failRemote o 4
      else if o.kind == .store && !o.isSignal || o.kind == .freset then s.failRemote o 4
      else s.failRemote o 100

/-! Flows (R333, R443) -/

/-- The number of a flow that arrives here (R333). -/
def rxFlow (src cls ord : Nat) : Nat := src + 256 * cls + 1024 * ord
/-- Whether a flow's number names one that this package sends on. -/
def flowOut (n : Nat) : Bool := n / 4096 == 1
/-- The package at the other end of a flow. -/
def flowPkg (n : Nat) : Nat := n % 256
/-- The class of a flow. -/
def flowCls (n : Nat) : Nat := n / 256 % 4
/-- ORD of a flow. -/
def flowOrd (n : Nat) : Nat := n / 1024 % 2
/-- The flow that a message of this package travels on. -/
def msgFlow (m : List Byte) : Nat := txFlow (getLe m 0 1) (getLe m 2 1 % 4) (getLe m 2 1 / 4 % 2)
/-- A flow's state. -/
def State.flow (s : State) (n : Nat) : Flow := s.link.flows.getD n Flow.reset
/-- Replace a flow's state. -/
def State.setFlow (s : State) (n : Nat) (f : Flow) : State := { s with link := { s.link with flows := s.link.flows.put n f } }
/-- The record of a broken flow (R435), in the ring of partition 0. -/
def State.flowRec (s : State) (n fseq : Nat) : State :=
  let dst := if flowOut n then flowPkg n else s.pkg
  let src := if flowOut n then s.pkg else flowPkg n
  s.log 0 (sysRec 3 2 0x3005 0x3000 0 0 0 (dst + 256 * src + 2 ^ 16 * flowCls n + 2 ^ 18 * flowOrd n) fseq)
/-- Collectives that a broken class-2 flow carries fail (R447). -/
def State.breakColls (s : State) (n : Nat) : State :=
  if flowCls n != 2 then s
  else
    let comms := ((s.link.colls.filter fun o => (s.members o.comm).contains (flowPkg n)).map fun o => o.comm).eraseDups
    comms.foldl (fun s c => s.commAbort c 3) s
/-- A flow is broken at its source: what follows is held (R443 step 1). -/
def State.breakFlow (s : State) (n : Nat) : State :=
  if (s.flow n).broken then s else (s.setFlow n { s.flow n with broken := true, since := s.tick }).breakColls n

/-! Messages that arrive (R345, R347, R423, R445) -/

/-- An access by another package's partition is admitted here (R345, R347). -/
def State.peerAdmits (s : State) (part pa size : Nat) (kind : Acc) (key : Nat) : Bool :=
  (s.accessReason (0x10 + part) pa size kind key).isNone
/-- What another package reads here: status 0 and the bytes, or 1 where they are poisoned or fail their tag (R423). -/
def State.peerRead (s : State) (pa size key : Nat) : Nat × List Byte :=
  if (s.poisonAt pa size).isSome || s.tagFails (keyLeaf key) pa size then (1, []) else (0, s.readAs (keyLeaf key) pa size)
/-- Send a response (R331): the operation's number at its source, the status and size, the bytes. -/
def State.respond (s : State) (pkg part opid token status : Nat) (bs : List Byte) : State :=
  s.post pkg 1 1 part 8 opid (leBytes 8 token ++ leBytes 8 (status + 256 * bs.length) ++ bs)
/-- A write by another package is performed at its home here (R119, R162), which answers where it is waited for (R151); a partial write to a line that fails its tag is not performed (R424). -/
def State.peerWrite (s : State) (src part pa key token : Nat) (bs : List Byte) : State :=
  if !s.isLocal pa || !s.peerAdmits part pa bs.length .write key || !s.populated pa then s
  else
    let bad := s.tagFails (keyLeaf key) pa bs.length && decide (bs.length < 64)
    let s := if bad then s else s.keyedWrite (keyLeaf key) pa bs
    if token = 0 then s else s.respond src part 0 token (if bad then 102 else 0) []
/-- The OPIDs of a flow in its window of 4,096, oldest first (R334). -/
def State.window (s : State) (flow : Nat) : List (Nat × Nat × List Byte) :=
  let mine := s.link.opids.filter fun e => e.1 == flow
  mine.drop (mine.length - 4096)
/-- Keep an atomic's result in the window of its flow (R334). -/
def State.keepOpid (s : State) (flow opid : Nat) (bs : List Byte) : State :=
  let rest := s.link.opids.filter fun e => e.1 != flow
  let mine := s.window flow ++ [(flow, opid, bs)]
  { s with link := { s.link with opids := rest ++ mine.drop (mine.length - 4096) } }
/-- An OPID precedes another modulo 2^32 by less than 2^31 (R445). -/
def opidOlder (a b : Nat) : Bool := decide (0 < (b + 2 ^ 32 - a) % 2 ^ 32 ∧ (b + 2 ^ 32 - a) % 2 ^ 32 < 2 ^ 31)
/-- The kind of operation that a code of a request names (R259, R334). -/
def atomKind (code : Nat) : Option OpKind :=
  if code == 16 then some (.cas false) else if code == 17 then some .ffill else if code == 18 then some .freset
  else ([AtomOp.add, .min, .minU, .max, .maxU, .and, .or, .xor, .xchg, .fadd].find? fun o => o.code == code).map fun o => .atomic o false
/-- An operation that stands for a remote one where it is performed. -/
def remoteOp (kind : OpKind) (pa size : Nat) (data cmp : List Byte) : MemOp :=
  { id := 0, kind := kind, cls := none, strand := 0, grove := 0, launch := 0, core := noCore, va := 0, pa := pa, leaf := 0, size := size, sgn := false,
    data := data, cmp := cmp, dst := 0, ndst := 0, uni := false, sharers := [], ord := .plain, sc := .core, nl1 := false, pc := 0, after := [], behind := [], skip := [], sent := false, early := false, home := false,
    got := [], issued := 0, born := 0, resends := 0, fields := [], bad := none }
/-- A remote atomic at its target (R334, R445): a recorded OPID returns its result, one older than the window is expired, any other is performed and recorded; an FRESET (18) carries none. -/
def State.remoteAtomic (s : State) (flow opid part pa op size key token : Nat) (data cmp : List Byte) : State :=
  let w := if op == 18 then [] else s.window flow
  match w.find? fun e => e.2.1 == opid, atomKind op with
  | some e, _ => s.respond (flowPkg flow) part opid token 0 e.2.2
  | none, some kind =>
    if (w.head?).elim false (fun e => opidOlder opid e.2.1) then s.respond (flowPkg flow) part opid token 101 []
    else if !s.isLocal pa || !s.peerAdmits part pa size .atomic key then s
    else
      match s.peerRead pa size key with
      | (0, old) =>
        let s := match (remoteOp kind pa size (data.take size) (cmp.take size)).atomStep old with
          | .ok (some bs, _) => s.keyedWrite (keyLeaf key) pa bs
          | _ => s
        (if op == 18 then s else s.keepOpid flow opid old).respond (flowPkg flow) part opid token 0 old
      | (st, _) => s.respond (flowPkg flow) part opid token st []
  | none, none => s
/-- A completion signal of another package's launch (R304, R334, R415): performed once, and answered. -/
def State.remoteSignal (s : State) (flow opid part pa key token : Nat) (failed : Bool) : State :=
  if !s.isLocal pa || !s.peerAdmits part pa 8 .atomic key then s
  else if (s.window flow).any fun e => e.2.1 == opid then s.respond (flowPkg flow) part opid token 0 []
  else
    match s.peerRead pa 8 key with
    | (0, _) => ((s.signalWord (keyLeaf key) pa failed).keepOpid flow opid []).respond (flowPkg flow) part opid token 0 []
    | (st, _) => s.respond (flowPkg flow) part opid token st []
/-- REMOTE_ATOMIC_REQUEST (R445): an atomic of another package arrives on a flow with its OPID; while the host may hold its line it waits (R328). -/
def execRemoteAtomicRequest (flow opid part pa op size key token : Nat) (data cmp : List Byte) (s : State) : Res :=
  .next <|
    if flowOut flow then s
    else if (s.hostHolds pa size).isEmpty then s.remoteAtomic flow opid (part % 16) pa op size key token data cmp
    else
      let m := message s.pkg (flowPkg flow) (flow / 256 % 4) (flow / 1024 % 2) (part % 16) 0 (opcOf 5) opid
        (peerAddr pa size (keyLeaf key) ++ leBytes 7 token ++ leBytes 1 op ++ padTo 16 (data.take 16) ++ padTo 16 (cmp.take 16))
      { (s.snoop (s.hostHolds pa size)) with link := { s.link with waiting := s.link.waiting ++ [m] } }

/-! Breaks (R443) -/

/-- The source restarts a flow at FSEQ 0 and sends what it held (R443 step 4). -/
def State.resendHeld (s : State) (n : Nat) : State :=
  let f := s.flow n
  f.held.foldl (fun s h => s.postMsg n h.2) (s.setFlow n { f with seq := 0, held := [], broken := false })
/-- Nothing of a flow is queued, or waits for its acknowledgement, on a port that is up (R443 step 2). -/
def State.flowQuiet (s : State) (n : Nat) : Bool := s.link.ports.all fun x => !x.2.up || !x.2.carries n
/-- The source can send its break message: the flow is broken, quiet, and has a route. -/
def State.canBreak (s : State) (n : Nat) : Bool := flowOut n && (s.flow n).broken && s.flowQuiet n && !(s.routeTo (flowPkg n)).isEmpty
/-- The source breaks a flow (R443): the break message names the flow and its next FSEQ, then both ends start again. DESIGN CHOICE (log 101): the break of a class-3 flow travels on the class-3 flow of the other ORD. -/
def State.sourceBreak (s : State) (n fseq : Nat) : State :=
  let ord := if flowCls n == 3 then 1 - flowOrd n else 1
  let s := s.post (flowPkg n) 3 ord 0 6 0 (leBytes 8 (n % 4096) ++ leBytes 8 (s.flow n).seq)
  (s.flowRec n fseq).resendHeld n

/-- The destination ends a flow at its first gap and starts again at FSEQ 0 (R443 steps 3 and 4): what could be delivered has been. -/
def State.flowEnds (s : State) (n : Nat) : State :=
  let f := s.flow n
  ((s.setFlow n { f with seq := 0, held := [], gapSince := none, broken := false }).flowRec n f.seq).breakColls n

/-! Delivery (R332, R333) -/

/-- The word that heads a message about this package's memory: PA, size, key slot. -/
def addrOf (bs : List Byte) : Nat × Nat × Nat :=
  let w := getLe bs 0 8
  (w % 2 ^ 52, bitsN w 57 52 + 1, w / 2 ^ 58)
/-- Another package watches a line of this one: its watch takes an entry of the slice, or a chain node of the partition that its message names, like a strand's here (R137, R403; DEDUCED, log 101). -/
def State.peerWatch (s : State) (src part pa : Nat) : State :=
  let n := localOf pa / 128
  if s.link.watches.any fun x => x.1 == src && x.2.1 == n && x.2.2.1 == part then s
  else
    let s := s.countWatch part pa
    { s with seq := s.seq + 1, link := { s.link with watches := s.link.watches ++ [(src, n, part, watchOrder s.tick s.seq)] } }
/-- The time master (R357): the lowest package id of those this package has a route to and its own. -/
def State.timeMaster (s : State) : Nat := ((List.range 256).find? fun n => n == s.pkg || s.link.route.getD n 0 != 0).getD s.pkg
/-- A package learns its offset, in ns, to the time master (R357, R358). The first time, and only before step 8 of the boot, it jumps forwards; else the offset is taken up by the rate. The master itself has none. -/
def State.timed (s : State) (corr : Int) : State :=
  if s.timeMaster == s.pkg then s
  else
    let jump := if s.pow.joined || s.trust.published then 0 else corr.toNat
    let s := if s.pow.synced then s else s.log 0 (sysRec 3 0 0x200D 0x8000 0 0 0 (corr.emod (2 ^ 64)).toNat 0)
    { s with tick := s.tick + jump, trust := { s.trust with step8 := s.trust.step8.map (· + jump) },
             pow := { s.pow with synced := true, lastSync := s.tick + jump, joined := true, drift := corr - jump, slew := 0 } }
/-- A timing message (R357): the master answers one with its own time beside the sender's; an answer gives the offset, half the way being over when the master answered (DESIGN CHOICE, log 101: the spec leaves the exchange open). -/
def State.timing (s : State) (src : Nat) (bs : List Byte) : State :=
  if s.timeMaster == s.pkg then s.post src 3 1 0 16 0 (bs.take 8 ++ leBytes 8 s.tick) else s
/-- The answer of the time master. -/
def State.timingAnswer (s : State) (src : Nat) (bs : List Byte) : State :=
  if src != s.timeMaster then s else s.timed ((getLe bs 8 8 : Int) - ((getLe bs 0 8 + s.tick) / 2 : Nat))
/-- A message reaches the message layer, to be acted on; what the model does not read is kept as it is (log 34). -/
def State.hand (s : State) (m : List Byte) : State :=
  let src := getLe m 1 1
  let flow := rxFlow src (getLe m 2 1 % 4) (getLe m 2 1 / 4 % 2)
  let part := getLe m 3 1 % 16
  let opc := getLe m 8 1
  let opid := getLe m 0x0C 4
  let bs := m.drop 16
  let (pa, size, key) := addrOf bs
  if opc == opcOf 1 then s.peerWrite src part pa key (getLe bs 8 8) ((bs.drop 16).take size)
  else if opc == opcOf 2 then s.hopPiece src bs
  else if opc == opcOf 3 then s.schedule (.collAbort (getLe bs 0 4) (getLe bs 4 4 % 256))
  else if opc == opcOf 4 || opc == opcOf 14 then
    if !s.isLocal pa || !s.peerAdmits part pa size .read key then s
    else
      let s := if opc == opcOf 14 then s.peerWatch src part pa else s
      let (st, data) := s.peerRead pa size key
      s.respond src part 0 (getLe bs 8 8 % 2 ^ 56) st data
  else if opc == opcOf 5 then
    s.remoteAtomic flow opid part pa (getLe bs 15 1) size key (getLe bs 8 8 % 2 ^ 56) ((bs.drop 16).take 16) ((bs.drop 32).take 16)
  else if opc == opcOf 6 then s.flowEnds (src + 256 * (getLe bs 0 8 / 256 % 8))
  else if opc == opcOf 7 then s.breakFlow (4096 + src + 256 * (getLe bs 0 8 / 256 % 8))
  else if opc == opcOf 8 then s.answered (getLe bs 0 8) (getLe bs 8 1) ((bs.drop 16).take (getLe bs 9 4))
  else if opc == opcOf 9 then s.remoteSignal flow opid part pa key (getLe bs 8 8) (getLe bs 16 1 == 1)
  else if opc == opcOf 11 then (s.tlbRemove .dom 0 [getLe bs 8 8, getLe bs 16 8, getLe bs 24 8]).post src 3 1 part 13 0 (leBytes 8 (getLe bs 0 8))
  else if opc == opcOf 12 then (s.dropCode .dom noCore (getLe bs 8 8) (getLe bs 16 8) (getLe bs 24 8)).post src 3 1 part 13 0 (leBytes 8 (getLe bs 0 8))
  else if opc == opcOf 13 then s.invAnswered (getLe bs 0 8) src
  else if opc == opcOf 10 then s.timing src bs
  else if opc == opcOf 16 then s.timingAnswer src bs
  else if opc == opcOf 15 then s.lineWritten (getLe bs 0 8) ((bs.drop 8).take 128)
  else { s with link := { s.link with inbox := s.link.inbox ++ [m] } }
/-- The lines of this package that a message's access writes and the host may hold (R328). -/
def State.msgHolds (s : State) (m : List Byte) : List Nat :=
  let opc := getLe m 8 1
  let (pa, size, _) := addrOf (m.drop 16)
  if opc == opcOf 1 || opc == opcOf 5 || opc == opcOf 9 then s.hostHolds pa size else []
/-- Two messages come on one flow. -/
def oneFlow (m n : List Byte) : Bool := (m.drop 1).take 2 == (n.drop 1).take 2
/-- A message is acted on, unless its write must wait for the host, or one before it on its flow does (R162, R328). -/
def State.give (s : State) (m : List Byte) : State :=
  let lines := s.msgHolds m
  if lines.isEmpty && !(s.link.waiting.any (oneFlow m)) then s.hand m
  else { (s.snoop lines) with link := { s.link with waiting := s.link.waiting ++ [m] } }
/-- Messages that waited for the host are acted on where they now can be. -/
def State.settleWaiting (s : State) : State :=
  s.link.waiting.foldl (fun s m => s.give m) { s with link := { s.link with waiting := [] } }
/-- Messages held behind a gap that has closed are delivered in FSEQ order (R333). -/
def State.drain (s : State) (n : Nat) : Nat → State
  | 0 => s
  | k + 1 =>
    let f := s.flow n
    match f.held.find? fun h => h.1 == f.seq with
    | none => if f.held.isEmpty then s.setFlow n { f with gapSince := none } else s
    | some h =>
      let s := s.setFlow n { f with seq := (f.seq + 1) % 2 ^ 32, held := f.held.filter fun x => x.1 != f.seq }
      State.drain (if flowOrd n == 1 then s.give h.2 else s) n k
/-- A message arrives on its flow (R333): one for another package is not forwarded (R332). An ordered flow delivers in FSEQ order; an unordered one at once, and only remembers what is missing. -/
def State.arriveMsg (s : State) (m : List Byte) : State :=
  let n := rxFlow (getLe m 1 1) (getLe m 2 1 % 4) (getLe m 2 1 / 4 % 2)
  let fseq := getLe m 4 4
  let f := s.flow n
  if getLe m 0 1 != s.pkg then s
  else
    let s := if flowOrd n == 0 then s.give m else s
    let f := { s.flow n with held := f.held ++ [(fseq, m)], gapSince := if fseq == f.seq then f.gapSince else some (f.gapSince.getD s.tick) }
    (s.setFlow n f).drain n (f.held.length + 1)
/-- Cut the messages out of the bytes of a virtual channel (R333): each is 16 bytes and LEN units of 8; a header naming one package twice is filler (log 34). Answers the messages and what is left of an unfinished one. -/
def cutMessages : Nat → List Byte → List (List Byte) × List Byte
  | 0, bs => ([], bs)
  | fuel + 1, bs =>
    let len := 16 + 8 * getLe bs 9 1
    if bs.length < 16 then ([], if bs.all (· == 0) then [] else bs)
    else if getLe bs 0 1 == getLe bs 1 1 then ([], [])
    else if bs.length < len then ([], bs)
    else
      let (ms, rest) := cutMessages fuel (bs.drop len)
      (bs.take len :: ms, rest)

/-! Ports (R330, R440 to R442) -/

/-- Replace a port's state. -/
def State.setPort (s : State) (n : Nat) (p : Port) : State := { s with link := { s.link with ports := s.link.ports.put n p } }
/-- Count in CHLSTATn, saturating (R440). -/
def State.countPort (s : State) (n hi lo : Nat) : State :=
  let w := s.link.chlstat.getD n 0
  { s with link := { s.link with chlstat := s.link.chlstat.put n (putFld w hi lo (min (2 ^ (hi + 1 - lo) - 1) (fld w hi lo + 1))) } }
/-- The record of a port's change (R435): severity 1 up again, 2 down. -/
def State.portRec (s : State) (n sev cause lanes : Nat) : State := s.log 0 (sysRec 3 sev 0x3004 (0x3000 + n) 0 0 0 (n + 16 * cause + 256 * lanes) 0)
/-- The flows of the messages that a port loses when it goes down (R443): those in flits not acknowledged, and of which a part has left. -/
def Port.lostFlows (p : Port) : List Nat :=
  (p.replay.flatMap (fun m => m.2.2) ++ (p.txq.filter fun q => p.cut.contains q.1).flatMap fun q => q.2.head?.toList.map Prod.fst).eraseDups
/-- Messages queued on a port that went down leave by another (R332); without one their flow breaks. -/
def State.requeue (s : State) (msgs : List (Nat × List Byte)) : State :=
  msgs.foldl (fun s m =>
    match s.portFor m.1 with
    | some n => { s with link := { s.link with
        flows := s.link.flows.put m.1 { s.flow m.1 with port := some n }
        ports := s.link.ports.put n ((s.port n).queue m.1 m.2) } }
    | none => s.breakFlow m.1) s
/-- A flit (R329): LSEQ, ACK, KIND and VC, 240 bytes of payload, the CRC over all of it. -/
def flit (lseq ack kind vc : Nat) (payload : List Byte) : List Byte :=
  let body := leBytes 8 (lseq % 4096 * 2 ^ 52 + ack % 4096 * 2 ^ 40 + kind % 4 * 2 ^ 38 + vc % 4 * 2 ^ 36) ++ padTo 240 (payload.take 240)
  body ++ leBytes 8 (crc64 0 body).toNat
/-- The highest LSEQ received in order from the partner (R329). -/
def Port.ack (p : Port) : Nat := (p.rxSeq + 4095) % 4096
/-- What a control flit says (R330, R331), which the spec does not encode (log 34): 1 replay from an LSEQ, 2 XOFF for a virtual channel, 3 XON. -/
def controlKind (payload : List Byte) : Nat := Config.answer 4 (leNat payload) % 4
/-- The LSEQ or the virtual channel that a control flit names (log 34). -/
def controlArg (payload : List Byte) : Nat := Config.answer 11 (leNat payload) % 4096
/-- The payload of a control flit (log 34). -/
def controlBytes (kind arg : Nat) : List Byte := leBytes 240 (Config.answer 12 (4096 * kind + arg))
/-- Flits leave by a port. -/
def State.wireOut (s : State) (n : Nat) (fs : List (List Byte)) : State := { s with link := { s.link with wire := s.link.wire ++ fs.map fun f => (n, f) } }
/-- A control flit leaves by a port (R330, R331): it is never stopped. -/
def State.control (s : State) (n kind arg : Nat) : State := s.wireOut n [flit (s.port n).txSeq (s.port n).ack 2 0 (controlBytes kind arg)]
/-- The flits in a virtual channel's receive buffer of 1,024 (R331). -/
def Port.held (p : Port) (vc : Nat) : Nat := (p.rx.getD vc []).length
/-- XOFF when fewer than 512 places of a receive buffer are free, XON when at least 768 are (R331). -/
def State.flowControl (s : State) (n vc : Nat) : State :=
  let p := s.port n
  if decide (512 < p.held vc) && !p.stopped.contains vc then (s.setPort n { p with stopped := p.stopped ++ [vc] }).control n 2 vc
  else if decide (p.held vc ≤ 256) && p.stopped.contains vc then (s.setPort n { p with stopped := p.stopped.filter (· != vc) }).control n 3 vc
  else s
/-- The next payload of a port's receive buffers is delivered to the message layer, in LSEQ order over all its channels (R330, R331, R333). -/
def State.portDeliver (s : State) (n : Nat) : State :=
  let p := s.port n
  match p.order.head? with
  | none => s
  | some vc =>
    match p.rx.getD vc [] with
    | [] => s
    | bs :: rest =>
      let (ms, left) := cutMessages 32 (p.part.getD vc [] ++ bs)
      ms.foldl (fun s m => s.arriveMsg m) ((s.setPort n { p with rx := p.rx.put vc rest, order := p.order.tail, part := p.part.put vc left }).flowControl n vc)
/-- What a port has received and acknowledged is delivered, all of it (R330). -/
def State.portEmpty (s : State) (n : Nat) : Nat → State
  | 0 => s
  | k + 1 => State.portEmpty (s.portDeliver n) n k
/-- A port goes down (R442, R443): what it has received goes on to the message layer; it drops what was not acknowledged, and the flows of those messages break; what it had not begun to send leaves by other ports. -/
def State.portDown (s : State) (n cause : Nat) : State :=
  if !(s.port n).up then s
  else
    let s := s.portEmpty n (s.port n).order.length
    let p := s.port n
    let lost := p.lostFlows
    let s := ((s.setPort n { Port.reset with cause := cause, lastRx := p.lastRx }).countPort n 23 16).portRec n 2 cause 0
    (lost.foldl (fun s f => s.breakFlow f) s).requeue ((p.txq.flatMap Prod.snd).filter fun m => !lost.contains m.1)
/-- PORT_RX_TIMEOUT (R442): no flit for 10 µs. -/
def execPortRxTimeout (port : Nat) (s : State) : Res := .next (if (s.port port).lastRx + 10000 ≤ s.tick then s.portDown port 2 else s)
/-- LANE_LOSS (R442). -/
def execLaneLoss (port : Nat) (s : State) : Res := .next (s.portDown port 3)
/-- PORT_RETRAIN_DONE (R442): an attempt at 8, 4, then 2 lanes ends; both ends count flits from 0 again (log 34). -/
def execPortRetrainDone (port : Nat) (ok : Bool) (s : State) : Res :=
  .next <|
    let p := s.port port
    if p.up || decide (3 ≤ p.retrains) || (s.link.ports.find? port).isNone then s
    else
      let s := s.countPort port 31 24
      if ok then
        let lanes := [8, 4, 2].getD p.retrains 2
        (s.setPort port { Port.reset with up := true, lanes := lanes, cause := p.cause, lastRx := s.tick }).portRec port 1 p.cause lanes
      else s.setPort port { p with retrains := p.retrains + 1 }
/-- The port asks for a replay from the first LSEQ it lacks (R330, R441, R442): the eighth time from one LSEQ takes it down. -/
def State.replayAsked (s : State) (n : Nat) : State :=
  let s := s.countPort n 47 32
  let p := s.port n
  if 8 ≤ p.replays + 1 then s.portDown n 1 else (s.setPort n { p with replays := p.replays + 1 }).control n 1 p.rxSeq
/-- The partner asks for a replay (R330, R441, R442): the flits from that LSEQ on are sent again, in their order. -/
def State.resend (s : State) (n lseq : Nat) : State :=
  let s := s.countPort n 47 32
  let p := s.port n
  let times := if p.asks.1 == lseq then p.asks.2 + 1 else 1
  if 8 ≤ times then s.portDown n 1
  else (s.setPort n { p with asks := (lseq, times) }).wireOut n ((p.replay.filter fun m => decide ((m.1 + 4096 - lseq) % 4096 < 2048)).map fun m => m.2.1)
/-- Messages are packed into a payload (R333): the bytes, their flows, what is left. -/
def packMsgs : Nat → List (Nat × List Byte) → List Byte × List Nat × List (Nat × List Byte)
  | _, [] => ([], [], [])
  | space, (k, m) :: t =>
    if space = 0 then ([], [], (k, m) :: t)
    else if m.length ≤ space then
      let (bs, ks, rest) := packMsgs (space - m.length) t
      (m ++ bs, k :: ks, rest)
    else (m.take space, [k], (k, m.drop space) :: t)
/-- The order in which a port serves its virtual channels: responses first, so that requests never block them (R331). DESIGN CHOICE (log 34): then 3, 2, 0. -/
def vcOrder : List Nat := [1, 3, 2, 0]
/-- A port sends its next data flit (R329 to R331): of a virtual channel that is not stopped, while it keeps fewer than 512 for replay. -/
def State.portSend (s : State) (n : Nat) : State :=
  let p := s.port n
  match vcOrder.find? fun vc => !p.xoff.contains vc && !(p.txq.getD vc []).isEmpty with
  | none => s
  | some vc =>
    if !p.up || decide (512 ≤ p.replay.length) then s
    else
      let (bs, ks, rest) := packMsgs 240 (p.txq.getD vc [])
      let f := flit p.txSeq p.ack 1 vc bs
      let split := decide ((p.txq.getD vc []).length < ks.length + rest.length)
      (s.setPort n { p with txSeq := (p.txSeq + 1) % 4096, txq := p.txq.put vc rest, cut := p.cut.filter (· != vc) ++ (if split then [vc] else []), replay := p.replay ++ [(p.txSeq, f, ks.eraseDups)] }).wireOut n [f]
/-- A control flit is acted on (R330, R331). -/
def State.controlled (s : State) (n : Nat) (payload : List Byte) : State :=
  let p := s.port n
  let arg := controlArg payload
  match controlKind payload with
  | 1 => s.resend n arg
  | 2 => s.setPort n { p with xoff := (p.xoff ++ [arg % 4]).eraseDups }
  | 3 => s.setPort n { p with xoff := p.xoff.filter (· != arg % 4) }
  | _ => s
/-- FLIT_RECEIVE (R329 to R331): the CRC is checked, the acknowledgement taken, a control flit acted on, a data flit in LSEQ order put into its channel's buffer; any other data flit is discarded and a replay requested once. -/
def execFlitReceive (port : Nat) (flit : List Byte) (s : State) : Res :=
  .next <|
    let p := s.port port
    if !p.up || flit.length != 256 then s
    else
      let s := s.setPort port { p with lastRx := s.tick }
      if crc64 0 (flit.take 248) != BitVec.ofNat 64 (getLe flit 248 8) then s.replayAsked port
      else
        let w := getLe flit 0 8
        let lseq := bitsN w 63 52
        let ack := bitsN w 51 40
        let vc := bitsN w 37 36
        let p := { s.port port with replay := p.replay.filter fun m => decide (2048 ≤ (ack + 4096 - m.1) % 4096) }
        let s := s.setPort port p
        if bitsN w 39 38 == 2 then s.controlled port ((flit.drop 8).take 240)
        else if bitsN w 39 38 != 1 then s
        else if lseq != p.rxSeq || decide (1024 ≤ p.held vc) then
          if p.replays == 0 && decide ((lseq + 4096 - p.rxSeq) % 4096 < 2048) then s.replayAsked port else s
        else
          (s.setPort port { p with rxSeq := (lseq + 1) % 4096, replays := 0, order := p.order ++ [vc], rx := p.rx.put vc (p.rx.getD vc [] ++ [(flit.drop 8).take 240]) }).flowControl port vc

/-! Events of flows (R443) -/

/-- FLOW_GAP_TIMEOUT (R443): an ordered flow has had a gap for 100 µs; the destination asks the source for a break. -/
def execFlowGapTimeout (flow : Nat) (s : State) : Res :=
  .next <|
    let f := s.flow flow
    if flowOut flow || flowOrd flow == 0 || f.broken || !(f.gapSince.elim false fun t => decide (t + 100000 ≤ s.tick)) then s
    else
      let s := s.setFlow flow { f with broken := true, since := s.tick }
      (s.post (flowPkg flow) 3 1 0 7 0 (leBytes 8 flow)).breakColls flow
/-- BREAK_MESSAGE (R443): of an inbound flow the destination has delivered what lies before the gap, discards the rest and starts again at FSEQ 0; of an outbound one the source sends the break with its first FSEQ not delivered. -/
def execBreakMessage (flow fseq : Nat) (s : State) : Res :=
  .next <|
    if flowOut flow then (if s.canBreak flow then s.sourceBreak flow fseq else s)
    else s.flowEnds flow
/-- NO_ROUTE_TIMEOUT (R443): the held accesses of broken flows to a package without a route fail after 50 µs. -/
def execNoRouteTimeout (pkg : Nat) (s : State) : Res :=
  .next <|
    let flows := ((List.range 8).map fun i => txFlow pkg (i / 2) (i % 2)).filter fun n => (s.flow n).broken && decide ((s.flow n).since + 50000 ≤ s.tick)
    if !(s.routeTo pkg).isEmpty then s
    else
      let s := flows.foldl (fun s n => s.setFlow n { s.flow n with held := [] }) s
      (s.opsTo pkg).foldl (fun s o => if flows.contains (txFlow pkg 0 (fld o.leaf 8 8)) then s.failRemote o 2 else s) s

end Sys2Proof.Machine
end

