-- ==== Sys2Proof/Machine/Host.lean ====
section
/-! DEFINITION. The host port (R164, R322 to R328, R343, R344, R349, R448 to R452): inbound accesses and how they are completed, CXL.mem and snoops, the link, resets of functions, errors, SPDM. -/
namespace Sys2Proof.Machine

/-! Inbound accesses (R324, R325, R448) -/

/-- The size of a function's BAR2 (R324), a power of two from 1 GiB to 2 TiB that the host's configuration fixes (log 36). -/
def bar2Size (f : Nat) : Nat := 2 ^ (30 + Config.answer 5 f % 12)
/-- A record about a requester at most once in 1 ms (R448, R450). -/
def State.logOnce (s : State) (who p : Nat) (r : FaultRec) : State :=
  if (s.host.told.find? who).elim false fun t => decide (s.tick < t + 1000000) then s
  else { s with host := { s.host with told := s.host.told.put who s.tick } }.log p r
/-- A refused inbound access writes its record (R435, R448). -/
def State.inboundRec (s : State) (f reason off : Nat) (pa : Option Nat) : State :=
  let p := s.funcPart f
  s.logOnce (0x20 + f) p (sysRec 3 2 0x300B 0x6000 p (if pa.isSome then 2 else 0) (pa.getD 0) (0x20 + f + 256 * reason) off)
/-- What the checks of an inbound access give. -/
inductive Inbound
  | ok (pa : Nat) (leaf : DWord)
  | bad (reason : Nat) (pa : Option Nat)
  deriving DecidableEq, Repr
/-- The state as if no page were executable, by which the reasons 3 and 6 of R448 are told apart. -/
def State.noExec (s : State) : State := { s with trust := { s.trust with execBits := [] } }
/-- The checks of an access at a BAR2 offset (R325, R448). -/
def State.inbound (s : State) (f off len : Nat) (kind : Acc) : Inbound :=
  let p := s.funcPart f
  let who := 0x20 + f
  let base := fld (s.part p).winva 63 17 * 2 ^ 17
  let va := base + off
  let away := match s.walkVa p va with
    | .ok e => decide (2 ≤ spaceOf (e.pa va))
    | .error _ => false
  if bar2Size f < off + len || !canonical base then .bad 1 none
  else if canonical va && away then .bad 2 none
  else
    match s.gWalk noCore p who va len kind with
    | .ok pa leaf => .ok pa leaf
    | .miss => .bad 1 none
    | .bad flt =>
      if flt.code == 0x1004 then .bad 2 none
      else if flt.code == 0x1008 then
        match (s.noExec).gWalk noCore p who va len kind with
        | .ok pa _ => .bad 6 (some pa)
        | _ => .bad 3 none
      else .bad 1 none
/-- A write leaves part of a line that fails its tag (R424). -/
def State.partialTag (s : State) (leaf : DWord) (pa len : Nat) : Bool :=
  (linesOf pa len).any fun n => !decide (localOf pa ≤ 64 * n ∧ 64 * n + 64 ≤ localOf pa + len) && s.tagFails leaf (pa - localOf pa + 64 * n) 64
/-- The posted writes of a function that are not performed yet: its later accesses follow them (R164). -/
def State.hostWrites (s : State) (f : Nat) : List Nat :=
  (s.ops.filter fun o => o.kind == .store && o.strand == 0 && o.grove == 0 && o.fields.getD 1 0 == f + 1 && o.fields.length == 3).map MemOp.id
/-- A posted write that cannot be performed at once, in pieces of 64 bytes: to another package's memory, or behind one that is not performed (R164, R325). -/
def State.hostStore (s : State) (f va pa : Nat) (leaf : DWord) (data : List Byte) : State :=
  let before := s.hostWrites f
  (List.range ((data.length + 63) / 64)).foldl (fun s i =>
    let t := (data.drop (64 * i)).take 64
    s.pushUnit { s.unitOp .store 0 0 noCore (va + 64 * i) (pa + 64 * i) leaf t.length with data := t, after := before, fields := [0, f + 1, s.funcPart f] }) s
/-- A read of the host that another package serves, or that follows a posted write not performed yet (R164, R325). -/
def State.hostFetch (s : State) (f va pa : Nat) (leaf : DWord) (len tag : Nat) : State :=
  s.pushUnit { s.unitOp .load 0 0 noCore va pa leaf (min 64 len) with after := s.hostWrites f, fields := [0, f + 1, s.funcPart f, 0, tag, len] }
/-- The VA of a BAR2 offset (R325). -/
def State.winAt (s : State) (f off : Nat) : Nat := fld (s.part (s.funcPart f)).winva 63 17 * 2 ^ 17 + off
/-- HOST_INBOUND_WRITE (R325, R448): a posted write at a BAR2 offset. -/
def execHostInboundWrite (f off : Nat) (data : List Byte) (s : State) : Res :=
  .next <|
    if 16 ≤ f || data.isEmpty || !s.serves || !s.host.linkUp then s
    else
      match s.inbound f off data.length .write with
      | .bad r pa => s.inboundRec f r off pa
      | .ok pa leaf =>
        if s.isLocal pa && s.partialTag leaf pa data.length then s.inboundRec f 4 off (some pa)
        else if s.remote pa || !(s.hostWrites f).isEmpty then s.hostStore f (s.winAt f off) pa leaf data
        else s.anyWrite (s.funcPart f) pa leaf data

/-! Reads by the host (R324, R325, R343, R448) -/

/-- The bytes of a read of BAR0 (R324, R343, R350): the capability list and its bodies, or registers; before step 8 zero. -/
def State.bar0Read (s : State) (f off len : Nat) : List Byte :=
  let list := s.capList f
  if !s.trust.published then List.replicate len 0
  else if decide (0x1000 ≤ off ∧ off < 0x1000 + list.length) then padTo len ((list.drop (off - 0x1000)).take len)
  else
    match (s.capIds f).find? fun id => decide (bodyAt id ≤ off ∧ off < bodyAt id + (s.capBody f id).length) with
    | some id => padTo len (((s.capBody f id).drop (off - bodyAt id)).take len)
    | none => if s.trust.recovery then List.replicate len 0 else padTo len (((leBytes 8 (s.readReg (0x20 + f) (s.bar0Reg f off)).toNat).drop (off % 8)).take len)
/-- HOST_INBOUND_READ (R164, R324, R325, R448): a read of BAR0 or of a BAR2 offset is completed. -/
def execHostInboundRead (f bar off len tag : Nat) (s : State) : Res :=
  .next <|
    if 16 ≤ f || (f != 0 && !s.serves) then s
    else if bar == 0 then s.complete tag 0 (s.bar0Read f off len)
    else if bar != 2 || !s.serves then s
    else
      match s.inbound f off len .read with
      | .bad r pa => (s.inboundRec f r off pa).complete tag (if r == 3 then 4 else 1) []
      | .ok pa leaf =>
        if s.isLocal pa && s.tagFails leaf pa len && (s.poisonAt pa len).isNone then (s.inboundRec f 4 off (some pa)).complete tag 4 []
        else if s.remote pa || !(s.hostWrites f).isEmpty then s.hostFetch f (s.winAt f off) pa leaf len tag
        else s.complete tag (if (s.poisonAt pa len).isSome then 256 else 0) (s.readAs leaf pa len)

/-! CXL (R328, R452) -/

/-- CXL_MEM_REQUEST (R328, R350, R452): nothing before step 8 of the boot or in the recovery state; a request for a 64-byte line; a read lets the host hold it, one outside the HDM range is completed with an error, one that no descriptor admits as R448 says. -/
def execCxlMemRequest (write : Bool) (addr : Nat) (data : List Byte) (s : State) : Res :=
  .next <|
    let line := addr / 64
    let kind : Acc := if write then .write else .read
    if !s.host.cxl || !s.host.linkUp || !s.serves then s
    else if decide (2 ^ 41 ≤ addr) || !s.populated addr then (s.log 0 (sysRec 3 2 0x300D 0x6000 0 2 addr 3 0)).complete 0 1 []
    else if (s.accessReason 0x20 (64 * line) 64 kind 0).isSome then
      (s.inboundRec 0 (if (s.noExec.accessReason 0x20 (64 * line) 64 kind 0).isSome then 3 else 6) 0 (some (64 * line))).complete 0 4 []
    else if write then (s.anyWrite 0 (64 * line) 0 (padTo 64 (data.take 64))).complete 0 0 []
    else
      { s with host := { s.host with lines := if s.host.lines.contains line then s.host.lines else s.host.lines ++ [line] } }.complete 0
        (if (s.poisonAt (64 * line) 64).isSome then 256 else 0) (s.readAs 0 (64 * line) 64)
/-- BI_SNOOP_RESPONSE (R328): the host gives the line up and the held writes can be performed. -/
def execBiSnoopResponse (line : Nat) (s : State) : Res :=
  .next { s with host := { s.host with lines := s.host.lines.filter (· != line), snoops := s.host.snoops.filter fun x => x.1 != line } }
/-- BI_SNOOP_TIMEOUT (R452): no response for 10 ms is reported; the write stays held. -/
def execBiSnoopTimeout (line : Nat) (s : State) : Res :=
  .next <|
    if s.host.snoops.any fun x => x.1 == line && !x.2.2 && decide (x.2.1 + 10000000 ≤ s.tick) then
      { s with host := { s.host with snoops := s.host.snoops.map fun (x : Nat × Nat × Bool) => if x.1 == line then (x.1, x.2.1, true) else x } }.log 0
        (sysRec 3 2 0x300D 0x6000 0 2 (64 * line) 2 0)
    else s

/-! The link and its failures (R449 to R451) -/

/-- An operation is a load that waits for the host or a peer. -/
def hostLoad (o : MemOp) : Bool := o.kind == .load && (spaceOf o.pa == 2 || spaceOf o.pa == 4)
/-- OUTBOUND_HOST_TIMEOUT (R449): a load without completion for 10 ms fails with reason 3. -/
def execOutboundHostTimeout (id : Nat) (s : State) : Res :=
  .next <|
    match s.readyOp id with
    | some o => if hostLoad o && decide (o.born + 10000000 ≤ s.tick) then s.landLoad o [] 4 else s
    | none => s
/-- The host link goes down (R451, R452): loads in flight fail, the host holds no line, held writes are free to perform. -/
def State.linkDown (s : State) : State :=
  let s := { s with host := { s.host with linkUp := false, lines := [], snoops := [] } }
  (s.ops.filter hostLoad).foldl (fun s o => s.resultLands o.id [] 5) s
/-- HOST_LINK_DOWN (R451). -/
def execHostLinkDown (s : State) : Res := .next s.linkDown
/-- HOT_RESET (R451): a hot reset or a retrain restores the link, and nothing else. -/
def execHotReset (s : State) : Res := .next { s with host := { s.host with linkUp := true } }
/-- AER_ERROR (R450): an error of class 0 correctable, 1 non-fatal, 2 fatal, with its status bits, in the function concerned. -/
def execAerError (f cls req : Nat) (bits : DWord) (s : State) : Res :=
  .next <|
    if 16 ≤ f then s
    else
      let now := s.host.aer.getD f 0 ||| bits
      let s := { s with host := { s.host with aer := s.host.aer.put f now } }
      let p := s.funcPart f
      let r := fun (sev : Nat) => sysRec 3 sev 0x300A 0x6000 p 0 0 now.toNat (req % 65536)
      if cls == 0 then s.logOnce 0x100 p (r 1)
      else if cls == 1 then s.log p (r 2)
      else (s.log p (r 5)).linkDown

/-! Function level resets (R323, R451) -/

/-- The queues of a partition are unmapped and its launches terminated (R451), with a code the spec does not give: a free value (log 38). -/
def State.flr (s : State) (p : Nat) : State :=
  let (code, s) := s.takeFree
  let s := { s with sched := { s.sched with
    slots := s.sched.slots.filter fun (x : Nat × QSlot) => descPart x.2.desc != p } }
  let ls := (s.launches.filter fun x => x.2.part == p && !x.2.ended).map Prod.fst
  ls.foldl (fun s l => s.terminate l { (sysRec 3 3 (code % 65536) 0x7000 p 0 0 0 0) with launch := l }) s
/-- VF_FLR (R323, R451): the function then takes the partition that FUNCMAP gives. -/
def execVfFlr (f : Nat) (s : State) : Res :=
  .next <|
    if f == 0 || 16 ≤ f then s
    else
      let s := s.flr (s.funcPart f)
      { s with host := { s.host with funcHeld := s.host.funcHeld.del f, aer := s.host.aer.del f } }
/-- PF_FLR (R451): the same for every partition. DESIGN CHOICE (log 101): it counts as the reset of every VF for a FUNCMAP value held back (R323). -/
def execPfFlr (s : State) : Res :=
  .next <|
    let s := (List.range 16).foldl (fun s p => s.flr p) s
    { s with host := { s.host with funcHeld := [], aer := [] } }

/-! SPDM (R349, R350) -/

/-- What measurement 4 covers (R349, R434), in the model's order (log 39): FUNCMAP, the access tables, the key slots in use, each partition's quotas and forensic state. -/
def State.configBytes (s : State) : List Byte :=
  leBytes 8 s.host.funcmap.toNat ++ s.trust.access.flatMap (fun e => leBytes 4 e.1 ++ e.2.flatMap fun d => leBytes 32 d.toNat) ++
    ((List.range 64).filter fun i => (s.trust.slots.find? i).isSome).flatMap (leBytes 1) ++
    (List.range 16).flatMap fun p =>
      let q := s.part p
      leBytes 8 q.pq0.toNat ++ leBytes 8 q.pq1.toNat ++ [if q.forensic then 1 else 0]
/-- The measurement blocks (R349): 1 to 3 are the part's own firmware, 4 the configuration, 5 the chain of every partition; index 0 stands for the certificate chain of slot 0. -/
def State.measurement (s : State) (index : Nat) : List Byte :=
  if index == 0 then leBytes 64 (Config.answer 9 0)
  else if index ≤ 3 then leBytes 64 (Config.answer 8 index)
  else if index == 4 then sha512 s.configBytes
  else (List.range 16).flatMap fun p => (s.part p).chain
/-- SPDM_REQUEST (R349): a measurement and the identity key's signature on it, a free value (log 39); in the recovery state for index 1 alone (R350). -/
def execSpdmRequest (index : Nat) (s : State) : Res :=
  .next <|
    if 5 < index || (s.trust.recovery && index != 1) then s
    else
      let (v, t) := s.takeFree
      { t with host := { t.host with completions := t.host.completions ++ [(0x10000 + index, 0, s.measurement index ++ leBytes 512 v)] } }

end Sys2Proof.Machine
end

