-- ==== Sys2Proof/Machine/Integer.lean ====
section
/-! DEFINITION. The integer and logic instructions (R202 to R204) in their S-, X- and literal forms. -/
namespace Sys2Proof

/-- A clamp of an exact result to 32 bits, signed or unsigned (R202). -/
def satTo (u : Bool) (x : Int) : Word :=
  if u then BitVec.ofInt 32 (clamp 0 (2 ^ 32 - 1) x) else BitVec.ofInt 32 (clamp (-(2 ^ 31)) (2 ^ 31 - 1) x)
/-- IADD (R202). -/
def addW (sat u : Bool) (a b : Word) : Word :=
  if sat then satTo u (if u then a.toNat + b.toNat else a.toInt + b.toInt) else a + b
/-- ISUB (R202). -/
def subW (sat u : Bool) (a b : Word) : Word :=
  if sat then satTo u (if u then (a.toNat : Int) - b.toNat else a.toInt - b.toInt) else a - b
/-- IMULH (R202). -/
def mulhW (u : Bool) (a b : Word) : Word :=
  BitVec.ofInt 32 ((if u then (a.toNat : Int) * b.toNat else a.toInt * b.toInt) / 2 ^ 32)
/-- IMIN (R202). -/
def minW (u : Bool) (a b : Word) : Word := if (if u then a.ule b else a.sle b) then a else b
/-- IMAX (R202). -/
def maxW (u : Bool) (a b : Word) : Word := if (if u then a.ule b else a.sle b) then b else a
/-- IABS (R202). -/
def absW (sat : Bool) (a : Word) : Word := if sat then satTo false a.toInt.natAbs else if a.toInt < 0 then -a else a
/-- INEG (R202). -/
def negW (sat : Bool) (a : Word) : Word := if sat then satTo false (-a.toInt) else -a
/-- SHL (R202). -/
def shlW (a b : Word) : Word := if 32 ≤ b.toNat then 0 else a <<< b.toNat
/-- SHR (R202). -/
def shrW (a b : Word) : Word := if 32 ≤ b.toNat then 0 else a >>> b.toNat
/-- SAR (R202). -/
def sarW (a b : Word) : Word := a.sshiftRight (min b.toNat 31)
/-- POPC (R202). -/
def popcW (a : Word) : Word := BitVec.ofNat 32 ((List.range 32).filter fun i => a.getLsbD i).length
/-- CLZ (R202). -/
def clzW (a : Word) : Word := BitVec.ofNat 32 (((List.range 32).find? fun i => a.getLsbD (31 - i)).getD 32)
/-- CTZ (R202). -/
def ctzW (a : Word) : Word := BitVec.ofNat 32 (((List.range 32).find? fun i => a.getLsbD i).getD 32)
/-- The number whose listed bits are set. -/
def ofBits (n : Nat) (f : Nat → Bool) : Nat := (List.range n).foldl (fun acc i => if f i then acc + 2 ^ i else acc) 0
/-- BREV (R202). -/
def brevW (a : Word) : Word := BitVec.ofNat 32 (ofBits 32 fun i => a.getLsbD (31 - i))
/-- BFX (R203). -/
def bfxW (u : Bool) (a b : Word) : Word :=
  let pos := b.toNat % 256
  let n := min (b.toNat / 256 % 256) 32
  let x : Int := if u then a.toNat else a.toInt
  let f := x / 2 ^ pos % 2 ^ n
  if n = 0 then 0 else if u || decide (f < 2 ^ (n - 1)) then BitVec.ofInt 32 f else BitVec.ofInt 32 (f - 2 ^ n)
/-- BFI (R203). -/
def bfiW (a b c : Word) : Word :=
  let pos := b.toNat % 256
  let n := if pos < 32 then min (b.toNat / 256 % 256) (32 - pos) else 0
  let m : Word := BitVec.ofNat 32 ((2 ^ n - 1) * 2 ^ (if pos < 32 then pos else 0))
  if n = 0 then a else (a &&& ~~~m) ||| ((c <<< pos) &&& m)
/-- SHL64 (R204). -/
def shl64 (a : DWord) (b : Word) : DWord := if 64 ≤ b.toNat then 0 else a <<< b.toNat
/-- SHR64 (R204). -/
def shr64 (s : Bool) (a : DWord) (b : Word) : DWord :=
  if s then a.sshiftRight (min b.toNat 63) else if 64 ≤ b.toNat then 0 else a >>> b.toNat
/-- The index of LEA, extended to 64 bits (R204). -/
def leaIdx (u : Bool) (b : Word) : DWord := if u then b.setWidth 64 else b.signExtend 64
/-- LEA (R204). -/
def leaW (u : Bool) (sh : Nat) (a : DWord) (b : Word) : DWord := a + leaIdx u b <<< sh
/-- IMULW (R204). -/
def mulwW (u : Bool) (a b : Word) : DWord := leaIdx u a * leaIdx u b

end Sys2Proof

namespace Sys2Proof.Machine

/-- NOP (R202). -/
def planNop (g : Guard) : Plan := plain g 12 (opc .nop) [] [] fun s _ _ => s
/-- MOV (R202). -/
def planMov (g : Guard) (d a : Nat) : Plan := map1 g 12 (opc .mov) d a id
/-- MOVI (R202). -/
def planMovi (g : Guard) (d : Nat) (imm : Word) : Plan :=
  plain g 12 (opc .movi) [d] [] fun s x ls => s.onCohort x fun co => co.write d .uni ls fun _ => imm
/-- MOVI, literal form (R202). -/
def planMoviLit (g : Guard) (d : Nat) (lit : DWord) : Plan := mapPair g 20 (opc .movi) d [] (fun _ => []) fun _ _ => lit
/-- IADD (R202; the affine row of R61 without .sat). -/
def planIadd (g : Guard) (d a : Nat) (b : Src) (sat u : Bool) : Plan :=
  map2Sh g 12 (opc .iadd) d a b (fun p q v w => if sat then Sh.all [p, q] else addShape p q v w) (addW sat u)
/-- ISUB (R202). -/
def planIsub (g : Guard) (d a : Nat) (b : Src) (sat u : Bool) : Plan := map2 g 12 (opc .isub) d a b (subW sat u)
/-- IMUL (R202; the affine row of R61). -/
def planImul (g : Guard) (d a : Nat) (b : Src) : Plan := map2Sh g 12 (opc .imul) d a b mulShape (· * ·)
/-- IMULH (R202). -/
def planImulh (g : Guard) (d a : Nat) (b : Src) (u : Bool) : Plan := map2 g 12 (opc .imulh) d a b (mulhW u)
/-- IMAD (R202). -/
def planImad (g : Guard) (d a : Nat) (b : Src) (c : Nat) : Plan := map3 g 12 (opc .imad) d a b c fun x y z => x * y + z
/-- IMIN (R202). -/
def planImin (g : Guard) (d a : Nat) (b : Src) (u : Bool) : Plan := map2 g 12 (opc .imin) d a b (minW u)
/-- IMAX (R202). -/
def planImax (g : Guard) (d a : Nat) (b : Src) (u : Bool) : Plan := map2 g 12 (opc .imax) d a b (maxW u)
/-- IABS (R202). -/
def planIabs (g : Guard) (d a : Nat) (sat : Bool) : Plan := map1 g 12 (opc .iabs) d a (absW sat)
/-- INEG (R202). -/
def planIneg (g : Guard) (d a : Nat) (sat : Bool) : Plan := map1 g 12 (opc .ineg) d a (negW sat)
/-- AND (R202). -/
def planAnd (g : Guard) (d a : Nat) (b : Src) : Plan := map2 g 12 (opc .and) d a b (· &&& ·)
/-- OR (R202). -/
def planOr (g : Guard) (d a : Nat) (b : Src) : Plan := map2 g 12 (opc .or) d a b (· ||| ·)
/-- XOR (R202). -/
def planXor (g : Guard) (d a : Nat) (b : Src) : Plan := map2 g 12 (opc .xor) d a b (· ^^^ ·)
/-- ANDN (R202). -/
def planAndn (g : Guard) (d a : Nat) (b : Src) : Plan := map2 g 12 (opc .andn) d a b fun x y => x &&& ~~~y
/-- NOT (R202). -/
def planNot (g : Guard) (d a : Nat) : Plan := map1 g 12 (opc .not) d a (~~~ ·)
/-- SHL (R202). -/
def planShl (g : Guard) (d a : Nat) (b : Src) : Plan := map2 g 12 (opc .shl) d a b shlW
/-- SHR (R202). -/
def planShr (g : Guard) (d a : Nat) (b : Src) : Plan := map2 g 12 (opc .shr) d a b shrW
/-- SAR (R202). -/
def planSar (g : Guard) (d a : Nat) (b : Src) : Plan := map2 g 12 (opc .sar) d a b sarW
/-- POPC (R202). -/
def planPopc (g : Guard) (d a : Nat) : Plan := map1 g 12 (opc .popc) d a popcW
/-- CLZ (R202). -/
def planClz (g : Guard) (d a : Nat) : Plan := map1 g 12 (opc .clz) d a clzW
/-- CTZ (R202). -/
def planCtz (g : Guard) (d a : Nat) : Plan := map1 g 12 (opc .ctz) d a ctzW
/-- BREV (R202). -/
def planBrev (g : Guard) (d a : Nat) : Plan := map1 g 12 (opc .brev) d a brevW
/-- BFX (R203). -/
def planBfx (g : Guard) (d a : Nat) (b : Src) (u : Bool) : Plan := map2 g 12 (opc .bfx) d a b (bfxW u)
/-- BFI (R203). -/
def planBfi (g : Guard) (d a : Nat) (b : Src) (c : Nat) : Plan := map3 g 12 (opc .bfi) d a b c bfiW
/-- SEL (R202): it reads a predicate operand, so its result is general (R61). -/
def planSel (g : Guard) (d a : Nat) (b : Src) (pc : Nat) : Plan :=
  plain g 12 (opc .sel) (d :: a :: b.regs) (a :: b.regs) fun s x ls => s.onCohort x fun co =>
    co.write d .gen ls fun l => if co.pred pc l then co.reg a l else co.src b l
/-- IADD64 (R204). -/
def planIadd64 (g : Guard) (d a : Nat) (b : Src) : Plan :=
  mapPair g 12 (opc .iadd64) d (a :: (a + 1) :: b.regs64) (fun co => co.shape a :: co.shape (a + 1) :: co.srcShape64 b) fun co l => co.reg64 a l + co.src64 b l
/-- IADD64, literal form (R204). -/
def planIadd64Lit (g : Guard) (d a : Nat) (lit : DWord) : Plan :=
  mapPair g 20 (opc .iadd64) d [a, a + 1] (fun co => [co.shape a, co.shape (a + 1)]) fun co l => co.reg64 a l + lit
/-- ISUB64 (R204). -/
def planIsub64 (g : Guard) (d a : Nat) (b : Src) : Plan :=
  mapPair g 12 (opc .isub64) d (a :: (a + 1) :: b.regs64) (fun co => co.shape a :: co.shape (a + 1) :: co.srcShape64 b) fun co l => co.reg64 a l - co.src64 b l
/-- ISUB64, literal form (R204). -/
def planIsub64Lit (g : Guard) (d a : Nat) (lit : DWord) : Plan :=
  mapPair g 20 (opc .isub64) d [a, a + 1] (fun co => [co.shape a, co.shape (a + 1)]) fun co l => co.reg64 a l - lit
/-- IMUL64 (R204). -/
def planImul64 (g : Guard) (d a : Nat) (b : Src) : Plan :=
  mapPair g 12 (opc .imul64) d (a :: (a + 1) :: b.regs64) (fun co => co.shape a :: co.shape (a + 1) :: co.srcShape64 b) fun co l => co.reg64 a l * co.src64 b l
/-- IMUL64, literal form (R204). -/
def planImul64Lit (g : Guard) (d a : Nat) (lit : DWord) : Plan :=
  mapPair g 20 (opc .imul64) d [a, a + 1] (fun co => [co.shape a, co.shape (a + 1)]) fun co l => co.reg64 a l * lit
/-- SHL64 (R204). -/
def planShl64 (g : Guard) (d a : Nat) (b : Src) : Plan :=
  mapPair g 12 (opc .shl64) d (a :: (a + 1) :: b.regs) (fun co => [co.shape a, co.shape (a + 1), co.srcShape b]) fun co l => shl64 (co.reg64 a l) (co.src b l)
/-- SHR64 (R204). -/
def planShr64 (g : Guard) (d a : Nat) (b : Src) (sg : Bool) : Plan :=
  mapPair g 12 (opc .shr64) d (a :: (a + 1) :: b.regs) (fun co => [co.shape a, co.shape (a + 1), co.srcShape b]) fun co l => shr64 sg (co.reg64 a l) (co.src b l)
/-- LEA (R204): with shift 0 the low register may be affine and the high one is then general (R61). -/
def planLea (g : Guard) (d a : Nat) (b : Src) (u : Bool) (sh : Nat) : Plan :=
  plain g 12 (opc .lea) (d :: (d + 1) :: a :: (a + 1) :: b.regs) (a :: (a + 1) :: b.regs) fun s x ls => s.onCohort x fun co =>
    let all := Sh.all [co.shape a, co.shape (a + 1), co.srcShape b]
    let lo := if all = .uni then .uni else if sh = 0 then addShape (co.shape a) (co.srcShape b) (co.reg a 0) (co.src b 0) else all
    co.write64 d (if all ≠ .uni ∧ lo = .uni then .gen else lo) all ls fun l => leaW u sh (co.reg64 a l) (co.src b l)
/-- IMULW (R204). -/
def planImulw (g : Guard) (d a : Nat) (b : Src) (u : Bool) : Plan :=
  mapPair g 12 (opc .imulw) d (a :: b.regs) (fun co => [co.shape a, co.srcShape b]) fun co l => mulwW u (co.reg a l) (co.src b l)
/-- IMADW (R204). -/
def planImadw (g : Guard) (d a : Nat) (b : Src) (c : Nat) (u : Bool) : Plan :=
  mapPair g 12 (opc .imadw) d (a :: c :: (c + 1) :: b.regs) (fun co => [co.shape a, co.srcShape b, co.shape c, co.shape (c + 1)])
    fun co l => mulwW u (co.reg a l) (co.src b l) + co.reg64 c l

/-! What each instruction does: its plan, issued for the current cohort -/

/-- NOP (R202). -/
def execNop (g : Guard) (s : State) : Res := .next (s.exec (planNop g))
/-- MOV (R202). -/
def execMov (g : Guard) (d a : Nat) (s : State) : Res := .next (s.exec (planMov g d a))
/-- MOVI (R202). -/
def execMovi (g : Guard) (d : Nat) (imm : Word) (s : State) : Res := .next (s.exec (planMovi g d imm))
/-- MOVI_LIT (R202). -/
def execMoviLit (g : Guard) (d : Nat) (lit : DWord) (s : State) : Res := .next (s.exec (planMoviLit g d lit))
/-- IADD (R202). -/
def execIadd (g : Guard) (d a : Nat) (b : Src) (sat u : Bool) (s : State) : Res := .next (s.exec (planIadd g d a b sat u))
/-- ISUB (R202). -/
def execIsub (g : Guard) (d a : Nat) (b : Src) (sat u : Bool) (s : State) : Res := .next (s.exec (planIsub g d a b sat u))
/-- IMUL (R202). -/
def execImul (g : Guard) (d a : Nat) (b : Src) (s : State) : Res := .next (s.exec (planImul g d a b))
/-- IMULH (R202). -/
def execImulh (g : Guard) (d a : Nat) (b : Src) (u : Bool) (s : State) : Res := .next (s.exec (planImulh g d a b u))
/-- IMAD (R202). -/
def execImad (g : Guard) (d a : Nat) (b : Src) (c : Nat) (s : State) : Res := .next (s.exec (planImad g d a b c))
/-- IMIN (R202). -/
def execImin (g : Guard) (d a : Nat) (b : Src) (u : Bool) (s : State) : Res := .next (s.exec (planImin g d a b u))
/-- IMAX (R202). -/
def execImax (g : Guard) (d a : Nat) (b : Src) (u : Bool) (s : State) : Res := .next (s.exec (planImax g d a b u))
/-- IABS (R202). -/
def execIabs (g : Guard) (d a : Nat) (sat : Bool) (s : State) : Res := .next (s.exec (planIabs g d a sat))
/-- INEG (R202). -/
def execIneg (g : Guard) (d a : Nat) (sat : Bool) (s : State) : Res := .next (s.exec (planIneg g d a sat))
/-- AND (R202). -/
def execAnd (g : Guard) (d a : Nat) (b : Src) (s : State) : Res := .next (s.exec (planAnd g d a b))
/-- OR (R202). -/
def execOr (g : Guard) (d a : Nat) (b : Src) (s : State) : Res := .next (s.exec (planOr g d a b))
/-- XOR (R202). -/
def execXor (g : Guard) (d a : Nat) (b : Src) (s : State) : Res := .next (s.exec (planXor g d a b))
/-- ANDN (R202). -/
def execAndn (g : Guard) (d a : Nat) (b : Src) (s : State) : Res := .next (s.exec (planAndn g d a b))
/-- NOT (R202). -/
def execNot (g : Guard) (d a : Nat) (s : State) : Res := .next (s.exec (planNot g d a))
/-- SHL (R202). -/
def execShl (g : Guard) (d a : Nat) (b : Src) (s : State) : Res := .next (s.exec (planShl g d a b))
/-- SHR (R202). -/
def execShr (g : Guard) (d a : Nat) (b : Src) (s : State) : Res := .next (s.exec (planShr g d a b))
/-- SAR (R202). -/
def execSar (g : Guard) (d a : Nat) (b : Src) (s : State) : Res := .next (s.exec (planSar g d a b))
/-- POPC (R202). -/
def execPopc (g : Guard) (d a : Nat) (s : State) : Res := .next (s.exec (planPopc g d a))
/-- CLZ (R202). -/
def execClz (g : Guard) (d a : Nat) (s : State) : Res := .next (s.exec (planClz g d a))
/-- CTZ (R202). -/
def execCtz (g : Guard) (d a : Nat) (s : State) : Res := .next (s.exec (planCtz g d a))
/-- BREV (R202). -/
def execBrev (g : Guard) (d a : Nat) (s : State) : Res := .next (s.exec (planBrev g d a))
/-- BFX (R203). -/
def execBfx (g : Guard) (d a : Nat) (b : Src) (u : Bool) (s : State) : Res := .next (s.exec (planBfx g d a b u))
/-- BFI (R203). -/
def execBfi (g : Guard) (d a : Nat) (b : Src) (c : Nat) (s : State) : Res := .next (s.exec (planBfi g d a b c))
/-- SEL (R202). -/
def execSel (g : Guard) (d a : Nat) (b : Src) (pc : Nat) (s : State) : Res := .next (s.exec (planSel g d a b pc))
/-- IADD64 (R204). -/
def execIadd64 (g : Guard) (d a : Nat) (b : Src) (s : State) : Res := .next (s.exec (planIadd64 g d a b))
/-- IADD64_LIT (R204). -/
def execIadd64Lit (g : Guard) (d a : Nat) (lit : DWord) (s : State) : Res := .next (s.exec (planIadd64Lit g d a lit))
/-- ISUB64 (R204). -/
def execIsub64 (g : Guard) (d a : Nat) (b : Src) (s : State) : Res := .next (s.exec (planIsub64 g d a b))
/-- ISUB64_LIT (R204). -/
def execIsub64Lit (g : Guard) (d a : Nat) (lit : DWord) (s : State) : Res := .next (s.exec (planIsub64Lit g d a lit))
/-- IMUL64 (R204). -/
def execImul64 (g : Guard) (d a : Nat) (b : Src) (s : State) : Res := .next (s.exec (planImul64 g d a b))
/-- IMUL64_LIT (R204). -/
def execImul64Lit (g : Guard) (d a : Nat) (lit : DWord) (s : State) : Res := .next (s.exec (planImul64Lit g d a lit))
/-- SHL64 (R204). -/
def execShl64 (g : Guard) (d a : Nat) (b : Src) (s : State) : Res := .next (s.exec (planShl64 g d a b))
/-- SHR64 (R204). -/
def execShr64 (g : Guard) (d a : Nat) (b : Src) (sg : Bool) (s : State) : Res := .next (s.exec (planShr64 g d a b sg))
/-- LEA (R204). -/
def execLea (g : Guard) (d a : Nat) (b : Src) (u : Bool) (sh : Nat) (s : State) : Res := .next (s.exec (planLea g d a b u sh))
/-- IMULW (R204). -/
def execImulw (g : Guard) (d a : Nat) (b : Src) (u : Bool) (s : State) : Res := .next (s.exec (planImulw g d a b u))
/-- IMADW (R204). -/
def execImadw (g : Guard) (d a : Nat) (b : Src) (c : Nat) (u : Bool) (s : State) : Res := .next (s.exec (planImadw g d a b c u))

end Sys2Proof.Machine
end

