-- ==== Sys2Proof/Machine/Power.lean ====
section
/-! DEFINITION. Boot and package reset, power states, clock, temperature and the time base (R350 to R359, R132). -/
namespace Sys2Proof.Machine

/-! Boot (R350) -/

/-- The schedule of outside events goes on from a time that starts again (R357). -/
def rebase (now start : Nat) (a : List (Nat × Instr)) : List (Nat × Instr) := a.map fun e => (e.1 - now + start, e.2)
/-- What the outside has been given, and the model's own counters, stay when the machine starts again; so do the cores that in-field test disabled (R471). -/
def State.blank (s : State) : State :=
  { State.reset with
    seq := s.seq
    freeN := s.freeN
    stepN := s.stepN
    lag := s.lag
    pkg := s.pkg
    agenda := rebase s.tick 0 s.agenda
    host := { HostSt.reset with egress := s.host.egress, msix := s.host.msix, completions := s.host.completions }
    link := { LinkSt.reset with sent := s.link.sent, wire := s.link.wire, inbox := s.link.inbox }
    pow := { PowerSt.reset with disabled := s.pow.disabled } }
/-- The key store that step 3 loads (R338, R350): at most 16 public keys. -/
def bootKeys (b : Boot) : NMap PubKey := (b.keys.filter fun k => decide (k.1 < 16)).foldl (fun m k => NMap.put m k.1 k.2) []
/-- The key slots of the boot configuration that step 7 sets (R348, R350), each with the number of the load. -/
def bootSlots (b : Boot) (load : Nat) : NMap Nat := (b.slots.filter fun n => decide (0 < n ∧ n < 64)).foldl (fun m n => NMap.put m n load) []
/-- The boot sequence (R350): after a failure of steps 2 to 4 the device is in the recovery state, and nothing of the later steps is done. %tick counts from the end of step 1 (R357); step 8 is done when the time of the boot has passed, at most 800 ms. DEDUCED (log 101): what steps 2 to 7 set stands from the start, since nothing reads it before step 8. -/
def State.boot (s : State) (b : Boot) : State :=
  let ports : NMap Port := ((List.range 16).filter fun n => b.lanes.getD n 0 != 0).map fun n => (n, { Port.reset with up := true, lanes := b.lanes.getD n 0 })
  { s.blank with
    tick := 0
    dieLocal := !b.failed && b.dieLocal
    trust := { Trust.reset with keys := if b.failed then [] else bootKeys b, slots := if b.failed then [] else bootSlots b s.stepN, published := b.failed, step8 := if b.failed then none else some (min b.ticks 800000000), recovery := b.failed }
    host := { (s.blank).host with cxl := b.cxl }
    link := { (s.blank).link with ports := if b.failed then [] else ports } }
/-- A package reset (R350): the memory keeps its bytes, whose keys are gone (log 40). -/
def State.packageReset (s : State) (b : Boot) : State :=
  { s.boot b with mem := s.mem, poisoned := s.poisoned, tagBad := (s.tagBad ++ s.slotLines.keys).eraseDups, slotLines := s.slotLines }
/-- POWER_GOOD (R350). -/
def execPowerGood (b : Boot) (s : State) : Res := .next (if s.pow.state = .off then s.boot b else s)
/-- MGMT_PACKAGE_RESET (R359). -/
def execMgmtPackageReset (b : Boot) (s : State) : Res := .next (if s.pow.state = .off then s else s.packageReset b)
/-- POWER_REMOVED (R354): everything is lost. -/
def execPowerRemoved (s : State) : Res :=
  .next { s.blank with pow := { (s.blank).pow with state := .off }, host := { (s.blank).host with linkUp := false }, trust := { Trust.reset with published := false } }

/-! Power states (R354) -/

/-- The scratchpads lose their contents (R354). -/
def Core.dropPads (k : Core) : Core := { k with spW := [], spA := [], spC := [] }
/-- D3HOT_ENTRY (R354): only with no launch unretired. -/
def execD3hotEntry (s : State) : Res :=
  .next (if s.pow.state = .run && s.launches.isEmpty then { s with pow := { s.pow with state := .d3hot } } else s)
/-- D3HOT_EXIT (R354): the scratchpads read as data 0, generation 0. -/
def execD3hotExit (s : State) : Res :=
  .next <|
    if s.pow.state = .d3hot then
      { s with cores := s.cores.map (fun (x : Nat × Core) => (x.1, x.2.dropPads)), pow := { s.pow with state := .run } }
    else s
/-- STAND_GATE (R354): a stand without a placed grove for 50 µs. -/
def execStandGate (stand : Nat) (s : State) : Res :=
  .next <|
    let busy := (List.range 8).any fun i => !(s.core (8 * stand + i)).groves.isEmpty
    if s.pow.state = .run && decide (stand < 80) && !busy && decide (s.pow.idle.getD stand 0 + 50000 ≤ s.tick) && !(s.pow.gated.contains stand) then
      { s with pow := { s.pow with gated := s.pow.gated ++ [stand] } }
    else s

/-! The clock (R352, R353, R356) -/

/-- The core clock falls by 100 MHz, down to 900. -/
def State.clockDown (s : State) : State := { s with pow := { s.pow with mhz := max 900 (s.pow.mhz - 100), below := none } }
/-- The package limit in W. -/
def State.wattLimit (s : State) : Nat := min 3000 (fld s.pow.pwrlim 11 0)
/-- POWER_SAMPLE (R353): core-rail current in A, limit 6,000 (R352), and package power in W. -/
def execPowerSample (amps watts : Nat) (s : State) : Res :=
  .next <|
    let s := { s with pow := { s.pow with amps := amps, watts := watts } }
    if decide (6000 < amps) || decide (s.wattLimit < watts) then s.clockDown
    else if decide (100 * amps < 95 * 6000) && decide (100 * watts < 95 * s.wattLimit) then
      { s with pow := { s.pow with below := some (s.pow.below.getD s.tick) } }
    else { s with pow := { s.pow with below := none } }
/-- A die is above 100 °C (R356). -/
def State.hot (s : State) : Bool := s.pow.tj.any fun x => decide (400 < x.2)
/-- CLOCK_RAISE (R353, R356): after 200 µs below 95% of both limits, with no die above 100 °C. -/
def execClockRaise (s : State) : Res :=
  .next <|
    if s.pow.below.elim false (fun t => decide (t + 200000 ≤ s.tick)) && !s.hot then
      { s with pow := { s.pow with mhz := min 1800 (s.pow.mhz + 100), below := some s.tick } }
    else s

/-! Temperature (R355, R356) -/

/-- The effect of a report on %lcmax (R355): at 2 a report above 85 °C; at 1 the eleventh report of a run at or below 80 °C. -/
def PowerSt.report (p : PowerSt) (tick die tj : Nat) : PowerSt :=
  let p := { p with tj := p.tj.put die tj, tjMax := p.tjMax.put die (max tj (p.tjMax.getD die 0)) }
  if p.lcmax.getD die 2 == 2 then (if 340 < tj then { p with lcmax := p.lcmax.put die 1, cool := p.cool.del die } else p)
  else if 320 < tj then { p with cool := p.cool.del die }
  else
    let from_ := p.cool.getD die tick
    if from_ + 1000000 ≤ tick then { p with lcmax := p.lcmax.put die 2, cool := p.cool.del die } else { p with cool := p.cool.put die from_ }
/-- THERMAL_REPORT (R355, R356): Tj of a die in 0.25 °C, at the latest %tick that is a multiple of 100,000 ns. -/
def execThermalReport (die tj : Nat) (s : State) : Res :=
  .next <|
    if 4 ≤ die then s
    else
      let s := { s with pow := s.pow.report (s.tick / 100000 * 100000) die tj }
      if 400 < tj then s.clockDown else s
/-- THERMAL_TRIP (R356): above 105 °C every ring gets its record and the package is reset. -/
def execThermalTrip (die tj : Nat) (b : Boot) (s : State) : Res :=
  .next <|
    if 4 ≤ die || tj ≤ 420 || s.pow.state = .off then s
    else ((List.range 16).foldl (fun s p => s.log p (sysRec 3 5 0x200B 0x8000 p 0 0 die tj)) s).packageReset b

/-! Telemetry (R359) -/

/-- What a refresh of the telemetry takes (R359); the temperature of a stack is the part's own. -/
def State.readings (s : State) : Telemetry :=
  { tj := s.pow.tj, tjMax := s.pow.tjMax, lcmax := (List.range 4).map fun d => s.pow.lcmax.getD d 2, amps := s.pow.amps, watts := s.pow.watts,
    clock := s.pow.mhz / 100, stackTemps := (List.range 16).map fun n => Config.answer 10 (n + 16 * s.stepN), ecnt := s.link.ecnt, state := s.pow.state,
    recovery := s.trust.recovery }
/-- The telemetry is refreshed every 1 ms (R359). -/
def State.telemetry (s : State) (tick : Nat) : State :=
  { s with pow := { s.pow with telem := if s.tick / 1000000 = tick / 1000000 then s.pow.telem else some s.readings } }

/-! The time base (R357, R358) -/

/-- TIMING_MESSAGE (R357, R358): the offset, in ns, to the master. -/
def execTimingMessage (corr : Int) (s : State) : Res := .next (s.timed corr)
/-- TIME_SYNC_LOST (R358): no timing message for 10 ms. DEDUCED (log 101): the master, with which the others agree, never loses it. -/
def execTimeSyncLost (s : State) : Res :=
  .next <|
    if s.pow.synced && s.timeMaster != s.pkg && decide (s.pow.lastSync + 10000000 ≤ s.tick) then
      { s with pow := { s.pow with synced := false } }.log 0 (sysRec 3 2 0x200C 0x8000 0 0 0 s.pow.lastSync 0)
    else s
/-- TIME_BASE_EXCHANGE (R357): every 100 µs, a timing message with the package's time to the master on the system class (R331). -/
def execTimeBaseExchange (master : Nat) (s : State) : Res :=
  .next <|
    if master == s.pkg || master != s.timeMaster || s.pow.lastExch.elim false (fun t => decide (s.tick < t + 100000)) then s
    else { s with pow := { s.pow with lastExch := some s.tick } }.post master 3 1 0 10 0 (leBytes 8 s.tick)

end Sys2Proof.Machine
end

