-- ==== Sys2Proof/Machine/Mailbox.lean ====
section
/-! DEFINITION. Requests through the mailbox of the root of trust (R346, R348, R351, R426, R433, R434, R470, R471). -/
namespace Sys2Proof.Machine

/-- The n bytes of the mailbox area at an offset, as a number. -/
def State.mb (s : State) (off n : Nat) : Nat := getLe s.trust.mailbox off n
/-- A request waits for the root of trust (R351). -/
def State.asked (s : State) : Bool := s.trust.mbdoor == 1 && !s.trust.recovery
/-- The root of trust answers (R351): 2 done or 3 refused, with bytes at an offset of the area. -/
def State.reply (s : State) (door : DWord) (off : Nat) (bs : List Byte) : State :=
  { s with trust := { s.trust with mbdoor := door, mailbox := if bs.isEmpty then s.trust.mailbox else putBytes (padTo 4088 s.trust.mailbox) off bs } }
/-- The bits of a region descriptor that hold a value (R346). -/
def descMask : BitVec 256 := BitVec.ofNat 256 (2 ^ 128 - 2 ^ 58 + 0xFC0F)
/-- MAILBOX_ACCESS_TABLE (R346): set one of the eight descriptors of a master at a target: 0 memory controllers, 1 device registers, 2 link egress, 3 host egress. -/
def execMailboxAccessTable (target master i : Nat) (desc : BitVec 256) (s : State) : Res :=
  .next <|
    if !s.asked then s
    else if 4 ≤ target || 256 ≤ master || 8 ≤ i then s.reply 3 0 []
    else
      let key := 256 * target + master
      let ds := s.trust.access.getD key []
      let ds := (ds ++ List.replicate (8 - ds.length) 0).set i (desc &&& descMask)
      { s with trust := { s.trust with access := s.trust.access.put key ds } }.reply 2 0 []
/-- MAILBOX_KEY_LOAD (R348, R426): a new key for a slot; lines written under the former one fail their tag. -/
def execMailboxKeyLoad (slot : Nat) (s : State) : Res :=
  .next <|
    if !s.asked then s
    else if slot == 0 || 64 ≤ slot then s.reply 3 0 []
    else
      let old := (s.slotLines.filter fun x => x.2 % 64 == slot).map Prod.fst
      { s with
        tagBad := (s.tagBad ++ old).eraseDups
        trust := { s.trust with slots := s.trust.slots.put slot s.stepN } }.reply 2 0 []

/-! Forensic access (R433, R434) -/

/-- FORENSIC_CHALLENGE (R433): 64 random bytes, a free value. -/
def execForensicChallenge (s : State) : Res :=
  .next <|
    if !s.asked || s.mb 0 4 != 0x50 then s
    else
      let (v, s) := s.takeFree
      let c := v % 2 ^ 512
      { s with trust := { s.trust with challenge := some c } }.reply 2 0x10 (leBytes 64 c)
/-- The record of a changed forensic state (R417). -/
def State.forensicRec (s : State) (p what keyid : Nat) : State := s.log p (sysRec 3 0 0x100D 0x8000 p 0 0 what keyid)
/-- A key of the key store has this KEYID (R338). -/
def State.knownKey (s : State) (keyid : Nat) : Bool := s.trust.keys.any fun k => k.2.keyid == keyid
/-- The granules of a grove's windows in a core that hold no current generation of a live allocation become data 0, GEN 0 (R434). -/
def Core.clearStale (k : Core) (key : Nat) (g : Grove) (b : Buf) : Core :=
  let w := g.win b
  let keep := fun (n : Nat) (q : Granule) =>
    k.allocs.any fun a => a.buf == b && a.grove == key && a.gen == q.gen && decide (w.1 + a.off ≤ 32 * n ∧ 32 * n < w.1 + a.off + a.size)
  k.setSp b ((k.sp b).filter fun (x : Nat × Granule) => !decide (w.1 ≤ 32 * x.1 ∧ 32 * x.1 < w.1 + w.2) || keep x.1 x.2)
/-- The clearing that an unlock forces on every core with a grove of the partition (R434). -/
def State.clearPart (s : State) (p : Nat) : State :=
  let gs := s.groves.filter fun x => x.2.placed && (s.launches.find? x.2.launch).elim false fun la => la.part == p
  gs.foldl (fun s x => [Buf.w, Buf.a, Buf.c].foldl (fun s b => s.modCore x.2.core fun k => k.clearStale x.1 x.2 b) s) s
/-- FORENSIC_UNLOCK (R433, R434): a challenge is good for one request. -/
def execForensicUnlock (s : State) : Res :=
  .next <|
    if !s.asked || s.mb 0 4 != 0x51 then s
    else
      let keyid := s.mb 8 4
      let p := s.mb 4 2
      let area := padTo 4088 s.trust.mailbox
      let ok := s.trust.challenge == some (s.mb 0x10 64) && s.knownKey keyid && decide (p < 16) && s.mb 6 2 == 0 && s.mb 0xC 4 == 0 &&
        s.sigOk (fun _ => true) keyid (area.take 0x50) ((area.drop 0x50).take 512)
      let s := { s with trust := { s.trust with challenge := none } }
      if ok then (((s.clearPart p).modPart p fun q => { q with forensic := true }).forensicRec p 1 keyid).reply 2 0 [] else s.reply 3 0 []
/-- FORENSIC_RELOCK (R433, R434). -/
def execForensicRelock (s : State) : Res :=
  .next <|
    if !s.asked || s.mb 0 4 != 0x52 then s
    else
      let keyid := s.mb 8 4
      let p := s.mb 4 2
      if s.knownKey keyid && decide (p < 16) && s.mb 6 2 == 0 && s.mb 0xC 4 == 0 then
        ((s.modPart p fun q => { q with forensic := false }).forensicRec p 2 keyid).reply 2 0 []
      else s.reply 3 0 []

/-! In-field test (R470, R471) -/

/-- The enabled cores of a stand. -/
def State.standCores (s : State) (stand : Nat) : List Nat := ((List.range 8).map (8 * stand + ·)).filter fun c => !(s.pow.disabled.contains c)
/-- The reason that refuses a test package (R454, R470): 1 header, 2 unknown KEYID, 3 signature, 4 the stand. -/
def State.iftWhy (s : State) (stand va : Nat) : Option Nat :=
  match s.vaRead noCore 0 0x30 4 va 128 with
  | .error _ => some 1
  | .ok hdr =>
    let size := getLe hdr 8 8
    let off := getLe hdr 0x40 4
    if getLe hdr 0 4 != 0x5453565A || getLe hdr 4 2 != 1 || off % 8 != 0 || off + 520 != size || decide (off < 0x44) || decide (2 ^ 48 < va + size) then some 1
    else
      match s.vaRead noCore 0 0x30 (lineFuel size) va size with
      | .error _ => some 1
      | .ok b =>
        let keyid := getLe b off 4
        if !s.knownKey keyid then some 2
        else if s.blockBad (fun _ => true) b then some 3
        else if 80 ≤ stand || (s.standCores stand).isEmpty || s.pow.outOfService.contains stand then some 4
        else none
/-- IFT_REQUEST (R470, R471 steps 1 and 2): an accepted package takes the stand out of service and evicts its groves. -/
def execIftRequest (s : State) : Res :=
  .next <|
    if !s.asked || s.mb 0 4 != 0x60 || !s.pow.outOfService.isEmpty then s
    else
      let stand := s.mb 4 2
      s.whenRead noCore 0x30 (if s.mb 6 2 != 0 then [] else s.imageRanges 0 (s.mb 8 8)) fun s =>
      match (if s.mb 6 2 != 0 then some 1 else s.iftWhy stand (s.mb 8 8)) with
      | some w => (s.log 0 (sysRec 3 2 0x4009 0x8000 0 0 0 w 0)).reply 3 0 []
      | none =>
        let s := { s with pow := { s.pow with outOfService := s.pow.outOfService ++ [stand] } }
        let gs := s.groves.filter fun (x : Nat × Grove) => x.2.placed && x.2.evicting.isNone && standOf x.2.core == stand
        ((gs.flatMap fun x => s.pairOf x.1).eraseDups).foldl (fun s k => s.evictBegin 0 k) s
/-- IFT_SCAN_DONE (R471 steps 3 to 5): each failing core with its first failing vector; the stand returns with what is left. -/
def execIftScanDone (stand : Nat) (fails : List (Nat × Nat)) (s : State) : Res :=
  .next <|
    let cores := s.standCores stand
    if !s.asked || !(s.pow.outOfService.contains stand) || cores.any (fun c => !(s.core c).groves.isEmpty) then s
    else
      let bad := fails.filter fun f => cores.contains f.1
      let s := bad.foldl (fun s f => s.log 0 (sysRec 3 1 0x4008 0x9000 0 0 0 f.1 f.2)) s
      let tested := maskOf (cores.map (· - 8 * stand))
      let s := s.log 0 (sysRec 3 0 0x400A 0x9000 0 0 0 stand tested)
      let passed := maskOf ((cores.filter fun c => !(bad.any fun f => f.1 == c)).map (· - 8 * stand))
      { s with pow := { s.pow with
          disabled := s.pow.disabled ++ (bad.map Prod.fst).eraseDups
          outOfService := s.pow.outOfService.filter (· != stand) } }.reply 2 0x10 (leBytes 8 passed)

end Sys2Proof.Machine
end

