-- ==== Sys2Proof/Machine/Matrix.lean ====
section
/-! DEFINITION. The matrix engine at work (R102 to R105, R290 to R298, R423, R438, R439). -/
namespace Sys2Proof.Machine

/-- K of a latched format, with k planes (R13). -/
def kOf (fmt kpl : Nat) : Nat :=
  if fmt == 0 then 16 else if fmt == 1 || fmt == 2 then 64 else if fmt == 3 then 128
  else if kpl == 1 then 512 else if kpl == 2 then 256 else if kpl ≤ 4 then 128 else 64
/-- The bytes of a K-row that a latch reads (R81, R88, R291). -/
def wBytes (fmt kpl : Nat) : Nat := if fmt == 0 then 256 else if fmt == 3 then 64 else if fmt == 4 then 16 * kpl else 128
/-- The bits of an activation element (R82). -/
def aBits (afmt : Nat) : Nat := if afmt == 2 then 16 else if afmt == 6 then 4 else 8
/-- A launch that a matrix operation acts for. -/
def State.matLaunch (s : State) (o : MatOp) : Nat := (s.groves.find? o.grove).elim 0 fun g => g.launch

/-! Reads and writes of scratchpads, granule by granule (R127, R128, R296) -/

/-- A range of a grove's window by granules, or the first fault with its granule's offset. -/
def State.matRead (s : State) (core grove : Nat) (b : Buf) : Nat → Nat → Nat → Except Flt (List Byte)
  | 0, _, _ => .ok []
  | fuel + 1, off, len =>
    if len == 0 then .ok []
    else
      let n := min len (32 - off % 32)
      match s.spCheck core grove b off n 1 true with
      | some f => .error f
      | none =>
        match State.matRead s core grove b fuel (off + n) (len - n) with
        | .ok t => .ok (s.spRead core grove b off n ++ t)
        | .error f => .error f
/-- Every granule of a range may be written (R296, R297). -/
def State.matWritable (s : State) (core grove : Nat) (b : Buf) (off len : Nat) : Option Flt :=
  (granules off len).findSome? fun n => s.spCheck core grove b (32 * n) 32 32 false
/-- Read with the fuel a length needs. -/
def State.matRow (s : State) (core grove : Nat) (b : Buf) (off len : Nat) : Except Flt (List Byte) := s.matRead core grove b (len / 32 + 2) off len
/-- Read several rows; the first that fails decides. -/
def rowsOf (f : Nat → Except Flt (List Byte)) : List Nat → Except Flt (List (List Byte))
  | [] => .ok []
  | i :: t =>
    match f i with
    | .error e => .error e
    | .ok r =>
      match rowsOf f t with
      | .ok rs => .ok (r :: rs)
      | .error e => .error e

/-! Elements (R81, R87, R88, R102 to R104) -/

/-- The i-th element of a packed row (R81). -/
def rowElem (bits : Nat) (row : List Byte) (i : Nat) : Nat :=
  if bits == 4 then (row.getD (i / 2) 0).toNat / 16 ^ (i % 2) % 16 else getLe row (bits / 8 * i) (bits / 8)
/-- The INT8 code whose first k planes a plane block holds for element e (R88). -/
def planeCode (k : Nat) (row : List Byte) (e : Nat) : Nat :=
  (List.range k).foldl (fun a j => a + (bitN (row.getD (16 * j + e / 8) 0).toNat (e % 8)).toNat * 2 ^ (7 - j)) 0
/-- An integer as an exact value. -/
def intV (x : Int) : FVal := .fin (decide (x < 0)) x.natAbs 0
/-- Weight (i, n) of a slot as an integer (R87). -/
def WeightSlot.int (w : WeightSlot) (i n : Nat) : Int := planeVal w.kpl w.mid (planeCode w.kpl (w.rows.getD i []) n)
/-- Weight (i, n) of a slot as an exact value. -/
def WeightSlot.val (w : WeightSlot) (i n : Nat) : FVal :=
  let row := w.rows.getD i []
  if w.fmt == 0 then bf16.decode (rowElem 16 row n)
  else if w.fmt == 1 then e4m3.decode (rowElem 8 row n)
  else if w.fmt == 2 then e5m2.decode (rowElem 8 row n)
  else if w.fmt == 3 then e2m1.decode (rowElem 4 row n)
  else intV (w.int i n)
/-- The scale sw(b, n), 1 without scales (R291). -/
def WeightSlot.scale (w : WeightSlot) (b n : Nat) : FVal := if w.scales.isEmpty then .fin false 1 0 else decodeE8M0 (w.scales.getD (128 * b + n) 0).toNat
/-- Activation element i of a row as an exact value (R82). -/
def actVal (afmt : Nat) (row : List Byte) (i : Nat) : FVal :=
  let c := rowElem (aBits afmt) row i
  if afmt == 2 then bf16.decode c else if afmt == 4 then e4m3.decode c else if afmt == 5 then e5m2.decode c else if afmt == 6 then e2m1.decode c else intV (sOf 8 c)
/-- Element n of T (R102): blocks of 32 along K, one of 16 for BF16. -/
def dotT (w : WeightSlot) (afmt : Nat) (row scales : List Byte) (n : Nat) : Word :=
  let K := kOf w.fmt w.kpl
  let blk := min K 32
  let part := fun (b : Nat) =>
    let sa := if scales.isEmpty then FVal.fin false 1 0 else decodeE8M0 (scales.getD b 0).toNat
    (sa.mul (w.scale b n)).mul (sumV ((List.range blk).map fun i => (actVal afmt row (blk * b + i)).mul (w.val (blk * b + i) n)))
  roundF32 .rn (sumV ((List.range (K / blk)).map part))
/-- A new C element in FP32 (R102). -/
def accF (c t : Word) : Word := roundF32 .rn ((f32 c).add .rn (f32 t))
/-- The exact integer sum of R103. -/
def dotI (w : WeightSlot) (row : List Byte) (n : Nat) : Int :=
  (List.range (kOf w.fmt w.kpl)).foldl (fun a i => a + sOf 8 (rowElem 8 row i) * w.int i n) 0
/-- A new row of C from the old one: its bytes, and whether an INT32 element overflowed (R102 to R104). -/
def cRow (w : WeightSlot) (afmt : Nat) (row scales old : List Byte) : List Byte × Bool :=
  let c := fun (n : Nat) => getLe old (4 * n) 4
  if w.fmt == 4 && afmt == 8 then
    let xs := (List.range 128).map fun n => sOf 32 (c n) + dotI w row n
    (xs.flatMap fun x => leBytes 4 (wrapTo 32 x), xs.any fun x => decide (x < -(2 ^ 31) ∨ 2 ^ 31 - 1 < x))
  else ((List.range 128).flatMap fun n => leBytes 4 (accF (BitVec.ofNat 32 (c n)) (dotT w afmt row scales n)).toNat, false)
/-- The combinations of R296. -/
def comboOk (wfmt afmt : Nat) (asc : Bool) : Bool :=
  match wfmt with
  | 0 => afmt == 2 && !asc
  | 1 | 2 => afmt == 4 || afmt == 5
  | 3 => afmt == 6 || afmt == 4 || afmt == 5
  | _ => (afmt == 8 && !asc) || (afmt == 4 && asc)

/-! The queue (R298) -/

/-- The slot an operation names. -/
def MatOp.slot (o : MatOp) : Nat := getLe o.block 0 1
/-- The handle an operation names, if it is a run or a zeroing. -/
def MatOp.handle (o : MatOp) : Nat := if o.kind = .lw then 0 else getLe o.block 6 2
/-- The tile a run or zeroing works on, released or not. -/
def Core.tileOf (k : Core) (o : MatOp) : Option Tile := k.tiles.find? fun t => t.grove == o.grove && t.num == o.handle
/-- The operations of the queue older than one. -/
def Core.older (k : Core) (o : MatOp) : List MatOp := k.matQ.takeWhile fun p => p.id != o.id
/-- An operation is ready (R298). -/
def Core.matReady (k : Core) (o : MatOp) : Bool :=
  match o.kind with
  | .lw => !((k.older o).any fun p => p.kind == .run && p.slot == o.slot)
  | .run => (k.tileOf o).elim false (fun t => t.version == getLe o.block 8 2) && !((k.older o).any fun p => p.kind == .lw && p.slot == o.slot)
  | .zero => (k.tileOf o).elim false fun t => t.version == getLe o.block 8 2
/-- The operation at work on the latch path (true) or the array path. -/
def Core.atWork (k : Core) (latch : Bool) : Option MatOp := k.matQ.find? fun o => o.started.isSome && (o.kind == .lw) == latch
/-- A free path takes the oldest ready operation of its kind (R298) that follows nothing still in flight (R159). -/
def State.matStart (s : State) (core : Nat) (latch : Bool) : State :=
  let k := s.core core
  match k.atWork latch, k.matQ.find? fun o => o.started.isNone && (o.kind == .lw) == latch && k.matReady o && !(o.after.any s.flying) && !s.matTaken o.grove with
  | none, some o => s.modCore core fun k => { k with matQ := k.matQ.map fun p => if p.id = o.id then { p with started := some s.tick } else p }
  | _, _ => s
/-- MXLW_START (R298). -/
def execMxlwStart (core : Nat) (s : State) : Res := .next (s.matStart core true)
/-- MXRUN_START (R298): the array path takes the oldest ready run or zeroing. -/
def execMxrunStart (core : Nat) (s : State) : Res := .next (s.matStart core false)

/-! Completion (R281, R292, R296, R297) -/

/-- A record of the matrix engine about an operation (R435). -/
def State.matRec (s : State) (core : Nat) (o : MatOp) (cls sev : Nat) (f : Flt) : FaultRec :=
  let launch := s.matLaunch o
  { (sysRec cls sev f.code (0x2000 + core) ((s.launches.find? launch).elim 0 fun la => la.part) 0 0 0 0) with
    flt := f, launch := launch, grove := (s.groves.find? o.grove).elim 0 fun g => g.idx, pc := o.pc.toNat,
    twint := (s.groves.find? o.grove).elim false Grove.trailing }
/-- A fault with two details. -/
def detail (code d0 d1 : Nat) : Flt := { code := code, akind := 0, addr := 0, gen := 0, d0 := d0, d1 := d1 }
/-- An operation leaves the queue and completes; a released handle that nothing names is freed (R281, R293, R298). -/
def State.matEnd (s : State) (core : Nat) (o : MatOp) : State :=
  let s := s.modCore core fun k =>
    let q := k.matQ.filter fun p => p.id != o.id
    { k with
      latchIdle := if o.started.isSome && o.kind == .lw then s.tick else k.latchIdle
      arrayIdle := if o.started.isSome && o.kind != .lw then s.tick else k.arrayIdle
      matQ := q
      tiles := k.tiles.filter fun t => !(t.released && t.grove == o.grove && t.num == o.handle && o.kind != .lw && !(q.any fun p => p.names t.grove t.num)) }
  s.completeAll core [(o.strand, o.id)]
/-- A staged node whose engine met an uncorrectable error starts again (R469). -/
def State.matPoison (s : State) (o : MatOp) (f : Flt) : State :=
  let launch := s.matLaunch o
  if f.code = 0x1006 && (s.launches.find? launch).elim false (fun la => la.isStaged) then s.restage launch 0x100C else s
/-- The rows and scales that a latch reads (R291, R292). -/
def State.latchRead (s : State) (core : Nat) (o : MatOp) : Except Flt (List (List Byte) × List Byte) :=
  let b := o.block
  let fmt := getLe b 1 1
  let kpl := getLe b 2 1
  let K := kOf fmt kpl
  match rowsOf (fun i => s.matRow core o.grove .w (getLe b 4 4 + i * getLe b 8 4) (wBytes fmt kpl)) (List.range K) with
  | .error f => .error f
  | .ok rows =>
    if bitN (getLe b 3 1) 1 then
      match s.matRow core o.grove .w (getLe b 0xC 4) (128 * (K / 32)) with
      | .error f => .error f
      | .ok sc => .ok (rows, sc)
    else .ok (rows, [])
/-- A latch completes (R290, R292, R423, R438). -/
def State.latchDone (s : State) (core : Nat) (o : MatOp) : State :=
  let b := o.block
  match s.latchRead core o with
  | .ok (rows, scales) =>
    let slot : WeightSlot := { grove := o.grove, fmt := getLe b 1 1, kpl := getLe b 2 1, mid := bitN (getLe b 3 1) 0, rows := rows, scales := scales }
    (s.modCore core fun k => { k with weights := k.weights.put o.slot slot }).matEnd core o
  | .error f =>
    let s := s.modCore core fun k => { k with weights := k.weights.del o.slot }
    let s := s.logRec (s.matRec core o 2 2 (detail 0x3003 (3 + 256 * o.slot) 0xFF))
    let s := if f.code = 0x1006 then s.logRec (s.matRec core o 2 2 { (engFault .pois f.akind f.addr) with d1 := 2 ^ 32 }) else s
    (s.matEnd core o).matPoison o f
/-- MXLW_COMPLETE (R292). -/
def execMxlwComplete (core : Nat) (s : State) : Res :=
  .next <|
    match (s.core core).atWork true with
    | some o => s.latchDone core o
    | none => s
/-- Change the tile of an operation. -/
def State.modTile (s : State) (core : Nat) (o : MatOp) (f : Tile → Tile) : State :=
  s.modCore core fun k => { k with tiles := k.tiles.map fun t => if t.grove = o.grove ∧ t.num = o.handle then f t else t }
/-- The version advances and its event fires (R239, R296). -/
def State.bumpTile (s : State) (core : Nat) (o : MatOp) : State :=
  ((s.modTile core o fun t => { t with version := (t.version + 1) % 65536 }).matEnd core o).fireTile core o.grove o.handle
/-- ACCE with its record (R294, R296, R423, R438). -/
def State.acce (s : State) (core : Nat) (o : MatOp) (f : Flt) : State :=
  let s := s.modTile core o fun t => { t with status := t.status ||| 2 }
  s.logRec (s.matRec core o 2 2 { code := 0x100C, akind := f.akind, addr := f.addr, gen := 0, d0 := 2 ^ 17, d1 := o.handle + 2 ^ 32 })
/-- One activation row and its scales (R295, R296). -/
def State.actRow (s : State) (core : Nat) (o : MatOp) (w : WeightSlot) (m : Nat) : Except Flt (List Byte × List Byte) :=
  let b := o.block
  let K := kOf w.fmt w.kpl
  match s.matRow core o.grove .a (getLe b 0xC 4 + m * getLe b 0x10 4) (K * aBits (getLe b 1 1) / 8) with
  | .error f => .error f
  | .ok row =>
    if getLe b 2 1 == 1 then
      match s.matRow core o.grove .a (getLe b 0x14 4 + m * getLe b 0x18 4) (K / 32) with
      | .error f => .error f
      | .ok sc => .ok (row, sc)
    else .ok (row, [])
/-- The rows of a run from row m on (R296); it stops at the first that cannot be read or written. -/
def State.runRows (s : State) (core : Nat) (o : MatOp) (w : WeightSlot) (coff : Nat) : Nat → Nat → State × Option Flt
  | 0, _ => (s, none)
  | k + 1, m =>
    let off := coff + 512 * (getLe o.block 0x1C 4 + m)
    match s.actRow core o w m, s.matRow core o.grove .c off 512, s.matWritable core o.grove .c off 512 with
    | .error f, _, _ | _, .error f, _ | _, _, some f => (s.acce core o f, some f)
    | .ok (row, sc), .ok old, none =>
      let r := cRow w (getLe o.block 1 1) row sc old
      let s := s.spWrite core o.grove .c off r.1
      let s := if r.2 then s.modTile core o fun t => { t with status := t.status ||| 1 } else s
      State.runRows s core o w coff k (m + 1)
/-- A run completes (R296, R438): performed, or refused with FMTE; the version advances either way. -/
def State.runDone (s : State) (core : Nat) (o : MatOp) : State :=
  let slot := ((s.core core).weights.find? o.slot).bind fun w => if w.grove == o.grove then some w else none
  let afmt := getLe o.block 1 1
  let refused := fun (why wfmt : Nat) =>
    let s := s.modTile core o fun t => { t with status := t.status ||| 4 }
    (s.logRec (s.matRec core o 2 2 (detail 0x3003 (why + 256 * o.slot + 65536 * o.handle) (wfmt + 256 * afmt)))).bumpTile core o
  match slot, (s.core core).tileOf o with
  | none, _ => refused 1 0xFF
  | some w, some t =>
    if comboOk w.fmt afmt (getLe o.block 2 1 == 1) then
      let (s, f) := s.runRows core o w t.coff (getLe o.block 4 2) 0
      let s := s.bumpTile core o
      match f with
      | some f => s.matPoison o f
      | none => s
    else refused 2 w.fmt
  | some _, none => s.matEnd core o
/-- MXRUN_COMPLETE (R296). -/
def execMxrunComplete (core : Nat) (s : State) : Res :=
  .next <|
    match (s.core core).atWork false with
    | some o => if o.kind = .run then s.runDone core o else s
    | none => s
/-- The rows of a zeroing (R297). -/
def State.zeroRows (s : State) (core : Nat) (o : MatOp) (coff : Nat) : Nat → Nat → State
  | 0, _ => s
  | k + 1, m =>
    let off := coff + 512 * (getLe o.block 0x1C 4 + m)
    match s.matWritable core o.grove .c off 512 with
    | some f => s.acce core o f
    | none => State.zeroRows (s.spWrite core o.grove .c off (List.replicate 512 0)) core o coff k (m + 1)
/-- MXZERO_COMPLETE (R297). -/
def execMxzeroComplete (core : Nat) (s : State) : Res :=
  .next <|
    match (s.core core).atWork false with
    | some o =>
      match o.kind, (s.core core).tileOf o with
      | .zero, some t =>
        (((s.modTile core o fun t => { t with status := 0 }).zeroRows core o t.coff (getLe o.block 4 2) 0)).bumpTile core o
      | .zero, none => s.matEnd core o
      | _, _ => s
    | none => s

/-! Stalls (R439) -/

/-- An operation of a grove that is evicted, frozen or held by a debug halt does not count as stalled. -/
def State.stallExempt (s : State) (o : MatOp) : Bool :=
  let launch := s.matLaunch o
  s.frozenL launch || ((s.groves.find? o.grove).elim false fun g => !g.placed || g.evicting.isSome) || (s.launches.find? launch).elim true fun la =>
    !la.held.isEmpty || (s.part la.part).halted.any fun h => h.2.cohort.lanes.any fun l => (s.strands.find? l.2.strand).elim false fun t => t.grove == o.grove
/-- Since when an operation of the queue has waited while its path is idle (R439). -/
def Core.waitsSince (k : Core) (o : MatOp) : Nat := max o.issued (if o.kind = .lw then k.latchIdle else k.arrayIdle)
/-- An operation of the queue that has not become ready for a time while its path is idle. -/
def State.stalled (s : State) (core id ns : Nat) : Option MatOp :=
  let k := s.core core
  (k.matQ.find? fun o => o.id == id).bind fun o =>
    if o.started.isNone && !k.matReady o && (k.atWork (o.kind == .lw)).isNone && !s.stallExempt o && decide (k.waitsSince o + ns ≤ s.tick) then some o else none
/-- The details of 0x3001 and 0x3002. -/
def State.stallRec (s : State) (core : Nat) (o : MatOp) (code : Nat) : Flt :=
  detail code (o.handle + 65536 * (if o.kind = .lw then 0 else getLe o.block 8 2) + 2 ^ 32 * ((s.core core).tileOf o).elim 0 fun t => t.version) ((s.tick - (s.core core).waitsSince o) / 1000)
/-- MATRIX_STALL (R439): one record per handle in a slice. -/
def execMatrixStall (core id : Nat) (s : State) : Res :=
  .next <|
    match s.stalled core id 1000000 with
    | none => s
    | some o =>
      if (s.core core).matQ.any fun p => p.grove == o.grove && (p.kind == .lw) == (o.kind == .lw) && p.handle == o.handle && p.reported then s
      else
        (s.logRec (s.matRec core o 2 0 (s.stallRec core o 0x3001))).modCore core fun k =>
          { k with matQ := k.matQ.map fun p => if p.id = o.id then { p with reported := true } else p }
/-- MATRIX_STALL_TERMINATE (R439): after 10 ms in which the grove issued no matrix operation. -/
def execMatrixStallTerminate (core id : Nat) (s : State) : Res :=
  .next <|
    match s.stalled core id 10000000 with
    | none => s
    | some o =>
      if (s.groves.find? o.grove).elim false fun g => decide (g.matAt + 10000000 ≤ s.tick) then
        s.terminate (s.matLaunch o) (s.matRec core o 2 3 (s.stallRec core o 0x3002))
      else s

end Sys2Proof.Machine
end

