-- ==== Sys2Proof/Machine/Memory.lean ====
section
/-! DEFINITION. Global memory instructions (R254 to R263): loads, stores, atomics, fences, prefetch. -/
namespace Sys2Proof.Machine

/-- A load of a lane (R254). -/
def State.loadOp (s : State) (x : Ctx) (l va pa : Nat) (leaf : DWord) (d : Nat) (size : Size) (sgn : Bool) (ord : Ord) (sc : Scope) (hint : Hint) : MemOp :=
  { s.newOp x l .load (some .ld) va pa leaf size.bytes with
    sgn := sgn, dst := d, ndst := size.regs, ord := ord, sc := sc, nl1 := hint == .nl1 }
/-- LD (R254, R258). -/
def planLd (g : Guard) (d a : Nat) (imm : Word) (size : Size) (sgn : Bool) (ord : Ord) (sc : Scope) (hint : Hint) : Plan :=
  { plain g 12 (opc .ld) (run d size.regs ++ [a, a + 1]) [a, a + 1] (fun s x ls =>
      s.gIssue x ls (x.co.gAddr a imm) size.bytes .read fun s l pa leaf => s.loadOp x l (x.co.gAddr a imm l) pa leaf d size sgn ord sc hint) with
    cls := some .ld
    check := fun s x _ l => s.gVerdict x (x.co.gAddr a imm l) size.bytes .read
    acc := seen (fun co l => co.gAddr a imm l) size.bytes true false fun _ _ => 0 }
/-- LD_S (R172, R254). -/
def planLdS (g : Guard) (d a off : Nat) : Plan := { planLd g d a (sImm off) .b32 false .plain .core .dflt with len := 4 }
/-- ST (R255, R258, R461). -/
def planSt (g : Guard) (d a : Nat) (imm : Word) (size : Size) (ord : Ord) (sc : Scope) (_hint : Hint) : Plan :=
  let srcs := run d size.regs ++ [a, a + 1]
  { plain g 12 (opc .st) srcs srcs (fun s x ls =>
      s.gIssue x ls (x.co.gAddr a imm) size.bytes .write fun s l pa leaf =>
        { s.newOp x l .store (some .st) (x.co.gAddr a imm l) pa leaf size.bytes with data := x.co.dataBytes d size.bytes l, ord := ord, sc := sc }) with
    cls := some .st
    check := fun s x en l => (s.gVerdict x (x.co.gAddr a imm l) size.bytes .write).and (s.slackCheck x en l size.bytes)
    acc := seen (fun co l => co.gAddr a imm l) size.bytes false true fun co l => leNat (co.dataBytes d size.bytes l) }
/-- ST_S (R172, R255). -/
def planStS (g : Guard) (d a off : Nat) : Plan := { planSt g d a (sImm off) .b32 .plain .core .dflt with len := 4 }

/-- A lane passes row 6 of R181 for a load: no register is pending, and its ld counter has room (R47). -/
def State.ldReady (s : State) (x : Ctx) (regs : List Nat) (l : Nat) : Bool :=
  (s.pendingFor (x.strand l) regs).isEmpty && ((s.strands.find? (x.strand l)).elim 0 fun t => t.count .ld) != 63
/-- The lowest lane of E that does not park under row 6: the lane whose address LDU and LDC use (R256, log 26). -/
def State.leadLane (s : State) (x : Ctx) (regs en : List Nat) : Nat := (en.find? fun l => s.ldReady x regs l).getD 0
/-- The address pair cannot be read in the lane whose address counts (R64, R393, R420): a poisoned word, or in a strict launch a stale one. -/
def State.pairBad (s : State) (x : Ctx) (a l : Nat) : Option Flt :=
  match (x.co.lanes.find? l).bind fun y => List.find? (fun q : Nat × Flt => [a, a + 1].contains q.1 && q.2.akind == 6) y.poison with
  | some (_, f) => some f
  | none => (if x.strict then [a, a + 1].find? x.co.stale else none).map fun r =>
    { code := 0x0005, akind := 6, addr := r, gen := (s.core x.core).foundGen x.co r, d0 := x.co.gen, d1 := 0 }
/-- The outcome of LDU and LDC for a lane (R256): only the lowest lane's address counts; on a miss every lane parks. -/
def State.leadVerdict (s : State) (x : Ctx) (regs en : List Nat) (l va size : Nat) : Verdict :=
  match s.gVerdict x va size .read with
  | .bad f => if l == s.leadLane x regs en then .bad f else .go
  | v => v
/-- One read for every lane listed (R256, R257). -/
def State.leadIssue (s : State) (x : Ctx) (ls : List Nat) (va d : Nat) (size : Size) (sgn : Bool) (ord : Ord) (sc : Scope) : State :=
  match ls with
  | [] => s
  | l :: t => s.gIssue x [l] (fun _ => va) size.bytes .read fun s l pa leaf =>
      { s.loadOp x l va pa leaf d size sgn ord sc .dflt with uni := true, sharers := t.map x.strand }
/-- LDU (R256): of its address pair only the lowest lane's words are read. -/
def planLdu (g : Guard) (d a : Nat) (imm : Word) (size : Size) (sgn : Bool) (ord : Ord) (sc : Scope) : Plan :=
  let regs := run d size.regs ++ [a, a + 1]
  { plain g 12 (opc .ldu) regs [] (fun s x ls => s.leadIssue x ls (x.co.gAddr a imm (ls.headD 0)) d size sgn ord sc) with
    cls := some .ld
    check := fun s x en l =>
      match s.pairBad x a (s.leadLane x regs en) with
      | some f => if l == s.leadLane x regs en then .bad f else .go
      | none => s.leadVerdict x regs en l (x.co.gAddr a imm (s.leadLane x regs en)) size.bytes
    acc := fun s x en l => if l == s.leadLane x regs en then seen (fun co l => co.gAddr a imm l) size.bytes true false (fun _ _ => 0) s x en l else none }
/-- The VA an LDC reads: the argument block's VA plus word 2 (R257). -/
def State.argVa (s : State) (x : Ctx) (imm : Word) : Nat := (((s.launches.find? x.co.launch).elim 0 fun la => la.pkt.argVa) + imm.toNat) % 2 ^ 64
/-- LDC (R257): one read for the cohort; without an argument block the lowest lane faults. -/
def planLdc (g : Guard) (d : Nat) (imm : Word) (size : Size) : Plan :=
  let regs := run d size.regs
  { plain g 12 (opc .ldc) regs [] (fun s x ls => s.leadIssue x ls (s.argVa x imm) d size false .plain .core) with
    cls := some .ld
    check := fun s x en l =>
      if ((s.launches.find? x.co.launch).elim 0 fun la => la.pkt.argVa) == 0 then
        if l == s.leadLane x regs en then .bad { code := 0x0012, akind := 0, addr := 0, gen := 0, d0 := imm.toNat, d1 := 0 } else .go
      else s.leadVerdict x regs en l (s.argVa x imm) size.bytes
    acc := fun s x en l => if l == s.leadLane x regs en then some { va := s.argVa x imm, len := size.bytes, reads := true, writes := false, data := 0 } else none }

/-- The bytes of an atomic's operand register or pair. -/
def Cohort.opBytes (co : Cohort) (b : Nat) (w : Bool) (l : Nat) : List Byte := co.dataBytes b (if w then 8 else 4) l
/-- The plan that ATOM, ATOMCAS and ATOMN share (R259, R260): checked for R and W, counted in ld or st, ordered by their ordering kind; a watchpoint sees operand b (R383). -/
def atomicPlan (g : Guard) (o : XOp) (kind : OpKind) (cls : CClass) (d nd a : Nat) (imm : Word) (w : Bool) (ord : Ord) (sc : Scope)
    (b : Nat) (srcs : List Nat) (data cmp : Cohort → Nat → List Byte) : Plan :=
  let size := if w then 8 else 4
  { plain g 12 (opc o) (run d nd ++ [a, a + 1] ++ srcs) ([a, a + 1] ++ srcs) (fun s x ls =>
      s.gIssue x ls (x.co.gAddr a imm) size .atomic fun s l pa leaf =>
        { s.newOp x l kind (some cls) (x.co.gAddr a imm l) pa leaf size with
          data := data x.co l, cmp := cmp x.co l, dst := d, ndst := nd, ord := ord, sc := sc }) with
    cls := some cls
    check := fun s x _ l => (s.gVerdict x (x.co.gAddr a imm l) size .atomic).and (s.atomicCheck x l ord.isRel (x.co.gAddr a imm l) size)
    acc := seen (fun co l => co.gAddr a imm l) size true true fun co l => leNat (co.opBytes b w l) }
/-- The registers of a 32- or 64-bit operand. -/
def wideRegs (w : Bool) (b : Nat) : List Nat := if w then [b, b + 1] else [b]
/-- ATOM (R259). -/
def planAtom (g : Guard) (d a : Nat) (imm : Word) (b : Nat) (op : AtomOp) (w rt : Bool) (ord : Ord) (sc : Scope) : Plan :=
  atomicPlan g .atom (.atomic op rt) .ld d (if w then 2 else 1) a imm w ord sc b (wideRegs w b) (fun co l => co.opBytes b w l) fun _ _ => []
/-- ATOMCAS (R260). -/
def planAtomcas (g : Guard) (d a : Nat) (imm : Word) (b c : Nat) (w rt : Bool) (ord : Ord) (sc : Scope) : Plan :=
  atomicPlan g .atomcas (.cas rt) .ld d (if w then 2 else 1) a imm w ord sc b (wideRegs w b ++ wideRegs w c) (fun co l => co.opBytes c w l) (fun co l => co.opBytes b w l)
/-- ATOMN (R259). -/
def planAtomn (g : Guard) (a : Nat) (imm : Word) (b : Nat) (op : AtomOp) (w rt : Bool) (ord : Ord) (sc : Scope) : Plan :=
  atomicPlan g .atomn (.atomic op rt) .st 0 0 a imm w ord sc b (wideRegs w b) (fun co l => co.opBytes b w l) fun _ _ => []

/-- A fence enters the pipeline behind what must be complete before it: an acquiring one holds every later access of the strand, a releasing one its later stores. -/
def State.addFence (s : State) (x : Ctx) (l : Nat) (ord : Ord) (sc : Scope) (after : List Nat) : State :=
  (s.addUnit { s.newOp x l .fence none 0 0 0 0 with after := after.eraseDups, ord := ord, sc := sc }).modStrand (x.strand l) fun t =>
    if ord.isAcq then { t with befAll := t.befAll ++ [s.seq] } else { t with befStore := t.befStore ++ [s.seq] }
/-- A fence of one strand (R143 cases 6 to 8, R262): an acquiring fence is an operation that later accesses wait for; a releasing one makes later stores wait for everything before it. At .sys a releasing one also waits while a CXL.cache access is open (R164), and is an operation then. -/
def State.fenceOne (s : State) (x : Ctx) (kind : FenceKind) (sc : Scope) (l : Nat) : State :=
  let t := x.strand l
  let mine := s.ops.filter fun o => o.of t && !o.cxlOpen
  let seen := s.ops.filter fun o => o.early && o.core == x.core
  let all := (mine ++ seen).map MemOp.id
  let held := ((s.strands.find? t).elim [] fun y => y.befAll).filter s.flying
  let host := sc == .sys && s.host.cxl && !s.ops.isEmpty
  let s := if kind == .acq then s
    else if host then s.addFence x l .rel sc (all ++ held)
    else s.modStrand t fun y => { y with befStore := (y.befStore ++ all).eraseDups }
  if kind == .rel then s
  else
    let after := (if kind == .sc then all else (mine.filter MemOp.reads).map MemOp.id) ++ held
    if after.isEmpty && !(kind == .sc && host) then s else s.addFence x l (if kind == .sc then .acqrel else .acq) sc after
/-- FENCE (R262): at .die or wider it also empties the core's L1 data cache. -/
def planFence (g : Guard) (kind : FenceKind) (sc : Scope) : Plan :=
  plain g 12 (opc .fence) [] [] fun s x ls => (ls.foldl (fun s l => s.fenceOne x kind sc l) s).acquire x.core sc
/-- PREF (R263): no value that a program reads changes; it names its address registers, and a poisoned one raises nothing. -/
def planPref (g : Guard) (a : Nat) (_imm : Word) (_l2 : Bool) : Plan := { plain g 12 (opc .pref) [a, a + 1] [] fun s _ _ => s with heeds := false }

/-! What each instruction does: its plan, issued for the current cohort -/

/-- LD_S (R254). -/
def execLdS (g : Guard) (d a off : Nat) (s : State) : Res := .next (s.exec (planLdS g d a off))
/-- ST_S (R255). -/
def execStS (g : Guard) (d a off : Nat) (s : State) : Res := .next (s.exec (planStS g d a off))
/-- LD (R254). -/
def execLd (g : Guard) (d a : Nat) (imm : Word) (size : Size) (sgn : Bool) (ord : Ord) (sc : Scope) (hint : Hint) (s : State) : Res := .next (s.exec (planLd g d a imm size sgn ord sc hint))
/-- ST (R255). -/
def execSt (g : Guard) (d a : Nat) (imm : Word) (size : Size) (ord : Ord) (sc : Scope) (hint : Hint) (s : State) : Res := .next (s.exec (planSt g d a imm size ord sc hint))
/-- LDU (R256). -/
def execLdu (g : Guard) (d a : Nat) (imm : Word) (size : Size) (sgn : Bool) (ord : Ord) (sc : Scope) (s : State) : Res := .next (s.exec (planLdu g d a imm size sgn ord sc))
/-- ATOM (R259). -/
def execAtom (g : Guard) (d a : Nat) (imm : Word) (b : Nat) (op : AtomOp) (w rt : Bool) (ord : Ord) (sc : Scope) (s : State) : Res := .next (s.exec (planAtom g d a imm b op w rt ord sc))
/-- ATOMCAS (R260). -/
def execAtomcas (g : Guard) (d a : Nat) (imm : Word) (b c : Nat) (w rt : Bool) (ord : Ord) (sc : Scope) (s : State) : Res := .next (s.exec (planAtomcas g d a imm b c w rt ord sc))
/-- ATOMN (R259). -/
def execAtomn (g : Guard) (a : Nat) (imm : Word) (b : Nat) (op : AtomOp) (w rt : Bool) (ord : Ord) (sc : Scope) (s : State) : Res := .next (s.exec (planAtomn g a imm b op w rt ord sc))
/-- FENCE (R262). -/
def execFence (g : Guard) (kind : FenceKind) (sc : Scope) (s : State) : Res := .next (s.exec (planFence g kind sc))
/-- LDC (R257). -/
def execLdc (g : Guard) (d : Nat) (imm : Word) (size : Size) (s : State) : Res := .next (s.exec (planLdc g d imm size))
/-- PREF (R263). -/
def execPref (g : Guard) (a : Nat) (imm : Word) (l2 : Bool) (s : State) : Res := .next (s.exec (planPref g a imm l2))

end Sys2Proof.Machine
end

