-- ==== Sys2Proof/Machine/Predicate.lean ====
section
/-! DEFINITION. The compares and predicate instructions (R205 to R208). -/
namespace Sys2Proof.Machine

/-- ICMP (R205). -/
def planIcmp (g : Guard) (pd a : Nat) (b : Src) (cc : Cc) (u : Bool) : Plan :=
  mapPred g 12 (opc .icmp) pd (a :: b.regs) fun co l => icmp32 cc u (co.reg a l) (co.src b l)
/-- ICMP64 (R205). -/
def planIcmp64 (g : Guard) (pd a : Nat) (b : Src) (cc : Cc) (u : Bool) : Plan :=
  mapPred g 12 (opc .icmp64) pd (a :: (a + 1) :: b.regs64) fun co l => icmp64 cc u (co.reg64 a l) (co.src64 b l)
/-- ICMP64, literal form (R205). -/
def planIcmp64Lit (g : Guard) (pd a : Nat) (cc : Cc) (u : Bool) (lit : DWord) : Plan :=
  mapPred g 20 (opc .icmp64) pd [a, a + 1] fun co l => icmp64 cc u (co.reg64 a l) lit
/-- FCMP (R206). -/
def planFcmp (g : Guard) (pd a : Nat) (b : Src) (cc : Cc) (un : Bool) : Plan :=
  mapPred g 12 (opc .fcmp) pd (a :: b.regs) fun co l => fcmp32 cc un (co.reg a l) (co.src b l)
/-- FCLASS (R207): FP64 reads the pair. -/
def planFclass (g : Guard) (d a : Nat) (fmt : Fmt) (i : Nat) : Plan :=
  if fmt.is64 then
    plain g 12 (opc .fclass) [d, a, a + 1] [a, a + 1] fun s x ls => s.onCohort x fun co =>
      co.write d (Sh.all [co.shape a, co.shape (a + 1)]) ls fun l => BitVec.ofNat 32 (classify fmt (co.reg64 a l).toNat)
  else map1 g 12 (opc .fclass) d a fun v => BitVec.ofNat 32 (classify fmt (elemOf fmt.width i v.toNat))
/-- PAND (R208). -/
def planPand (g : Guard) (pd pa pb : Nat) : Plan := mapPred g 12 (opc .pand) pd [] fun co l => co.pred pa l && co.pred pb l
/-- POR (R208). -/
def planPor (g : Guard) (pd pa pb : Nat) : Plan := mapPred g 12 (opc .por) pd [] fun co l => co.pred pa l || co.pred pb l
/-- PXOR (R208). -/
def planPxor (g : Guard) (pd pa pb : Nat) : Plan := mapPred g 12 (opc .pxor) pd [] fun co l => co.pred pa l != co.pred pb l
/-- PNOT (R208). -/
def planPnot (g : Guard) (pd pa : Nat) : Plan := mapPred g 12 (opc .pnot) pd [] fun co l => !co.pred pa l
/-- The sixteen predicates of a lane as a number, bit 0 being p0 = 1 (R208). -/
def Cohort.packPreds (co : Cohort) (l : Nat) : Nat := maskOf ((List.range 16).filter fun p => co.pred p l)
/-- PMOV (R208): its register forms read a predicate operand, so they are general (R61). -/
def planPmov (g : Guard) (f : PmovForm) : Plan :=
  match f with
  | .toReg d pa => plain g 12 (opc .pmov) [d] [] fun s x ls => s.onCohort x fun co => co.write d .gen ls fun l => if co.pred pa l then 1 else 0
  | .toPred pd a => mapPred g 12 (opc .pmov) pd [a] fun co l => co.reg a l != 0
  | .pack d => plain g 12 (opc .pmov) [d] [] fun s x ls => s.onCohort x fun co => co.write d .gen ls fun l => BitVec.ofNat 32 (co.packPreds l)
  | .unpk a => plain g 12 (opc .pmov) [a] [a] fun s x ls => s.onCohort x fun co =>
      ls.foldl (fun c l => (run 1 15).foldl (fun c p => c.setPred p l ((co.reg a l).getLsbD p)) c) co
/-- PSET (R208). -/
def planPset (g : Guard) (pd : Nat) (v : Bool) : Plan := mapPred g 12 (opc .pset) pd [] fun _ _ => v

/-! What each instruction does: its plan, issued for the current cohort -/

/-- ICMP (R205). -/
def execIcmp (g : Guard) (pd a : Nat) (b : Src) (cc : Cc) (u : Bool) (s : State) : Res := .next (s.exec (planIcmp g pd a b cc u))
/-- ICMP64 (R205). -/
def execIcmp64 (g : Guard) (pd a : Nat) (b : Src) (cc : Cc) (u : Bool) (s : State) : Res := .next (s.exec (planIcmp64 g pd a b cc u))
/-- ICMP64_LIT (R205). -/
def execIcmp64Lit (g : Guard) (pd a : Nat) (cc : Cc) (u : Bool) (lit : DWord) (s : State) : Res := .next (s.exec (planIcmp64Lit g pd a cc u lit))
/-- FCMP (R206). -/
def execFcmp (g : Guard) (pd a : Nat) (b : Src) (cc : Cc) (un : Bool) (s : State) : Res := .next (s.exec (planFcmp g pd a b cc un))
/-- FCLASS (R207). -/
def execFclass (g : Guard) (d a : Nat) (fmt : Fmt) (i : Nat) (s : State) : Res := .next (s.exec (planFclass g d a fmt i))
/-- PAND (R208). -/
def execPand (g : Guard) (pd pa pb : Nat) (s : State) : Res := .next (s.exec (planPand g pd pa pb))
/-- POR (R208). -/
def execPor (g : Guard) (pd pa pb : Nat) (s : State) : Res := .next (s.exec (planPor g pd pa pb))
/-- PXOR (R208). -/
def execPxor (g : Guard) (pd pa pb : Nat) (s : State) : Res := .next (s.exec (planPxor g pd pa pb))
/-- PNOT (R208). -/
def execPnot (g : Guard) (pd pa : Nat) (s : State) : Res := .next (s.exec (planPnot g pd pa))
/-- PMOV (R208). -/
def execPmov (g : Guard) (f : PmovForm) (s : State) : Res := .next (s.exec (planPmov g f))
/-- PSET (R208). -/
def execPset (g : Guard) (pd : Nat) (v : Bool) (s : State) : Res := .next (s.exec (planPset g pd v))

end Sys2Proof.Machine
end

