-- ==== Sys2Proof/Machine/Pair.lean ====
section
/-! DEFINITION. The P-form pair (R173 to R175): the uniform slot, then the vector slot, as one instruction. -/
namespace Sys2Proof.Machine

/-- The uniform slot's operation (R174). -/
def uniformPlan (g : Guard) (u : USlot) : Plan :=
  match u.op with
  | .nop => planNop g
  | .mov => planMov g u.d u.a
  | .iadd => planIadd g u.d u.a (.reg u.b) false false
  | .isub => planIsub g u.d u.a (.reg u.b) false false
  | .imul => planImul g u.d u.a (.reg u.b)
  | .imad => planImad g u.d u.a (.reg u.b) u.d
  | .and => planAnd g u.d u.a (.reg u.b)
  | .or => planOr g u.d u.a (.reg u.b)
  | .xor => planXor g u.d u.a (.reg u.b)
  | .shl => planShl g u.d u.a (.reg u.b)
  | .shr => planShr g u.d u.a (.reg u.b)
  | .iadd64 => planIadd64 g u.d u.a (.reg u.b)
  | .lea => planLea g u.d u.a (.reg u.b) false 0
  | .icmpLt => planIcmp g u.d u.a (.reg u.b) .lt false
  | .icmpEq => planIcmp g u.d u.a (.reg u.b) .eq false
  | .imin => planImin g u.d u.a (.reg u.b) false
  | .imax => planImax g u.d u.a (.reg u.b) false
/-- The byte offset (va + vb) mod 2^32 of the vector slot's ALD and AST (R174). -/
def pairOff (co : Cohort) (a b l : Nat) : Nat := (co.reg a l + co.reg b l).toNat
/-- The vector slot's operation (R174). -/
def vectorPlan (g : Guard) (v : VSlot) : Plan :=
  match v.op with
  | .nop => planNop g
  | .mov => planMov g v.d v.a
  | .iadd => planIadd g v.d v.a (.reg v.b) false false
  | .isub => planIsub g v.d v.a (.reg v.b) false false
  | .imul => planImul g v.d v.a (.reg v.b)
  | .imad => planImad g v.d v.a (.reg v.b) v.d
  | .imin => planImin g v.d v.a (.reg v.b) false
  | .imax => planImax g v.d v.a (.reg v.b) false
  | .and => planAnd g v.d v.a (.reg v.b)
  | .or => planOr g v.d v.a (.reg v.b)
  | .xor => planXor g v.d v.a (.reg v.b)
  | .shl => planShl g v.d v.a (.reg v.b)
  | .shr => planShr g v.d v.a (.reg v.b)
  | .icmpLt => planIcmp g v.d v.a (.reg v.b) .lt false
  | .fcmpLt => planFcmp g v.d v.a (.reg v.b) .lt false
  | .fadd => planFadd g v.d v.a (.reg v.b) .rn
  | .fsub => planFsub g v.d v.a (.reg v.b) .rn
  | .fmul => planFmul g v.d v.a (.reg v.b) .rn
  | .ffma => planFfma g v.d v.a (.reg v.b) v.d .rn
  | .fmin => planFmin g v.d v.a (.reg v.b)
  | .fmax => planFmax g v.d v.a (.reg v.b)
  | .hfma2 => planHfma2 g v.d v.a (.reg v.b) v.d .rn false
  | .ald =>
    { plain g 8 (opc .ald) [v.d, v.a, v.b] [v.a, v.b] (fun s x ls => s.spLoads x ls .a v.d (pairOff x.co v.a v.b) .b32 false) with
      check := fun s x _ l => s.sVerdict x l .a (pairOff x.co v.a v.b l) 4 true }
  | .ast =>
    { plain g 8 (opc .ast) [v.d, v.a, v.b] [v.d, v.a, v.b] (fun s x ls => s.spStores x ls .a (pairOff x.co v.a v.b) (x.co.dataBytes v.d 4)) with
      check := fun s x _ l => s.sVerdict x l .a (pairOff x.co v.a v.b l) 4 false }
  | .vdot4 => planVdot4 g v.d v.a (.reg v.b) v.d false false
/-- The registers that the uniform slot writes. -/
def uDests (u : USlot) : List Nat :=
  match u.op with
  | .nop | .icmpLt | .icmpEq => []
  | .iadd64 | .lea => [u.d, u.d + 1]
  | _ => [u.d]
/-- The issue as the vector slot sees it: the cohort after the uniform slot. -/
def State.again (s : State) (x : Ctx) : Ctx := { x with co := (s.cohort? x.core x.slot).getD x.co }
/-- PFORM_PAIR (R175): both slots are checked before either writes; the vector slot reads what the uniform slot wrote. -/
def planPair (g : Guard) (u : USlot) (v : VSlot) : Plan :=
  let p := uniformPlan g u
  let q := vectorPlan g v
  { plain g 8 0 (p.regs ++ q.regs) (p.srcs ++ q.srcs.filter fun r => !((uDests u).contains r)) (fun s x ls =>
      let s := p.act s x ls
      q.act s (s.again x) ls) with
    check := fun s x en l =>
      let s := p.act s x en
      q.check s (s.again x) en l }

/-! What each instruction does: its plan, issued for the current cohort -/

/-- PFORM_PAIR (R175). -/
def execPformPair (g : Guard) (u : USlot) (v : VSlot) (s : State) : Res := .next (s.exec (planPair g u v))

end Sys2Proof.Machine
end

