-- ==== Sys2Proof/Machine/SForm.lean ====
section
/-! DEFINITION. The S-form rows that repeat an X-form operation on registers v0 to v63 in one word (R172). -/
namespace Sys2Proof.Machine

/-- A plan in one word (R168). -/
def Plan.short (p : Plan) : Plan := { p with len := 4 }
/-- NOP_S (R172). -/
def planNopS (g : Guard) : Plan := (planNop g).short
/-- MOV_S (R172). -/
def planMovS (g : Guard) (d a : Nat) : Plan := (planMov g d a).short
/-- IADD_S (R172). -/
def planIaddS (g : Guard) (d a b : Nat) : Plan := (planIadd g d a (.reg b) false false).short
/-- ISUB_S (R172). -/
def planIsubS (g : Guard) (d a b : Nat) : Plan := (planIsub g d a (.reg b) false false).short
/-- IMUL_S (R172). -/
def planImulS (g : Guard) (d a b : Nat) : Plan := (planImul g d a (.reg b)).short
/-- AND_S (R172). -/
def planAndS (g : Guard) (d a b : Nat) : Plan := (planAnd g d a (.reg b)).short
/-- OR_S (R172). -/
def planOrS (g : Guard) (d a b : Nat) : Plan := (planOr g d a (.reg b)).short
/-- XOR_S (R172). -/
def planXorS (g : Guard) (d a b : Nat) : Plan := (planXor g d a (.reg b)).short
/-- SHL_S (R172). -/
def planShlS (g : Guard) (d a b : Nat) : Plan := (planShl g d a (.reg b)).short
/-- SHR_S (R172). -/
def planShrS (g : Guard) (d a b : Nat) : Plan := (planShr g d a (.reg b)).short
/-- ICMP_S (R172, R205). -/
def planIcmpS (g : Guard) (pd a b : Nat) (cc : Cc) (u : Bool) : Plan := (planIcmp g pd a (.reg b) cc u).short
/-- FADD_S (R172), rounding .rn. -/
def planFaddS (g : Guard) (d a b : Nat) : Plan := (planFadd g d a (.reg b) .rn).short
/-- FSUB_S (R172), rounding .rn. -/
def planFsubS (g : Guard) (d a b : Nat) : Plan := (planFsub g d a (.reg b) .rn).short
/-- FMUL_S (R172), rounding .rn. -/
def planFmulS (g : Guard) (d a b : Nat) : Plan := (planFmul g d a (.reg b) .rn).short
/-- BRA_S (R172, R232). -/
def planBraS (g : Guard) (off : BitVec 18) : Plan := (planBra g (off.signExtend 32)).short
/-- EXIT_S (R172, R234). -/
def planExitS (g : Guard) : Plan := (planExit g).short
/-- MOVS_S (R172, R271). -/
def planMovsS (g : Guard) (d : Nat) (r : SReg) : Plan := (planMovs g d r).short

/-! What each instruction does: its plan, issued for the current cohort -/

/-- NOP_S (R172). -/
def execNopS (g : Guard) (s : State) : Res := .next (s.exec (planNopS g))
/-- MOV_S (R172). -/
def execMovS (g : Guard) (d a : Nat) (s : State) : Res := .next (s.exec (planMovS g d a))
/-- IADD_S (R172). -/
def execIaddS (g : Guard) (d a b : Nat) (s : State) : Res := .next (s.exec (planIaddS g d a b))
/-- ISUB_S (R172). -/
def execIsubS (g : Guard) (d a b : Nat) (s : State) : Res := .next (s.exec (planIsubS g d a b))
/-- IMUL_S (R172). -/
def execImulS (g : Guard) (d a b : Nat) (s : State) : Res := .next (s.exec (planImulS g d a b))
/-- AND_S (R172). -/
def execAndS (g : Guard) (d a b : Nat) (s : State) : Res := .next (s.exec (planAndS g d a b))
/-- OR_S (R172). -/
def execOrS (g : Guard) (d a b : Nat) (s : State) : Res := .next (s.exec (planOrS g d a b))
/-- XOR_S (R172). -/
def execXorS (g : Guard) (d a b : Nat) (s : State) : Res := .next (s.exec (planXorS g d a b))
/-- SHL_S (R172). -/
def execShlS (g : Guard) (d a b : Nat) (s : State) : Res := .next (s.exec (planShlS g d a b))
/-- SHR_S (R172). -/
def execShrS (g : Guard) (d a b : Nat) (s : State) : Res := .next (s.exec (planShrS g d a b))
/-- ICMP_S (R172). -/
def execIcmpS (g : Guard) (pd a b : Nat) (cc : Cc) (u : Bool) (s : State) : Res := .next (s.exec (planIcmpS g pd a b cc u))
/-- FADD_S (R172). -/
def execFaddS (g : Guard) (d a b : Nat) (s : State) : Res := .next (s.exec (planFaddS g d a b))
/-- FSUB_S (R172). -/
def execFsubS (g : Guard) (d a b : Nat) (s : State) : Res := .next (s.exec (planFsubS g d a b))
/-- FMUL_S (R172). -/
def execFmulS (g : Guard) (d a b : Nat) (s : State) : Res := .next (s.exec (planFmulS g d a b))
/-- BRA_S (R172). -/
def execBraS (g : Guard) (off : BitVec 18) (s : State) : Res := .next (s.exec (planBraS g off))
/-- EXIT_S (R234). -/
def execExitS (g : Guard) (s : State) : Res := .next (s.exec (planExitS g))
/-- MOVS_S (R271). -/
def execMovsS (g : Guard) (d : Nat) (r : SReg) (s : State) : Res := .next (s.exec (planMovsS g d r))

end Sys2Proof.Machine
end

