-- ==== Sys2Proof/Machine/Plans.lean ====
section
/-! DEFINITION. The plan of every instruction that REP may repeat (R69). -/
namespace Sys2Proof.Machine

/-- The plan of an instruction; none for one that REP may not repeat. -/
def planOf : Instr → Option Plan
  | .nopS g => some (planNopS g)
  | .movS g d a => some (planMovS g d a)
  | .iaddS g d a b => some (planIaddS g d a b)
  | .isubS g d a b => some (planIsubS g d a b)
  | .imulS g d a b => some (planImulS g d a b)
  | .andS g d a b => some (planAndS g d a b)
  | .orS g d a b => some (planOrS g d a b)
  | .xorS g d a b => some (planXorS g d a b)
  | .shlS g d a b => some (planShlS g d a b)
  | .shrS g d a b => some (planShrS g d a b)
  | .icmpS g pd a b cc u => some (planIcmpS g pd a b cc u)
  | .faddS g d a b => some (planFaddS g d a b)
  | .fsubS g d a b => some (planFsubS g d a b)
  | .fmulS g d a b => some (planFmulS g d a b)
  | .ldS g d a off => some (planLdS g d a off)
  | .stS g d a off => some (planStS g d a off)
  | .aldS g d a off => some (planAldS g d a off)
  | .astS g d a off => some (planAstS g d a off)
  | .movsS g d x => some (planMovsS g d x)
  | .nop g => some (planNop g)
  | .mov g d a => some (planMov g d a)
  | .movi g d imm => some (planMovi g d imm)
  | .moviLit g d lit => some (planMoviLit g d lit)
  | .iadd g d a b sat u => some (planIadd g d a b sat u)
  | .isub g d a b sat u => some (planIsub g d a b sat u)
  | .imul g d a b => some (planImul g d a b)
  | .imulh g d a b u => some (planImulh g d a b u)
  | .imad g d a b c => some (planImad g d a b c)
  | .imin g d a b u => some (planImin g d a b u)
  | .imax g d a b u => some (planImax g d a b u)
  | .iabs g d a sat => some (planIabs g d a sat)
  | .ineg g d a sat => some (planIneg g d a sat)
  | .and g d a b => some (planAnd g d a b)
  | .or g d a b => some (planOr g d a b)
  | .xor g d a b => some (planXor g d a b)
  | .andn g d a b => some (planAndn g d a b)
  | .not g d a => some (planNot g d a)
  | .shl g d a b => some (planShl g d a b)
  | .shr g d a b => some (planShr g d a b)
  | .sar g d a b => some (planSar g d a b)
  | .popc g d a => some (planPopc g d a)
  | .clz g d a => some (planClz g d a)
  | .ctz g d a => some (planCtz g d a)
  | .brev g d a => some (planBrev g d a)
  | .bfx g d a b u => some (planBfx g d a b u)
  | .bfi g d a b c => some (planBfi g d a b c)
  | .sel g d a b pc => some (planSel g d a b pc)
  | .iadd64 g d a b => some (planIadd64 g d a b)
  | .iadd64Lit g d a lit => some (planIadd64Lit g d a lit)
  | .isub64 g d a b => some (planIsub64 g d a b)
  | .isub64Lit g d a lit => some (planIsub64Lit g d a lit)
  | .imul64 g d a b => some (planImul64 g d a b)
  | .imul64Lit g d a lit => some (planImul64Lit g d a lit)
  | .shl64 g d a b => some (planShl64 g d a b)
  | .shr64 g d a b s => some (planShr64 g d a b s)
  | .lea g d a b u sh => some (planLea g d a b u sh)
  | .imulw g d a b u => some (planImulw g d a b u)
  | .imadw g d a b c u => some (planImadw g d a b c u)
  | .icmp g pd a b cc u => some (planIcmp g pd a b cc u)
  | .icmp64 g pd a b cc u => some (planIcmp64 g pd a b cc u)
  | .icmp64Lit g pd a cc u lit => some (planIcmp64Lit g pd a cc u lit)
  | .fcmp g pd a b cc un => some (planFcmp g pd a b cc un)
  | .fclass g d a fmt laneIx => some (planFclass g d a fmt laneIx)
  | .pand g pd pa pb => some (planPand g pd pa pb)
  | .por g pd pa pb => some (planPor g pd pa pb)
  | .pxor g pd pa pb => some (planPxor g pd pa pb)
  | .pnot g pd pa => some (planPnot g pd pa)
  | .pmov g f => some (planPmov g f)
  | .pset g pd v => some (planPset g pd v)
  | .fadd g d a b m => some (planFadd g d a b m)
  | .fsub g d a b m => some (planFsub g d a b m)
  | .fmul g d a b m => some (planFmul g d a b m)
  | .ffma g d a b c m => some (planFfma g d a b c m)
  | .fmin g d a b => some (planFmin g d a b)
  | .fmax g d a b => some (planFmax g d a b)
  | .fabs g d a => some (planFabs g d a)
  | .fneg g d a => some (planFneg g d a)
  | .frcp g d a => some (planFrcp g d a)
  | .frsq g d a => some (planFrsq g d a)
  | .fsqrt g d a m => some (planFsqrt g d a m)
  | .fdiv g d a b m => some (planFdiv g d a b m)
  | .fexp2 g d a => some (planFexp2 g d a)
  | .flog2 g d a => some (planFlog2 g d a)
  | .fsin g d a => some (planFsin g d a)
  | .fcos g d a => some (planFcos g d a)
  | .ftanh g d a => some (planFtanh g d a)
  | .frint g d a m => some (planFrint g d a m)
  | .hadd2 g d a b m h => some (planHadd2 g d a b m h)
  | .hmul2 g d a b m h => some (planHmul2 g d a b m h)
  | .hfma2 g d a b c m h => some (planHfma2 g d a b c m h)
  | .hmin2 g d a b h => some (planHmin2 g d a b h)
  | .hmax2 g d a b h => some (planHmax2 g d a b h)
  | .dadd g d a b m => some (planDadd g d a b m)
  | .daddLit g d a m lit => some (planDaddLit g d a m lit)
  | .dmul g d a b m => some (planDmul g d a b m)
  | .dmulLit g d a m lit => some (planDmulLit g d a m lit)
  | .dfma g d a b c m => some (planDfma g d a b c m)
  | .dfmaLit g d a c m lit => some (planDfmaLit g d a c m lit)
  | .fscale g d a b m => some (planFscale g d a b m)
  | .cvt g d a b m sat src dst => some (planCvt g d a b m sat src dst)
  | .cvtpk g d a b c e m sat dst j => some (planCvtpk g d a b c e m sat dst j)
  | .cvtex g d a fmt laneIx => some (planCvtex g d a fmt laneIx)
  | .qblk g d e a b m sat el bsz scf => some (planQblk g d e a b m sat el bsz scf)
  | .dqblk g d a e el bsz scf => some (planDqblk g d a e el bsz scf)
  | .vdot4 g d a b c ua ub => some (planVdot4 g d a b c ua ub)
  | .vdotb g d a b c e ea eb bsz scf => some (planVdotb g d a b c e ea eb bsz scf)
  | .bppack g d a => some (planBppack g d a)
  | .bpunpk g d a k mid => some (planBpunpk g d a k mid)
  | .vote g mode d pa => some (planVote g mode d pa)
  | .shfl g d a b mode => some (planShfl g d a b mode)
  | .red g d a op => some (planRed g d a op)
  | .scan g d a op excl => some (planScan g d a op excl)
  | .elect g pd => some (planElect g pd)
  | .matchAny g d a w => some (planMatchAny g d a w)
  | .ld g d a imm size sgn ord sc hint => some (planLd g d a imm size sgn ord sc hint)
  | .st g d a imm size ord sc hint => some (planSt g d a imm size ord sc hint)
  | .ldu g d a imm size sgn ord sc => some (planLdu g d a imm size sgn ord sc)
  | .atom g d a imm b op w rt ord sc => some (planAtom g d a imm b op w rt ord sc)
  | .atomcas g d a imm b c w rt ord sc => some (planAtomcas g d a imm b c w rt ord sc)
  | .atomn g a imm b op w rt ord sc => some (planAtomn g a imm b op w rt ord sc)
  | .fence g kind sc => some (planFence g kind sc)
  | .wld g d a imm size sgn => some (planWld g d a imm size sgn)
  | .wst g d a imm size => some (planWst g d a imm size)
  | .ald g d a imm size sgn => some (planAld g d a imm size sgn)
  | .ast g d a imm size => some (planAst g d a imm size)
  | .cld g d a imm size sgn => some (planCld g d a imm size sgn)
  | .cst g d a imm size => some (planCst g d a imm size)
  | .ldc g d imm size => some (planLdc g d imm size)
  | .pref g a imm l2 => some (planPref g a imm l2)
  | .spalloc g d b buf lc ar strict => some (planSpalloc g d b buf lc ar strict)
  | .spfree g a buf => some (planSpfree g a buf)
  | .sprenew g a b buf => some (planSprenew g a b buf)
  | .spstat g d a buf => some (planSpstat g d a buf)
  | .spclear g a buf => some (planSpclear g a buf)
  | .bread g pd a b tag => some (planBread g pd a b tag)
  | .bwrite g pd a tag sc => some (planBwrite g pd a tag sc)
  | .bcopy g pd a tag sc => some (planBcopy g pd a tag sc)
  | .bfill g pd a tag sc => some (planBfill g pd a tag sc)
  | .bdigest g pd a tag => some (planBdigest g pd a tag)
  | .bstat g d a => some (planBstat g d a)
  | .mxlw g pd a => some (planMxlw g pd a)
  | .mxrun g pd a => some (planMxrun g pd a)
  | .mxzero g pd a => some (planMxzero g pd a)
  | .mxver g d a => some (planMxver g d a)
  | .mxhnd g d a b => some (planMxhnd g d a b)
  | .mxrel g a => some (planMxrel g a)
  | .coll g pd a tag => some (planColl g pd a tag)
  | .movs g d x => some (planMovs g d x)
  | .movsw g x a => some (planMovsw g x a)
  | .regset g d n b => some (planRegset g d n b)
  | .shp g d a => some (planShp g d a)
  | .uni g d a => some (planUni g d a)
  | .ckpt g => some (planCkpt g)
  | .cinv g k a imm b => some (planCinv g k a imm b)
  | .tlbinv g k sc => some (planTlbinv g k sc)
  | .csrr g d csr => some (planCsrr g d csr)
  | .csrw g csr a => some (planCsrw g csr a)
  | _ => none

end Sys2Proof.Machine
end

