-- ==== Sys2Proof/Machine/Regs.lean ====
section
/-! DEFINITION. The register fields of an instruction, as REP steps them (R68, R69). -/
namespace Sys2Proof

/-- The register fields of an instruction. -/
inductive RegField
  | d | a | b | c | e
  deriving DecidableEq, Repr

/-- A source whose register is changed. -/
def Src.step (f : Nat → Nat) : Src → Src
  | .reg n => .reg (f n)
  | .imm w => .imm w

/-- A TLBINV whose registers are changed. -/
def TlbKind.step (f : RegField → Nat → Nat) : TlbKind → TlbKind
  | .va a b => .va (f .a a) (f .b b)
  | .part b => .part (f .b b)
  | .all => .all

/-- The instruction with every register field changed (R69: predicate fields are no register operands; b of CVT and QBLK and e of CVTPK are registers only under .sr). What REP may not repeat stays as it is. -/
def Instr.mapRegs (f : RegField → Nat → Nat) : Instr → Instr
  | .movS g d a => .movS g (f .d d) (f .a a)
  | .iaddS g d a b => .iaddS g (f .d d) (f .a a) (f .b b)
  | .isubS g d a b => .isubS g (f .d d) (f .a a) (f .b b)
  | .imulS g d a b => .imulS g (f .d d) (f .a a) (f .b b)
  | .andS g d a b => .andS g (f .d d) (f .a a) (f .b b)
  | .orS g d a b => .orS g (f .d d) (f .a a) (f .b b)
  | .xorS g d a b => .xorS g (f .d d) (f .a a) (f .b b)
  | .shlS g d a b => .shlS g (f .d d) (f .a a) (f .b b)
  | .shrS g d a b => .shrS g (f .d d) (f .a a) (f .b b)
  | .icmpS g pd a b cc u => .icmpS g pd (f .a a) (f .b b) cc u
  | .faddS g d a b => .faddS g (f .d d) (f .a a) (f .b b)
  | .fsubS g d a b => .fsubS g (f .d d) (f .a a) (f .b b)
  | .fmulS g d a b => .fmulS g (f .d d) (f .a a) (f .b b)
  | .ldS g d a off => .ldS g (f .d d) (f .a a) off
  | .stS g d a off => .stS g (f .d d) (f .a a) off
  | .aldS g d a off => .aldS g (f .d d) (f .a a) off
  | .astS g d a off => .astS g (f .d d) (f .a a) off
  | .movsS g d x => .movsS g (f .d d) x
  | .mov g d a => .mov g (f .d d) (f .a a)
  | .movi g d imm => .movi g (f .d d) imm
  | .moviLit g d lit => .moviLit g (f .d d) lit
  | .iadd g d a b sat u => .iadd g (f .d d) (f .a a) (b.step (f .b)) sat u
  | .isub g d a b sat u => .isub g (f .d d) (f .a a) (b.step (f .b)) sat u
  | .imul g d a b => .imul g (f .d d) (f .a a) (b.step (f .b))
  | .imulh g d a b u => .imulh g (f .d d) (f .a a) (b.step (f .b)) u
  | .imad g d a b c => .imad g (f .d d) (f .a a) (b.step (f .b)) (f .c c)
  | .imin g d a b u => .imin g (f .d d) (f .a a) (b.step (f .b)) u
  | .imax g d a b u => .imax g (f .d d) (f .a a) (b.step (f .b)) u
  | .iabs g d a sat => .iabs g (f .d d) (f .a a) sat
  | .ineg g d a sat => .ineg g (f .d d) (f .a a) sat
  | .and g d a b => .and g (f .d d) (f .a a) (b.step (f .b))
  | .or g d a b => .or g (f .d d) (f .a a) (b.step (f .b))
  | .xor g d a b => .xor g (f .d d) (f .a a) (b.step (f .b))
  | .andn g d a b => .andn g (f .d d) (f .a a) (b.step (f .b))
  | .not g d a => .not g (f .d d) (f .a a)
  | .shl g d a b => .shl g (f .d d) (f .a a) (b.step (f .b))
  | .shr g d a b => .shr g (f .d d) (f .a a) (b.step (f .b))
  | .sar g d a b => .sar g (f .d d) (f .a a) (b.step (f .b))
  | .popc g d a => .popc g (f .d d) (f .a a)
  | .clz g d a => .clz g (f .d d) (f .a a)
  | .ctz g d a => .ctz g (f .d d) (f .a a)
  | .brev g d a => .brev g (f .d d) (f .a a)
  | .bfx g d a b u => .bfx g (f .d d) (f .a a) (b.step (f .b)) u
  | .bfi g d a b c => .bfi g (f .d d) (f .a a) (b.step (f .b)) (f .c c)
  | .sel g d a b pc => .sel g (f .d d) (f .a a) (b.step (f .b)) pc
  | .iadd64 g d a b => .iadd64 g (f .d d) (f .a a) (b.step (f .b))
  | .iadd64Lit g d a lit => .iadd64Lit g (f .d d) (f .a a) lit
  | .isub64 g d a b => .isub64 g (f .d d) (f .a a) (b.step (f .b))
  | .isub64Lit g d a lit => .isub64Lit g (f .d d) (f .a a) lit
  | .imul64 g d a b => .imul64 g (f .d d) (f .a a) (b.step (f .b))
  | .imul64Lit g d a lit => .imul64Lit g (f .d d) (f .a a) lit
  | .shl64 g d a b => .shl64 g (f .d d) (f .a a) (b.step (f .b))
  | .shr64 g d a b s => .shr64 g (f .d d) (f .a a) (b.step (f .b)) s
  | .lea g d a b u sh => .lea g (f .d d) (f .a a) (b.step (f .b)) u sh
  | .imulw g d a b u => .imulw g (f .d d) (f .a a) (b.step (f .b)) u
  | .imadw g d a b c u => .imadw g (f .d d) (f .a a) (b.step (f .b)) (f .c c) u
  | .icmp g pd a b cc u => .icmp g pd (f .a a) (b.step (f .b)) cc u
  | .icmp64 g pd a b cc u => .icmp64 g pd (f .a a) (b.step (f .b)) cc u
  | .icmp64Lit g pd a cc u lit => .icmp64Lit g pd (f .a a) cc u lit
  | .fcmp g pd a b cc un => .fcmp g pd (f .a a) (b.step (f .b)) cc un
  | .fclass g d a fmt laneIx => .fclass g (f .d d) (f .a a) fmt laneIx
  | .fadd g d a b m => .fadd g (f .d d) (f .a a) (b.step (f .b)) m
  | .fsub g d a b m => .fsub g (f .d d) (f .a a) (b.step (f .b)) m
  | .fmul g d a b m => .fmul g (f .d d) (f .a a) (b.step (f .b)) m
  | .ffma g d a b c m => .ffma g (f .d d) (f .a a) (b.step (f .b)) (f .c c) m
  | .fmin g d a b => .fmin g (f .d d) (f .a a) (b.step (f .b))
  | .fmax g d a b => .fmax g (f .d d) (f .a a) (b.step (f .b))
  | .fabs g d a => .fabs g (f .d d) (f .a a)
  | .fneg g d a => .fneg g (f .d d) (f .a a)
  | .frcp g d a => .frcp g (f .d d) (f .a a)
  | .frsq g d a => .frsq g (f .d d) (f .a a)
  | .fsqrt g d a m => .fsqrt g (f .d d) (f .a a) m
  | .fdiv g d a b m => .fdiv g (f .d d) (f .a a) (b.step (f .b)) m
  | .fexp2 g d a => .fexp2 g (f .d d) (f .a a)
  | .flog2 g d a => .flog2 g (f .d d) (f .a a)
  | .fsin g d a => .fsin g (f .d d) (f .a a)
  | .fcos g d a => .fcos g (f .d d) (f .a a)
  | .ftanh g d a => .ftanh g (f .d d) (f .a a)
  | .frint g d a m => .frint g (f .d d) (f .a a) m
  | .hadd2 g d a b m h => .hadd2 g (f .d d) (f .a a) (b.step (f .b)) m h
  | .hmul2 g d a b m h => .hmul2 g (f .d d) (f .a a) (b.step (f .b)) m h
  | .hfma2 g d a b c m h => .hfma2 g (f .d d) (f .a a) (b.step (f .b)) (f .c c) m h
  | .hmin2 g d a b h => .hmin2 g (f .d d) (f .a a) (b.step (f .b)) h
  | .hmax2 g d a b h => .hmax2 g (f .d d) (f .a a) (b.step (f .b)) h
  | .dadd g d a b m => .dadd g (f .d d) (f .a a) (f .b b) m
  | .daddLit g d a m lit => .daddLit g (f .d d) (f .a a) m lit
  | .dmul g d a b m => .dmul g (f .d d) (f .a a) (f .b b) m
  | .dmulLit g d a m lit => .dmulLit g (f .d d) (f .a a) m lit
  | .dfma g d a b c m => .dfma g (f .d d) (f .a a) (f .b b) (f .c c) m
  | .dfmaLit g d a c m lit => .dfmaLit g (f .d d) (f .a a) (f .c c) m lit
  | .fscale g d a b m => .fscale g (f .d d) (f .a a) (b.step (f .b)) m
  | .cvt g d a b m sat src dst => .cvt g (f .d d) (f .a a) (if m == .sr then f .b b else b) m sat src dst
  | .cvtpk g d a b c e m sat dst j => .cvtpk g (f .d d) (f .a a) (f .b b) (f .c c) (if m == .sr then f .e e else e) m sat dst j
  | .cvtex g d a fmt laneIx => .cvtex g (f .d d) (f .a a) fmt laneIx
  | .qblk g d e a b m sat el bsz scf => .qblk g (f .d d) (f .e e) (f .a a) (if m == .sr then f .b b else b) m sat el bsz scf
  | .dqblk g d a e el bsz scf => .dqblk g (f .d d) (f .a a) (f .e e) el bsz scf
  | .vdot4 g d a b c ua ub => .vdot4 g (f .d d) (f .a a) (b.step (f .b)) (f .c c) ua ub
  | .vdotb g d a b c e ea eb bsz scf => .vdotb g (f .d d) (f .a a) (f .b b) (f .c c) (f .e e) ea eb bsz scf
  | .bppack g d a => .bppack g (f .d d) (f .a a)
  | .bpunpk g d a k mid => .bpunpk g (f .d d) (f .a a) k mid
  | .vote g mode d pa => .vote g mode (if mode == .ballot then f .d d else d) pa
  | .shfl g d a b mode => .shfl g (f .d d) (f .a a) (b.step (f .b)) mode
  | .red g d a op => .red g (f .d d) (f .a a) op
  | .scan g d a op excl => .scan g (f .d d) (f .a a) op excl
  | .matchAny g d a w => .matchAny g (f .d d) (f .a a) w
  | .ld g d a imm size sgn ord sc hint => .ld g (f .d d) (f .a a) imm size sgn ord sc hint
  | .st g d a imm size ord sc hint => .st g (f .d d) (f .a a) imm size ord sc hint
  | .ldu g d a imm size sgn ord sc => .ldu g (f .d d) (f .a a) imm size sgn ord sc
  | .atom g d a imm b op w rt ord sc => .atom g (f .d d) (f .a a) imm (f .b b) op w rt ord sc
  | .atomcas g d a imm b c w rt ord sc => .atomcas g (f .d d) (f .a a) imm (f .b b) (f .c c) w rt ord sc
  | .atomn g a imm b op w rt ord sc => .atomn g (f .a a) imm (f .b b) op w rt ord sc
  | .wld g d a imm size sgn => .wld g (f .d d) (f .a a) imm size sgn
  | .wst g d a imm size => .wst g (f .d d) (f .a a) imm size
  | .ald g d a imm size sgn => .ald g (f .d d) (f .a a) imm size sgn
  | .ast g d a imm size => .ast g (f .d d) (f .a a) imm size
  | .cld g d a imm size sgn => .cld g (f .d d) (f .a a) imm size sgn
  | .cst g d a imm size => .cst g (f .d d) (f .a a) imm size
  | .ldc g d imm size => .ldc g (f .d d) imm size
  | .pref g a imm l2 => .pref g (f .a a) imm l2
  | .spalloc g d b buf lc ar strict => .spalloc g (f .d d) (b.step (f .b)) buf lc ar strict
  | .spfree g a buf => .spfree g (f .a a) buf
  | .sprenew g a b buf => .sprenew g (f .a a) (b.step (f .b)) buf
  | .spstat g d a buf => .spstat g (f .d d) (f .a a) buf
  | .spclear g a buf => .spclear g (f .a a) buf
  | .bread g pd a b tag => .bread g pd (f .a a) (f .b b) tag
  | .bwrite g pd a tag sc => .bwrite g pd (f .a a) tag sc
  | .bcopy g pd a tag sc => .bcopy g pd (f .a a) tag sc
  | .bfill g pd a tag sc => .bfill g pd (f .a a) tag sc
  | .bdigest g pd a tag => .bdigest g pd (f .a a) tag
  | .bstat g d a => .bstat g (f .d d) (a.step (f .a))
  | .mxlw g pd a => .mxlw g pd (f .a a)
  | .mxrun g pd a => .mxrun g pd (f .a a)
  | .mxzero g pd a => .mxzero g pd (f .a a)
  | .mxver g d a => .mxver g (f .d d) (f .a a)
  | .mxhnd g d a b => .mxhnd g (f .d d) (f .a a) (f .b b)
  | .mxrel g a => .mxrel g (f .a a)
  | .coll g pd a tag => .coll g pd (f .a a) tag
  | .movs g d x => .movs g (f .d d) x
  | .movsw g x a => .movsw g x (f .a a)
  | .regset g d n b => .regset g (f .d d) n (b.step (f .b))
  | .shp g d a => .shp g (f .d d) (f .a a)
  | .uni g d a => .uni g (f .d d) (f .a a)
  | .cinv g k a imm b => .cinv g k (f .a a) imm (f .b b)
  | .tlbinv g k sc => .tlbinv g (k.step f) sc
  | .csrr g d csr => .csrr g (f .d d) csr
  | .csrw g csr a => .csrw g csr (f .a a)
  | i => i

/-- The instruction is an event of the machine, not one that a strand issues. -/
def Instr.isEvent : Instr → Bool
  | .stubEntry => true
  | .stubBind => true
  | .parkmapFetchDone _ _ => true
  | .resultLanding _ _ _ => true
  | .storePerformed _ => true
  | .atomicAtHome _ _ => true
  | .sprenewComplete _ => true
  | .cinvComplete _ => true
  | .tlbinvComplete _ => true
  | .cohortFormation _ _ => true
  | .drainAgeExpiry _ _ => true
  | .cohortAgePromotion _ _ => true
  | .spillReadback _ _ => true
  | .recordForward _ _ => true
  | .schedulerForward _ _ _ => true
  | .waitEventFire _ _ => true
  | .l2WatchEvent _ _ => true
  | .burstReadStart _ _ => true
  | .burstReturn _ _ _ _ _ => true
  | .bulkOpComplete _ _ _ _ => true
  | .mxlwStart _ => true
  | .mxlwComplete _ => true
  | .mxrunStart _ => true
  | .mxrunComplete _ => true
  | .mxzeroComplete _ => true
  | .matrixStall _ _ => true
  | .matrixStallTerminate _ _ => true
  | .collHopReceive _ _ _ => true
  | .collComplete _ => true
  | .collHopTimeout _ => true
  | .collAbort _ _ => true
  | .launchPacket _ => true
  | .launchStart _ => true
  | .barrierPacket _ => true
  | .signalPacket _ => true
  | .sliceBoundary => true
  | .qdoor _ _ => true
  | .groveAdmission _ => true
  | .evict _ _ => true
  | .evictionOverBound _ => true
  | .evictionAbandon _ => true
  | .groveRestore _ _ => true
  | .groveRetirement _ => true
  | .registerSweepDone _ => true
  | .spWrapSweepDone _ => true
  | .expiryScan _ => true
  | .sweeperRenew _ _ _ => true
  | .l2ClassRefresh _ _ _ => true
  | .watchdogExpiry _ _ => true
  | .rotatedImageRestore _ => true
  | .formationStarved _ _ => true
  | .pfrzKill _ => true
  | .pcalWrite _ _ => true
  | .trapDelivery _ => true
  | .flogcfgWrite _ _ => true
  | .flogtailWrite _ _ => true
  | .haltstage _ _ _ => true
  | .releaseStage _ _ _ => true
  | .listImages _ => true
  | .readimg _ _ _ => true
  | .writeimg _ _ _ => true
  | .debugStep _ _ => true
  | .resumeImage _ _ => true
  | .stalemap _ _ => true
  | .discardImage _ _ => true
  | .readsp _ _ _ => true
  | .demandReplay _ _ _ => true
  | .demandRefuse _ _ _ => true
  | .pageWalkComplete _ _ => true
  | .patrolScrub _ _ _ _ => true
  | .hostInboundWrite _ _ _ => true
  | .hostInboundRead _ _ _ _ _ => true
  | .outboundHostTimeout _ => true
  | .biSnoopResponse _ => true
  | .biSnoopTimeout _ => true
  | .hostLinkDown => true
  | .hotReset => true
  | .vfFlr _ => true
  | .pfFlr => true
  | .aerError _ _ _ _ => true
  | .spdmRequest _ => true
  | .flitReceive _ _ => true
  | .portRxTimeout _ => true
  | .laneLoss _ => true
  | .portRetrainDone _ _ => true
  | .flowGapTimeout _ => true
  | .breakMessage _ _ => true
  | .noRouteTimeout _ => true
  | .remoteResponseTimeout _ => true
  | .remoteAtomicRequest _ _ _ _ _ _ _ _ _ _ => true
  | .timingMessage _ => true
  | .timeSyncLost => true
  | .powerGood _ => true
  | .mgmtPackageReset _ => true
  | .powerSample _ _ => true
  | .clockRaise => true
  | .thermalReport _ _ => true
  | .thermalTrip _ _ _ => true
  | .standGate _ => true
  | .d3hotEntry => true
  | .loadObject _ => true
  | .registerExport _ => true
  | .unloadObject _ => true
  | .loaderDone _ _ _ => true
  | .mailboxAccessTable _ _ _ _ => true
  | .mailboxKeyLoad _ => true
  | .forensicChallenge => true
  | .forensicUnlock => true
  | .forensicRelock => true
  | .iftRequest => true
  | .iftScanDone _ _ => true
  | .checkpointComplete _ => true
  | .registerWrite _ _ _ => true
  | .invalidInstruction _ _ => true
  | .d3hotExit => true
  | .powerRemoved => true
  | .timeBaseExchange _ => true
  | .cxlMemRequest _ _ _ => true
  | _ => false

end Sys2Proof
end

