-- ==== Sys2Proof/Machine/Rep.lean ====
section
/-! DEFINITION. REP and the instruction it repeats (R68 to R70): one step performs one iteration. -/
namespace Sys2Proof.Machine

/-- The registers a stride code steps by (R68). -/
def strideOf (code : Nat) : Nat := if code == 3 then 4 else code
/-- REP's five strides by field (R68). -/
def repStride (sd sa sb sc se : Nat) : RegField → Nat
  | .d => strideOf sd
  | .a => strideOf sa
  | .b => strideOf sb
  | .c => strideOf sc
  | .e => strideOf se
/-- The words are of an instruction that REP may not repeat (R69), by form and opcode. -/
def repForbids (w : Word) : Bool :=
  let op := field w 2 10
  if formOf w == 0 then [0x0E, 0x0F, 0x10, 0x11, 0x12].contains (op % 256)
  else formOf w == 1 || decide (0x1C0 ≤ op ∧ op ≤ 0x1C9) || decide (0x200 ≤ op ∧ op ≤ 0x20C) || op == 0x336 || op == 0x33B
/-- The instruction of iteration j (R70). -/
def iterOf (i : Instr) (st : RegField → Nat) (j : Nat) : Instr := i.mapRegs fun f n => n + j * st f
/-- Iteration j has its pairs and quads aligned (R69, R58): the register numbers are judged modulo 4. -/
def repAligned (i : Instr) (st : RegField → Nat) (j : Nat) : Bool := (i.mapRegs fun f n => (n + j * st f) % 4).wf
/-- A stride is given for a field that the instruction does not use as a register (R69). -/
def strideUnused (i : Instr) (st : RegField → Nat) : Bool :=
  [RegField.d, .a, .b, .c, .e].any fun f => st f != 0 && i.mapRegs (fun h n => if h = f then n + 1 else n) == i
/-- The iterations still to be performed by an executing set (R69). -/
def repLeft (j count : Nat) : List Nat := (List.range (count - j)).map (j + ·)
/-- The least %repc of the executing set (R70). -/
def Ctx.minRepc (x : Ctx) : Nat := ((x.xs.map fun l => (x.co.lanes.find? l).elim 0 fun y => y.repc).min?).getD 0
/-- Set %repc and PC of lanes that have performed iteration j (R70). -/
def State.repMove (s : State) (x : Ctx) (j count : Nat) (after : Pc) (ls leaving : List Nat) : State :=
  s.onCohort x fun co => { co with lanes := co.lanes.map fun y =>
    (y.1, if ls.contains y.1 && !leaving.contains y.1 then
        if j + 1 = count then { y.2 with repc := 0, pc := after } else { y.2 with repc := j + 1 }
      else y.2) }
/-- Every lane has performed every iteration: %repc is 0 and the PC goes on (R70). -/
def State.repEnd (s : State) (x : Ctx) (after : Pc) : State :=
  s.onCohort x fun co => { co with lanes := co.lanes.map fun y => (y.1, if x.xs.contains y.1 then { y.2 with repc := 0, pc := after } else y.2) }
/-- An instruction refused only for its ordering, special register or CSR number (reasons 9 to 11), with a listed one in its place: its register fields are the same. -/
def lenient (ws : List Word) (r : Reject) : Option Instr :=
  let x := parseX (ws.getD 0 0) (ws.getD 1 0) (ws.getD 2 0) none
  let tries := match r with
    | .invalid .ordering => [RawX.words { x with m30 := false, m31 := false, sc := 0 }]
    | .invalid .specialRegister =>
      if formOf (ws.getD 0 0) == 0 then [[RawS.word { parseS (ws.getD 0 0) with a := 0 }]] else [RawX.words { x with a := 0 }, RawX.words { x with d := 32 }]
    | .invalid .csrNumber => [RawX.words { x with w2 := 0x400 }]
    | _ => []
  tries.findSome? fun ws => (decodeWords ws).toOption
/-- Reason 7 or 8 of a follower (R69, R390): a pair or quad that an iteration still to be performed misaligns; a stride that no register takes, or a follower that REP may not repeat. -/
def repReason (ws : List Word) (i : Option Instr) (st : RegField → Nat) (j count : Nat) : Option Nat :=
  if i.elim false fun i => (repLeft j count).any fun k => !repAligned i st k then some 7
  else if repForbids (ws.getD 0 0) || i.elim false fun i => strideUnused i st then some 8
  else none
/-- Rows 2 to 5 of R181 for the REP unit, over every iteration still to be performed (R69); of several conditions the lowest reason is recorded (R390). -/
def repUpfront (s : State) (x : Ctx) (ws : List Word) (st : RegField → Nat) (j count : Nat) : Except Flt Instr :=
  match decodeWords ws with
  | .error r => .error (invalidWords ws (min (rejectNumber r) ((repReason ws (lenient ws r) st j count).getD 11)))
  | .ok i =>
    match repReason ws (some i) st j count with
    | some n => .error (invalidWords ws n)
    | none =>
      match planOf i with
      | none => .error (invalidWords ws 8)
      | some p =>
        match p.bad s x with
        | some f => .error f
        | none =>
          if p.priv s x then .error { code := 0x0002, akind := 0, addr := 0, gen := 0, d0 := p.xop, d1 := 0 }
          else
            match ((repLeft j count).filterMap fun k => (planOf (iterOf i st k)).bind fun q => overAllot q.regs (min 512 x.co.allot)).min? with
            | some r => .error (rangeFault r x.co.allot x.repc)
            | none => .ok i
/-- One iteration: the lanes whose %repc is at most j execute the stepped instruction (R70). -/
def State.repIter (s : State) (x : Ctx) (i : Instr) (st : RegField → Nat) (j count : Nat) (after : Pc) : State :=
  match planOf (iterOf i st j) with
  | none => s
  | some p =>
    let xs := x.xs.filter fun l => (x.co.lanes.find? l).elim false fun y => decide (y.repc ≤ j)
    p.body s { x with xs := xs } x.pc fun s ls leaving => s.repMove x j count after ls leaving
/-- REP at issue (R68 to R70): `len` is its own length. -/
def State.repRun (s : State) (x : Ctx) (len count : Nat) (st : RegField → Nat) : State :=
  let va := (x.after len).toNat
  match s.fetchWord x.core x.part va with
  | .ok (w :: _) =>
    let n := lenWords w
    let after := x.after (len + 4 * n)
    let j := x.minRepc
    if count ≤ j then (s.keepLines x.core x.part va 1).repEnd x after
    else
      match s.fetchInstr x.core x.part va with
      | .ok ws =>
        let s := s.keepLines x.core x.part va n
        match repUpfront s x ws st j count with
        | .error f => s.trapAll x f 2
        | .ok i => s.repIter x i st j count after
      | r => s.fetchStop x r
  | r => s.fetchStop x r
/-- REP issued for the current cohort. -/
def State.execRep (s : State) (len count : Nat) (st : RegField → Nat) : State :=
  match s.ctx with
  | none => s
  | some x => ((s.repRun x len count st).issued x).stepDone x
/-- REP_S (R68, R172). -/
def execRepS (count sd sa sb : Nat) (s : State) : Res := .next (s.execRep 4 count (repStride sd sa sb 0 0))
/-- REP (R68). -/
def execRep (count sd sa sb sc se : Nat) (s : State) : Res := .next (s.execRep 12 count (repStride sd sa sb sc se))

end Sys2Proof.Machine
end

