-- ==== Sys2Proof/Machine/Stub.lean ====
section
/-! DEFINITION. What an issue does when there is no instruction to decode: an import stub (R342, R411), and words that are no instruction (R390). -/
namespace Sys2Proof.Machine

/-- An issue event of the current cohort (R24), with nothing done when there is none. -/
def State.atIssue (s : State) (f : State → Ctx → State) : State :=
  match s.ctx with
  | none => s
  | some x => ((f s x).issued x).stepDone x
/-- The code-verification fault of a stub (R400, R411). -/
def stubFault (va codeVa detail : Nat) : Flt := { code := 0x2001, akind := 1, addr := va, gen := 0, d0 := va - codeVa, d1 := detail }
/-- The stub is posted to the root of trust (R342). -/
def State.postStub (s : State) (part codeVa va : Nat) : State := { s with trust := { s.trust with posts := s.trust.posts ++ [(part, codeVa, va)] } }
/-- The issue at a stub (R342): its STATE decides; the read is an acquire at .dom. -/
def State.stubIssue (s : State) (x : Ctx) : State :=
  let va := x.pc.toNat
  let codeVa := (s.launches.find? x.co.launch).elim 0 fun la => la.pkt.codeVa
  match s.gCheck x.core x.part va 8 4 .read with
  | .miss => s.parkAll x (some (s.missEv x.core x.part va))
  | .bad f => s.trapAll x f 2
  | .ok pa leaf =>
    match s.poisonAt pa 16 with
    | some src => s.trapAll x { code := 0x1006, akind := 1, addr := va, gen := 0, d0 := src, d1 := 0xFFFF } 2
    | none =>
      if s.tagFails leaf pa 16 then s.trapAll x { code := 0x1007, akind := 1, addr := va, gen := 0, d0 := fld leaf 63 58, d1 := pa % 2 ^ 52 / 64 } 2
      else
        let b := s.readAs leaf pa 16
        let s := s.acquire x.core .dom
        if getLe b 8 4 == 2 then s.setPcs x x.xs (BitVec.ofNat 48 (getLe b 0 8))
        else if getLe b 8 4 == 3 then s.trapAll x (stubFault va codeVa (getLe b 12 4)) 2
        else (if getLe b 8 4 == 0 then s.postStub x.part codeVa va else s).parkAll x (some (.codeReady pa (fld leaf 63 58)))
/-- The cohort at issue has its PC at an import stub of its launch's code object. -/
def State.atStub (s : State) (x : Ctx) : Bool :=
  (s.launches.find? x.co.launch).elim false fun la => s.isStub x.core x.part la.pkt.codeVa x.pc
/-- STUB_ENTRY (R342). -/
def execStubEntry (s : State) : Res := .next (s.atIssue fun s x => if s.atStub x then s.stubIssue x else s)
/-- INVALID_INSTRUCTION (R180, R390): words that reached issue raise the invalid-instruction trap. -/
def execInvalidInstruction (ws : List Word) (reason : Nat) (s : State) : Res :=
  .next (s.atIssue fun s x => s.trapAll x (invalidWords ws reason) 2)

end Sys2Proof.Machine
end

