-- ==== Sys2Proof/Machine/Sweep.lean ====
section
/-! DEFINITION. What runs by itself on a core: generation sweeps, the expiry scan, the sweeper, the watchdog, the restore of rotated images, the delivery of traps (R66, R126, R130 to R133, R371, R374, R375, R409, R410). -/
namespace Sys2Proof.Machine

/-! Sweeps (R66, R133, R410) -/

/-- REGISTER_SWEEP_DONE (R66): the counter restarts at 1; every slot that no resident cohort owns holds generation 0 and data 0. -/
def execRegisterSweepDone (core : Nat) (s : State) : Res :=
  .next (if (s.core core).regSweep then s.modCore core fun k =>
    { k with regSweep := false, gen := 1, regFile := k.regFile.filter fun x => k.slots.any fun c => c.2.rslots.contains x.1 } else s)
/-- The allocation of a core that contains a physical granule of a buffer. -/
def State.ownerOf (s : State) (core : Nat) (b : Buf) (n : Nat) : Option Alloc :=
  (s.core core).allocs.find? fun a => a.buf == b &&
    (s.groves.find? a.grove).elim false fun g => decide (((g.win b).1 + a.off) / 32 ≤ n ∧ n < ((g.win b).1 + a.off + a.size) / 32)
/-- The granules of a buffer that the wrap sweep leaves (R133). -/
def State.kept (s : State) (core : Nat) (b : Buf) : NMap Granule :=
  ((s.core core).sp b).filter fun x => (s.ownerOf core b x.1).elim false fun a => a.gen == x.2.gen
/-- SP_WRAP_SWEEP_DONE (R133): every granule without the current generation of a live allocation has generation and data 0; the counter restarts at 1 and the strands that waited go on. DESIGN CHOICE (log 92): a swept granule takes WTICK 0 and EXP 0. -/
def execSpWrapSweepDone (core : Nat) (s : State) : Res :=
  .next <|
    if (s.core core).spSweep then
      (s.modCore core fun k => { k with spSweep := false, sweptAt := s.tick, spGen := 1, spW := s.kept core .w, spA := s.kept core .a, spC := s.kept core .c }).firePlain core fun w => w == .sweepDone
    else s
/-- The expiry scan of a core for the n-th multiple of 512 µs, made at a moment not long after it (R126): ages are those of the multiple. -/
def Core.scan (k : Core) (now n : Nat) : Core :=
  let late := (now - n * 512000) / 4000
  let mark := fun (x : Nat × Granule) => (x.1, if 256 + late ≤ (now / 4000 % 512 + 512 - x.2.wtick) % 512 then { x.2 with exp := true } else x.2)
  { k with scanTick := now, spW := k.spW.map mark, spA := k.spA.map mark, spC := k.spC.map mark }
/-- EXPIRY_SCAN (R126): at each multiple of 512 µs, granules of age 256 or more are marked; ages are those of that moment. -/
def execExpiryScan (core : Nat) (s : State) : Res :=
  .next <|
    let k := s.core core
    if s.tick / 512000 ≤ k.scanTick / 512000 then s else s.setCore core (k.scan s.tick (s.tick / 512000))
/-- The scans of a core that fall due while time goes from `now` to `t` (R126): the one not yet made for the last multiple of 512 µs, and those of the multiples up to t, of which four reach every age. -/
def Core.scans (k : Core) (now t : Nat) : Core :=
  let n := now / 512000
  if t / 512000 ≤ n then k
  else
    let between := ((List.range 4).map (t / 512000 - 3 + ·)).filter fun i => decide (n < i ∧ i ≤ t / 512000)
    between.foldl (fun k i => k.scan (i * 512000) i) (if k.scanTick / 512000 < n then k.scan now n else k)
/-- No multiple of 512 µs goes by without its scan (R126): those up to `t` have been made before time reaches it. -/
def State.scansBefore (s : State) (t : Nat) : State :=
  { s with cores := s.cores.map fun x =>
      let k := x.2.scans s.tick t
      (x.1, { x.2 with scanTick := k.scanTick, spW := k.spW, spA := k.spA, spC := k.spC }) }

/-! The sweeper (R130 to R132) -/

/-- A granule holds a barrier object or a future with a parked waiter (R131). -/
def State.awaited (s : State) (core : Nat) (b : Buf) (n : Nat) : Bool :=
  b == .a && (s.core core).records.vals.any fun r =>
    match r.wait, (s.strands.find? r.strand).bind fun t => s.groves.find? t.grove with
    | some (.barrier off _), some g => (g.win .a).1 / 32 + off / 32 == n
    | some (.futA off _), some g => (g.win .a).1 / 32 + off / 32 == n
    | _, _ => false
/-- A grove is held by a debug halt, or kept resident across pre-emption (R131). -/
def State.groveHeld (s : State) (key : Nat) : Bool :=
  match s.groves.find? key with
  | none => false
  | some g =>
    g.saved.elim false (fun v => v.resident) ||
      (s.launches.find? g.launch).elim false fun la => !la.held.isEmpty ||
        (s.part la.part).halted.any fun h => h.2.cohort.lanes.any fun l => (s.strands.find? l.2.strand).elim false fun t => t.grove == key
/-- SWEEPER_RENEW (R131): a granule of an auto-renewed allocation, or one counted as such, is renewed once its age reaches half its class. -/
def execSweeperRenew (core : Nat) (buf : Buf) (gran : Nat) (s : State) : Res :=
  .next <|
    match s.ownerOf core buf gran with
    | none => s
    | some a =>
      let q := (s.core core).gran buf gran
      if (a.ar || s.awaited core buf gran || s.groveHeld a.grove) && decide (a.cls.ticks / 2 ≤ (s.T + 512 - q.wtick) % 512) then
        s.modCore core fun k => k.setGran buf gran (renewed s.T a q)
      else s
/-- The sweeper passes a granule that it renews within one pass, less than 5 ticks, of half its class's ticks (R131): one that this would bring past that by the time `t` has been renewed on the way, with the age tick of `t` (DESIGN CHOICE, log 92: the rule bounds the moment of a renewal and leaves it open within that), and no scan on the way has marked it. `s0` is the machine before the scans. -/
def State.renewalsBefore (s s0 : State) (t : Nat) : State :=
  { s with cores := s.cores.map fun x =>
      let keep := fun (b : Buf) (g : Nat × Granule) =>
        (g.1, match s.ownerOf x.1 b g.1 with
          | none => g.2
          | some a =>
            let q := (s0.core x.1).gran b g.1
            if q.gen == a.gen && ageOk s0.T q a.cls && decide (s0.tick / 4000 + a.cls.ticks / 2 + 4 ≤ t / 4000 + (s0.T + 512 - q.wtick) % 512) &&
                (a.ar || s.awaited x.1 b g.1 || s.groveHeld a.grove) then
              { q with wtick := t / 4000 % 512, refreshed := t / 4000 % 512 }
            else g.2)
      let kept := fun (b : Buf) => if x.2.allocs.isEmpty || t / 4000 == s.tick / 4000 then x.2.sp b else (x.2.sp b).map (keep b)
      (x.1, { x.2 with spW := kept .w, spA := kept .a, spC := kept .c }) }
/-- L2_CLASS_REFRESH (R132): while %lcmax is 1, a live granule of class L2 is refreshed in place; its lifetime does not change. -/
def execL2ClassRefresh (core : Nat) (buf : Buf) (gran : Nat) (s : State) : Res :=
  .next <|
    match s.ownerOf core buf gran with
    | none => s
    | some a =>
      let q := (s.core core).gran buf gran
      if s.lcmax (dieOf core) == 1 && a.cls == .l2 && q.gen == a.gen && ageOk s.T q a.cls && decide (64 ≤ (s.T + 512 - q.refreshed) % 512) then
        s.modCore core fun k => k.setGran buf gran { q with refreshed := s.T }
      else s

/-! The watchdog (R409) -/

/-- The image of a rotated cohort (R409), with the oldest record of each bin that is a drain candidate now. -/
def State.rotated (s : State) (core : Nat) (co : Cohort) (pc : Pc) : Stopped :=
  { co.stop s.tick core [] 0 pc 0 with bins := (s.candidates core (s.idleSlot core)).filterMap fun b => b.2.recs.head?.map Prod.fst }
/-- Rotate a cohort: its image waits to be restored (R409). -/
def State.rotate (s : State) (core sl part : Nat) (co : Cohort) (pc : Pc) : State :=
  let st := s.rotated core co pc
  let s := s.modCore core fun k => k.vacate sl
  if co.lostReg.isSome then s.stateLost core co.launch 5 (co.lostReg.getD 0) else
  s.modPart part fun q => { q with rotated := q.rotated ++ [st], xstat := putFld q.xstat 15 0 (min 0xFFFF (fld q.xstat 15 0 + 1)) }
/-- WATCHDOG_EXPIRY (R409): a segment reached LIMIT. A frozen partition's cohorts keep their slots (R405). -/
def execWatchdogExpiry (core slot : Nat) (s : State) : Res :=
  .next <|
    match s.cohort? core slot with
    | none => s
    | some co =>
      let part := (s.launches.find? co.launch).elim 0 fun la => la.part
      let lim := fld (s.part part).wdog 31 8
      let us := (s.tick - co.segTick) / 1000
      let pc := (co.lanes.map fun x => x.2.pc).foldl (fun a p => if p < a then p else a) (BitVec.allOnes 48)
      let strand := (co.lanes.head?.map fun x => x.2.strand).getD 0
      if lim == 0 || decide (us < lim) || co.wdogSeen || (s.part part).frozen then s
      else
        let rot := fld (s.part part).wdog 1 0 == 1
        if rot && !s.calRoom part (s.imageRoom (s.rotated core co pc)) then s.freeze core part strand pc
        else
          let s := s.logRec { (s.strandRec strand 3 0 core 0 pc { code := 0x2009, akind := 0, addr := 0, gen := 0, d0 := (s.tick - co.born) / 1000, d1 := rot.toNat }) with strand := 0 }
          if rot then s.rotate core slot part co pc else s.setCohort core slot { co with wdogSeen := true }
/-- A rotated image can be restored: a slot is free and every bin that was a drain candidate at its rotation has drained (R409); nothing is owed to it and its groves are placed. -/
def State.canReturn (s : State) (st : Stopped) : Bool :=
  let k := s.core st.core
  k.freeSlot.isSome && !k.regSweep && !s.frozenL st.cohort.launch && s.seatable st &&
    s.cohortFits st.core st.cohort.launch (st.cohort.kind == .handler) st.cohort.allot && !(k.bins.any fun b => b.recs.any fun x => st.bins.contains x.1)
/-- ROTATED_IMAGE_RESTORE (R409, R75). -/
def execRotatedImageRestore (part : Nat) (s : State) : Res :=
  .next <|
    match (s.part part).rotated.find? fun st => s.canReturn st with
    | none => s
    | some st => (s.modPart part fun q => { q with rotated := q.rotated.erase st }).resume st

/-! Trap delivery (R371, R374, R375) -/

/-- Every result owed to the image has landed, and its groves are placed (R371). -/
def State.imageFinal (s : State) (st : Stopped) : Bool := s.seatable st
/-- The next image of a copy to be delivered: its frame is free and the image final (R374, R458). -/
def State.deliverable (s : State) (la : Launch) (trailing : Bool) : Option Stopped :=
  if la.frames.any fun f => f.trailing == trailing && !f.restored then none
  else (la.waiting.find? fun st => s.imgTrailing st == trailing).bind fun st => if s.imageFinal st then some st else none
/-- TRAP_DELIVERY (R375). -/
def execTrapDelivery (launch : Nat) (s : State) : Res :=
  .next <|
    match s.launches.find? launch with
    | none => s
    | some la =>
      if s.frozenL launch || (s.deliverable la false).isNone && (s.deliverable la true).isNone then s
      else
        match (s.deliverable la false).orElse fun _ => s.deliverable la true with
        | some st => s.deliver launch st
        | none => s

end Sys2Proof.Machine
end

