-- ==== Sys2Proof/Machine/Dispatch.lean ====
section
/-! DEFINITION. The one dispatch: one arm per constructor of Instr. -/
namespace Sys2Proof.Machine

def exec (i : Instr) (s : State) : Host.Outcome State Fault Refusal :=
  match i with
  | .nopS g => Sys2Proof.Machine.execNopS g s
  | .movS g d a => Sys2Proof.Machine.execMovS g d a s
  | .iaddS g d a b => Sys2Proof.Machine.execIaddS g d a b s
  | .isubS g d a b => Sys2Proof.Machine.execIsubS g d a b s
  | .imulS g d a b => Sys2Proof.Machine.execImulS g d a b s
  | .andS g d a b => Sys2Proof.Machine.execAndS g d a b s
  | .orS g d a b => Sys2Proof.Machine.execOrS g d a b s
  | .xorS g d a b => Sys2Proof.Machine.execXorS g d a b s
  | .shlS g d a b => Sys2Proof.Machine.execShlS g d a b s
  | .shrS g d a b => Sys2Proof.Machine.execShrS g d a b s
  | .icmpS g pd a b cc u => Sys2Proof.Machine.execIcmpS g pd a b cc u s
  | .faddS g d a b => Sys2Proof.Machine.execFaddS g d a b s
  | .fsubS g d a b => Sys2Proof.Machine.execFsubS g d a b s
  | .fmulS g d a b => Sys2Proof.Machine.execFmulS g d a b s
  | .braS g off => Sys2Proof.Machine.execBraS g off s
  | .exitS g => Sys2Proof.Machine.execExitS g s
  | .repS count sd sa sb => Sys2Proof.Machine.execRepS count sd sa sb s
  | .waittS g all mask => Sys2Proof.Machine.execWaittS g all mask s
  | .waitcS g cls n => Sys2Proof.Machine.execWaitcS g cls n s
  | .ldS g d a off => Sys2Proof.Machine.execLdS g d a off s
  | .stS g d a off => Sys2Proof.Machine.execStS g d a off s
  | .aldS g d a off => Sys2Proof.Machine.execAldS g d a off s
  | .astS g d a off => Sys2Proof.Machine.execAstS g d a off s
  | .movsS g d x => Sys2Proof.Machine.execMovsS g d x s
  | .pformPair g u v => Sys2Proof.Machine.execPformPair g u v s
  | .nop g => Sys2Proof.Machine.execNop g s
  | .mov g d a => Sys2Proof.Machine.execMov g d a s
  | .movi g d imm => Sys2Proof.Machine.execMovi g d imm s
  | .moviLit g d lit => Sys2Proof.Machine.execMoviLit g d lit s
  | .iadd g d a b sat u => Sys2Proof.Machine.execIadd g d a b sat u s
  | .isub g d a b sat u => Sys2Proof.Machine.execIsub g d a b sat u s
  | .imul g d a b => Sys2Proof.Machine.execImul g d a b s
  | .imulh g d a b u => Sys2Proof.Machine.execImulh g d a b u s
  | .imad g d a b c => Sys2Proof.Machine.execImad g d a b c s
  | .imin g d a b u => Sys2Proof.Machine.execImin g d a b u s
  | .imax g d a b u => Sys2Proof.Machine.execImax g d a b u s
  | .iabs g d a sat => Sys2Proof.Machine.execIabs g d a sat s
  | .ineg g d a sat => Sys2Proof.Machine.execIneg g d a sat s
  | .and g d a b => Sys2Proof.Machine.execAnd g d a b s
  | .or g d a b => Sys2Proof.Machine.execOr g d a b s
  | .xor g d a b => Sys2Proof.Machine.execXor g d a b s
  | .andn g d a b => Sys2Proof.Machine.execAndn g d a b s
  | .not g d a => Sys2Proof.Machine.execNot g d a s
  | .shl g d a b => Sys2Proof.Machine.execShl g d a b s
  | .shr g d a b => Sys2Proof.Machine.execShr g d a b s
  | .sar g d a b => Sys2Proof.Machine.execSar g d a b s
  | .popc g d a => Sys2Proof.Machine.execPopc g d a s
  | .clz g d a => Sys2Proof.Machine.execClz g d a s
  | .ctz g d a => Sys2Proof.Machine.execCtz g d a s
  | .brev g d a => Sys2Proof.Machine.execBrev g d a s
  | .bfx g d a b u => Sys2Proof.Machine.execBfx g d a b u s
  | .bfi g d a b c => Sys2Proof.Machine.execBfi g d a b c s
  | .sel g d a b pc => Sys2Proof.Machine.execSel g d a b pc s
  | .iadd64 g d a b => Sys2Proof.Machine.execIadd64 g d a b s
  | .iadd64Lit g d a lit => Sys2Proof.Machine.execIadd64Lit g d a lit s
  | .isub64 g d a b => Sys2Proof.Machine.execIsub64 g d a b s
  | .isub64Lit g d a lit => Sys2Proof.Machine.execIsub64Lit g d a lit s
  | .imul64 g d a b => Sys2Proof.Machine.execImul64 g d a b s
  | .imul64Lit g d a lit => Sys2Proof.Machine.execImul64Lit g d a lit s
  | .shl64 g d a b => Sys2Proof.Machine.execShl64 g d a b s
  | .shr64 g d a b sg => Sys2Proof.Machine.execShr64 g d a b sg s
  | .lea g d a b u sh => Sys2Proof.Machine.execLea g d a b u sh s
  | .imulw g d a b u => Sys2Proof.Machine.execImulw g d a b u s
  | .imadw g d a b c u => Sys2Proof.Machine.execImadw g d a b c u s
  | .icmp g pd a b cc u => Sys2Proof.Machine.execIcmp g pd a b cc u s
  | .icmp64 g pd a b cc u => Sys2Proof.Machine.execIcmp64 g pd a b cc u s
  | .icmp64Lit g pd a cc u lit => Sys2Proof.Machine.execIcmp64Lit g pd a cc u lit s
  | .fcmp g pd a b cc un => Sys2Proof.Machine.execFcmp g pd a b cc un s
  | .fclass g d a fmt laneIx => Sys2Proof.Machine.execFclass g d a fmt laneIx s
  | .pand g pd pa pb => Sys2Proof.Machine.execPand g pd pa pb s
  | .por g pd pa pb => Sys2Proof.Machine.execPor g pd pa pb s
  | .pxor g pd pa pb => Sys2Proof.Machine.execPxor g pd pa pb s
  | .pnot g pd pa => Sys2Proof.Machine.execPnot g pd pa s
  | .pmov g f => Sys2Proof.Machine.execPmov g f s
  | .pset g pd v => Sys2Proof.Machine.execPset g pd v s
  | .fadd g d a b m => Sys2Proof.Machine.execFadd g d a b m s
  | .fsub g d a b m => Sys2Proof.Machine.execFsub g d a b m s
  | .fmul g d a b m => Sys2Proof.Machine.execFmul g d a b m s
  | .ffma g d a b c m => Sys2Proof.Machine.execFfma g d a b c m s
  | .fmin g d a b => Sys2Proof.Machine.execFmin g d a b s
  | .fmax g d a b => Sys2Proof.Machine.execFmax g d a b s
  | .fabs g d a => Sys2Proof.Machine.execFabs g d a s
  | .fneg g d a => Sys2Proof.Machine.execFneg g d a s
  | .frcp g d a => Sys2Proof.Machine.execFrcp g d a s
  | .frsq g d a => Sys2Proof.Machine.execFrsq g d a s
  | .fsqrt g d a m => Sys2Proof.Machine.execFsqrt g d a m s
  | .fdiv g d a b m => Sys2Proof.Machine.execFdiv g d a b m s
  | .fexp2 g d a => Sys2Proof.Machine.execFexp2 g d a s
  | .flog2 g d a => Sys2Proof.Machine.execFlog2 g d a s
  | .fsin g d a => Sys2Proof.Machine.execFsin g d a s
  | .fcos g d a => Sys2Proof.Machine.execFcos g d a s
  | .ftanh g d a => Sys2Proof.Machine.execFtanh g d a s
  | .frint g d a m => Sys2Proof.Machine.execFrint g d a m s
  | .hadd2 g d a b m h => Sys2Proof.Machine.execHadd2 g d a b m h s
  | .hmul2 g d a b m h => Sys2Proof.Machine.execHmul2 g d a b m h s
  | .hfma2 g d a b c m h => Sys2Proof.Machine.execHfma2 g d a b c m h s
  | .hmin2 g d a b h => Sys2Proof.Machine.execHmin2 g d a b h s
  | .hmax2 g d a b h => Sys2Proof.Machine.execHmax2 g d a b h s
  | .dadd g d a b m => Sys2Proof.Machine.execDadd g d a b m s
  | .daddLit g d a m lit => Sys2Proof.Machine.execDaddLit g d a m lit s
  | .dmul g d a b m => Sys2Proof.Machine.execDmul g d a b m s
  | .dmulLit g d a m lit => Sys2Proof.Machine.execDmulLit g d a m lit s
  | .dfma g d a b c m => Sys2Proof.Machine.execDfma g d a b c m s
  | .dfmaLit g d a c m lit => Sys2Proof.Machine.execDfmaLit g d a c m lit s
  | .fscale g d a b m => Sys2Proof.Machine.execFscale g d a b m s
  | .cvt g d a b m sat src dst => Sys2Proof.Machine.execCvt g d a b m sat src dst s
  | .cvtpk g d a b c e m sat dst j => Sys2Proof.Machine.execCvtpk g d a b c e m sat dst j s
  | .cvtex g d a fmt laneIx => Sys2Proof.Machine.execCvtex g d a fmt laneIx s
  | .qblk g d e a b m sat el bsz scf => Sys2Proof.Machine.execQblk g d e a b m sat el bsz scf s
  | .dqblk g d a e el bsz scf => Sys2Proof.Machine.execDqblk g d a e el bsz scf s
  | .vdot4 g d a b c ua ub => Sys2Proof.Machine.execVdot4 g d a b c ua ub s
  | .vdotb g d a b c e ea eb bsz scf => Sys2Proof.Machine.execVdotb g d a b c e ea eb bsz scf s
  | .bppack g d a => Sys2Proof.Machine.execBppack g d a s
  | .bpunpk g d a k mid => Sys2Proof.Machine.execBpunpk g d a k mid s
  | .vote g mode d pa => Sys2Proof.Machine.execVote g mode d pa s
  | .shfl g d a b mode => Sys2Proof.Machine.execShfl g d a b mode s
  | .red g d a op => Sys2Proof.Machine.execRed g d a op s
  | .scan g d a op excl => Sys2Proof.Machine.execScan g d a op excl s
  | .elect g pd => Sys2Proof.Machine.execElect g pd s
  | .matchAny g d a w => Sys2Proof.Machine.execMatchAny g d a w s
  | .bra g imm => Sys2Proof.Machine.execBra g imm s
  | .brx g a => Sys2Proof.Machine.execBrx g a s
  | .call g d imm => Sys2Proof.Machine.execCall g d imm s
  | .callx g d a => Sys2Proof.Machine.execCallx g d a s
  | .ret g a => Sys2Proof.Machine.execRet g a s
  | .exit g => Sys2Proof.Machine.execExit g s
  | .trap g n => Sys2Proof.Machine.execTrap g n s
  | .brk g n => Sys2Proof.Machine.execBrk g n s
  | .yield g => Sys2Proof.Machine.execYield g s
  | .rep count sd sa sb sc se => Sys2Proof.Machine.execRep count sd sa sb sc se s
  | .waitt g all a => Sys2Proof.Machine.execWaitt g all a s
  | .waitv g a b => Sys2Proof.Machine.execWaitv g a b s
  | .waitc g cls n => Sys2Proof.Machine.execWaitc g cls n s
  | .ffr g pc d a => Sys2Proof.Machine.execFfr g pc d a s
  | .tclr g a => Sys2Proof.Machine.execTclr g a s
  | .spawn g imm a n => Sys2Proof.Machine.execSpawn g imm a n s
  | .barinit g a imm b => Sys2Proof.Machine.execBarinit g a imm b s
  | .bararr g d a imm => Sys2Proof.Machine.execBararr g d a imm s
  | .barwait g a imm b => Sys2Proof.Machine.execBarwait g a imm b s
  | .fwait g d a imm cellA sc => Sys2Proof.Machine.execFwait g d a imm cellA sc s
  | .ffill g d a imm b cellA sc => Sys2Proof.Machine.execFfill g d a imm b cellA sc s
  | .freset g a imm cellA sc => Sys2Proof.Machine.execFreset g a imm cellA sc s
  | .parkw g a imm b c cc w ord sc => Sys2Proof.Machine.execParkw g a imm b c cc w ord sc s
  | .ld g d a imm size sgn ord sc hint => Sys2Proof.Machine.execLd g d a imm size sgn ord sc hint s
  | .st g d a imm size ord sc hint => Sys2Proof.Machine.execSt g d a imm size ord sc hint s
  | .ldu g d a imm size sgn ord sc => Sys2Proof.Machine.execLdu g d a imm size sgn ord sc s
  | .atom g d a imm b op w rt ord sc => Sys2Proof.Machine.execAtom g d a imm b op w rt ord sc s
  | .atomcas g d a imm b c w rt ord sc => Sys2Proof.Machine.execAtomcas g d a imm b c w rt ord sc s
  | .atomn g a imm b op w rt ord sc => Sys2Proof.Machine.execAtomn g a imm b op w rt ord sc s
  | .fence g kind sc => Sys2Proof.Machine.execFence g kind sc s
  | .wld g d a imm size sgn => Sys2Proof.Machine.execWld g d a imm size sgn s
  | .wst g d a imm size => Sys2Proof.Machine.execWst g d a imm size s
  | .ald g d a imm size sgn => Sys2Proof.Machine.execAld g d a imm size sgn s
  | .ast g d a imm size => Sys2Proof.Machine.execAst g d a imm size s
  | .cld g d a imm size sgn => Sys2Proof.Machine.execCld g d a imm size sgn s
  | .cst g d a imm size => Sys2Proof.Machine.execCst g d a imm size s
  | .ldc g d imm size => Sys2Proof.Machine.execLdc g d imm size s
  | .pref g a imm l2 => Sys2Proof.Machine.execPref g a imm l2 s
  | .spalloc g d b buf lc ar strict => Sys2Proof.Machine.execSpalloc g d b buf lc ar strict s
  | .spfree g a buf => Sys2Proof.Machine.execSpfree g a buf s
  | .sprenew g a b buf => Sys2Proof.Machine.execSprenew g a b buf s
  | .spstat g d a buf => Sys2Proof.Machine.execSpstat g d a buf s
  | .spclear g a buf => Sys2Proof.Machine.execSpclear g a buf s
  | .bread g pd a b tag => Sys2Proof.Machine.execBread g pd a b tag s
  | .bwrite g pd a tag sc => Sys2Proof.Machine.execBwrite g pd a tag sc s
  | .bcopy g pd a tag sc => Sys2Proof.Machine.execBcopy g pd a tag sc s
  | .bfill g pd a tag sc => Sys2Proof.Machine.execBfill g pd a tag sc s
  | .bdigest g pd a tag => Sys2Proof.Machine.execBdigest g pd a tag s
  | .bstat g d a => Sys2Proof.Machine.execBstat g d a s
  | .mxlw g pd a => Sys2Proof.Machine.execMxlw g pd a s
  | .mxrun g pd a => Sys2Proof.Machine.execMxrun g pd a s
  | .mxzero g pd a => Sys2Proof.Machine.execMxzero g pd a s
  | .mxver g d a => Sys2Proof.Machine.execMxver g d a s
  | .mxhnd g d a b => Sys2Proof.Machine.execMxhnd g d a b s
  | .mxrel g a => Sys2Proof.Machine.execMxrel g a s
  | .coll g pd a tag => Sys2Proof.Machine.execColl g pd a tag s
  | .movs g d x => Sys2Proof.Machine.execMovs g d x s
  | .movsw g x a => Sys2Proof.Machine.execMovsw g x a s
  | .regset g d n b => Sys2Proof.Machine.execRegset g d n b s
  | .shp g d a => Sys2Proof.Machine.execShp g d a s
  | .uni g d a => Sys2Proof.Machine.execUni g d a s
  | .ckpt g => Sys2Proof.Machine.execCkpt g s
  | .tret g => Sys2Proof.Machine.execTret g s
  | .cinv g k a imm b => Sys2Proof.Machine.execCinv g k a imm b s
  | .tlbinv g k sc => Sys2Proof.Machine.execTlbinv g k sc s
  | .csrr g d csr => Sys2Proof.Machine.execCsrr g d csr s
  | .csrw g csr a => Sys2Proof.Machine.execCsrw g csr a s
  | .halt g => Sys2Proof.Machine.execHalt g s
  | .stubEntry => Sys2Proof.Machine.execStubEntry s
  | .stubBind => Sys2Proof.Machine.execStubBind s
  | .parkmapFetchDone core pc => Sys2Proof.Machine.execParkmapFetchDone core pc s
  | .resultLanding id data status => Sys2Proof.Machine.execResultLanding id data status s
  | .storePerformed id => Sys2Proof.Machine.execStorePerformed id s
  | .atomicAtHome id data => Sys2Proof.Machine.execAtomicAtHome id data s
  | .sprenewComplete id => Sys2Proof.Machine.execSprenewComplete id s
  | .cinvComplete id => Sys2Proof.Machine.execCinvComplete id s
  | .tlbinvComplete id => Sys2Proof.Machine.execTlbinvComplete id s
  | .cohortFormation core idle => Sys2Proof.Machine.execCohortFormation core idle s
  | .drainAgeExpiry core n => Sys2Proof.Machine.execDrainAgeExpiry core n s
  | .cohortAgePromotion core slot => Sys2Proof.Machine.execCohortAgePromotion core slot s
  | .spillReadback core rid => Sys2Proof.Machine.execSpillReadback core rid s
  | .recordForward core rid => Sys2Proof.Machine.execRecordForward core rid s
  | .schedulerForward core rid dest => Sys2Proof.Machine.execSchedulerForward core rid dest s
  | .waitEventFire core rid => Sys2Proof.Machine.execWaitEventFire core rid s
  | .l2WatchEvent pa data => Sys2Proof.Machine.execL2WatchEvent pa data s
  | .burstReadStart core id => Sys2Proof.Machine.execBurstReadStart core id s
  | .burstReturn core id seq data status => Sys2Proof.Machine.execBurstReturn core id seq data status s
  | .bulkOpComplete core id data status => Sys2Proof.Machine.execBulkOpComplete core id data status s
  | .mxlwStart core => Sys2Proof.Machine.execMxlwStart core s
  | .mxlwComplete core => Sys2Proof.Machine.execMxlwComplete core s
  | .mxrunStart core => Sys2Proof.Machine.execMxrunStart core s
  | .mxrunComplete core => Sys2Proof.Machine.execMxrunComplete core s
  | .mxzeroComplete core => Sys2Proof.Machine.execMxzeroComplete core s
  | .matrixStall core id => Sys2Proof.Machine.execMatrixStall core id s
  | .matrixStallTerminate core id => Sys2Proof.Machine.execMatrixStallTerminate core id s
  | .collHopReceive id rank data => Sys2Proof.Machine.execCollHopReceive id rank data s
  | .collComplete id => Sys2Proof.Machine.execCollComplete id s
  | .collHopTimeout id => Sys2Proof.Machine.execCollHopTimeout id s
  | .collAbort comm reason => Sys2Proof.Machine.execCollAbort comm reason s
  | .launchPacket slot => Sys2Proof.Machine.execLaunchPacket slot s
  | .launchStart slot => Sys2Proof.Machine.execLaunchStart slot s
  | .barrierPacket slot => Sys2Proof.Machine.execBarrierPacket slot s
  | .signalPacket slot => Sys2Proof.Machine.execSignalPacket slot s
  | .sliceBoundary => Sys2Proof.Machine.execSliceBoundary s
  | .qdoor part qid => Sys2Proof.Machine.execQdoor part qid s
  | .groveAdmission launch => Sys2Proof.Machine.execGroveAdmission launch s
  | .evict launch step => Sys2Proof.Machine.execEvict launch step s
  | .evictionOverBound grove => Sys2Proof.Machine.execEvictionOverBound grove s
  | .evictionAbandon grove => Sys2Proof.Machine.execEvictionAbandon grove s
  | .groveRestore grove core => Sys2Proof.Machine.execGroveRestore grove core s
  | .groveRetirement grove => Sys2Proof.Machine.execGroveRetirement grove s
  | .registerSweepDone core => Sys2Proof.Machine.execRegisterSweepDone core s
  | .spWrapSweepDone core => Sys2Proof.Machine.execSpWrapSweepDone core s
  | .expiryScan core => Sys2Proof.Machine.execExpiryScan core s
  | .sweeperRenew core buf gran => Sys2Proof.Machine.execSweeperRenew core buf gran s
  | .l2ClassRefresh core buf gran => Sys2Proof.Machine.execL2ClassRefresh core buf gran s
  | .watchdogExpiry core slot => Sys2Proof.Machine.execWatchdogExpiry core slot s
  | .rotatedImageRestore part => Sys2Proof.Machine.execRotatedImageRestore part s
  | .formationStarved core rid => Sys2Proof.Machine.execFormationStarved core rid s
  | .pfrzKill part => Sys2Proof.Machine.execPfrzKill part s
  | .pcalWrite part v => Sys2Proof.Machine.execPcalWrite part v s
  | .trapDelivery launch => Sys2Proof.Machine.execTrapDelivery launch s
  | .flogcfgWrite part v => Sys2Proof.Machine.execFlogcfgWrite part v s
  | .flogtailWrite part v => Sys2Proof.Machine.execFlogtailWrite part v s
  | .haltstage part launch arg => Sys2Proof.Machine.execHaltstage part launch arg s
  | .releaseStage part launch arg => Sys2Proof.Machine.execReleaseStage part launch arg s
  | .listImages part => Sys2Proof.Machine.execListImages part s
  | .readimg part hid off => Sys2Proof.Machine.execReadimg part hid off s
  | .writeimg part hid off => Sys2Proof.Machine.execWriteimg part hid off s
  | .debugStep part hid => Sys2Proof.Machine.execDebugStep part hid s
  | .resumeImage part hid => Sys2Proof.Machine.execResumeImage part hid s
  | .stalemap part hid => Sys2Proof.Machine.execStalemap part hid s
  | .discardImage part hid => Sys2Proof.Machine.execDiscardImage part hid s
  | .readsp part launch arg => Sys2Proof.Machine.execReadsp part launch arg s
  | .demandReplay part die n => Sys2Proof.Machine.execDemandReplay part die n s
  | .demandRefuse part die n => Sys2Proof.Machine.execDemandRefuse part die n s
  | .pageWalkComplete die n => Sys2Proof.Machine.execPageWalkComplete die n s
  | .patrolScrub src ue loc line => Sys2Proof.Machine.execPatrolScrub src ue loc line s
  | .hostInboundWrite f off data => Sys2Proof.Machine.execHostInboundWrite f off data s
  | .hostInboundRead f bar off len tag => Sys2Proof.Machine.execHostInboundRead f bar off len tag s
  | .outboundHostTimeout id => Sys2Proof.Machine.execOutboundHostTimeout id s
  | .biSnoopResponse line => Sys2Proof.Machine.execBiSnoopResponse line s
  | .biSnoopTimeout line => Sys2Proof.Machine.execBiSnoopTimeout line s
  | .hostLinkDown => Sys2Proof.Machine.execHostLinkDown s
  | .hotReset => Sys2Proof.Machine.execHotReset s
  | .vfFlr f => Sys2Proof.Machine.execVfFlr f s
  | .pfFlr => Sys2Proof.Machine.execPfFlr s
  | .aerError f cls req bits => Sys2Proof.Machine.execAerError f cls req bits s
  | .spdmRequest index => Sys2Proof.Machine.execSpdmRequest index s
  | .flitReceive port flit => Sys2Proof.Machine.execFlitReceive port flit s
  | .portRxTimeout port => Sys2Proof.Machine.execPortRxTimeout port s
  | .laneLoss port => Sys2Proof.Machine.execLaneLoss port s
  | .portRetrainDone port ok => Sys2Proof.Machine.execPortRetrainDone port ok s
  | .flowGapTimeout flow => Sys2Proof.Machine.execFlowGapTimeout flow s
  | .breakMessage flow fseq => Sys2Proof.Machine.execBreakMessage flow fseq s
  | .noRouteTimeout pkg => Sys2Proof.Machine.execNoRouteTimeout pkg s
  | .remoteResponseTimeout id => Sys2Proof.Machine.execRemoteResponseTimeout id s
  | .remoteAtomicRequest flow opid part pa op size key token data cmp => Sys2Proof.Machine.execRemoteAtomicRequest flow opid part pa op size key token data cmp s
  | .timingMessage corr => Sys2Proof.Machine.execTimingMessage corr s
  | .timeSyncLost => Sys2Proof.Machine.execTimeSyncLost s
  | .powerGood b => Sys2Proof.Machine.execPowerGood b s
  | .mgmtPackageReset b => Sys2Proof.Machine.execMgmtPackageReset b s
  | .powerSample amps watts => Sys2Proof.Machine.execPowerSample amps watts s
  | .clockRaise => Sys2Proof.Machine.execClockRaise s
  | .thermalReport die tj => Sys2Proof.Machine.execThermalReport die tj s
  | .thermalTrip die tj b => Sys2Proof.Machine.execThermalTrip die tj b s
  | .standGate stand => Sys2Proof.Machine.execStandGate stand s
  | .d3hotEntry => Sys2Proof.Machine.execD3hotEntry s
  | .loadObject part => Sys2Proof.Machine.execLoadObject part s
  | .registerExport part => Sys2Proof.Machine.execRegisterExport part s
  | .unloadObject part => Sys2Proof.Machine.execUnloadObject part s
  | .loaderDone part st why => Sys2Proof.Machine.execLoaderDone part st why s
  | .mailboxAccessTable target master index desc => Sys2Proof.Machine.execMailboxAccessTable target master index desc s
  | .mailboxKeyLoad slot => Sys2Proof.Machine.execMailboxKeyLoad slot s
  | .forensicChallenge => Sys2Proof.Machine.execForensicChallenge s
  | .forensicUnlock => Sys2Proof.Machine.execForensicUnlock s
  | .forensicRelock => Sys2Proof.Machine.execForensicRelock s
  | .iftRequest => Sys2Proof.Machine.execIftRequest s
  | .iftScanDone stand fails => Sys2Proof.Machine.execIftScanDone stand fails s
  | .checkpointComplete lead => Sys2Proof.Machine.execCheckpointComplete lead s
  | .registerWrite who n v => Sys2Proof.Machine.execRegisterWrite who n v s
  | .invalidInstruction ws reason => Sys2Proof.Machine.execInvalidInstruction ws reason s
  | .d3hotExit => Sys2Proof.Machine.execD3hotExit s
  | .powerRemoved => Sys2Proof.Machine.execPowerRemoved s
  | .timeBaseExchange master => Sys2Proof.Machine.execTimeBaseExchange master s
  | .cxlMemRequest write addr data => Sys2Proof.Machine.execCxlMemRequest write addr data s

end Sys2Proof.Machine
end

