-- ==== Sys2Proof/Machine/Choose.lean ====
section
/-! DEFINITION. What happens next: which cohort issues (R24, R317), what a debugger puts before it (R381, R386), and what the units do by themselves, each in its turn (log 19). -/
namespace Sys2Proof.Machine

/-! Operations in flight -/

/-- The event that brings an operation in flight to its next point (R38, R149, R151, R162, R268, R275, R276): first its request leaves; a store that another package performs waits for the answer (R444). -/
def MemOp.event (o : MemOp) (s : State) : Res :=
  if s.toSend o && s.canGo o then .next (s.sendOp o).1
  else if s.asks o && o.sent && (o.kind == .store || (o.atomicKind && o.ndst == 0)) then .next s
  else match o.kind with
  | .load | .sp _ _ => execResultLanding o.id [] 0 s
  | .store | .freset => execStorePerformed o.id s
  | .atomic _ _ | .cas _ | .ffill =>
    if o.home && o.ndst != 0 then execResultLanding o.id [] 0 s else if o.ndst == 0 then execStorePerformed o.id s else execAtomicAtHome o.id [] s
  | .renew b => .next (s.renewNext o b)
  | .cinv => execCinvComplete o.id s
  | .tlbinv => execTlbinvComplete o.id s
  | .fence => .next s
/-- The state of a result that is a next state. -/
def nextOf (s : State) : Res → State
  | .next t => t
  | _ => s
/-- The first of the events listed that does something. -/
def State.firstActing (s : State) : List (State → Res) → Option State
  | [] => none
  | f :: t => if nextOf s (f s) = s then State.firstActing s t else some (nextOf s (f s))
/-- The oldest operation in flight for at least `lag` steps that can go on does so (log 6). -/
def State.advanceOps (s : State) (lag : Nat) : Option State :=
  s.firstActing ((s.ops.filter fun o => s.opReady o && decide (o.issued + lag ≤ s.stepN)).map MemOp.event)

/-! Which cohort issues (R24, R317) -/

/-- The core and slot that issue next: the cores in turn, after the one that issued last. -/
def State.nextIssue (s : State) : Option (Nat × Nat) :=
  let cs := s.cores.keys.filterMap fun c => (s.pick c).map fun p => (c, p.1)
  match cs.find? fun c => s.cur.elim true fun l => decide (l.1 < c.1) with
  | some c => some c
  | none => cs.head?

/-! Breakpoints (R380, R381) -/

/-- A lane passes the filters of breakpoint n of its core. -/
def State.bpFilter (s : State) (k : Core) (n l : Nat) (x : Ctx) : Bool :=
  let f := k.bps.getD (8 + n) 0
  let t := s.strands.find? (x.strand l)
  let g := (t.bind fun t => s.groves.find? t.grove).elim 0 fun g => g.idx
  (fld f 19 19 == 0 || g == fld f 63 32) && (fld f 18 18 == 0 || (t.elim 0 fun t => t.index) == fld f 31 22) && (fld f 17 17 == 0 || x.co.stage == fld f 21 20)
/-- Breakpoint n matches at this PC for the launch (R381). -/
def State.bpAt (s : State) (k : Core) (n : Nat) (x : Ctx) : Bool :=
  let b := k.bps.getD n 0
  fld b 0 0 == 1 && k.bpOwner.getD n 99 == x.part && fld b 47 2 == x.pc.toNat / 4 && (fld b 63 48 == 0 || fld b 63 48 == x.co.launch) &&
    !(s.pow.disabled.contains x.core)
/-- Breakpoint n may match in a lane at a PC: it has not halted it there already (R381). -/
def Lane.fresh (y : Lane) (pc : Pc) (n : Nat) : Bool := y.met.elim true fun m => !(m.1 == pc && bitN m.2 n)
/-- The lanes that match and the mask of the breakpoints that do (R381): not at a later iteration of a REP, and not one that the cohort was just resumed from. -/
def State.bpHit (s : State) (x : Ctx) : Option (List Nat × Nat) :=
  let k := s.core x.core
  let hit := fun (n l : Nat) => s.bpAt k n x && s.bpFilter k n l x && (x.co.lanes.find? l).elim false fun y => y.fresh x.pc n
  let ns := (List.range 8).filter fun n => x.xs.any fun l => hit n l
  if x.minRepc != 0 || ns.isEmpty then none else some (x.xs.filter fun l => ns.any fun n => hit n l, maskOf ns)
/-- The lanes of the executing set keep which breakpoints have halted them at their PC (R381). -/
def State.markMet (s : State) (x : Ctx) (mask : Nat) : State :=
  s.modCohort x.core x.slot fun co => { co with lanes := co.lanes.map fun y =>
    (y.1, if x.xs.contains y.1 then { y.2 with met := some (x.pc, mask ||| (y.2.met.elim 0 fun m => if m.1 == x.pc then m.2 else 0)) } else y.2) }

/-! The issue -/

/-- What a step does. -/
inductive Choice
  | idle
  | act (t : State)
  | run (t : State) (i : Instr)
  | stuck
  deriving DecidableEq, Repr

/-- The issue of the current cohort, its words fetched and decoded (R24, R168, R181 rows 1 and 2). -/
def State.issueOf (s : State) (x : Ctx) : Choice :=
  match s.fetchInstr x.core x.part x.pc.toNat with
  | .ok ws =>
    let t := s.keepLines x.core x.part x.pc.toNat ws.length
    match t.bpHit x with
    | some (ls, mask) => .act (((t.markMet x mask).debugHalt x.core x.slot x.pc ls { code := 0x5002, akind := 0, addr := 0, gen := 0, d0 := mask, d1 := 0 }).stepDone x)
    | none =>
      match decodeWords ws with
      | .error r => .run t (.invalidInstruction ws (rejectNumber r))
      | .ok i => .run t i
  | r => .act (s.atIssue fun s x => s.fetchStop x r)
/-- What issue slot 1 takes beside a cohort that issue slot 0 takes (R25, R317): its second-lowest PC if it is diverged, else the next cohort in slot 0's order, whole. A debug step issues in slot 0 alone (R387). -/
def State.beside (s : State) (core sl : Nat) (co : Cohort) : Option (Nat × Nat × Nat × Pc × List Nat) :=
  match if co.single.isSome then none else co.second with
  | some p => some (core, sl, co.age, p.1, p.2)
  | none => (s.pickFrom core (· != sl)).bind fun p => if (s.cohort? core p.1).elim true fun c => c.single.isSome then none else some (core, p.1, p.2.2, 0, [])
/-- The state at the issue of slot 0 for a cohort; what slot 1 takes follows (R25, R317). -/
def State.atSlot0 (s : State) (c : Nat × Nat) : State :=
  { s with cur := some c, slot1 := none, next1 := (s.cohort? c.1 c.2).bind fun co => s.beside c.1 c.2 co }
/-- The state at the issue of slot 1, if the cohort it takes is still there and may issue (R25, R317); no lanes stand for the whole cohort. -/
def State.atSlot1 (s : State) : Option State :=
  match s.next1 with
  | none => none
  | some (c, sl, age, pc, ls) =>
    if (s.cohort? c sl).elim false fun co => co.age == age && s.canIssue co then
      some { s with cur := some (c, sl), slot1 := if ls.isEmpty then none else some (pc, ls), next1 := none }
    else none
/-- What the cohort that issues next does: a held stage's cohort halts (R386); a fault found before its first issue is raised in its lowest lane (R237, R420, R428); a stub is entered (R342). -/
def State.issueNext (s : State) : Choice :=
  match s.atSlot1.filter fun t => t.ctx.isSome, s.nextIssue with
  | none, none => .idle
  | t, c =>
    let s := (t.orElse fun _ => c.map s.atSlot0).getD s
    match s.ctx with
    | none => .idle
    | some x =>
      if s.isHeld x.co then .act ((s.haltSlot x.core x.slot 0x5007 ((s.launches.find? x.co.launch).elim 0 fun la => la.heldBy x.co.stage)).stepDone x)
      else
        match x.co.birthFault with
        | some f => .act ((s.trap x.core x.slot x.pc [(x.co.present.headD 0, f)] 2).stepDone x)
        | none => if s.atStub x then .run s .stubEntry else s.issueOf x

/-! What the units do by themselves -/

/-- The events of a die's walks (R113). -/
def State.dieEvents (s : State) : List (State → Res) := s.dies.flatMap fun d => d.2.keys.map fun n => execPageWalkComplete d.1 n
/-- The events of a core's records, bins and cohorts (R32, R38, R39, R40, R42, R49, R237, R317, R408, R409). -/
def State.recordEvents (s : State) (c : Nat) : List (State → Res) :=
  let k := s.core c
  let idle := s.idleSlot c
  [execCohortFormation c idle] ++ (List.range k.bins.length).map (fun n => execDrainAgeExpiry c n) ++
    (k.records.filter fun x => x.2.provisional).map (fun x => execParkmapFetchDone c x.2.pc.toNat) ++
    (k.records.filter fun x => x.2.wait.isSome).map (fun x => execWaitEventFire c x.1) ++
    (k.records.filter fun x => x.2.spilled).map (fun x => execSpillReadback c x.1) ++
    k.records.keys.flatMap (fun r => [execRecordForward c r, execFormationStarved c r]) ++
    k.slots.keys.flatMap fun sl => [execCohortAgePromotion c sl, execWatchdogExpiry c sl]
/-- The events of a core's engines (R157, R285, R287, R292, R296 to R298, R439). -/
def State.engineEvents (s : State) (c : Nat) : List (State → Res) :=
  let k := s.core c
  (k.bulkQ.flatMap fun o =>
    [execBurstReadStart c o.id] ++ (o.bursts.filter fun b => b.2 == .reading).map (fun b => execBurstReturn c o.id b.1 [] 0) ++ [fun s => .next (s.bulkTurn c o.id)]) ++
    [execMxlwStart c, execMxrunStart c, execMxlwComplete c, execMxrunComplete c, execMxzeroComplete c] ++
    k.matQ.flatMap fun o => [execMatrixStallTerminate c o.id, execMatrixStall c o.id]
/-- The events of a core's scratchpads and register file (R66, R126, R131 to R133). -/
def State.sweepEvents (s : State) (c : Nat) : List (State → Res) :=
  let k := s.core c
  [execRegisterSweepDone c, execSpWrapSweepDone c, execExpiryScan c] ++
    [Buf.w, Buf.a, Buf.c].flatMap fun b => (k.sp b).keys.flatMap fun n => [execSweeperRenew c b n, execL2ClassRefresh c b n]
/-- The events of queues and launches (R305, R306, R311, R315, R318 to R321, R375, R412, R463); launches of higher priority come first (R316). -/
def State.launchEvents (s : State) : List (State → Res) :=
  let ls := ((s.launches.map fun (x : Nat × Launch) => (7 - x.2.pkt.prio, x.2.started, x.1)).mergeSort fun a b => decide (a.1 < b.1) || (a.1 == b.1 && decide (a.2.1 ≤ b.2.1))).map fun x => x.2.2
  let away := s.groves.filter fun (x : Nat × Grove) => !x.2.placed
  (s.sched.slots.keys.flatMap fun q => [execLaunchPacket q, execLaunchStart q, execBarrierPacket q, execSignalPacket q]) ++ [execSliceBoundary] ++
    ls.flatMap (fun l => [execTrapDelivery l, execGroveAdmission l]) ++
    away.flatMap (fun x => (x.2.core :: s.cores.keys).map fun c => execGroveRestore x.1 c) ++
    s.groves.keys.map (fun g => execGroveRetirement g) ++ s.twins.keys.map (fun w => execCheckpointComplete w) ++
    ls.flatMap (fun l => [execEvict l 1, execEvict l 2]) ++ s.groves.keys.flatMap fun g => [execEvictionOverBound g, execEvictionAbandon g]
/-- The events of the root of trust (R342, R351): a posted stub; a request in the mailbox whose command the spec numbers. -/
def State.trustEvents (_s : State) : List (State → Res) := [execStubBind, execForensicChallenge, execForensicUnlock, execForensicRelock, execIftRequest]
/-- The events of links and the host that need nothing from outside (R301, R329, R331, R443, R447, R452). -/
def State.linkEvents (s : State) : List (State → Res) :=
  (s.link.colls.flatMap fun o => [execCollComplete o.id, execCollHopTimeout o.id]) ++
    s.link.flows.keys.flatMap (fun n => [execFlowGapTimeout n, if flowOut n then execBreakMessage n (s.flow n).seq else .next, if flowOut n then execNoRouteTimeout (flowPkg n) else .next]) ++
    (s.link.ports.keys.flatMap fun n => [fun s => .next (s.portDeliver n), fun s => .next (s.portSend n)]) ++
    (s.ops.filter s.overdue).map (fun o => execRemoteResponseTimeout o.id) ++ s.host.snoops.map fun x => execBiSnoopTimeout x.1
/-- The events of rotated images, stands, the clock and the time base (R353, R354, R357, R409). -/
def State.otherEvents (s : State) : List (State → Res) :=
  s.parts.keys.map (fun p => execRotatedImageRestore p) ++ (List.range 80).map (fun d => execStandGate d) ++ [execClockRaise, execTimeBaseExchange s.timeMaster, execTimeSyncLost]
/-- Everything the units can do by themselves, in one order. -/
def State.ownEvents (s : State) : List (State → Res) :=
  s.dieEvents ++ s.launchEvents ++ s.cores.keys.flatMap (fun c => s.recordEvents c ++ s.engineEvents c ++ s.sweepEvents c) ++ s.trustEvents ++ s.linkEvents ++ s.otherEvents
/-- One event of a unit's own: the order starts at another place each step, so that none is passed over for good. -/
def State.ownEvent (s : State) : Option State :=
  let es := s.ownEvents
  s.firstActing (es.rotateLeft (s.stepN / 2))

/-! The choice -/

/-- An operation or a unit goes on. -/
def State.background (s : State) : Choice :=
  match s.advanceOps s.lag with
  | some t => .act t
  | none =>
    match s.ownEvent with
    | some t => .act t
    | none => .idle
/-- The first choice that does something. -/
def Choice.orElse (a b : Choice) : Choice :=
  match a with
  | .idle => b
  | c => c
/-- The event of the schedule that is due, and the schedule without it. -/
def State.due (s : State) : Option (Instr × List (Nat × Instr)) :=
  match s.agenda with
  | (t, e) :: rest => if t ≤ s.tick then some (e, rest) else none
  | [] => none
/-- The event reaches the device in its power state (R350, R354): nothing but power-good while it is off. -/
def State.hears (s : State) (e : Instr) : Bool :=
  match e with
  | .powerGood _ => true
  | _ => decide (s.pow.state ≠ .off)
/-- What the next step does: the schedule first; then the cohorts and the units by turns, the cohorts at even steps (log 19). In D3hot, and while the power is off or the device in its recovery state, only the schedule acts. -/
def State.choose (s : State) : Choice :=
  match s.due with
  | some (e, rest) =>
    let t := { s with agenda := rest }
    if !e.isEvent then .stuck else if s.hears e then .run t e else .act t
  | none =>
    if s.pow.state = .run && !s.trust.recovery then
      if s.stepN % 2 == 0 then s.issueNext.orElse s.background else s.background.orElse s.issueNext
    else .idle
/-- How far %tick goes while a span of ns passes, and the correction then left (R357): an offset to the time master is taken up by the rate, by at most 100 ppm of the time. -/
def State.pace (s : State) (dt : Nat) : Nat × PowerSt :=
  let n := s.pow.slew + dt
  let a := min s.pow.drift.natAbs (n / 10000)
  if s.pow.drift = 0 then (dt, s.pow)
  else if 0 < s.pow.drift then (dt + a, { s.pow with drift := s.pow.drift - a, slew := n % 10000 })
  else (dt - a, { s.pow with drift := s.pow.drift + a, slew := n % 10000 })
/-- Step 8 of the boot (R350): the capability list is published when its time has come. -/
def State.settleBoot (s : State) : State :=
  if s.trust.step8.elim false fun t => decide (t ≤ s.tick) then { s with trust := { s.trust with published := true, step8 := none } } else s
/-- What every step adds: step 8 of a boot whose time has come (R350), communicators whose entry was cleared and launches that have ended are settled (R379, R447), images whose handlers are done restored (R155, R376), those owed nothing more written (R371), freed wait-table entries taken by the oldest chain nodes (R402), releases of compare buffers go on (R460), and time goes on (R4, log 6) with the scans, renewals and telemetry it brings (R126, R131, R359). -/
def State.later (s : State) : State :=
  let s := s.settleBoot.settleFrames.settleImages.settleDebug.settleComms.settleHops.settleWaiting.settleLogs.settleTwins.settleEnded.settleBins.settleChains
  let dt := (s.pace (Config.stepTime s.stepN)).1
  let s := { s with pow := (s.pace (Config.stepTime s.stepN)).2 }.telemetry (s.tick + dt)
  let s := (s.scansBefore (s.tick + dt)).renewalsBefore s (s.tick + dt)
  { s with cyc := s.cyc + Config.stepTime s.stepN * s.pow.mhz, tick := s.tick + dt, stepN := s.stepN + 1 }

end Sys2Proof.Machine
end

