-- ==== Sys2Proof/Machine/Program.lean ====
section
/-! DEFINITION. The load of one instruction from outside (log 24): what it takes for the next step to issue it. -/
namespace Sys2Proof.Machine

/-- The bytes of an instruction whose bits are w, each word little-endian (R2, R168), up to the longest of 20 bytes. -/
def wordBytes (nbits w : Nat) : List Byte := leBytes 20 (w % 2 ^ nbits)
/-- The virtual address at which the instruction stands. -/
def progVa : Nat := 0x20000
/-- The physical address of the instruction, in space 0 of the package. -/
def State.progPa (s : State) : Nat := 0x20000 + s.pkg % 256 * 2 ^ 41
/-- The leaf that maps it: V, leaf, R, X, PART 0, key slot 0 (R110). -/
def State.progLeaf (s : State) : DWord := BitVec.ofNat 64 (s.progPa + 0x2B)
/-- A region descriptor that covers all of space 0 for every kind of access (R346). -/
def progDesc : BitVec 256 := BitVec.ofNat 256 (0xF + (2 ^ 35 - 1) * 2 ^ 93)
/-- The packet of the launch that runs it: one grove of one strand, 512 registers. -/
def progPacket : Packet :=
  { prio := 0, flags := 0, entry := 0, codeVa := progVa, gridX := 1, gridY := 1, gridZ := 1, nstage := 1, hallot := 16, nstr := [1, 0, 0, 0],
    allot := [512, 0, 0, 0], req := [0, 0, 0], argVa := 0, trapEnt := 0, trapSave := 0, cplSig := 0, depSig := [0, 0, 0], gangTick := 0, stageMib := 0 }
/-- Its launch, from a privileged queue. -/
def progLaunch : Launch :=
  { queue := 0, gpc := 0, part := 0, pkt := progPacket, entries := [0], priv := true, nextGrove := 1, nextIdx := 1, frames := [], waiting := [], held := [], staged := [], stagedKeys := [],
    attempts := 0, started := 0, failed := false, ended := false }
/-- Its grove, placed on core 0 with a window in each scratchpad. -/
def progGrove : Grove :=
  { launch := 1, idx := 0, x := 0, y := 0, z := 0, core := 0, slot := 0, placed := true, base := [0, 0, 0], size := [0x100000, 0x100000, 0x80000], tags := 0,
    stat := [], group := [], twin := none, saved := none, evicting := none, evictFor := 0, evictSeen := false, born := 0, matAt := 0 }
/-- Its strand. -/
def progStrand (grove : Nat) : Strand :=
  { launch := 1, grove := grove, stage := 0, index := 0, burst := none, out := [], befStore := [], befAll := [], core := 0, path := [], nOrd := 0,
    nSpawn := 0, nBread := 0, sig := 0, nStores := 0 }
/-- Its cohort of one lane, every register stale. -/
def progCohort (strand gen : Nat) : Cohort :=
  { launch := 1, stage := 0, kind := .stage, allot := 512, nlanes := 1, gen := gen,
    lanes := [(0, { strand := strand, pc := BitVec.ofNat 48 progVa, preds := 0, repc := 0, poison := [], met := none })], regs := [], rslots := List.range 512, age := 0, readyTick := 0, segTick := 0, born := 0,
    boosted := false, single := none, birthFault := none, wdogSeen := false }
/-- Core 0 with that cohort alone, its translation held, no breakpoint. -/
def progCore (k : Core) (strand grove : Nat) (leaf : DWord) : Core :=
  { k with
    slots := [(0, progCohort strand k.gen)]
    gen := k.gen + 1
    groves := k.groves.put 0 grove
    l1i := []
    tlb := { part := 0, page := 1, bits := 17, leaf := leaf } :: k.tlb
    bps := [] }
/-- The state with a program's bytes loaded at progVa and its one strand at issue on core 0. -/
def State.withProgram (s : State) (bs : List Byte) : State :=
  { s with
    seq := s.seq + 2
    stepN := 0
    agenda := []
    cur := none
    slot1 := none
    next1 := none
    mem := memPuts s.mem 0x20000 bs
    poisoned := s.poisoned.filter fun n => n / 2 != 0x400
    cores := s.cores.put 0 (progCore (s.core 0) s.seq (s.seq + 1) s.progLeaf)
    strands := s.strands.put s.seq (progStrand (s.seq + 1))
    groves := s.groves.put (s.seq + 1) progGrove
    launches := s.launches.put 1 progLaunch
    parts := s.parts.put 0 { s.part 0 with frozen := false }
    trust := { s.trust with
      objs := s.trust.objs.filter fun o => o.va != progVa
      execBits := 1 :: s.trust.execBits
      access := s.trust.access.put 0 [progDesc]
      recovery := false }
    pow := { s.pow with state := .run } }

end Sys2Proof.Machine
end

