-- ==== Sys2Proof/Machine/Step.lean ====
section
/-! DEFINITION. The step of the machine, and the placing of one instruction where it is issued next. -/
namespace Sys2Proof.Machine

/-- One step: what the choice says, then time goes on. -/
def step (s : State) : Host.Outcome State Fault Refusal :=
  match s.choose with
  | .idle => .next s.later
  | .act t => .next t.later
  | .run t i =>
    match exec i t with
    | .next u => .next u.later
    | .fault f => .fault f
    | .refused r => .refused r
  | .stuck => .fault .agendaNotEvent

/-- The state with one instruction placed so that the next step issues it. -/
def State.withFetchWord (s : State) (nbits w : Nat) : State := s.withProgram (wordBytes nbits w)

end Sys2Proof.Machine
end

