-- ==== Sys2Proof/Laws/Encoding.lean ====
section
/-! SUPPORT. The encoder's words give the decoder back the fields they were made of (R168-R178), form by form, and the steps every instruction's round trip takes: from the fields back to the instruction, with no check of R180 or R390 failing. -/
namespace Sys2Proof.Laws

/-- Every field of an S-form fits its place (R171). -/
def RawS.fits (r : RawS) : Prop := r.gp < 8 ∧ r.op < 256 ∧ r.d < 64 ∧ r.a < 64 ∧ r.b < 64
/-- Every field of an X-form fits its place (R176). -/
def RawX.fits (r : RawX) : Prop :=
  r.gp < 16 ∧ r.op < 1024 ∧ r.d < 512 ∧ r.a < 512 ∧ r.b < 512 ∧ r.c < 512 ∧ r.f3 < 8 ∧ r.sc < 8 ∧ r.w2 < 4294967296
theorem bit_lt (b : Bool) : b.toNat < 2 := by cases b <;> decide
theorem bit_eq (b : Bool) : (b.toNat == 1) = b := by cases b <;> rfl

theorem parseS_word (r : RawS) (h : RawS.fits r) : parseS r.word = r ∧ field r.word 0 2 = 0 := by
  obtain ⟨gp, gn, op, d, a, b⟩ := r
  obtain ⟨h1, h2, h3, h4, h5⟩ := h
  have hg := bit_lt gn
  simp only [] at h1 h2 h3 h4 h5
  have e : ∀ x : Bool, x = (x.toNat == 1) := fun x => (bit_eq x).symm
  simp only [parseS, RawS.word, field, bit, BitVec.toNat_ofNat]
  refine ⟨?_, by omega⟩
  congr 1
  · omega
  · rw [e gn]; congr 1; simp only [bit_eq]; omega
  all_goals omega

theorem parseX_words (r : RawX) (h : RawX.fits r) (lit : Option DWord) :
    parseX r.word0 r.word1 (BitVec.ofNat 32 r.w2) lit = { r with lit := lit } := by
  obtain ⟨gp, gn, op, d, a, b, c, f3, m29, m30, m31, sc, i, l, w2, lit'⟩ := r
  obtain ⟨h1, h2, h3, h4, h5, h6, h7, h8, h9⟩ := h
  simp only [] at h1 h2 h3 h4 h5 h6 h7 h8 h9
  have e : ∀ x : Bool, x = (x.toNat == 1) := fun x => (bit_eq x).symm
  have g1 := bit_lt gn; have g2 := bit_lt m29; have g3 := bit_lt m30; have g4 := bit_lt m31
  have g5 := bit_lt i; have g6 := bit_lt l
  have k : ∃ k : Nat, k < 4 ∧ (if lit'.isSome = true then 3 else 2) = k := ⟨_, by split <;> omega, rfl⟩
  obtain ⟨k, hk, ek⟩ := k
  simp only [parseX, RawX.word0, RawX.word1, field, bit, BitVec.toNat_ofNat, ek]
  congr 1
  · omega
  · rw [e gn]; congr 1; simp only [bit_eq]; omega
  · omega
  · omega
  · omega
  · omega
  · omega
  · omega
  · rw [e m29]; congr 1; simp only [bit_eq]; omega
  · rw [e m30]; congr 1; simp only [bit_eq]; omega
  · rw [e m31]; congr 1; simp only [bit_eq]; omega
  · omega
  · rw [e i]; congr 1; simp only [bit_eq]; omega
  · rw [e l]; congr 1; simp only [bit_eq]; omega
  · omega

theorem word0_form (r : RawX) (h : RawX.fits r) : field r.word0 0 2 = if r.lit.isSome then 3 else 2 := by
  obtain ⟨h1, h2, h3, h4, h5, h6, h7, h8, h9⟩ := h
  simp only [RawX.word0, field, BitVec.toNat_ofNat]
  split <;> omega

theorem lit_join (l : DWord) : (l >>> 32).setWidth 32 ++ l.setWidth 32 = l := by
  ext i hi; simp; grind

theorem decodeWords_0 (w0 : Word) (t : List Word) (h : field w0 0 2 = 0) : decodeWords (w0 :: t) = named (fromRawS (parseS w0)) := by
  simp only [decodeWords]; rw [h]; rfl
theorem decodeWords_1 (w0 w1 : Word) (t : List Word) (h : field w0 0 2 = 1) : decodeWords (w0 :: w1 :: t) = named (fromP w0 w1) := by
  simp only [decodeWords]; rw [h]; rfl
theorem decodeWords_2 (w0 w1 w2 : Word) (t : List Word) (h : field w0 0 2 = 2) :
    decodeWords (w0 :: w1 :: w2 :: t) = named (fromRawX (parseX w0 w1 w2 none)) := by
  simp only [decodeWords]; rw [h]; rfl
theorem decodeWords_3 (w0 w1 w2 w3 w4 : Word) (t : List Word) (h : field w0 0 2 = 3) :
    decodeWords (w0 :: w1 :: w2 :: w3 :: w4 :: t) = named (fromRawX (parseX w0 w1 w2 (some (w4 ++ w3)))) := by
  simp only [decodeWords]; rw [h]; rfl
theorem decode_rawX (r : RawX) (h : RawX.fits r) : decodeWords r.words = named (fromRawX r) := by
  have p := parseX_words r h r.lit
  have f := word0_form r h
  unfold RawX.words
  cases e : r.lit with
  | none =>
    rw [e] at f p
    rw [decodeWords_2 _ _ _ _ f, p, ← e]
  | some l =>
    rw [e] at f p
    show decodeWords (_ :: _ :: _ :: _ :: _ :: []) = _
    rw [decodeWords_3 _ _ _ _ _ _ f, lit_join, p, ← e]
/-- Every field of a pair's words fits its place (R173). -/
def RawP.fits (r : RawP) : Prop :=
  r.gp < 8 ∧ r.u.d < 64 ∧ r.u.a < 64 ∧ r.u.b < 64 ∧ r.v.d < 512 ∧ r.v.a < 512 ∧ r.v.b < 512
theorem UOp.code_lt (o : UOp) : o.code < 17 := by cases o <;> decide
theorem VOp.code_lt (o : VOp) : o.code < 25 := by cases o <;> decide
theorem UOp.dec_code (o : UOp) : UOp.dec o.code = o := by cases o <;> rfl
theorem VOp.dec_code (o : VOp) : VOp.dec o.code = o := by cases o <;> rfl
theorem pairWord0 (gp cu ud ua ub : Nat) (gn : Bool) (h1 : gp < 8) (h2 : ud < 64) (h3 : ua < 64) (h4 : ub < 64)
    (lu : cu < 17) (w : Word) (e : w = BitVec.ofNat 32 (1 + gp * 2 ^ 2 + gn.toNat * 2 ^ 5 + cu * 2 ^ 6 + ud * 2 ^ 12 + ua * 2 ^ 18 + ub * 2 ^ 24)) :
    field w 0 2 = 1 ∧ field w 2 3 = gp ∧ bit w 5 = gn ∧ field w 30 2 = 0 ∧ field w 6 6 = cu ∧ field w 12 6 = ud ∧ field w 18 6 = ua ∧ field w 24 6 = ub := by
  subst e
  have g := bit_lt gn
  simp only [field, bit, BitVec.toNat_ofNat]
  refine ⟨by omega, by omega, ?_, by omega, by omega, by omega, by omega, by omega⟩
  refine Eq.trans ?_ (bit_eq gn)
  congr 1; omega
theorem pairWord1 (cv vd va vb : Nat) (h5 : vd < 512) (h6 : va < 512) (h7 : vb < 512) (lv : cv < 25)
    (w : Word) (e : w = BitVec.ofNat 32 (cv + vd * 2 ^ 5 + va * 2 ^ 14 + vb * 2 ^ 23)) :
    field w 0 5 = cv ∧ field w 5 9 = vd ∧ field w 14 9 = va ∧ field w 23 9 = vb := by
  subst e
  simp only [field, BitVec.toNat_ofNat]
  refine ⟨by omega, by omega, by omega, by omega⟩
/-- A pair's words give its slots back, or its checks. -/
theorem decode_rawP (r : RawP) (h : RawP.fits r) : decodeWords r.words =
    named (unlessBad ([(3, r.gp == 0 && r.gn), (4, false)] ++ fromU r.u.op.code r.u.d r.u.a r.u.b
      ++ fromV r.v.op.code r.v.d r.v.a r.v.b) (.pformPair { p := r.gp, neg := r.gn } r.u r.v)) := by
  obtain ⟨h1, h2, h3, h4, h5, h6, h7⟩ := h
  obtain ⟨a1, a2, a3, a4, a5, a6, a7, a8⟩ := pairWord0 _ _ _ _ _ r.gn h1 h2 h3 h4 (UOp.code_lt r.u.op) _ rfl
  obtain ⟨b1, b2, b3, b4⟩ := pairWord1 _ _ _ _ h5 h6 h7 (VOp.code_lt r.v.op) _ rfl
  rw [RawP.words, decodeWords_1 _ _ _ a1, fromP, a2, a3, a4, a5, a6, a7, a8, b1, b2, b3, b4, UOp.dec_code, VOp.dec_code]
  rfl

/-- A list of checks none of which holds names no reason. -/
theorem worst_none : ∀ cs : List (Nat × Bool), (∀ c ∈ cs, c.2 = false) → worst cs = none
  | [], _ => rfl
  | (n, b) :: t, h => by
    have hb : b = false := h (n, b) (by simp)
    have := worst_none t (fun c hc => h c (by simp [hc]))
    simp [worst, this, hb]
theorem unlessBad_ok {cs : List (Nat × Bool)} {i : Instr} (h : ∀ c ∈ cs, c.2 = false) : unlessBad cs i = .ok i := by
  simp [unlessBad, worst_none cs h]

theorem ofCode_code (o : XOp) : XOp.ofCode o.code = some o := by cases o <;> decide +kernel

theorem guard16 {g : Guard} (h : g.wf = true) : (g.p == 0 && g.neg) = false ∧ g.p < 16 := by
  simp [Guard.wf] at h; grind
theorem guard8 {g : Guard} (h : g.wf8 = true) : (g.p == 0 && g.neg) = false ∧ g.p < 8 := by
  simp [Guard.wf8] at h; grind

/-- The round trip of an X-form without a literal and without a guard field. -/
theorem viaNoGuard {r : RawX} {z : List Slot} {cs : List (Nat × Bool)} {i j : Instr} (o : XOp)
    (ho : r.op = o.code) (hx : fromX o r = takeNoGuard r z cs i) (hlit : r.lit = none) (hl : r.l = false)
    (hz : z.any (Slot.bad r) = false) (hf : RawX.fits r) (hc : ∀ c ∈ cs, c.2 = false) (hij : i = j) :
    decodeWords (Raw.words (.x r)) = .ok j := by
  subst hij
  rw [Raw.words, decode_rawX r hf, fromRawX, ho, ofCode_code, hlit]
  simp only [hx, takeNoGuard]
  rw [unlessBad_ok, named]
  intro c h
  simp only [List.mem_cons] at h
  rcases h with rfl | rfl | h
  · simp [hl, hlit]
  · exact hz
  · exact hc _ h
/-- The round trip of an X-form without a literal. -/
theorem viaTake {r : RawX} {z : List Slot} {cs : List (Nat × Bool)} {i j : Instr} (o : XOp)
    (ho : r.op = o.code) (hx : fromX o r = take r z cs i) (hlit : r.lit = none) (hl : r.l = false)
    (hz : z.any (Slot.bad r) = false) (hg : (r.gp == 0 && r.gn) = false) (hf : RawX.fits r)
    (hc : ∀ c ∈ cs, c.2 = false) (hij : i = j) : decodeWords (Raw.words (.x r)) = .ok j := by
  refine viaNoGuard o ho hx hlit hl hz hf ?_ hij
  intro c h
  simp only [List.mem_cons] at h
  rcases h with rfl | h
  · exact hg
  · exact hc _ h
/-- The round trip of an X-form with a literal (R178). -/
theorem viaLit {r : RawX} {z : List Slot} {cs : List (Nat × Bool)} {i j : Instr} {lit : DWord} (o : XOp)
    (ho : r.op = o.code) (hx : fromLit o r lit = takeLit r z cs i) (hlit : r.lit = some lit) (hl : r.l = true)
    (hi : r.i = false) (hz : z.any (Slot.bad r) = false) (hg : (r.gp == 0 && r.gn) = false) (hf : RawX.fits r)
    (hc : ∀ c ∈ cs, c.2 = false) (hij : i = j) : decodeWords (Raw.words (.x r)) = .ok j := by
  subst hij
  rw [Raw.words, decode_rawX r hf, fromRawX, ho, ofCode_code, hlit]
  simp only [hl, if_true, hx, takeLit]
  rw [unlessBad_ok, named]
  intro c h
  simp only [List.mem_cons] at h
  rcases h with rfl | rfl | rfl | h
  · exact hg
  · exact hi
  · exact hz
  · exact hc _ h
/-- The round trip of an S-form without a guard field. -/
theorem viaSNoGuard {r : RawS} {cs : List (Nat × Bool)} {i j : Instr} (hx : fromRawS r = takeSNoGuard r cs i)
    (hf : RawS.fits r) (hc : ∀ c ∈ cs, c.2 = false) (hij : i = j) : decodeWords (Raw.words (.s r)) = .ok j := by
  subst hij
  obtain ⟨hp, h0⟩ := parseS_word r hf
  rw [Raw.words, decodeWords_0 _ _ h0, hp, hx, takeSNoGuard, unlessBad_ok hc, named]
/-- The round trip of an S-form. -/
theorem viaS {r : RawS} {cs : List (Nat × Bool)} {i j : Instr} (hx : fromRawS r = takeS r cs i)
    (hg : (r.gp == 0 && r.gn) = false) (hf : RawS.fits r) (hc : ∀ c ∈ cs, c.2 = false) (hij : i = j) :
    decodeWords (Raw.words (.s r)) = .ok j := by
  refine viaSNoGuard hx hf ?_ hij
  intro c h
  simp only [List.mem_cons] at h
  rcases h with rfl | h
  · exact hg
  · exact hc _ h

theorem RM.dec_code (x : RM) : RM.dec x.code = x := by cases x <;> rfl
theorem RM.code_lt (x : RM) : x.code < 4 := by cases x <;> decide
theorem RMS.dec_code (x : RMS) : RMS.dec x.code = x := by cases x <;> rfl
theorem RMS.code_lt (x : RMS) : x.code < 5 := by cases x <;> decide
theorem Cc.dec_code (x : Cc) : Cc.dec x.code = x := by cases x <;> rfl
theorem Cc.code_lt (x : Cc) : x.code < 6 := by cases x <;> decide
theorem Scope.dec_code (x : Scope) : Scope.dec x.code = x := by cases x <;> rfl
theorem Scope.code_lt (x : Scope) : x.code < 5 := by cases x <;> decide
theorem Size.dec_code (x : Size) : Size.dec x.code = x := by cases x <;> rfl
theorem Size.code_lt (x : Size) : x.code < 5 := by cases x <;> decide
theorem CClass.dec_code (x : CClass) : CClass.dec x.code = x := by cases x <;> rfl
theorem CClass.code_lt (x : CClass) : x.code < 5 := by cases x <;> decide
theorem Hint.dec_code (x : Hint) : Hint.dec x.code = x := by cases x <;> rfl
theorem Hint.code_lt (x : Hint) : x.code < 3 := by cases x <;> decide
theorem Buf.dec_code (x : Buf) : Buf.dec x.code = x := by cases x <;> rfl
theorem Buf.code_lt (x : Buf) : x.code < 3 := by cases x <;> decide
theorem LClass.dec_code (x : LClass) : LClass.dec x.code = x := by cases x <;> rfl
theorem LClass.code_lt (x : LClass) : x.code < 3 := by cases x <;> decide
theorem AtomOp.dec_code (x : AtomOp) : AtomOp.dec x.code = x := by cases x <;> rfl
theorem AtomOp.code_lt (x : AtomOp) : x.code < 10 := by cases x <;> decide
theorem ShflMode.dec_code (x : ShflMode) : ShflMode.dec x.code = x := by cases x <;> rfl
theorem ShflMode.code_lt (x : ShflMode) : x.code < 4 := by cases x <;> decide
theorem VoteMode.dec_code (x : VoteMode) : VoteMode.dec x.code = x := by cases x <;> rfl
theorem VoteMode.code_lt (x : VoteMode) : x.code < 3 := by cases x <;> decide
theorem RedOp.dec_code (x : RedOp) : RedOp.dec x.code = x := by cases x <;> rfl
theorem RedOp.code_lt (x : RedOp) : x.code < 11 := by cases x <;> decide
theorem Fmt.dec_code (x : Fmt) : Fmt.dec x.code = x := by cases x <;> rfl
theorem Fmt.code_lt (x : Fmt) : x.code < 16 := by cases x <;> decide
theorem Bsz.dec_code (x : Bsz) : Bsz.dec x.code = x := by cases x <;> rfl
theorem Bsz.code_lt (x : Bsz) : x.code < 3 := by cases x <;> decide
theorem Scf.dec_code (x : Scf) : Scf.dec x.code = x := by cases x <;> rfl
theorem Scf.code_lt (x : Scf) : x.code < 3 := by cases x <;> decide
theorem SReg.dec_code (x : SReg) : SReg.dec x.code = x := by cases x <;> rfl
theorem SReg.code_lt (x : SReg) : x.code < 34 := by cases x <;> decide
theorem Ord.dec_bits (x : Ord) : Ord.dec (x.lo.toNat + 2 * x.hi.toNat) = x := by cases x <;> rfl
theorem FenceKind.dec_bits (x : FenceKind) : FenceKind.dec (x.lo.toNat + 2 * x.hi.toNat) = x := by cases x <;> rfl
theorem Elem.dec_code (x : Elem) : Elem.dec x.code = x := by cases x <;> rfl
theorem Elem.valid_code (x : Elem) : Elem.valid x.code = true := by cases x <;> rfl
theorem Elem.code_lt (x : Elem) : x.code < 9 := by cases x <;> decide
theorem Src.word_lt (b : Src) : b.word < 4294967296 := by
  cases b with
  | reg n => simp [Src.word]
  | imm w => exact w.isLt
theorem Src.field_lt (b : Src) (h : b.wf = true) : b.field < 512 := by
  cases b with
  | reg n => simpa [Src.wf, rOk, Src.field] using h
  | imm w => simp [Src.field]
theorem Src.field_pair (b : Src) (h : b.wfPair = true) : b.field < 512 ∧ b.field % 2 = 0 := by
  cases b with
  | reg n => simpa [Src.wfPair, pairOk, Src.field] using h
  | imm w => simp [Src.field]
theorem Src.upto (k : Nat) (b : Src) (h : b.wfUpto k = true) (hi : b.isImm = true) : b.word < k := by
  cases b with
  | reg n => simp [Src.isImm] at hi
  | imm w => simpa [Src.wfUpto, Src.word] using h
theorem Fmt.lanes_le (f : Fmt) : f.lanes ≤ 8 := by cases f <;> decide
theorem Fmt.packSlots_le (f : Fmt) : f.packSlots ≤ 4 := by cases f <;> decide
theorem Fmt.isInt_code (f : Fmt) : f.isInt = decide (8 ≤ f.code) := by cases f <;> rfl
theorem Fmt.code_f64 (x : Fmt) : x = .f64 ↔ x.code = 3 := by cases x <;> decide
theorem Elem.code_cases (x : Elem) : x.code = 4 ∨ x.code = 5 ∨ x.code = 6 ∨ x.code = 8 := by cases x <;> decide
theorem Elem.code_s8 (x : Elem) : x = .s8 ↔ x.code = 8 := by cases x <;> decide
theorem Size.align_code (x : Size) : regAlign x.code = x.regs := by cases x <;> rfl
theorem Ord.code_plain (x : Ord) : x = .plain ↔ x.lo.toNat + 2 * x.hi.toNat = 0 := by cases x <;> decide
theorem Ord.code_acq (x : Ord) : x = .acq ↔ x.lo.toNat + 2 * x.hi.toNat = 1 := by cases x <;> decide
theorem Ord.code_rel (x : Ord) : x = .rel ↔ x.lo.toNat + 2 * x.hi.toNat = 2 := by cases x <;> decide
theorem Ord.code_lt (x : Ord) : x.lo.toNat + 2 * x.hi.toNat < 4 := by cases x <;> decide
theorem RMS.code_sr (x : RMS) : x = .sr ↔ x.code = 4 := by cases x <;> decide
theorem RMS.code_rn (x : RMS) : x = .rn ↔ x.code = 0 := by cases x <;> decide
theorem Bsz.code_b32 (x : Bsz) : x = .b32 ↔ x.code = 2 := by cases x <;> decide
theorem Scf.code_e8m0 (x : Scf) : x = .e8m0 ↔ x.code = 0 := by cases x <;> decide
theorem Cc.code_eq (x : Cc) : x = .eq ↔ x.code = 0 := by cases x <;> decide
theorem Cc.code_ne (x : Cc) : x = .ne ↔ x.code = 1 := by cases x <;> decide
theorem Size.code_b32 (x : Size) : x = .b32 ↔ x.code = 0 := by cases x <;> decide
theorem Size.code_b8 (x : Size) : x = .b8 ↔ x.code = 1 := by cases x <;> decide
theorem Size.code_b16 (x : Size) : x = .b16 ↔ x.code = 2 := by cases x <;> decide
theorem Size.code_b64 (x : Size) : x = .b64 ↔ x.code = 3 := by cases x <;> decide
theorem Size.code_b128 (x : Size) : x = .b128 ↔ x.code = 4 := by cases x <;> decide
theorem Scope.code_core (x : Scope) : x = .core ↔ x.code = 0 := by cases x <;> decide
theorem AtomOp.code_fadd (x : AtomOp) : x = .fadd ↔ x.code = 9 := by cases x <;> decide
theorem SReg.code_fault (x : SReg) : x = .fault ↔ x.code = 32 := by cases x <;> decide
theorem Src.back (b : Src) : (if b.isImm = true then Src.imm (BitVec.ofNat 32 b.word) else Src.reg b.field) = b := by
  cases b <;> simp [Src.isImm, Src.word, Src.field]
theorem Src.imm_field (b : Src) : (b.isImm && b.field != 0) = false := by cases b <;> rfl
theorem Src.reg_word (b : Src) : (!b.isImm && b.word != 0) = false := by cases b <;> rfl

end Sys2Proof.Laws
end

