-- ==== Sys2Proof/Laws/PerInstr.lean ====
section
/-! SUPPORT. For every constructor of Instr: a well-formed instruction is decoded from its own words (R168-R181). -/

namespace Sys2Proof.Laws.RoundTrip
set_option Elab.async false
set_option linter.all false

/-- Decoding the words of a well-formed instruction gives it back; an event has no words. -/
def Statement (i : Instr) : Prop :=
  i.isEvent = false → i.wf = true → decodeWords (encode i) = .ok i

theorem nopS (g : Guard) : Statement (.nopS g) := by
  intro _ hw
  replace hw : (g.wf8) = true := hw
  have hg := guard8 hw
  refine viaS rfl ?_ ?_ ?_ ?_
  · exact hg.1
  · simp [RawS.fits]; grind -ring -linarith
  · simp [odd, z3] <;> grind -ring -linarith
  · rfl
theorem movS (g : Guard) (d : Nat) (a : Nat) : Statement (.movS g d a) := by
  intro _ hw
  replace hw : (g.wf8 && s6 d && s6 a) = true := hw
  simp only [Bool.and_eq_true] at hw
  have hg := guard8 hw.1.1
  simp [s6] at hw
  refine viaS rfl ?_ ?_ ?_ ?_
  · exact hg.1
  · simp [RawS.fits]; grind -ring -linarith
  · simp [odd, z3] <;> grind -ring -linarith
  · rfl
theorem iaddS (g : Guard) (d : Nat) (a : Nat) (b : Nat) : Statement (.iaddS g d a b) := by
  intro _ hw
  replace hw : (g.wf8 && s6 d && s6 a && s6 b) = true := hw
  simp only [Bool.and_eq_true] at hw
  have hg := guard8 hw.1.1.1
  simp [s6] at hw
  refine viaS rfl ?_ ?_ ?_ ?_
  · exact hg.1
  · simp [RawS.fits]; grind -ring -linarith
  · simp [odd, z3] <;> grind -ring -linarith
  · rfl
theorem isubS (g : Guard) (d : Nat) (a : Nat) (b : Nat) : Statement (.isubS g d a b) := by
  intro _ hw
  replace hw : (g.wf8 && s6 d && s6 a && s6 b) = true := hw
  simp only [Bool.and_eq_true] at hw
  have hg := guard8 hw.1.1.1
  simp [s6] at hw
  refine viaS rfl ?_ ?_ ?_ ?_
  · exact hg.1
  · simp [RawS.fits]; grind -ring -linarith
  · simp [odd, z3] <;> grind -ring -linarith
  · rfl
theorem imulS (g : Guard) (d : Nat) (a : Nat) (b : Nat) : Statement (.imulS g d a b) := by
  intro _ hw
  replace hw : (g.wf8 && s6 d && s6 a && s6 b) = true := hw
  simp only [Bool.and_eq_true] at hw
  have hg := guard8 hw.1.1.1
  simp [s6] at hw
  refine viaS rfl ?_ ?_ ?_ ?_
  · exact hg.1
  · simp [RawS.fits]; grind -ring -linarith
  · simp [odd, z3] <;> grind -ring -linarith
  · rfl
theorem andS (g : Guard) (d : Nat) (a : Nat) (b : Nat) : Statement (.andS g d a b) := by
  intro _ hw
  replace hw : (g.wf8 && s6 d && s6 a && s6 b) = true := hw
  simp only [Bool.and_eq_true] at hw
  have hg := guard8 hw.1.1.1
  simp [s6] at hw
  refine viaS rfl ?_ ?_ ?_ ?_
  · exact hg.1
  · simp [RawS.fits]; grind -ring -linarith
  · simp [odd, z3] <;> grind -ring -linarith
  · rfl
theorem orS (g : Guard) (d : Nat) (a : Nat) (b : Nat) : Statement (.orS g d a b) := by
  intro _ hw
  replace hw : (g.wf8 && s6 d && s6 a && s6 b) = true := hw
  simp only [Bool.and_eq_true] at hw
  have hg := guard8 hw.1.1.1
  simp [s6] at hw
  refine viaS rfl ?_ ?_ ?_ ?_
  · exact hg.1
  · simp [RawS.fits]; grind -ring -linarith
  · simp [odd, z3] <;> grind -ring -linarith
  · rfl
theorem xorS (g : Guard) (d : Nat) (a : Nat) (b : Nat) : Statement (.xorS g d a b) := by
  intro _ hw
  replace hw : (g.wf8 && s6 d && s6 a && s6 b) = true := hw
  simp only [Bool.and_eq_true] at hw
  have hg := guard8 hw.1.1.1
  simp [s6] at hw
  refine viaS rfl ?_ ?_ ?_ ?_
  · exact hg.1
  · simp [RawS.fits]; grind -ring -linarith
  · simp [odd, z3] <;> grind -ring -linarith
  · rfl
theorem shlS (g : Guard) (d : Nat) (a : Nat) (b : Nat) : Statement (.shlS g d a b) := by
  intro _ hw
  replace hw : (g.wf8 && s6 d && s6 a && s6 b) = true := hw
  simp only [Bool.and_eq_true] at hw
  have hg := guard8 hw.1.1.1
  simp [s6] at hw
  refine viaS rfl ?_ ?_ ?_ ?_
  · exact hg.1
  · simp [RawS.fits]; grind -ring -linarith
  · simp [odd, z3] <;> grind -ring -linarith
  · rfl
theorem shrS (g : Guard) (d : Nat) (a : Nat) (b : Nat) : Statement (.shrS g d a b) := by
  intro _ hw
  replace hw : (g.wf8 && s6 d && s6 a && s6 b) = true := hw
  simp only [Bool.and_eq_true] at hw
  have hg := guard8 hw.1.1.1
  simp [s6] at hw
  refine viaS rfl ?_ ?_ ?_ ?_
  · exact hg.1
  · simp [RawS.fits]; grind -ring -linarith
  · simp [odd, z3] <;> grind -ring -linarith
  · rfl
theorem icmpS (g : Guard) (pd : Nat) (a : Nat) (b : Nat) (cc : Cc) (u : Bool) : Statement (.icmpS g pd a b cc u) := by
  intro _ hw
  replace hw : (g.wf8 && s3 pd && s6 a && s6 b && ccSOk cc u) = true := hw
  have e : ccSOk cc u = true → ccCode cc u < 8 ∧ ccOf (ccCode cc u) = cc ∧ ccU (ccCode cc u) = u := by
    cases cc <;> cases u <;> decide
  simp [Guard.wf8, s3, s6] at hw
  obtain ⟨e1, e2, e3⟩ := e hw.2
  refine viaS rfl ?_ ?_ ?_ ?_
  · simp; grind -ring -linarith
  · simp [RawS.fits]; grind -ring -linarith
  · simp
  · have a1 : (pd + 8 * ccCode cc u) % 8 = pd := by omega
    have a2 : (pd + 8 * ccCode cc u) / 8 = ccCode cc u := by omega
    show Instr.icmpS g ((pd + 8 * ccCode cc u) % 8) a b (ccOf ((pd + 8 * ccCode cc u) / 8)) (ccU ((pd + 8 * ccCode cc u) / 8)) = _
    rw [a1, a2, e2, e3]
theorem faddS (g : Guard) (d : Nat) (a : Nat) (b : Nat) : Statement (.faddS g d a b) := by
  intro _ hw
  replace hw : (g.wf8 && s6 d && s6 a && s6 b) = true := hw
  simp only [Bool.and_eq_true] at hw
  have hg := guard8 hw.1.1.1
  simp [s6] at hw
  refine viaS rfl ?_ ?_ ?_ ?_
  · exact hg.1
  · simp [RawS.fits]; grind -ring -linarith
  · simp [odd, z3] <;> grind -ring -linarith
  · rfl
theorem fsubS (g : Guard) (d : Nat) (a : Nat) (b : Nat) : Statement (.fsubS g d a b) := by
  intro _ hw
  replace hw : (g.wf8 && s6 d && s6 a && s6 b) = true := hw
  simp only [Bool.and_eq_true] at hw
  have hg := guard8 hw.1.1.1
  simp [s6] at hw
  refine viaS rfl ?_ ?_ ?_ ?_
  · exact hg.1
  · simp [RawS.fits]; grind -ring -linarith
  · simp [odd, z3] <;> grind -ring -linarith
  · rfl
theorem fmulS (g : Guard) (d : Nat) (a : Nat) (b : Nat) : Statement (.fmulS g d a b) := by
  intro _ hw
  replace hw : (g.wf8 && s6 d && s6 a && s6 b) = true := hw
  simp only [Bool.and_eq_true] at hw
  have hg := guard8 hw.1.1.1
  simp [s6] at hw
  refine viaS rfl ?_ ?_ ?_ ?_
  · exact hg.1
  · simp [RawS.fits]; grind -ring -linarith
  · simp [odd, z3] <;> grind -ring -linarith
  · rfl
theorem braS (g : Guard) (off : BitVec 18) : Statement (.braS g off) := by
  intro _ hw
  replace hw : (g.wf8) = true := hw
  have l := off.isLt
  simp [Guard.wf8] at hw
  refine viaS rfl ?_ ?_ ?_ ?_
  · simp; grind -ring -linarith
  · simp [RawS.fits]; grind -ring -linarith
  · simp
  · have a1 : off.toNat % 64 + 64 * (off.toNat / 64 % 64) + 4096 * (off.toNat / 4096) = off.toNat := by omega
    show Instr.braS g (BitVec.ofNat 18 (off.toNat % 64 + 64 * (off.toNat / 64 % 64) + 4096 * (off.toNat / 4096))) = _
    rw [a1]; simp
theorem exitS (g : Guard) : Statement (.exitS g) := by
  intro _ hw
  replace hw : (g.wf8) = true := hw
  have hg := guard8 hw
  refine viaS rfl ?_ ?_ ?_ ?_
  · exact hg.1
  · simp [RawS.fits]; grind -ring -linarith
  · simp [odd, z3] <;> grind -ring -linarith
  · rfl
theorem repS (count : Nat) (sd : Nat) (sa : Nat) (sb : Nat) : Statement (.repS count sd sa sb) := by
  intro _ hw
  replace hw : (s6 count && s2 sd && s2 sa && s2 sb) = true := hw
  simp [s2, s6] at hw
  refine viaSNoGuard rfl ?_ ?_ ?_
  · simp [RawS.fits]; omega
  · simp
  · have a1 : (sd + 4 * sa + 16 * sb) % 4 = sd := by omega
    have a2 : (sd + 4 * sa + 16 * sb) / 4 % 4 = sa := by omega
    have a3 : (sd + 4 * sa + 16 * sb) / 16 = sb := by omega
    show Instr.repS count ((sd + 4 * sa + 16 * sb) % 4) ((sd + 4 * sa + 16 * sb) / 4 % 4) ((sd + 4 * sa + 16 * sb) / 16) = _
    rw [a1, a2, a3]
theorem waittS (g : Guard) (all : Bool) (mask : BitVec 12) : Statement (.waittS g all mask) := by
  intro _ hw
  replace hw : (g.wf8 && mask != 0) = true := hw
  have l := mask.isLt
  simp [Guard.wf8] at hw
  have n0 : mask.toNat ≠ 0 := fun h => hw.2 (BitVec.eq_of_toNat_eq h)
  have al := bit_lt all
  refine viaS rfl ?_ ?_ ?_ ?_
  · simp; grind -ring -linarith
  · simp [RawS.fits]; grind -ring -linarith
  · simp; grind -ring -linarith
  · have a1 : 64 * (mask.toNat / 64) + mask.toNat % 64 = mask.toNat := by omega
    have a2 : (all.toNat % 2 == 1) = all := by cases all <;> rfl
    show Instr.waittS g (all.toNat % 2 == 1) (BitVec.ofNat 12 (64 * (mask.toNat / 64) + mask.toNat % 64)) = _
    rw [a1, a2]; simp
theorem waitcS (g : Guard) (cls : CClass) (n : Nat) : Statement (.waitcS g cls n) := by
  intro _ hw
  replace hw : (g.wf8 && s6 n) = true := hw
  simp [Guard.wf8, s6] at hw
  refine viaS rfl ?_ ?_ ?_ ?_
  · simp; grind -ring -linarith
  · cases cls <;> simp [RawS.fits, CClass.code] <;> grind -ring -linarith
  · cases cls <;> simp [CClass.code]
  · cases cls <;> rfl
theorem ldS (g : Guard) (d : Nat) (a : Nat) (off : Nat) : Statement (.ldS g d a off) := by
  intro _ hw
  replace hw : (g.wf8 && s6 d && s6 a && s6 off && a % 2 == 0) = true := hw
  simp only [Bool.and_eq_true] at hw
  have hg := guard8 hw.1.1.1.1
  simp [s6] at hw
  refine viaS rfl ?_ ?_ ?_ ?_
  · exact hg.1
  · simp [RawS.fits]; grind -ring -linarith
  · simp [odd, z3] <;> grind -ring -linarith
  · rfl
theorem stS (g : Guard) (d : Nat) (a : Nat) (off : Nat) : Statement (.stS g d a off) := by
  intro _ hw
  replace hw : (g.wf8 && s6 d && s6 a && s6 off && a % 2 == 0) = true := hw
  simp only [Bool.and_eq_true] at hw
  have hg := guard8 hw.1.1.1.1
  simp [s6] at hw
  refine viaS rfl ?_ ?_ ?_ ?_
  · exact hg.1
  · simp [RawS.fits]; grind -ring -linarith
  · simp [odd, z3] <;> grind -ring -linarith
  · rfl
theorem aldS (g : Guard) (d : Nat) (a : Nat) (off : Nat) : Statement (.aldS g d a off) := by
  intro _ hw
  replace hw : (g.wf8 && s6 d && s6 a && s6 off) = true := hw
  simp only [Bool.and_eq_true] at hw
  have hg := guard8 hw.1.1.1
  simp [s6] at hw
  refine viaS rfl ?_ ?_ ?_ ?_
  · exact hg.1
  · simp [RawS.fits]; grind -ring -linarith
  · simp [odd, z3] <;> grind -ring -linarith
  · rfl
theorem astS (g : Guard) (d : Nat) (a : Nat) (off : Nat) : Statement (.astS g d a off) := by
  intro _ hw
  replace hw : (g.wf8 && s6 d && s6 a && s6 off) = true := hw
  simp only [Bool.and_eq_true] at hw
  have hg := guard8 hw.1.1.1
  simp [s6] at hw
  refine viaS rfl ?_ ?_ ?_ ?_
  · exact hg.1
  · simp [RawS.fits]; grind -ring -linarith
  · simp [odd, z3] <;> grind -ring -linarith
  · rfl
theorem movsS (g : Guard) (d : Nat) (x : SReg) : Statement (.movsS g d x) := by
  intro _ hw
  have lx := SReg.code_lt x
  replace hw : (g.wf8 && s6 d && (!x.wide || d % 2 == 0)) = true := hw
  simp only [Bool.and_eq_true] at hw
  have hg := guard8 hw.1.1
  simp [s6] at hw
  refine viaS rfl ?_ ?_ ?_ ?_
  · exact hg.1
  · simp [RawS.fits]; grind -ring -linarith
  · simp [odd, z3, SReg.dec_code] <;> grind -ring -linarith
  · simp only [RawS.g, SReg.dec_code]
theorem pformPair (g : Guard) (u : USlot) (v : VSlot) : Statement (.pformPair g u v) := by
  intro _ hw
  replace hw : (g.wf8 && u.wf && v.wf) = true := hw
  obtain ⟨uo, ud, ua, ub⟩ := u
  obtain ⟨vo, vd, va, vb⟩ := v
  simp only [Guard.wf8, USlot.wf, VSlot.wf, Bool.and_eq_true] at hw
  obtain ⟨⟨hg, hu, hu'⟩, hv, hv'⟩ := hw
  simp [s6] at hg hu
  simp [rOk] at hv
  show decodeWords (RawP.words _) = _
  rw [decode_rawP _ (by simp [RawP.fits]; grind -ring -linarith), unlessBad_ok]
  · rfl
  · intro c hc
    simp only [List.mem_append] at hc
    rcases hc with (hc | hc) | hc
    · simp at hc; rcases hc with rfl | rfl
      · simp; grind -ring -linarith
      · rfl
    · cases uo <;> simp [fromU, UOp.code, odd, predOk] at hu' hc <;> grind -ring -linarith
    · cases vo <;> simp [fromV, VOp.code, odd, predOk] at hv' hc <;> grind -ring -linarith
theorem nop (g : Guard) : Statement (.nop g) := by
  intro _ hw
  replace hw : (g.wf) = true := hw
  have hg := guard16 hw
  refine viaTake .nop rfl rfl rfl rfl (by rfl) ?_ ?_ ?_ ?_
  · exact hg.1
  · simp [RawX.fits]; grind -ring -linarith
  · simp [odd, RawX.ord] <;> grind -ring -linarith
  · rfl
theorem mov (g : Guard) (d : Nat) (a : Nat) : Statement (.mov g d a) := by
  intro _ hw
  replace hw : (g.wf && rOk d && rOk a) = true := hw
  simp only [Bool.and_eq_true] at hw
  have hg := guard16 hw.1.1
  simp [rOk] at hw
  refine viaTake .mov rfl rfl rfl rfl (by rfl) ?_ ?_ ?_ ?_
  · exact hg.1
  · simp [RawX.fits]; grind -ring -linarith
  · simp [odd, RawX.ord] <;> grind -ring -linarith
  · rfl
theorem movi (g : Guard) (d : Nat) (imm : Word) : Statement (.movi g d imm) := by
  intro _ hw
  have limm := imm.isLt
  replace hw : (g.wf && rOk d) = true := hw
  simp only [Bool.and_eq_true] at hw
  have hg := guard16 hw.1
  simp [rOk] at hw
  refine viaTake .movi rfl rfl rfl rfl (by rfl) ?_ ?_ ?_ ?_
  · exact hg.1
  · simp [RawX.fits]; grind -ring -linarith
  · simp [odd, RawX.ord] <;> grind -ring -linarith
  · simp only [RawX.g, RawX.srcB, RawX.srcA, RawX.ord, BitVec.ofNat_toNat, BitVec.setWidth_eq]
theorem moviLit (g : Guard) (d : Nat) (lit : DWord) : Statement (.moviLit g d lit) := by
  intro _ hw
  replace hw : (g.wf && pairOk d) = true := hw
  simp only [Bool.and_eq_true] at hw
  have hg := guard16 hw.1
  simp [pairOk] at hw
  refine viaLit .movi rfl rfl rfl rfl rfl (by rfl) ?_ ?_ ?_ ?_
  · exact hg.1
  · simp [RawX.fits]; grind -ring -linarith
  · simp [odd, RawX.ord] <;> grind -ring -linarith
  · rfl
theorem iadd (g : Guard) (d : Nat) (a : Nat) (b : Src) (sat : Bool) (u : Bool) : Statement (.iadd g d a b sat u) := by
  intro _ hw
  have lb := Src.word_lt b
  have fb := Src.field_lt b
  have pb := Src.field_pair b
  have lsat := bit_lt sat
  have lu := bit_lt u
  replace hw : (g.wf && rOk d && rOk a && b.wf && (sat || !u)) = true := hw
  simp only [Bool.and_eq_true] at hw
  have hg := guard16 hw.1.1.1.1
  simp [rOk] at hw
  refine viaTake .iadd rfl rfl rfl rfl (by rfl) ?_ ?_ ?_ ?_
  · exact hg.1
  · simp [RawX.fits]; grind -ring -linarith
  · simp [odd, RawX.ord, Src.back, Src.imm_field, Src.reg_word] <;> grind -ring -linarith
  · simp only [RawX.g, RawX.srcB, RawX.srcA, RawX.ord, Src.back, Src.imm_field, Src.reg_word, BitVec.ofNat_toNat, BitVec.setWidth_eq]
theorem isub (g : Guard) (d : Nat) (a : Nat) (b : Src) (sat : Bool) (u : Bool) : Statement (.isub g d a b sat u) := by
  intro _ hw
  have lb := Src.word_lt b
  have fb := Src.field_lt b
  have pb := Src.field_pair b
  have lsat := bit_lt sat
  have lu := bit_lt u
  replace hw : (g.wf && rOk d && rOk a && b.wf && (sat || !u)) = true := hw
  simp only [Bool.and_eq_true] at hw
  have hg := guard16 hw.1.1.1.1
  simp [rOk] at hw
  refine viaTake .isub rfl rfl rfl rfl (by rfl) ?_ ?_ ?_ ?_
  · exact hg.1
  · simp [RawX.fits]; grind -ring -linarith
  · simp [odd, RawX.ord, Src.back, Src.imm_field, Src.reg_word] <;> grind -ring -linarith
  · simp only [RawX.g, RawX.srcB, RawX.srcA, RawX.ord, Src.back, Src.imm_field, Src.reg_word, BitVec.ofNat_toNat, BitVec.setWidth_eq]
theorem imul (g : Guard) (d : Nat) (a : Nat) (b : Src) : Statement (.imul g d a b) := by
  intro _ hw
  have lb := Src.word_lt b
  have fb := Src.field_lt b
  have pb := Src.field_pair b
  replace hw : (g.wf && rOk d && rOk a && b.wf) = true := hw
  simp only [Bool.and_eq_true] at hw
  have hg := guard16 hw.1.1.1
  simp [rOk] at hw
  refine viaTake .imul rfl rfl rfl rfl (by rfl) ?_ ?_ ?_ ?_
  · exact hg.1
  · simp [RawX.fits]; grind -ring -linarith
  · simp [odd, RawX.ord, Src.back, Src.imm_field, Src.reg_word] <;> grind -ring -linarith
  · simp only [RawX.g, RawX.srcB, RawX.srcA, RawX.ord, Src.back, Src.imm_field, Src.reg_word, BitVec.ofNat_toNat, BitVec.setWidth_eq]
theorem imulh (g : Guard) (d : Nat) (a : Nat) (b : Src) (u : Bool) : Statement (.imulh g d a b u) := by
  intro _ hw
  have lb := Src.word_lt b
  have fb := Src.field_lt b
  have pb := Src.field_pair b
  have lu := bit_lt u
  replace hw : (g.wf && rOk d && rOk a && b.wf) = true := hw
  simp only [Bool.and_eq_true] at hw
  have hg := guard16 hw.1.1.1
  simp [rOk] at hw
  refine viaTake .imulh rfl rfl rfl rfl (by rfl) ?_ ?_ ?_ ?_
  · exact hg.1
  · simp [RawX.fits]; grind -ring -linarith
  · simp [odd, RawX.ord, Src.back, Src.imm_field, Src.reg_word] <;> grind -ring -linarith
  · simp only [RawX.g, RawX.srcB, RawX.srcA, RawX.ord, Src.back, Src.imm_field, Src.reg_word, BitVec.ofNat_toNat, BitVec.setWidth_eq]
theorem imad (g : Guard) (d : Nat) (a : Nat) (b : Src) (c : Nat) : Statement (.imad g d a b c) := by
  intro _ hw
  have lb := Src.word_lt b
  have fb := Src.field_lt b
  have pb := Src.field_pair b
  replace hw : (g.wf && rOk d && rOk a && b.wf && rOk c) = true := hw
  simp only [Bool.and_eq_true] at hw
  have hg := guard16 hw.1.1.1.1
  simp [rOk] at hw
  refine viaTake .imad rfl rfl rfl rfl (by rfl) ?_ ?_ ?_ ?_
  · exact hg.1
  · simp [RawX.fits]; grind -ring -linarith
  · simp [odd, RawX.ord, Src.back, Src.imm_field, Src.reg_word] <;> grind -ring -linarith
  · simp only [RawX.g, RawX.srcB, RawX.srcA, RawX.ord, Src.back, Src.imm_field, Src.reg_word, BitVec.ofNat_toNat, BitVec.setWidth_eq]
theorem imin (g : Guard) (d : Nat) (a : Nat) (b : Src) (u : Bool) : Statement (.imin g d a b u) := by
  intro _ hw
  have lb := Src.word_lt b
  have fb := Src.field_lt b
  have pb := Src.field_pair b
  have lu := bit_lt u
  replace hw : (g.wf && rOk d && rOk a && b.wf) = true := hw
  simp only [Bool.and_eq_true] at hw
  have hg := guard16 hw.1.1.1
  simp [rOk] at hw
  refine viaTake .imin rfl rfl rfl rfl (by rfl) ?_ ?_ ?_ ?_
  · exact hg.1
  · simp [RawX.fits]; grind -ring -linarith
  · simp [odd, RawX.ord, Src.back, Src.imm_field, Src.reg_word] <;> grind -ring -linarith
  · simp only [RawX.g, RawX.srcB, RawX.srcA, RawX.ord, Src.back, Src.imm_field, Src.reg_word, BitVec.ofNat_toNat, BitVec.setWidth_eq]
theorem imax (g : Guard) (d : Nat) (a : Nat) (b : Src) (u : Bool) : Statement (.imax g d a b u) := by
  intro _ hw
  have lb := Src.word_lt b
  have fb := Src.field_lt b
  have pb := Src.field_pair b
  have lu := bit_lt u
  replace hw : (g.wf && rOk d && rOk a && b.wf) = true := hw
  simp only [Bool.and_eq_true] at hw
  have hg := guard16 hw.1.1.1
  simp [rOk] at hw
  refine viaTake .imax rfl rfl rfl rfl (by rfl) ?_ ?_ ?_ ?_
  · exact hg.1
  · simp [RawX.fits]; grind -ring -linarith
  · simp [odd, RawX.ord, Src.back, Src.imm_field, Src.reg_word] <;> grind -ring -linarith
  · simp only [RawX.g, RawX.srcB, RawX.srcA, RawX.ord, Src.back, Src.imm_field, Src.reg_word, BitVec.ofNat_toNat, BitVec.setWidth_eq]
theorem iabs (g : Guard) (d : Nat) (a : Nat) (sat : Bool) : Statement (.iabs g d a sat) := by
  intro _ hw
  have lsat := bit_lt sat
  replace hw : (g.wf && rOk d && rOk a) = true := hw
  simp only [Bool.and_eq_true] at hw
  have hg := guard16 hw.1.1
  simp [rOk] at hw
  refine viaTake .iabs rfl rfl rfl rfl (by rfl) ?_ ?_ ?_ ?_
  · exact hg.1
  · simp [RawX.fits]; grind -ring -linarith
  · simp [odd, RawX.ord] <;> grind -ring -linarith
  · rfl
theorem ineg (g : Guard) (d : Nat) (a : Nat) (sat : Bool) : Statement (.ineg g d a sat) := by
  intro _ hw
  have lsat := bit_lt sat
  replace hw : (g.wf && rOk d && rOk a) = true := hw
  simp only [Bool.and_eq_true] at hw
  have hg := guard16 hw.1.1
  simp [rOk] at hw
  refine viaTake .ineg rfl rfl rfl rfl (by rfl) ?_ ?_ ?_ ?_
  · exact hg.1
  · simp [RawX.fits]; grind -ring -linarith
  · simp [odd, RawX.ord] <;> grind -ring -linarith
  · rfl
theorem and (g : Guard) (d : Nat) (a : Nat) (b : Src) : Statement (.and g d a b) := by
  intro _ hw
  have lb := Src.word_lt b
  have fb := Src.field_lt b
  have pb := Src.field_pair b
  replace hw : (g.wf && rOk d && rOk a && b.wf) = true := hw
  simp only [Bool.and_eq_true] at hw
  have hg := guard16 hw.1.1.1
  simp [rOk] at hw
  refine viaTake .and rfl rfl rfl rfl (by rfl) ?_ ?_ ?_ ?_
  · exact hg.1
  · simp [RawX.fits]; grind -ring -linarith
  · simp [odd, RawX.ord, Src.back, Src.imm_field, Src.reg_word] <;> grind -ring -linarith
  · simp only [RawX.g, RawX.srcB, RawX.srcA, RawX.ord, Src.back, Src.imm_field, Src.reg_word, BitVec.ofNat_toNat, BitVec.setWidth_eq]
theorem or (g : Guard) (d : Nat) (a : Nat) (b : Src) : Statement (.or g d a b) := by
  intro _ hw
  have lb := Src.word_lt b
  have fb := Src.field_lt b
  have pb := Src.field_pair b
  replace hw : (g.wf && rOk d && rOk a && b.wf) = true := hw
  simp only [Bool.and_eq_true] at hw
  have hg := guard16 hw.1.1.1
  simp [rOk] at hw
  refine viaTake .or rfl rfl rfl rfl (by rfl) ?_ ?_ ?_ ?_
  · exact hg.1
  · simp [RawX.fits]; grind -ring -linarith
  · simp [odd, RawX.ord, Src.back, Src.imm_field, Src.reg_word] <;> grind -ring -linarith
  · simp only [RawX.g, RawX.srcB, RawX.srcA, RawX.ord, Src.back, Src.imm_field, Src.reg_word, BitVec.ofNat_toNat, BitVec.setWidth_eq]
theorem xor (g : Guard) (d : Nat) (a : Nat) (b : Src) : Statement (.xor g d a b) := by
  intro _ hw
  have lb := Src.word_lt b
  have fb := Src.field_lt b
  have pb := Src.field_pair b
  replace hw : (g.wf && rOk d && rOk a && b.wf) = true := hw
  simp only [Bool.and_eq_true] at hw
  have hg := guard16 hw.1.1.1
  simp [rOk] at hw
  refine viaTake .xor rfl rfl rfl rfl (by rfl) ?_ ?_ ?_ ?_
  · exact hg.1
  · simp [RawX.fits]; grind -ring -linarith
  · simp [odd, RawX.ord, Src.back, Src.imm_field, Src.reg_word] <;> grind -ring -linarith
  · simp only [RawX.g, RawX.srcB, RawX.srcA, RawX.ord, Src.back, Src.imm_field, Src.reg_word, BitVec.ofNat_toNat, BitVec.setWidth_eq]
theorem andn (g : Guard) (d : Nat) (a : Nat) (b : Src) : Statement (.andn g d a b) := by
  intro _ hw
  have lb := Src.word_lt b
  have fb := Src.field_lt b
  have pb := Src.field_pair b
  replace hw : (g.wf && rOk d && rOk a && b.wf) = true := hw
  simp only [Bool.and_eq_true] at hw
  have hg := guard16 hw.1.1.1
  simp [rOk] at hw
  refine viaTake .andn rfl rfl rfl rfl (by rfl) ?_ ?_ ?_ ?_
  · exact hg.1
  · simp [RawX.fits]; grind -ring -linarith
  · simp [odd, RawX.ord, Src.back, Src.imm_field, Src.reg_word] <;> grind -ring -linarith
  · simp only [RawX.g, RawX.srcB, RawX.srcA, RawX.ord, Src.back, Src.imm_field, Src.reg_word, BitVec.ofNat_toNat, BitVec.setWidth_eq]
theorem not (g : Guard) (d : Nat) (a : Nat) : Statement (.not g d a) := by
  intro _ hw
  replace hw : (g.wf && rOk d && rOk a) = true := hw
  simp only [Bool.and_eq_true] at hw
  have hg := guard16 hw.1.1
  simp [rOk] at hw
  refine viaTake .not rfl rfl rfl rfl (by rfl) ?_ ?_ ?_ ?_
  · exact hg.1
  · simp [RawX.fits]; grind -ring -linarith
  · simp [odd, RawX.ord] <;> grind -ring -linarith
  · rfl
theorem shl (g : Guard) (d : Nat) (a : Nat) (b : Src) : Statement (.shl g d a b) := by
  intro _ hw
  have lb := Src.word_lt b
  have fb := Src.field_lt b
  have pb := Src.field_pair b
  replace hw : (g.wf && rOk d && rOk a && b.wf) = true := hw
  simp only [Bool.and_eq_true] at hw
  have hg := guard16 hw.1.1.1
  simp [rOk] at hw
  refine viaTake .shl rfl rfl rfl rfl (by rfl) ?_ ?_ ?_ ?_
  · exact hg.1
  · simp [RawX.fits]; grind -ring -linarith
  · simp [odd, RawX.ord, Src.back, Src.imm_field, Src.reg_word] <;> grind -ring -linarith
  · simp only [RawX.g, RawX.srcB, RawX.srcA, RawX.ord, Src.back, Src.imm_field, Src.reg_word, BitVec.ofNat_toNat, BitVec.setWidth_eq]
theorem shr (g : Guard) (d : Nat) (a : Nat) (b : Src) : Statement (.shr g d a b) := by
  intro _ hw
  have lb := Src.word_lt b
  have fb := Src.field_lt b
  have pb := Src.field_pair b
  replace hw : (g.wf && rOk d && rOk a && b.wf) = true := hw
  simp only [Bool.and_eq_true] at hw
  have hg := guard16 hw.1.1.1
  simp [rOk] at hw
  refine viaTake .shr rfl rfl rfl rfl (by rfl) ?_ ?_ ?_ ?_
  · exact hg.1
  · simp [RawX.fits]; grind -ring -linarith
  · simp [odd, RawX.ord, Src.back, Src.imm_field, Src.reg_word] <;> grind -ring -linarith
  · simp only [RawX.g, RawX.srcB, RawX.srcA, RawX.ord, Src.back, Src.imm_field, Src.reg_word, BitVec.ofNat_toNat, BitVec.setWidth_eq]
theorem sar (g : Guard) (d : Nat) (a : Nat) (b : Src) : Statement (.sar g d a b) := by
  intro _ hw
  have lb := Src.word_lt b
  have fb := Src.field_lt b
  have pb := Src.field_pair b
  replace hw : (g.wf && rOk d && rOk a && b.wf) = true := hw
  simp only [Bool.and_eq_true] at hw
  have hg := guard16 hw.1.1.1
  simp [rOk] at hw
  refine viaTake .sar rfl rfl rfl rfl (by rfl) ?_ ?_ ?_ ?_
  · exact hg.1
  · simp [RawX.fits]; grind -ring -linarith
  · simp [odd, RawX.ord, Src.back, Src.imm_field, Src.reg_word] <;> grind -ring -linarith
  · simp only [RawX.g, RawX.srcB, RawX.srcA, RawX.ord, Src.back, Src.imm_field, Src.reg_word, BitVec.ofNat_toNat, BitVec.setWidth_eq]
theorem popc (g : Guard) (d : Nat) (a : Nat) : Statement (.popc g d a) := by
  intro _ hw
  replace hw : (g.wf && rOk d && rOk a) = true := hw
  simp only [Bool.and_eq_true] at hw
  have hg := guard16 hw.1.1
  simp [rOk] at hw
  refine viaTake .popc rfl rfl rfl rfl (by rfl) ?_ ?_ ?_ ?_
  · exact hg.1
  · simp [RawX.fits]; grind -ring -linarith
  · simp [odd, RawX.ord] <;> grind -ring -linarith
  · rfl
theorem clz (g : Guard) (d : Nat) (a : Nat) : Statement (.clz g d a) := by
  intro _ hw
  replace hw : (g.wf && rOk d && rOk a) = true := hw
  simp only [Bool.and_eq_true] at hw
  have hg := guard16 hw.1.1
  simp [rOk] at hw
  refine viaTake .clz rfl rfl rfl rfl (by rfl) ?_ ?_ ?_ ?_
  · exact hg.1
  · simp [RawX.fits]; grind -ring -linarith
  · simp [odd, RawX.ord] <;> grind -ring -linarith
  · rfl
theorem ctz (g : Guard) (d : Nat) (a : Nat) : Statement (.ctz g d a) := by
  intro _ hw
  replace hw : (g.wf && rOk d && rOk a) = true := hw
  simp only [Bool.and_eq_true] at hw
  have hg := guard16 hw.1.1
  simp [rOk] at hw
  refine viaTake .ctz rfl rfl rfl rfl (by rfl) ?_ ?_ ?_ ?_
  · exact hg.1
  · simp [RawX.fits]; grind -ring -linarith
  · simp [odd, RawX.ord] <;> grind -ring -linarith
  · rfl
theorem brev (g : Guard) (d : Nat) (a : Nat) : Statement (.brev g d a) := by
  intro _ hw
  replace hw : (g.wf && rOk d && rOk a) = true := hw
  simp only [Bool.and_eq_true] at hw
  have hg := guard16 hw.1.1
  simp [rOk] at hw
  refine viaTake .brev rfl rfl rfl rfl (by rfl) ?_ ?_ ?_ ?_
  · exact hg.1
  · simp [RawX.fits]; grind -ring -linarith
  · simp [odd, RawX.ord] <;> grind -ring -linarith
  · rfl
theorem bfx (g : Guard) (d : Nat) (a : Nat) (b : Src) (u : Bool) : Statement (.bfx g d a b u) := by
  intro _ hw
  have lb := Src.word_lt b
  have fb := Src.field_lt b
  have pb := Src.field_pair b
  have lu := bit_lt u
  replace hw : (g.wf && rOk d && rOk a && b.wf) = true := hw
  simp only [Bool.and_eq_true] at hw
  have hg := guard16 hw.1.1.1
  simp [rOk] at hw
  refine viaTake .bfx rfl rfl rfl rfl (by rfl) ?_ ?_ ?_ ?_
  · exact hg.1
  · simp [RawX.fits]; grind -ring -linarith
  · simp [odd, RawX.ord, Src.back, Src.imm_field, Src.reg_word] <;> grind -ring -linarith
  · simp only [RawX.g, RawX.srcB, RawX.srcA, RawX.ord, Src.back, Src.imm_field, Src.reg_word, BitVec.ofNat_toNat, BitVec.setWidth_eq]
theorem bfi (g : Guard) (d : Nat) (a : Nat) (b : Src) (c : Nat) : Statement (.bfi g d a b c) := by
  intro _ hw
  have lb := Src.word_lt b
  have fb := Src.field_lt b
  have pb := Src.field_pair b
  replace hw : (g.wf && rOk d && rOk a && b.wf && rOk c) = true := hw
  simp only [Bool.and_eq_true] at hw
  have hg := guard16 hw.1.1.1.1
  simp [rOk] at hw
  refine viaTake .bfi rfl rfl rfl rfl (by rfl) ?_ ?_ ?_ ?_
  · exact hg.1
  · simp [RawX.fits]; grind -ring -linarith
  · simp [odd, RawX.ord, Src.back, Src.imm_field, Src.reg_word] <;> grind -ring -linarith
  · simp only [RawX.g, RawX.srcB, RawX.srcA, RawX.ord, Src.back, Src.imm_field, Src.reg_word, BitVec.ofNat_toNat, BitVec.setWidth_eq]
theorem sel (g : Guard) (d : Nat) (a : Nat) (b : Src) (pc : Nat) : Statement (.sel g d a b pc) := by
  intro _ hw
  have lb := Src.word_lt b
  have fb := Src.field_lt b
  have pb := Src.field_pair b
  replace hw : (g.wf && rOk d && rOk a && b.wf && predOk pc) = true := hw
  simp only [Bool.and_eq_true] at hw
  have hg := guard16 hw.1.1.1.1
  simp [rOk, predOk] at hw
  refine viaTake .sel rfl rfl rfl rfl (by rfl) ?_ ?_ ?_ ?_
  · exact hg.1
  · simp [RawX.fits]; grind -ring -linarith
  · simp [odd, RawX.ord, Src.back, Src.imm_field, Src.reg_word] <;> grind -ring -linarith
  · simp only [RawX.g, RawX.srcB, RawX.srcA, RawX.ord, Src.back, Src.imm_field, Src.reg_word, BitVec.ofNat_toNat, BitVec.setWidth_eq]
theorem iadd64 (g : Guard) (d : Nat) (a : Nat) (b : Src) : Statement (.iadd64 g d a b) := by
  intro _ hw
  have lb := Src.word_lt b
  have fb := Src.field_lt b
  have pb := Src.field_pair b
  replace hw : (g.wf && pairOk d && pairOk a && b.wfPair) = true := hw
  simp only [Bool.and_eq_true] at hw
  have hg := guard16 hw.1.1.1
  simp [pairOk] at hw
  refine viaTake .iadd64 rfl rfl rfl rfl (by rfl) ?_ ?_ ?_ ?_
  · exact hg.1
  · simp [RawX.fits]; grind -ring -linarith
  · simp [odd, RawX.ord, Src.back, Src.imm_field, Src.reg_word] <;> grind -ring -linarith
  · simp only [RawX.g, RawX.srcB, RawX.srcA, RawX.ord, Src.back, Src.imm_field, Src.reg_word, BitVec.ofNat_toNat, BitVec.setWidth_eq]
theorem iadd64Lit (g : Guard) (d : Nat) (a : Nat) (lit : DWord) : Statement (.iadd64Lit g d a lit) := by
  intro _ hw
  replace hw : (g.wf && pairOk d && pairOk a) = true := hw
  simp only [Bool.and_eq_true] at hw
  have hg := guard16 hw.1.1
  simp [pairOk] at hw
  refine viaLit .iadd64 rfl rfl rfl rfl rfl (by rfl) ?_ ?_ ?_ ?_
  · exact hg.1
  · simp [RawX.fits]; grind -ring -linarith
  · simp [odd, RawX.ord] <;> grind -ring -linarith
  · rfl
theorem isub64 (g : Guard) (d : Nat) (a : Nat) (b : Src) : Statement (.isub64 g d a b) := by
  intro _ hw
  have lb := Src.word_lt b
  have fb := Src.field_lt b
  have pb := Src.field_pair b
  replace hw : (g.wf && pairOk d && pairOk a && b.wfPair) = true := hw
  simp only [Bool.and_eq_true] at hw
  have hg := guard16 hw.1.1.1
  simp [pairOk] at hw
  refine viaTake .isub64 rfl rfl rfl rfl (by rfl) ?_ ?_ ?_ ?_
  · exact hg.1
  · simp [RawX.fits]; grind -ring -linarith
  · simp [odd, RawX.ord, Src.back, Src.imm_field, Src.reg_word] <;> grind -ring -linarith
  · simp only [RawX.g, RawX.srcB, RawX.srcA, RawX.ord, Src.back, Src.imm_field, Src.reg_word, BitVec.ofNat_toNat, BitVec.setWidth_eq]
theorem isub64Lit (g : Guard) (d : Nat) (a : Nat) (lit : DWord) : Statement (.isub64Lit g d a lit) := by
  intro _ hw
  replace hw : (g.wf && pairOk d && pairOk a) = true := hw
  simp only [Bool.and_eq_true] at hw
  have hg := guard16 hw.1.1
  simp [pairOk] at hw
  refine viaLit .isub64 rfl rfl rfl rfl rfl (by rfl) ?_ ?_ ?_ ?_
  · exact hg.1
  · simp [RawX.fits]; grind -ring -linarith
  · simp [odd, RawX.ord] <;> grind -ring -linarith
  · rfl
theorem imul64 (g : Guard) (d : Nat) (a : Nat) (b : Src) : Statement (.imul64 g d a b) := by
  intro _ hw
  have lb := Src.word_lt b
  have fb := Src.field_lt b
  have pb := Src.field_pair b
  replace hw : (g.wf && pairOk d && pairOk a && b.wfPair) = true := hw
  simp only [Bool.and_eq_true] at hw
  have hg := guard16 hw.1.1.1
  simp [pairOk] at hw
  refine viaTake .imul64 rfl rfl rfl rfl (by rfl) ?_ ?_ ?_ ?_
  · exact hg.1
  · simp [RawX.fits]; grind -ring -linarith
  · simp [odd, RawX.ord, Src.back, Src.imm_field, Src.reg_word] <;> grind -ring -linarith
  · simp only [RawX.g, RawX.srcB, RawX.srcA, RawX.ord, Src.back, Src.imm_field, Src.reg_word, BitVec.ofNat_toNat, BitVec.setWidth_eq]
theorem imul64Lit (g : Guard) (d : Nat) (a : Nat) (lit : DWord) : Statement (.imul64Lit g d a lit) := by
  intro _ hw
  replace hw : (g.wf && pairOk d && pairOk a) = true := hw
  simp only [Bool.and_eq_true] at hw
  have hg := guard16 hw.1.1
  simp [pairOk] at hw
  refine viaLit .imul64 rfl rfl rfl rfl rfl (by rfl) ?_ ?_ ?_ ?_
  · exact hg.1
  · simp [RawX.fits]; grind -ring -linarith
  · simp [odd, RawX.ord] <;> grind -ring -linarith
  · rfl
theorem shl64 (g : Guard) (d : Nat) (a : Nat) (b : Src) : Statement (.shl64 g d a b) := by
  intro _ hw
  have lb := Src.word_lt b
  have fb := Src.field_lt b
  have pb := Src.field_pair b
  replace hw : (g.wf && pairOk d && pairOk a && b.wf) = true := hw
  simp only [Bool.and_eq_true] at hw
  have hg := guard16 hw.1.1.1
  simp [pairOk] at hw
  refine viaTake .shl64 rfl rfl rfl rfl (by rfl) ?_ ?_ ?_ ?_
  · exact hg.1
  · simp [RawX.fits]; grind -ring -linarith
  · simp [odd, RawX.ord, Src.back, Src.imm_field, Src.reg_word] <;> grind -ring -linarith
  · simp only [RawX.g, RawX.srcB, RawX.srcA, RawX.ord, Src.back, Src.imm_field, Src.reg_word, BitVec.ofNat_toNat, BitVec.setWidth_eq]
theorem shr64 (g : Guard) (d : Nat) (a : Nat) (b : Src) (sg : Bool) : Statement (.shr64 g d a b sg) := by
  intro _ hw
  have lb := Src.word_lt b
  have fb := Src.field_lt b
  have pb := Src.field_pair b
  have ls := bit_lt sg
  replace hw : (g.wf && pairOk d && pairOk a && b.wf) = true := hw
  simp only [Bool.and_eq_true] at hw
  have hg := guard16 hw.1.1.1
  simp [pairOk] at hw
  refine viaTake .shr64 rfl rfl rfl rfl (by rfl) ?_ ?_ ?_ ?_
  · exact hg.1
  · simp [RawX.fits]; grind -ring -linarith
  · simp [odd, RawX.ord, Src.back, Src.imm_field, Src.reg_word] <;> grind -ring -linarith
  · simp only [RawX.g, RawX.srcB, RawX.srcA, RawX.ord, Src.back, Src.imm_field, Src.reg_word, BitVec.ofNat_toNat, BitVec.setWidth_eq]
theorem lea (g : Guard) (d : Nat) (a : Nat) (b : Src) (u : Bool) (sh : Nat) : Statement (.lea g d a b u sh) := by
  intro _ hw
  have lb := Src.word_lt b
  have fb := Src.field_lt b
  have pb := Src.field_pair b
  have lu := bit_lt u
  replace hw : (g.wf && pairOk d && pairOk a && b.wf && decide (sh < 8)) = true := hw
  simp only [Bool.and_eq_true] at hw
  have hg := guard16 hw.1.1.1.1
  simp [pairOk] at hw
  refine viaTake .lea rfl rfl rfl rfl (by rfl) ?_ ?_ ?_ ?_
  · exact hg.1
  · simp [RawX.fits]; grind -ring -linarith
  · simp [odd, RawX.ord, Src.back, Src.imm_field, Src.reg_word] <;> grind -ring -linarith
  · simp only [RawX.g, RawX.srcB, RawX.srcA, RawX.ord, Src.back, Src.imm_field, Src.reg_word, BitVec.ofNat_toNat, BitVec.setWidth_eq]
theorem imulw (g : Guard) (d : Nat) (a : Nat) (b : Src) (u : Bool) : Statement (.imulw g d a b u) := by
  intro _ hw
  have lb := Src.word_lt b
  have fb := Src.field_lt b
  have pb := Src.field_pair b
  have lu := bit_lt u
  replace hw : (g.wf && pairOk d && rOk a && b.wf) = true := hw
  simp only [Bool.and_eq_true] at hw
  have hg := guard16 hw.1.1.1
  simp [pairOk, rOk] at hw
  refine viaTake .imulw rfl rfl rfl rfl (by rfl) ?_ ?_ ?_ ?_
  · exact hg.1
  · simp [RawX.fits]; grind -ring -linarith
  · simp [odd, RawX.ord, Src.back, Src.imm_field, Src.reg_word] <;> grind -ring -linarith
  · simp only [RawX.g, RawX.srcB, RawX.srcA, RawX.ord, Src.back, Src.imm_field, Src.reg_word, BitVec.ofNat_toNat, BitVec.setWidth_eq]
theorem imadw (g : Guard) (d : Nat) (a : Nat) (b : Src) (c : Nat) (u : Bool) : Statement (.imadw g d a b c u) := by
  intro _ hw
  have lb := Src.word_lt b
  have fb := Src.field_lt b
  have pb := Src.field_pair b
  have lu := bit_lt u
  replace hw : (g.wf && pairOk d && rOk a && b.wf && pairOk c) = true := hw
  simp only [Bool.and_eq_true] at hw
  have hg := guard16 hw.1.1.1.1
  simp [pairOk, rOk] at hw
  refine viaTake .imadw rfl rfl rfl rfl (by rfl) ?_ ?_ ?_ ?_
  · exact hg.1
  · simp [RawX.fits]; grind -ring -linarith
  · simp [odd, RawX.ord, Src.back, Src.imm_field, Src.reg_word] <;> grind -ring -linarith
  · simp only [RawX.g, RawX.srcB, RawX.srcA, RawX.ord, Src.back, Src.imm_field, Src.reg_word, BitVec.ofNat_toNat, BitVec.setWidth_eq]
theorem icmp (g : Guard) (pd : Nat) (a : Nat) (b : Src) (cc : Cc) (u : Bool) : Statement (.icmp g pd a b cc u) := by
  intro _ hw
  have lcc := Cc.code_lt cc
  have lb := Src.word_lt b
  have fb := Src.field_lt b
  have pb := Src.field_pair b
  have lu := bit_lt u
  replace hw : (g.wf && predOk pd && rOk a && b.wf && ccSignOk cc u) = true := hw
  simp only [Bool.and_eq_true] at hw
  have hg := guard16 hw.1.1.1.1
  simp [rOk, predOk, ccSignOk, Cc.code_eq, Cc.code_ne] at hw
  refine viaTake .icmp rfl rfl rfl rfl (by rfl) ?_ ?_ ?_ ?_
  · exact hg.1
  · simp [RawX.fits]; grind -ring -linarith
  · simp [odd, RawX.ord, Cc.dec_code, Src.back, Src.imm_field, Src.reg_word] <;> grind -ring -linarith
  · simp only [RawX.g, RawX.srcB, RawX.srcA, RawX.ord, Cc.dec_code, Src.back, Src.imm_field, Src.reg_word, BitVec.ofNat_toNat, BitVec.setWidth_eq]
theorem icmp64 (g : Guard) (pd : Nat) (a : Nat) (b : Src) (cc : Cc) (u : Bool) : Statement (.icmp64 g pd a b cc u) := by
  intro _ hw
  have lcc := Cc.code_lt cc
  have lb := Src.word_lt b
  have fb := Src.field_lt b
  have pb := Src.field_pair b
  have lu := bit_lt u
  replace hw : (g.wf && predOk pd && pairOk a && b.wfPair && ccSignOk cc u) = true := hw
  simp only [Bool.and_eq_true] at hw
  have hg := guard16 hw.1.1.1.1
  simp [pairOk, predOk, ccSignOk, Cc.code_eq, Cc.code_ne] at hw
  refine viaTake .icmp64 rfl rfl rfl rfl (by rfl) ?_ ?_ ?_ ?_
  · exact hg.1
  · simp [RawX.fits]; grind -ring -linarith
  · simp [odd, RawX.ord, Cc.dec_code, Src.back, Src.imm_field, Src.reg_word] <;> grind -ring -linarith
  · simp only [RawX.g, RawX.srcB, RawX.srcA, RawX.ord, Cc.dec_code, Src.back, Src.imm_field, Src.reg_word, BitVec.ofNat_toNat, BitVec.setWidth_eq]
theorem icmp64Lit (g : Guard) (pd : Nat) (a : Nat) (cc : Cc) (u : Bool) (lit : DWord) : Statement (.icmp64Lit g pd a cc u lit) := by
  intro _ hw
  have lcc := Cc.code_lt cc
  have lu := bit_lt u
  replace hw : (g.wf && predOk pd && pairOk a && ccSignOk cc u) = true := hw
  simp only [Bool.and_eq_true] at hw
  have hg := guard16 hw.1.1.1
  simp [pairOk, predOk, ccSignOk, Cc.code_eq, Cc.code_ne] at hw
  refine viaLit .icmp64 rfl rfl rfl rfl rfl (by rfl) ?_ ?_ ?_ ?_
  · exact hg.1
  · simp [RawX.fits]; grind -ring -linarith
  · simp [odd, RawX.ord, Cc.dec_code] <;> grind -ring -linarith
  · simp only [RawX.g, RawX.srcB, RawX.srcA, RawX.ord, Cc.dec_code, BitVec.ofNat_toNat, BitVec.setWidth_eq]
theorem fcmp (g : Guard) (pd : Nat) (a : Nat) (b : Src) (cc : Cc) (un : Bool) : Statement (.fcmp g pd a b cc un) := by
  intro _ hw
  have lcc := Cc.code_lt cc
  have lb := Src.word_lt b
  have fb := Src.field_lt b
  have pb := Src.field_pair b
  have lun := bit_lt un
  replace hw : (g.wf && predOk pd && rOk a && b.wf) = true := hw
  simp only [Bool.and_eq_true] at hw
  have hg := guard16 hw.1.1.1
  simp [rOk, predOk] at hw
  refine viaTake .fcmp rfl rfl rfl rfl (by rfl) ?_ ?_ ?_ ?_
  · exact hg.1
  · simp [RawX.fits]; grind -ring -linarith
  · simp [odd, RawX.ord, Cc.dec_code, Src.back, Src.imm_field, Src.reg_word] <;> grind -ring -linarith
  · simp only [RawX.g, RawX.srcB, RawX.srcA, RawX.ord, Cc.dec_code, Src.back, Src.imm_field, Src.reg_word, BitVec.ofNat_toNat, BitVec.setWidth_eq]
theorem fclass (g : Guard) (d : Nat) (a : Nat) (fmt : Fmt) (laneIx : Nat) : Statement (.fclass g d a fmt laneIx) := by
  intro _ hw
  have lfmt := Fmt.code_lt fmt
  have kfmt := Fmt.lanes_le fmt
  have qfmt := Fmt.packSlots_le fmt
  replace hw : (g.wf && rOk d && rOk a && fclassOk fmt laneIx a) = true := hw
  simp only [Bool.and_eq_true] at hw
  have hg := guard16 hw.1.1.1
  simp [rOk, fclassOk, wideOk, Fmt.isInt_code, Fmt.code_f64] at hw
  have efmt : ∀ r : RawX, r.w2 = 512 * fmt.code + 8192 * laneIx → w2f r 9 4 = fmt.code := by
    intro r hr; simp only [w2f, hr]; grind -ring -linarith
  have elaneIx : ∀ r : RawX, r.w2 = 512 * fmt.code + 8192 * laneIx → w2f r 13 5 = laneIx := by
    intro r hr; simp only [w2f, hr]; grind -ring -linarith
  have e512 : (512 * fmt.code + 8192 * laneIx) % 512 = 0 := by omega
  refine viaTake .fclass rfl rfl rfl rfl (by rfl) ?_ ?_ ?_ ?_
  · exact hg.1
  · simp [RawX.fits]; grind -ring -linarith
  · simp [odd, RawX.ord, Fmt.dec_code, Fmt.isInt_code, efmt, elaneIx, e512] <;> grind -ring -linarith
  · simp only [RawX.g, RawX.srcB, RawX.srcA, RawX.ord, Fmt.dec_code, Fmt.isInt_code, efmt, elaneIx, e512, BitVec.ofNat_toNat, BitVec.setWidth_eq]
theorem pand (g : Guard) (pd : Nat) (pa : Nat) (pb : Nat) : Statement (.pand g pd pa pb) := by
  intro _ hw
  replace hw : (g.wf && predOk pd && predOk pa && predOk pb) = true := hw
  simp only [Bool.and_eq_true] at hw
  have hg := guard16 hw.1.1.1
  simp [predOk] at hw
  refine viaTake .pand rfl rfl rfl rfl (by rfl) ?_ ?_ ?_ ?_
  · exact hg.1
  · simp [RawX.fits]; grind -ring -linarith
  · simp [odd, RawX.ord] <;> grind -ring -linarith
  · rfl
theorem por (g : Guard) (pd : Nat) (pa : Nat) (pb : Nat) : Statement (.por g pd pa pb) := by
  intro _ hw
  replace hw : (g.wf && predOk pd && predOk pa && predOk pb) = true := hw
  simp only [Bool.and_eq_true] at hw
  have hg := guard16 hw.1.1.1
  simp [predOk] at hw
  refine viaTake .por rfl rfl rfl rfl (by rfl) ?_ ?_ ?_ ?_
  · exact hg.1
  · simp [RawX.fits]; grind -ring -linarith
  · simp [odd, RawX.ord] <;> grind -ring -linarith
  · rfl
theorem pxor (g : Guard) (pd : Nat) (pa : Nat) (pb : Nat) : Statement (.pxor g pd pa pb) := by
  intro _ hw
  replace hw : (g.wf && predOk pd && predOk pa && predOk pb) = true := hw
  simp only [Bool.and_eq_true] at hw
  have hg := guard16 hw.1.1.1
  simp [predOk] at hw
  refine viaTake .pxor rfl rfl rfl rfl (by rfl) ?_ ?_ ?_ ?_
  · exact hg.1
  · simp [RawX.fits]; grind -ring -linarith
  · simp [odd, RawX.ord] <;> grind -ring -linarith
  · rfl
theorem pnot (g : Guard) (pd : Nat) (pa : Nat) : Statement (.pnot g pd pa) := by
  intro _ hw
  replace hw : (g.wf && predOk pd && predOk pa) = true := hw
  simp only [Bool.and_eq_true] at hw
  have hg := guard16 hw.1.1
  simp [predOk] at hw
  refine viaTake .pnot rfl rfl rfl rfl (by rfl) ?_ ?_ ?_ ?_
  · exact hg.1
  · simp [RawX.fits]; grind -ring -linarith
  · simp [odd, RawX.ord] <;> grind -ring -linarith
  · rfl
theorem pmov (g : Guard) (f : PmovForm) : Statement (.pmov g f) := by
  intro _ hw
  replace hw : (g.wf && f.wf) = true := hw
  cases f <;>
    (simp [Guard.wf, PmovForm.wf, rOk, predOk] at hw
     refine viaTake .pmov rfl rfl rfl rfl (by rfl) ?_ ?_ ?_ rfl
     · simp; grind -ring -linarith
     · simp [RawX.fits, PmovForm.raw]; grind -ring -linarith
     · simp [PmovForm.raw] <;> grind -ring -linarith)
theorem pset (g : Guard) (pd : Nat) (v : Bool) : Statement (.pset g pd v) := by
  intro _ hw
  have lv := bit_lt v
  replace hw : (g.wf && predOk pd) = true := hw
  simp only [Bool.and_eq_true] at hw
  have hg := guard16 hw.1
  simp [predOk] at hw
  have ev : ∀ r : RawX, r.w2 = 1 * v.toNat → w2f r 0 1 = v.toNat := by
    intro r hr; simp only [w2f, hr]; grind -ring -linarith
  refine viaTake .pset rfl rfl rfl rfl (by rfl) ?_ ?_ ?_ ?_
  · exact hg.1
  · simp [RawX.fits]; grind -ring -linarith
  · simp [odd, RawX.ord, ev] <;> grind -ring -linarith
  · simp [RawX.g, RawX.srcB, RawX.srcA, RawX.ord, ev] <;> grind -ring -linarith
theorem fadd (g : Guard) (d : Nat) (a : Nat) (b : Src) (m : RM) : Statement (.fadd g d a b m) := by
  intro _ hw
  have lm := RM.code_lt m
  have lb := Src.word_lt b
  have fb := Src.field_lt b
  have pb := Src.field_pair b
  replace hw : (g.wf && rOk d && rOk a && b.wf) = true := hw
  simp only [Bool.and_eq_true] at hw
  have hg := guard16 hw.1.1.1
  simp [rOk] at hw
  refine viaTake .fadd rfl rfl rfl rfl (by rfl) ?_ ?_ ?_ ?_
  · exact hg.1
  · simp [RawX.fits]; grind -ring -linarith
  · simp [odd, RawX.ord, RM.dec_code, Src.back, Src.imm_field, Src.reg_word] <;> grind -ring -linarith
  · simp only [RawX.g, RawX.srcB, RawX.srcA, RawX.ord, RM.dec_code, Src.back, Src.imm_field, Src.reg_word, BitVec.ofNat_toNat, BitVec.setWidth_eq]
theorem fsub (g : Guard) (d : Nat) (a : Nat) (b : Src) (m : RM) : Statement (.fsub g d a b m) := by
  intro _ hw
  have lm := RM.code_lt m
  have lb := Src.word_lt b
  have fb := Src.field_lt b
  have pb := Src.field_pair b
  replace hw : (g.wf && rOk d && rOk a && b.wf) = true := hw
  simp only [Bool.and_eq_true] at hw
  have hg := guard16 hw.1.1.1
  simp [rOk] at hw
  refine viaTake .fsub rfl rfl rfl rfl (by rfl) ?_ ?_ ?_ ?_
  · exact hg.1
  · simp [RawX.fits]; grind -ring -linarith
  · simp [odd, RawX.ord, RM.dec_code, Src.back, Src.imm_field, Src.reg_word] <;> grind -ring -linarith
  · simp only [RawX.g, RawX.srcB, RawX.srcA, RawX.ord, RM.dec_code, Src.back, Src.imm_field, Src.reg_word, BitVec.ofNat_toNat, BitVec.setWidth_eq]
theorem fmul (g : Guard) (d : Nat) (a : Nat) (b : Src) (m : RM) : Statement (.fmul g d a b m) := by
  intro _ hw
  have lm := RM.code_lt m
  have lb := Src.word_lt b
  have fb := Src.field_lt b
  have pb := Src.field_pair b
  replace hw : (g.wf && rOk d && rOk a && b.wf) = true := hw
  simp only [Bool.and_eq_true] at hw
  have hg := guard16 hw.1.1.1
  simp [rOk] at hw
  refine viaTake .fmul rfl rfl rfl rfl (by rfl) ?_ ?_ ?_ ?_
  · exact hg.1
  · simp [RawX.fits]; grind -ring -linarith
  · simp [odd, RawX.ord, RM.dec_code, Src.back, Src.imm_field, Src.reg_word] <;> grind -ring -linarith
  · simp only [RawX.g, RawX.srcB, RawX.srcA, RawX.ord, RM.dec_code, Src.back, Src.imm_field, Src.reg_word, BitVec.ofNat_toNat, BitVec.setWidth_eq]
theorem ffma (g : Guard) (d : Nat) (a : Nat) (b : Src) (c : Nat) (m : RM) : Statement (.ffma g d a b c m) := by
  intro _ hw
  have lm := RM.code_lt m
  have lb := Src.word_lt b
  have fb := Src.field_lt b
  have pb := Src.field_pair b
  replace hw : (g.wf && rOk d && rOk a && b.wf && rOk c) = true := hw
  simp only [Bool.and_eq_true] at hw
  have hg := guard16 hw.1.1.1.1
  simp [rOk] at hw
  refine viaTake .ffma rfl rfl rfl rfl (by rfl) ?_ ?_ ?_ ?_
  · exact hg.1
  · simp [RawX.fits]; grind -ring -linarith
  · simp [odd, RawX.ord, RM.dec_code, Src.back, Src.imm_field, Src.reg_word] <;> grind -ring -linarith
  · simp only [RawX.g, RawX.srcB, RawX.srcA, RawX.ord, RM.dec_code, Src.back, Src.imm_field, Src.reg_word, BitVec.ofNat_toNat, BitVec.setWidth_eq]
theorem fmin (g : Guard) (d : Nat) (a : Nat) (b : Src) : Statement (.fmin g d a b) := by
  intro _ hw
  have lb := Src.word_lt b
  have fb := Src.field_lt b
  have pb := Src.field_pair b
  replace hw : (g.wf && rOk d && rOk a && b.wf) = true := hw
  simp only [Bool.and_eq_true] at hw
  have hg := guard16 hw.1.1.1
  simp [rOk] at hw
  refine viaTake .fmin rfl rfl rfl rfl (by rfl) ?_ ?_ ?_ ?_
  · exact hg.1
  · simp [RawX.fits]; grind -ring -linarith
  · simp [odd, RawX.ord, Src.back, Src.imm_field, Src.reg_word] <;> grind -ring -linarith
  · simp only [RawX.g, RawX.srcB, RawX.srcA, RawX.ord, Src.back, Src.imm_field, Src.reg_word, BitVec.ofNat_toNat, BitVec.setWidth_eq]
theorem fmax (g : Guard) (d : Nat) (a : Nat) (b : Src) : Statement (.fmax g d a b) := by
  intro _ hw
  have lb := Src.word_lt b
  have fb := Src.field_lt b
  have pb := Src.field_pair b
  replace hw : (g.wf && rOk d && rOk a && b.wf) = true := hw
  simp only [Bool.and_eq_true] at hw
  have hg := guard16 hw.1.1.1
  simp [rOk] at hw
  refine viaTake .fmax rfl rfl rfl rfl (by rfl) ?_ ?_ ?_ ?_
  · exact hg.1
  · simp [RawX.fits]; grind -ring -linarith
  · simp [odd, RawX.ord, Src.back, Src.imm_field, Src.reg_word] <;> grind -ring -linarith
  · simp only [RawX.g, RawX.srcB, RawX.srcA, RawX.ord, Src.back, Src.imm_field, Src.reg_word, BitVec.ofNat_toNat, BitVec.setWidth_eq]
theorem fabs (g : Guard) (d : Nat) (a : Nat) : Statement (.fabs g d a) := by
  intro _ hw
  replace hw : (g.wf && rOk d && rOk a) = true := hw
  simp only [Bool.and_eq_true] at hw
  have hg := guard16 hw.1.1
  simp [rOk] at hw
  refine viaTake .fabs rfl rfl rfl rfl (by rfl) ?_ ?_ ?_ ?_
  · exact hg.1
  · simp [RawX.fits]; grind -ring -linarith
  · simp [odd, RawX.ord] <;> grind -ring -linarith
  · rfl
theorem fneg (g : Guard) (d : Nat) (a : Nat) : Statement (.fneg g d a) := by
  intro _ hw
  replace hw : (g.wf && rOk d && rOk a) = true := hw
  simp only [Bool.and_eq_true] at hw
  have hg := guard16 hw.1.1
  simp [rOk] at hw
  refine viaTake .fneg rfl rfl rfl rfl (by rfl) ?_ ?_ ?_ ?_
  · exact hg.1
  · simp [RawX.fits]; grind -ring -linarith
  · simp [odd, RawX.ord] <;> grind -ring -linarith
  · rfl
theorem frcp (g : Guard) (d : Nat) (a : Nat) : Statement (.frcp g d a) := by
  intro _ hw
  replace hw : (g.wf && rOk d && rOk a) = true := hw
  simp only [Bool.and_eq_true] at hw
  have hg := guard16 hw.1.1
  simp [rOk] at hw
  refine viaTake .frcp rfl rfl rfl rfl (by rfl) ?_ ?_ ?_ ?_
  · exact hg.1
  · simp [RawX.fits]; grind -ring -linarith
  · simp [odd, RawX.ord] <;> grind -ring -linarith
  · rfl
theorem frsq (g : Guard) (d : Nat) (a : Nat) : Statement (.frsq g d a) := by
  intro _ hw
  replace hw : (g.wf && rOk d && rOk a) = true := hw
  simp only [Bool.and_eq_true] at hw
  have hg := guard16 hw.1.1
  simp [rOk] at hw
  refine viaTake .frsq rfl rfl rfl rfl (by rfl) ?_ ?_ ?_ ?_
  · exact hg.1
  · simp [RawX.fits]; grind -ring -linarith
  · simp [odd, RawX.ord] <;> grind -ring -linarith
  · rfl
theorem fsqrt (g : Guard) (d : Nat) (a : Nat) (m : RM) : Statement (.fsqrt g d a m) := by
  intro _ hw
  have lm := RM.code_lt m
  replace hw : (g.wf && rOk d && rOk a) = true := hw
  simp only [Bool.and_eq_true] at hw
  have hg := guard16 hw.1.1
  simp [rOk] at hw
  refine viaTake .fsqrt rfl rfl rfl rfl (by rfl) ?_ ?_ ?_ ?_
  · exact hg.1
  · simp [RawX.fits]; grind -ring -linarith
  · simp [odd, RawX.ord, RM.dec_code] <;> grind -ring -linarith
  · simp only [RawX.g, RawX.srcB, RawX.srcA, RawX.ord, RM.dec_code, BitVec.ofNat_toNat, BitVec.setWidth_eq]
theorem fdiv (g : Guard) (d : Nat) (a : Nat) (b : Src) (m : RM) : Statement (.fdiv g d a b m) := by
  intro _ hw
  have lm := RM.code_lt m
  have lb := Src.word_lt b
  have fb := Src.field_lt b
  have pb := Src.field_pair b
  replace hw : (g.wf && rOk d && rOk a && b.wf) = true := hw
  simp only [Bool.and_eq_true] at hw
  have hg := guard16 hw.1.1.1
  simp [rOk] at hw
  refine viaTake .fdiv rfl rfl rfl rfl (by rfl) ?_ ?_ ?_ ?_
  · exact hg.1
  · simp [RawX.fits]; grind -ring -linarith
  · simp [odd, RawX.ord, RM.dec_code, Src.back, Src.imm_field, Src.reg_word] <;> grind -ring -linarith
  · simp only [RawX.g, RawX.srcB, RawX.srcA, RawX.ord, RM.dec_code, Src.back, Src.imm_field, Src.reg_word, BitVec.ofNat_toNat, BitVec.setWidth_eq]
theorem fexp2 (g : Guard) (d : Nat) (a : Nat) : Statement (.fexp2 g d a) := by
  intro _ hw
  replace hw : (g.wf && rOk d && rOk a) = true := hw
  simp only [Bool.and_eq_true] at hw
  have hg := guard16 hw.1.1
  simp [rOk] at hw
  refine viaTake .fexp2 rfl rfl rfl rfl (by rfl) ?_ ?_ ?_ ?_
  · exact hg.1
  · simp [RawX.fits]; grind -ring -linarith
  · simp [odd, RawX.ord] <;> grind -ring -linarith
  · rfl
theorem flog2 (g : Guard) (d : Nat) (a : Nat) : Statement (.flog2 g d a) := by
  intro _ hw
  replace hw : (g.wf && rOk d && rOk a) = true := hw
  simp only [Bool.and_eq_true] at hw
  have hg := guard16 hw.1.1
  simp [rOk] at hw
  refine viaTake .flog2 rfl rfl rfl rfl (by rfl) ?_ ?_ ?_ ?_
  · exact hg.1
  · simp [RawX.fits]; grind -ring -linarith
  · simp [odd, RawX.ord] <;> grind -ring -linarith
  · rfl
theorem fsin (g : Guard) (d : Nat) (a : Nat) : Statement (.fsin g d a) := by
  intro _ hw
  replace hw : (g.wf && rOk d && rOk a) = true := hw
  simp only [Bool.and_eq_true] at hw
  have hg := guard16 hw.1.1
  simp [rOk] at hw
  refine viaTake .fsin rfl rfl rfl rfl (by rfl) ?_ ?_ ?_ ?_
  · exact hg.1
  · simp [RawX.fits]; grind -ring -linarith
  · simp [odd, RawX.ord] <;> grind -ring -linarith
  · rfl
theorem fcos (g : Guard) (d : Nat) (a : Nat) : Statement (.fcos g d a) := by
  intro _ hw
  replace hw : (g.wf && rOk d && rOk a) = true := hw
  simp only [Bool.and_eq_true] at hw
  have hg := guard16 hw.1.1
  simp [rOk] at hw
  refine viaTake .fcos rfl rfl rfl rfl (by rfl) ?_ ?_ ?_ ?_
  · exact hg.1
  · simp [RawX.fits]; grind -ring -linarith
  · simp [odd, RawX.ord] <;> grind -ring -linarith
  · rfl
theorem ftanh (g : Guard) (d : Nat) (a : Nat) : Statement (.ftanh g d a) := by
  intro _ hw
  replace hw : (g.wf && rOk d && rOk a) = true := hw
  simp only [Bool.and_eq_true] at hw
  have hg := guard16 hw.1.1
  simp [rOk] at hw
  refine viaTake .ftanh rfl rfl rfl rfl (by rfl) ?_ ?_ ?_ ?_
  · exact hg.1
  · simp [RawX.fits]; grind -ring -linarith
  · simp [odd, RawX.ord] <;> grind -ring -linarith
  · rfl
theorem frint (g : Guard) (d : Nat) (a : Nat) (m : RM) : Statement (.frint g d a m) := by
  intro _ hw
  have lm := RM.code_lt m
  replace hw : (g.wf && rOk d && rOk a) = true := hw
  simp only [Bool.and_eq_true] at hw
  have hg := guard16 hw.1.1
  simp [rOk] at hw
  refine viaTake .frint rfl rfl rfl rfl (by rfl) ?_ ?_ ?_ ?_
  · exact hg.1
  · simp [RawX.fits]; grind -ring -linarith
  · simp [odd, RawX.ord, RM.dec_code] <;> grind -ring -linarith
  · simp only [RawX.g, RawX.srcB, RawX.srcA, RawX.ord, RM.dec_code, BitVec.ofNat_toNat, BitVec.setWidth_eq]
theorem hadd2 (g : Guard) (d : Nat) (a : Nat) (b : Src) (m : RM) (h : Bool) : Statement (.hadd2 g d a b m h) := by
  intro _ hw
  have lm := RM.code_lt m
  have lb := Src.word_lt b
  have fb := Src.field_lt b
  have pb := Src.field_pair b
  have lh := bit_lt h
  replace hw : (g.wf && rOk d && rOk a && b.wf) = true := hw
  simp only [Bool.and_eq_true] at hw
  have hg := guard16 hw.1.1.1
  simp [rOk] at hw
  refine viaTake .hadd2 rfl rfl rfl rfl (by rfl) ?_ ?_ ?_ ?_
  · exact hg.1
  · simp [RawX.fits]; grind -ring -linarith
  · simp [odd, RawX.ord, RM.dec_code, Src.back, Src.imm_field, Src.reg_word] <;> grind -ring -linarith
  · simp only [RawX.g, RawX.srcB, RawX.srcA, RawX.ord, RM.dec_code, Src.back, Src.imm_field, Src.reg_word, BitVec.ofNat_toNat, BitVec.setWidth_eq]
theorem hmul2 (g : Guard) (d : Nat) (a : Nat) (b : Src) (m : RM) (h : Bool) : Statement (.hmul2 g d a b m h) := by
  intro _ hw
  have lm := RM.code_lt m
  have lb := Src.word_lt b
  have fb := Src.field_lt b
  have pb := Src.field_pair b
  have lh := bit_lt h
  replace hw : (g.wf && rOk d && rOk a && b.wf) = true := hw
  simp only [Bool.and_eq_true] at hw
  have hg := guard16 hw.1.1.1
  simp [rOk] at hw
  refine viaTake .hmul2 rfl rfl rfl rfl (by rfl) ?_ ?_ ?_ ?_
  · exact hg.1
  · simp [RawX.fits]; grind -ring -linarith
  · simp [odd, RawX.ord, RM.dec_code, Src.back, Src.imm_field, Src.reg_word] <;> grind -ring -linarith
  · simp only [RawX.g, RawX.srcB, RawX.srcA, RawX.ord, RM.dec_code, Src.back, Src.imm_field, Src.reg_word, BitVec.ofNat_toNat, BitVec.setWidth_eq]
theorem hfma2 (g : Guard) (d : Nat) (a : Nat) (b : Src) (c : Nat) (m : RM) (h : Bool) : Statement (.hfma2 g d a b c m h) := by
  intro _ hw
  have lm := RM.code_lt m
  have lb := Src.word_lt b
  have fb := Src.field_lt b
  have pb := Src.field_pair b
  have lh := bit_lt h
  replace hw : (g.wf && rOk d && rOk a && b.wf && rOk c) = true := hw
  simp only [Bool.and_eq_true] at hw
  have hg := guard16 hw.1.1.1.1
  simp [rOk] at hw
  refine viaTake .hfma2 rfl rfl rfl rfl (by rfl) ?_ ?_ ?_ ?_
  · exact hg.1
  · simp [RawX.fits]; grind -ring -linarith
  · simp [odd, RawX.ord, RM.dec_code, Src.back, Src.imm_field, Src.reg_word] <;> grind -ring -linarith
  · simp only [RawX.g, RawX.srcB, RawX.srcA, RawX.ord, RM.dec_code, Src.back, Src.imm_field, Src.reg_word, BitVec.ofNat_toNat, BitVec.setWidth_eq]
theorem hmin2 (g : Guard) (d : Nat) (a : Nat) (b : Src) (h : Bool) : Statement (.hmin2 g d a b h) := by
  intro _ hw
  have lb := Src.word_lt b
  have fb := Src.field_lt b
  have pb := Src.field_pair b
  have lh := bit_lt h
  replace hw : (g.wf && rOk d && rOk a && b.wf) = true := hw
  simp only [Bool.and_eq_true] at hw
  have hg := guard16 hw.1.1.1
  simp [rOk] at hw
  refine viaTake .hmin2 rfl rfl rfl rfl (by rfl) ?_ ?_ ?_ ?_
  · exact hg.1
  · simp [RawX.fits]; grind -ring -linarith
  · simp [odd, RawX.ord, Src.back, Src.imm_field, Src.reg_word] <;> grind -ring -linarith
  · simp only [RawX.g, RawX.srcB, RawX.srcA, RawX.ord, Src.back, Src.imm_field, Src.reg_word, BitVec.ofNat_toNat, BitVec.setWidth_eq]
theorem hmax2 (g : Guard) (d : Nat) (a : Nat) (b : Src) (h : Bool) : Statement (.hmax2 g d a b h) := by
  intro _ hw
  have lb := Src.word_lt b
  have fb := Src.field_lt b
  have pb := Src.field_pair b
  have lh := bit_lt h
  replace hw : (g.wf && rOk d && rOk a && b.wf) = true := hw
  simp only [Bool.and_eq_true] at hw
  have hg := guard16 hw.1.1.1
  simp [rOk] at hw
  refine viaTake .hmax2 rfl rfl rfl rfl (by rfl) ?_ ?_ ?_ ?_
  · exact hg.1
  · simp [RawX.fits]; grind -ring -linarith
  · simp [odd, RawX.ord, Src.back, Src.imm_field, Src.reg_word] <;> grind -ring -linarith
  · simp only [RawX.g, RawX.srcB, RawX.srcA, RawX.ord, Src.back, Src.imm_field, Src.reg_word, BitVec.ofNat_toNat, BitVec.setWidth_eq]
theorem dadd (g : Guard) (d : Nat) (a : Nat) (b : Nat) (m : RM) : Statement (.dadd g d a b m) := by
  intro _ hw
  have lm := RM.code_lt m
  replace hw : (g.wf && pairOk d && pairOk a && pairOk b) = true := hw
  simp only [Bool.and_eq_true] at hw
  have hg := guard16 hw.1.1.1
  simp [pairOk] at hw
  refine viaTake .dadd rfl rfl rfl rfl (by rfl) ?_ ?_ ?_ ?_
  · exact hg.1
  · simp [RawX.fits]; grind -ring -linarith
  · simp [odd, RawX.ord, RM.dec_code] <;> grind -ring -linarith
  · simp only [RawX.g, RawX.srcB, RawX.srcA, RawX.ord, RM.dec_code, BitVec.ofNat_toNat, BitVec.setWidth_eq]
theorem daddLit (g : Guard) (d : Nat) (a : Nat) (m : RM) (lit : DWord) : Statement (.daddLit g d a m lit) := by
  intro _ hw
  have lm := RM.code_lt m
  replace hw : (g.wf && pairOk d && pairOk a) = true := hw
  simp only [Bool.and_eq_true] at hw
  have hg := guard16 hw.1.1
  simp [pairOk] at hw
  refine viaLit .dadd rfl rfl rfl rfl rfl (by rfl) ?_ ?_ ?_ ?_
  · exact hg.1
  · simp [RawX.fits]; grind -ring -linarith
  · simp [odd, RawX.ord, RM.dec_code] <;> grind -ring -linarith
  · simp only [RawX.g, RawX.srcB, RawX.srcA, RawX.ord, RM.dec_code, BitVec.ofNat_toNat, BitVec.setWidth_eq]
theorem dmul (g : Guard) (d : Nat) (a : Nat) (b : Nat) (m : RM) : Statement (.dmul g d a b m) := by
  intro _ hw
  have lm := RM.code_lt m
  replace hw : (g.wf && pairOk d && pairOk a && pairOk b) = true := hw
  simp only [Bool.and_eq_true] at hw
  have hg := guard16 hw.1.1.1
  simp [pairOk] at hw
  refine viaTake .dmul rfl rfl rfl rfl (by rfl) ?_ ?_ ?_ ?_
  · exact hg.1
  · simp [RawX.fits]; grind -ring -linarith
  · simp [odd, RawX.ord, RM.dec_code] <;> grind -ring -linarith
  · simp only [RawX.g, RawX.srcB, RawX.srcA, RawX.ord, RM.dec_code, BitVec.ofNat_toNat, BitVec.setWidth_eq]
theorem dmulLit (g : Guard) (d : Nat) (a : Nat) (m : RM) (lit : DWord) : Statement (.dmulLit g d a m lit) := by
  intro _ hw
  have lm := RM.code_lt m
  replace hw : (g.wf && pairOk d && pairOk a) = true := hw
  simp only [Bool.and_eq_true] at hw
  have hg := guard16 hw.1.1
  simp [pairOk] at hw
  refine viaLit .dmul rfl rfl rfl rfl rfl (by rfl) ?_ ?_ ?_ ?_
  · exact hg.1
  · simp [RawX.fits]; grind -ring -linarith
  · simp [odd, RawX.ord, RM.dec_code] <;> grind -ring -linarith
  · simp only [RawX.g, RawX.srcB, RawX.srcA, RawX.ord, RM.dec_code, BitVec.ofNat_toNat, BitVec.setWidth_eq]
theorem dfma (g : Guard) (d : Nat) (a : Nat) (b : Nat) (c : Nat) (m : RM) : Statement (.dfma g d a b c m) := by
  intro _ hw
  have lm := RM.code_lt m
  replace hw : (g.wf && pairOk d && pairOk a && pairOk b && pairOk c) = true := hw
  simp only [Bool.and_eq_true] at hw
  have hg := guard16 hw.1.1.1.1
  simp [pairOk] at hw
  refine viaTake .dfma rfl rfl rfl rfl (by rfl) ?_ ?_ ?_ ?_
  · exact hg.1
  · simp [RawX.fits]; grind -ring -linarith
  · simp [odd, RawX.ord, RM.dec_code] <;> grind -ring -linarith
  · simp only [RawX.g, RawX.srcB, RawX.srcA, RawX.ord, RM.dec_code, BitVec.ofNat_toNat, BitVec.setWidth_eq]
theorem dfmaLit (g : Guard) (d : Nat) (a : Nat) (c : Nat) (m : RM) (lit : DWord) : Statement (.dfmaLit g d a c m lit) := by
  intro _ hw
  have lm := RM.code_lt m
  replace hw : (g.wf && pairOk d && pairOk a && pairOk c) = true := hw
  simp only [Bool.and_eq_true] at hw
  have hg := guard16 hw.1.1.1
  simp [pairOk] at hw
  refine viaLit .dfma rfl rfl rfl rfl rfl (by rfl) ?_ ?_ ?_ ?_
  · exact hg.1
  · simp [RawX.fits]; grind -ring -linarith
  · simp [odd, RawX.ord, RM.dec_code] <;> grind -ring -linarith
  · simp only [RawX.g, RawX.srcB, RawX.srcA, RawX.ord, RM.dec_code, BitVec.ofNat_toNat, BitVec.setWidth_eq]
theorem fscale (g : Guard) (d : Nat) (a : Nat) (b : Src) (m : RM) : Statement (.fscale g d a b m) := by
  intro _ hw
  have lm := RM.code_lt m
  have lb := Src.word_lt b
  have fb := Src.field_lt b
  have pb := Src.field_pair b
  replace hw : (g.wf && rOk d && rOk a && b.wf) = true := hw
  simp only [Bool.and_eq_true] at hw
  have hg := guard16 hw.1.1.1
  simp [rOk] at hw
  refine viaTake .fscale rfl rfl rfl rfl (by rfl) ?_ ?_ ?_ ?_
  · exact hg.1
  · simp [RawX.fits]; grind -ring -linarith
  · simp [odd, RawX.ord, RM.dec_code, Src.back, Src.imm_field, Src.reg_word] <;> grind -ring -linarith
  · simp only [RawX.g, RawX.srcB, RawX.srcA, RawX.ord, RM.dec_code, Src.back, Src.imm_field, Src.reg_word, BitVec.ofNat_toNat, BitVec.setWidth_eq]
theorem cvt (g : Guard) (d : Nat) (a : Nat) (b : Nat) (m : RMS) (sat : Bool) (src : Fmt) (dst : Fmt) : Statement (.cvt g d a b m sat src dst) := by
  intro _ hw
  have lm := RMS.code_lt m
  have lsrc := Fmt.code_lt src
  have ldst := Fmt.code_lt dst
  have lsat := bit_lt sat
  have ksrc := Fmt.lanes_le src
  have qsrc := Fmt.packSlots_le src
  have kdst := Fmt.lanes_le dst
  have qdst := Fmt.packSlots_le dst
  replace hw : (g.wf && rOk d && rOk a && rOk b && cvtOk m src dst d a b) = true := hw
  simp only [Bool.and_eq_true] at hw
  have hg := guard16 hw.1.1.1.1
  simp [rOk, cvtOk, srOk, wideOk, RMS.code_sr, RMS.code_rn, Fmt.isInt_code, Fmt.code_f64] at hw
  have esrc : ∀ r : RawX, r.w2 = 512 * src.code + 8192 * dst.code → w2f r 9 4 = src.code := by
    intro r hr; simp only [w2f, hr]; grind -ring -linarith
  have edst : ∀ r : RawX, r.w2 = 512 * src.code + 8192 * dst.code → w2f r 13 4 = dst.code := by
    intro r hr; simp only [w2f, hr]; grind -ring -linarith
  have e512 : (512 * src.code + 8192 * dst.code) % 512 = 0 := by omega
  refine viaTake .cvt rfl rfl rfl rfl (by rfl) ?_ ?_ ?_ ?_
  · exact hg.1
  · simp [RawX.fits]; grind -ring -linarith
  · simp [odd, RawX.ord, Fmt.dec_code, RMS.dec_code, Fmt.isInt_code, esrc, edst, e512] <;> grind -ring -linarith
  · simp [RawX.g, RawX.srcB, RawX.srcA, RawX.ord, Fmt.dec_code, RMS.dec_code, Fmt.isInt_code, esrc, edst, e512] <;> grind -ring -linarith
theorem cvtpk (g : Guard) (d : Nat) (a : Nat) (b : Nat) (c : Nat) (e : Nat) (m : RMS) (sat : Bool) (dst : Fmt) (j : Nat) : Statement (.cvtpk g d a b c e m sat dst j) := by
  intro _ hw
  have lm := RMS.code_lt m
  have ldst := Fmt.code_lt dst
  have lsat := bit_lt sat
  have kdst := Fmt.lanes_le dst
  have qdst := Fmt.packSlots_le dst
  replace hw : (g.wf && rOk d && rOk a && rOk b && rOk c && rOk e && cvtpkOk m dst j e) = true := hw
  simp only [Bool.and_eq_true] at hw
  have hg := guard16 hw.1.1.1.1.1.1
  simp [rOk, cvtpkOk, srOk, RMS.code_sr, RMS.code_rn] at hw
  have ee : (e + 512 * dst.code + 8192 * j) % 512 = e := by grind
  have edst : ∀ r : RawX, r.w2 = e + 512 * dst.code + 8192 * j → w2f r 9 4 = dst.code := by
    intro r hr; simp only [w2f, hr]; grind -ring -linarith
  have ej : ∀ r : RawX, r.w2 = e + 512 * dst.code + 8192 * j → w2f r 13 4 = j := by
    intro r hr; simp only [w2f, hr]; grind -ring -linarith
  refine viaTake .cvtpk rfl rfl rfl rfl (by rfl) ?_ ?_ ?_ ?_
  · exact hg.1
  · simp [RawX.fits]; grind -ring -linarith
  · simp [odd, RawX.ord, Fmt.dec_code, RMS.dec_code, Fmt.isInt_code, ee, edst, ej] <;> grind -ring -linarith
  · simp [RawX.g, RawX.srcB, RawX.srcA, RawX.ord, Fmt.dec_code, RMS.dec_code, Fmt.isInt_code, ee, edst, ej] <;> grind -ring -linarith
theorem cvtex (g : Guard) (d : Nat) (a : Nat) (fmt : Fmt) (i : Nat) : Statement (.cvtex g d a fmt i) := by
  intro _ hw
  have lfmt := Fmt.code_lt fmt
  have kfmt := Fmt.lanes_le fmt
  have qfmt := Fmt.packSlots_le fmt
  replace hw : (g.wf && rOk d && rOk a && cvtexOk fmt i) = true := hw
  simp only [Bool.and_eq_true] at hw
  have hg := guard16 hw.1.1.1
  simp [rOk, cvtexOk] at hw
  have efmt : ∀ r : RawX, r.w2 = 512 * fmt.code + 8192 * i → w2f r 9 4 = fmt.code := by
    intro r hr; simp only [w2f, hr]; grind -ring -linarith
  have ei : ∀ r : RawX, r.w2 = 512 * fmt.code + 8192 * i → w2f r 13 5 = i := by
    intro r hr; simp only [w2f, hr]; grind -ring -linarith
  have e512 : (512 * fmt.code + 8192 * i) % 512 = 0 := by omega
  refine viaTake .cvtex rfl rfl rfl rfl (by rfl) ?_ ?_ ?_ ?_
  · exact hg.1
  · simp [RawX.fits]; grind -ring -linarith
  · simp [odd, RawX.ord, Fmt.dec_code, Fmt.isInt_code, efmt, ei, e512] <;> grind -ring -linarith
  · simp only [RawX.g, RawX.srcB, RawX.srcA, RawX.ord, Fmt.dec_code, Fmt.isInt_code, efmt, ei, e512, BitVec.ofNat_toNat, BitVec.setWidth_eq]
theorem qblk (g : Guard) (d : Nat) (e : Nat) (a : Nat) (b : Nat) (m : RMS) (sat : Bool) (el : Elem) (bsz : Bsz) (scf : Scf) : Statement (.qblk g d e a b m sat el bsz scf) := by
  intro _ hw
  have lm := RMS.code_lt m
  have lbsz := Bsz.code_lt bsz
  have lscf := Scf.code_lt scf
  have lsat := bit_lt sat
  have lel := Elem.code_lt el
  have kel := Elem.code_cases el
  replace hw : (g.wf && rOk d && rOk e && rOk a && rOk b && elemOk el bsz scf && srOk m b) = true := hw
  simp only [Bool.and_eq_true] at hw
  have hg := guard16 hw.1.1.1.1.1.1
  simp [rOk, srOk, RMS.code_sr, RMS.code_rn, elemOk, Elem.code_s8, Bsz.code_b32, Scf.code_e8m0] at hw
  have ee : (e + 512 * el.code + 8192 * bsz.code + 32768 * scf.code) % 512 = e := by grind
  have eel : ∀ r : RawX, r.w2 = e + 512 * el.code + 8192 * bsz.code + 32768 * scf.code → w2f r 9 4 = el.code := by
    intro r hr; simp only [w2f, hr]; grind -ring -linarith
  have ebsz : ∀ r : RawX, r.w2 = e + 512 * el.code + 8192 * bsz.code + 32768 * scf.code → w2f r 13 2 = bsz.code := by
    intro r hr; simp only [w2f, hr]; grind -ring -linarith
  have escf : ∀ r : RawX, r.w2 = e + 512 * el.code + 8192 * bsz.code + 32768 * scf.code → w2f r 15 2 = scf.code := by
    intro r hr; simp only [w2f, hr]; grind -ring -linarith
  refine viaTake .qblk rfl rfl rfl rfl (by rfl) ?_ ?_ ?_ ?_
  · exact hg.1
  · simp [RawX.fits]; grind -ring -linarith
  · simp [odd, RawX.ord, Bsz.dec_code, RMS.dec_code, Scf.dec_code, Elem.dec_code, Elem.valid_code, ee, eel, ebsz, escf] <;> grind -ring -linarith
  · simp [RawX.g, RawX.srcB, RawX.srcA, RawX.ord, Bsz.dec_code, RMS.dec_code, Scf.dec_code, Elem.dec_code, Elem.valid_code, ee, eel, ebsz, escf] <;> grind -ring -linarith
theorem dqblk (g : Guard) (d : Nat) (a : Nat) (e : Nat) (el : Elem) (bsz : Bsz) (scf : Scf) : Statement (.dqblk g d a e el bsz scf) := by
  intro _ hw
  have lbsz := Bsz.code_lt bsz
  have lscf := Scf.code_lt scf
  have lel := Elem.code_lt el
  have kel := Elem.code_cases el
  replace hw : (g.wf && rOk d && rOk a && rOk e && elemOk el bsz scf) = true := hw
  simp only [Bool.and_eq_true] at hw
  have hg := guard16 hw.1.1.1.1
  simp [rOk, elemOk, Elem.code_s8, Bsz.code_b32, Scf.code_e8m0] at hw
  have ee : (e + 512 * el.code + 8192 * bsz.code + 32768 * scf.code) % 512 = e := by grind
  have eel : ∀ r : RawX, r.w2 = e + 512 * el.code + 8192 * bsz.code + 32768 * scf.code → w2f r 9 4 = el.code := by
    intro r hr; simp only [w2f, hr]; grind -ring -linarith
  have ebsz : ∀ r : RawX, r.w2 = e + 512 * el.code + 8192 * bsz.code + 32768 * scf.code → w2f r 13 2 = bsz.code := by
    intro r hr; simp only [w2f, hr]; grind -ring -linarith
  have escf : ∀ r : RawX, r.w2 = e + 512 * el.code + 8192 * bsz.code + 32768 * scf.code → w2f r 15 2 = scf.code := by
    intro r hr; simp only [w2f, hr]; grind -ring -linarith
  refine viaTake .dqblk rfl rfl rfl rfl (by rfl) ?_ ?_ ?_ ?_
  · exact hg.1
  · simp [RawX.fits]; grind -ring -linarith
  · simp [odd, RawX.ord, Bsz.dec_code, Scf.dec_code, Elem.dec_code, Elem.valid_code, ee, eel, ebsz, escf] <;> grind -ring -linarith
  · simp only [RawX.g, RawX.srcB, RawX.srcA, RawX.ord, Bsz.dec_code, Scf.dec_code, Elem.dec_code, Elem.valid_code, ee, eel, ebsz, escf, BitVec.ofNat_toNat, BitVec.setWidth_eq]
theorem vdot4 (g : Guard) (d : Nat) (a : Nat) (b : Src) (c : Nat) (ua : Bool) (ub : Bool) : Statement (.vdot4 g d a b c ua ub) := by
  intro _ hw
  have lb := Src.word_lt b
  have fb := Src.field_lt b
  have pb := Src.field_pair b
  have lua := bit_lt ua
  have lub := bit_lt ub
  replace hw : (g.wf && rOk d && rOk a && b.wf && rOk c) = true := hw
  simp only [Bool.and_eq_true] at hw
  have hg := guard16 hw.1.1.1.1
  simp [rOk] at hw
  refine viaTake .vdot4 rfl rfl rfl rfl (by rfl) ?_ ?_ ?_ ?_
  · exact hg.1
  · simp [RawX.fits]; grind -ring -linarith
  · simp [odd, RawX.ord, Src.back, Src.imm_field, Src.reg_word] <;> grind -ring -linarith
  · simp only [RawX.g, RawX.srcB, RawX.srcA, RawX.ord, Src.back, Src.imm_field, Src.reg_word, BitVec.ofNat_toNat, BitVec.setWidth_eq]
theorem vdotb (g : Guard) (d : Nat) (a : Nat) (b : Nat) (c : Nat) (e : Nat) (ea : Elem) (eb : Elem) (bsz : Bsz) (scf : Scf) : Statement (.vdotb g d a b c e ea eb bsz scf) := by
  intro _ hw
  have lbsz := Bsz.code_lt bsz
  have lscf := Scf.code_lt scf
  have lea := Elem.code_lt ea
  have kea := Elem.code_cases ea
  have leb := Elem.code_lt eb
  have keb := Elem.code_cases eb
  replace hw : (g.wf && rOk d && rOk a && rOk b && rOk c && rOk e && elemOk ea bsz scf && elemOk eb bsz scf) = true := hw
  simp only [Bool.and_eq_true] at hw
  have hg := guard16 hw.1.1.1.1.1.1.1
  simp [rOk, elemOk, Elem.code_s8, Bsz.code_b32, Scf.code_e8m0] at hw
  have ee : (e + 512 * ea.code + 8192 * eb.code + 131072 * bsz.code + 524288 * scf.code) % 512 = e := by grind
  have eea : ∀ r : RawX, r.w2 = e + 512 * ea.code + 8192 * eb.code + 131072 * bsz.code + 524288 * scf.code → w2f r 9 4 = ea.code := by
    intro r hr; simp only [w2f, hr]; grind -ring -linarith
  have eeb : ∀ r : RawX, r.w2 = e + 512 * ea.code + 8192 * eb.code + 131072 * bsz.code + 524288 * scf.code → w2f r 13 4 = eb.code := by
    intro r hr; simp only [w2f, hr]; grind -ring -linarith
  have ebsz : ∀ r : RawX, r.w2 = e + 512 * ea.code + 8192 * eb.code + 131072 * bsz.code + 524288 * scf.code → w2f r 17 2 = bsz.code := by
    intro r hr; simp only [w2f, hr]; grind -ring -linarith
  have escf : ∀ r : RawX, r.w2 = e + 512 * ea.code + 8192 * eb.code + 131072 * bsz.code + 524288 * scf.code → w2f r 19 2 = scf.code := by
    intro r hr; simp only [w2f, hr]; grind -ring -linarith
  refine viaTake .vdotb rfl rfl rfl rfl (by rfl) ?_ ?_ ?_ ?_
  · exact hg.1
  · simp [RawX.fits]; grind -ring -linarith
  · simp [odd, RawX.ord, Bsz.dec_code, Scf.dec_code, Elem.dec_code, Elem.valid_code, ee, eea, eeb, ebsz, escf] <;> grind -ring -linarith
  · simp only [RawX.g, RawX.srcB, RawX.srcA, RawX.ord, Bsz.dec_code, Scf.dec_code, Elem.dec_code, Elem.valid_code, ee, eea, eeb, ebsz, escf, BitVec.ofNat_toNat, BitVec.setWidth_eq]
theorem bppack (g : Guard) (d : Nat) (a : Nat) : Statement (.bppack g d a) := by
  intro _ hw
  replace hw : (g.wf && rOk d && rOk a) = true := hw
  simp only [Bool.and_eq_true] at hw
  have hg := guard16 hw.1.1
  simp [rOk] at hw
  refine viaTake .bppack rfl rfl rfl rfl (by rfl) ?_ ?_ ?_ ?_
  · exact hg.1
  · simp [RawX.fits]; grind -ring -linarith
  · simp [odd, RawX.ord] <;> grind -ring -linarith
  · rfl
theorem bpunpk (g : Guard) (d : Nat) (a : Nat) (k : Nat) (mid : Bool) : Statement (.bpunpk g d a k mid) := by
  intro _ hw
  have lmid := bit_lt mid
  replace hw : (g.wf && rOk d && rOk a && decide (1 ≤ k ∧ k ≤ 8)) = true := hw
  simp only [Bool.and_eq_true] at hw
  have hg := guard16 hw.1.1.1
  simp [rOk] at hw
  have ek : ∀ r : RawX, r.w2 = 512 * k + 8192 * mid.toNat → w2f r 9 4 = k := by
    intro r hr; simp only [w2f, hr]; grind -ring -linarith
  have emid : ∀ r : RawX, r.w2 = 512 * k + 8192 * mid.toNat → w2f r 13 1 = mid.toNat := by
    intro r hr; simp only [w2f, hr]; grind -ring -linarith
  have e512 : (512 * k + 8192 * mid.toNat) % 512 = 0 := by omega
  refine viaTake .bpunpk rfl rfl rfl rfl (by rfl) ?_ ?_ ?_ ?_
  · exact hg.1
  · simp [RawX.fits]; grind -ring -linarith
  · simp [odd, RawX.ord, ek, emid, e512] <;> grind -ring -linarith
  · simp [RawX.g, RawX.srcB, RawX.srcA, RawX.ord, ek, emid, e512] <;> grind -ring -linarith
theorem vote (g : Guard) (mode : VoteMode) (d : Nat) (pa : Nat) : Statement (.vote g mode d pa) := by
  intro _ hv
  cases mode with
  | any =>
    have hw : (g.wf && predOk d && predOk pa) = true := hv
    simp only [Bool.and_eq_true] at hw
    have hg := guard16 hw.1.1
    simp [rOk, predOk] at hw
    refine viaTake .vote rfl rfl rfl rfl (by rfl) ?_ ?_ ?_ rfl
    · exact hg.1
    · simp [RawX.fits, VoteMode.code]; grind -ring -linarith
    · simp [VoteMode.code]; grind -ring -linarith
  | all =>
    have hw : (g.wf && predOk d && predOk pa) = true := hv
    simp only [Bool.and_eq_true] at hw
    have hg := guard16 hw.1.1
    simp [rOk, predOk] at hw
    refine viaTake .vote rfl rfl rfl rfl (by rfl) ?_ ?_ ?_ rfl
    · exact hg.1
    · simp [RawX.fits, VoteMode.code]; grind -ring -linarith
    · simp [VoteMode.code]; grind -ring -linarith
  | ballot =>
    have hw : (g.wf && rOk d && predOk pa) = true := hv
    simp only [Bool.and_eq_true] at hw
    have hg := guard16 hw.1.1
    simp [rOk, predOk] at hw
    refine viaTake .vote rfl rfl rfl rfl (by rfl) ?_ ?_ ?_ rfl
    · exact hg.1
    · simp [RawX.fits, VoteMode.code]; grind -ring -linarith
    · simp [VoteMode.code]; grind -ring -linarith
theorem shfl (g : Guard) (d : Nat) (a : Nat) (b : Src) (mode : ShflMode) : Statement (.shfl g d a b mode) := by
  intro _ hw
  have lmode := ShflMode.code_lt mode
  have lb := Src.word_lt b
  have fb := Src.field_lt b
  have pb := Src.field_pair b
  replace hw : (g.wf && rOk d && rOk a && b.wf) = true := hw
  simp only [Bool.and_eq_true] at hw
  have hg := guard16 hw.1.1.1
  simp [rOk] at hw
  refine viaTake .shfl rfl rfl rfl rfl (by rfl) ?_ ?_ ?_ ?_
  · exact hg.1
  · simp [RawX.fits]; grind -ring -linarith
  · simp [odd, RawX.ord, ShflMode.dec_code, Src.back, Src.imm_field, Src.reg_word] <;> grind -ring -linarith
  · simp only [RawX.g, RawX.srcB, RawX.srcA, RawX.ord, ShflMode.dec_code, Src.back, Src.imm_field, Src.reg_word, BitVec.ofNat_toNat, BitVec.setWidth_eq]
theorem red (g : Guard) (d : Nat) (a : Nat) (op : RedOp) : Statement (.red g d a op) := by
  intro _ hw
  have lop := RedOp.code_lt op
  replace hw : (g.wf && rOk d && rOk a) = true := hw
  simp only [Bool.and_eq_true] at hw
  have hg := guard16 hw.1.1
  simp [rOk] at hw
  have eop : ∀ r : RawX, r.w2 = 512 * op.code → w2f r 9 4 = op.code := by
    intro r hr; simp only [w2f, hr]; grind -ring -linarith
  have e512 : (512 * op.code) % 512 = 0 := by omega
  refine viaTake .red rfl rfl rfl rfl (by rfl) ?_ ?_ ?_ ?_
  · exact hg.1
  · simp [RawX.fits]; grind -ring -linarith
  · simp [odd, RawX.ord, RedOp.dec_code, eop, e512] <;> grind -ring -linarith
  · simp only [RawX.g, RawX.srcB, RawX.srcA, RawX.ord, RedOp.dec_code, eop, e512, BitVec.ofNat_toNat, BitVec.setWidth_eq]
theorem scan (g : Guard) (d : Nat) (a : Nat) (op : RedOp) (excl : Bool) : Statement (.scan g d a op excl) := by
  intro _ hw
  have lop := RedOp.code_lt op
  have lexcl := bit_lt excl
  replace hw : (g.wf && rOk d && rOk a) = true := hw
  simp only [Bool.and_eq_true] at hw
  have hg := guard16 hw.1.1
  simp [rOk] at hw
  have eop : ∀ r : RawX, r.w2 = 512 * op.code → w2f r 9 4 = op.code := by
    intro r hr; simp only [w2f, hr]; grind -ring -linarith
  have e512 : (512 * op.code) % 512 = 0 := by omega
  refine viaTake .scan rfl rfl rfl rfl (by rfl) ?_ ?_ ?_ ?_
  · exact hg.1
  · simp [RawX.fits]; grind -ring -linarith
  · simp [odd, RawX.ord, RedOp.dec_code, eop, e512] <;> grind -ring -linarith
  · simp [RawX.g, RawX.srcB, RawX.srcA, RawX.ord, RedOp.dec_code, eop, e512] <;> grind -ring -linarith
theorem elect (g : Guard) (pd : Nat) : Statement (.elect g pd) := by
  intro _ hw
  replace hw : (g.wf && predOk pd) = true := hw
  simp only [Bool.and_eq_true] at hw
  have hg := guard16 hw.1
  simp [predOk] at hw
  refine viaTake .elect rfl rfl rfl rfl (by rfl) ?_ ?_ ?_ ?_
  · exact hg.1
  · simp [RawX.fits]; grind -ring -linarith
  · simp [odd, RawX.ord] <;> grind -ring -linarith
  · rfl
theorem matchAny (g : Guard) (d : Nat) (a : Nat) (w : Bool) : Statement (.matchAny g d a w) := by
  intro _ hw
  have lw := bit_lt w
  replace hw : (g.wf && rOk d && rOk a && wideOk w a) = true := hw
  simp only [Bool.and_eq_true] at hw
  have hg := guard16 hw.1.1.1
  simp [rOk, wideOk] at hw
  refine viaTake .matchAny rfl rfl rfl rfl (by rfl) ?_ ?_ ?_ ?_
  · exact hg.1
  · simp [RawX.fits]; grind -ring -linarith
  · simp [odd, RawX.ord] <;> grind -ring -linarith
  · rfl
theorem bra (g : Guard) (imm : Word) : Statement (.bra g imm) := by
  intro _ hw
  have limm := imm.isLt
  replace hw : (g.wf) = true := hw
  have hg := guard16 hw
  refine viaTake .bra rfl rfl rfl rfl (by rfl) ?_ ?_ ?_ ?_
  · exact hg.1
  · simp [RawX.fits]; grind -ring -linarith
  · simp [odd, RawX.ord] <;> grind -ring -linarith
  · simp only [RawX.g, RawX.srcB, RawX.srcA, RawX.ord, BitVec.ofNat_toNat, BitVec.setWidth_eq]
theorem brx (g : Guard) (a : Nat) : Statement (.brx g a) := by
  intro _ hw
  replace hw : (g.wf && pairOk a) = true := hw
  simp only [Bool.and_eq_true] at hw
  have hg := guard16 hw.1
  simp [pairOk] at hw
  refine viaTake .brx rfl rfl rfl rfl (by rfl) ?_ ?_ ?_ ?_
  · exact hg.1
  · simp [RawX.fits]; grind -ring -linarith
  · simp [odd, RawX.ord] <;> grind -ring -linarith
  · rfl
theorem call (g : Guard) (d : Nat) (imm : Word) : Statement (.call g d imm) := by
  intro _ hw
  have limm := imm.isLt
  replace hw : (g.wf && pairOk d) = true := hw
  simp only [Bool.and_eq_true] at hw
  have hg := guard16 hw.1
  simp [pairOk] at hw
  refine viaTake .call rfl rfl rfl rfl (by rfl) ?_ ?_ ?_ ?_
  · exact hg.1
  · simp [RawX.fits]; grind -ring -linarith
  · simp [odd, RawX.ord] <;> grind -ring -linarith
  · simp only [RawX.g, RawX.srcB, RawX.srcA, RawX.ord, BitVec.ofNat_toNat, BitVec.setWidth_eq]
theorem callx (g : Guard) (d : Nat) (a : Nat) : Statement (.callx g d a) := by
  intro _ hw
  replace hw : (g.wf && pairOk d && pairOk a) = true := hw
  simp only [Bool.and_eq_true] at hw
  have hg := guard16 hw.1.1
  simp [pairOk] at hw
  refine viaTake .callx rfl rfl rfl rfl (by rfl) ?_ ?_ ?_ ?_
  · exact hg.1
  · simp [RawX.fits]; grind -ring -linarith
  · simp [odd, RawX.ord] <;> grind -ring -linarith
  · rfl
theorem ret (g : Guard) (a : Nat) : Statement (.ret g a) := by
  intro _ hw
  replace hw : (g.wf && pairOk a) = true := hw
  simp only [Bool.and_eq_true] at hw
  have hg := guard16 hw.1
  simp [pairOk] at hw
  refine viaTake .ret rfl rfl rfl rfl (by rfl) ?_ ?_ ?_ ?_
  · exact hg.1
  · simp [RawX.fits]; grind -ring -linarith
  · simp [odd, RawX.ord] <;> grind -ring -linarith
  · rfl
theorem exit (g : Guard) : Statement (.exit g) := by
  intro _ hw
  replace hw : (g.wf) = true := hw
  have hg := guard16 hw
  refine viaTake .exit rfl rfl rfl rfl (by rfl) ?_ ?_ ?_ ?_
  · exact hg.1
  · simp [RawX.fits]; grind -ring -linarith
  · simp [odd, RawX.ord] <;> grind -ring -linarith
  · rfl
theorem trap (g : Guard) (n : Nat) : Statement (.trap g n) := by
  intro _ hw
  replace hw : (g.wf && decide (n < 4096)) = true := hw
  simp only [Bool.and_eq_true] at hw
  have hg := guard16 hw.1
  have en : ∀ r : RawX, r.w2 = 1 * n → w2f r 0 12 = n := by
    intro r hr; simp only [w2f, hr]; grind -ring -linarith
  refine viaTake .trap rfl rfl rfl rfl (by rfl) ?_ ?_ ?_ ?_
  · exact hg.1
  · simp [RawX.fits]; grind -ring -linarith
  · simp [odd, RawX.ord, en] <;> grind -ring -linarith
  · simp only [RawX.g, RawX.srcB, RawX.srcA, RawX.ord, en, BitVec.ofNat_toNat, BitVec.setWidth_eq]
theorem brk (g : Guard) (n : Nat) : Statement (.brk g n) := by
  intro _ hw
  replace hw : (g.wf && decide (n < 4096)) = true := hw
  simp only [Bool.and_eq_true] at hw
  have hg := guard16 hw.1
  have en : ∀ r : RawX, r.w2 = 1 * n → w2f r 0 12 = n := by
    intro r hr; simp only [w2f, hr]; grind -ring -linarith
  refine viaTake .brk rfl rfl rfl rfl (by rfl) ?_ ?_ ?_ ?_
  · exact hg.1
  · simp [RawX.fits]; grind -ring -linarith
  · simp [odd, RawX.ord, en] <;> grind -ring -linarith
  · simp only [RawX.g, RawX.srcB, RawX.srcA, RawX.ord, en, BitVec.ofNat_toNat, BitVec.setWidth_eq]
theorem yield (g : Guard) : Statement (.yield g) := by
  intro _ hw
  replace hw : (g.wf) = true := hw
  have hg := guard16 hw
  refine viaTake .yield rfl rfl rfl rfl (by rfl) ?_ ?_ ?_ ?_
  · exact hg.1
  · simp [RawX.fits]; grind -ring -linarith
  · simp [odd, RawX.ord] <;> grind -ring -linarith
  · rfl
theorem rep (count : Nat) (sd : Nat) (sa : Nat) (sb : Nat) (sc : Nat) (se : Nat) : Statement (.rep count sd sa sb sc se) := by
  intro _ hw
  replace hw : (decide (count < 256) && decide (sd < 4) && decide (sa < 4) && decide (sb < 4) && decide (sc < 4) && decide (se < 4)) = true := hw
  simp only [Bool.and_eq_true] at hw
  have ecount : ∀ r : RawX, r.w2 = 1 * count + 256 * sd + 1024 * sa + 4096 * sb + 16384 * sc + 65536 * se → w2f r 0 8 = count := by
    intro r hr; simp only [w2f, hr]; grind -ring -linarith
  have esd : ∀ r : RawX, r.w2 = 1 * count + 256 * sd + 1024 * sa + 4096 * sb + 16384 * sc + 65536 * se → w2f r 8 2 = sd := by
    intro r hr; simp only [w2f, hr]; grind -ring -linarith
  have esa : ∀ r : RawX, r.w2 = 1 * count + 256 * sd + 1024 * sa + 4096 * sb + 16384 * sc + 65536 * se → w2f r 10 2 = sa := by
    intro r hr; simp only [w2f, hr]; grind -ring -linarith
  have esb : ∀ r : RawX, r.w2 = 1 * count + 256 * sd + 1024 * sa + 4096 * sb + 16384 * sc + 65536 * se → w2f r 12 2 = sb := by
    intro r hr; simp only [w2f, hr]; grind -ring -linarith
  have esc : ∀ r : RawX, r.w2 = 1 * count + 256 * sd + 1024 * sa + 4096 * sb + 16384 * sc + 65536 * se → w2f r 14 2 = sc := by
    intro r hr; simp only [w2f, hr]; grind -ring -linarith
  have ese : ∀ r : RawX, r.w2 = 1 * count + 256 * sd + 1024 * sa + 4096 * sb + 16384 * sc + 65536 * se → w2f r 16 2 = se := by
    intro r hr; simp only [w2f, hr]; grind -ring -linarith
  refine viaNoGuard .rep rfl rfl rfl rfl (by rfl) ?_ ?_ ?_
  · simp [RawX.fits]; grind -ring -linarith
  · simp [odd, RawX.ord, ecount, esd, esa, esb, esc, ese] <;> grind -ring -linarith
  · simp only [RawX.g, RawX.srcB, RawX.srcA, RawX.ord, ecount, esd, esa, esb, esc, ese, BitVec.ofNat_toNat, BitVec.setWidth_eq]
theorem waitt (g : Guard) (all : Bool) (a : Src) : Statement (.waitt g all a) := by
  intro _ hw
  have la := Src.word_lt a
  have fa := Src.field_lt a
  have pa := Src.field_pair a
  have lall := bit_lt all
  replace hw : (g.wf && a.wfPair) = true := hw
  simp only [Bool.and_eq_true] at hw
  have hg := guard16 hw.1
  refine viaTake .waitt rfl rfl rfl rfl (by rfl) ?_ ?_ ?_ ?_
  · exact hg.1
  · simp [RawX.fits]; grind -ring -linarith
  · simp [odd, RawX.ord, Src.back, Src.imm_field, Src.reg_word] <;> grind -ring -linarith
  · simp [RawX.g, RawX.srcB, RawX.srcA, RawX.ord, Src.back, Src.imm_field, Src.reg_word] <;> grind -ring -linarith
theorem waitv (g : Guard) (a : Nat) (b : Src) : Statement (.waitv g a b) := by
  intro _ hw
  replace hw : (g.wf && rOk a && b.wf && b.wfUpto 65536) = true := hw
  have lb := Src.word_lt b
  have fb := Src.field_lt b
  have ub := Src.upto 65536 b
  simp [Guard.wf, rOk] at hw
  refine viaTake .waitv rfl rfl rfl rfl (by rfl) ?_ ?_ ?_ ?_
  · simp; grind -ring -linarith
  · simp [RawX.fits]; grind -ring -linarith
  · simp [Src.imm_field, Src.reg_word]; grind -ring -linarith
  · simp [RawX.g, RawX.srcB, Src.back]
theorem waitc (g : Guard) (cls : CClass) (n : Nat) : Statement (.waitc g cls n) := by
  intro _ hw
  have lcls := CClass.code_lt cls
  replace hw : (g.wf && decide (n < 64)) = true := hw
  simp only [Bool.and_eq_true] at hw
  have hg := guard16 hw.1
  have en : ∀ r : RawX, r.w2 = 1 * n → w2f r 0 6 = n := by
    intro r hr; simp only [w2f, hr]; grind -ring -linarith
  refine viaTake .waitc rfl rfl rfl rfl (by rfl) ?_ ?_ ?_ ?_
  · exact hg.1
  · simp [RawX.fits]; grind -ring -linarith
  · simp [odd, RawX.ord, CClass.dec_code, en] <;> grind -ring -linarith
  · simp only [RawX.g, RawX.srcB, RawX.srcA, RawX.ord, CClass.dec_code, en, BitVec.ofNat_toNat, BitVec.setWidth_eq]
theorem ffr (g : Guard) (pc : Nat) (d : Nat) (a : Src) : Statement (.ffr g pc d a) := by
  intro _ hw
  have la := Src.word_lt a
  have fa := Src.field_lt a
  have pa := Src.field_pair a
  replace hw : (g.wf && predOk pc && rOk d && a.wfPair) = true := hw
  simp only [Bool.and_eq_true] at hw
  have hg := guard16 hw.1.1.1
  simp [rOk, predOk] at hw
  refine viaTake .ffr rfl rfl rfl rfl (by rfl) ?_ ?_ ?_ ?_
  · exact hg.1
  · simp [RawX.fits]; grind -ring -linarith
  · simp [odd, RawX.ord, Src.back, Src.imm_field, Src.reg_word] <;> grind -ring -linarith
  · simp only [RawX.g, RawX.srcB, RawX.srcA, RawX.ord, Src.back, Src.imm_field, Src.reg_word, BitVec.ofNat_toNat, BitVec.setWidth_eq]
theorem tclr (g : Guard) (a : Src) : Statement (.tclr g a) := by
  intro _ hw
  have la := Src.word_lt a
  have fa := Src.field_lt a
  have pa := Src.field_pair a
  replace hw : (g.wf && a.wfPair) = true := hw
  simp only [Bool.and_eq_true] at hw
  have hg := guard16 hw.1
  refine viaTake .tclr rfl rfl rfl rfl (by rfl) ?_ ?_ ?_ ?_
  · exact hg.1
  · simp [RawX.fits]; grind -ring -linarith
  · simp [odd, RawX.ord, Src.back, Src.imm_field, Src.reg_word] <;> grind -ring -linarith
  · simp only [RawX.g, RawX.srcB, RawX.srcA, RawX.ord, Src.back, Src.imm_field, Src.reg_word, BitVec.ofNat_toNat, BitVec.setWidth_eq]
theorem spawn (g : Guard) (imm : Word) (a : Nat) (n : Nat) : Statement (.spawn g imm a n) := by
  intro _ hw
  replace hw : (g.wf && rOk a && decide (n ≤ 16) && (n != 0 || a == 0)) = true := hw
  have l := imm.isLt
  simp [Guard.wf, rOk] at hw
  have e : n % 8 + 8 * (n / 8 % 2 == 1).toNat + 16 * (n / 16 % 2 == 1).toNat = n := by
    rcases Nat.mod_two_eq_zero_or_one (n / 8) with h | h <;> rcases Nat.mod_two_eq_zero_or_one (n / 16) with h' | h' <;>
      simp [h, h'] <;> omega
  refine viaTake .spawn rfl rfl rfl rfl (by rfl) ?_ ?_ ?_ ?_
  · simp; grind -ring -linarith
  · simp [RawX.fits]; grind -ring -linarith
  · simp only [RawX.n5, e]; simp; grind -ring -linarith
  · simp only [RawX.n5, e]; simp [RawX.g]
theorem barinit (g : Guard) (a : Nat) (imm : Word) (b : Nat) : Statement (.barinit g a imm b) := by
  intro _ hw
  have limm := imm.isLt
  replace hw : (g.wf && rOk a && rOk b) = true := hw
  simp only [Bool.and_eq_true] at hw
  have hg := guard16 hw.1.1
  simp [rOk] at hw
  refine viaTake .barinit rfl rfl rfl rfl (by rfl) ?_ ?_ ?_ ?_
  · exact hg.1
  · simp [RawX.fits]; grind -ring -linarith
  · simp [odd, RawX.ord] <;> grind -ring -linarith
  · simp only [RawX.g, RawX.srcB, RawX.srcA, RawX.ord, BitVec.ofNat_toNat, BitVec.setWidth_eq]
theorem bararr (g : Guard) (d : Nat) (a : Nat) (imm : Word) : Statement (.bararr g d a imm) := by
  intro _ hw
  have limm := imm.isLt
  replace hw : (g.wf && rOk d && rOk a) = true := hw
  simp only [Bool.and_eq_true] at hw
  have hg := guard16 hw.1.1
  simp [rOk] at hw
  refine viaTake .bararr rfl rfl rfl rfl (by rfl) ?_ ?_ ?_ ?_
  · exact hg.1
  · simp [RawX.fits]; grind -ring -linarith
  · simp [odd, RawX.ord] <;> grind -ring -linarith
  · simp only [RawX.g, RawX.srcB, RawX.srcA, RawX.ord, BitVec.ofNat_toNat, BitVec.setWidth_eq]
theorem barwait (g : Guard) (a : Nat) (imm : Word) (b : Nat) : Statement (.barwait g a imm b) := by
  intro _ hw
  have limm := imm.isLt
  replace hw : (g.wf && rOk a && rOk b) = true := hw
  simp only [Bool.and_eq_true] at hw
  have hg := guard16 hw.1.1
  simp [rOk] at hw
  refine viaTake .barwait rfl rfl rfl rfl (by rfl) ?_ ?_ ?_ ?_
  · exact hg.1
  · simp [RawX.fits]; grind -ring -linarith
  · simp [odd, RawX.ord] <;> grind -ring -linarith
  · simp only [RawX.g, RawX.srcB, RawX.srcA, RawX.ord, BitVec.ofNat_toNat, BitVec.setWidth_eq]
theorem fwait (g : Guard) (d : Nat) (a : Nat) (imm : Word) (cellA : Bool) (sc : Scope) : Statement (.fwait g d a imm cellA sc) := by
  intro _ hw
  have lsc := Scope.code_lt sc
  have limm := imm.isLt
  have lcellA := bit_lt cellA
  replace hw : (g.wf && pairOk d && rOk a && wideOk (!cellA) a) = true := hw
  simp only [Bool.and_eq_true] at hw
  have hg := guard16 hw.1.1.1
  simp [pairOk, rOk, wideOk] at hw
  refine viaTake .fwait rfl rfl rfl rfl (by rfl) ?_ ?_ ?_ ?_
  · exact hg.1
  · simp [RawX.fits]; grind -ring -linarith
  · simp [odd, RawX.ord, Scope.dec_code] <;> grind -ring -linarith
  · simp only [RawX.g, RawX.srcB, RawX.srcA, RawX.ord, Scope.dec_code, BitVec.ofNat_toNat, BitVec.setWidth_eq]
theorem ffill (g : Guard) (d : Nat) (a : Nat) (imm : Word) (b : Nat) (cellA : Bool) (sc : Scope) : Statement (.ffill g d a imm b cellA sc) := by
  intro _ hw
  have lsc := Scope.code_lt sc
  have limm := imm.isLt
  have lcellA := bit_lt cellA
  replace hw : (g.wf && rOk d && rOk a && pairOk b && wideOk (!cellA) a) = true := hw
  simp only [Bool.and_eq_true] at hw
  have hg := guard16 hw.1.1.1.1
  simp [pairOk, rOk, wideOk] at hw
  refine viaTake .ffill rfl rfl rfl rfl (by rfl) ?_ ?_ ?_ ?_
  · exact hg.1
  · simp [RawX.fits]; grind -ring -linarith
  · simp [odd, RawX.ord, Scope.dec_code] <;> grind -ring -linarith
  · simp only [RawX.g, RawX.srcB, RawX.srcA, RawX.ord, Scope.dec_code, BitVec.ofNat_toNat, BitVec.setWidth_eq]
theorem freset (g : Guard) (a : Nat) (imm : Word) (cellA : Bool) (sc : Scope) : Statement (.freset g a imm cellA sc) := by
  intro _ hw
  have lsc := Scope.code_lt sc
  have limm := imm.isLt
  have lcellA := bit_lt cellA
  replace hw : (g.wf && rOk a && wideOk (!cellA) a) = true := hw
  simp only [Bool.and_eq_true] at hw
  have hg := guard16 hw.1.1
  simp [rOk, wideOk] at hw
  refine viaTake .freset rfl rfl rfl rfl (by rfl) ?_ ?_ ?_ ?_
  · exact hg.1
  · simp [RawX.fits]; grind -ring -linarith
  · simp [odd, RawX.ord, Scope.dec_code] <;> grind -ring -linarith
  · simp only [RawX.g, RawX.srcB, RawX.srcA, RawX.ord, Scope.dec_code, BitVec.ofNat_toNat, BitVec.setWidth_eq]
theorem parkw (g : Guard) (a : Nat) (imm : Word) (b : Nat) (c : Nat) (cc : Cc) (w : Bool) (ord : Ord) (sc : Scope) : Statement (.parkw g a imm b c cc w ord sc) := by
  intro _ hw
  have lcc := Cc.code_lt cc
  have lsc := Scope.code_lt sc
  have limm := imm.isLt
  have lw := bit_lt w
  have lord := Ord.code_lt ord
  replace hw : (g.wf && pairOk a && rOk b && rOk c && wideOk w b && wideOk w c && acqOk ord sc) = true := hw
  simp only [Bool.and_eq_true] at hw
  have hg := guard16 hw.1.1.1.1.1.1
  simp [pairOk, rOk, wideOk, acqOk, anyOk, Ord.code_plain, Ord.code_acq, Ord.code_rel, Scope.code_core] at hw
  refine viaTake .parkw rfl rfl rfl rfl (by rfl) ?_ ?_ ?_ ?_
  · exact hg.1
  · simp [RawX.fits]; grind -ring -linarith
  · simp [odd, RawX.ord, Cc.dec_code, Scope.dec_code, Ord.dec_bits] <;> grind -ring -linarith
  · simp only [RawX.g, RawX.srcB, RawX.srcA, RawX.ord, Cc.dec_code, Scope.dec_code, Ord.dec_bits, BitVec.ofNat_toNat, BitVec.setWidth_eq]
theorem ld (g : Guard) (d : Nat) (a : Nat) (imm : Word) (size : Size) (sgn : Bool) (ord : Ord) (sc : Scope) (hint : Hint) : Statement (.ld g d a imm size sgn ord sc hint) := by
  intro _ hw
  have lsize := Size.code_lt size
  have lsc := Scope.code_lt sc
  have lhint := Hint.code_lt hint
  have limm := imm.isLt
  have lsgn := bit_lt sgn
  have lord := Ord.code_lt ord
  replace hw : (g.wf && sizedOk size d && pairOk a && sgnOk size sgn && acqOk ord sc) = true := hw
  simp only [Bool.and_eq_true] at hw
  have hg := guard16 hw.1.1.1.1
  simp [pairOk, sizedOk, sgnOk, Size.code_b32, Size.code_b8, Size.code_b16, Size.code_b64, Size.code_b128, acqOk, anyOk, Ord.code_plain, Ord.code_acq, Ord.code_rel, Scope.code_core] at hw
  refine viaTake .ld rfl rfl rfl rfl (by rfl) ?_ ?_ ?_ ?_
  · exact hg.1
  · simp [RawX.fits]; grind -ring -linarith
  · simp [odd, RawX.ord, Hint.dec_code, Scope.dec_code, Size.dec_code, Ord.dec_bits, Size.align_code] <;> grind -ring -linarith
  · simp only [RawX.g, RawX.srcB, RawX.srcA, RawX.ord, Hint.dec_code, Scope.dec_code, Size.dec_code, Ord.dec_bits, Size.align_code, BitVec.ofNat_toNat, BitVec.setWidth_eq]
theorem st (g : Guard) (d : Nat) (a : Nat) (imm : Word) (size : Size) (ord : Ord) (sc : Scope) (hint : Hint) : Statement (.st g d a imm size ord sc hint) := by
  intro _ hw
  have lsize := Size.code_lt size
  have lsc := Scope.code_lt sc
  have lhint := Hint.code_lt hint
  have limm := imm.isLt
  have lord := Ord.code_lt ord
  replace hw : (g.wf && sizedOk size d && pairOk a && relOk ord sc) = true := hw
  simp only [Bool.and_eq_true] at hw
  have hg := guard16 hw.1.1.1
  simp [pairOk, sizedOk, relOk, anyOk, Ord.code_plain, Ord.code_acq, Ord.code_rel, Scope.code_core] at hw
  refine viaTake .st rfl rfl rfl rfl (by rfl) ?_ ?_ ?_ ?_
  · exact hg.1
  · simp [RawX.fits]; grind -ring -linarith
  · simp [odd, RawX.ord, Hint.dec_code, Scope.dec_code, Size.dec_code, Ord.dec_bits, Size.align_code] <;> grind -ring -linarith
  · simp only [RawX.g, RawX.srcB, RawX.srcA, RawX.ord, Hint.dec_code, Scope.dec_code, Size.dec_code, Ord.dec_bits, Size.align_code, BitVec.ofNat_toNat, BitVec.setWidth_eq]
theorem ldu (g : Guard) (d : Nat) (a : Nat) (imm : Word) (size : Size) (sgn : Bool) (ord : Ord) (sc : Scope) : Statement (.ldu g d a imm size sgn ord sc) := by
  intro _ hw
  have lsize := Size.code_lt size
  have lsc := Scope.code_lt sc
  have limm := imm.isLt
  have lsgn := bit_lt sgn
  have lord := Ord.code_lt ord
  replace hw : (g.wf && sizedOk size d && pairOk a && sgnOk size sgn && acqOk ord sc) = true := hw
  simp only [Bool.and_eq_true] at hw
  have hg := guard16 hw.1.1.1.1
  simp [pairOk, sizedOk, sgnOk, Size.code_b32, Size.code_b8, Size.code_b16, Size.code_b64, Size.code_b128, acqOk, anyOk, Ord.code_plain, Ord.code_acq, Ord.code_rel, Scope.code_core] at hw
  refine viaTake .ldu rfl rfl rfl rfl (by rfl) ?_ ?_ ?_ ?_
  · exact hg.1
  · simp [RawX.fits]; grind -ring -linarith
  · simp [odd, RawX.ord, Scope.dec_code, Size.dec_code, Ord.dec_bits, Size.align_code] <;> grind -ring -linarith
  · simp only [RawX.g, RawX.srcB, RawX.srcA, RawX.ord, Scope.dec_code, Size.dec_code, Ord.dec_bits, Size.align_code, BitVec.ofNat_toNat, BitVec.setWidth_eq]
theorem atom (g : Guard) (d : Nat) (a : Nat) (imm : Word) (b : Nat) (op : AtomOp) (w : Bool) (rt : Bool) (ord : Ord) (sc : Scope) : Statement (.atom g d a imm b op w rt ord sc) := by
  intro _ hw
  replace hw : (g.wf && rOk d && pairOk a && rOk b && wideOk w d && wideOk w b && faddOk op w && anyOk ord sc) = true := hw
  have l := imm.isLt
  have l2 := Ord.code_lt ord
  have l3 := Scope.code_lt sc
  have l4 := AtomOp.code_lt op
  simp [Guard.wf, rOk, pairOk, wideOk, faddOk, anyOk, relOk, Ord.code_plain, Ord.code_acq, Ord.code_rel, Scope.code_core, AtomOp.code_fadd] at hw
  cases w <;> cases rt <;>
    (refine viaTake .atom rfl rfl rfl rfl (by rfl) ?_ ?_ ?_ ?_
     · simp; grind -ring -linarith
     · simp [RawX.fits]; grind -ring -linarith
     · simp [odd, RawX.ord, AtomOp.dec_code, Ord.dec_bits] <;> grind -ring -linarith
     · simp [RawX.g, RawX.ord, AtomOp.dec_code, Scope.dec_code, Ord.dec_bits])
theorem atomcas (g : Guard) (d : Nat) (a : Nat) (imm : Word) (b : Nat) (c : Nat) (w : Bool) (rt : Bool) (ord : Ord) (sc : Scope) : Statement (.atomcas g d a imm b c w rt ord sc) := by
  intro _ hw
  replace hw : (g.wf && rOk d && pairOk a && rOk b && rOk c && wideOk w d && wideOk w b && wideOk w c && anyOk ord sc) = true := hw
  have l := imm.isLt
  have l2 := Ord.code_lt ord
  have l3 := Scope.code_lt sc
  simp [Guard.wf, rOk, pairOk, wideOk, faddOk, anyOk, relOk, Ord.code_plain, Ord.code_acq, Ord.code_rel, Scope.code_core, AtomOp.code_fadd] at hw
  cases w <;> cases rt <;>
    (refine viaTake .atomcas rfl rfl rfl rfl (by rfl) ?_ ?_ ?_ ?_
     · simp; grind -ring -linarith
     · simp [RawX.fits]; grind -ring -linarith
     · simp [odd, RawX.ord, Ord.dec_bits] <;> grind -ring -linarith
     · simp [RawX.g, RawX.ord, Scope.dec_code, Ord.dec_bits])
theorem atomn (g : Guard) (a : Nat) (imm : Word) (b : Nat) (op : AtomOp) (w : Bool) (rt : Bool) (ord : Ord) (sc : Scope) : Statement (.atomn g a imm b op w rt ord sc) := by
  intro _ hw
  replace hw : (g.wf && pairOk a && rOk b && wideOk w b && faddOk op w && relOk ord sc) = true := hw
  have l := imm.isLt
  have l2 := Ord.code_lt ord
  have l3 := Scope.code_lt sc
  have l4 := AtomOp.code_lt op
  simp [Guard.wf, rOk, pairOk, wideOk, faddOk, anyOk, relOk, Ord.code_plain, Ord.code_acq, Ord.code_rel, Scope.code_core, AtomOp.code_fadd] at hw
  cases w <;> cases rt <;>
    (refine viaTake .atomn rfl rfl rfl rfl (by rfl) ?_ ?_ ?_ ?_
     · simp; grind -ring -linarith
     · simp [RawX.fits]; grind -ring -linarith
     · simp [odd, RawX.ord, AtomOp.dec_code, Ord.dec_bits] <;> grind -ring -linarith
     · simp [RawX.g, RawX.ord, AtomOp.dec_code, Scope.dec_code, Ord.dec_bits])
theorem fence (g : Guard) (kind : FenceKind) (sc : Scope) : Statement (.fence g kind sc) := by
  intro _ hw
  have lsc := Scope.code_lt sc
  replace hw : (g.wf) = true := hw
  have hg := guard16 hw
  refine viaTake .fence rfl rfl rfl rfl (by rfl) ?_ ?_ ?_ ?_
  · exact hg.1
  · simp [RawX.fits]; grind -ring -linarith
  · simp [odd, RawX.ord, Scope.dec_code, FenceKind.dec_bits] <;> grind -ring -linarith
  · simp only [RawX.g, RawX.srcB, RawX.srcA, RawX.ord, Scope.dec_code, FenceKind.dec_bits, BitVec.ofNat_toNat, BitVec.setWidth_eq]
theorem wld (g : Guard) (d : Nat) (a : Nat) (imm : Word) (size : Size) (sgn : Bool) : Statement (.wld g d a imm size sgn) := by
  intro _ hw
  have lsize := Size.code_lt size
  have limm := imm.isLt
  have lsgn := bit_lt sgn
  replace hw : (g.wf && sizedOk size d && rOk a && sgnOk size sgn) = true := hw
  simp only [Bool.and_eq_true] at hw
  have hg := guard16 hw.1.1.1
  simp [rOk, sizedOk, sgnOk, Size.code_b32, Size.code_b8, Size.code_b16, Size.code_b64, Size.code_b128] at hw
  refine viaTake .wld rfl rfl rfl rfl (by rfl) ?_ ?_ ?_ ?_
  · exact hg.1
  · simp [RawX.fits]; grind -ring -linarith
  · simp [odd, RawX.ord, Size.dec_code, Size.align_code] <;> grind -ring -linarith
  · simp only [RawX.g, RawX.srcB, RawX.srcA, RawX.ord, Size.dec_code, Size.align_code, BitVec.ofNat_toNat, BitVec.setWidth_eq]
theorem wst (g : Guard) (d : Nat) (a : Nat) (imm : Word) (size : Size) : Statement (.wst g d a imm size) := by
  intro _ hw
  have lsize := Size.code_lt size
  have limm := imm.isLt
  replace hw : (g.wf && sizedOk size d && rOk a) = true := hw
  simp only [Bool.and_eq_true] at hw
  have hg := guard16 hw.1.1
  simp [rOk, sizedOk] at hw
  refine viaTake .wst rfl rfl rfl rfl (by rfl) ?_ ?_ ?_ ?_
  · exact hg.1
  · simp [RawX.fits]; grind -ring -linarith
  · simp [odd, RawX.ord, Size.dec_code, Size.align_code] <;> grind -ring -linarith
  · simp only [RawX.g, RawX.srcB, RawX.srcA, RawX.ord, Size.dec_code, Size.align_code, BitVec.ofNat_toNat, BitVec.setWidth_eq]
theorem ald (g : Guard) (d : Nat) (a : Nat) (imm : Word) (size : Size) (sgn : Bool) : Statement (.ald g d a imm size sgn) := by
  intro _ hw
  have lsize := Size.code_lt size
  have limm := imm.isLt
  have lsgn := bit_lt sgn
  replace hw : (g.wf && sizedOk size d && rOk a && sgnOk size sgn) = true := hw
  simp only [Bool.and_eq_true] at hw
  have hg := guard16 hw.1.1.1
  simp [rOk, sizedOk, sgnOk, Size.code_b32, Size.code_b8, Size.code_b16, Size.code_b64, Size.code_b128] at hw
  refine viaTake .ald rfl rfl rfl rfl (by rfl) ?_ ?_ ?_ ?_
  · exact hg.1
  · simp [RawX.fits]; grind -ring -linarith
  · simp [odd, RawX.ord, Size.dec_code, Size.align_code] <;> grind -ring -linarith
  · simp only [RawX.g, RawX.srcB, RawX.srcA, RawX.ord, Size.dec_code, Size.align_code, BitVec.ofNat_toNat, BitVec.setWidth_eq]
theorem ast (g : Guard) (d : Nat) (a : Nat) (imm : Word) (size : Size) : Statement (.ast g d a imm size) := by
  intro _ hw
  have lsize := Size.code_lt size
  have limm := imm.isLt
  replace hw : (g.wf && sizedOk size d && rOk a) = true := hw
  simp only [Bool.and_eq_true] at hw
  have hg := guard16 hw.1.1
  simp [rOk, sizedOk] at hw
  refine viaTake .ast rfl rfl rfl rfl (by rfl) ?_ ?_ ?_ ?_
  · exact hg.1
  · simp [RawX.fits]; grind -ring -linarith
  · simp [odd, RawX.ord, Size.dec_code, Size.align_code] <;> grind -ring -linarith
  · simp only [RawX.g, RawX.srcB, RawX.srcA, RawX.ord, Size.dec_code, Size.align_code, BitVec.ofNat_toNat, BitVec.setWidth_eq]
theorem cld (g : Guard) (d : Nat) (a : Nat) (imm : Word) (size : Size) (sgn : Bool) : Statement (.cld g d a imm size sgn) := by
  intro _ hw
  have lsize := Size.code_lt size
  have limm := imm.isLt
  have lsgn := bit_lt sgn
  replace hw : (g.wf && sizedOk size d && rOk a && sgnOk size sgn) = true := hw
  simp only [Bool.and_eq_true] at hw
  have hg := guard16 hw.1.1.1
  simp [rOk, sizedOk, sgnOk, Size.code_b32, Size.code_b8, Size.code_b16, Size.code_b64, Size.code_b128] at hw
  refine viaTake .cld rfl rfl rfl rfl (by rfl) ?_ ?_ ?_ ?_
  · exact hg.1
  · simp [RawX.fits]; grind -ring -linarith
  · simp [odd, RawX.ord, Size.dec_code, Size.align_code] <;> grind -ring -linarith
  · simp only [RawX.g, RawX.srcB, RawX.srcA, RawX.ord, Size.dec_code, Size.align_code, BitVec.ofNat_toNat, BitVec.setWidth_eq]
theorem cst (g : Guard) (d : Nat) (a : Nat) (imm : Word) (size : Size) : Statement (.cst g d a imm size) := by
  intro _ hw
  have lsize := Size.code_lt size
  have limm := imm.isLt
  replace hw : (g.wf && sizedOk size d && rOk a) = true := hw
  simp only [Bool.and_eq_true] at hw
  have hg := guard16 hw.1.1
  simp [rOk, sizedOk] at hw
  refine viaTake .cst rfl rfl rfl rfl (by rfl) ?_ ?_ ?_ ?_
  · exact hg.1
  · simp [RawX.fits]; grind -ring -linarith
  · simp [odd, RawX.ord, Size.dec_code, Size.align_code] <;> grind -ring -linarith
  · simp only [RawX.g, RawX.srcB, RawX.srcA, RawX.ord, Size.dec_code, Size.align_code, BitVec.ofNat_toNat, BitVec.setWidth_eq]
theorem ldc (g : Guard) (d : Nat) (imm : Word) (size : Size) : Statement (.ldc g d imm size) := by
  intro _ hw
  have lsize := Size.code_lt size
  have limm := imm.isLt
  replace hw : (g.wf && sizedOk size d && ldcOk size) = true := hw
  simp only [Bool.and_eq_true] at hw
  have hg := guard16 hw.1.1
  simp [sizedOk, ldcOk, Size.code_b32, Size.code_b8, Size.code_b16, Size.code_b64, Size.code_b128] at hw
  refine viaTake .ldc rfl rfl rfl rfl (by rfl) ?_ ?_ ?_ ?_
  · exact hg.1
  · simp [RawX.fits]; grind -ring -linarith
  · simp [odd, RawX.ord, Size.dec_code, Size.align_code] <;> grind -ring -linarith
  · simp only [RawX.g, RawX.srcB, RawX.srcA, RawX.ord, Size.dec_code, Size.align_code, BitVec.ofNat_toNat, BitVec.setWidth_eq]
theorem pref (g : Guard) (a : Nat) (imm : Word) (l2 : Bool) : Statement (.pref g a imm l2) := by
  intro _ hw
  have limm := imm.isLt
  have ll2 := bit_lt l2
  replace hw : (g.wf && pairOk a) = true := hw
  simp only [Bool.and_eq_true] at hw
  have hg := guard16 hw.1
  simp [pairOk] at hw
  refine viaTake .pref rfl rfl rfl rfl (by rfl) ?_ ?_ ?_ ?_
  · exact hg.1
  · simp [RawX.fits]; grind -ring -linarith
  · simp [odd, RawX.ord] <;> grind -ring -linarith
  · simp only [RawX.g, RawX.srcB, RawX.srcA, RawX.ord, BitVec.ofNat_toNat, BitVec.setWidth_eq]
theorem spalloc (g : Guard) (d : Nat) (b : Src) (buf : Buf) (lc : LClass) (ar : Bool) (strict : Bool) : Statement (.spalloc g d b buf lc ar strict) := by
  intro _ hw
  replace hw : (g.wf && rOk d && b.wf) = true := hw
  have lb := Src.word_lt b
  have fb := Src.field_lt b
  simp [Guard.wf, rOk] at hw
  cases buf <;> cases lc <;>
    (refine viaTake .spalloc rfl rfl rfl rfl (by rfl) ?_ ?_ ?_ ?_
     · simp; grind -ring -linarith
     · simp [RawX.fits, Buf.code, LClass.lo]; grind -ring -linarith
     · simp [Src.imm_field, Src.reg_word, Buf.code, LClass.lo, LClass.hi]
     · simp [RawX.g, RawX.srcB, Src.back, Buf.code, LClass.lo, LClass.hi]; exact ⟨rfl, rfl⟩)
theorem spfree (g : Guard) (a : Nat) (buf : Buf) : Statement (.spfree g a buf) := by
  intro _ hw
  replace hw : (g.wf && rOk a) = true := hw
  simp [Guard.wf, rOk] at hw
  cases buf <;>
    (refine viaTake .spfree rfl rfl rfl rfl (by rfl) ?_ ?_ ?_ rfl
     · simp; grind -ring -linarith
     · simp [RawX.fits, Buf.code]; grind -ring -linarith
     · simp [Buf.code])
theorem sprenew (g : Guard) (a : Nat) (b : Src) (buf : Buf) : Statement (.sprenew g a b buf) := by
  intro _ hw
  replace hw : (g.wf && rOk a && b.wf) = true := hw
  have lb := Src.word_lt b
  have fb := Src.field_lt b
  simp [Guard.wf, rOk] at hw
  cases buf <;>
    (refine viaTake .sprenew rfl rfl rfl rfl (by rfl) ?_ ?_ ?_ ?_
     · simp; grind -ring -linarith
     · simp [RawX.fits, Buf.code]; grind -ring -linarith
     · simp [Src.imm_field, Src.reg_word, Buf.code]
     · simp [RawX.g, RawX.srcB, Src.back, Buf.code]; rfl)
theorem spstat (g : Guard) (d : Nat) (a : Nat) (buf : Buf) : Statement (.spstat g d a buf) := by
  intro _ hw
  replace hw : (g.wf && rOk d && rOk a) = true := hw
  simp [Guard.wf, rOk] at hw
  cases buf <;>
    (refine viaTake .spstat rfl rfl rfl rfl (by rfl) ?_ ?_ ?_ rfl
     · simp; grind -ring -linarith
     · simp [RawX.fits, Buf.code]; grind -ring -linarith
     · simp [Buf.code])
theorem spclear (g : Guard) (a : Nat) (buf : Buf) : Statement (.spclear g a buf) := by
  intro _ hw
  replace hw : (g.wf && rOk a) = true := hw
  simp [Guard.wf, rOk] at hw
  cases buf <;>
    (refine viaTake .spclear rfl rfl rfl rfl (by rfl) ?_ ?_ ?_ rfl
     · simp; grind -ring -linarith
     · simp [RawX.fits, Buf.code]; grind -ring -linarith
     · simp [Buf.code])
theorem bread (g : Guard) (pd : Nat) (a : Nat) (b : Nat) (tag : Nat) : Statement (.bread g pd a b tag) := by
  intro _ hw
  replace hw : (g.wf && predOk pd && rOk a && pairOk b && decide (tag < 64)) = true := hw
  simp only [Bool.and_eq_true] at hw
  have hg := guard16 hw.1.1.1.1
  simp [pairOk, rOk, predOk] at hw
  refine viaTake .bread rfl rfl rfl rfl (by rfl) ?_ ?_ ?_ ?_
  · exact hg.1
  · simp [RawX.fits]; grind -ring -linarith
  · simp [odd, RawX.ord] <;> grind -ring -linarith
  · rfl
theorem bwrite (g : Guard) (pd : Nat) (a : Nat) (tag : Nat) (sc : Scope) : Statement (.bwrite g pd a tag sc) := by
  intro _ hw
  have lsc := Scope.code_lt sc
  replace hw : (g.wf && predOk pd && rOk a && decide (tag < 64)) = true := hw
  simp only [Bool.and_eq_true] at hw
  have hg := guard16 hw.1.1.1
  simp [rOk, predOk] at hw
  refine viaTake .bwrite rfl rfl rfl rfl (by rfl) ?_ ?_ ?_ ?_
  · exact hg.1
  · simp [RawX.fits]; grind -ring -linarith
  · simp [odd, RawX.ord, Scope.dec_code] <;> grind -ring -linarith
  · simp only [RawX.g, RawX.srcB, RawX.srcA, RawX.ord, Scope.dec_code, BitVec.ofNat_toNat, BitVec.setWidth_eq]
theorem bcopy (g : Guard) (pd : Nat) (a : Nat) (tag : Nat) (sc : Scope) : Statement (.bcopy g pd a tag sc) := by
  intro _ hw
  have lsc := Scope.code_lt sc
  replace hw : (g.wf && predOk pd && rOk a && decide (tag < 64)) = true := hw
  simp only [Bool.and_eq_true] at hw
  have hg := guard16 hw.1.1.1
  simp [rOk, predOk] at hw
  refine viaTake .bcopy rfl rfl rfl rfl (by rfl) ?_ ?_ ?_ ?_
  · exact hg.1
  · simp [RawX.fits]; grind -ring -linarith
  · simp [odd, RawX.ord, Scope.dec_code] <;> grind -ring -linarith
  · simp only [RawX.g, RawX.srcB, RawX.srcA, RawX.ord, Scope.dec_code, BitVec.ofNat_toNat, BitVec.setWidth_eq]
theorem bfill (g : Guard) (pd : Nat) (a : Nat) (tag : Nat) (sc : Scope) : Statement (.bfill g pd a tag sc) := by
  intro _ hw
  have lsc := Scope.code_lt sc
  replace hw : (g.wf && predOk pd && rOk a && decide (tag < 64)) = true := hw
  simp only [Bool.and_eq_true] at hw
  have hg := guard16 hw.1.1.1
  simp [rOk, predOk] at hw
  refine viaTake .bfill rfl rfl rfl rfl (by rfl) ?_ ?_ ?_ ?_
  · exact hg.1
  · simp [RawX.fits]; grind -ring -linarith
  · simp [odd, RawX.ord, Scope.dec_code] <;> grind -ring -linarith
  · simp only [RawX.g, RawX.srcB, RawX.srcA, RawX.ord, Scope.dec_code, BitVec.ofNat_toNat, BitVec.setWidth_eq]
theorem bdigest (g : Guard) (pd : Nat) (a : Nat) (tag : Nat) : Statement (.bdigest g pd a tag) := by
  intro _ hw
  replace hw : (g.wf && predOk pd && rOk a && decide (tag < 64)) = true := hw
  simp only [Bool.and_eq_true] at hw
  have hg := guard16 hw.1.1.1
  simp [rOk, predOk] at hw
  refine viaTake .bdigest rfl rfl rfl rfl (by rfl) ?_ ?_ ?_ ?_
  · exact hg.1
  · simp [RawX.fits]; grind -ring -linarith
  · simp [odd, RawX.ord] <;> grind -ring -linarith
  · rfl
theorem bstat (g : Guard) (d : Nat) (a : Src) : Statement (.bstat g d a) := by
  intro _ hw
  replace hw : (g.wf && rOk d && a.wf && a.wfUpto 64) = true := hw
  have la := Src.word_lt a
  have fa := Src.field_lt a
  have ua := Src.upto 64 a
  simp [Guard.wf, rOk] at hw
  refine viaTake .bstat rfl rfl rfl rfl (by rfl) ?_ ?_ ?_ ?_
  · simp; grind -ring -linarith
  · simp [RawX.fits]; grind -ring -linarith
  · simp [Src.imm_field, Src.reg_word]; grind -ring -linarith
  · simp [RawX.g, RawX.srcA, Src.back]
theorem mxlw (g : Guard) (pd : Nat) (a : Nat) : Statement (.mxlw g pd a) := by
  intro _ hw
  replace hw : (g.wf && predOk pd && rOk a) = true := hw
  simp only [Bool.and_eq_true] at hw
  have hg := guard16 hw.1.1
  simp [rOk, predOk] at hw
  refine viaTake .mxlw rfl rfl rfl rfl (by rfl) ?_ ?_ ?_ ?_
  · exact hg.1
  · simp [RawX.fits]; grind -ring -linarith
  · simp [odd, RawX.ord] <;> grind -ring -linarith
  · rfl
theorem mxrun (g : Guard) (pd : Nat) (a : Nat) : Statement (.mxrun g pd a) := by
  intro _ hw
  replace hw : (g.wf && predOk pd && rOk a) = true := hw
  simp only [Bool.and_eq_true] at hw
  have hg := guard16 hw.1.1
  simp [rOk, predOk] at hw
  refine viaTake .mxrun rfl rfl rfl rfl (by rfl) ?_ ?_ ?_ ?_
  · exact hg.1
  · simp [RawX.fits]; grind -ring -linarith
  · simp [odd, RawX.ord] <;> grind -ring -linarith
  · rfl
theorem mxzero (g : Guard) (pd : Nat) (a : Nat) : Statement (.mxzero g pd a) := by
  intro _ hw
  replace hw : (g.wf && predOk pd && rOk a) = true := hw
  simp only [Bool.and_eq_true] at hw
  have hg := guard16 hw.1.1
  simp [rOk, predOk] at hw
  refine viaTake .mxzero rfl rfl rfl rfl (by rfl) ?_ ?_ ?_ ?_
  · exact hg.1
  · simp [RawX.fits]; grind -ring -linarith
  · simp [odd, RawX.ord] <;> grind -ring -linarith
  · rfl
theorem mxver (g : Guard) (d : Nat) (a : Nat) : Statement (.mxver g d a) := by
  intro _ hw
  replace hw : (g.wf && rOk d && rOk a) = true := hw
  simp only [Bool.and_eq_true] at hw
  have hg := guard16 hw.1.1
  simp [rOk] at hw
  refine viaTake .mxver rfl rfl rfl rfl (by rfl) ?_ ?_ ?_ ?_
  · exact hg.1
  · simp [RawX.fits]; grind -ring -linarith
  · simp [odd, RawX.ord] <;> grind -ring -linarith
  · rfl
theorem mxhnd (g : Guard) (d : Nat) (a : Nat) (b : Nat) : Statement (.mxhnd g d a b) := by
  intro _ hw
  replace hw : (g.wf && rOk d && rOk a && rOk b) = true := hw
  simp only [Bool.and_eq_true] at hw
  have hg := guard16 hw.1.1.1
  simp [rOk] at hw
  refine viaTake .mxhnd rfl rfl rfl rfl (by rfl) ?_ ?_ ?_ ?_
  · exact hg.1
  · simp [RawX.fits]; grind -ring -linarith
  · simp [odd, RawX.ord] <;> grind -ring -linarith
  · rfl
theorem mxrel (g : Guard) (a : Nat) : Statement (.mxrel g a) := by
  intro _ hw
  replace hw : (g.wf && rOk a) = true := hw
  simp only [Bool.and_eq_true] at hw
  have hg := guard16 hw.1
  simp [rOk] at hw
  refine viaTake .mxrel rfl rfl rfl rfl (by rfl) ?_ ?_ ?_ ?_
  · exact hg.1
  · simp [RawX.fits]; grind -ring -linarith
  · simp [odd, RawX.ord] <;> grind -ring -linarith
  · rfl
theorem coll (g : Guard) (pd : Nat) (a : Nat) (tag : Nat) : Statement (.coll g pd a tag) := by
  intro _ hw
  replace hw : (g.wf && predOk pd && rOk a && decide (tag < 64)) = true := hw
  simp only [Bool.and_eq_true] at hw
  have hg := guard16 hw.1.1.1
  simp [rOk, predOk] at hw
  refine viaTake .coll rfl rfl rfl rfl (by rfl) ?_ ?_ ?_ ?_
  · exact hg.1
  · simp [RawX.fits]; grind -ring -linarith
  · simp [odd, RawX.ord] <;> grind -ring -linarith
  · rfl
theorem movs (g : Guard) (d : Nat) (x : SReg) : Statement (.movs g d x) := by
  intro _ hw
  have lx := SReg.code_lt x
  replace hw : (g.wf && wideOk x.wide d) = true := hw
  simp only [Bool.and_eq_true] at hw
  have hg := guard16 hw.1
  simp [wideOk] at hw
  refine viaTake .movs rfl rfl rfl rfl (by rfl) ?_ ?_ ?_ ?_
  · exact hg.1
  · simp [RawX.fits]; grind -ring -linarith
  · simp [odd, RawX.ord, SReg.dec_code] <;> grind -ring -linarith
  · simp only [RawX.g, RawX.srcB, RawX.srcA, RawX.ord, SReg.dec_code, BitVec.ofNat_toNat, BitVec.setWidth_eq]
theorem movsw (g : Guard) (x : SReg) (a : Nat) : Statement (.movsw g x a) := by
  intro _ hw
  have lx := SReg.code_lt x
  replace hw : (g.wf && rOk a && x == .fault) = true := hw
  simp only [Bool.and_eq_true] at hw
  have hg := guard16 hw.1.1
  simp [rOk, SReg.code_fault] at hw
  refine viaTake .movsw rfl rfl rfl rfl (by rfl) ?_ ?_ ?_ ?_
  · exact hg.1
  · simp [RawX.fits]; grind -ring -linarith
  · simp [odd, RawX.ord, SReg.dec_code] <;> grind -ring -linarith
  · simp only [RawX.g, RawX.srcB, RawX.srcA, RawX.ord, SReg.dec_code, BitVec.ofNat_toNat, BitVec.setWidth_eq]
theorem regset (g : Guard) (d : Nat) (n : Nat) (b : Src) : Statement (.regset g d n b) := by
  intro _ hw
  replace hw : (g.wf && rOk d && decide (1 ≤ n ∧ n ≤ 512) && b.wf) = true := hw
  have lb := Src.word_lt b
  have fb := Src.field_lt b
  simp [Guard.wf, rOk] at hw
  have e : n - 1 + 1 = n := by omega
  cases b <;>
    (refine viaTake .regset rfl rfl rfl rfl (by rfl) ?_ ?_ ?_ ?_
     · simp; grind -ring -linarith
     · simp [RawX.fits, Src.isImm]; grind -ring -linarith
     · simp [Src.isImm, Src.field, Src.word]
     · simp [RawX.g, Src.isImm, Src.field, Src.word, e])
theorem shp (g : Guard) (d : Nat) (a : Nat) : Statement (.shp g d a) := by
  intro _ hw
  replace hw : (g.wf && rOk d && rOk a) = true := hw
  simp only [Bool.and_eq_true] at hw
  have hg := guard16 hw.1.1
  simp [rOk] at hw
  refine viaTake .shp rfl rfl rfl rfl (by rfl) ?_ ?_ ?_ ?_
  · exact hg.1
  · simp [RawX.fits]; grind -ring -linarith
  · simp [odd, RawX.ord] <;> grind -ring -linarith
  · rfl
theorem uni (g : Guard) (d : Nat) (a : Nat) : Statement (.uni g d a) := by
  intro _ hw
  replace hw : (g.wf && rOk d && rOk a) = true := hw
  simp only [Bool.and_eq_true] at hw
  have hg := guard16 hw.1.1
  simp [rOk] at hw
  refine viaTake .uni rfl rfl rfl rfl (by rfl) ?_ ?_ ?_ ?_
  · exact hg.1
  · simp [RawX.fits]; grind -ring -linarith
  · simp [odd, RawX.ord] <;> grind -ring -linarith
  · rfl
theorem ckpt (g : Guard) : Statement (.ckpt g) := by
  intro _ hw
  replace hw : (g.wf) = true := hw
  have hg := guard16 hw
  refine viaTake .ckpt rfl rfl rfl rfl (by rfl) ?_ ?_ ?_ ?_
  · exact hg.1
  · simp [RawX.fits]; grind -ring -linarith
  · simp [odd, RawX.ord] <;> grind -ring -linarith
  · rfl
theorem tret (g : Guard) : Statement (.tret g) := by
  intro _ hw
  replace hw : (g.wf) = true := hw
  have hg := guard16 hw
  refine viaTake .tret rfl rfl rfl rfl (by rfl) ?_ ?_ ?_ ?_
  · exact hg.1
  · simp [RawX.fits]; grind -ring -linarith
  · simp [odd, RawX.ord] <;> grind -ring -linarith
  · rfl
theorem cinv (g : Guard) (k : CinvKind) (a : Nat) (imm : Word) (b : Nat) : Statement (.cinv g k a imm b) := by
  intro _ hw
  replace hw : (g.wf && pairOk a && rOk b) = true := hw
  have l := imm.isLt
  simp [Guard.wf, rOk, pairOk] at hw
  cases k with
  | d =>
    refine viaTake .cinv rfl rfl rfl rfl (by rfl) ?_ ?_ ?_ ?_
    · simp; grind -ring -linarith
    · simp [RawX.fits, CinvKind.code]; grind -ring -linarith
    · simp [CinvKind.isD, CinvKind.code, odd]; grind -ring -linarith
    · simp [RawX.g, CinvKind.isD]
  | i sc =>
    have ls := Scope.code_lt sc
    refine viaTake .cinv rfl rfl rfl rfl (by rfl) ?_ ?_ ?_ ?_
    · simp; grind -ring -linarith
    · simp [RawX.fits, CinvKind.code]; grind -ring -linarith
    · simp [CinvKind.isD, CinvKind.code, odd]; grind -ring -linarith
    · simp [RawX.g, CinvKind.isD, CinvKind.code, Scope.dec_code]
theorem tlbinv (g : Guard) (k : TlbKind) (sc : Scope) : Statement (.tlbinv g k sc) := by
  intro _ hw
  replace hw : (g.wf && k.wf) = true := hw
  have ls := Scope.code_lt sc
  cases k <;>
    (simp [Guard.wf, TlbKind.wf, rOk, pairOk] at hw
     refine viaTake .tlbinv rfl rfl rfl rfl (by rfl) ?_ ?_ ?_ ?_
     · simp; grind -ring -linarith
     · simp [RawX.fits, TlbKind.code, TlbKind.fieldA, TlbKind.fieldB]; grind -ring -linarith
     · simp [TlbKind.code, TlbKind.fieldA, TlbKind.fieldB, odd] <;> grind -ring -linarith
     · simp [RawX.g, TlbKind.dec, TlbKind.code, TlbKind.fieldA, TlbKind.fieldB, Scope.dec_code])
theorem csrr (g : Guard) (d : Nat) (csr : Nat) : Statement (.csrr g d csr) := by
  intro _ hw
  replace hw : (g.wf && pairOk d && csrAssigned csr) = true := hw
  simp [Guard.wf, rOk, pairOk, csrAssigned] at hw
  obtain rfl : csr = 1024 := by grind
  refine viaTake .csrr rfl rfl rfl rfl (by rfl) ?_ ?_ ?_ ?_
  · simp; grind -ring -linarith
  · simp [RawX.fits]; grind -ring -linarith
  · simp [odd, w2f, csrAssigned]; grind -ring -linarith
  · simp [RawX.g, w2f]
theorem csrw (g : Guard) (csr : Nat) (a : Nat) : Statement (.csrw g csr a) := by
  intro _ hw
  replace hw : (g.wf && csrAssigned csr && pairOk a) = true := hw
  simp [Guard.wf, rOk, pairOk, csrAssigned] at hw
  obtain rfl : csr = 1024 := by grind
  refine viaTake .csrw rfl rfl rfl rfl (by rfl) ?_ ?_ ?_ ?_
  · simp; grind -ring -linarith
  · simp [RawX.fits]; grind -ring -linarith
  · simp [odd, w2f, csrAssigned]; grind -ring -linarith
  · simp [RawX.g, w2f]
theorem halt (g : Guard) : Statement (.halt g) := by
  intro _ hw
  replace hw : (g.wf) = true := hw
  have hg := guard16 hw
  refine viaTake .halt rfl rfl rfl rfl (by rfl) ?_ ?_ ?_ ?_
  · exact hg.1
  · simp [RawX.fits]; grind -ring -linarith
  · simp [odd, RawX.ord] <;> grind -ring -linarith
  · rfl
theorem stubEntry : Statement (.stubEntry) :=
  fun h _ => Bool.noConfusion h
theorem stubBind : Statement (.stubBind) :=
  fun h _ => Bool.noConfusion h
theorem parkmapFetchDone (core : Nat) (pc : Nat) : Statement (.parkmapFetchDone core pc) :=
  fun h _ => Bool.noConfusion h
theorem resultLanding (id : Nat) (data : List Byte) (status : Nat) : Statement (.resultLanding id data status) :=
  fun h _ => Bool.noConfusion h
theorem storePerformed (id : Nat) : Statement (.storePerformed id) :=
  fun h _ => Bool.noConfusion h
theorem atomicAtHome (id : Nat) (data : List Byte) : Statement (.atomicAtHome id data) :=
  fun h _ => Bool.noConfusion h
theorem sprenewComplete (id : Nat) : Statement (.sprenewComplete id) :=
  fun h _ => Bool.noConfusion h
theorem cinvComplete (id : Nat) : Statement (.cinvComplete id) :=
  fun h _ => Bool.noConfusion h
theorem tlbinvComplete (id : Nat) : Statement (.tlbinvComplete id) :=
  fun h _ => Bool.noConfusion h
theorem cohortFormation (core : Nat) (idle : Bool) : Statement (.cohortFormation core idle) :=
  fun h _ => Bool.noConfusion h
theorem drainAgeExpiry (core : Nat) (n : Nat) : Statement (.drainAgeExpiry core n) :=
  fun h _ => Bool.noConfusion h
theorem cohortAgePromotion (core : Nat) (slot : Nat) : Statement (.cohortAgePromotion core slot) :=
  fun h _ => Bool.noConfusion h
theorem spillReadback (core : Nat) (rid : Nat) : Statement (.spillReadback core rid) :=
  fun h _ => Bool.noConfusion h
theorem recordForward (core : Nat) (rid : Nat) : Statement (.recordForward core rid) :=
  fun h _ => Bool.noConfusion h
theorem schedulerForward (core : Nat) (rid : Nat) (dest : Nat) : Statement (.schedulerForward core rid dest) :=
  fun h _ => Bool.noConfusion h
theorem waitEventFire (core : Nat) (rid : Nat) : Statement (.waitEventFire core rid) :=
  fun h _ => Bool.noConfusion h
theorem l2WatchEvent (pa : Nat) (data : List Byte) : Statement (.l2WatchEvent pa data) :=
  fun h _ => Bool.noConfusion h
theorem burstReadStart (core : Nat) (id : Nat) : Statement (.burstReadStart core id) :=
  fun h _ => Bool.noConfusion h
theorem burstReturn (core : Nat) (id : Nat) (seq : Nat) (data : List Byte) (status : Nat) : Statement (.burstReturn core id seq data status) :=
  fun h _ => Bool.noConfusion h
theorem bulkOpComplete (core : Nat) (id : Nat) (data : List Byte) (status : Nat) : Statement (.bulkOpComplete core id data status) :=
  fun h _ => Bool.noConfusion h
theorem mxlwStart (core : Nat) : Statement (.mxlwStart core) :=
  fun h _ => Bool.noConfusion h
theorem mxlwComplete (core : Nat) : Statement (.mxlwComplete core) :=
  fun h _ => Bool.noConfusion h
theorem mxrunStart (core : Nat) : Statement (.mxrunStart core) :=
  fun h _ => Bool.noConfusion h
theorem mxrunComplete (core : Nat) : Statement (.mxrunComplete core) :=
  fun h _ => Bool.noConfusion h
theorem mxzeroComplete (core : Nat) : Statement (.mxzeroComplete core) :=
  fun h _ => Bool.noConfusion h
theorem matrixStall (core : Nat) (id : Nat) : Statement (.matrixStall core id) :=
  fun h _ => Bool.noConfusion h
theorem matrixStallTerminate (core : Nat) (id : Nat) : Statement (.matrixStallTerminate core id) :=
  fun h _ => Bool.noConfusion h
theorem collHopReceive (id : Nat) (rank : Nat) (data : List Byte) : Statement (.collHopReceive id rank data) :=
  fun h _ => Bool.noConfusion h
theorem collComplete (id : Nat) : Statement (.collComplete id) :=
  fun h _ => Bool.noConfusion h
theorem collHopTimeout (id : Nat) : Statement (.collHopTimeout id) :=
  fun h _ => Bool.noConfusion h
theorem collAbort (comm : Nat) (reason : Nat) : Statement (.collAbort comm reason) :=
  fun h _ => Bool.noConfusion h
theorem launchPacket (slot : Nat) : Statement (.launchPacket slot) :=
  fun h _ => Bool.noConfusion h
theorem launchStart (slot : Nat) : Statement (.launchStart slot) :=
  fun h _ => Bool.noConfusion h
theorem barrierPacket (slot : Nat) : Statement (.barrierPacket slot) :=
  fun h _ => Bool.noConfusion h
theorem signalPacket (slot : Nat) : Statement (.signalPacket slot) :=
  fun h _ => Bool.noConfusion h
theorem sliceBoundary : Statement (.sliceBoundary) :=
  fun h _ => Bool.noConfusion h
theorem qdoor (part : Nat) (qid : Nat) : Statement (.qdoor part qid) :=
  fun h _ => Bool.noConfusion h
theorem groveAdmission (launch : Nat) : Statement (.groveAdmission launch) :=
  fun h _ => Bool.noConfusion h
theorem evict (launch : Nat) (step : Nat) : Statement (.evict launch step) :=
  fun h _ => Bool.noConfusion h
theorem evictionOverBound (grove : Nat) : Statement (.evictionOverBound grove) :=
  fun h _ => Bool.noConfusion h
theorem evictionAbandon (grove : Nat) : Statement (.evictionAbandon grove) :=
  fun h _ => Bool.noConfusion h
theorem groveRestore (grove : Nat) (core : Nat) : Statement (.groveRestore grove core) :=
  fun h _ => Bool.noConfusion h
theorem groveRetirement (grove : Nat) : Statement (.groveRetirement grove) :=
  fun h _ => Bool.noConfusion h
theorem registerSweepDone (core : Nat) : Statement (.registerSweepDone core) :=
  fun h _ => Bool.noConfusion h
theorem spWrapSweepDone (core : Nat) : Statement (.spWrapSweepDone core) :=
  fun h _ => Bool.noConfusion h
theorem expiryScan (core : Nat) : Statement (.expiryScan core) :=
  fun h _ => Bool.noConfusion h
theorem sweeperRenew (core : Nat) (buf : Buf) (gran : Nat) : Statement (.sweeperRenew core buf gran) :=
  fun h _ => Bool.noConfusion h
theorem l2ClassRefresh (core : Nat) (buf : Buf) (gran : Nat) : Statement (.l2ClassRefresh core buf gran) :=
  fun h _ => Bool.noConfusion h
theorem watchdogExpiry (core : Nat) (slot : Nat) : Statement (.watchdogExpiry core slot) :=
  fun h _ => Bool.noConfusion h
theorem rotatedImageRestore (part : Nat) : Statement (.rotatedImageRestore part) :=
  fun h _ => Bool.noConfusion h
theorem formationStarved (core : Nat) (rid : Nat) : Statement (.formationStarved core rid) :=
  fun h _ => Bool.noConfusion h
theorem pfrzKill (part : Nat) : Statement (.pfrzKill part) :=
  fun h _ => Bool.noConfusion h
theorem pcalWrite (part : Nat) (v : DWord) : Statement (.pcalWrite part v) :=
  fun h _ => Bool.noConfusion h
theorem trapDelivery (launch : Nat) : Statement (.trapDelivery launch) :=
  fun h _ => Bool.noConfusion h
theorem flogcfgWrite (part : Nat) (v : DWord) : Statement (.flogcfgWrite part v) :=
  fun h _ => Bool.noConfusion h
theorem flogtailWrite (part : Nat) (v : DWord) : Statement (.flogtailWrite part v) :=
  fun h _ => Bool.noConfusion h
theorem haltstage (part : Nat) (launch : Nat) (arg : Nat) : Statement (.haltstage part launch arg) :=
  fun h _ => Bool.noConfusion h
theorem releaseStage (part : Nat) (launch : Nat) (arg : Nat) : Statement (.releaseStage part launch arg) :=
  fun h _ => Bool.noConfusion h
theorem listImages (part : Nat) : Statement (.listImages part) :=
  fun h _ => Bool.noConfusion h
theorem readimg (part : Nat) (hid : Nat) (off : Nat) : Statement (.readimg part hid off) :=
  fun h _ => Bool.noConfusion h
theorem writeimg (part : Nat) (hid : Nat) (off : Nat) : Statement (.writeimg part hid off) :=
  fun h _ => Bool.noConfusion h
theorem debugStep (part : Nat) (hid : Nat) : Statement (.debugStep part hid) :=
  fun h _ => Bool.noConfusion h
theorem resumeImage (part : Nat) (hid : Nat) : Statement (.resumeImage part hid) :=
  fun h _ => Bool.noConfusion h
theorem stalemap (part : Nat) (hid : Nat) : Statement (.stalemap part hid) :=
  fun h _ => Bool.noConfusion h
theorem discardImage (part : Nat) (hid : Nat) : Statement (.discardImage part hid) :=
  fun h _ => Bool.noConfusion h
theorem readsp (part : Nat) (launch : Nat) (arg : Nat) : Statement (.readsp part launch arg) :=
  fun h _ => Bool.noConfusion h
theorem demandReplay (part : Nat) (die : Nat) (n : Nat) : Statement (.demandReplay part die n) :=
  fun h _ => Bool.noConfusion h
theorem demandRefuse (part : Nat) (die : Nat) (n : Nat) : Statement (.demandRefuse part die n) :=
  fun h _ => Bool.noConfusion h
theorem pageWalkComplete (die : Nat) (n : Nat) : Statement (.pageWalkComplete die n) :=
  fun h _ => Bool.noConfusion h
theorem patrolScrub (src : Nat) (ue : Bool) (loc : Nat) (line : Nat) : Statement (.patrolScrub src ue loc line) :=
  fun h _ => Bool.noConfusion h
theorem hostInboundWrite (f : Nat) (off : Nat) (data : List Byte) : Statement (.hostInboundWrite f off data) :=
  fun h _ => Bool.noConfusion h
theorem hostInboundRead (f : Nat) (bar : Nat) (off : Nat) (len : Nat) (tag : Nat) : Statement (.hostInboundRead f bar off len tag) :=
  fun h _ => Bool.noConfusion h
theorem outboundHostTimeout (id : Nat) : Statement (.outboundHostTimeout id) :=
  fun h _ => Bool.noConfusion h
theorem biSnoopResponse (line : Nat) : Statement (.biSnoopResponse line) :=
  fun h _ => Bool.noConfusion h
theorem biSnoopTimeout (line : Nat) : Statement (.biSnoopTimeout line) :=
  fun h _ => Bool.noConfusion h
theorem hostLinkDown : Statement (.hostLinkDown) :=
  fun h _ => Bool.noConfusion h
theorem hotReset : Statement (.hotReset) :=
  fun h _ => Bool.noConfusion h
theorem vfFlr (f : Nat) : Statement (.vfFlr f) :=
  fun h _ => Bool.noConfusion h
theorem pfFlr : Statement (.pfFlr) :=
  fun h _ => Bool.noConfusion h
theorem aerError (f : Nat) (cls : Nat) (req : Nat) (bits : DWord) : Statement (.aerError f cls req bits) :=
  fun h _ => Bool.noConfusion h
theorem spdmRequest (index : Nat) : Statement (.spdmRequest index) :=
  fun h _ => Bool.noConfusion h
theorem flitReceive (port : Nat) (flit : List Byte) : Statement (.flitReceive port flit) :=
  fun h _ => Bool.noConfusion h
theorem portRxTimeout (port : Nat) : Statement (.portRxTimeout port) :=
  fun h _ => Bool.noConfusion h
theorem laneLoss (port : Nat) : Statement (.laneLoss port) :=
  fun h _ => Bool.noConfusion h
theorem portRetrainDone (port : Nat) (ok : Bool) : Statement (.portRetrainDone port ok) :=
  fun h _ => Bool.noConfusion h
theorem flowGapTimeout (flow : Nat) : Statement (.flowGapTimeout flow) :=
  fun h _ => Bool.noConfusion h
theorem breakMessage (flow : Nat) (fseq : Nat) : Statement (.breakMessage flow fseq) :=
  fun h _ => Bool.noConfusion h
theorem noRouteTimeout (pkg : Nat) : Statement (.noRouteTimeout pkg) :=
  fun h _ => Bool.noConfusion h
theorem remoteResponseTimeout (id : Nat) : Statement (.remoteResponseTimeout id) :=
  fun h _ => Bool.noConfusion h
theorem remoteAtomicRequest (flow : Nat) (opid : Nat) (part : Nat) (pa : Nat) (op : Nat) (size : Nat) (key : Nat) (token : Nat) (data : List Byte) (cmp : List Byte) : Statement (.remoteAtomicRequest flow opid part pa op size key token data cmp) :=
  fun h _ => Bool.noConfusion h
theorem timingMessage (corr : Int) : Statement (.timingMessage corr) :=
  fun h _ => Bool.noConfusion h
theorem timeSyncLost : Statement (.timeSyncLost) :=
  fun h _ => Bool.noConfusion h
theorem powerGood (b : Boot) : Statement (.powerGood b) :=
  fun h _ => Bool.noConfusion h
theorem mgmtPackageReset (b : Boot) : Statement (.mgmtPackageReset b) :=
  fun h _ => Bool.noConfusion h
theorem powerSample (amps : Nat) (watts : Nat) : Statement (.powerSample amps watts) :=
  fun h _ => Bool.noConfusion h
theorem clockRaise : Statement (.clockRaise) :=
  fun h _ => Bool.noConfusion h
theorem thermalReport (die : Nat) (tj : Nat) : Statement (.thermalReport die tj) :=
  fun h _ => Bool.noConfusion h
theorem thermalTrip (die : Nat) (tj : Nat) (b : Boot) : Statement (.thermalTrip die tj b) :=
  fun h _ => Bool.noConfusion h
theorem standGate (stand : Nat) : Statement (.standGate stand) :=
  fun h _ => Bool.noConfusion h
theorem d3hotEntry : Statement (.d3hotEntry) :=
  fun h _ => Bool.noConfusion h
theorem loadObject (part : Nat) : Statement (.loadObject part) :=
  fun h _ => Bool.noConfusion h
theorem registerExport (part : Nat) : Statement (.registerExport part) :=
  fun h _ => Bool.noConfusion h
theorem unloadObject (part : Nat) : Statement (.unloadObject part) :=
  fun h _ => Bool.noConfusion h
theorem loaderDone (part : Nat) (st : Nat) (why : Nat) : Statement (.loaderDone part st why) :=
  fun h _ => Bool.noConfusion h
theorem mailboxAccessTable (target : Nat) (master : Nat) (i : Nat) (desc : BitVec 256) : Statement (.mailboxAccessTable target master i desc) :=
  fun h _ => Bool.noConfusion h
theorem mailboxKeyLoad (slot : Nat) : Statement (.mailboxKeyLoad slot) :=
  fun h _ => Bool.noConfusion h
theorem forensicChallenge : Statement (.forensicChallenge) :=
  fun h _ => Bool.noConfusion h
theorem forensicUnlock : Statement (.forensicUnlock) :=
  fun h _ => Bool.noConfusion h
theorem forensicRelock : Statement (.forensicRelock) :=
  fun h _ => Bool.noConfusion h
theorem iftRequest : Statement (.iftRequest) :=
  fun h _ => Bool.noConfusion h
theorem iftScanDone (stand : Nat) (fails : List (Nat × Nat)) : Statement (.iftScanDone stand fails) :=
  fun h _ => Bool.noConfusion h
theorem checkpointComplete (lead : Nat) : Statement (.checkpointComplete lead) :=
  fun h _ => Bool.noConfusion h
theorem registerWrite (who : Nat) (n : Nat) (v : DWord) : Statement (.registerWrite who n v) :=
  fun h _ => Bool.noConfusion h
theorem invalidInstruction (ws : List Word) (reason : Nat) : Statement (.invalidInstruction ws reason) :=
  fun h _ => Bool.noConfusion h
theorem d3hotExit : Statement (.d3hotExit) :=
  fun h _ => Bool.noConfusion h
theorem powerRemoved : Statement (.powerRemoved) :=
  fun h _ => Bool.noConfusion h
theorem timeBaseExchange (master : Nat) : Statement (.timeBaseExchange master) :=
  fun h _ => Bool.noConfusion h
theorem cxlMemRequest (write : Bool) (addr : Nat) (data : List Byte) : Statement (.cxlMemRequest write addr data) :=
  fun h _ => Bool.noConfusion h

end Sys2Proof.Laws.RoundTrip
end

