-- ==== Sys2Proof/Safety.lean ====
section
/-! DEFINITION. What counts as a safe state and a safe run, and when an issue meets nothing that stands in every instruction's way, in the terms that the claims use. -/
namespace Sys2Proof.Machine

/-- Everything that the schedule of outside events holds is an event. -/
def State.agendaOk (s : State) : Bool := s.agenda.all fun x => x.2.isEvent
/-- The invariant of the machine: memory has its one canonical form, and the schedule holds events only. -/
def State.Inv (s : State) : Prop := Memory.wf s.mem = true ∧ s.agendaOk = true
/-- The machine can go from one state to another in some number of steps. -/
inductive State.Reaches : State → State → Prop
  | refl (s : State) : State.Reaches s s
  | tail (s t u : State) : State.Reaches s t → step t = .next u → State.Reaches s u
/-- A safe state: no run from it ever stops. -/
def State.Safe (s : State) : Prop := ∀ t, State.Reaches s t → ∃ u, step t = .next u

/-- x is the issue of the current cohort, and none of the checks that every instruction makes stands in its way (R181 rows 5 to 7, R64, R66, R420): the registers it names are within the allotment, and in the lanes under its guard none of them, and no source, is poisoned, and none awaits a result, and no source is stale in a strict launch. The cohort is not being stepped by a debugger (R387). -/
def State.ready (s : State) (x : Ctx) (g : Guard) (regs srcs : List Nat) : Bool :=
  decide (s.ctx = some x) && x.co.single.isNone && regs.all (fun r => decide (r < x.co.allot)) &&
  (x.en g).all fun l => !(x.strict && srcs.any x.co.stale) && (s.pendingFor (x.strand l) regs).isEmpty &&
    !(((x.co.lanes.find? l).elim [] Lane.poison).any fun q => regs.contains q.1 || srcs.contains q.1)
/-- The cohort of an issue that has gone past an instruction of len bytes: the lanes of the executing set are at the next one (R24), a breakpoint may match there again (R381), its age starts anew (R317). -/
def State.passed (s : State) (x : Ctx) (len : Nat) : Cohort :=
  { x.co with
    lanes := x.co.lanes.map fun y => (y.1, if x.xs.contains y.1 then { y.2 with pc := x.after len, met := none } else y.2)
    readyTick := s.cyc
    boosted := false }
/-- An instruction that only computes: whenever its issue is `ready`, it completes, and the state after differs from the one before in the issuing cohort alone (and in that a request which froze its partition has had its turn, R406). There, in every present lane under the guard, the registers ds hold the values v; every other register of every lane holds what it held, and a register is of the cohort's generation when it was before or has just been written (R64, R65, R199). -/
def Computes (i : Instr) (g : Guard) (len : Nat) (regs srcs ds : List Nat) (ok : State → Ctx → Prop) (v : State → Ctx → Nat → Nat → Word) : Prop :=
  ∀ s x, s.ready x g regs srcs = true → ok s x → ∃ rs : NMap Reg,
    exec i s = .next ((s.firstIssued x).setCohort x.core x.slot { s.passed x len with regs := rs }) ∧
    (∀ n l, l < 32 → l ∈ x.co.present →
      ({ x.co with regs := rs } : Cohort).reg n l = if n ∈ ds ∧ l ∈ x.en g then v s x n l else x.co.reg n l) ∧
    ∀ n, ({ x.co with regs := rs } : Cohort).stale n = (x.co.stale n && !(decide (n ∈ ds) && !(x.en g).isEmpty))
/-- No further condition. -/
def always (_ : State) (_ : Ctx) : Prop := True
/-- The low or the high word of a pair's value, by register number (R58). -/
def half (d n : Nat) (w : DWord) : Word := if n = d then w.setWidth 32 else (w >>> 32).setWidth 32
/-- A lane without its predicates. -/
def Lane.bare (y : Lane) : Lane := { y with preds := 0 }
/-- An instruction that only sets predicates: whenever its issue is `ready`, it completes, and the state after differs from the one before in the issuing cohort's lanes alone (and R406's turn). Every lane keeps all else that it has (its PC moves on), and in every lane under the guard the predicates ps, p0 excepted, hold the values v; p0 reads 1 and every other predicate of every lane holds what it held (R59, R199). -/
def Decides (i : Instr) (g : Guard) (len : Nat) (regs srcs ps : List Nat) (v : State → Ctx → Nat → Nat → Bool) : Prop :=
  ∀ s x, s.ready x g regs srcs = true → ∃ ls : NMap Lane,
    exec i s = .next ((s.firstIssued x).setCohort x.core x.slot { s.passed x len with lanes := ls }) ∧
    (∀ l, (ls.find? l).map Lane.bare = ((s.passed x len).lanes.find? l).map Lane.bare) ∧
    ∀ q l, q < 16 → (x.co.lanes.find? l).isSome = true →
      ({ x.co with lanes := ls } : Cohort).pred q l = if q ∈ ps ∧ q ≠ 0 ∧ l ∈ x.en g then v s x q l else x.co.pred q l

/-- No watchpoint of the issuing core is armed (R382). -/
def State.unwatched (s : State) (x : Ctx) : Bool := (List.range 4).all fun n => fld ((s.core x.core).bps.getD (16 + 4 * n + 1) 0) 0 0 == 0
/-- The strand of a lane can count one more operation in a class (R47). -/
def State.countable (s : State) (x : Ctx) (c : CClass) (l : Nat) : Bool := ((s.strands.find? (x.strand l)).elim 0 fun t => t.count c) != 63
/-- Every lane under the guard meets a condition. -/
def each (g : Guard) (P : State → Ctx → Nat → Prop) (s : State) (x : Ctx) : Prop := ∀ l ∈ x.en g, P s x l
/-- An instruction that acts on the machine at once: whenever its issue is `ready`, no watchpoint is armed and ok holds, it completes. The lanes of the executing set move on to the next instruction (R24); with a lane under the guard, act then happens for those lanes; and the cohort's age starts anew (R317). -/
def Acts (i : Instr) (g : Guard) (len : Nat) (regs srcs : List Nat) (ok : State → Ctx → Prop) (act : State → Ctx → List Nat → State) : Prop :=
  ∀ s x, s.ready x g regs srcs = true → s.unwatched x = true → ok s x →
    exec i s = .next ((if x.en g = [] then s.setPcs x x.xs (x.after len) else act (s.setPcs x x.xs (x.after len)) x (x.en g)).issued x)
/-- An instruction whose every lane under the guard parks after it (R33, R237): whenever its issue is `ready`, ok holds, the park map names no register outside the allotment, no register word that is saved has an uncorrectable error (R421) and there is room for the records and for the chain nodes they need (R402 to R404), it completes. The lanes of the executing set move on; each lane under the guard, in ascending order, leaves the cohort for a record that awaits w and resumes after the instruction. -/
def Parks (i : Instr) (g : Guard) (len : Nat) (regs srcs : List Nat) (ok : State → Ctx → Prop) (w : State → Ctx → Nat → Option WaitEv) : Prop :=
  ∀ s x, s.ready x g regs srcs = true → ok s x → x.en g ≠ [] → s.badParkMap x (x.after len) = none →
    x.lost (x.en g) (s.parkRegs x (x.after len)) = false →
    (let waits := (x.en g).map fun l => (x.strand l, w s x l)
     s.recRoomWith x.core x.part (List.replicate (x.en g).length (x.recSize (s.parkRegs x (x.after len)).length)) (s.waitNodes x.core waits + s.watchNodes waits) = true) →
    exec i s = .next (((x.en g).foldl (fun t l => t.park x.core x.slot l x.pc (x.after len) (w s x l) [] (s.setPcs x x.xs (x.after len)).seq) (s.setPcs x x.xs (x.after len))).issued x)
/-- An instruction that sends lanes elsewhere: whenever its issue is `ready` and ok holds, it completes, and the state after differs from the one before in the issuing cohort alone (and R406's turn). Each lane under the guard goes to its target, every other lane of the executing set goes to the next instruction, the other lanes stay (R24, R232); the pair at ds takes the link, and every other register of every lane holds what it held. -/
def Jumps (i : Instr) (g : Guard) (len : Nat) (regs srcs ds : List Nat) (ok : State → Ctx → Prop) (target : State → Ctx → Nat → Pc) : Prop :=
  ∀ s x, s.ready x g regs srcs = true → ok s x → ∃ rs ls,
    exec i s = .next ((s.firstIssued x).setCohort x.core x.slot { x.co with regs := rs, lanes := ls, readyTick := s.cyc, boosted := false }) ∧
    (∀ l, ls.find? l = (x.co.lanes.find? l).map fun y =>
      if l ∈ x.en g then { y with pc := target s x l, met := none } else if l ∈ x.xs then { y with pc := x.after len, met := none } else y) ∧
    ∀ n l, l < 32 → l ∈ x.co.present →
      ({ x.co with regs := rs } : Cohort).reg n l = if n ∈ ds ∧ l ∈ x.en g then half (ds.headD 0) n ((x.after len).setWidth 64) else x.co.reg n l

/-- An instruction that sends memory operations on their way (R45, R143, R229): whenever its issue is `ready`, no watchpoint is armed, and in every lane under the guard the address passes the checks of R393 and the class can count one more, it completes. One operation for each lane, in ascending order, follows those in flight; it is of the lane's strand, at the lane's address under the translation the check found, and want holds of it. Memory and every register of the cohort stay until the operations are performed. -/
def Issues (i : Instr) (g : Guard) (len : Nat) (regs srcs : List Nat) (cls : CClass) (kind : Acc) (size : Nat) (ok : State → Ctx → Nat → Prop)
    (va : Ctx → Nat → Nat) (want : Ctx → Nat → MemOp → Prop) : Prop :=
  ∀ s x, s.ready x g regs srcs = true → s.unwatched x = true →
    (∀ l ∈ x.en g, s.gVerdict x (va x l) size kind = .go ∧ s.countable x cls l = true ∧ ok s x l) →
    ∃ t news, exec i s = .next t ∧ t.ops = s.ops ++ news ∧ t.mem = s.mem ∧ t.cohort? x.core x.slot = some (s.passed x len) ∧
      news.length = (x.en g).length ∧ ∀ l o, (l, o) ∈ (x.en g).zip news →
        o.strand = x.strand l ∧ o.core = x.core ∧ o.launch = x.co.launch ∧ o.pc = x.pc ∧ o.cls = some cls ∧ o.va = va x l ∧ o.size = size ∧
        s.gCheck x.core x.part (va x l) size size kind = .ok o.pa o.leaf ∧ want x l o

/-- d := f a in every lane under the guard. -/
def Maps1 (i : Instr) (g : Guard) (len d a : Nat) (f : Word → Word) : Prop :=
  Computes i g len [d, a] [a] [d] always fun _ x _ l => f (x.co.reg a l)
/-- d := f a b. -/
def Maps2 (i : Instr) (g : Guard) (len d a : Nat) (b : Src) (f : Word → Word → Word) : Prop :=
  Computes i g len (d :: a :: b.regs) (a :: b.regs) [d] always fun _ x _ l => f (x.co.reg a l) (x.co.src b l)
/-- d := f a b c. -/
def Maps3 (i : Instr) (g : Guard) (len d a : Nat) (b : Src) (c : Nat) (f : Word → Word → Word → Word) : Prop :=
  Computes i g len (d :: a :: c :: b.regs) (a :: c :: b.regs) [d] always fun _ x _ l => f (x.co.reg a l) (x.co.src b l) (x.co.reg c l)
/-- The pair d := f of the lane's operands, the low word in d and the high word in d + 1. -/
def MapsPair (i : Instr) (g : Guard) (len d : Nat) (srcs : List Nat) (f : Cohort → Nat → DWord) : Prop :=
  Computes i g len (d :: (d + 1) :: srcs) srcs [d, d + 1] always fun _ x n l => half d n (f x.co l)
/-- A cross-lane instruction: d := f of what the lanes under the guard hold together (R222). -/
def Gathers (i : Instr) (g : Guard) (d : Nat) (srcs : List Nat) (f : Cohort → List Nat → Nat → Word) : Prop :=
  Computes i g 12 (d :: srcs) srcs [d] always fun _ x _ l => f x.co (x.en g) l
/-- The predicate pd := f of the lane's operands. -/
def Sets (i : Instr) (g : Guard) (len pd : Nat) (srcs : List Nat) (f : Cohort → Nat → Bool) : Prop :=
  Decides i g len srcs srcs [pd] fun _ x _ l => f x.co l

end Sys2Proof.Machine
end

