-- ==== Sys2Proof/Certificates/Slice0/Obligations.lean ====
section
/-! DEFINITION. The claims about the machine, each a proposition for the provers. -/
open Sys2Proof Sys2Proof.Machine

/-- R202, R197 to R199, R169: the 32-bit integer and logic instructions in their S-, X- and literal forms write these values, and nothing else changes. -/
def Obligations.IntegerWordResults : Prop :=
  ∀ (g : Guard) (d a c pc : Nat) (b : Src) (u sat : Bool) (imm : Word) (lit : DWord),
    Maps1 (.mov g d a) g 12 d a id ∧
    Computes (.movi g d imm) g 12 [d] [] [d] always (fun _ _ _ _ => imm) ∧
    MapsPair (.moviLit g d lit) g 20 d [] (fun _ _ => lit) ∧
    Maps2 (.iadd g d a b sat u) g 12 d a b (addW sat u) ∧
    Maps2 (.isub g d a b sat u) g 12 d a b (subW sat u) ∧
    Maps2 (.imul g d a b) g 12 d a b (· * ·) ∧
    Maps2 (.imulh g d a b u) g 12 d a b (mulhW u) ∧
    Maps3 (.imad g d a b c) g 12 d a b c (fun x y z => x * y + z) ∧
    Maps2 (.imin g d a b u) g 12 d a b (minW u) ∧
    Maps2 (.imax g d a b u) g 12 d a b (maxW u) ∧
    Maps1 (.iabs g d a sat) g 12 d a (absW sat) ∧
    Maps1 (.ineg g d a sat) g 12 d a (negW sat) ∧
    Maps2 (.and g d a b) g 12 d a b (· &&& ·) ∧
    Maps2 (.or g d a b) g 12 d a b (· ||| ·) ∧
    Maps2 (.xor g d a b) g 12 d a b (· ^^^ ·) ∧
    Maps2 (.andn g d a b) g 12 d a b (fun x y => x &&& ~~~y) ∧
    Maps1 (.not g d a) g 12 d a (~~~ ·) ∧
    Maps2 (.shl g d a b) g 12 d a b shlW ∧
    Maps2 (.shr g d a b) g 12 d a b shrW ∧
    Maps2 (.sar g d a b) g 12 d a b sarW ∧
    Maps1 (.popc g d a) g 12 d a popcW ∧
    Maps1 (.clz g d a) g 12 d a clzW ∧
    Maps1 (.ctz g d a) g 12 d a ctzW ∧
    Maps1 (.brev g d a) g 12 d a brevW ∧
    Maps2 (.bfx g d a b u) g 12 d a b (bfxW u) ∧
    Maps3 (.bfi g d a b c) g 12 d a b c bfiW ∧
    Computes (.sel g d a b pc) g 12 (d :: a :: b.regs) (a :: b.regs) [d] always
      (fun _ x _ l => if x.co.pred pc l then x.co.reg a l else x.co.src b l)

/-- R172, R169: the S-forms compute what the X-forms do, in four bytes, without saturation and rounding to nearest even. -/
def Obligations.ShortFormResults : Prop :=
  ∀ (g : Guard) (d a b : Nat),
    Maps1 (.movS g d a) g 4 d a id ∧
    Maps2 (.iaddS g d a b) g 4 d a (.reg b) (· + ·) ∧
    Maps2 (.isubS g d a b) g 4 d a (.reg b) (· - ·) ∧
    Maps2 (.imulS g d a b) g 4 d a (.reg b) (· * ·) ∧
    Maps2 (.andS g d a b) g 4 d a (.reg b) (· &&& ·) ∧
    Maps2 (.orS g d a b) g 4 d a (.reg b) (· ||| ·) ∧
    Maps2 (.xorS g d a b) g 4 d a (.reg b) (· ^^^ ·) ∧
    Maps2 (.shlS g d a b) g 4 d a (.reg b) shlW ∧
    Maps2 (.shrS g d a b) g 4 d a (.reg b) shrW ∧
    Maps2 (.faddS g d a b) g 4 d a (.reg b) (faddR .rn) ∧
    Maps2 (.fsubS g d a b) g 4 d a (.reg b) (fsubR .rn) ∧
    Maps2 (.fmulS g d a b) g 4 d a (.reg b) (fmulR .rn)

/-- R202: what the integer functions are, on every word: the clamps of .sat, the high word of a product, the smaller and the larger value, the absolute value and the negation, the shifts, the counts of bits and the reversal. -/
def Obligations.IntegerFunctions : Prop :=
  ∀ (a b : Word),
    (addW true false a b).toInt = max (-(2 ^ 31)) (min (2 ^ 31 - 1) (a.toInt + b.toInt)) ∧
    (addW true true a b).toNat = min (2 ^ 32 - 1) (a.toNat + b.toNat) ∧
    (subW true false a b).toInt = max (-(2 ^ 31)) (min (2 ^ 31 - 1) (a.toInt - b.toInt)) ∧
    (subW true true a b).toNat = a.toNat - b.toNat ∧
    (∀ u, addW false u a b = a + b ∧ subW false u a b = a - b) ∧
    (mulhW true a b).toNat = a.toNat * b.toNat / 2 ^ 32 ∧
    (mulhW false a b).toInt = a.toInt * b.toInt / 2 ^ 32 ∧
    (minW false a b).toInt = min a.toInt b.toInt ∧ (maxW false a b).toInt = max a.toInt b.toInt ∧
    (minW true a b).toNat = min a.toNat b.toNat ∧ (maxW true a b).toNat = max a.toNat b.toNat ∧
    (absW false a).toNat = a.toInt.natAbs ∧ (absW true a).toInt = min (2 ^ 31 - 1) a.toInt.natAbs ∧
    negW false a = -a ∧ (negW true a).toInt = min (2 ^ 31 - 1) (-a.toInt) ∧
    (shlW a b).toNat = (if 32 ≤ b.toNat then 0 else a.toNat * 2 ^ b.toNat % 2 ^ 32) ∧
    (shrW a b).toNat = (if 32 ≤ b.toNat then 0 else a.toNat / 2 ^ b.toNat) ∧
    (sarW a b).toInt = a.toInt / 2 ^ min b.toNat 31 ∧
    (popcW a).toNat = (List.range 32).countP (fun i => a.getLsbD i) ∧
    (∀ n < 32, (clzW a).toNat = n ↔ a.getLsbD (31 - n) = true ∧ ∀ i < n, a.getLsbD (31 - i) = false) ∧
    (∀ n < 32, (ctzW a).toNat = n ↔ a.getLsbD n = true ∧ ∀ i < n, a.getLsbD i = false) ∧
    ((clzW a).toNat = 32 ↔ a = 0) ∧ ((ctzW a).toNat = 32 ↔ a = 0) ∧
    ∀ i < 32, (brevW a).getLsbD i = a.getLsbD (31 - i)

/-- R203: BFX and BFI read the position from bits 7 to 0 and the length from bits 15 to 8 of b alone; BFX takes n bits from the position, sign-extended from the last one unless unsigned; BFI replaces n bits at the position by the low bits of c. -/
def Obligations.BitFieldFunctions : Prop :=
  ∀ (a b c : Word),
    let pos := b.toNat % 256
    let len := b.toNat / 256 % 256
    (∀ i < 32, (bfxW true a b).getLsbD i = (decide (i < min len 32) && a.getLsbD (pos + i))) ∧
    (∀ i < 32, (bfxW false a b).getLsbD i =
      (decide (len ≠ 0) && (a.signExtend 512).getLsbD (pos + min i (min len 32 - 1)))) ∧
    ∀ i < 32, (bfiW a b c).getLsbD i = if pos ≤ i ∧ i < pos + min len (32 - pos) then c.getLsbD (i - pos) else a.getLsbD i

/-- R204: the 64-bit and widening instructions write these values into a pair, and nothing else changes. -/
def Obligations.IntegerPairResults : Prop :=
  ∀ (g : Guard) (d a c sh : Nat) (b : Src) (u sg : Bool) (lit : DWord),
    MapsPair (.iadd64 g d a b) g 12 d (a :: (a + 1) :: b.regs64) (fun co l => co.reg64 a l + co.src64 b l) ∧
    MapsPair (.iadd64Lit g d a lit) g 20 d [a, a + 1] (fun co l => co.reg64 a l + lit) ∧
    MapsPair (.isub64 g d a b) g 12 d (a :: (a + 1) :: b.regs64) (fun co l => co.reg64 a l - co.src64 b l) ∧
    MapsPair (.isub64Lit g d a lit) g 20 d [a, a + 1] (fun co l => co.reg64 a l - lit) ∧
    MapsPair (.imul64 g d a b) g 12 d (a :: (a + 1) :: b.regs64) (fun co l => co.reg64 a l * co.src64 b l) ∧
    MapsPair (.imul64Lit g d a lit) g 20 d [a, a + 1] (fun co l => co.reg64 a l * lit) ∧
    MapsPair (.shl64 g d a b) g 12 d (a :: (a + 1) :: b.regs)
      (fun co l => if 64 ≤ (co.src b l).toNat then 0 else co.reg64 a l <<< (co.src b l).toNat) ∧
    MapsPair (.shr64 g d a b sg) g 12 d (a :: (a + 1) :: b.regs) (fun co l =>
      if sg then (co.reg64 a l).sshiftRight (min (co.src b l).toNat 63)
      else if 64 ≤ (co.src b l).toNat then 0 else co.reg64 a l >>> (co.src b l).toNat) ∧
    MapsPair (.lea g d a b u sh) g 12 d (a :: (a + 1) :: b.regs)
      (fun co l => co.reg64 a l + (if u then (co.src b l).setWidth 64 else (co.src b l).signExtend 64) <<< sh) ∧
    MapsPair (.imulw g d a b u) g 12 d (a :: b.regs) (fun co l => BitVec.ofInt 64
      (if u then (co.reg a l).toNat * (co.src b l).toNat else (co.reg a l).toInt * (co.src b l).toInt)) ∧
    MapsPair (.imadw g d a b c u) g 12 d (a :: c :: (c + 1) :: b.regs) (fun co l => BitVec.ofInt 64
      (if u then (co.reg a l).toNat * (co.src b l).toNat else (co.reg a l).toInt * (co.src b l).toInt) + co.reg64 c l)

/-- R205, R206, R208, R59: the compares and the predicate instructions set the predicate they name in the lanes under the guard; p0 stays 1, and everything else stays. -/
def Obligations.PredicateResults : Prop :=
  ∀ (g : Guard) (pd a pa pb rb : Nat) (b : Src) (cc : Cc) (u un v : Bool) (lit : DWord),
    Sets (.icmpS g pd a rb cc u) g 4 pd [a, rb] (fun co l => icmp32 cc u (co.reg a l) (co.reg rb l)) ∧
    Sets (.icmp g pd a b cc u) g 12 pd (a :: b.regs) (fun co l => icmp32 cc u (co.reg a l) (co.src b l)) ∧
    Sets (.icmp64 g pd a b cc u) g 12 pd (a :: (a + 1) :: b.regs64) (fun co l => icmp64 cc u (co.reg64 a l) (co.src64 b l)) ∧
    Sets (.icmp64Lit g pd a cc u lit) g 20 pd [a, a + 1] (fun co l => icmp64 cc u (co.reg64 a l) lit) ∧
    Sets (.fcmp g pd a b cc un) g 12 pd (a :: b.regs) (fun co l => fcmp32 cc un (co.reg a l) (co.src b l)) ∧
    Sets (.pand g pd pa pb) g 12 pd [] (fun co l => co.pred pa l && co.pred pb l) ∧
    Sets (.por g pd pa pb) g 12 pd [] (fun co l => co.pred pa l || co.pred pb l) ∧
    Sets (.pxor g pd pa pb) g 12 pd [] (fun co l => co.pred pa l != co.pred pb l) ∧
    Sets (.pnot g pd pa) g 12 pd [] (fun co l => !co.pred pa l) ∧
    Sets (.pset g pd v) g 12 pd [] (fun _ _ => v) ∧
    Sets (.pmov g (.toPred pd a)) g 12 pd [a] (fun co l => co.reg a l != 0) ∧
    Decides (.pmov g (.unpk a)) g 12 [a] [a] (run 1 15) (fun _ x q l => (x.co.reg a l).getLsbD q) ∧
    Computes (.pmov g (.toReg rb pa)) g 12 [rb] [] [rb] always (fun _ x _ l => if x.co.pred pa l then 1 else 0) ∧
    Computes (.pmov g (.pack rb)) g 12 [rb] [] [rb] always
      (fun _ x _ l => BitVec.ofNat 32 ((List.range 16).foldl (fun n p => n + (x.co.pred p l).toNat * 2 ^ p) 0))

/-- R209, R210, R95: the FP32 instructions write these values; each rounds its exact result once (R97). -/
def Obligations.FloatWordResults : Prop :=
  ∀ (g : Guard) (d a c : Nat) (b : Src) (m : RM),
    Maps2 (.fadd g d a b m) g 12 d a b (fun x y => roundF32 m.mode ((f32 x).add m.mode (f32 y))) ∧
    Maps2 (.fsub g d a b m) g 12 d a b (fun x y => roundF32 m.mode ((f32 x).add m.mode (f32 y).flip)) ∧
    Maps2 (.fmul g d a b m) g 12 d a b (fun x y => roundF32 m.mode ((f32 x).mul (f32 y))) ∧
    Maps3 (.ffma g d a b c m) g 12 d a b c (fun x y z => roundF32 m.mode (((f32 x).mul (f32 y)).add m.mode (f32 z))) ∧
    Maps2 (.fmin g d a b) g 12 d a b fminW ∧
    Maps2 (.fmax g d a b) g 12 d a b fmaxW ∧
    Maps1 (.fabs g d a) g 12 d a (fun x => roundF32 .rn (f32 x).abs) ∧
    Maps1 (.fneg g d a) g 12 d a (fun x => roundF32 .rn (f32 x).flip) ∧
    Maps1 (.fsqrt g d a m) g 12 d a (fun x => sqrtF32 m.mode (f32 x)) ∧
    Maps2 (.fdiv g d a b m) g 12 d a b (fun x y => divF32 m.mode (f32 x) (f32 y)) ∧
    Maps1 (.frint g d a m) g 12 d a (fun x => rintF32 m.mode (f32 x)) ∧
    Maps2 (.fscale g d a b m) g 12 d a b (fun x y => scaleF32 m.mode y.toInt (f32 x)) ∧
    Maps1 (.frcp g d a) g 12 d a frcp ∧ Maps1 (.frsq g d a) g 12 d a frsq ∧ Maps1 (.fexp2 g d a) g 12 d a fexp2 ∧
    Maps1 (.flog2 g d a) g 12 d a flog2F ∧ Maps1 (.fsin g d a) g 12 d a fsin ∧ Maps1 (.fcos g d a) g 12 d a fcos ∧
    Maps1 (.ftanh g d a) g 12 d a ftanh

/-- R211, R212: the half-precision instructions work on the two halves of each register apart, in BF16 or FP16, each half rounded once into its format; the FP64 instructions work on pairs. -/
def Obligations.HalfAndDoubleResults : Prop :=
  ∀ (g : Guard) (d a b' c : Nat) (b : Src) (m : RM) (h : Bool) (lit : DWord),
    let F := if h then fp16 else bf16
    let both := fun (f : FVal → FVal → FVal) (r : Mode) (x y : Word) => BitVec.ofNat 32
      (F.round r false (f (F.decode (x.toNat % 65536)) (F.decode (y.toNat % 65536))) % 65536 +
        65536 * (F.round r false (f (F.decode (x.toNat / 65536)) (F.decode (y.toNat / 65536))) % 65536))
    Maps2 (.hadd2 g d a b m h) g 12 d a b (both (fun x y => x.add m.mode y) m.mode) ∧
    Maps2 (.hmul2 g d a b m h) g 12 d a b (both FVal.mul m.mode) ∧
    Maps2 (.hmin2 g d a b h) g 12 d a b (both FVal.minNum .rn) ∧
    Maps2 (.hmax2 g d a b h) g 12 d a b (both FVal.maxNum .rn) ∧
    Maps3 (.hfma2 g d a b c m h) g 12 d a b c (half3 h m.mode) ∧
    MapsPair (.dadd g d a b' m) g 12 d [a, a + 1, b', b' + 1]
      (fun co l => roundF64 m.mode ((f64 (co.reg64 a l)).add m.mode (f64 (co.reg64 b' l)))) ∧
    MapsPair (.daddLit g d a m lit) g 20 d [a, a + 1] (fun co l => roundF64 m.mode ((f64 (co.reg64 a l)).add m.mode (f64 lit))) ∧
    MapsPair (.dmul g d a b' m) g 12 d [a, a + 1, b', b' + 1]
      (fun co l => roundF64 m.mode ((f64 (co.reg64 a l)).mul (f64 (co.reg64 b' l)))) ∧
    MapsPair (.dmulLit g d a m lit) g 20 d [a, a + 1] (fun co l => roundF64 m.mode ((f64 (co.reg64 a l)).mul (f64 lit))) ∧
    MapsPair (.dfma g d a b' c m) g 12 d [a, a + 1, b', b' + 1, c, c + 1]
      (fun co l => roundF64 m.mode (((f64 (co.reg64 a l)).mul (f64 (co.reg64 b' l))).add m.mode (f64 (co.reg64 c l)))) ∧
    MapsPair (.dfmaLit g d a c m lit) g 20 d [a, a + 1, c, c + 1]
      (fun co l => roundF64 m.mode (((f64 (co.reg64 a l)).mul (f64 lit)).add m.mode (f64 (co.reg64 c l))))

/-- R93 to R95, R209: in FP32 an addition, subtraction, multiplication or fused multiply-add with a NaN gives the canonical NaN; the exact zero sum of opposite signs is −0 under .rd and +0 otherwise; the minimum and the maximum pass over one NaN, give the canonical NaN for two, and put −0 below +0. -/
def Obligations.FloatNanAndZeroRules : Prop :=
  ∀ (m : RM) (a b c : Word),
    ((f32 a).isNan ∨ (f32 b).isNan → faddR m.mode a b = 0x7FC00000 ∧ fsubR m.mode a b = 0x7FC00000 ∧ fmulR m.mode a b = 0x7FC00000 ∧
      ffmaR m.mode a b c = 0x7FC00000 ∧ ffmaR m.mode c a b = 0x7FC00000) ∧
    (¬(f32 a).isNan → a.toNat % 2 ^ 31 < 0x7F800000 → fsubR m.mode a a = if m = .rd then 0x80000000 else 0) ∧
    ((f32 a).isNan → ¬(f32 b).isNan → fminW a b = b ∧ fmaxW a b = b ∧ fminW b a = b ∧ fmaxW b a = b) ∧
    ((f32 a).isNan → (f32 b).isNan → fminW a b = 0x7FC00000 ∧ fmaxW a b = 0x7FC00000) ∧
    fminW 0x80000000 0 = 0x80000000 ∧ fminW 0 0x80000000 = 0x80000000 ∧ fmaxW 0x80000000 0 = 0 ∧ fmaxW 0 0x80000000 = 0

/-- R90: rounding an FP32 value into FP32 gives it back, in every mode, so FABS clears the sign bit and FNEG flips it unless the source is a NaN. -/
def Obligations.FloatRoundingKeepsValues : Prop :=
  ∀ (m : Mode) (a : Word), ¬(f32 a).isNan →
    roundF32 m (f32 a) = a ∧ roundF32 .rn (f32 a).abs = a &&& 0x7FFFFFFF ∧ roundF32 .rn (f32 a).flip = a ^^^ 0x80000000

/-- R210: the values that the special functions state: a NaN gives the canonical NaN; zeros, infinities and negative sources; FEXP2 out of range; FTANH from 10 on; the sine and cosine of large values. The bit patterns are those of R78. -/
def Obligations.SpecialFunctionStatedValues : Prop :=
  ∀ a : Word,
    ((f32 a).isNan → ∀ f ∈ [frcp, frsq, fexp2, flog2F, fsin, fcos, ftanh], f a = 0x7FC00000) ∧
    (a.toNat % 2 ^ 31 = 0 → frcp a = a ||| 0x7F800000 ∧ frsq a = a ||| 0x7F800000 ∧ fexp2 a = 0x3F800000 ∧ flog2F a = 0xFF800000 ∧
      fsin a = a ∧ fcos a = 0x3F800000 ∧ ftanh a = a) ∧
    (a.toNat % 2 ^ 31 = 0x7F800000 → frcp a = a &&& 0x80000000 ∧ fsin a = 0x7FC00000 ∧ fcos a = 0x7FC00000) ∧
    (a = 0x7F800000 → frsq a = 0 ∧ flog2F a = 0x7F800000) ∧
    (0x80000001 ≤ a.toNat → a.toNat ≤ 0xFF800000 → frsq a = 0x7FC00000 ∧ flog2F a = 0x7FC00000) ∧
    (0x43000000 ≤ a.toNat → a.toNat ≤ 0x7F800000 → fexp2 a = 0x7F800000) ∧
    (0xC3160000 ≤ a.toNat → a.toNat ≤ 0xFF800000 → fexp2 a = 0) ∧
    (0x41200000 ≤ a.toNat % 2 ^ 31 → a.toNat % 2 ^ 31 ≤ 0x7F800000 → ftanh a = (a &&& 0x80000000) ||| 0x3F800000) ∧
    (0x4B000000 ≤ a.toNat % 2 ^ 31 → a.toNat % 2 ^ 31 < 0x7F800000 →
      fsin a = a &&& 0x80000000 ∧ (fcos a = 0x3F800000 ∨ fcos a = 0xBF800000))

/-- R213 to R215, R207: the conversions and FCLASS write these values; a 64-bit format is read from and written to a pair. -/
def Obligations.ConversionResults : Prop :=
  ∀ (g : Guard) (d a b c e j : Nat) (m : RMS) (sat : Bool) (src dst fmt : Fmt) (laneIx : Nat),
    let rb := fun (x : Ctx) (n l : Nat) => m.mode ((x.co.reg n l).toNat % 65536)
    let random := fun (n : Nat) => if m = .sr then [n] else []
    let code := fun (x : Ctx) (f : Fmt) (n l : Nat) => if f.is64 then (x.co.reg64 n l).toNat else (x.co.reg n l).toNat % 2 ^ f.width
    Computes (.cvt g d a b m sat src dst) g 12 (fmtRegs dst d ++ (fmtRegs src a ++ random b)) (fmtRegs src a ++ random b) (fmtRegs dst d) always
      (fun _ x n l => let v := convert src dst (rb x b l) sat (code x src a l)
        if dst.is64 then half d n (BitVec.ofNat 64 v) else BitVec.ofNat 32 v) ∧
    Computes (.cvtpk g d a b c e m sat dst j) g 12 (d :: ([a, b, c] ++ random e)) ([a, b, c] ++ random e) [d] always
      (fun _ x _ l => BitVec.ofNat 32 (putElem dst.width (2 * j + 1)
        (putElem dst.width (2 * j) (x.co.reg c l).toNat (convert .f32 dst (rb x e l) sat (x.co.reg a l).toNat))
        (convert .f32 dst (rb x e l) sat (x.co.reg b l).toNat))) ∧
    Maps1 (.cvtex g d a fmt laneIx) g 12 d a (fun v => let el := elemOf fmt.width laneIx v.toNat
      if fmt.isInt then BitVec.ofInt 32 (fmt.intVal el) else roundF32 .rn (fmt.value el)) ∧
    Computes (.fclass g d a fmt laneIx) g 12 (d :: fmtRegs fmt a) (fmtRegs fmt a) [d] always
      (fun _ x _ l => BitVec.ofNat 32 (classify fmt
        (if fmt.is64 then (x.co.reg64 a l).toNat else elemOf fmt.width laneIx (x.co.reg a l).toNat)))

/-- R98, R99, R216 to R219: quantisation writes the packed codes and the scale byte, dequantisation the values of the elements, and the dot products their sums. -/
def Obligations.BlockResults : Prop :=
  ∀ (g : Guard) (d e a b' c : Nat) (b : Src) (m : RMS) (sat ua ub : Bool) (el ea eb : Elem) (bsz : Bsz) (scf : Scf),
    let n := bsz.count
    let block := fun (x : Ctx) (r : Nat) (f : Elem) (l i : Nat) => blockElem f.width ((run r (n * f.width / 32)).map fun q => x.co.reg q l) i
    let random := if m = .sr then [b'] else []
    let quant := fun (x : Ctx) (l : Nat) => quantBlock el scf (m.mode ((x.co.reg b' l).toNat % 65536)) sat ((run a n).map fun r => f32 (x.co.reg r l))
    Computes (.qblk g d e a b' m sat el bsz scf) g 12
      (run d (n * el.width / 32) ++ e :: (run a n ++ random)) (run a n ++ random) (run d (n * el.width / 32) ++ [e]) always
      (fun _ x r l => if r = e then BitVec.ofNat 32 (quant x l).1 else (packElems el.width (quant x l).2).getD (r - d) 0) ∧
    Computes (.dqblk g d a e el bsz scf) g 12 (run d n ++ (run a (n * el.width / 32) ++ [e])) (run a (n * el.width / 32) ++ [e]) (run d n) always
      (fun _ x r l => roundF32 .rn ((el.value (block x a el l (r - d))).mul (scf.value ((x.co.reg e l).toNat % 256)))) ∧
    Maps3 (.vdot4 g d a b c ua ub) g 12 d a b c (fun x y z => BitVec.ofInt 32 (z.toInt + ((List.range 4).map fun i =>
      (if ua then ((x.toNat / 256 ^ i % 256 : Nat) : Int) else (BitVec.ofNat 8 (x.toNat / 256 ^ i)).toInt) *
      (if ub then ((y.toNat / 256 ^ i % 256 : Nat) : Int) else (BitVec.ofNat 8 (y.toNat / 256 ^ i)).toInt)).sum)) ∧
    Computes (.vdotb g d a b' c e ea eb bsz scf) g 12
      (d :: (run a (n * ea.width / 32) ++ run b' (n * eb.width / 32) ++ [c, e])) (run a (n * ea.width / 32) ++ run b' (n * eb.width / 32) ++ [c, e]) [d] always
      (fun _ x _ l => vdotb (f32 (x.co.reg c l)) ((List.range n).map fun i => ea.value (block x a ea l i)) ((List.range n).map fun i => eb.value (block x b' eb l i))
        (scf.value ((x.co.reg e l).toNat % 256)) (scf.value ((x.co.reg e l).toNat / 256 % 256)))

/-- R220 to R225: the cross-lane instructions combine what the lanes under the guard hold. Bit planes; VOTE, ELECT and MATCH; a lane shuffled from outside the contributors keeps its own value; reductions and scans run over the fixed tree of 32 places, a lane that does not contribute supplying the identity (R100, R101). -/
def Obligations.CrossLaneResults : Prop :=
  ∀ (g : Guard) (d a pa k : Nat) (b : Src) (mid w excl : Bool) (op : RedOp),
    let from_ := fun (co : Cohort) (en : List Nat) (l n : Nat) => if n ∈ en then co.reg a n else co.reg a l
    let vals := fun (co : Cohort) (en : List Nat) => (List.range 32).map fun l => if l ∈ en then co.reg a l else op.unit
    Gathers (.bppack g d a) g d [a] (fun co en l => BitVec.ofNat 32 (((List.range 32).map fun i =>
      if (32 * (l % 4) + i) / 4 ∈ en ∧ (co.reg a ((32 * (l % 4) + i) / 4)).getLsbD (8 * ((32 * (l % 4) + i) % 4) + (7 - l / 4)) = true then 2 ^ i else 0).sum)) ∧
    Gathers (.bpunpk g d a k mid) g d [a] (fun co en l => BitVec.ofNat 32 (((List.range 4).map fun i =>
      wrapTo 8 (planeVal k mid (((List.range k).map fun j =>
        if 4 * j + (4 * l + i) / 32 ∈ en ∧ (co.reg a (4 * j + (4 * l + i) / 32)).getLsbD ((4 * l + i) % 32) = true then 2 ^ (7 - j) else 0).sum)) * 256 ^ i).sum)) ∧
    Decides (.vote g .any d pa) g 12 [] [] [d] (fun _ x _ _ => (x.en g).any fun l => x.co.pred pa l) ∧
    Decides (.vote g .all d pa) g 12 [] [] [d] (fun _ x _ _ => (x.en g).all fun l => x.co.pred pa l) ∧
    Gathers (.vote g .ballot d pa) g d [] (fun co en _ => BitVec.ofNat 32 (maskOf (en.filter fun l => co.pred pa l))) ∧
    Decides (.elect g d) g 12 [] [] [d] (fun _ x _ l => (x.en g).headD 0 == l) ∧
    Gathers (.matchAny g d a w) g d (if w then [a, a + 1] else [a]) (fun co en l =>
      BitVec.ofNat 32 (maskOf (en.filter fun n => if w then co.reg64 a n == co.reg64 a l else co.reg a n == co.reg a l))) ∧
    Gathers (.shfl g d a b .idx) g d (a :: b.regs) (fun co en l => from_ co en l ((co.src b l).toNat % 32)) ∧
    Gathers (.shfl g d a b .up) g d (a :: b.regs) (fun co en l => if (co.src b l).toNat ≤ l then from_ co en l (l - (co.src b l).toNat) else co.reg a l) ∧
    Gathers (.shfl g d a b .down) g d (a :: b.regs) (fun co en l => from_ co en l (l + (co.src b l).toNat)) ∧
    Gathers (.shfl g d a b .xor) g d (a :: b.regs) (fun co en l => from_ co en l (l ^^^ ((co.src b l).toNat % 32))) ∧
    Gathers (.red g d a op) g d [a] (fun co en _ => treeReduce op.node (vals co en)) ∧
    Gathers (.scan g d a op excl) g d [a] (fun co en l =>
      let y := treeScan op.node (vals co en)
      if !excl then y.getD l 0 else if l = 0 then op.unit else y.getD (l - 1) 0)

/-- R67, R71, R60, R269, R277: SHP gives the tag code of a register, 1 for a stale one; UNI the lowest contributing lane's value; REGSET fills n registers; MOVS reads a special register; CSRR a CSR, from a privileged queue; SPSTAT the state of a granule within the window, where nothing is in flight that the read is ordered after (R153, R268). -/
def Obligations.RegisterStateResults : Prop :=
  ∀ (g : Guard) (d a n csr : Nat) (b : Src) (r : SReg) (buf : Buf),
    Computes (.shp g d a) g 12 [d, a] [] [d] always (fun _ x _ _ => (x.co.regs.find? a).elim 1 fun q => BitVec.ofNat 32 q.tag) ∧
    Computes (.uni g d a) g 12 [d, a] [a] [d] always (fun _ x _ _ => x.co.reg a ((x.en g).headD 0)) ∧
    Computes (.regset g d n b) g 12 (run d n ++ b.regs) b.regs (run d n) always (fun _ x _ l => x.co.src b l) ∧
    (let one := fun (s : State) (x : Ctx) => r = .trapimg → ∀ l ∈ x.en g, ∀ m ∈ x.en g, s.sreg x l r = s.sreg x m r
     let value := fun (s : State) (x : Ctx) (n l : Nat) => if r.wide then half d n (BitVec.ofNat 64 (s.sreg x l r)) else BitVec.ofNat 32 (s.sreg x l r)
     let ds := if r.wide then [d, d + 1] else [d]
     Computes (.movs g d r) g 12 ds [] ds one value ∧ Computes (.movsS g d r) g 4 ds [] ds one value) ∧
    (csrAssigned csr → Computes (.csrr g d csr) g 12 [d, d + 1] [] [d, d + 1]
      (fun s x => (s.launches.find? x.co.launch).any (fun la => la.priv) = true)
      (fun s _ n _ => half d n (if csr = 0x0400 then s.twininj else 0))) ∧
    Computes (.spstat g d a buf) g 12 [d, a] [a] [d]
      (fun s x => ∀ l ∈ x.en g, s.spAfter (x.strand l) false false = [] ∧ (x.co.reg a l).toNat < (s.groves.find? (s.groveOf x l)).elim 0 (fun q => (q.win buf).2))
      (fun s x _ l => BitVec.ofNat 32 (s.spStat x.core (s.groveOf x l) buf (x.co.reg a l).toNat))

/-- R24, R232, R233: the branches, calls and returns. The target of a direct one is the PC plus four times its signed word offset; an indirect target is the pair of each lane, 48 bits and a multiple of 4; a call leaves the address after it in the link pair. -/
def Obligations.ControlTransfers : Prop :=
  ∀ (g : Guard) (d a : Nat) (imm : Word) (off : BitVec 18),
    let good := each g fun _ x l => (x.co.reg64 a l).toNat < 2 ^ 48 ∧ (x.co.reg64 a l).toNat % 4 = 0
    let pair := fun (_ : State) (x : Ctx) (l : Nat) => (x.co.reg64 a l).setWidth 48
    Jumps (.bra g imm) g 12 [] [] [] always (fun _ x _ => x.pc + BitVec.ofInt 48 (4 * imm.toInt)) ∧
    Jumps (.braS g off) g 4 [] [] [] always (fun _ x _ => x.pc + BitVec.ofInt 48 (4 * off.toInt)) ∧
    Jumps (.brx g a) g 12 [a, a + 1] [a, a + 1] [] good pair ∧
    Jumps (.call g d imm) g 12 [d, d + 1] [] [d, d + 1] always (fun _ x _ => x.pc + BitVec.ofInt 48 (4 * imm.toInt)) ∧
    Jumps (.callx g d a) g 12 [d, d + 1, a, a + 1] [a, a + 1] [d, d + 1] good pair ∧
    Jumps (.ret g a) g 12 [a, a + 1] [a, a + 1] [] good pair

/-- R202, R235, R263, R273: NOP, PREF, BRK where breakpoints are off and CKPT outside a twin grove change nothing but the lanes' PCs. -/
def Obligations.InstructionsWithoutEffect : Prop :=
  ∀ (g : Guard) (a n : Nat) (imm : Word) (l2 : Bool),
    let nothing := fun (s : State) (_ : Ctx) (_ : List Nat) => s
    Acts (.nop g) g 12 [] [] always nothing ∧ Acts (.nopS g) g 4 [] [] always nothing ∧
    Acts (.pref g a imm l2) g 12 [a, a + 1] [] always nothing ∧
    Acts (.brk g n) g 12 [] [] (fun s x => (s.launches.find? x.co.launch).any (fun la => bitN la.pkt.flags 5) = false ∧ fld (s.part x.part).dbgctl 0 0 = 0) nothing ∧
    Acts (.ckpt g) g 12 [] [] (each g fun s x l => s.sideOf (s.groveOf x l) = none) nothing

/-- R21, R234, R235, R272, R274, R278, R384: EXIT ends the strands of its lanes; TRAP stops the cohort for the software trap 0x5001; BRK where breakpoints are on and HALT stop it for the debugger; TRET, in a trap handler, ends its lanes' strands and restores the image. -/
def Obligations.StrandEndsAndStops : Prop :=
  ∀ (g : Guard) (n : Nat),
    let leave := fun (s : State) (x : Ctx) (ls : List Nat) => ls.foldl (fun s l => s.exitLane x.core x.slot l) s
    let flt := fun (code d0 : Nat) => ({ code := code, akind := 0, addr := 0, gen := 0, d0 := d0, d1 := 0 } : Flt)
    let held := fun (s : State) (x : Ctx) => (s.launches.find? x.co.launch).any fun la => bitN la.pkt.flags 5
    Acts (.exit g) g 12 [] [] always (fun s x ls => (leave s x ls).closeFrames x.co.launch) ∧
    Acts (.exitS g) g 4 [] [] always (fun s x ls => (leave s x ls).closeFrames x.co.launch) ∧
    Acts (.trap g n) g 12 [] [] always (fun s x ls => s.trap x.core x.slot x.pc (ls.map fun l => (l, flt 0x5001 n)) 0) ∧
    Acts (.brk g n) g 12 [] [] (fun s x => held s x = true ∨ fld (s.part x.part).dbgctl 0 0 = 1)
      (fun s x ls => s.debugHalt x.core x.slot x.pc ls (flt 0x5003 n)) ∧
    Acts (.halt g) g 12 [] [] (fun s x => held s x = true ∨ (s.launches.find? x.co.launch).any (fun la => la.priv) = true)
      (fun s x ls => s.debugHalt x.core x.slot x.pc ls (flt 0x5006 0)) ∧
    Acts (.tret g) g 12 [] [] (fun _ x => x.co.kind = .trap)
      (fun s x ls => ((leave s x ls).trapReturn x.co.launch (x.strand (ls.headD 0)) (s.returnWaits x.co.launch (x.strand (ls.headD 0)))).closeFrames x.co.launch)

/-- R237 to R240, R248, R172: a wait whose condition holds in every lane under the guard changes nothing and goes on: tags set under the mask, a tile's version reached, a counter low enough, a barrier's phase completed. -/
def Obligations.SatisfiedWaits : Prop :=
  ∀ (g : Guard) (all : Bool) (a b : Src) (ra rb n : Nat) (imm : Word) (mask : BitVec 12) (cls : CClass),
    let nothing := fun (s : State) (_ : Ctx) (_ : List Nat) => s
    let strand := fun (s : State) (x : Ctx) (l : Nat) => s.strands.find? (x.strand l)
    let tagged := fun (m : DWord) (s : State) (x : Ctx) (l : Nat) => ∃ t q, strand s x l = some t ∧ s.groves.find? t.grove = some q ∧
      (if all then q.tags &&& m = m else q.tags &&& m ≠ 0 ∨ m = 0)
    let counted := fun (s : State) (x : Ctx) (l : Nat) => ∃ t, strand s x l = some t ∧ (t.out.countP fun o => o.cls == cls) ≤ n
    Acts (.waitt g all a) g 12 a.regs64 a.regs64 (each g fun s x l => tagged (x.co.mask a l) s x l) nothing ∧
    Acts (.waittS g all mask) g 4 [] [] (each g (tagged (mask.setWidth 64))) nothing ∧
    Acts (.waitc g cls n) g 12 [] [] (each g counted) nothing ∧
    Acts (.waitcS g cls n) g 4 [] [] (each g counted) nothing ∧
    Acts (.waitv g ra b) g 12 (ra :: b.regs) (ra :: b.regs) (each g fun s x l => ∃ t tile q, strand s x l = some t ∧ s.groves.find? t.grove = some q ∧ q.placed = true ∧
      (s.core x.core).tile t.grove ((x.co.reg ra l).toNat % 64) = .ok tile ∧
      (tile.version + 65536 - (x.co.src b l).toNat % 65536) % 65536 < 0x8000) nothing ∧
    Acts (.barwait g ra imm rb) g 12 [ra, rb] [ra, rb] (each g fun s x l => ∃ t q, strand s x l = some t ∧ s.groves.find? t.grove = some q ∧ q.placed = true ∧
      s.spAfter (x.strand l) false false = [] ∧ s.spCheck x.core t.grove .a (x.co.sOff ra imm l) 16 16 true = none ∧
      barBad (s.spObj x.core t.grove (x.co.sOff ra imm l)) = false ∧
      barPhase (s.spObj x.core t.grove (x.co.sOff ra imm l)) ≠ (x.co.reg rb l).getLsbD 0) nothing

/-- R236, R237 to R240, R248, R252, R253, R463: YIELD parks; so does a wait whose condition is false, an FWAIT or PARKW on a global cell in space 0 or 1, an FWAIT on an empty cell in a scratchpad, a wait on a scratchpad object whose read is still ordered after something in flight (R153), and CKPT in a twin grove. Each record awaits the event that its instruction names. -/
def Obligations.ParkingInstructions : Prop :=
  ∀ (g : Guard) (all w : Bool) (a b : Src) (ra rb rc d n : Nat) (imm : Word) (mask : BitVec 12) (cls : CClass) (cc : Cc) (ord : Ord) (sc : Scope),
    let strand := fun (s : State) (x : Ctx) (l : Nat) => s.strands.find? (x.strand l)
    let untagged := fun (m : DWord) (s : State) (x : Ctx) (l : Nat) => ∃ t q, strand s x l = some t ∧ s.groves.find? t.grove = some q ∧
      ¬(if all then q.tags &&& m = m else q.tags &&& m ≠ 0 ∨ m = 0)
    let counted := fun (s : State) (x : Ctx) (l : Nat) => ∃ t, strand s x l = some t ∧ n < t.out.countP fun o => o.cls == cls
    let watched := fun (len : Nat) (s : State) (x : Ctx) (l : Nat) => canonical (x.co.gAddr ra imm l) = true ∧ x.co.gAddr ra imm l % len = 0 ∧
      ∃ e leaf, s.tlbFind x.core x.part (x.co.gAddr ra imm l) = some e ∧ fld e.leaf 51 49 < 2 ∧
        ∃ pa, s.leafCheck x.part x.part (x.co.gAddr ra imm l) len .read e = .ok pa leaf
    let at_ := fun (s : State) (x : Ctx) (l : Nat) => s.ownPa (((s.tlbFind x.core x.part (x.co.gAddr ra imm l)).elim 0 fun e => e.pa (x.co.gAddr ra imm l)))
    let slot := fun (s : State) (x : Ctx) (l : Nat) => (s.tlbFind x.core x.part (x.co.gAddr ra imm l)).elim 0 fun e => fld e.leaf 63 58
    let behind := fun (s : State) (x : Ctx) (l : Nat) => s.spAfter (x.strand l) false false ≠ []
    Parks (.yield g) g 12 [] [] always (fun _ _ _ => none) ∧
    Parks (.waitt g all a) g 12 a.regs64 a.regs64 (each g fun s x l => untagged (x.co.mask a l) s x l) (fun _ x l => some (.tags all (x.co.mask a l))) ∧
    Parks (.waittS g all mask) g 4 [] [] (each g (untagged (mask.setWidth 64))) (fun _ _ _ => some (.tags all (mask.setWidth 64))) ∧
    Parks (.waitc g cls n) g 12 [] [] (each g counted) (fun _ _ _ => some (.counter cls n)) ∧
    Parks (.waitcS g cls n) g 4 [] [] (each g counted) (fun _ _ _ => some (.counter cls n)) ∧
    Parks (.waitv g ra b) g 12 (ra :: b.regs) (ra :: b.regs) (each g fun s x l => ∃ t tile, strand s x l = some t ∧
        (s.core x.core).tile t.grove ((x.co.reg ra l).toNat % 64) = .ok tile ∧
        0x8000 ≤ (tile.version + 65536 - (x.co.src b l).toNat % 65536) % 65536)
      (fun _ x l => some (.version ((x.co.reg ra l).toNat % 64) ((x.co.src b l).toNat % 65536))) ∧
    Parks (.barwait g ra imm rb) g 12 [ra, rb] [ra, rb] (each g fun s x l => behind s x l ∨ ∃ t q, strand s x l = some t ∧ s.groves.find? t.grove = some q ∧ q.placed = true ∧
        s.spCheck x.core t.grove .a (x.co.sOff ra imm l) 16 16 true = none ∧
        barBad (s.spObj x.core t.grove (x.co.sOff ra imm l)) = false ∧
        barPhase (s.spObj x.core t.grove (x.co.sOff ra imm l)) = (x.co.reg rb l).getLsbD 0)
      (fun _ x l => some (.barrier (x.co.sOff ra imm l) ((x.co.reg rb l).getLsbD 0))) ∧
    Parks (.fwait g d ra imm true sc) g 12 [d, d + 1, ra] [ra] (each g fun s x l => behind s x l ∨ ∃ t q, strand s x l = some t ∧ s.groves.find? t.grove = some q ∧ q.placed = true ∧
        s.spCheck x.core t.grove .a (x.co.sOff ra imm l) 16 16 true = none ∧
        futBad (s.spObj x.core t.grove (x.co.sOff ra imm l)) = false ∧ s.spObj x.core t.grove (x.co.sOff ra imm l) % 2 = 0)
      (fun _ x l => some (.futA (x.co.sOff ra imm l) d)) ∧
    Parks (.fwait g d ra imm false sc) g 12 [d, d + 1, ra, ra + 1] [ra, ra + 1] (fun s x => s.unwatched x = true ∧ each g (watched 16) s x)
      (fun s x l => some (.futG (x.co.gAddr ra imm l) (at_ s x l) (slot s x l) d sc)) ∧
    Parks (.parkw g ra imm rb rc cc w ord sc) g 12 ([ra, ra + 1] ++ (if w then [rb, rb + 1, rc, rc + 1] else [rb, rc]))
      ([ra, ra + 1] ++ (if w then [rb, rb + 1, rc, rc + 1] else [rb, rc])) (fun s x => s.unwatched x = true ∧ each g (watched (if w then 8 else 4)) s x)
      (fun s x l => some (.watch (x.co.gAddr ra imm l) (at_ s x l) (slot s x l)
        (if w then x.co.reg64 rb l else (x.co.reg rb l).setWidth 64) (if w then x.co.reg64 rc l else (x.co.reg rc l).setWidth 64) cc w ord sc)) ∧
    Parks (.ckpt g) g 12 [] [] (each g fun s x l => ∃ lead tr pair, s.sideOf (s.groveOf x l) = some (lead, tr) ∧ s.twins.find? lead = some pair)
      (fun s x l => (s.sideOf (s.groveOf x l)).bind fun q => (s.twins.find? q.1).map fun pair => .ckpt (pair.ckpt + 1))

/-- R254, R255, R258 to R260, R250, R45, R143: loads, stores, atomics, and the global forms of FFILL and FRESET send one operation for each lane under the guard; it carries the destination, the operands, the ordering kind and the scope that the instruction names, and nothing of memory or of the registers changes before it is performed. -/
def Obligations.GlobalMemoryOperations : Prop :=
  ∀ (g : Guard) (d a b c off : Nat) (imm : Word) (size : Size) (sgn w rt : Bool) (ord : Ord) (sc : Scope) (hint : Hint) (op : AtomOp),
    let at_ := fun (x : Ctx) (l : Nat) => (x.co.reg64 a l + imm.signExtend 64).toNat
    let short := fun (x : Ctx) (l : Nat) => (x.co.reg64 a l + (BitVec.ofNat 32 (4 * off)).signExtend 64).toNat
    let any := fun (_ : State) (_ : Ctx) (_ : Nat) => True
    let first := fun (od : Ord) (n : Nat) (s : State) (x : Ctx) (l : Nat) => s.atomicCheck x l od.isRel (at_ x l) n = .go
    let load := fun (n : Nat) (sg : Bool) (od : Ord) (scp : Scope) (past : Bool) (_ : Ctx) (_ : Nat) (o : MemOp) =>
      o.kind = .load ∧ o.dst = d ∧ o.ndst = n ∧ o.sgn = sg ∧ o.ord = od ∧ o.sc = scp ∧ o.nl1 = past ∧ o.uni = false ∧ o.sharers = []
    let store := fun (n : Nat) (od : Ord) (scp : Scope) (x : Ctx) (l : Nat) (o : MemOp) =>
      o.kind = .store ∧ o.data = x.co.dataBytes d n l ∧ o.ord = od ∧ o.sc = scp
    let update := fun (k : OpKind) (nd : Nat) (data cmp : Ctx → Nat → List Byte) (x : Ctx) (l : Nat) (o : MemOp) =>
      o.kind = k ∧ o.dst = (if nd = 0 then 0 else d) ∧ o.ndst = nd ∧ o.data = data x l ∧ o.cmp = cmp x l ∧ o.ord = ord ∧ o.sc = sc
    let words := fun (r : Nat) => if w then [r, r + 1] else [r]
    let len := if w then 8 else 4
    let val := fun (r : Nat) (x : Ctx) (l : Nat) => x.co.dataBytes r len l
    let empty := fun (_ : Ctx) (_ : Nat) => ([] : List Byte)
    let n := if w then 2 else 1
    Issues (.ld g d a imm size sgn ord sc hint) g 12 (run d size.regs ++ [a, a + 1]) [a, a + 1] .ld .read size.bytes any at_
      (load size.regs sgn ord sc (hint == .nl1)) ∧
    Issues (.ldS g d a off) g 4 [d, a, a + 1] [a, a + 1] .ld .read 4 any short (load 1 false .plain .core false) ∧
    Issues (.st g d a imm size ord sc hint) g 12 (run d size.regs ++ [a, a + 1]) (run d size.regs ++ [a, a + 1]) .st .write size.bytes
      (fun s x l => s.slackCheck x (x.en g) l size.bytes = .go) at_ (store size.bytes ord sc) ∧
    Issues (.stS g d a off) g 4 [d, a, a + 1] [d, a, a + 1] .st .write 4
      (fun s x l => s.slackCheck x (x.en g) l 4 = .go) short (store 4 .plain .core) ∧
    Issues (.atom g d a imm b op w rt ord sc) g 12 (run d n ++ [a, a + 1] ++ words b) ([a, a + 1] ++ words b) .ld .atomic len (first ord len) at_
      (update (.atomic op rt) n (val b) empty) ∧
    Issues (.atomcas g d a imm b c w rt ord sc) g 12 (run d n ++ [a, a + 1] ++ (words b ++ words c)) ([a, a + 1] ++ (words b ++ words c)) .ld .atomic len (first ord len) at_
      (update (.cas rt) n (val c) (val b)) ∧
    Issues (.atomn g a imm b op w rt ord sc) g 12 ([a, a + 1] ++ words b) ([a, a + 1] ++ words b) .st .atomic len (first ord len) at_
      (update (.atomic op rt) 0 (val b) empty) ∧
    Issues (.ffill g d a imm b false sc) g 12 [d, a, a + 1, b, b + 1] [a, a + 1, b, b + 1] .ld .future 16 (first .rel 16) at_
      (fun x l o => o.kind = .ffill ∧ o.dst = d ∧ o.ndst = 1 ∧ o.data = leBytes 8 (x.co.reg64 b l).toNat ∧ o.ord = .rel ∧ o.sc = sc) ∧
    Issues (.freset g a imm false sc) g 12 [a, a + 1] [a, a + 1] .st .future 16 (first .rel 16) at_
      (fun _ _ o => o.kind = .freset ∧ o.data = leBytes 16 0 ∧ o.ord = .rel ∧ o.sc = sc)

/-- R256, R257: LDU and LDC make one read for all the lanes under the guard, at the address of the lowest one, and at word 2 of the argument block; every lane takes its value, and the register becomes uniform. -/
def Obligations.UniformLoads : Prop :=
  ∀ (g : Guard) (d a : Nat) (imm : Word) (size : Size) (sgn : Bool) (ord : Ord) (sc : Scope) (s : State) (x : Ctx) (l : Nat) (rest : List Nat),
    x.en g = l :: rest → s.unwatched x = true → (∀ m ∈ x.en g, s.countable x .ld m = true) →
    let one := fun (i : Instr) (va : Nat) (sg : Bool) (od : Ord) (scp : Scope) => s.gVerdict x va size.bytes .read = .go →
      ∃ t o, exec i s = .next t ∧ t.ops = s.ops ++ [o] ∧ t.mem = s.mem ∧ t.cohort? x.core x.slot = some (s.passed x 12) ∧
        o.kind = .load ∧ o.cls = some .ld ∧ o.strand = x.strand l ∧ o.sharers = rest.map x.strand ∧ o.uni = true ∧ o.va = va ∧ o.size = size.bytes ∧
        s.gCheck x.core x.part va size.bytes size.bytes .read = .ok o.pa o.leaf ∧ o.dst = d ∧ o.ndst = size.regs ∧ o.sgn = sg ∧ o.ord = od ∧ o.sc = scp
    (s.ready x g (run d size.regs ++ [a, a + 1]) [a, a + 1] = true →
      one (.ldu g d a imm size sgn ord sc) (x.co.reg64 a l + imm.signExtend 64).toNat sgn ord sc) ∧
    (s.ready x g (run d size.regs) [] = true → ∀ la, s.launches.find? x.co.launch = some la → la.pkt.argVa ≠ 0 →
      one (.ldc g d imm size) ((la.pkt.argVa + imm.toNat) % 2 ^ 64) false .plain .core)

/-- R143 cases 6 to 8, R164, R262, R140: FENCE completes at once. One that releases makes every later store of the strand wait for what the strand has in flight, at .sys in CXL mode through a place in the order that also waits for the open accesses of the host's coherence; one that acquires and finds such operations adds a place in the order that follows them and that every later access of the strand follows; one of a scope wider than the core empties the core's L1 data cache. -/
def Obligations.FenceOrders : Prop :=
  ∀ (g : Guard) (kind : FenceKind) (sc : Scope),
    Acts (.fence g kind sc) g 12 [] [] always (fun s x ls => (ls.foldl (fun s l => s.fenceOne x kind sc l) s).acquire x.core sc) ∧
    (∀ (s : State) (x : Ctx) (l : Nat), (s.strands.find? (x.strand l)).isSome = true →
      ∃ y, (s.fenceOne x kind sc l).strands.find? (x.strand l) = some y ∧ ∀ o ∈ s.ops, o.of (x.strand l) = true → o.cxlOpen = false →
        (kind ≠ .acq → if sc = .sys ∧ s.host.cxl = true then
            ∃ f ∈ (s.fenceOne x kind sc l).ops, f.kind = .fence ∧ f.ord = .rel ∧ f.sc = .sys ∧ f.strand = x.strand l ∧ o.id ∈ f.after ∧ f.id ∈ y.befStore
          else o.id ∈ y.befStore) ∧
        (kind = .sc ∨ (kind ≠ .rel ∧ o.reads = true) →
          ∃ f ∈ (s.fenceOne x kind sc l).ops, f.kind = .fence ∧ f.strand = x.strand l ∧ o.id ∈ f.after ∧ f.id ∈ y.befAll)) ∧
    ∀ (s : State) (c : Nat), sc ≠ .core → ((s.acquire c sc).core c).l1d = []

/-- R227, R264, R265, R127: the scratchpad loads give each lane under the guard the bytes at its offset, where the checks of R393 pass and nothing is in flight that the reads are ordered after (R153): 1 or 2 bytes zero- or sign-extended, 4 as they are, 8 and 16 as words in ascending registers. -/
def Obligations.ScratchpadLoads : Prop :=
  (∀ (g : Guard) (d a off : Nat) (imm : Word) (size : Size) (sgn : Bool),
    let readable := fun (buf : Buf) (o : Word) (n : Nat) => each g fun s x l =>
      s.spAfter (x.strand l) false false = [] ∧ s.spCheck x.core (s.groveOf x l) buf (x.co.reg a l + o).toNat n n true = none
    let value := fun (buf : Buf) (o : Word) (n : Nat) (sg : Bool) (s : State) (x : Ctx) (r l : Nat) =>
      (loadWords (s.spRead x.core (s.groveOf x l) buf (x.co.reg a l + o).toNat n) sg).getD (r - d) 0
    Computes (.wld g d a imm size sgn) g 12 (run d size.regs ++ [a]) [a] (run d size.regs) (readable .w imm size.bytes) (value .w imm size.bytes sgn) ∧
    Computes (.ald g d a imm size sgn) g 12 (run d size.regs ++ [a]) [a] (run d size.regs) (readable .a imm size.bytes) (value .a imm size.bytes sgn) ∧
    Computes (.cld g d a imm size sgn) g 12 (run d size.regs ++ [a]) [a] (run d size.regs) (readable .c imm size.bytes) (value .c imm size.bytes sgn) ∧
    Computes (.aldS g d a off) g 4 [d, a] [a] [d] (readable .a (BitVec.ofNat 32 (4 * off)) 4) (value .a (BitVec.ofNat 32 (4 * off)) 4 false)) ∧
  ∀ (bs : List Byte),
    (bs.length = 1 ∨ bs.length = 2 ∨ bs.length = 4 →
      ((loadWords bs false).getD 0 0).toNat = leNat bs ∧
      ((loadWords bs true).getD 0 0).toInt = if leNat bs < 2 ^ (8 * bs.length - 1) then (leNat bs : Int) else leNat bs - 2 ^ (8 * bs.length)) ∧
    (bs.length = 8 ∨ bs.length = 16 → ∀ sg, ∀ i < bs.length / 4, ((loadWords bs sg).getD i 0).toNat = leNat ((bs.drop (4 * i)).take 4))

/-- R264, R265, R229, R237: the scratchpad stores write the low bytes of their register, pair or quad at each lane's offset, lane by lane in ascending order, where nothing is in flight that they are ordered after; else each waits in the memory pipeline, in that order (R153); a write to the A-buffer lets records that await a future there look again. -/
def Obligations.ScratchpadStores : Prop :=
  ∀ (g : Guard) (d a off : Nat) (imm : Word) (size : Size),
    let writable := fun (buf : Buf) (o : Word) (n : Nat) => each g fun s x l => s.spCheck x.core (s.groveOf x l) buf (x.co.reg a l + o).toNat n n false = none
    let put := fun (buf : Buf) (o : Word) (n : Nat) (s : State) (x : Ctx) (ls : List Nat) => ls.foldl (fun s l =>
      let t := s.spWrite x.core (s.groveOf x l) buf (x.co.reg a l + o).toNat (x.co.dataBytes d n l)
      if buf = .a then t.fireGran x.core (s.groveOf x l) (x.co.reg a l + o).toNat n else t) s
    let hold := fun (buf : Buf) (o : Word) (n : Nat) (s : State) (x : Ctx) (ls : List Nat) => ls.foldl (fun s l =>
      s.holdSp x l .store buf (x.co.reg a l + o).toNat n (x.co.dataBytes d n l) 0 0 false false) s
    let both := fun (i : Instr) (len : Nat) (rs : List Nat) (buf : Buf) (o : Word) (n : Nat) =>
      Acts i g len rs rs (fun s x => writable buf o n s x ∧ s.spNow x (x.en g) false true = true) (put buf o n) ∧
      Acts i g len rs rs (fun s x => writable buf o n s x ∧ s.spNow x (x.en g) false true = false) (hold buf o n)
    let rs := run d size.regs ++ [a]
    both (.wst g d a imm size) 12 rs .w imm size.bytes ∧
    both (.ast g d a imm size) 12 rs .a imm size.bytes ∧
    both (.cst g d a imm size) 12 rs .c imm size.bytes ∧
    both (.astS g d a off) 4 [d, a] .a (BitVec.ofNat 32 (4 * off)) 4

/-- R122, R127, R128: what a scratchpad write leaves. Each granule it touches takes the generation of the allocation it lies in and the tick; its other bytes stay if they were readable and become zero if not. Every other granule, core and buffer, and all else of the machine, stays. -/
def Obligations.ScratchpadWriteRule : Prop :=
  ∀ (s : State) (core grove off : Nat) (b : Buf) (bs : List Byte) (g : Grove),
    bs ≠ [] → s.groves.find? grove = some g →
    let t := s.spWrite core grove b off bs
    let pa := (g.win b).1 + off
    (∀ n ∈ granules pa bs.length, ∀ a, (s.core core).alloc? b grove (max pa (32 * n) - (g.win b).1) = some a →
      let q := (s.core core).gran b n
      let r := (t.core core).gran b n
      r.gen = a.gen ∧ r.wtick = s.T ∧ r.exp = false ∧ (r.poison = true → q.poison = true) ∧
      (q.data.length = 32 → r.data.length = 32 ∧ ∀ i < 32, r.data.getD i 0 =
        if pa ≤ 32 * n + i ∧ 32 * n + i < pa + bs.length then bs.getD (32 * n + i - pa) 0
        else if q.gen = a.gen ∧ ageOk s.T q a.cls = true then q.data.getD i 0 else 0)) ∧
    (∀ n, (n ∈ granules pa bs.length → (s.core core).alloc? b grove (max pa (32 * n) - (g.win b).1) = none) → (t.core core).gran b n = (s.core core).gran b n) ∧
    (∀ c b', c ≠ core ∨ b' ≠ b → (t.core c).sp b' = (s.core c).sp b') ∧
    t = { s with cores := t.cores } ∧ (t.core core).allocs = (s.core core).allocs ∧ (t.core core).slots = (s.core core).slots

/-- R122, R129, R130, R132, R266 to R268: SPALLOC, SPFREE, SPCLEAR and SPRENEW, where their checks pass and no wrap sweep stands in their way; the first three act at once where nothing is in flight that they are ordered after (R270). SPRENEW of a length other than 0 enters the memory pipeline with the granules of its range, in ascending order. SPCLEAR gives its allocation the next generation and leaves no granule of it poisoned. An allocation is made at the lowest offset that fits, under the next generation; with 0 bytes, 256 allocations or no room none is made and the offset is 0xFFFFFFFF. A renewal of a granule stamps it if it has the allocation's generation and is within its lifetime. -/
def Obligations.ScratchpadManagement : Prop :=
  (∀ (g : Guard) (d a : Nat) (b : Src) (buf : Buf) (lc : LClass) (ar strict : Bool),
    let turn := fun (s : State) (x : Ctx) (l : Nat) => s.genVerdict x ((x.en g).countP (decide <| · < l)) = .go
    let starts := fun (s : State) (x : Ctx) (l : Nat) => s.spAfter (x.strand l) false true = [] ∧
      ∃ al, s.startOf x.core (s.groveOf x l) buf (x.co.reg a l).toNat = .ok al
    Acts (.spalloc g d b buf lc ar strict) g 12 (d :: b.regs) b.regs (each g fun s x l =>
        s.spAfter (x.strand l) false true = [] ∧ ¬(lc = .l2 ∧ s.lcmax (dieOf x.core) = 1) ∧ turn s x l)
      (fun s x ls =>
        let r := s.spAllocs x (fun s l => s.spAlloc x.core (s.groveOf x l) buf lc (ar || s.autoRenew x.co.launch) strict (x.co.src b l).toNat) ls
        r.1.onCohort x fun co => co.write d .gen ls fun l => BitVec.ofNat 32 (r.2.getD l 0)) ∧
    Acts (.spfree g a buf) g 12 [a] [a] (each g starts) (fun s x ls => ls.foldl (fun s l =>
      match s.startOf x.core (s.groveOf x l) buf (x.co.reg a l).toNat with
      | .ok al => (s.modCore x.core fun k => { k with allocs := k.allocs.erase al }).fireAlloc x.core (s.groveOf x l)
      | .error _ => s) s) ∧
    Acts (.spclear g a buf) g 12 [a] [a] (each g fun s x l => starts s x l ∧ turn s x l) (fun s x ls => ls.foldl (fun s l =>
      match s.startOf x.core (s.groveOf x l) buf (x.co.reg a l).toNat, (s.core x.core).nextSpGen with
      | .ok al, some gen =>
        let first := ((s.groves.find? (s.groveOf x l)).elim 0 (fun g => (g.win buf).1) + al.off) / 32
        let clean := fun (k : Core) => (List.range (al.size / 32)).foldl (fun k i =>
          if (k.gran buf (first + i)).poison then k.setGran buf (first + i) { k.gran buf (first + i) with poison := false } else k) k
        (s.modCore x.core fun k => clean { k with allocs := k.allocs.map fun y => if y = al then { y with gen := gen } else y, spGen := gen + 1 }).fireAlloc x.core (s.groveOf x l)
      | _, _ => s) s) ∧
    Acts (.sprenew g a b buf) g 12 (a :: b.regs) (a :: b.regs)
      (each g fun s x l => s.countable x .st l = true ∧ s.renewCheck x l buf (x.co.reg a l).toNat (x.co.src b l).toNat = .go)
      (fun s x ls => ls.foldl (fun s l => if x.co.src b l = 0 then s else
        s.issueOp { s.newOp x l (.renew buf) (some .st) (x.co.reg a l).toNat 0 0 0 with
          fields := (List.range ((roundUp ((x.co.reg a l).toNat + (x.co.src b l).toNat) 32 - (x.co.reg a l).toNat / 32 * 32) / 32)).map fun i =>
            (x.co.reg a l).toNat / 32 * 32 + 32 * i }) s)) ∧
  (∀ (s : State) (core grove off : Nat) (b : Buf) (g : Grove) (a : Alloc), s.groves.find? grove = some g → (s.core core).alloc? b grove off = some a →
    let n := ((g.win b).1 + off) / 32
    let q := (s.core core).gran b n
    ((s.renewGran core grove b off).core core).gran b n = (if q.gen ≠ a.gen then q
      else if ageOk s.T q a.cls = true then { q with wtick := s.T, refreshed := s.T } else { q with exp := true }) ∧
    ∀ m, m ≠ n → ((s.renewGran core grove b off).core core).gran b m = (s.core core).gran b m) ∧
  ∀ (s : State) (core grove bytes : Nat) (b : Buf) (cls : LClass) (ar strict : Bool),
    let size := roundUp bytes 256
    let win := (s.groves.find? grove).elim 0 fun g => (g.win b).2
    let free := fun (o : Nat) => o + size ≤ win ∧ ∀ a ∈ (s.core core).allocs, a.buf = b → a.grove = grove → o + size ≤ a.off ∨ a.off + a.size ≤ o
    (bytes = 0 ∨ 256 ≤ (s.core core).allocs.length ∨ (∀ o, ¬free o) → s.spAlloc core grove b cls ar strict bytes = (s, 0xFFFFFFFF)) ∧
    ∀ gen, bytes ≠ 0 → (s.core core).allocs.length < 256 → (s.core core).nextSpGen = some gen → (∃ o, free o) → ∃ o, free o ∧ (∀ p < o, ¬free p) ∧
      (∀ a ∈ (s.core core).allocs, a.gen ≠ gen) ∧ gen ≤ 65535 ∧
      s.spAlloc core grove b cls ar strict bytes = (s.modCore core fun k => { k with
        allocs := k.allocs ++ [{ buf := b, grove := grove, off := o, size := size, cls := cls, ar := ar, strict := strict, gen := gen }], spGen := gen + 1 }, o)

/-- R241 to R243, R283, R293, R294: TCLR clears tags; FFR gives each lane in ascending order the lowest tag set under its mask, clears it and sets its predicate, and 64 and false when there is none; BSTAT gives the status of a tag; MXVER the word of a handle that the grove holds. -/
def Obligations.TagInstructions : Prop :=
  (∀ (g : Guard) (pc d ra : Nat) (a : Src),
    Acts (.tclr g a) g 12 a.regs64 a.regs64 always (fun s x ls => ls.foldl (fun s l => s.modTags (s.groveOf x l) fun t => t &&& ~~~x.co.mask a l) s) ∧
    Acts (.ffr g pc d a) g 12 (d :: a.regs64) a.regs64 always (fun s x ls =>
      let r := s.ffr x (x.co.mask a) ls
      r.1.onCohort x fun co => ls.foldl (fun c l => c.setPred pc l (r.2.getD l 64 != 64)) (co.write d .gen ls fun l => BitVec.ofNat 32 (r.2.getD l 64))) ∧
    Computes (.bstat g d a) g 12 (d :: a.regs) a.regs [d] always (fun s x _ l =>
      (s.groves.find? (s.groveOf x l)).elim 0 fun q => (q.tagStat ((x.co.src a l).toNat % 64)).setWidth 32) ∧
    Computes (.mxver g d ra) g 12 [d, ra] [ra] [d]
      (each g fun s x l => ∃ t, (s.core x.core).tile (s.groveOf x l) ((x.co.reg ra l).toNat % 64) = .ok t)
      (fun s x _ l => ((s.core x.core).tile (s.groveOf x l) ((x.co.reg ra l).toNat % 64)).toOption.elim 0 fun t =>
        BitVec.ofNat 32 (t.version % 65536 + t.status % 8 * 65536 + t.released.toNat * 2 ^ 19))) ∧
  ∀ (s : State) (x : Ctx) (m : Nat → DWord) (l : Nat) (t : List Nat),
    let w := ((s.groves.find? (s.groveOf x l)).elim 0 fun q => q.tags) &&& m l
    (w = 0 → s.ffr x m (l :: t) = ((s.ffr x m t).1, (l, 64) :: (s.ffr x m t).2)) ∧
    ∀ i < 64, w.getLsbD i = true → (∀ j < i, w.getLsbD j = false) →
      let s' := s.modTags (s.groveOf x l) fun v => v &&& ~~~BitVec.ofNat 64 (2 ^ i)
      s.ffr x m (l :: t) = ((s'.ffr x m t).1, (l, i) :: (s'.ffr x m t).2)

/-- R139, R245 to R247: where nothing is in flight that they are ordered after (R153, R160), BARINIT writes a barrier of phase 0 and count 0; BARARR gives each lane in ascending order the phase before its arrival, and the arrival that reaches EXPECT turns the phase over, sets the count to 0 and lets those who wait go on. An object reads back as it was written. -/
def Obligations.Barriers : Prop :=
  (∀ (g : Guard) (d a b : Nat) (imm : Word),
    let at_ := fun (x : Ctx) (l : Nat) => (x.co.reg a l + imm).toNat
    Acts (.barinit g a imm b) g 12 [a, b] [a, b]
      (each g fun s x l => s.spAfter (x.strand l) false true = [] ∧ s.spCheck x.core (s.groveOf x l) .a (at_ x l) 16 16 false = none ∧ 1 ≤ (x.co.reg b l).toNat ∧ (x.co.reg b l).toNat ≤ 1024)
      (fun s x ls => ls.foldl (fun s l =>
        ((s.spWrite x.core (s.groveOf x l) .a (at_ x l) (barBytes (x.co.reg b l).toNat false 0)).fireGran x.core (s.groveOf x l) (at_ x l) 16).fireBarrier
          x.core (s.groveOf x l) (at_ x l)) s) ∧
    Acts (.bararr g d a imm) g 12 [d, a] [a]
      (each g fun s x l => s.spAfter (x.strand l) true true = [] ∧ s.spCheck x.core (s.groveOf x l) .a (at_ x l) 16 16 true = none ∧ barBad (s.spObj x.core (s.groveOf x l) (at_ x l)) = false)
      (fun s x ls =>
        let r := s.arrivals x (at_ x) ls
        r.1.onCohort x fun co => co.write d .gen ls fun l => BitVec.ofNat 32 (r.2.getD l 0))) ∧
  (∀ (s : State) (x : Ctx) (off : Nat → Nat) (l : Nat) (t : List Nat),
    let gr := s.groveOf x l
    let n := s.spObj x.core gr (off l)
    let put := fun (phase : Bool) (count : Nat) => (s.spWrite x.core gr .a (off l) (barBytes (barExpect n) phase count)).fireGran x.core gr (off l) 16
    let s' := if barCount n + 1 = barExpect n then (put (!barPhase n) 0).fireBarrier x.core gr (off l) else put (barPhase n) (barCount n + 1)
    s.arrivals x off (l :: t) = ((s'.arrivals x off t).1, (l, (barPhase n).toNat) :: (s'.arrivals x off t).2)) ∧
  ∀ (e c : Nat) (p : Bool), 1 ≤ e → e ≤ 1024 → c < e →
    let n := leNat (barBytes e p c)
    (barBytes e p c).length = 16 ∧ barExpect n = e ∧ barPhase n = p ∧ barCount n = c ∧ barBad n = false

/-- R138, R249 to R252: on cells in a scratchpad, with nothing in flight that the access is ordered after (R153, R160), FWAIT of a full one gives its value in a pair; FFILL fills an empty one and gives 1, leaves a full one and gives 0, lane by lane; FRESET empties one. -/
def Obligations.ScratchpadFutures : Prop :=
  (∀ (g : Guard) (d a b : Nat) (imm : Word) (sc : Scope),
    let at_ := fun (x : Ctx) (l : Nat) => (x.co.reg a l + imm).toNat
    let cell := fun (s : State) (x : Ctx) (l : Nat) => s.spObj x.core (s.groveOf x l) (at_ x l)
    let good := fun (s : State) (x : Ctx) (l : Nat) => s.spCheck x.core (s.groveOf x l) .a (at_ x l) 16 16 true = none ∧ futBad (cell s x l) = false
    Computes (.fwait g d a imm true sc) g 12 [d, d + 1, a] [a] [d, d + 1]
      (each g fun s x l => s.spAfter (x.strand l) false false = [] ∧ good s x l ∧ cell s x l % 2 = 1 ∧ (s.strands.find? (x.strand l)).isSome = true ∧ s.away (s.groveOf x l) = false)
      (fun s x n l => half d n (BitVec.ofNat 64 (cell s x l / 2 ^ 64))) ∧
    let alone := each g fun s x l => s.spAfter (x.strand l) true true = [] ∧ good s x l
    Acts (.ffill g d a imm b true sc) g 12 [d, a, b, b + 1] [a, b, b + 1] alone (fun s x ls =>
      let r := s.fills x (at_ x) (x.co.reg64 b) ls
      r.1.onCohort x fun co => co.write d .gen ls fun l => BitVec.ofNat 32 (r.2.getD l 0)) ∧
    Acts (.freset g a imm true sc) g 12 [a] [a] alone (fun s x ls => ls.foldl (fun s l =>
      (s.spWrite x.core (s.groveOf x l) .a (at_ x l) (leBytes 16 0)).fireGran x.core (s.groveOf x l) (at_ x l) 16) s)) ∧
  ∀ (s : State) (x : Ctx) (off : Nat → Nat) (v : Nat → DWord) (l : Nat) (t : List Nat),
    let gr := s.groveOf x l
    (s.spObj x.core gr (off l) % 2 = 1 → s.fills x off v (l :: t) = ((s.fills x off v t).1, (l, 0) :: (s.fills x off v t).2)) ∧
    (s.spObj x.core gr (off l) % 2 = 0 →
      let s' := (s.spWrite x.core gr .a (off l) (leBytes 16 (1 + (v l).toNat * 2 ^ 64))).fireGran x.core gr (off l) 16
      s.fills x off v (l :: t) = ((s'.fills x off v t).1, (l, 1) :: (s'.fills x off v t).2))

/-- R281 to R284, R288, R45: the five bulk instructions, with a good descriptor. With room in the core's queue each lane's operation enters it and the lane's predicate becomes true; with the queue full the predicate becomes false and nothing else happens. An operation that enters carries its descriptor, joins its tag's group, clears the tag if it begins the group, and counts in bk. -/
def Obligations.BulkInstructions : Prop :=
  (∀ (g : Guard) (pd a b tag : Nat) (sc : Scope),
    let good := fun (k : BulkKind) => each g fun s x l => s.countable x .bk l = true ∧
      s.spCheck x.core (s.groveOf x l) .a (x.co.reg a l).toNat 32 32 true = none ∧ k.bad (s.block x a 32 l) = none
    let room := fun (k : BulkKind) (s : State) (x : Ctx) => good k s x ∧ s.bulkUsed x.core + (x.en g).length ≤ 64
    let full := fun (k : BulkKind) (s : State) (x : Ctx) => good k s x ∧ 64 ≤ s.bulkUsed x.core
    let enter := fun (k : BulkKind) (scp : Scope) (ctx : Cohort → Nat → DWord) (s : State) (x : Ctx) (ls : List Nat) =>
      ls.foldl (fun s l => (s.putBulk x l k a tag (ctx x.co l) scp).setPd x pd l true) s
    let refuse := fun (s : State) (x : Ctx) (ls : List Nat) => ls.foldl (fun s l => s.setPd x pd l false) s
    let none_ := fun (_ : Cohort) (_ : Nat) => (0 : DWord)
    let both := fun (i : Instr) (rs : List Nat) (k : BulkKind) (scp : Scope) (ctx : Cohort → Nat → DWord) =>
      Acts i g 12 rs rs (room k) (enter k scp ctx) ∧ Acts i g 12 rs rs (full k) refuse
    both (.bread g pd a b tag) [a, b, b + 1] .read .core (fun co l => co.reg64 b l) ∧
    both (.bwrite g pd a tag sc) [a] .write sc none_ ∧
    both (.bcopy g pd a tag sc) [a] .copy sc none_ ∧
    both (.bfill g pd a tag sc) [a] .fill sc none_ ∧
    both (.bdigest g pd a tag) [a] .digest .core none_) ∧
  ∀ (s : State) (x : Ctx) (l a tag : Nat) (k : BulkKind) (ctx : DWord) (sc : Scope) (q : Grove) (y : Strand),
    tag < 64 → s.groves.find? (s.groveOf x l) = some q → s.strands.find? (x.strand l) = some y →
    let t := s.putBulk x l k a tag ctx sc
    let pend := fld (q.stat.getD tag 0) 30 24
    ∃ o q' y', (t.core x.core).bulkQ = (s.core x.core).bulkQ ++ [o] ∧ o.kind = k ∧ o.tag = tag ∧ o.desc = s.block x a 32 l ∧ o.ctx = ctx ∧ o.sc = sc ∧
      o.strand = x.strand l ∧ o.grove = s.groveOf x l ∧
      t.groves.find? (s.groveOf x l) = some q' ∧ (pend < 127 → fld (q'.stat.getD tag 0) 30 24 = pend + 1) ∧
      (pend = 0 → q'.tags.getLsbD tag = false ∧ fld (q'.stat.getD tag 0) 23 0 = 0) ∧ (pend ≠ 0 → q'.tags = q.tags) ∧
      t.strands.find? (x.strand l) = some y' ∧ y'.count .bk = y.count .bk + 1 ∧ t.mem = s.mem

/-- R281, R290 to R295, R298, R45: the matrix instructions, with a good parameter block or handle. MXLW, MXRUN and MXZERO enter the core's queue of 16 with a true predicate, or leave a false one when it is full; MXHND gives each lane in ascending order the lowest number its grove does not hold, 0xFFFFFFFF when the core's 64 handles are taken; MXREL releases a handle. -/
def Obligations.MatrixInstructions : Prop :=
  (∀ (g : Guard) (pd d a b : Nat),
    let good := fun (k : MatKind) (op : Nat) => each g fun s x l => s.countable x .mx l = true ∧
      s.spCheck x.core (s.groveOf x l) .a (x.co.reg a l).toNat 64 64 true = none ∧
      s.matVerdict x.core (s.groveOf x l) k op (x.co.reg a l).toNat (s.block x a 64 l) = .go
    let room := fun (k : MatKind) (op : Nat) (s : State) (x : Ctx) => good k op s x ∧ (s.core x.core).matQ.length + (x.en g).length ≤ 16
    let full := fun (k : MatKind) (op : Nat) (s : State) (x : Ctx) => good k op s x ∧ 16 ≤ (s.core x.core).matQ.length
    let enter := fun (k : MatKind) (s : State) (x : Ctx) (ls : List Nat) => ls.foldl (fun s l => (s.putMat x l k a).setPd x pd l true) s
    let refuse := fun (s : State) (x : Ctx) (ls : List Nat) => ls.foldl (fun s l => s.setPd x pd l false) s
    let both := fun (i : Instr) (k : MatKind) (op : Nat) => Acts i g 12 [a] [a] (room k op) (enter k) ∧ Acts i g 12 [a] [a] (full k op) refuse
    both (.mxlw g pd a) .lw 0x300 ∧ both (.mxrun g pd a) .run 0x301 ∧ both (.mxzero g pd a) .zero 0x302 ∧
    Acts (.mxhnd g d a b) g 12 [d, a, b] [a, b]
      (each g fun s x l => 1 ≤ (x.co.reg b l).toNat ∧ (x.co.reg b l).toNat ≤ 256 ∧ (x.co.reg a l).toNat % 512 = 0 ∧
        s.spCheck x.core (s.groveOf x l) .c (x.co.reg a l).toNat (512 * (x.co.reg b l).toNat) 512 false = none)
      (fun s x ls =>
        let r := s.newTiles x a b ls
        r.1.onCohort x fun co => co.write d .gen ls fun l => BitVec.ofNat 32 (r.2.getD l 0)) ∧
    Acts (.mxrel g a) g 12 [a] [a] (each g fun s x l => ∃ t, (s.core x.core).tile (s.groveOf x l) ((x.co.reg a l).toNat % 64) = .ok t)
      (fun s x ls => ls.foldl (fun s l => s.releaseTile x.core (s.groveOf x l) ((x.co.reg a l).toNat % 64)) s)) ∧
  (∀ (s : State) (x : Ctx) (l a : Nat) (k : MatKind), ∃ o, ((s.putMat x l k a).core x.core).matQ = (s.core x.core).matQ ++ [o] ∧
    o.kind = k ∧ o.block = s.block x a 64 l ∧ o.strand = x.strand l ∧ o.grove = s.groveOf x l ∧ (s.putMat x l k a).mem = s.mem) ∧
  ∀ (s : State) (core grove coff rows : Nat),
    let held := fun (n : Nat) => ∃ t ∈ (s.core core).tiles, t.grove = grove ∧ t.num = n
    (64 ≤ (s.core core).tiles.length → s.newTile core grove coff rows = (s, 0xFFFFFFFF)) ∧
    ∀ n < 64, (s.core core).tiles.length < 64 → ¬held n → (∀ m < n, held m) → s.newTile core grove coff rows =
      (s.modCore core fun k => { k with
        tiles := k.tiles ++ [{ grove := grove, num := n, coff := coff, rows := rows, version := 0, status := 0, released := false }] }, n)

/-- R281, R300, R301, R336: COLL of a grove that is no twin, with a good block: with room in the queue its collective takes the next ordinal of its communicator and the predicate becomes true; with the queue full the predicate becomes false. -/
def Obligations.CollectiveInstruction : Prop :=
  (∀ (g : Guard) (pd a tag : Nat),
    let good := each g fun s x l => s.countable x .cl l = true ∧ s.sideOf (s.groveOf x l) = none ∧
      s.spCheck x.core (s.groveOf x l) .a (x.co.reg a l).toNat 64 64 true = none ∧ s.collBad x.core x.part (s.block x a 64 l) = none
    Acts (.coll g pd a tag) g 12 [a] [a] (fun s x => good s x ∧ s.bulkUsed x.core + (x.en g).length ≤ 64)
      (fun s x ls => ls.foldl (fun s l => (s.putColl x l a tag).setPd x pd l true) s) ∧
    Acts (.coll g pd a tag) g 12 [a] [a] (fun s x => good s x ∧ 64 ≤ s.bulkUsed x.core) (fun s x ls => ls.foldl (fun s l => s.setPd x pd l false) s)) ∧
  ∀ (s : State) (x : Ctx) (l a tag : Nat),
    let comm := getLe (s.block x a 64 l) 4 4
    let t := s.putColl x l a tag
    s.link.fenced.contains comm = false → ∃ o, t.link.colls = s.link.colls ++ [o] ∧ o.comm = comm ∧ o.block = s.block x a 64 l ∧ o.tag = tag ∧
      o.strand = x.strand l ∧ o.ordinal = s.link.commCount.getD comm 0 ∧ t.link.commCount.getD comm 0 = s.link.commCount.getD comm 0 + 1 ∧ t.mem = s.mem

/-- R271, R272, R275 to R277, R375, R466: MOVSW of %fault in a trap handler writes the two bytes of the lane's code in the frame, once the host's caches hold none of their lines (R328); CINV of a canonical address drops the lines of the range, at once for .d and when its operation completes for .i; TLBINV and CSRW, of a launch of a privileged queue, send the invalidation on its way and write TWININJ but for its reserved bits. -/
def Obligations.SystemInstructions : Prop :=
  (∀ (g : Guard) (a b csr : Nat) (imm : Word) (sc : Scope),
    let priv := fun (s : State) (x : Ctx) => (s.launches.find? x.co.launch).any (fun la => la.priv) = true
    let at_ := fun (x : Ctx) (l : Nat) => (x.co.reg64 a l + imm.signExtend 64).toNat
    let len := fun (x : Ctx) (l : Nat) => (x.co.reg b l).toNat
    let op := fun (s : State) (x : Ctx) (l : Nat) => { s.newOp x l .cinv (some .st) (at_ x l) 0 0 0 with ord := .rel }
    let inv := fun (scp : Scope) (fields : Ctx → Nat → List Nat) (s : State) (x : Ctx) (ls : List Nat) => ls.foldl (fun s l =>
      s.issueOp { s.newOp x l .tlbinv (some .st) 0 0 0 0 with sc := scp, fields := fields x l }) s
    let counts := each g fun s x l => s.countable x .st l = true
    let ok := each g fun s x l => s.countable x .st l = true ∧ canonical (at_ x l) = true
    Acts (.movsw g .fault a) g 12 [a] [a] (fun _ x => x.co.kind = .trap) (fun s x ls => ls.foldl (fun s l =>
      match s.faultCodePa x (x.strand l) .write with
      | some (pa, leaf) =>
        if (s.hostHolds pa 2).isEmpty && s.isLocal pa then s.keyedWrite leaf pa (leBytes 2 (x.co.reg a l).toNat)
        else s.issueOp { s.newOp x l .store none 0 pa leaf 2 with data := leBytes 2 (x.co.reg a l).toNat }
      | none => s) s) ∧
    Acts (.cinv g .d a imm b) g 12 [a, a + 1, b] [a, a + 1, b] ok (fun s x ls => ls.foldl (fun s l =>
      if len x l = 0 then s else (s.dropL1d x.core (s.mappedRanges x.core x.part (at_ x l) (len x l))).issueOp (op s x l)) s) ∧
    Acts (.cinv g (.i sc) a imm b) g 12 [a, a + 1, b] [a, a + 1, b] ok (fun s x ls => ls.foldl (fun s l =>
      if len x l = 0 then s else s.issueOp { op s x l with sc := sc, fields := [at_ x l, len x l, x.part] }) s) ∧
    Acts (.tlbinv g (.va a b) sc) g 12 [a, a + 1, b] [a, a + 1, b] (fun s x => priv s x ∧ counts s x)
      (inv sc fun x l => [0, (x.co.reg64 a l).toNat, (x.co.reg b l).toNat % 16]) ∧
    Acts (.tlbinv g (.part b) sc) g 12 [b] [b] (fun s x => priv s x ∧ counts s x) (inv sc fun x l => [1, 0, (x.co.reg b l).toNat % 16]) ∧
    Acts (.tlbinv g .all sc) g 12 [] [] (fun s x => priv s x ∧ counts s x) (inv sc fun _ _ => [2, 0, 0]) ∧
    (csrAssigned csr → Acts (.csrw g csr a) g 12 [a, a + 1] [a, a + 1] priv (fun s x ls => ls.foldl (fun s l =>
      if csr = 0x0400 then { s with twininj := x.co.reg64 a l &&& ~~~0xFC#64 } else s) s))) ∧
  ∀ (s : State) (core n : Nat) (rs : List (Nat × Nat)), ((s.dropL1d core rs).core core).l1d.find? n =
    if rs.any (fun r => decide (n / 4 * 128 < r.1 + r.2 ∧ r.1 < n / 4 * 128 + 128)) then none else (s.core core).l1d.find? n

/-- R173 to R175: a P-form pair performs the uniform slot, then the vector slot, which reads what the uniform slot wrote; both are checked before either writes. With the other slot empty, each operation of either slot computes what its X-form does. -/
def Obligations.PairedForm : Prop :=
  ∀ (g : Guard) (d a b : Nat),
    let idle := fun (e : Nat) => ({ op := .nop, d := e, a := e, b := e } : VSlot)
    let still := fun (e : Nat) => ({ op := .nop, d := e, a := e, b := e } : USlot)
    let U := fun (op : UOp) (e : Nat) => Instr.pformPair g { op := op, d := d, a := a, b := b } (idle e)
    let V := fun (op : VOp) (e : Nat) => Instr.pformPair g (still e) { op := op, d := d, a := a, b := b }
    let off := fun (x : Ctx) (l : Nat) => (x.co.reg a l + x.co.reg b l).toNat
    (∀ e, Acts (.pformPair g (still e) (idle e)) g 8 [] [] always (fun s _ _ => s)) ∧
    (∀ e, Maps1 (U .mov e) g 8 d a id) ∧ (∀ e, Maps1 (V .mov e) g 8 d a id) ∧
    (∀ e, ∀ p ∈ [(UOp.iadd, ((· + ·) : Word → Word → Word)), (.isub, (· - ·)), (.imul, (· * ·)), (.and, (· &&& ·)), (.or, (· ||| ·)), (.xor, (· ^^^ ·)),
        (.shl, shlW), (.shr, shrW), (.imin, minW false), (.imax, maxW false)], Maps2 (U p.1 e) g 8 d a (.reg b) p.2) ∧
    (∀ e, Maps3 (U .imad e) g 8 d a (.reg b) d (fun x y z => x * y + z)) ∧
    (∀ e, MapsPair (U .iadd64 e) g 8 d [a, a + 1, b, b + 1] (fun co l => co.reg64 a l + co.reg64 b l)) ∧
    (∀ e, MapsPair (U .lea e) g 8 d [a, a + 1, b] (fun co l => co.reg64 a l + (co.reg b l).signExtend 64)) ∧
    (∀ e, ∀ p ∈ [(UOp.icmpLt, Cc.lt), (.icmpEq, .eq)], Sets (U p.1 e) g 8 d [a, b] (fun co l => icmp32 p.2 false (co.reg a l) (co.reg b l))) ∧
    (∀ e, ∀ p ∈ [(VOp.iadd, ((· + ·) : Word → Word → Word)), (.isub, (· - ·)), (.imul, (· * ·)), (.and, (· &&& ·)), (.or, (· ||| ·)), (.xor, (· ^^^ ·)),
        (.shl, shlW), (.shr, shrW), (.imin, minW false), (.imax, maxW false), (.fadd, faddR .rn), (.fsub, fsubR .rn), (.fmul, fmulR .rn), (.fmin, fminW),
        (.fmax, fmaxW)], Maps2 (V p.1 e) g 8 d a (.reg b) p.2) ∧
    (∀ e, ∀ p ∈ [(VOp.imad, fun (x y z : Word) => x * y + z), (.ffma, ffmaR .rn), (.hfma2, half3 false .rn), (.vdot4, vdot4W false false)],
      Maps3 (V p.1 e) g 8 d a (.reg b) d p.2) ∧
    (∀ e, Sets (V .icmpLt e) g 8 d [a, b] (fun co l => icmp32 .lt false (co.reg a l) (co.reg b l))) ∧
    (∀ e, Sets (V .fcmpLt e) g 8 d [a, b] (fun co l => fcmp32 .lt false (co.reg a l) (co.reg b l))) ∧
    (∀ e, Computes (V .ald e) g 8 [d, a, b] [a, b] [d] (each g fun s x l => s.spAfter (x.strand l) false false = [] ∧ s.spCheck x.core (s.groveOf x l) .a (off x l) 4 4 true = none)
      (fun s x _ l => BitVec.ofNat 32 (leNat (s.spRead x.core (s.groveOf x l) .a (off x l) 4)))) ∧
    (∀ e, Acts (V .ast e) g 8 [d, a, b] [d, a, b] (each g fun s x l => s.spAfter (x.strand l) false true = [] ∧ s.spCheck x.core (s.groveOf x l) .a (off x l) 4 4 false = none) (fun s x ls => ls.foldl (fun s l =>
      (s.spWrite x.core (s.groveOf x l) .a (off x l) (x.co.dataBytes d 4 l)).fireGran x.core (s.groveOf x l) (off x l) 4) s)) ∧
    ∀ (u : USlot) (v : VSlot),
      let p := uniformPlan g u
      let q := vectorPlan g v
      Acts (.pformPair g u v) g 8 (p.regs ++ q.regs) (p.srcs ++ q.srcs.filter fun r => !((uDests u).contains r))
        (fun s x => ∀ l ∈ x.en g, q.check (p.act s x (x.en g)) ((p.act s x (x.en g)).again x) (x.en g) l = .go)
        (fun s x ls => q.act (p.act s x ls) ((p.act s x ls).again x) ls)

/-- R68 to R70: one step of REP performs one iteration, the lowest that a lane of the executing set has not performed. Iteration j runs the next instruction with each register number raised by j times its stride, for the lanes whose %repc is at most j; %repc then counts on, and after the last iteration it is 0 and the lanes go past the repeated instruction. With every iteration performed the lanes only go on. -/
def Obligations.Repetition : Prop :=
  ∀ (count sd sa sb sc se : Nat) (s : State) (x : Ctx) (w : Word) (tl : List Word),
    s.ctx = some x → x.co.single = none →
    let step_ := fun (i : Instr) (len : Nat) (st : RegField → Nat) =>
      let va := (x.after len).toNat
      let after := x.after (len + 4 * lenWords w)
      let j := x.minRepc
      let lanes := fun (s : State) (xs : List Nat) (f : Lane → Lane) =>
        s.onCohort x fun co => { co with lanes := co.lanes.map fun y => (y.1, if xs.contains y.1 then f y.2 else y.2) }
      s.fetchWord x.core x.part va = .ok (w :: tl) →
      (count ≤ j → exec i s = .next ((lanes (s.keepLines x.core x.part va 1) x.xs fun y => { y with repc := 0, pc := after }).issued x)) ∧
      ∀ (ws : List Word) (k : Instr) (p : Plan), j < count → s.fetchInstr x.core x.part va = .ok ws →
        let s1 := s.keepLines x.core x.part va (lenWords w)
        repUpfront s1 x ws st j count = .ok k → planOf (iterOf k st j) = some p → p.need = 0 →
        let y := { x with xs := x.xs.filter fun l => (x.co.lanes.find? l).elim false fun z => decide (z.repc ≤ j) }
        (∀ l ∈ y.en p.g, p.verdict s1 y (y.en p.g) l = .go) → y.lost (y.en p.g) p.regs = false →
        let s2 := lanes s1 y.xs fun z => if j + 1 = count then { z with repc := 0, pc := after } else { z with repc := j + 1 }
        let t := if y.en p.g = [] then s2 else p.act s2 y (y.en p.g)
        t.unwatched x = true → exec i s = .next (t.issued x)
    step_ (.rep count sd sa sb sc se) 12 (repStride sd sa sb sc se) ∧ step_ (.repS count sd sa sb) 4 (repStride sd sa sb 0 0)

/-- R43, R244, R155: SPAWN makes one strand for each lane under the guard, of the spawner's grove and stage, whose record starts at the entry with predicates 0 and registers 0 to n − 1 taken from the lane's registers a to a + n − 1. -/
def Obligations.SpawnMakesStrands : Prop :=
  (∀ (g : Guard) (imm : Word) (a n : Nat) (s : State) (x : Ctx), s.ready x g (run a n) (run a n) = true →
    n ≤ ((s.launches.find? x.co.launch).elim 0 fun la => la.pkt.allot.getD x.co.stage 0) →
    (s.recRoomWith x.core x.part (List.replicate (x.en g).length (32 + roundUp (4 * n) 32)) 0 = true) →
    exec (.spawn g imm a n) s = .next ((if x.en g = [] then s.setPcs x x.xs (x.after 12)
      else (x.en g).foldl (fun s l => s.spawnOne x (x.pc + BitVec.ofInt 48 (4 * imm.toInt)) a n l) (s.setPcs x x.xs (x.after 12))).issued x)) ∧
  ∀ (s : State) (x : Ctx) (entry : Pc) (a n l : Nat) (y : Strand), s.strands.find? (x.strand l) = some y → x.strand l < s.seq →
    let t := s.spawnOne x entry a n l
    ∃ c rid r, t.strands.find? s.seq = some c ∧ c.launch = y.launch ∧ c.grove = y.grove ∧ c.stage = y.stage ∧ c.index = y.index ∧ c.out = [] ∧
      (t.core x.core).records.find? rid = some r ∧ r.strand = s.seq ∧ r.stage = x.co.stage ∧ r.pc = entry ∧ r.hx = false ∧ r.contig = true ∧ r.preds = 0 ∧ r.repc = 0 ∧ r.pend = [] ∧ r.wait = none ∧
      r.regs = (List.range n).map (fun i => (i, x.co.reg (a + i) l)) ∧ t.mem = s.mem

/-- R38, R45, R149, R151, R153, R162, R164, R268, R275, R276, R397: an operation in flight that nothing is ordered before is performed and leaves, its request to another package having gone first: a load or a performed atomic lands its value, a scratchpad access held in the memory pipeline is performed and lands its value, or fails its registers on the checks of that moment (R397), a store takes effect (one to another package first leaves for its home, and one to host space under CXL counts as performed when the host egress takes it, and leaves later), an atomic is performed at its home, a renewal renews its granules, and the invalidations remove what they name, once every other package of their instance has answered. Each of resultLanding, storePerformed, atomicAtHome, sprenewComplete, cinvComplete and tlbinvComplete completes so. -/
def Obligations.OperationsPerform : Prop :=
  (∀ (s : State) (id status : Nat) (data : List Byte) (o : MemOp), s.readyOp id = some o →
    let r := s.onceSent o
    let q := r.1.performAtomic r.2 data
    let n := s.performAtomic o []
    (o.kind = .load → s.canGo o = true → exec (.resultLanding id data status) s = .next (r.1.landLoad r.2 data status)) ∧
    (∀ op b g, o.kind = .sp op b → s.groves.find? o.grove = some g → g.placed = true → s.spWaits g.core op = false →
      let refused := s.spRefuses g.core o.grove op b o.va (o.fields.headD 0)
      (refused = none → exec (.resultLanding id data status) s = .next (((s.spPerform g.core o op b).1.landOp o (s.spPerform g.core o op b).2).opDone o)) ∧
      ∀ f, refused = some f → o.ndst ≠ 0 → exec (.resultLanding id data status) s = .next ((s.failOp o f).opDone o)) ∧
    (o.atomicKind = true → o.home = true → o.ndst ≠ 0 → s.canGo o = true → s.toSend o = false → o.bad = none → o.ord.isAcq = false →
      exec (.resultLanding id data 0) s = .next ((s.landOp o (loadWords o.got false)).opDone o)) ∧
    (o.kind = .store ∨ o.atomicKind = true → o.home = false → (o.kind = .store → s.heldFull o = false) → s.snoopLines o = [] → s.toSend o = true → s.canGo o = true →
      exec (.storePerformed id) s = .next (s.sendOp o).1) ∧
    (o.kind = .store → o.home = false → s.heldFull o = false → s.snoopLines o = [] → s.toSend o = false → s.flowHeld o = false → s.sideOf o.grove = none →
      ((s.host.cxl = true ∧ s.host.linkUp = true ∧ spaceOf o.pa = 2) → exec (.storePerformed id) s = .next ((s.performStore o).acceptStore o)) ∧
      (¬(s.host.cxl = true ∧ s.host.linkUp = true ∧ spaceOf o.pa = 2) → ((s.performStore o).opDone o).sideOf o.grove = none →
        exec (.storePerformed id) s = .next ((s.performStore o).opDone o))) ∧
    (o.kind = .store → o.home = true → exec (.storePerformed id) s = .next (s.opDone o)) ∧
    (o.atomicKind = true → o.ndst = 0 → o.home = false → s.canGo o = true → s.snoopLines o = [] → s.toSend o = false → n.2.bad = none →
      exec (.storePerformed id) s = .next (n.1.opDone n.2)) ∧
    (o.atomicKind = true → o.home = false → s.canGo o = true → s.snoopLines o = [] → exec (.atomicAtHome id data) s = .next (q.1.setOp q.2)) ∧
    (∀ b g, o.kind = .renew b → s.groves.find? o.grove = some g → g.placed = true →
      exec (.sprenewComplete id) s = .next ((o.fields.foldl (fun s off => s.renewGran g.core o.grove b off) s).opDone o)) ∧
    (∀ va len part far, o.fields = va :: len :: part :: far → (∀ p ∈ far, s.routeTo p = []) → (o.sent = true ∨ s.farPkgs o.sc = []) →
      (o.kind = .cinv → exec (.cinvComplete id) s = .next ((s.dropCode o.sc o.core va len part).opDone o)) ∧
      (o.kind = .tlbinv → exec (.tlbinvComplete id) s = .next ((s.tlbRemove o.sc o.core [va, len, part]).opDone o))) ∧
    (∀ a b c, o.fields = [a, b, c] → o.sent = false → s.farPkgs o.sc ≠ [] →
      let told := fun (kind : Nat) => ((s.farPkgs o.sc).foldl (fun s p => s.post p 3 1 (s.opPart o) kind 0 (leBytes 8 o.id ++ [a, b, c].flatMap (leBytes 8))) s).setOp
        { o with sent := true, fields := [a, b, c] ++ s.farPkgs o.sc }
      (o.kind = .cinv → exec (.cinvComplete id) s = .next (told 12)) ∧ (o.kind = .tlbinv → exec (.tlbinvComplete id) s = .next (told 11)))) ∧
  (∀ (s : State) (fields : List Nat) (c : Nat) (sc : Scope), ∀ e ∈ ((s.tlbRemove sc c fields).core c).tlb, tlbinvHits fields e = false) ∧
  (∀ (s : State) (sc : Scope) (c va len part n : Nat), sameInstance sc c n = true → ∀ y ∈ ((s.dropCode sc c va len part).core n).l1i,
    ∀ r ∈ s.mappedRanges c part va len, ¬(y.1 * 128 < r.1 + r.2 ∧ r.1 < (y.1 + 1) * 128)) ∧
  ∀ (s : State) (o : MemOp), ∀ p ∈ (s.retireOp o).ops, p.id ≠ o.id

/-- R118, R119, R149, R254, R255, R259, R260: the effects on local memory, outside twin groves and staging, under a key slot, or under slot 0 on lines that no key wrote (R348). A store leaves its bytes at its address and every other byte of memory as it was. A load past the L1, or one that finds none of its sectors there, takes memory's bytes. An atomic takes the old bytes and leaves the new value; a compare-and-swap leaves its new bytes only where the old ones are those it compares with. -/
def Obligations.LocalMemoryEffects : Prop :=
  ∀ (s : State) (o : MemOp) (data : List Byte) (status : Nat), s.Inv → s.isLocal o.pa = true → s.populated o.pa = true → s.sideOf o.grove = none →
    s.stages o = false → o.data.length = o.size → (fld o.leaf 63 58 ≠ 0 ∨ ∀ n ∈ linesOf o.pa o.size, s.slotLines.find? n = none) →
    let at_ := localOf o.pa
    let stored := fun (t : State) (bs : List Byte) => ∀ a, t.readByte a = if at_ ≤ a ∧ a < at_ + bs.length then bs.getD (a - at_) 0 else s.readByte a
    (o.kind = .store → s.tagFails o.leaf o.pa o.size = false → stored (s.performStore o) o.data) ∧
    (s.stagedOf o.launch = [] → s.heldStores o.grove = [] →
      (o.nl1 = true → s.badLine o o.pa o.size = none → (s.loadBytes o data status).2.toOption = some (s.readMem at_ o.size)) ∧
      (o.nl1 = false → o.ord.isAcq = false → (∀ p ∈ s.ops, p.early = true → p.core ≠ o.core) → (∀ n ∈ sectorsOf o.pa o.size, ((s.core o.core).l1d.find? n) = none ∧ s.badLine o (o.pa - at_ + 32 * n) 32 = none) →
        (s.loadBytes o data status).2.toOption = some (s.readMem at_ o.size))) ∧
    (s.noRoute o.pa = false → s.badLine o o.pa o.size = none →
      (∀ op rt, o.kind = .atomic op rt →
        let new := leBytes o.size (atomNew op (8 * o.size) (leNat (s.readMem at_ o.size)) (leNat o.data))
        (s.atHome o data).2.got = s.readMem at_ o.size ∧ (s.atHome o data).2.home = true ∧ stored (s.atHome o data).1 new) ∧
      ∀ rt, o.kind = .cas rt → (s.atHome o data).2.got = s.readMem at_ o.size ∧
        if s.readMem at_ o.size = o.cmp then stored (s.atHome o data).1 o.data else (s.atHome o data).1.mem = s.mem)

/-- R113, R427, R428, R342, R390, R32: a page walk (pageWalkComplete) ends with the translation in the TLBs and its entry free, or with the entry pending and one record 0x1002; a replayed entry (demandReplay) walks again, and a refused one (demandRefuse) is free and leaves none parked on it; an import stub (stubEntry) sends every lane at it to its target, an acquire at .dom, once its STATE is 2; words that are no instruction (invalidInstruction) raise the invalid-instruction trap; a park-map entry that has come (parkmapFetchDone) compacts the provisional record at its PC to the registers it names. -/
def Obligations.TranslationAndStubEvents : Prop :=
  (∀ (s : State) (die n part : Nat) (e : Coal), (s.dies.getD die []).find? n = some e →
    (∀ t, e.pending = false → s.walkVa e.part (e.page * 2 ^ 17) = .ok t → exec (.pageWalkComplete die n) s = .next (s.walkDone die n e t)) ∧
    (∀ w, e.pending = false → s.walkVa e.part (e.page * 2 ^ 17) = .error w → exec (.pageWalkComplete die n) s = .next (s.walkFailed die n e w) ∧
      ((s.walkFailed die n e w).dies.getD die []).find? n = some { e with pending := true, level := w.level, reason := w.reason, leaf := w.entry }) ∧
    (e.pending = true → e.part = part →
      exec (.demandReplay part die n) s = .next { s with dies := s.dies.put die ((s.dies.getD die []).put n { e with pending := false }) } ∧
      ∃ t, exec (.demandRefuse part die n) s = .next t ∧ (t.dies.getD die []).find? n = none ∧
        ∀ c, dieOf c = die → ∀ x ∈ (t.core c).records, x.2.wait.elim false (WaitEv.isXlat e.part e.page) = false)) ∧
  (∀ (s : State) (x : Ctx) (pa : Nat) (leaf : DWord), s.ctx = some x → x.co.single = none → s.atStub x = true →
    s.gCheck x.core x.part x.pc.toNat 8 4 .read = .ok pa leaf → s.tagFails leaf pa 16 = false → s.poisonAt pa 16 = none →
    getLe (s.readAs leaf pa 16) 8 4 = 2 →
    ∃ t co, exec .stubEntry s = .next t ∧ t.cohort? x.core x.slot = some co ∧ (t.core x.core).l1d = [] ∧ t.mem = s.mem ∧ co.regs = x.co.regs ∧
      ∀ l, co.lanes.find? l = (x.co.lanes.find? l).map fun y =>
        if l ∈ x.xs then { y with pc := BitVec.ofNat 48 (getLe (s.readAs leaf pa 16) 0 8), met := none } else y) ∧
  (∀ (s : State) (x : Ctx) (ws : List Word) (reason : Nat), s.ctx = some x → x.co.single = none →
    exec (.invalidInstruction ws reason) s = .next ((s.trap x.core x.slot x.pc (x.xs.map fun l => (l, invalidWords ws reason)) 2).issued x)) ∧
  (∀ (ws : List Word) (reason : Nat), (invalidWords ws reason).code = 1 ∧
    (invalidWords ws reason).d0 = (ws.getD 0 0).toNat + 2 ^ 32 * (ws.getD 1 0).toNat ∧
    (reason < 256 → (invalidWords ws reason).d1 % 256 = reason ∧ (invalidWords ws reason).d1 / 2 ^ 32 = (ws.getD 2 0).toNat)) ∧
  ∀ (s : State) (core pc rid : Nat) (r : Record), List.filter (fun (x : Nat × Record) => x.2.provisional && x.2.pc.toNat == pc) (s.core core).records = [(rid, r)] →
    let allot := s.allotOf r.launch r.stage r.hx
    (s.parkEntry core (s.launchPart r.launch) pc = none → exec (.parkmapFetchDone core pc) s =
      .next (s.modCore core fun k => { k with records := k.records.put rid { r with provisional := false, tick := s.tick } })) ∧
    ∀ m, s.parkEntry core (s.launchPart r.launch) pc = some m → overAllot m.regs allot = none → r.poison = [] → exec (.parkmapFetchDone core pc) s =
      .next ((s.modCore core fun k => { k.keepMap (some m) with
        records := k.records.put rid { r with provisional := false, tick := s.tick, contig := false, regs := r.regs.filter fun x => m.regs.contains x.1 } }).discard r.strand m.regs)

/-- R418 to R421, R431, R432: what the background scrub (patrolScrub) meets: an uncorrectable error poisons the line, the granule or the register words it is in, once; one in a record ends the launch whose record it is; a parity error of an L1 drops the sector or the line, and is counted; a corrected error changes nothing else: it is only counted, and recorded at most once a millisecond for its unit. -/
def Obligations.ScrubEvents : Prop :=
  ∀ (s : State) (loc line : Nat),
    (∀ src < 2, exec (.patrolScrub src true loc line) s = .next (s.poisonLine src line (if loc = 0 then 1 else 2)) ∧
      (∀ why, (s.poisonLine src line why).poisoned.contains line = true) ∧
      (s.poisoned.contains line = true → ∀ why, s.poisonLine src line why = s) ∧
      (∀ n why, n ≠ line → (s.poisonLine src line why).poisoned.contains n = s.poisoned.contains n) ∧
      exec (.patrolScrub src false loc line) s = .next (s.corrected (s.lineUnit src line).1 src (s.lineUnit src line).2 (s.ownAt (64 * line)))) ∧
    exec (.patrolScrub 2 true loc line) s = .next ((s.dropSectors loc (32 * line) 32).corrected (28 + dieOf loc) 2 loc (s.ownAt (32 * line))) ∧
    (∃ t : State, exec (.patrolScrub 3 true loc line) s = .next (t.corrected (28 + dieOf loc) 3 loc (s.ownAt (128 * line))) ∧ (t.core loc).l1i = (s.core loc).l1i.del line ∧
      (t.core loc).l1d = (s.core loc).l1d) ∧
    (let b := Buf.dec (loc % 4)
     let t := s.poisonGranule (loc / 4) b line 1
     exec (.patrolScrub 4 true loc line) s = .next t ∧
     ((t.core (loc / 4)).gran b line) = { (s.core (loc / 4)).gran b line with poison := true } ∧
     (((s.core (loc / 4)).gran b line).poison = true → t = s)) ∧
    exec (.patrolScrub 4 false loc line) s = .next (s.corrected (20 + dieOf (loc / 4)) 4 (loc / 4) (32 * line)) ∧
    (∀ co y, line < 2 ^ 30 → s.cohort? loc (line / 2 ^ 14) = some co → co.lanes.find? (line / 2 ^ 9 % 32) = some y → ∃ t co' y', exec (.patrolScrub 5 true loc line) s = .next t ∧
      t.cohort? loc (line / 2 ^ 14) = some co' ∧ co'.lanes.find? (line / 2 ^ 9 % 32) = some y' ∧
      y'.poison.find? (line % 2 ^ 9) = some { code := 0x1006, akind := 6, addr := line % 2 ^ 9, gen := 0, d0 := 5, d1 := line % 2 ^ 9 } ∧ t.mem = s.mem) ∧
    exec (.patrolScrub 5 false loc line) s = .next (s.corrected (24 + dieOf loc) 5 loc (line % 2 ^ 9)) ∧
    (∀ r, (s.core loc).records.find? line = some r → r.spilled = false →
      exec (.patrolScrub 6 true loc line) s = .next ((s.countErr (24 + dieOf loc) 47 32).stateLost loc r.launch 6 line) ∧
      exec (.patrolScrub 6 false loc line) s = .next (s.corrected (24 + dieOf loc) 6 loc line)) ∧
    (∀ r, (s.core loc).records.find? line = some r → r.spilled = true → ∃ cal,
      exec (.patrolScrub 6 true loc line) s = .next ((s.countErr (s.stackOf cal) 47 32).stateLost loc r.launch 0 (s.ownAt cal)) ∧
      exec (.patrolScrub 6 false loc line) s = .next (s.corrected (s.stackOf cal) 0 (0x4000 + s.stackOf cal) (s.ownAt cal))) ∧
    (∀ pa, s.stackOf pa < 16 ∧ s.sliceOf pa < 1024) ∧
    ∀ n src id addr, (s.corrected n src id addr).poisoned = s.poisoned ∧ (s.corrected n src id addr).cores = s.cores

/-- R38 to R42, R49, R52, R135, R137, R237, R312, R317, R408: what happens to bins and records. A core forms the best candidate that fits, when it has a free slot and a generation (cohortFormation); a bin ages (drainAgeExpiry); a cohort that has waited 128 cycles is promoted (cohortAgePromotion); a write that comes from outside fires the watches of its line (l2WatchEvent); a spilled record that is ready comes back (spillReadback); a ready record is forwarded from a full store to another core (recordForward) or, by the scheduler, to another stand (schedulerForward); an event wakes a record (waitEventFire); a record that has waited a millisecond is reported (formationStarved). -/
def Obligations.RecordEvents : Prop :=
  ∀ (s : State) (core rid : Nat) (idle : Bool),
    let k := s.core core
    (∀ b sl g, s.loneRecord core = none → leastOf (s.drains core idle) = some b → k.regSweep = false → k.freeSlot = some sl → k.nextGen = some g →
      exec (.cohortFormation core idle) s = .next ((s.modCore core fun k => { k with bins := k.bins.erase b }).form core sl (b.recs.map Prod.fst))) ∧
    (∀ r0 sl g, s.loneRecord core = some r0 → k.regSweep = false → k.freeSlot = some sl → k.nextGen = some g →
      exec (.cohortFormation core idle) s = .next (s.form core sl [r0])) ∧
    (∀ n b, k.bins[n]? = some b → s.drainAge b.launch ≤ s.cycles b.oldest →
      exec (.drainAgeExpiry core n) s = .next (s.modCore core fun k => { k with bins := k.bins.set n { b with aged := b.recs.head?.map Prod.fst } })) ∧
    (∀ slot co, s.cohort? core slot = some co → 128 ≤ s.cycles co.readyTick →
      exec (.cohortAgePromotion core slot) s = .next (s.setCohort core slot { co with boosted := true })) ∧
    (∀ pa data, s.isLocal pa = true → exec (.l2WatchEvent pa data) s = .next (s.fireLine pa 1)) ∧
    ∀ r, k.records.find? rid = some r →
      (∀ n, r.spilled = true → r.ready = true → s.stays r.strand = true → (s.makeRoom core r).pageFor core r = some n →
        exec (.spillReadback core rid) s = .next (((s.makeRoom core r).modCore core fun k => { k with records := k.records.put rid { r with spilled := false, page := n } }).spill core)) ∧
      (∀ dest, 393216 < s.storeBytes core → s.forwardable r = true → s.forwardTo core r = some dest →
        exec (.recordForward core rid) s = .next (s.moveRecord core rid dest r)) ∧
      (∀ dest < 640, (∀ i < 8, 393216 < s.storeBytes (8 * standOf core + i)) → s.forwardable r = true → s.canTake r dest = true → standOf dest ≠ standOf core →
        dieOf dest = dieOf core → exec (.schedulerForward core rid dest) s = .next (s.moveRecord core rid dest r)) ∧
      (∀ w, r.wait = some w → w.judged = true → exec (.waitEventFire core rid) s = .next (s.fire core fun y _ => s.oneEvent r y)) ∧
      (r.pend = [] → r.wait = none → r.provisional = false → r.err = none → 1000 ≤ (s.tick - r.tick) / 1000 → s.stays r.strand = true → s.sched.starved.contains (r.launch, core) = false →
        s.frozenL r.launch = false → k.regSweep = false → ∃ t, exec (.formationStarved core rid) s = .next t ∧
          t.sched.starved = s.sched.starved ++ [(r.launch, core)] ∧ t.cores = s.cores)

/-- R157, R281, R282, R285, R287, R289, R319, R423: the bulk engine. A BREAD that may go on reads its next burst (burstReadStart); a burst that returns (burstReturn) becomes a handler record, or is done with its status bit; an operation that is ready does its parts one after another (bulkOpComplete): a sector of a BWRITE, BCOPY or BFILL goes to local memory under its leaf's key and leaves the core's L1 (two halves of one poisoned line clear its poison, R419); when all parts are done, a digest is written into the A-buffer, and the operation ends. -/
def Obligations.BulkEngineEvents : Prop :=
  ∀ (s : State) (core id : Nat) (o : BulkOp), s.bulk? core id = some o →
    (∀ pa leaf pa' leaf', o.kind = .read → o.bursts.length ≠ burstCount o.desc → s.bulkReady o = true → s.groveStays o.grove = true →
      (s.part (s.bulkPart o)).frozen = false → (s.part (s.bulkPart o)).first = none → s.storeBytes core + 128 * (s.burstsComing core none).length ≤ 458752 →
      s.recRoom core (s.bulkPart o) (128 :: s.burstsComing core (some (s.bulkPart o))) = true →
      let b := o.burst o.bursts.length
      s.engAt o b.2.2.2 (min b.2.2.1 (64 - b.2.2.2 % 64)) false readSpaces = .ok pa leaf →
      s.engAt o ((b.2.2.2 + b.2.2.1 - 1) % 2 ^ 64) 1 false readSpaces = .ok pa' leaf' →
      exec (.burstReadStart core id) s = .next (s.setBulk { o with started := true, hold := none, bursts := o.bursts.put o.bursts.length .reading })) ∧
    (∀ seq data status, o.bursts.find? seq = some .reading →
      let b := o.burst seq
      (∀ bs, s.engRead o readSpaces 3 b.2.2.2 b.2.2.1 = .ok bs → exec (.burstReturn core id seq data status) s = .next (s.burstBorn (o.use b.2.2.2 b.2.2.1) seq bs)) ∧
      ∀ bit fl, s.engRead o readSpaces 3 b.2.2.2 b.2.2.1 = .bad bit fl →
        exec (.burstReturn core id seq data status) s = .next (s.burstFails (o.use b.2.2.2 b.2.2.1) seq bit fl)) ∧
    ∀ data status, s.bulkReady o = true → s.groveStays o.grove = true →
      (o.parts ≤ o.prog → s.engOps o = [] →
        (o.kind = .read → s.readDone o = true → exec (.bulkOpComplete core id data status) s = .next (s.bulkEnd o)) ∧
        (o.kind = .digest → o.fails = 0 → s.spCheck o.core o.grove .a (getLe o.desc 0x10 4) 64 64 false = none → exec (.bulkOpComplete core id data status) s =
          .next (((s.spWrite o.core o.grove .a (getLe o.desc 0x10 4) (sha512 o.acc)).fireGran o.core o.grove (getLe o.desc 0x10 4) 64).bulkEnd o)) ∧
        (o.kind ≠ .read → o.kind ≠ .digest → exec (.bulkOpComplete core id data status) s = .next (s.bulkEnd o))) ∧
      ∀ va bs pa leaf, o.kind ≠ .read → o.kind ≠ .digest → o.prog < o.parts → s.sectorAt o o.prog = (va, .ok bs) → va % 64 ≠ 0 ∨ o.parts = o.prog + 1 →
        s.engAt o va bs.length true readSpaces = .ok pa leaf → s.sideOf o.grove = none → s.isLocal pa = true → s.populated pa = true → s.tagFails leaf pa bs.length = false →
        ((s.launches.find? (s.bulkLaunch o)).elim false (fun la => la.isStaged) && fld leaf 7 7 == 1) = false → s.hostHolds pa bs.length = [] →
        (s.part (s.bulkPart o)).first ≠ some (1, o.id) →
        let x := (s.keyedWrite leaf pa bs).halfLine (o.on (bs.length / 32)) pa bs.length
        exec (.bulkOpComplete core id data status) s = .next (((x.1.dropSectors o.core pa bs.length).setBulk x.2).bulkRun core id data status (4 * o.parts + 1))

/-- R290, R292, R296 to R298, R438, R439: the matrix engine. A free path takes the oldest ready operation of its kind whose earlier accesses have ended and whose grove is not past its eviction's 5 us (mxlwStart, mxrunStart); a latch fills its slot with the rows and scales it reads (mxlwComplete); a run (mxrunComplete) and a zeroing (mxzeroComplete) write their rows of C and advance the version; an operation that has stalled for 1 ms is reported (matrixStall), and after 10 ms ends its launch (matrixStallTerminate). -/
def Obligations.MatrixEngineEvents : Prop :=
  ∀ (s : State) (core : Nat) (o : MatOp),
    let k := s.core core
    let begun := s.modCore core fun k => { k with matQ := k.matQ.map fun p => if p.id = o.id then { p with started := some s.tick } else p }
    (k.atWork true = none → List.find? (fun p => p.started.isNone && (p.kind == .lw) && k.matReady p && !(p.after.any s.flying) && !s.matTaken p.grove) k.matQ = some o → exec (.mxlwStart core) s = .next begun) ∧
    (k.atWork false = none → List.find? (fun p => p.started.isNone && !(p.kind == .lw) && k.matReady p && !(p.after.any s.flying) && !s.matTaken p.grove) k.matQ = some o → exec (.mxrunStart core) s = .next begun) ∧
    (∀ rows scales, k.atWork true = some o → s.latchRead core o = .ok (rows, scales) →
      let slot : WeightSlot := { grove := o.grove, fmt := getLe o.block 1 1, kpl := getLe o.block 2 1, mid := bitN (getLe o.block 3 1) 0, rows := rows, scales := scales }
      exec (.mxlwComplete core) s = .next ((s.modCore core fun k => { k with weights := k.weights.put o.slot slot }).matEnd core o)) ∧
    (∀ w t, k.atWork false = some o → k.tileOf o = some t →
      (o.kind = .run → k.weights.find? o.slot = some w → w.grove = o.grove → comboOk w.fmt (getLe o.block 1 1) (getLe o.block 2 1 == 1) = true →
        (s.runRows core o w t.coff (getLe o.block 4 2) 0).2 = none →
        exec (.mxrunComplete core) s = .next ((s.runRows core o w t.coff (getLe o.block 4 2) 0).1.bumpTile core o)) ∧
      (o.kind = .zero → exec (.mxzeroComplete core) s =
        .next (((s.modTile core o fun t => { t with status := 0 }).zeroRows core o t.coff (getLe o.block 4 2) 0).bumpTile core o))) ∧
    ∀ id, (s.stalled core id 1000000 = some o → (∀ p ∈ k.matQ, p.grove = o.grove → p.handle = o.handle → p.reported = false) →
        exec (.matrixStall core id) s = .next ((s.logRec (s.matRec core o 2 0 (s.stallRec core o 0x3001))).modCore core fun k =>
          { k with matQ := k.matQ.map fun p => if p.id = o.id then { p with reported := true } else p })) ∧
      (∀ g, s.stalled core id 10000000 = some o → s.groves.find? o.grove = some g → g.matAt + 10000000 ≤ s.tick →
        exec (.matrixStallTerminate core id) s = .next (s.terminate (s.matLaunch o) (s.matRec core o 2 3 (s.stallRec core o 0x3002))))

/-- R161, R301, R336, R447: collectives. A hop that was expected and agrees is kept (collHopReceive), under its rank, or under another key where it brings the agreement alone (the model's way of passing it, log 97); one that does not agree, or is poisoned, aborts; a hop missing for 1 ms aborts (collHopTimeout); an abort (collAbort) fails the communicator here, and tells the others when it was found here. A member whose result is there writes it, passes it down and sets its tag (collComplete). -/
def Obligations.CollectiveEvents : Prop :=
  (∀ (s : State) (id : Nat) (o : CollOp), s.coll? id = some o →
    (∀ rank data, rank ∈ s.expects o ∨ agreed rank ∈ s.expects o →
      (data.take 13 ≠ o.head → exec (.collHopReceive id rank data) s = .next (s.commAbort o.comm 1)) ∧
      (data.take 13 = o.head → data.length = 13 → exec (.collHopReceive id rank data) s = .next (s.commAbort o.comm 4)) ∧
      (data.take 13 = o.head → data.length ≠ 13 → data.length ≠ 14 → rank ∈ s.expects o →
        exec (.collHopReceive id rank data) s = .next (s.setColl { o with hops := o.hops ++ [(rank, data.drop 13)], since := s.tick })) ∧
      (data.take 13 = o.head → data.length = 14 → agreed rank ∈ s.expects o →
        exec (.collHopReceive id rank data) s = .next (s.setColl { o with hops := o.hops ++ [(agreed rank, data.drop 13)], since := s.tick }))) ∧
    (s.expects o ≠ [] → o.since + 1000000 ≤ s.tick → exec (.collHopTimeout id) s = .next (s.commAbort o.comm 2)) ∧
    (∀ bs, o.hold = none → o.started = true → s.collResult o = some bs → exec (.collComplete id) s = .next (s.collDown o bs))) ∧
  ∀ (s : State) (comm : Nat),
    (∀ r < 256, exec (.collAbort comm r) s = .next (s.commFail comm r) ∧ exec (.collAbort comm (256 + r)) s = .next (s.commAbort comm r)) ∧
    ∀ r, (s.commFail comm r).link.fenced.contains comm = true

/-- R302, R304 to R306, R309 to R311, R413, R416: the queues. A slot whose write index has passed its read index reads the packet at the read index (launchPacket): it keeps it at the head, or records 0x2004, signals its failure and passes over it. A launch packet whose signals read 0 starts a launch under the next id (launchStart); a barrier waits for its queue's launches too (barrierPacket), and it and a signal packet (signalPacket) decrement their completion signal; each first reads what it needs outside the package, at the host port or over a flow (R326), and waits until the host has given up the lines it writes (R328). A doorbell (qdoor) makes an enabled queue of the partition pending, once; a slice boundary (sliceBoundary) maps a pending queue to a free slot. -/
def Obligations.QueueEvents : Prop :=
  ∀ (s : State) (sl : Nat) (q : QSlot), s.slot? sl = some q →
    let part := descPart q.desc
    let log2 := getLe q.desc 0x18 1
    let pw := s.awayAll noCore 0x31 [(part, getLe q.desc 0x10 8, 8)]
    (∀ w b, q.head = none → s.schedRead part (getLe q.desc 0x10 8) 8 = .ok w → q.ridx < leNat w → leNat w - q.ridx ≤ 2 ^ log2 →
      s.schedRead part (getLe q.desc 0 8 + 128 * (q.ridx % 2 ^ log2)) 128 = .ok b →
      let pb := s.awayAll noCore 0x31 [(part, getLe q.desc 0 8 + 128 * (q.ridx % 2 ^ log2), 128)]
      let po := s.awayAll noCore 0x31 (s.objRanges part b)
      s.unread pw = [] → s.unread pb = [] → s.unread po = [] →
      (s.packetBad part b = none → exec (.launchPacket sl) s =
        .next (((({ s with sched := { s.sched with slots := s.sched.slots.put sl { q with head := some b } } }.watchSlot sl).unitsRead po).unitsRead pb).unitsRead pw)) ∧
      ∀ off, s.packetBad part b = some off → s.slotHeld q (getLe b 0x50 8) = [] → exec (.launchPacket sl) s =
        .next ((((((s.log part (sysRec 3 2 0x2004 0x7000 part 0 0 (q.ridx % 2 ^ 32 + 2 ^ 32 * q.qid) off)).signal part 0 (getLe b 0x50 8) true).consume sl).unitsRead po).unitsRead pb).unitsRead pw)) ∧
    (∀ w, s.unread pw = [] → s.schedRead part (getLe q.desc 0x10 8) 8 = .ok w → leNat w < q.ridx ∨ 2 ^ log2 < leNat w - q.ridx →
      exec (.launchPacket sl) s = .next ((s.queueError q.qid part 1 (leNat w)).unitsRead pw)) ∧
    (s.unread pw ≠ [] → exec (.launchPacket sl) s = .next (s.askUnits part (s.unread pw))) ∧
    (∀ b, q.head = some b → s.depsMet part b = true →
      let pd := s.awayAll noCore 0x31 (depRanges part b)
      let pl := s.awayAll noCore 0x31 (depRanges part b ++ s.objRanges part b)
      (getLe b 0 1 = 1 → s.unread pl = [] → (s.part part).frozen = false → bitN (packetOf b (descPmax q.desc)).flags 3 = false ∨ (packetOf b (descPmax q.desc)).gangTick ≤ s.tick →
        s.newLaunchId ≠ 0 → bitN (packetOf b (descPmax q.desc)).flags 3 = false ∨ s.pow.synced = true → s.slotHeld q 0 = [] → ∃ la t, exec (.launchStart sl) s = .next ((State.consume t sl).unitsRead pl) ∧ t.launches = s.launches.put s.newLaunchId la ∧
          la.pkt = packetOf b (descPmax q.desc) ∧ la.part = part ∧ la.queue = q.qid ∧ la.nextGrove = 0 ∧ la.nextIdx = 0 ∧ la.ended = false ∧
          t.sched = { s.sched with launchId := s.newLaunchId % 65535 + 1 } ∧ t.mem = s.mem ∧ t.cores = s.cores ∧ t.groves = s.groves) ∧
      (getLe b 0 1 = 2 → s.unread pd = [] → (∀ x ∈ s.launches, x.2.queue ≠ q.qid) → s.slotHeld q (getLe b 0x50 8) = [] →
        exec (.barrierPacket sl) s = .next (((s.signal part 0 (getLe b 0x50 8) false).consume sl).unitsRead pd)) ∧
      (getLe b 0 1 = 3 → s.unread pd = [] → s.slotHeld q (getLe b 0x50 8) = [] →
        exec (.signalPacket sl) s = .next (((s.signal part 0 (getLe b 0x50 8) false).consume sl).unitsRead pd))) ∧
    (∀ p qid, qid < 65536 → fld s.sched.qtbl 0 0 = 1 → queueOn (s.queueDesc qid) = true → s.sched.errs.find? qid = none → getLe (s.queueDesc qid) 0x19 1 = p →
      (∀ x ∈ s.sched.slots, x.2.qid ≠ qid) → qid ∉ s.sched.pending →
      exec (.qdoor p qid) s = .next { s with sched := { s.sched with pending := s.sched.pending ++ [qid], rung := s.sched.rung.put qid p } }) ∧
    (s.tick / s.slice ≤ s.sched.boundary / s.slice → exec .sliceBoundary s = .next s) ∧
    ∀ o : State, o.sched.slots = [] → o.sched.errs = [] → o.sched.boundary / o.slice < o.tick / o.slice →
      let ps := o.awayAll noCore 0x31 o.sliceRanges
      o.unread ps = [] →
      let u := { o with sched := { o.sched with boundary := o.tick, starved := [], cycles := [] }, cores := o.cores.map fun (x : Nat × Core) => (x.1, x.2.unreported) }
      (fld o.sched.qtbl 0 0 = 0 → exec .sliceBoundary o = .next (u.unitsRead ps)) ∧
      ∀ qid r, fld o.sched.qtbl 0 0 = 1 → o.sched.pending = [qid] →
        let d := u.queueDesc qid
        queueOn d = true → descBad d = false → o.sched.rung.getD qid (descPart d % 16) = descPart d % 16 → u.queueVaBad d = none → u.schedRead (descPart d % 16) (getLe d 8 8) 8 = .ok r →
        exec .sliceBoundary o = .next (({ u with sched := { u.sched with
          slots := [(0, { qid := qid, desc := d, since := o.tick, ridx := leNat r, head := none })], pending := [],
          mapped := o.sched.mapped.filter (· != qid) ++ [qid] } }.watchSlot 0).unitsRead ps)

/-- R15, R21, R315, R318 to R321, R412, R460, R463: groves. The next grove of a launch is placed where its windows, allocations and records fit (groveAdmission); a waiting launch chooses victims, unless the evictions in progress make room enough, and stops them, and each eviction ends when nothing of it is in flight and its save fits the caldera, else it is undone and the partition freezes (evict), is reported after 40 µs (evictionOverBound) and ends its launch after 1 ms (evictionAbandon); an evicted grove comes back where it fits (groveRestore); a grove in which nothing is left leaves its core and its launch (groveRetirement); a twin pair whose copies have arrived and agree releases the leading half of its compare buffer, and with nothing there to release its checkpoint is complete (checkpointComplete). -/
def Obligations.GroveEvents : Prop :=
  (∀ (s : State) (launch : Nat) (la : Launch), s.launches.find? launch = some la → la.hasNext = true →
    ((∀ x ∈ s.launches, x.2.hasNext = true → x.2.turn < la.turn → s.placeFor x.1 = none) → ∀ c t, s.placeFor launch = some (c, t) →
      exec (.groveAdmission launch) s = .next (s.placeNext launch la c t)) ∧
    (∀ vs, (s.part la.part).frozen = false → (s.afterEvictions launch).placeFor launch = none → (s.afterEvictions launch).victimSet launch la = some vs →
      exec (.evict launch 1) s = .next (((vs.flatMap s.pairOf).eraseDups).foldl (fun s k => s.evictBegin launch k) s)) ∧
    ∀ step, 2 ≤ step → exec (.evict launch step) s = .next ((s.evictedFor launch).foldl (fun s k => (s.takeMats k).evictTurn k) s)) ∧
  (∀ (s : State) (key : Nat) (g : Grove), s.groves.find? key = some g →
    let part := (s.launches.find? g.launch).elim 0 fun la => la.part
    (∀ t0, g.evicting = some t0 →
      (s.evictStep key g = 6 → s.frozenL g.launch = false →
        let stays := s.staysResident g.evictFor g && !s.pow.outOfService.contains (standOf g.core)
        (s.calFits part (s.saveOf key g stays).bytes = true → s.evictTurn key = s.evictEnd key g stays) ∧
        (s.calFits part (s.saveOf key g stays).bytes = false → s.evictTurn key = (s.evictUndo key g).freeze g.core part ((s.strandsOf key).headD 0) 0)) ∧
      (t0 + 40000 ≤ s.tick → g.evictSeen = false → exec (.evictionOverBound key) s =
        .next ((s.logRec (s.evictRec key g 3 1 0x2007)).modGrove key fun g => { g with evictSeen := true })) ∧
      (t0 + 1000000 ≤ s.tick → exec (.evictionAbandon key) s = .next (s.terminate g.launch (s.evictRec key g 1 3 0x2008)))) ∧
    (g.twin = none →
      (∀ core, s.takesBack key core = true → s.framesHeld key core = [] → exec (.groveRestore key core) s = .next (s.restoreOn key core)) ∧
      (g.placed = true → s.groveEmpty key = true → exec (.groveRetirement key) s = .next ((s.removeGrove key).endLaunch g.launch) ∧
        (s.removeGrove key).groves = s.groves.del key)) ∧
    ∀ w, s.twins.find? key = some w → s.allArrived key w = true → s.quiet key = true → s.quiet w.trail = true → s.pairGens key w = none →
      s.injects g (w.ckpt + 1) = false → firstMismatch (s.sides w key false) (s.sides w w.trail true) = none → w.releasing = 0 →
      exec (.checkpointComplete key) s = .next (s.release key 1 w) ∧
      ∀ h, w.lead = [] → s.groves.find? w.trail = some h → g.placed = true → h.placed = true → g.evicting = none → h.evicting = none →
        let u := { s with twins := s.twins.adj key fun w => { w with releasing := 1 } }
        u.releasingOps key = [] → exec (.checkpointComplete key) s = .next (u.ckptDone key { w with releasing := 1 }))

/-- R66, R126, R131 to R133, R375, R409: the sweeps end and restart their counters at 1, the register sweep with every slot that no resident cohort owns cleared (registerSweepDone, spWrapSweepDone); the expiry scan marks the granules whose age was 256 or more at the multiple of 512 µs (expiryScan); a granule is renewed or refreshed in place when its age asks for it (sweeperRenew, l2ClassRefresh); the watchdog records a segment that has reached its limit and, if it rotates, takes the cohort out of its slot until it can return (watchdogExpiry, rotatedImageRestore); a stopped image whose frame can be written is delivered to its handler (trapDelivery). -/
def Obligations.SweepAndTrapEvents : Prop :=
  ∀ (s : State) (core : Nat),
    let k := s.core core
    (k.regSweep = true → exec (.registerSweepDone core) s = .next (s.modCore core fun k =>
      { k with regSweep := false, gen := 1, regFile := k.regFile.filter fun x => k.slots.any fun c => c.2.rslots.contains x.1 })) ∧
    (k.spSweep = true → exec (.spWrapSweepDone core) s =
      .next ((s.modCore core fun k => { k with spSweep := false, sweptAt := s.tick, spGen := 1, spW := s.kept core .w, spA := s.kept core .a, spC := s.kept core .c }).firePlain
        core fun w => w == .sweepDone)) ∧
    (k.scanTick / 512000 < s.tick / 512000 →
      let mark := fun (x : Nat × Granule) => (x.1, if 256 + s.tick % 512000 / 4000 ≤ (s.T + 512 - x.2.wtick) % 512 then { x.2 with exp := true } else x.2)
      exec (.expiryScan core) s = .next (s.setCore core { k with scanTick := s.tick, spW := k.spW.map mark, spA := k.spA.map mark, spC := k.spC.map mark })) ∧
    (∀ b n a, s.ownerOf core b n = some a →
      let q := k.gran b n
      (a.ar = true → a.cls.ticks / 2 ≤ (s.T + 512 - q.wtick) % 512 →
        exec (.sweeperRenew core b n) s = .next (s.modCore core fun k => k.setGran b n (renewed s.T a q))) ∧
      (s.lcmax (dieOf core) = 1 → a.cls = .l2 → q.gen = a.gen → ageOk s.T q a.cls = true → 64 ≤ (s.T + 512 - q.refreshed) % 512 →
        exec (.l2ClassRefresh core b n) s = .next (s.modCore core fun k => k.setGran b n { q with refreshed := s.T }))) ∧
    (∀ slot co, s.cohort? core slot = some co → co.wdogSeen = false →
      let part := (s.launches.find? co.launch).elim 0 fun la => la.part
      let us := (s.tick - co.segTick) / 1000
      let pc := (co.lanes.map fun x => x.2.pc).foldl (fun a p => if p < a then p else a) (BitVec.allOnes 48)
      let strand := (co.lanes.head?.map fun x => x.2.strand).getD 0
      let rot := fld (s.part part).wdog 1 0 == 1
      let rec_ := { (s.strandRec strand 3 0 core 0 pc { code := 0x2009, akind := 0, addr := 0, gen := 0, d0 := (s.tick - co.born) / 1000, d1 := rot.toNat }) with strand := 0 }
      (s.part part).frozen = false → fld (s.part part).wdog 31 8 ≠ 0 → fld (s.part part).wdog 31 8 ≤ us →
        (rot = false → exec (.watchdogExpiry core slot) s = .next ((s.logRec rec_).setCohort core slot { co with wdogSeen := true })) ∧
        (rot = true → s.calRoom part (s.imageRoom (s.rotated core co pc)) = true →
          exec (.watchdogExpiry core slot) s = .next ((s.logRec rec_).rotate core slot part co pc)) ∧
        (rot = true → s.calRoom part (s.imageRoom (s.rotated core co pc)) = false → exec (.watchdogExpiry core slot) s = .next (s.freeze core part strand pc))) ∧
    (∀ part st, List.find? (fun st => s.canReturn st) (s.part part).rotated = some st →
      exec (.rotatedImageRestore part) s = .next ((s.modPart part fun q => { q with rotated := q.rotated.erase st }).resume st)) ∧
    ∀ launch la, s.launches.find? launch = some la → s.frozenL launch = false →
      (∀ st, s.deliverable la false = some st → exec (.trapDelivery launch) s = .next (s.deliver launch st)) ∧
      (∀ st, s.deliverable la false = none → s.deliverable la true = some st → exec (.trapDelivery launch) s = .next (s.deliver launch st)) ∧
      (s.deliverable la false = none → s.deliverable la true = none → exec (.trapDelivery launch) s = .next s)

/-- R5, R6, R136, R323, R324, R350, R369, R370, R385 to R387, R399, R406, R434: the registers of a partition. PCAL takes a write that keeps its base and does not shrink it, or any write while the caldera is empty, and a larger one thaws the partition (pcalWrite); FLOGCFG starts the ring again, with the size written where it is one of those allowed (flogcfgWrite), and FLOGTAIL takes a value up to HEAD (flogtailWrite); KILL terminates every launch of the partition and thaws it (pfrzKill). A write by register (registerWrite) reaches the register that its requester names by number, or a function by its offset in BAR0; a requester that does not reach a register, and any before the device serves, writes nothing. And the debug commands (haltstage, releaseStage, listImages, readimg, writeimg, debugStep, resumeImage, stalemap, discardImage, readsp). One on a launch or an image that the partition does not hold is refused; on one it holds, it does what it says and DBGSTS reads done, or busy while a step is under way. An edited image is restored as edited, or refused with its reason. -/
def Obligations.PartitionRegistersAndDebug : Prop :=
  (∀ (s : State) (p : Nat) (v : DWord),
    (let old := (s.part p).pcal
     let size := if 64 < fld v 6 0 then fld old 6 0 else fld v 6 0
     let new := putFld (putFld 0 51 30 (fld v 51 30)) 6 0 size
     let u := s.modPart p fun q => { q with pcal := new }
     ((fld v 51 30 = fld old 51 30 ∧ fld old 6 0 ≤ size) ∨ s.calBytes p = 0 →
       exec (.pcalWrite p v) s = .next (if fld old 6 0 < size then u.thaw p 1 else u) ∧ (u.part p).pcal = new ∧ ((u.thaw p 1).part p).pcal = new) ∧
     (¬((fld v 51 30 = fld old 51 30 ∧ fld old 6 0 ≤ size) ∨ s.calBytes p = 0) → exec (.pcalWrite p v) s = .next s)) ∧
    (let n := fld v 4 0
     let size := if n = 0 ∨ (6 ≤ n ∧ n ≤ 16) then n else fld (s.part p).flogcfg 4 0
     exec (.flogcfgWrite p v) s = .next (s.modPart p fun q =>
       { q with flogcfg := putFld (putFld 0 51 12 (fld v 51 12)) 4 0 size, head := 0, tail := 0, drops := 0 })) ∧
    (let q := s.part p
     let n := fld v 31 0
     ((n + 2 ^ 32 - q.tail) % 2 ^ 32 ≤ (q.head + 2 ^ 32 - q.tail) % 2 ^ 32 →
       exec (.flogtailWrite p v) s = .next (s.modPart p fun q => { q with tail := n, drops := 0 })) ∧
     ((q.head + 2 ^ 32 - q.tail) % 2 ^ 32 < (n + 2 ^ 32 - q.tail) % 2 ^ 32 → exec (.flogtailWrite p v) s = .next (s.modPart p fun q => q))) ∧
    (let ls := (s.launches.filter fun x => x.2.part == p && !x.2.ended).map Prod.fst
     let t := (ls.foldl (fun s l => s.terminate l { (sysRec 3 3 0x2002 0x7000 p 0 0 (fld (s.part p).pcal 6 0) 0) with launch := l }) s).thaw p 2
     exec (.pfrzKill p) s = .next t ∧ (t.part p).frozen = false ∧ ∀ l la, t.launches.find? l = some la → la.part = p → la.ended = true) ∧
    (∀ who n,
      let m := if 2 ^ 25 ≤ n then s.bar0Reg (who - 0x20) (n - 2 ^ 25) else n
      (s.serves = false ∨ s.devReg who m = none → exec (.registerWrite who n v) s = .next s) ∧
      (∀ p r, s.serves = true → s.devReg who m = some (.part p r) → exec (.registerWrite who n v) s = .next (s.writeP who p r v)) ∧
      (∀ r, s.serves = true → s.devReg who m = some (.pkg r) → exec (.registerWrite who n v) s = .next (s.writeG r v))) ∧
    ∀ who < 16, ∀ n, n < 4096 ∨ n / 4096 ≠ who + 1 → s.devReg who n = none) ∧
  ∀ (s : State) (p id arg : Nat),
    (∀ launch la, s.launches.find? launch = some la →
      (la.part ≠ p → exec (.haltstage p launch arg) s = .next (s.dbgRefuse p 0) ∧ exec (.releaseStage p launch arg) s = .next (s.dbgRefuse p 0)) ∧
      (la.part = p → exec (.haltstage p launch arg) s =
        .next (((((s.modLaunch launch fun la => la.holdStages arg).holdRecords launch).haltHeld launch (arg % 16)).haltEvicted p launch (arg % 16)).dbgDone p 0)) ∧
      (la.part = p →
        let free := fun (r : Record) => if r.launch = launch && bitN arg r.stage then { r with held := false } else r
        let a := s.modLaunch launch fun la => { la with held := la.held.filter fun x => !bitN arg x.1 }
        let b := { a with cores := a.cores.map fun (x : Nat × Core) => (x.1, { x.2 with records := x.2.records.map fun (y : Nat × Record) => (y.1, free y.2) }) }
        exec (.releaseStage p launch arg) s = .next (((b.part p).halted.foldl (fun (s : State) (x : Nat × Stopped) =>
          if x.2.cohort.launch == launch && bitN arg x.2.cohort.stage then s.restoreHalted p x.1 x.2 false else s) b).dbgDone p 0))) ∧
    (let hs := (s.part p).halted.take 512
     let entry := fun (x : Nat × Stopped) =>
       leBytes 8 (x.1 + x.2.cohort.launch * 2 ^ 16 + x.2.cohort.stage * 2 ^ 32 + (if x.2.cohort.kind = .handler then 2 ^ 34 else 0) + x.2.code * 2 ^ 48)
     exec (.listImages p) s = .next ((s.modPart p fun q => { q with dbgdata := padTo 4096 (hs.flatMap entry) }).dbgDone p hs.length)) ∧
    ((s.part p).halted.find? id = none → ∀ e ∈ [Instr.readimg p id arg, .writeimg p id arg, .debugStep p id, .resumeImage p id, .stalemap p id, .discardImage p id],
      exec e s = .next (s.dbgRefuse p 0)) ∧
    (∀ st, (s.part p).halted.find? id = some st →
      (st.cnts = none → ∀ e ∈ [(Instr.readimg p id arg, 4, arg), (.writeimg p id arg, 5, arg), (.stalemap p id, 8, 0)],
        exec e.1 s = .next ((s.dbg p 1 0).modPart p fun q => { q with dbgwait := some (e.2.1, id, e.2.2) })) ∧
      (st.cnts ≠ none → arg % 4096 = 0 →
        exec (.readimg p id arg) s = .next ((s.modPart p fun q => { q with dbgdata := padTo 4096 (((s.haltedBytes st).drop arg).take 4096) }).dbgDone p 0)) ∧
      (st.cnts ≠ none → arg % 4096 ≠ 0 → exec (.readimg p id arg) s = .next (s.dbgRefuse p 0)) ∧
      (st.cnts ≠ none →
        let old := padTo st.cohort.imageMax (s.haltedBytes st)
        ∃ new, exec (.writeimg p id arg) s = .next ((s.modPart p fun q => { q with halted := q.halted.put id { st with edit := new } }).dbgDone p 0) ∧
          new.length = old.length ∧ (∀ i, i < arg ∨ arg + 4096 ≤ i ∨ imageRO (st.cohort.kind == .handler) i = true → new[i]? = old[i]?) ∧
          ∀ i, arg ≤ i → i < arg + 4096 → i < new.length → imageRO (st.cohort.kind == .handler) i = false → i < 0x100 ∨ 0x180 ≤ i → new[i]? = some ((s.part p).dbgdata.getD (i - arg) 0)) ∧
      (s.isHeld st.cohort = true → exec (.debugStep p id) s = .next (s.dbgRefuse p 0) ∧ exec (.resumeImage p id) s = .next (s.dbgRefuse p 0)) ∧
      (s.isHeld st.cohort = false →
        let back := fun (t : State) (co : Cohort) (ended : List Nat) =>
          let u := t.modPart p fun q => { q with halted := q.halted.del id }
          let fin := fun (v : State) => if ended = [] then v else v.closeFrames st.cohort.launch
          exec (.debugStep p id) s = .next ((fin (u.dbg p 1 0)).resume { st with cohort := { co with single := some id }, edit := [] }) ∧
          exec (.resumeImage p id) s = .next ((fin (u.dbgDone p 0)).resume { st with cohort := { co with single := none }, edit := [] })
        (st.edit = [] → back s st.cohort []) ∧
        (st.edit ≠ [] → imageRefused st st.edit = none →
          let e := imageCohort st st.edit
          back ((e.2.foldl (fun s t => s.endStrand t) s).imageIdentity st.core e.1 st.edit) e.1 e.2) ∧
        ∀ reason d, st.edit ≠ [] → imageRefused st st.edit = some (reason, d) →
          exec (.debugStep p id) s = .next (s.dbgRefuse p reason) ∧ exec (.resumeImage p id) s = .next (s.dbgRefuse p reason)) ∧
      (st.cnts ≠ none → exec (.stalemap p id) s = .next ((s.modPart p fun q => { q with dbgdata := padTo 4096 (leBytes 64 (maskOf st.stale)) }).dbgDone p 0)) ∧
      exec (.discardImage p id) s = .next ((((st.cohort.lanes.foldl (fun s x => s.endStrand x.2.strand) s).modPart p fun q =>
        { q with halted := q.halted.del id }).closeFrames st.cohort.launch).dbgDone p 0)) ∧
    ∀ key g la b, List.find? (fun x : Nat × Grove => x.2.launch == id && x.2.idx == getLe (s.part p).dbgdata 0 4 && x.2.placed) s.groves = some (key, g) →
      s.launches.find? id = some la → la.part = p → Buf.dec (getLe (s.part p).dbgdata 4 1) = b → getLe (s.part p).dbgdata 4 1 ≤ 2 →
      let off := getLe (s.part p).dbgdata 5 4
      let len := getLe (s.part p).dbgdata 9 4
      let raw := bitN arg 0
      off % 32 = 0 → len % 32 = 0 → len ≤ 2048 → (raw = true → (s.part p).forensic = true) →
      ∃ bits, exec (.readsp p id arg) s = .next ((s.modPart p fun q =>
        { q with dbgdata := padTo 4096 (((List.range (len / 32)).map fun i => s.spGran g.core key g b raw (off + 32 * i)).flatMap Prod.fst ++ bits) }).dbgDone p 0)

/-- R325, R328, R349, R448 to R452: the host port. An inbound write (hostInboundWrite) that passes its checks is performed, a read (hostInboundRead) is completed with memory's bytes (to another package, or after a write that is still on its way, each becomes an operation that follows those writes), and a refused one is recorded, a read completed with an error; a CXL.mem write (cxlMemRequest) is performed and a read lets the host hold the line; a snoop's answer (biSnoopResponse) frees the line; a missing answer (biSnoopTimeout), a missing completion (outboundHostTimeout) and an AER error (aerError) are reported; the link goes down (hostLinkDown) and comes back (hotReset); a function level reset (vfFlr, pfFlr) unmaps the partition's queues and terminates its launches; an SPDM request (spdmRequest) is answered with the measurement it names, in the recovery state for index 1 alone. That the signature is a free value and the layout of an answer are the model's (log 39). -/
def Obligations.HostEvents : Prop :=
  (∀ (s : State) (index : Nat), index ≤ 5 → s.trust.recovery = false ∨ index = 1 → ∃ t v, exec (.spdmRequest index) s = .next t ∧
    t.host.completions = s.host.completions ++ [(0x10000 + index, 0, s.measurement index ++ leBytes 512 v)] ∧ t.mem = s.mem ∧ t.cores = s.cores) ∧
  (∀ (s : State) (index : Nat), s.trust.recovery = true → index ≠ 1 → exec (.spdmRequest index) s = .next s) ∧
  (∀ s : State, s.measurement 4 = sha512 s.configBytes ∧ s.measurement 5 = (List.range 16).flatMap fun p => (s.part p).chain) ∧
  ∀ (s : State) (f off : Nat), f < 16 → s.serves = true → s.host.linkUp = true →
    (∀ data, data ≠ [] →
      (∀ r pa, s.inbound f off data.length .write = .bad r pa → exec (.hostInboundWrite f off data) s = .next (s.inboundRec f r off pa)) ∧
      ∀ pa leaf, s.inbound f off data.length .write = .ok pa leaf → (s.isLocal pa = true → s.partialTag leaf pa data.length = false) →
        (s.remote pa = false → s.hostWrites f = [] → exec (.hostInboundWrite f off data) s = .next (s.anyWrite (s.funcPart f) pa leaf data)) ∧
        (s.remote pa = true ∨ s.hostWrites f ≠ [] → exec (.hostInboundWrite f off data) s = .next (s.hostStore f (s.winAt f off) pa leaf data))) ∧
    (∀ len tag,
      (∀ r pa, s.inbound f off len .read = .bad r pa →
        exec (.hostInboundRead f 2 off len tag) s = .next ((s.inboundRec f r off pa).complete tag (if r = 3 then 4 else 1) [])) ∧
      (∀ pa leaf, s.inbound f off len .read = .ok pa leaf → s.isLocal pa = true → s.remote pa = false → s.hostWrites f = [] → s.poisonAt pa len = none → s.tagFails leaf pa len = false →
        exec (.hostInboundRead f 2 off len tag) s = .next (s.complete tag 0 (s.readAs leaf pa len))) ∧
      (∀ pa leaf, s.inbound f off len .read = .ok pa leaf → s.isLocal pa = true → s.remote pa = false → s.hostWrites f = [] → s.poisonAt pa len ≠ none →
        exec (.hostInboundRead f 2 off len tag) s = .next (s.complete tag 256 (s.readAs leaf pa len))) ∧
      (∀ pa leaf, s.inbound f off len .read = .ok pa leaf → (s.isLocal pa = true → s.tagFails leaf pa len = false) → s.remote pa = true ∨ s.hostWrites f ≠ [] →
        exec (.hostInboundRead f 2 off len tag) s = .next (s.hostFetch f (s.winAt f off) pa leaf len tag)) ∧
      exec (.hostInboundRead f 0 off len tag) s = .next (s.complete tag 0 (s.bar0Read f off len))) ∧
    (∀ tag st bs, s.complete tag st bs = { s with host := { s.host with completions := s.host.completions ++ [(tag, st, bs)] } }) ∧
    (∀ addr data, s.host.cxl = true → addr < 2 ^ 41 → s.populated addr = true →
      (s.accessReason 0x20 (64 * (addr / 64)) 64 .write 0 = none →
        exec (.cxlMemRequest true addr data) s = .next ((s.anyWrite 0 (64 * (addr / 64)) 0 (padTo 64 (data.take 64))).complete 0 0 [])) ∧
      (s.accessReason 0x20 (64 * (addr / 64)) 64 .read 0 = none → s.poisonAt (64 * (addr / 64)) 64 = none →
        ∃ t, exec (.cxlMemRequest false addr data) s = .next (State.complete t 0 0 (s.readAs 0 (64 * (addr / 64)) 64)) ∧ addr / 64 ∈ t.host.lines ∧ t.mem = s.mem)) ∧
    (∀ line, exec (.biSnoopResponse line) s = .next { s with
        host := { s.host with lines := s.host.lines.filter (· != line), snoops := s.host.snoops.filter fun x => x.1 != line } } ∧
      ∀ t0, s.host.snoops = [(line, t0, false)] → t0 + 10000000 ≤ s.tick →
        exec (.biSnoopTimeout line) s = .next ({ s with host := { s.host with snoops := [(line, t0, true)] } }.log 0 (sysRec 3 2 0x300D 0x6000 0 2 (64 * line) 2 0))) ∧
    (∀ id o, s.readyOp id = some o → hostLoad o = true → o.born + 10000000 ≤ s.tick → exec (.outboundHostTimeout id) s = .next (s.landLoad o [] 4)) ∧
    ((∀ o ∈ s.ops, hostLoad o = false) → exec .hostLinkDown s = .next { s with host := { s.host with linkUp := false, lines := [], snoops := [] } }) ∧
    exec .hotReset s = .next { s with host := { s.host with linkUp := true } } ∧
    (∀ req bits,
      let now := s.host.aer.getD f 0 ||| bits
      let t := { s with host := { s.host with aer := s.host.aer.put f now } }
      let r := fun (sev : Nat) => sysRec 3 sev 0x300A 0x6000 (s.funcPart f) 0 0 now.toNat (req % 65536)
      exec (.aerError f 0 req bits) s = .next (t.logOnce 0x100 (s.funcPart f) (r 1)) ∧
      exec (.aerError f 1 req bits) s = .next (t.log (s.funcPart f) (r 2)) ∧
      exec (.aerError f 2 req bits) s = .next ((t.log (s.funcPart f) (r 5)).linkDown)) ∧
    (f ≠ 0 → let t := s.flr (s.funcPart f)
      exec (.vfFlr f) s = .next { t with host := { t.host with funcHeld := t.host.funcHeld.del f, aer := t.host.aer.del f } }) ∧
    let t := (List.range 16).foldl (fun s p => s.flr p) s
    exec .pfFlr s = .next { t with host := { t.host with funcHeld := [], aer := [] } }

/-- R329 to R334, R440 to R446: the Chaeri ports and flows. A flit (flitReceive) whose CRC fails asks for a replay, one in LSEQ order joins the buffer of its virtual channel, any other data flit is discarded and one replay asked for; a control flit is acted on and not kept; a replay sends again, in order, the flits from the LSEQ asked for, and the eighth in a row from one LSEQ takes the port down; a port sends a data flit under the next LSEQ and keeps it. A port without a flit for 10 µs (portRxTimeout) or with a lost lane (laneLoss) delivers what it has received and goes down, and comes up again on 8, 4 or 2 lanes (portRetrainDone); an ordered flow with a gap for 100 µs is broken and asks its source for a break (flowGapTimeout); a break starts the flow again at FSEQ 0 (breakMessage), and what a broken flow without a route holds fails after 50 µs (noRouteTimeout); a request without an answer is sent again or fails (remoteResponseTimeout); a remote atomic (remoteAtomicRequest) waits while the host holds its line, and is performed once, its result kept under its OPID, and refused where the OPID is older than the window. -/
def Obligations.LinkEvents : Prop :=
  ∀ (s : State) (n : Nat),
    let p := s.port n
    let heard := s.setPort n { p with lastRx := s.tick }
    (∀ flit : List Byte, p.up = true → flit.length = 256 →
      let w := getLe flit 0 8
      let vc := bitsN w 37 36
      let crc := crc64 0 (flit.take 248) = BitVec.ofNat 64 (getLe flit 248 8)
      let payload := (flit.drop 8).take 240
      let p' := { p with lastRx := s.tick, replay := p.replay.filter fun m => decide (2048 ≤ (bitsN w 51 40 + 4096 - m.1) % 4096) }
      let acked := heard.setPort n p'
      let asked := p.replays = 0 ∧ (bitsN w 63 52 + 4096 - p.rxSeq) % 4096 < 2048
      (¬crc → exec (.flitReceive n flit) s = .next (heard.replayAsked n)) ∧
      (crc → bitsN w 39 38 = 2 → exec (.flitReceive n flit) s = .next (acked.controlled n payload)) ∧
      (crc → bitsN w 39 38 ≠ 1 → bitsN w 39 38 ≠ 2 → exec (.flitReceive n flit) s = .next acked) ∧
      (crc → bitsN w 39 38 = 1 → bitsN w 63 52 ≠ p.rxSeq ∨ 1024 ≤ p.held vc →
        (asked → exec (.flitReceive n flit) s = .next (acked.replayAsked n)) ∧ (¬asked → exec (.flitReceive n flit) s = .next acked)) ∧
      (crc → bitsN w 39 38 = 1 → bitsN w 63 52 = p.rxSeq → p.held vc < 1024 → exec (.flitReceive n flit) s =
        .next ((acked.setPort n { p' with rxSeq := (bitsN w 63 52 + 1) % 4096, replays := 0, order := p.order ++ [vc], rx := p.rx.put vc (p.rx.getD vc [] ++ [payload]) }).flowControl n vc))) ∧
    (p.replays < 7 → s.replayAsked n = ((s.countPort n 47 32).setPort n { p with replays := p.replays + 1 }).control n 1 p.rxSeq) ∧
    (7 ≤ p.replays → s.replayAsked n = (s.countPort n 47 32).portDown n 1) ∧
    (∀ lseq,
      (p.asks.1 ≠ lseq ∨ p.asks.2 < 7 → (s.resend n lseq).link.wire =
        s.link.wire ++ (p.replay.filter fun m => decide ((m.1 + 4096 - lseq) % 4096 < 2048)).map fun m => (n, m.2.1)) ∧
      (p.asks.1 = lseq → 7 ≤ p.asks.2 → s.resend n lseq = (s.countPort n 47 32).portDown n 1)) ∧
    (∀ vc, (512 < p.held vc → vc ∉ p.stopped → s.flowControl n vc = (s.setPort n { p with stopped := p.stopped ++ [vc] }).control n 2 vc) ∧
      (p.held vc ≤ 256 → vc ∈ p.stopped → s.flowControl n vc = (s.setPort n { p with stopped := p.stopped.filter (· != vc) }).control n 3 vc)) ∧
    (∀ vc, p.up = true → p.replay.length < 512 → vcOrder.find? (fun vc => !p.xoff.contains vc && !(p.txq.getD vc []).isEmpty) = some vc →
      let f := flit p.txSeq p.ack 1 vc (packMsgs 240 (p.txq.getD vc [])).1
      (s.portSend n).link.wire = s.link.wire ++ [(n, f)] ∧ ((s.portSend n).port n).txSeq = (p.txSeq + 1) % 4096 ∧
        ∃ flows, ((s.portSend n).port n).replay = p.replay ++ [(p.txSeq, f, flows)]) ∧
    (p.lastRx + 10000 ≤ s.tick → exec (.portRxTimeout n) s = .next (s.portDown n 2)) ∧
    exec (.laneLoss n) s = .next (s.portDown n 3) ∧
    (∀ cause, p.up = true →
      let e := s.portEmpty n p.order.length
      let q := e.port n
      let down := ((e.setPort n { Port.reset with cause := cause, lastRx := q.lastRx }).countPort n 23 16).portRec n 2 cause 0
      q.txq = [] → (q.replay = [] → s.portDown n cause = down) ∧ (∀ l f k, q.replay = [(l, f, [k])] → s.portDown n cause = down.breakFlow k)) ∧
    (∀ q, s.link.ports.find? n = some q → q.up = false → q.retrains < 3 →
      let t := s.countPort n 31 24
      let lanes := [8, 4, 2].getD q.retrains 2
      exec (.portRetrainDone n true) s =
        .next ((t.setPort n { Port.reset with up := true, lanes := lanes, cause := q.cause, lastRx := s.tick }).portRec n 1 q.cause lanes) ∧
      exec (.portRetrainDone n false) s = .next (t.setPort n { q with retrains := q.retrains + 1 })) ∧
    (∀ t0, flowOut n = false → flowOrd n = 1 → (s.flow n).broken = false → (s.flow n).gapSince = some t0 → t0 + 100000 ≤ s.tick →
      exec (.flowGapTimeout n) s =
        .next (((s.setFlow n { s.flow n with broken := true, since := s.tick }).post (flowPkg n) 3 1 0 7 0 (leBytes 8 n)).breakColls n)) ∧
    (∀ fseq, (flowOut n = true → s.canBreak n = true → exec (.breakMessage n fseq) s = .next (s.sourceBreak n fseq)) ∧
      (flowOut n = false → exec (.breakMessage n fseq) s = .next (s.flowEnds n))) ∧
    (∀ pkg, s.routeTo pkg = [] → (∀ i < 8, (s.flow (txFlow pkg (i / 2) (i % 2))).broken = false) → exec (.noRouteTimeout pkg) s = .next s) ∧
    (∀ pkg o, s.routeTo pkg = [] → s.opsTo pkg = [o] → (∀ i < 8, (s.flow (txFlow pkg (i / 2) (i % 2))).broken = true ∧ (s.flow (txFlow pkg (i / 2) (i % 2))).since + 50000 ≤ s.tick) →
      exec (.noRouteTimeout pkg) s = .next ((((List.range 8).map fun i => txFlow pkg (i / 2) (i % 2)).foldl
        (fun s n => s.setFlow n { s.flow n with held := [] }) s).failRemote o 2)) ∧
    (∀ id o, s.readyOp id = some o → s.overdue o = true → s.flowHeld o = false → s.takesForward o = false → o.home = false →
      (o.kind = .load ∨ o.rt = true → o.resends < 4 → exec (.remoteResponseTimeout id) s =
        .next ((s.setOp { o with resends := o.resends + 1 }).sendRequest { o with resends := o.resends + 1 })) ∧
      (o.kind = .load ∨ o.rt = true → 4 ≤ o.resends → exec (.remoteResponseTimeout id) s = .next (s.failRemote o 4)) ∧
      ((o.kind = .store ∧ o.isSignal = false) ∨ o.kind = .freset → o.rt = false → exec (.remoteResponseTimeout id) s = .next (s.failRemote o 4)) ∧
      (o.kind ≠ .load → o.rt = false → (o.kind ≠ .store ∨ o.isSignal = true) → o.kind ≠ .freset → exec (.remoteResponseTimeout id) s = .next (s.failRemote o 100))) ∧
    ∀ opid part pa op size key token data cmp, flowOut n = false →
      let answer := fun (t : State) status bs => t.respond (flowPkg n) (part % 16) opid token status bs
      let seen := if op = 18 then [] else s.window n
      let keep := fun (t : State) old => if op = 18 then t else t.keepOpid n opid old
      (s.hostHolds pa size ≠ [] → ∃ m, exec (.remoteAtomicRequest n opid part pa op size key token data cmp) s =
        .next { s.snoop (s.hostHolds pa size) with link := { s.link with waiting := s.link.waiting ++ [m] } }) ∧
      (∀ e, s.hostHolds pa size = [] → List.find? (fun e => e.2.1 == opid) seen = some e →
        exec (.remoteAtomicRequest n opid part pa op size key token data cmp) s = .next (answer s 0 e.2.2)) ∧
      ∀ kind, s.hostHolds pa size = [] → List.find? (fun e => e.2.1 == opid) seen = none → atomKind op = some kind →
        (∀ e, seen.head? = some e → opidOlder opid e.2.1 = true →
          exec (.remoteAtomicRequest n opid part pa op size key token data cmp) s = .next (answer s 101 [])) ∧
        ∀ old, (∀ e, seen.head? = some e → opidOlder opid e.2.1 = false) →
          s.isLocal pa = true → s.peerAdmits (part % 16) pa size .atomic key = true → s.peerRead pa size key = (0, old) →
          (∀ bs r, (remoteOp kind pa size (data.take size) (cmp.take size)).atomStep old = .ok (some bs, r) →
            exec (.remoteAtomicRequest n opid part pa op size key token data cmp) s = .next (answer (keep (s.keyedWrite (keyLeaf key) pa bs) old) 0 old)) ∧
          ∀ r, (remoteOp kind pa size (data.take size) (cmp.take size)).atomStep old = .ok (none, r) →
            exec (.remoteAtomicRequest n opid part pa op size key token data cmp) s = .next (answer (keep s old) 0 old)

/-- R350, R352 to R359: power, clock, temperature and time. Power good (powerGood) starts the machine and a package reset (mgmtPackageReset) starts it again with memory as it was; a boot that failed leaves no key, slot or port; powerRemoved loses everything; D3hot is entered (d3hotEntry) only without launches and left (d3hotExit) with empty scratchpads; a stand without groves for 50 µs is gated (standGate); the clock falls by 100 MHz, not below 900, when a limit is passed (powerSample) or a die is above 100 °C (thermalReport), and rises after 200 µs below 95% of both limits (clockRaise); %lcmax falls above 85 °C and rises after 1 ms at or below 80 °C; above 105 °C every ring has its record and the package is reset (thermalTrip); a boot's step 8 comes when its time has passed, and the device serves nothing before it; a timing message (timingMessage) never moves the time back, and only the first, before step 8, moves it on, but not on the time master; without one for 10 ms synchronisation is lost (timeSyncLost); a package exchanges its time base with the lowest package every 100 µs (timeBaseExchange). -/
def Obligations.PowerEvents : Prop :=
  ∀ (s : State) (b : Boot),
    (s.pow.state = .off → exec (.powerGood b) s = .next (s.boot b) ∧ exec (.mgmtPackageReset b) s = .next s) ∧
    (s.pow.state ≠ .off → exec (.powerGood b) s = .next s ∧ exec (.mgmtPackageReset b) s = .next (s.packageReset b) ∧ (s.packageReset b).mem = s.mem) ∧
    (let t := s.boot b
     t.tick = 0 ∧ t.mem = [] ∧ t.launches = [] ∧ t.cores = [] ∧ t.parts = [] ∧ t.pow.state = .run ∧ t.trust.recovery = b.failed ∧
      (b.failed = true → t.trust.keys = [] ∧ t.trust.slots = [] ∧ t.link.ports = []) ∧ (b.failed = false → t.trust.keys = bootKeys b ∧ t.dieLocal = b.dieLocal ∧ t.serves = false ∧ t.trust.step8 = some (min b.ticks 800000000))) ∧
    (∀ t0, s.trust.step8 = some t0 → s.settleBoot = if t0 ≤ s.tick then { s with trust := { s.trust with published := true, step8 := none } } else s) ∧
    (∃ t, exec .powerRemoved s = .next t ∧ t.pow.state = .off ∧ t.mem = [] ∧ t.cores = [] ∧ t.launches = [] ∧ t.host.linkUp = false) ∧
    (s.pow.state = .run → s.launches = [] → exec .d3hotEntry s = .next { s with pow := { s.pow with state := .d3hot } }) ∧
    (s.pow.state ≠ .run ∨ s.launches ≠ [] → exec .d3hotEntry s = .next s) ∧
    (s.pow.state = .d3hot → exec .d3hotExit s = .next { s with
      cores := s.cores.map fun x => (x.1, { x.2 with spW := [], spA := [], spC := [] }), pow := { s.pow with state := .run } }) ∧
    (∀ stand < 80, s.pow.state = .run → (∀ i < 8, (s.core (8 * stand + i)).groves = []) → s.pow.idle.getD stand 0 + 50000 ≤ s.tick → stand ∉ s.pow.gated →
      exec (.standGate stand) s = .next { s with pow := { s.pow with gated := s.pow.gated ++ [stand] } }) ∧
    (∀ amps watts,
      let limit := min 3000 (fld s.pow.pwrlim 11 0)
      let seen := fun (mhz : Nat) (below : Option Nat) => { s with pow := { s.pow with amps := amps, watts := watts, mhz := mhz, below := below } }
      (6000 < amps ∨ limit < watts → exec (.powerSample amps watts) s = .next (seen (max 900 (s.pow.mhz - 100)) none)) ∧
      (amps < 5700 → 100 * watts < 95 * limit → exec (.powerSample amps watts) s = .next (seen s.pow.mhz (some (s.pow.below.getD s.tick)))) ∧
      (amps ≤ 6000 → watts ≤ limit → 5700 ≤ amps ∨ 95 * limit ≤ 100 * watts → exec (.powerSample amps watts) s = .next (seen s.pow.mhz none))) ∧
    (∀ t0, s.pow.below = some t0 → t0 + 200000 ≤ s.tick → (∀ x ∈ s.pow.tj, x.2 ≤ 400) →
      exec .clockRaise s = .next { s with pow := { s.pow with mhz := min 1800 (s.pow.mhz + 100), below := some s.tick } }) ∧
    (∀ die < 4, ∀ tj,
      let at_ := s.tick / 100000 * 100000
      let seen := s.pow.report at_ die tj
      (tj ≤ 400 → exec (.thermalReport die tj) s = .next { s with pow := seen }) ∧
      (400 < tj → exec (.thermalReport die tj) s = .next ({ s with pow := seen }.clockDown)) ∧
      seen.tj.getD die 0 = tj ∧
      (340 < tj → s.pow.lcmax.getD die 2 = 2 → seen.lcmax.getD die 2 = 1) ∧
      (tj ≤ 340 → s.pow.lcmax.getD die 2 = 2 → seen.lcmax.getD die 2 = 2) ∧
      (320 < tj → s.pow.lcmax.getD die 2 = 1 → seen.lcmax.getD die 2 = 1 ∧ seen.cool.find? die = none) ∧
      (∀ t0, tj ≤ 320 → s.pow.lcmax.getD die 2 = 1 → s.pow.cool.getD die at_ = t0 →
        (t0 + 1000000 ≤ at_ → seen.lcmax.getD die 2 = 2) ∧ (at_ < t0 + 1000000 → seen.lcmax.getD die 2 = 1 ∧ seen.cool.find? die = some t0)) ∧
      (420 < tj → s.pow.state ≠ .off → exec (.thermalTrip die tj b) s =
        .next (((List.range 16).foldl (fun s p => s.log p (sysRec 3 5 0x200B 0x8000 p 0 0 die tj)) s).packageReset b))) ∧
    (∀ corr : Int, s.timeMaster = s.pkg → exec (.timingMessage corr) s = .next s) ∧
    (∀ corr : Int, s.timeMaster ≠ s.pkg → s.pow.synced = true →
      let set := fun (jump : Nat) =>
        { s with tick := s.tick + jump, trust := { s.trust with step8 := s.trust.step8.map (· + jump) },
                 pow := { s.pow with synced := true, lastSync := s.tick + jump, joined := true, drift := corr - jump, slew := 0 } }
      (s.pow.joined = true ∨ s.trust.published = true → exec (.timingMessage corr) s = .next (set 0)) ∧
      (s.pow.joined = false → s.trust.published = false → 0 ≤ corr → exec (.timingMessage corr) s = .next (set corr.toNat)) ∧
      (s.pow.joined = false → s.trust.published = false → corr < 0 → exec (.timingMessage corr) s = .next (set 0))) ∧
    (s.timeMaster ≠ s.pkg → s.pow.synced = true → s.pow.lastSync + 10000000 ≤ s.tick →
      exec .timeSyncLost s = .next ({ s with pow := { s.pow with synced := false } }.log 0 (sysRec 3 2 0x200C 0x8000 0 0 0 s.pow.lastSync 0))) ∧
    (∀ t0 master, s.timeMaster = master → master ≠ s.pkg → s.pow.lastExch = some t0 → t0 + 100000 ≤ s.tick →
      exec (.timeBaseExchange master) s = .next ({ s with pow := { s.pow with lastExch := some s.tick } }.post master 3 1 0 10 0 (leBytes 8 s.tick))) ∧
    (∀ master, master ≠ s.timeMaster ∨ master = s.pkg → exec (.timeBaseExchange master) s = .next s)

/-- R195, R337 to R339, R342, R346, R348, R349, R351, R433, R434, R470, R471: the loader and the root of trust. A load request in progress is carried out (loadObject, registerExport, unloadObject): an image that passes its checks is accepted and its digest joins the partition's chain, one that fails a check is refused with its WHY and what stood at its VA has no executable page left, and what of it lies outside the package is asked for first; LOADSTS takes the result (loaderDone); a post's stub (stubBind) goes from 0 to 1 to bound or failed, and one that cannot be reached is dropped (log 101). A mailbox request sets a region descriptor (mailboxAccessTable), loads a key (mailboxKeyLoad), gives a challenge (forensicChallenge), unlocks a partition for one valid answer to it (forensicUnlock) or locks it again (forensicRelock); an in-field test (iftRequest) takes a stand out of service and brings back the cores that passed (iftScanDone). -/
def Obligations.LoaderAndMailboxEvents : Prop :=
  (∀ (s : State) (p : Nat),
    let obj := fun (b : List Byte) (ok : Bool) (pages : List Nat) =>
      ({ part := p, va := s.loadVa p, len := b.length, accepted := ok, refused := false, why := 0, pages := pages, keyid := getLe b (getLe b 0x40 4) 4 } : CodeObj)
    let ps := s.awayAll noCore 0x30 (s.imageRanges p (s.loadVa p))
    (s.loading p = true → s.unread ps ≠ [] → ∀ e ∈ [Instr.loadObject p, .registerExport p], exec e s = .next (s.askUnits p (s.unread ps))) ∧
    (s.loading p = true → s.unread ps = [] →
      (∀ w, s.verify p (s.loadVa p) = .error w → exec (.loadObject p) s = .next (((s.refuse p (s.loadVa p) w).schedule (.loaderDone p 4 w)).unitsRead ps) ∧
        ∀ o ∈ s.trust.objs, o.part = p → o.va = s.loadVa p → ∀ page ∈ o.pages, page ∉ (s.refuse p (s.loadVa p) w).trust.execBits) ∧
      (∀ b pages, s.verify p (s.loadVa p) = .ok (b, pages) →
        exec (.loadObject p) s = .next (((s.accept (obj b true pages) b pages).schedule (.loaderDone p 2 0)).unitsRead ps) ∧
        ((s.accept (obj b true pages) b pages).part p).chain = sha512 ((s.part p).chain ++ sha512 (b.take (getLe b 0x40 4 + 8))) ∧
        ∀ page ∈ pages, page ∈ (s.accept (obj b true pages) b pages).trust.execBits) ∧
      (∀ b, s.readImage p (s.loadVa p) = some b → headerBad b = false → tablesBad b = false →
        exec (.registerExport p) s = .next (((s.putObj (obj b false [])).schedule (.loaderDone p 3 0)).unitsRead ps)) ∧
      (∀ w, (w = 9 ∧ s.readImage p (s.loadVa p) = none ∨ ∃ b, s.readImage p (s.loadVa p) = some b ∧ (w = 1 ∧ headerBad b = true ∨ w = 2 ∧ headerBad b = false ∧ tablesBad b = true)) →
        exec (.registerExport p) s = .next (((s.refuse p (s.loadVa p) w).schedule (.loaderDone p 4 w)).unitsRead ps)) ∧
      (∃ t, exec (.unloadObject p) s = .next (State.schedule t (.loaderDone p 5 0)) ∧ (∀ o ∈ t.trust.objs, o.part ≠ p ∨ o.va ≠ s.loadVa p) ∧ t.mem = s.mem) ∧
      ∀ st why, exec (.loaderDone p st why) s = .next ((s.modPart p fun q => { q with loadsts := putFld (putFld q.loadsts 11 4 why) 3 0 st }).msix p 1)) ∧
    (s.loading p = false → ∀ e ∈ [Instr.loadObject p, .registerExport p, .unloadObject p, .loaderDone p 2 0], exec e s = .next s)) ∧
  (∀ (s : State) (p obj va : Nat) (t : List (Nat × Nat × Nat)), s.trust.posts = (p, obj, va) :: t →
    let drop := { s with trust := { s.trust with posts := t } }
    (s.stubPa p va = none → exec .stubBind s = .next drop) ∧
    ∀ pa leaf, s.stubPa p va = some (pa, leaf) → s.hostHolds pa 16 = [] →
      (getLe (s.readAs leaf pa 16) 8 4 = 0 → exec .stubBind s = .next (s.setStub (pa, leaf) 0 1 0)) ∧
      (let rs := (s.trust.objs.filter fun o => o.part == p).flatMap fun o => s.imageRanges p o.va
       let ps := s.awayAll noCore 0x30 rs
       getLe (s.readAs leaf pa 16) 8 4 = 1 → s.unread ps = [] → exec .stubBind s = .next ((drop.bindStub p obj va (pa, leaf)).unitsRead ps)) ∧
      (1 < getLe (s.readAs leaf pa 16) 8 4 → exec .stubBind s = .next drop)) ∧
  ∀ (s : State), s.trust.mbdoor = 1 → s.trust.recovery = false →
    (∀ target master i desc, target < 4 → master < 256 → i < 8 → ∃ t, exec (.mailboxAccessTable target master i desc) s = .next (State.reply t 2 0 []) ∧
      (t.trust.access.getD (256 * target + master) [])[i]? = some (desc &&& descMask) ∧ t.mem = s.mem) ∧
    (∀ target master i desc, 4 ≤ target ∨ 256 ≤ master ∨ 8 ≤ i → exec (.mailboxAccessTable target master i desc) s = .next (s.reply 3 0 [])) ∧
    (∀ slot, slot ≠ 0 → slot < 64 → ∃ t, exec (.mailboxKeyLoad slot) s = .next (State.reply t 2 0 []) ∧ t.trust.slots.find? slot = some s.stepN ∧
      ∀ x ∈ s.slotLines, x.2 % 64 = slot → x.1 ∈ t.tagBad) ∧
    (∀ slot, slot = 0 ∨ 64 ≤ slot → exec (.mailboxKeyLoad slot) s = .next (s.reply 3 0 [])) ∧
    (s.mb 0 4 = 0x50 → ∃ t c, exec .forensicChallenge s = .next (State.reply t 2 0x10 (leBytes 64 c)) ∧ t.trust.challenge = some c ∧ t.mem = s.mem ∧ t.cores = s.cores) ∧
    (let keyid := s.mb 8 4
     let p := s.mb 4 2
     let area := padTo 4088 s.trust.mailbox
     let signed := s.sigOk (fun _ => true) keyid (area.take 0x50) ((area.drop 0x50).take 512)
     let spent := { s with trust := { s.trust with challenge := none } }
     (s.mb 0 4 = 0x51 → s.trust.challenge ≠ some (s.mb 0x10 64) ∨ s.knownKey keyid = false ∨ 16 ≤ p ∨ signed = false →
       exec .forensicUnlock s = .next (spent.reply 3 0 [])) ∧
     (s.mb 0 4 = 0x51 → s.trust.challenge = some (s.mb 0x10 64) → s.knownKey keyid = true → p < 16 → s.mb 6 2 = 0 → s.mb 0xC 4 = 0 → signed = true →
       exec .forensicUnlock s = .next ((((spent.clearPart p).modPart p fun q => { q with forensic := true }).forensicRec p 1 keyid).reply 2 0 [])) ∧
     (s.mb 0 4 = 0x52 → s.knownKey keyid = true → p < 16 → s.mb 6 2 = 0 → s.mb 0xC 4 = 0 →
       exec .forensicRelock s = .next (((s.modPart p fun q => { q with forensic := false }).forensicRec p 2 keyid).reply 2 0 []))) ∧
    (s.mb 0 4 = 0x60 → s.pow.outOfService = [] → s.mb 6 2 = 0 →
      let stand := s.mb 4 2
      let ps := s.awayAll noCore 0x30 (s.imageRanges 0 (s.mb 8 8))
      (s.unread ps ≠ [] → exec .iftRequest s = .next (s.askUnits 0 (s.unread ps))) ∧
      (∀ w, s.unread ps = [] → s.iftWhy stand (s.mb 8 8) = some w → exec .iftRequest s = .next (((s.log 0 (sysRec 3 2 0x4009 0x8000 0 0 0 w 0)).reply 3 0 []).unitsRead ps)) ∧
      (s.unread ps = [] → s.iftWhy stand (s.mb 8 8) = none → (∀ x ∈ s.groves, x.2.placed = false) →
        exec .iftRequest s = .next ({ s with pow := { s.pow with outOfService := [stand] } }.unitsRead ps))) ∧
    ∀ stand, s.pow.outOfService.contains stand = true → (∀ c ∈ s.standCores stand, (s.core c).groves = []) →
      let all := maskOf ((s.standCores stand).map (· - 8 * stand))
      let t := s.log 0 (sysRec 3 0 0x400A 0x9000 0 0 0 stand all)
      exec (.iftScanDone stand []) s =
        .next ({ t with pow := { t.pow with outOfService := t.pow.outOfService.filter (· != stand) } }.reply 2 0x10 (leBytes 8 all))

/-- R57, R181, R233, R272, R274, R276, R277, R372 to R375, R378, R379, R389: taking a trap. A register at or above the allotment, a privileged instruction in a launch of an unprivileged queue, TRET outside a handler and a target that is no instruction address fault with their codes, and the lanes keep their PC. A fault ends the launch where it has no handler, or where a handler raised it; else the cohort leaves its slot with its image and its faults and waits for delivery, unless a trap of the same copy of its launch is in delivery or waits before it and the caldera has no room for the image, which freezes the partition. Delivery (trapDelivery) writes the frame and forms the handler cohort where the launch has room for it, its registers cleared, its predicates 0 and its lanes at TRAPENT; a frame that cannot be written ends the launch. -/
def Obligations.TrapEntryAndDelivery : Prop :=
  (∀ (s : State) (x : Ctx) (g : Guard), s.ctx = some x → x.co.single = none →
    let stop := fun (f : Flt) => Host.Outcome.next ((s.trap x.core x.slot x.pc (x.xs.map fun l => (l, f)) 2).issued x)
    let priv := fun (op : XOp) => stop { code := 0x0002, akind := 0, addr := 0, gen := 0, d0 := op.code, d1 := 0 }
    (∀ d a, ∀ r, overAllot [d, a] x.co.allot = some r → exec (.mov g d a) s = stop (rangeFault r x.co.allot x.repc)) ∧
    ((s.launches.find? x.co.launch).any (fun la => la.priv) = false →
      (∀ k sc, exec (.tlbinv g k sc) s = priv .tlbinv) ∧ (∀ d, exec (.csrr g d 0x0400) s = priv .csrr) ∧ (∀ a, exec (.csrw g 0x0400 a) s = priv .csrw) ∧
      (s.debugHold x.co.launch = false → exec (.halt g) s = priv .halt)) ∧
    (x.co.kind ≠ .trap → exec (.tret g) s = priv .tret) ∧
    (∀ a l, x.en g = [l] → s.ready x g [a, a + 1] [a, a + 1] = true → 2 ^ 48 ≤ (x.co.reg64 a l).toNat ∨ (x.co.reg64 a l).toNat % 4 ≠ 0 → 
      exec (.brx g a) s = .next ((s.trap x.core x.slot x.pc [(l, { code := 0x0009, akind := 0, addr := 0, gen := 0, d0 := (x.co.reg64 a l).toNat, d1 := 0 })] 2).issued x))) ∧
  (∀ (s : State) (core sl : Nat) (pc : Pc) (co : Cohort) (la : Launch) (l : Nat) (f : Flt) (fs : NMap Flt) (sev : Nat),
    s.cohort? core sl = some co → s.launches.find? co.launch = some la → la.isStaged = false →
    let t := s.trap core sl pc ((l, f) :: fs) sev
    (co.kind = .trap → t = s.terminate co.launch { (s.cohortRec core co pc ((l, f) :: fs) 1 3) with flt := { f with code := 0x5008, d0 := f.code, d1 := 0 } }) ∧
    (co.kind ≠ .trap → la.pkt.trapEnt = 0 → t = s.terminate co.launch (s.cohortRec core co pc ((l, f) :: fs) 1 3)) ∧
    (co.kind ≠ .trap → la.pkt.trapEnt ≠ 0 → co.single = none → (∀ y ∈ co.lanes, y.2.lost (List.range co.allot) = false) →
      let st : Stopped :=
        { core := core, cohort := ({ co with single := none, birthFault := none } : Cohort).healed, tick := s.tick, bins := [], faults := (l, f) :: fs, sev := sev, pc := pc, stale := (List.range co.allot).filter co.stale, code := f.code, edit := [], cnts := none }
      let ahead := (∃ q ∈ la.frames, q.trailing = s.imgTrailing st ∧ q.restored = false) ∨ ∃ w ∈ la.waiting, s.imgTrailing w = s.imgTrailing st
      (¬ahead → t = (s.modCore core fun k => { k with slots := k.slots.del sl, regFile := co.stamp k.regFile, kept := k.kept.put sl (co.launch, co.kind == .handler, co.allot, co.gen) }).modLaunch co.launch
        fun la => { la with waiting := la.waiting ++ [st] }) ∧
      (ahead → s.calRoom la.part (s.imageRoom st) = true →
        t = (s.modCore core fun k => { k with slots := k.slots.del sl, regFile := co.stamp k.regFile }).modLaunch co.launch fun la =>
          { la with waiting := la.waiting ++ [st] }) ∧
      (ahead → s.calRoom la.part (s.imageRoom st) = false →
        t = s.freeze core la.part ((co.lanes.head?.map fun x => x.2.strand).getD 0) pc))) ∧
  ∀ (s : State) (launch : Nat) (la : Launch) (st : Stopped) (img codes addrs : List Byte), s.launches.find? launch = some la →
    let rec_ := s.cohortRec st.core st.cohort st.pc st.faults 1 st.sev
    codes = ((List.range 32).flatMap fun l => leBytes 2 ((st.faults.find? l).elim 0 fun f => f.code)) →
    addrs = ((List.range 32).flatMap fun l => leBytes 8 ((st.faults.find? l).elim 0 fun f => f.addr)) → img = s.imageBytes st →
    let bs := rec_.bytes st.tick 0 false ++ codes ++ addrs ++ List.replicate 128 0 ++ img
    let wrote := s.vaWrite st.core la.part la.part (lineFuel bs.length) (la.frameVa (s.imgTrailing st)) bs
    s.vaHeld st.core la.part la.part (lineFuel bs.length) (la.frameVa (s.imgTrailing st)) bs.length = [] →
    (∀ f, wrote.2 = some f → s.deliver launch st =
      (wrote.1).terminate launch { rec_ with sev := 3, flt := { rec_.flt with code := 0x5009, d0 := rec_.flt.code, d1 := f.code } }) ∧
    let kept := ((wrote.1).core st.core).keptFor st.cohort
    ∀ sl gen, wrote.2 = none → ((wrote.1).modCore st.core fun k => k.release kept).cohortFits st.core launch false st.cohort.allot = true →
      (kept = some sl ∨ kept = none ∧ ((wrote.1).core st.core).freeSlot = some sl) → ((wrote.1).core st.core).nextGen = some gen → ((wrote.1).core st.core).regSweep = false →
      ∃ h, (s.deliver launch st).cohort? st.core sl = some h ∧ h.kind = .trap ∧ h.regs = [] ∧ h.launch = st.cohort.launch ∧ h.stage = st.cohort.stage ∧
        h.allot = st.cohort.allot ∧ h.lanes.length = st.cohort.nlanes ∧
        ∀ y ∈ h.lanes, y.2.pc = BitVec.ofNat 48 (la.pkt.codeVa + la.pkt.trapEnt) ∧ y.2.preds = 0 ∧ y.2.repc = 0 ∧ y.2.poison = []

/-- R41, R124, R310, R313, R323, R340, R346, R353, R461: right after reset the machine meets its invariant; no launch, grove, strand or cohort exists; every granule has data 0 and GEN 0; partition 0 has the capacity of a core and the others no quota; DRAIN is 256 cycles and SLACK 1,024; SCHEDCTL gives a slice of 100 µs; function n belongs to partition n; no page is executable and every access table is 0; the power limit is 3,000 W. That the time is 0, the clock 1,800 MHz, %lcmax 2 and each core's next generation 1 is the model's choice (log 4). -/
def Obligations.ResetState : Prop :=
  let s := State.reset
  s.Inv ∧ s.tick = 0 ∧ s.launches = [] ∧ s.groves = [] ∧ s.strands = [] ∧ s.ops = [] ∧ (∀ c sl, s.cohort? c sl = none) ∧
  (∀ c b n, ((s.core c).gran b n).data = List.replicate 32 0 ∧ ((s.core c).gran b n).gen = 0) ∧
  (∀ c, (s.core c).gen = 1 ∧ (s.core c).spGen = 1) ∧
  (fld (s.readP 0 .pq0) 54 48 = 96 ∧ fld (s.readP 0 .pq0) 47 42 = 48 ∧ fld (s.readP 0 .pq0) 28 21 = 128 ∧
    fld (s.readP 0 .pq1) 15 0 = 16384 ∧ fld (s.readP 0 .pq1) 31 16 = 32768 ∧ fld (s.readP 0 .pq1) 47 32 = 32768) ∧
  (∀ p, 1 ≤ p → p < 16 → s.readP p .pq0 = 8 ∧ s.readP p .pq1 = 0) ∧
  (∀ p < 16, 32 * fld (s.readP p .pq0) 7 0 = 256 ∧ fld (s.readP p .twinctl) 10 0 = 1024 ∧ s.readP p .pcal = 0 ∧ s.readP p .pfrz = 0 ∧ s.readP p .tableRoot = 0) ∧
  fld (s.readG .schedctl) 31 16 = 100 ∧ fld (s.readG .qtbl) 0 0 = 0 ∧ (∀ f < 16, s.funcPart f = f) ∧
  s.trust.execBits = [] ∧ (∀ k, s.trust.access.getD k [] = []) ∧ fld (s.readG .pwrlim) 11 0 = 3000 ∧ s.pow.mhz = 1800 ∧ (∀ d < 4, s.lcmax d = 2)

/-- R4, R24, R25, R168, R169, R172, R175, R180, R181, R357: a step runs the decoded instruction. When nothing of the schedule is due, an even step issues the cohort that is next, or the second-lowest PC of the diverged cohort that issued last: if its words can be fetched, no breakpoint matches and they decode to an instruction, the step is that instruction's exec and the passing of time; words that are no instruction go the same way to the invalid-instruction trap (invalidInstruction). An event of the schedule that is due is run first. Time goes on by the time the step takes, where the rate is not being corrected. -/
def Obligations.StepRunsDecodedInstruction : Prop :=
  (∀ (s p t : State) (x : Ctx) (ws : List Word), s.due = none → s.pow.state = .run → s.trust.recovery = false → s.stepN % 2 = 0 →
    (s.next1 = none ∧ ∃ c, s.nextIssue = some c ∧ p = s.atSlot0 c) ∨ s.atSlot1 = some p →
    p.ctx = some x → p.isHeld x.co = false → x.co.birthFault = none → p.atStub x = false → p.fetchInstr x.core x.part x.pc.toNat = .ok ws →
    t = p.keepLines x.core x.part x.pc.toNat ws.length → t.bpHit x = none →
    (∀ i, decodeWords ws = .ok i → ∃ u, exec i t = .next u ∧ step s = .next u.later) ∧
    ∀ r, decodeWords ws = .error r → ∃ u, exec (.invalidInstruction ws (rejectNumber r)) t = .next u ∧ step s = .next u.later) ∧
  (∀ (s : State) (e : Instr) (rest : List (Nat × Instr)), s.due = some (e, rest) → e.isEvent = true → s.hears e = true →
    ∃ u, exec e { s with agenda := rest } = .next u ∧ step s = .next u.later) ∧
  ∀ s : State,
    let t := s.settleBoot.settleFrames.settleImages.settleDebug.settleComms.settleHops.settleWaiting.settleLogs.settleTwins.settleEnded.settleBins
    s.later.stepN = t.stepN + 1 ∧ s.later.cyc = t.cyc + Config.stepTime t.stepN * t.pow.mhz ∧
      (t.pow.drift = 0 → s.later.tick = t.tick + Config.stepTime t.stepN)

/-- R168, R170 to R174, R176 to R180: words written out from the encoding tables stand for these instructions: in S-form, in P-form, in X-form with a register, an immediate and a literal; and these are no instructions: an unassigned opcode of either form, the guard !p0, a field that must be 0. -/
def Obligations.WordsDecode : Prop :=
  let g0 : Guard := { p := 0, neg := false }
  decodeWords [0x00000000] = .ok (.nopS g0) ∧
  decodeWords [0x0C204C08] = .ok (.iaddS { p := 3, neg := false } 1 2 3) ∧
  decodeWords [0x081D6428] = .ok (.icmpS { p := 1, neg := true } 5 1 2 .lt true) ∧
  decodeWords [0x061440C1, 0x974B6582] =
    .ok (.pformPair g0 { op := .isub, d := 4, a := 5, b := 6 } { op := .iadd, d := 300, a := 301, b := 302 }) ∧
  decodeWords [0x6014000E, 0x4000000B, 0xFFFFFFF0] = .ok (.iadd g0 10 11 (.imm 0xFFFFFFF0) true true) ∧
  decodeWords [0x0008000B, 0x80000000, 0, 0x89ABCDEF, 0x01234567] = .ok (.moviLit g0 4 0x0123456789ABCDEF) ∧
  decodeWords [0x00020902, 0x00000002, 0x00000008] = .ok (.ld g0 1 2 8 .b32 false .plain .core .dflt) ∧
  decodeWords [0x00040CE6, 0x00000000, 0x00000400] = .ok (.csrr g0 2 0x400) ∧
  decodeWords [0x000E0CCE, 0x00000004, 0] = .ok (.shp g0 7 4) ∧
  (∀ i, decodeWords [0x00000060] ≠ .ok i) ∧ (∀ i, decodeWords [0x0000008E, 0, 0] ≠ .ok i) ∧ (∀ i, decodeWords [0x0C206008] ≠ .ok i) ∧
  (∀ i, decodeWords [0x04000000] ≠ .ok i) ∧ (∀ i, decodeWords [0x00040CE6, 0x00000200, 0x00000400] ≠ .ok i)

/-- R168 to R180: decode and encode agree. Every well-formed instruction is read back from its own words with every operand as it was. -/
def Obligations.EncodingRoundTrip : Prop := ∀ i, Laws.RoundTrip.Statement i

/-- The memory keeps its one canonical form and the schedule holds events only, whatever the step does, from every state in which that holds: no instruction and no event breaks it. -/
def Obligations.EveryStepKeepsTheInvariant : Prop := ∀ s t : State, s.Inv → step s = .next t → t.Inv

/-- R179, R180, R181, R390: no run from a state that meets the invariant ever stops: every instruction, every word that is no instruction, and every event answers a next state, in every state. -/
def Obligations.NoRunStops : Prop := (∀ s : State, s.Inv → s.Safe) ∧ ∀ (i : Instr) (s : State), ∃ t, exec i s = .next t
end

