-- ==== Sys2Proof/Laws/State.lean ====
section
/-! SUPPORT. What each named update of the state does to each of its fields: one lemma per field per update. -/
namespace Sys2Proof.Machine

/-! setCore -/

@[simp] theorem State.setCore_seq (s : State) (c : Nat) (k : Core) : (s.setCore c k).seq = s.seq := rfl
@[simp] theorem State.setCore_freeN (s : State) (c : Nat) (k : Core) : (s.setCore c k).freeN = s.freeN := rfl
@[simp] theorem State.setCore_stepN (s : State) (c : Nat) (k : Core) : (s.setCore c k).stepN = s.stepN := rfl
@[simp] theorem State.setCore_lag (s : State) (c : Nat) (k : Core) : (s.setCore c k).lag = s.lag := rfl
@[simp] theorem State.setCore_agenda (s : State) (c : Nat) (k : Core) : (s.setCore c k).agenda = s.agenda := rfl
@[simp] theorem State.setCore_cur (s : State) (c : Nat) (k : Core) : (s.setCore c k).cur = s.cur := rfl
@[simp] theorem State.setCore_slot1 (s : State) (c : Nat) (k : Core) : (s.setCore c k).slot1 = s.slot1 := rfl
@[simp] theorem State.setCore_next1 (s : State) (c : Nat) (k : Core) : (s.setCore c k).next1 = s.next1 := rfl
@[simp] theorem State.setCore_cyc (s : State) (c : Nat) (k : Core) : (s.setCore c k).cyc = s.cyc := rfl
@[simp] theorem State.setCore_tick (s : State) (c : Nat) (k : Core) : (s.setCore c k).tick = s.tick := rfl
@[simp] theorem State.setCore_pkg (s : State) (c : Nat) (k : Core) : (s.setCore c k).pkg = s.pkg := rfl
@[simp] theorem State.setCore_mem (s : State) (c : Nat) (k : Core) : (s.setCore c k).mem = s.mem := rfl
@[simp] theorem State.setCore_dieLocal (s : State) (c : Nat) (k : Core) : (s.setCore c k).dieLocal = s.dieLocal := rfl
@[simp] theorem State.setCore_poisoned (s : State) (c : Nat) (k : Core) : (s.setCore c k).poisoned = s.poisoned := rfl
@[simp] theorem State.setCore_tagBad (s : State) (c : Nat) (k : Core) : (s.setCore c k).tagBad = s.tagBad := rfl
@[simp] theorem State.setCore_slotLines (s : State) (c : Nat) (k : Core) : (s.setCore c k).slotLines = s.slotLines := rfl
@[simp] theorem State.setCore_scrubCounts (s : State) (c : Nat) (k : Core) : (s.setCore c k).scrubCounts = s.scrubCounts := rfl
@[simp] theorem State.setCore_twininj (s : State) (c : Nat) (k : Core) : (s.setCore c k).twininj = s.twininj := rfl
@[simp] theorem State.setCore_cores (s : State) (c : Nat) (k : Core) : (s.setCore c k).cores = s.cores.put c k := rfl
@[simp] theorem State.setCore_standTlbs (s : State) (c : Nat) (k : Core) : (s.setCore c k).standTlbs = s.standTlbs := rfl
@[simp] theorem State.setCore_dies (s : State) (c : Nat) (k : Core) : (s.setCore c k).dies = s.dies := rfl
@[simp] theorem State.setCore_strands (s : State) (c : Nat) (k : Core) : (s.setCore c k).strands = s.strands := rfl
@[simp] theorem State.setCore_groves (s : State) (c : Nat) (k : Core) : (s.setCore c k).groves = s.groves := rfl
@[simp] theorem State.setCore_launches (s : State) (c : Nat) (k : Core) : (s.setCore c k).launches = s.launches := rfl
@[simp] theorem State.setCore_parts (s : State) (c : Nat) (k : Core) : (s.setCore c k).parts = s.parts := rfl
@[simp] theorem State.setCore_ops (s : State) (c : Nat) (k : Core) : (s.setCore c k).ops = s.ops := rfl
@[simp] theorem State.setCore_twins (s : State) (c : Nat) (k : Core) : (s.setCore c k).twins = s.twins := rfl
@[simp] theorem State.setCore_sched (s : State) (c : Nat) (k : Core) : (s.setCore c k).sched = s.sched := rfl
@[simp] theorem State.setCore_trust (s : State) (c : Nat) (k : Core) : (s.setCore c k).trust = s.trust := rfl
@[simp] theorem State.setCore_host (s : State) (c : Nat) (k : Core) : (s.setCore c k).host = s.host := rfl
@[simp] theorem State.setCore_link (s : State) (c : Nat) (k : Core) : (s.setCore c k).link = s.link := rfl
@[simp] theorem State.setCore_pow (s : State) (c : Nat) (k : Core) : (s.setCore c k).pow = s.pow := rfl

/-! modCore -/

@[simp] theorem State.modCore_seq (s : State) (c : Nat) (f : Core → Core) : (s.modCore c f).seq = s.seq := rfl
@[simp] theorem State.modCore_freeN (s : State) (c : Nat) (f : Core → Core) : (s.modCore c f).freeN = s.freeN := rfl
@[simp] theorem State.modCore_stepN (s : State) (c : Nat) (f : Core → Core) : (s.modCore c f).stepN = s.stepN := rfl
@[simp] theorem State.modCore_lag (s : State) (c : Nat) (f : Core → Core) : (s.modCore c f).lag = s.lag := rfl
@[simp] theorem State.modCore_agenda (s : State) (c : Nat) (f : Core → Core) : (s.modCore c f).agenda = s.agenda := rfl
@[simp] theorem State.modCore_cur (s : State) (c : Nat) (f : Core → Core) : (s.modCore c f).cur = s.cur := rfl
@[simp] theorem State.modCore_slot1 (s : State) (c : Nat) (f : Core → Core) : (s.modCore c f).slot1 = s.slot1 := rfl
@[simp] theorem State.modCore_next1 (s : State) (c : Nat) (f : Core → Core) : (s.modCore c f).next1 = s.next1 := rfl
@[simp] theorem State.modCore_cyc (s : State) (c : Nat) (f : Core → Core) : (s.modCore c f).cyc = s.cyc := rfl
@[simp] theorem State.modCore_tick (s : State) (c : Nat) (f : Core → Core) : (s.modCore c f).tick = s.tick := rfl
@[simp] theorem State.modCore_pkg (s : State) (c : Nat) (f : Core → Core) : (s.modCore c f).pkg = s.pkg := rfl
@[simp] theorem State.modCore_mem (s : State) (c : Nat) (f : Core → Core) : (s.modCore c f).mem = s.mem := rfl
@[simp] theorem State.modCore_dieLocal (s : State) (c : Nat) (f : Core → Core) : (s.modCore c f).dieLocal = s.dieLocal := rfl
@[simp] theorem State.modCore_poisoned (s : State) (c : Nat) (f : Core → Core) : (s.modCore c f).poisoned = s.poisoned := rfl
@[simp] theorem State.modCore_tagBad (s : State) (c : Nat) (f : Core → Core) : (s.modCore c f).tagBad = s.tagBad := rfl
@[simp] theorem State.modCore_slotLines (s : State) (c : Nat) (f : Core → Core) : (s.modCore c f).slotLines = s.slotLines := rfl
@[simp] theorem State.modCore_scrubCounts (s : State) (c : Nat) (f : Core → Core) : (s.modCore c f).scrubCounts = s.scrubCounts := rfl
@[simp] theorem State.modCore_twininj (s : State) (c : Nat) (f : Core → Core) : (s.modCore c f).twininj = s.twininj := rfl
@[simp] theorem State.modCore_cores (s : State) (c : Nat) (f : Core → Core) : (s.modCore c f).cores = s.cores.put c (f (s.core c)) := rfl
@[simp] theorem State.modCore_standTlbs (s : State) (c : Nat) (f : Core → Core) : (s.modCore c f).standTlbs = s.standTlbs := rfl
@[simp] theorem State.modCore_dies (s : State) (c : Nat) (f : Core → Core) : (s.modCore c f).dies = s.dies := rfl
@[simp] theorem State.modCore_strands (s : State) (c : Nat) (f : Core → Core) : (s.modCore c f).strands = s.strands := rfl
@[simp] theorem State.modCore_groves (s : State) (c : Nat) (f : Core → Core) : (s.modCore c f).groves = s.groves := rfl
@[simp] theorem State.modCore_launches (s : State) (c : Nat) (f : Core → Core) : (s.modCore c f).launches = s.launches := rfl
@[simp] theorem State.modCore_parts (s : State) (c : Nat) (f : Core → Core) : (s.modCore c f).parts = s.parts := rfl
@[simp] theorem State.modCore_ops (s : State) (c : Nat) (f : Core → Core) : (s.modCore c f).ops = s.ops := rfl
@[simp] theorem State.modCore_twins (s : State) (c : Nat) (f : Core → Core) : (s.modCore c f).twins = s.twins := rfl
@[simp] theorem State.modCore_sched (s : State) (c : Nat) (f : Core → Core) : (s.modCore c f).sched = s.sched := rfl
@[simp] theorem State.modCore_trust (s : State) (c : Nat) (f : Core → Core) : (s.modCore c f).trust = s.trust := rfl
@[simp] theorem State.modCore_host (s : State) (c : Nat) (f : Core → Core) : (s.modCore c f).host = s.host := rfl
@[simp] theorem State.modCore_link (s : State) (c : Nat) (f : Core → Core) : (s.modCore c f).link = s.link := rfl
@[simp] theorem State.modCore_pow (s : State) (c : Nat) (f : Core → Core) : (s.modCore c f).pow = s.pow := rfl

/-! modPart -/

@[simp] theorem State.modPart_seq (s : State) (p : Nat) (f : Part → Part) : (s.modPart p f).seq = s.seq := rfl
@[simp] theorem State.modPart_freeN (s : State) (p : Nat) (f : Part → Part) : (s.modPart p f).freeN = s.freeN := rfl
@[simp] theorem State.modPart_stepN (s : State) (p : Nat) (f : Part → Part) : (s.modPart p f).stepN = s.stepN := rfl
@[simp] theorem State.modPart_lag (s : State) (p : Nat) (f : Part → Part) : (s.modPart p f).lag = s.lag := rfl
@[simp] theorem State.modPart_agenda (s : State) (p : Nat) (f : Part → Part) : (s.modPart p f).agenda = s.agenda := rfl
@[simp] theorem State.modPart_cur (s : State) (p : Nat) (f : Part → Part) : (s.modPart p f).cur = s.cur := rfl
@[simp] theorem State.modPart_slot1 (s : State) (p : Nat) (f : Part → Part) : (s.modPart p f).slot1 = s.slot1 := rfl
@[simp] theorem State.modPart_next1 (s : State) (p : Nat) (f : Part → Part) : (s.modPart p f).next1 = s.next1 := rfl
@[simp] theorem State.modPart_cyc (s : State) (p : Nat) (f : Part → Part) : (s.modPart p f).cyc = s.cyc := rfl
@[simp] theorem State.modPart_tick (s : State) (p : Nat) (f : Part → Part) : (s.modPart p f).tick = s.tick := rfl
@[simp] theorem State.modPart_pkg (s : State) (p : Nat) (f : Part → Part) : (s.modPart p f).pkg = s.pkg := rfl
@[simp] theorem State.modPart_mem (s : State) (p : Nat) (f : Part → Part) : (s.modPart p f).mem = s.mem := rfl
@[simp] theorem State.modPart_dieLocal (s : State) (p : Nat) (f : Part → Part) : (s.modPart p f).dieLocal = s.dieLocal := rfl
@[simp] theorem State.modPart_poisoned (s : State) (p : Nat) (f : Part → Part) : (s.modPart p f).poisoned = s.poisoned := rfl
@[simp] theorem State.modPart_tagBad (s : State) (p : Nat) (f : Part → Part) : (s.modPart p f).tagBad = s.tagBad := rfl
@[simp] theorem State.modPart_slotLines (s : State) (p : Nat) (f : Part → Part) : (s.modPart p f).slotLines = s.slotLines := rfl
@[simp] theorem State.modPart_scrubCounts (s : State) (p : Nat) (f : Part → Part) : (s.modPart p f).scrubCounts = s.scrubCounts := rfl
@[simp] theorem State.modPart_twininj (s : State) (p : Nat) (f : Part → Part) : (s.modPart p f).twininj = s.twininj := rfl
@[simp] theorem State.modPart_cores (s : State) (p : Nat) (f : Part → Part) : (s.modPart p f).cores = s.cores := rfl
@[simp] theorem State.modPart_standTlbs (s : State) (p : Nat) (f : Part → Part) : (s.modPart p f).standTlbs = s.standTlbs := rfl
@[simp] theorem State.modPart_dies (s : State) (p : Nat) (f : Part → Part) : (s.modPart p f).dies = s.dies := rfl
@[simp] theorem State.modPart_strands (s : State) (p : Nat) (f : Part → Part) : (s.modPart p f).strands = s.strands := rfl
@[simp] theorem State.modPart_groves (s : State) (p : Nat) (f : Part → Part) : (s.modPart p f).groves = s.groves := rfl
@[simp] theorem State.modPart_launches (s : State) (p : Nat) (f : Part → Part) : (s.modPart p f).launches = s.launches := rfl
@[simp] theorem State.modPart_parts (s : State) (p : Nat) (f : Part → Part) : (s.modPart p f).parts = s.parts.put p (f (s.part p)) := rfl
@[simp] theorem State.modPart_ops (s : State) (p : Nat) (f : Part → Part) : (s.modPart p f).ops = s.ops := rfl
@[simp] theorem State.modPart_twins (s : State) (p : Nat) (f : Part → Part) : (s.modPart p f).twins = s.twins := rfl
@[simp] theorem State.modPart_sched (s : State) (p : Nat) (f : Part → Part) : (s.modPart p f).sched = s.sched := rfl
@[simp] theorem State.modPart_trust (s : State) (p : Nat) (f : Part → Part) : (s.modPart p f).trust = s.trust := rfl
@[simp] theorem State.modPart_host (s : State) (p : Nat) (f : Part → Part) : (s.modPart p f).host = s.host := rfl
@[simp] theorem State.modPart_link (s : State) (p : Nat) (f : Part → Part) : (s.modPart p f).link = s.link := rfl
@[simp] theorem State.modPart_pow (s : State) (p : Nat) (f : Part → Part) : (s.modPart p f).pow = s.pow := rfl

/-! modGrove -/

@[simp] theorem State.modGrove_seq (s : State) (g : Nat) (f : Grove → Grove) : (s.modGrove g f).seq = s.seq := rfl
@[simp] theorem State.modGrove_freeN (s : State) (g : Nat) (f : Grove → Grove) : (s.modGrove g f).freeN = s.freeN := rfl
@[simp] theorem State.modGrove_stepN (s : State) (g : Nat) (f : Grove → Grove) : (s.modGrove g f).stepN = s.stepN := rfl
@[simp] theorem State.modGrove_lag (s : State) (g : Nat) (f : Grove → Grove) : (s.modGrove g f).lag = s.lag := rfl
@[simp] theorem State.modGrove_agenda (s : State) (g : Nat) (f : Grove → Grove) : (s.modGrove g f).agenda = s.agenda := rfl
@[simp] theorem State.modGrove_cur (s : State) (g : Nat) (f : Grove → Grove) : (s.modGrove g f).cur = s.cur := rfl
@[simp] theorem State.modGrove_slot1 (s : State) (g : Nat) (f : Grove → Grove) : (s.modGrove g f).slot1 = s.slot1 := rfl
@[simp] theorem State.modGrove_next1 (s : State) (g : Nat) (f : Grove → Grove) : (s.modGrove g f).next1 = s.next1 := rfl
@[simp] theorem State.modGrove_cyc (s : State) (g : Nat) (f : Grove → Grove) : (s.modGrove g f).cyc = s.cyc := rfl
@[simp] theorem State.modGrove_tick (s : State) (g : Nat) (f : Grove → Grove) : (s.modGrove g f).tick = s.tick := rfl
@[simp] theorem State.modGrove_pkg (s : State) (g : Nat) (f : Grove → Grove) : (s.modGrove g f).pkg = s.pkg := rfl
@[simp] theorem State.modGrove_mem (s : State) (g : Nat) (f : Grove → Grove) : (s.modGrove g f).mem = s.mem := rfl
@[simp] theorem State.modGrove_dieLocal (s : State) (g : Nat) (f : Grove → Grove) : (s.modGrove g f).dieLocal = s.dieLocal := rfl
@[simp] theorem State.modGrove_poisoned (s : State) (g : Nat) (f : Grove → Grove) : (s.modGrove g f).poisoned = s.poisoned := rfl
@[simp] theorem State.modGrove_tagBad (s : State) (g : Nat) (f : Grove → Grove) : (s.modGrove g f).tagBad = s.tagBad := rfl
@[simp] theorem State.modGrove_slotLines (s : State) (g : Nat) (f : Grove → Grove) : (s.modGrove g f).slotLines = s.slotLines := rfl
@[simp] theorem State.modGrove_scrubCounts (s : State) (g : Nat) (f : Grove → Grove) : (s.modGrove g f).scrubCounts = s.scrubCounts := rfl
@[simp] theorem State.modGrove_twininj (s : State) (g : Nat) (f : Grove → Grove) : (s.modGrove g f).twininj = s.twininj := rfl
@[simp] theorem State.modGrove_cores (s : State) (g : Nat) (f : Grove → Grove) : (s.modGrove g f).cores = s.cores := rfl
@[simp] theorem State.modGrove_standTlbs (s : State) (g : Nat) (f : Grove → Grove) : (s.modGrove g f).standTlbs = s.standTlbs := rfl
@[simp] theorem State.modGrove_dies (s : State) (g : Nat) (f : Grove → Grove) : (s.modGrove g f).dies = s.dies := rfl
@[simp] theorem State.modGrove_strands (s : State) (g : Nat) (f : Grove → Grove) : (s.modGrove g f).strands = s.strands := rfl
@[simp] theorem State.modGrove_groves (s : State) (g : Nat) (f : Grove → Grove) : (s.modGrove g f).groves = s.groves.adj g f := rfl
@[simp] theorem State.modGrove_launches (s : State) (g : Nat) (f : Grove → Grove) : (s.modGrove g f).launches = s.launches := rfl
@[simp] theorem State.modGrove_parts (s : State) (g : Nat) (f : Grove → Grove) : (s.modGrove g f).parts = s.parts := rfl
@[simp] theorem State.modGrove_ops (s : State) (g : Nat) (f : Grove → Grove) : (s.modGrove g f).ops = s.ops := rfl
@[simp] theorem State.modGrove_twins (s : State) (g : Nat) (f : Grove → Grove) : (s.modGrove g f).twins = s.twins := rfl
@[simp] theorem State.modGrove_sched (s : State) (g : Nat) (f : Grove → Grove) : (s.modGrove g f).sched = s.sched := rfl
@[simp] theorem State.modGrove_trust (s : State) (g : Nat) (f : Grove → Grove) : (s.modGrove g f).trust = s.trust := rfl
@[simp] theorem State.modGrove_host (s : State) (g : Nat) (f : Grove → Grove) : (s.modGrove g f).host = s.host := rfl
@[simp] theorem State.modGrove_link (s : State) (g : Nat) (f : Grove → Grove) : (s.modGrove g f).link = s.link := rfl
@[simp] theorem State.modGrove_pow (s : State) (g : Nat) (f : Grove → Grove) : (s.modGrove g f).pow = s.pow := rfl

/-! modStrand -/

@[simp] theorem State.modStrand_seq (s : State) (n : Nat) (f : Strand → Strand) : (s.modStrand n f).seq = s.seq := rfl
@[simp] theorem State.modStrand_freeN (s : State) (n : Nat) (f : Strand → Strand) : (s.modStrand n f).freeN = s.freeN := rfl
@[simp] theorem State.modStrand_stepN (s : State) (n : Nat) (f : Strand → Strand) : (s.modStrand n f).stepN = s.stepN := rfl
@[simp] theorem State.modStrand_lag (s : State) (n : Nat) (f : Strand → Strand) : (s.modStrand n f).lag = s.lag := rfl
@[simp] theorem State.modStrand_agenda (s : State) (n : Nat) (f : Strand → Strand) : (s.modStrand n f).agenda = s.agenda := rfl
@[simp] theorem State.modStrand_cur (s : State) (n : Nat) (f : Strand → Strand) : (s.modStrand n f).cur = s.cur := rfl
@[simp] theorem State.modStrand_slot1 (s : State) (n : Nat) (f : Strand → Strand) : (s.modStrand n f).slot1 = s.slot1 := rfl
@[simp] theorem State.modStrand_next1 (s : State) (n : Nat) (f : Strand → Strand) : (s.modStrand n f).next1 = s.next1 := rfl
@[simp] theorem State.modStrand_cyc (s : State) (n : Nat) (f : Strand → Strand) : (s.modStrand n f).cyc = s.cyc := rfl
@[simp] theorem State.modStrand_tick (s : State) (n : Nat) (f : Strand → Strand) : (s.modStrand n f).tick = s.tick := rfl
@[simp] theorem State.modStrand_pkg (s : State) (n : Nat) (f : Strand → Strand) : (s.modStrand n f).pkg = s.pkg := rfl
@[simp] theorem State.modStrand_mem (s : State) (n : Nat) (f : Strand → Strand) : (s.modStrand n f).mem = s.mem := rfl
@[simp] theorem State.modStrand_dieLocal (s : State) (n : Nat) (f : Strand → Strand) : (s.modStrand n f).dieLocal = s.dieLocal := rfl
@[simp] theorem State.modStrand_poisoned (s : State) (n : Nat) (f : Strand → Strand) : (s.modStrand n f).poisoned = s.poisoned := rfl
@[simp] theorem State.modStrand_tagBad (s : State) (n : Nat) (f : Strand → Strand) : (s.modStrand n f).tagBad = s.tagBad := rfl
@[simp] theorem State.modStrand_slotLines (s : State) (n : Nat) (f : Strand → Strand) : (s.modStrand n f).slotLines = s.slotLines := rfl
@[simp] theorem State.modStrand_scrubCounts (s : State) (n : Nat) (f : Strand → Strand) : (s.modStrand n f).scrubCounts = s.scrubCounts := rfl
@[simp] theorem State.modStrand_twininj (s : State) (n : Nat) (f : Strand → Strand) : (s.modStrand n f).twininj = s.twininj := rfl
@[simp] theorem State.modStrand_cores (s : State) (n : Nat) (f : Strand → Strand) : (s.modStrand n f).cores = s.cores := rfl
@[simp] theorem State.modStrand_standTlbs (s : State) (n : Nat) (f : Strand → Strand) : (s.modStrand n f).standTlbs = s.standTlbs := rfl
@[simp] theorem State.modStrand_dies (s : State) (n : Nat) (f : Strand → Strand) : (s.modStrand n f).dies = s.dies := rfl
@[simp] theorem State.modStrand_strands (s : State) (n : Nat) (f : Strand → Strand) : (s.modStrand n f).strands = s.strands.adj n f := rfl
@[simp] theorem State.modStrand_groves (s : State) (n : Nat) (f : Strand → Strand) : (s.modStrand n f).groves = s.groves := rfl
@[simp] theorem State.modStrand_launches (s : State) (n : Nat) (f : Strand → Strand) : (s.modStrand n f).launches = s.launches := rfl
@[simp] theorem State.modStrand_parts (s : State) (n : Nat) (f : Strand → Strand) : (s.modStrand n f).parts = s.parts := rfl
@[simp] theorem State.modStrand_ops (s : State) (n : Nat) (f : Strand → Strand) : (s.modStrand n f).ops = s.ops := rfl
@[simp] theorem State.modStrand_twins (s : State) (n : Nat) (f : Strand → Strand) : (s.modStrand n f).twins = s.twins := rfl
@[simp] theorem State.modStrand_sched (s : State) (n : Nat) (f : Strand → Strand) : (s.modStrand n f).sched = s.sched := rfl
@[simp] theorem State.modStrand_trust (s : State) (n : Nat) (f : Strand → Strand) : (s.modStrand n f).trust = s.trust := rfl
@[simp] theorem State.modStrand_host (s : State) (n : Nat) (f : Strand → Strand) : (s.modStrand n f).host = s.host := rfl
@[simp] theorem State.modStrand_link (s : State) (n : Nat) (f : Strand → Strand) : (s.modStrand n f).link = s.link := rfl
@[simp] theorem State.modStrand_pow (s : State) (n : Nat) (f : Strand → Strand) : (s.modStrand n f).pow = s.pow := rfl

/-! modLaunch -/

@[simp] theorem State.modLaunch_seq (s : State) (n : Nat) (f : Launch → Launch) : (s.modLaunch n f).seq = s.seq := rfl
@[simp] theorem State.modLaunch_freeN (s : State) (n : Nat) (f : Launch → Launch) : (s.modLaunch n f).freeN = s.freeN := rfl
@[simp] theorem State.modLaunch_stepN (s : State) (n : Nat) (f : Launch → Launch) : (s.modLaunch n f).stepN = s.stepN := rfl
@[simp] theorem State.modLaunch_lag (s : State) (n : Nat) (f : Launch → Launch) : (s.modLaunch n f).lag = s.lag := rfl
@[simp] theorem State.modLaunch_agenda (s : State) (n : Nat) (f : Launch → Launch) : (s.modLaunch n f).agenda = s.agenda := rfl
@[simp] theorem State.modLaunch_cur (s : State) (n : Nat) (f : Launch → Launch) : (s.modLaunch n f).cur = s.cur := rfl
@[simp] theorem State.modLaunch_slot1 (s : State) (n : Nat) (f : Launch → Launch) : (s.modLaunch n f).slot1 = s.slot1 := rfl
@[simp] theorem State.modLaunch_next1 (s : State) (n : Nat) (f : Launch → Launch) : (s.modLaunch n f).next1 = s.next1 := rfl
@[simp] theorem State.modLaunch_cyc (s : State) (n : Nat) (f : Launch → Launch) : (s.modLaunch n f).cyc = s.cyc := rfl
@[simp] theorem State.modLaunch_tick (s : State) (n : Nat) (f : Launch → Launch) : (s.modLaunch n f).tick = s.tick := rfl
@[simp] theorem State.modLaunch_pkg (s : State) (n : Nat) (f : Launch → Launch) : (s.modLaunch n f).pkg = s.pkg := rfl
@[simp] theorem State.modLaunch_mem (s : State) (n : Nat) (f : Launch → Launch) : (s.modLaunch n f).mem = s.mem := rfl
@[simp] theorem State.modLaunch_dieLocal (s : State) (n : Nat) (f : Launch → Launch) : (s.modLaunch n f).dieLocal = s.dieLocal := rfl
@[simp] theorem State.modLaunch_poisoned (s : State) (n : Nat) (f : Launch → Launch) : (s.modLaunch n f).poisoned = s.poisoned := rfl
@[simp] theorem State.modLaunch_tagBad (s : State) (n : Nat) (f : Launch → Launch) : (s.modLaunch n f).tagBad = s.tagBad := rfl
@[simp] theorem State.modLaunch_slotLines (s : State) (n : Nat) (f : Launch → Launch) : (s.modLaunch n f).slotLines = s.slotLines := rfl
@[simp] theorem State.modLaunch_scrubCounts (s : State) (n : Nat) (f : Launch → Launch) : (s.modLaunch n f).scrubCounts = s.scrubCounts := rfl
@[simp] theorem State.modLaunch_twininj (s : State) (n : Nat) (f : Launch → Launch) : (s.modLaunch n f).twininj = s.twininj := rfl
@[simp] theorem State.modLaunch_cores (s : State) (n : Nat) (f : Launch → Launch) : (s.modLaunch n f).cores = s.cores := rfl
@[simp] theorem State.modLaunch_standTlbs (s : State) (n : Nat) (f : Launch → Launch) : (s.modLaunch n f).standTlbs = s.standTlbs := rfl
@[simp] theorem State.modLaunch_dies (s : State) (n : Nat) (f : Launch → Launch) : (s.modLaunch n f).dies = s.dies := rfl
@[simp] theorem State.modLaunch_strands (s : State) (n : Nat) (f : Launch → Launch) : (s.modLaunch n f).strands = s.strands := rfl
@[simp] theorem State.modLaunch_groves (s : State) (n : Nat) (f : Launch → Launch) : (s.modLaunch n f).groves = s.groves := rfl
@[simp] theorem State.modLaunch_launches (s : State) (n : Nat) (f : Launch → Launch) : (s.modLaunch n f).launches = s.launches.adj n f := rfl
@[simp] theorem State.modLaunch_parts (s : State) (n : Nat) (f : Launch → Launch) : (s.modLaunch n f).parts = s.parts := rfl
@[simp] theorem State.modLaunch_ops (s : State) (n : Nat) (f : Launch → Launch) : (s.modLaunch n f).ops = s.ops := rfl
@[simp] theorem State.modLaunch_twins (s : State) (n : Nat) (f : Launch → Launch) : (s.modLaunch n f).twins = s.twins := rfl
@[simp] theorem State.modLaunch_sched (s : State) (n : Nat) (f : Launch → Launch) : (s.modLaunch n f).sched = s.sched := rfl
@[simp] theorem State.modLaunch_trust (s : State) (n : Nat) (f : Launch → Launch) : (s.modLaunch n f).trust = s.trust := rfl
@[simp] theorem State.modLaunch_host (s : State) (n : Nat) (f : Launch → Launch) : (s.modLaunch n f).host = s.host := rfl
@[simp] theorem State.modLaunch_link (s : State) (n : Nat) (f : Launch → Launch) : (s.modLaunch n f).link = s.link := rfl
@[simp] theorem State.modLaunch_pow (s : State) (n : Nat) (f : Launch → Launch) : (s.modLaunch n f).pow = s.pow := rfl

/-! writeByte -/

@[simp] theorem State.writeByte_seq (s : State) (a : Nat) (b : Byte) : (s.writeByte a b).seq = s.seq := rfl
@[simp] theorem State.writeByte_freeN (s : State) (a : Nat) (b : Byte) : (s.writeByte a b).freeN = s.freeN := rfl
@[simp] theorem State.writeByte_stepN (s : State) (a : Nat) (b : Byte) : (s.writeByte a b).stepN = s.stepN := rfl
@[simp] theorem State.writeByte_lag (s : State) (a : Nat) (b : Byte) : (s.writeByte a b).lag = s.lag := rfl
@[simp] theorem State.writeByte_agenda (s : State) (a : Nat) (b : Byte) : (s.writeByte a b).agenda = s.agenda := rfl
@[simp] theorem State.writeByte_cur (s : State) (a : Nat) (b : Byte) : (s.writeByte a b).cur = s.cur := rfl
@[simp] theorem State.writeByte_slot1 (s : State) (a : Nat) (b : Byte) : (s.writeByte a b).slot1 = s.slot1 := rfl
@[simp] theorem State.writeByte_next1 (s : State) (a : Nat) (b : Byte) : (s.writeByte a b).next1 = s.next1 := rfl
@[simp] theorem State.writeByte_cyc (s : State) (a : Nat) (b : Byte) : (s.writeByte a b).cyc = s.cyc := rfl
@[simp] theorem State.writeByte_tick (s : State) (a : Nat) (b : Byte) : (s.writeByte a b).tick = s.tick := rfl
@[simp] theorem State.writeByte_pkg (s : State) (a : Nat) (b : Byte) : (s.writeByte a b).pkg = s.pkg := rfl
@[simp] theorem State.writeByte_mem (s : State) (a : Nat) (b : Byte) : (s.writeByte a b).mem = memPut s.mem a b := rfl
@[simp] theorem State.writeByte_dieLocal (s : State) (a : Nat) (b : Byte) : (s.writeByte a b).dieLocal = s.dieLocal := rfl
@[simp] theorem State.writeByte_poisoned (s : State) (a : Nat) (b : Byte) : (s.writeByte a b).poisoned = s.poisoned := rfl
@[simp] theorem State.writeByte_tagBad (s : State) (a : Nat) (b : Byte) : (s.writeByte a b).tagBad = s.tagBad := rfl
@[simp] theorem State.writeByte_slotLines (s : State) (a : Nat) (b : Byte) : (s.writeByte a b).slotLines = s.slotLines := rfl
@[simp] theorem State.writeByte_scrubCounts (s : State) (a : Nat) (b : Byte) : (s.writeByte a b).scrubCounts = s.scrubCounts := rfl
@[simp] theorem State.writeByte_twininj (s : State) (a : Nat) (b : Byte) : (s.writeByte a b).twininj = s.twininj := rfl
@[simp] theorem State.writeByte_cores (s : State) (a : Nat) (b : Byte) : (s.writeByte a b).cores = s.cores := rfl
@[simp] theorem State.writeByte_standTlbs (s : State) (a : Nat) (b : Byte) : (s.writeByte a b).standTlbs = s.standTlbs := rfl
@[simp] theorem State.writeByte_dies (s : State) (a : Nat) (b : Byte) : (s.writeByte a b).dies = s.dies := rfl
@[simp] theorem State.writeByte_strands (s : State) (a : Nat) (b : Byte) : (s.writeByte a b).strands = s.strands := rfl
@[simp] theorem State.writeByte_groves (s : State) (a : Nat) (b : Byte) : (s.writeByte a b).groves = s.groves := rfl
@[simp] theorem State.writeByte_launches (s : State) (a : Nat) (b : Byte) : (s.writeByte a b).launches = s.launches := rfl
@[simp] theorem State.writeByte_parts (s : State) (a : Nat) (b : Byte) : (s.writeByte a b).parts = s.parts := rfl
@[simp] theorem State.writeByte_ops (s : State) (a : Nat) (b : Byte) : (s.writeByte a b).ops = s.ops := rfl
@[simp] theorem State.writeByte_twins (s : State) (a : Nat) (b : Byte) : (s.writeByte a b).twins = s.twins := rfl
@[simp] theorem State.writeByte_sched (s : State) (a : Nat) (b : Byte) : (s.writeByte a b).sched = s.sched := rfl
@[simp] theorem State.writeByte_trust (s : State) (a : Nat) (b : Byte) : (s.writeByte a b).trust = s.trust := rfl
@[simp] theorem State.writeByte_host (s : State) (a : Nat) (b : Byte) : (s.writeByte a b).host = s.host := rfl
@[simp] theorem State.writeByte_link (s : State) (a : Nat) (b : Byte) : (s.writeByte a b).link = s.link := rfl
@[simp] theorem State.writeByte_pow (s : State) (a : Nat) (b : Byte) : (s.writeByte a b).pow = s.pow := rfl

/-! writeMem -/

@[simp] theorem State.writeMem_seq (s : State) (a : Nat) (bs : List Byte) : (s.writeMem a bs).seq = s.seq := rfl
@[simp] theorem State.writeMem_freeN (s : State) (a : Nat) (bs : List Byte) : (s.writeMem a bs).freeN = s.freeN := rfl
@[simp] theorem State.writeMem_stepN (s : State) (a : Nat) (bs : List Byte) : (s.writeMem a bs).stepN = s.stepN := rfl
@[simp] theorem State.writeMem_lag (s : State) (a : Nat) (bs : List Byte) : (s.writeMem a bs).lag = s.lag := rfl
@[simp] theorem State.writeMem_agenda (s : State) (a : Nat) (bs : List Byte) : (s.writeMem a bs).agenda = s.agenda := rfl
@[simp] theorem State.writeMem_cur (s : State) (a : Nat) (bs : List Byte) : (s.writeMem a bs).cur = s.cur := rfl
@[simp] theorem State.writeMem_slot1 (s : State) (a : Nat) (bs : List Byte) : (s.writeMem a bs).slot1 = s.slot1 := rfl
@[simp] theorem State.writeMem_next1 (s : State) (a : Nat) (bs : List Byte) : (s.writeMem a bs).next1 = s.next1 := rfl
@[simp] theorem State.writeMem_cyc (s : State) (a : Nat) (bs : List Byte) : (s.writeMem a bs).cyc = s.cyc := rfl
@[simp] theorem State.writeMem_tick (s : State) (a : Nat) (bs : List Byte) : (s.writeMem a bs).tick = s.tick := rfl
@[simp] theorem State.writeMem_pkg (s : State) (a : Nat) (bs : List Byte) : (s.writeMem a bs).pkg = s.pkg := rfl
@[simp] theorem State.writeMem_mem (s : State) (a : Nat) (bs : List Byte) : (s.writeMem a bs).mem = memPuts s.mem a bs := rfl
@[simp] theorem State.writeMem_dieLocal (s : State) (a : Nat) (bs : List Byte) : (s.writeMem a bs).dieLocal = s.dieLocal := rfl
@[simp] theorem State.writeMem_poisoned (s : State) (a : Nat) (bs : List Byte) : (s.writeMem a bs).poisoned = s.poisoned := rfl
@[simp] theorem State.writeMem_tagBad (s : State) (a : Nat) (bs : List Byte) : (s.writeMem a bs).tagBad = s.tagBad := rfl
@[simp] theorem State.writeMem_slotLines (s : State) (a : Nat) (bs : List Byte) : (s.writeMem a bs).slotLines = s.slotLines := rfl
@[simp] theorem State.writeMem_scrubCounts (s : State) (a : Nat) (bs : List Byte) : (s.writeMem a bs).scrubCounts = s.scrubCounts := rfl
@[simp] theorem State.writeMem_twininj (s : State) (a : Nat) (bs : List Byte) : (s.writeMem a bs).twininj = s.twininj := rfl
@[simp] theorem State.writeMem_cores (s : State) (a : Nat) (bs : List Byte) : (s.writeMem a bs).cores = s.cores := rfl
@[simp] theorem State.writeMem_standTlbs (s : State) (a : Nat) (bs : List Byte) : (s.writeMem a bs).standTlbs = s.standTlbs := rfl
@[simp] theorem State.writeMem_dies (s : State) (a : Nat) (bs : List Byte) : (s.writeMem a bs).dies = s.dies := rfl
@[simp] theorem State.writeMem_strands (s : State) (a : Nat) (bs : List Byte) : (s.writeMem a bs).strands = s.strands := rfl
@[simp] theorem State.writeMem_groves (s : State) (a : Nat) (bs : List Byte) : (s.writeMem a bs).groves = s.groves := rfl
@[simp] theorem State.writeMem_launches (s : State) (a : Nat) (bs : List Byte) : (s.writeMem a bs).launches = s.launches := rfl
@[simp] theorem State.writeMem_parts (s : State) (a : Nat) (bs : List Byte) : (s.writeMem a bs).parts = s.parts := rfl
@[simp] theorem State.writeMem_ops (s : State) (a : Nat) (bs : List Byte) : (s.writeMem a bs).ops = s.ops := rfl
@[simp] theorem State.writeMem_twins (s : State) (a : Nat) (bs : List Byte) : (s.writeMem a bs).twins = s.twins := rfl
@[simp] theorem State.writeMem_sched (s : State) (a : Nat) (bs : List Byte) : (s.writeMem a bs).sched = s.sched := rfl
@[simp] theorem State.writeMem_trust (s : State) (a : Nat) (bs : List Byte) : (s.writeMem a bs).trust = s.trust := rfl
@[simp] theorem State.writeMem_host (s : State) (a : Nat) (bs : List Byte) : (s.writeMem a bs).host = s.host := rfl
@[simp] theorem State.writeMem_link (s : State) (a : Nat) (bs : List Byte) : (s.writeMem a bs).link = s.link := rfl
@[simp] theorem State.writeMem_pow (s : State) (a : Nat) (bs : List Byte) : (s.writeMem a bs).pow = s.pow := rfl

/-! schedule -/

@[simp] theorem State.schedule_seq (s : State) (i : Instr) : (s.schedule i).seq = s.seq := rfl
@[simp] theorem State.schedule_freeN (s : State) (i : Instr) : (s.schedule i).freeN = s.freeN := rfl
@[simp] theorem State.schedule_stepN (s : State) (i : Instr) : (s.schedule i).stepN = s.stepN := rfl
@[simp] theorem State.schedule_lag (s : State) (i : Instr) : (s.schedule i).lag = s.lag := rfl
@[simp] theorem State.schedule_agenda (s : State) (i : Instr) : (s.schedule i).agenda = enqueue s.tick i s.agenda := rfl
@[simp] theorem State.schedule_cur (s : State) (i : Instr) : (s.schedule i).cur = s.cur := rfl
@[simp] theorem State.schedule_slot1 (s : State) (i : Instr) : (s.schedule i).slot1 = s.slot1 := rfl
@[simp] theorem State.schedule_next1 (s : State) (i : Instr) : (s.schedule i).next1 = s.next1 := rfl
@[simp] theorem State.schedule_cyc (s : State) (i : Instr) : (s.schedule i).cyc = s.cyc := rfl
@[simp] theorem State.schedule_tick (s : State) (i : Instr) : (s.schedule i).tick = s.tick := rfl
@[simp] theorem State.schedule_pkg (s : State) (i : Instr) : (s.schedule i).pkg = s.pkg := rfl
@[simp] theorem State.schedule_mem (s : State) (i : Instr) : (s.schedule i).mem = s.mem := rfl
@[simp] theorem State.schedule_dieLocal (s : State) (i : Instr) : (s.schedule i).dieLocal = s.dieLocal := rfl
@[simp] theorem State.schedule_poisoned (s : State) (i : Instr) : (s.schedule i).poisoned = s.poisoned := rfl
@[simp] theorem State.schedule_tagBad (s : State) (i : Instr) : (s.schedule i).tagBad = s.tagBad := rfl
@[simp] theorem State.schedule_slotLines (s : State) (i : Instr) : (s.schedule i).slotLines = s.slotLines := rfl
@[simp] theorem State.schedule_scrubCounts (s : State) (i : Instr) : (s.schedule i).scrubCounts = s.scrubCounts := rfl
@[simp] theorem State.schedule_twininj (s : State) (i : Instr) : (s.schedule i).twininj = s.twininj := rfl
@[simp] theorem State.schedule_cores (s : State) (i : Instr) : (s.schedule i).cores = s.cores := rfl
@[simp] theorem State.schedule_standTlbs (s : State) (i : Instr) : (s.schedule i).standTlbs = s.standTlbs := rfl
@[simp] theorem State.schedule_dies (s : State) (i : Instr) : (s.schedule i).dies = s.dies := rfl
@[simp] theorem State.schedule_strands (s : State) (i : Instr) : (s.schedule i).strands = s.strands := rfl
@[simp] theorem State.schedule_groves (s : State) (i : Instr) : (s.schedule i).groves = s.groves := rfl
@[simp] theorem State.schedule_launches (s : State) (i : Instr) : (s.schedule i).launches = s.launches := rfl
@[simp] theorem State.schedule_parts (s : State) (i : Instr) : (s.schedule i).parts = s.parts := rfl
@[simp] theorem State.schedule_ops (s : State) (i : Instr) : (s.schedule i).ops = s.ops := rfl
@[simp] theorem State.schedule_twins (s : State) (i : Instr) : (s.schedule i).twins = s.twins := rfl
@[simp] theorem State.schedule_sched (s : State) (i : Instr) : (s.schedule i).sched = s.sched := rfl
@[simp] theorem State.schedule_trust (s : State) (i : Instr) : (s.schedule i).trust = s.trust := rfl
@[simp] theorem State.schedule_host (s : State) (i : Instr) : (s.schedule i).host = s.host := rfl
@[simp] theorem State.schedule_link (s : State) (i : Instr) : (s.schedule i).link = s.link := rfl
@[simp] theorem State.schedule_pow (s : State) (i : Instr) : (s.schedule i).pow = s.pow := rfl

/-! setCohort -/

@[simp] theorem State.setCohort_seq (s : State) (c sl : Nat) (co : Cohort) : (s.setCohort c sl co).seq = s.seq := rfl
@[simp] theorem State.setCohort_freeN (s : State) (c sl : Nat) (co : Cohort) : (s.setCohort c sl co).freeN = s.freeN := rfl
@[simp] theorem State.setCohort_stepN (s : State) (c sl : Nat) (co : Cohort) : (s.setCohort c sl co).stepN = s.stepN := rfl
@[simp] theorem State.setCohort_lag (s : State) (c sl : Nat) (co : Cohort) : (s.setCohort c sl co).lag = s.lag := rfl
@[simp] theorem State.setCohort_agenda (s : State) (c sl : Nat) (co : Cohort) : (s.setCohort c sl co).agenda = s.agenda := rfl
@[simp] theorem State.setCohort_cur (s : State) (c sl : Nat) (co : Cohort) : (s.setCohort c sl co).cur = s.cur := rfl
@[simp] theorem State.setCohort_slot1 (s : State) (c sl : Nat) (co : Cohort) : (s.setCohort c sl co).slot1 = s.slot1 := rfl
@[simp] theorem State.setCohort_next1 (s : State) (c sl : Nat) (co : Cohort) : (s.setCohort c sl co).next1 = s.next1 := rfl
@[simp] theorem State.setCohort_cyc (s : State) (c sl : Nat) (co : Cohort) : (s.setCohort c sl co).cyc = s.cyc := rfl
@[simp] theorem State.setCohort_tick (s : State) (c sl : Nat) (co : Cohort) : (s.setCohort c sl co).tick = s.tick := rfl
@[simp] theorem State.setCohort_pkg (s : State) (c sl : Nat) (co : Cohort) : (s.setCohort c sl co).pkg = s.pkg := rfl
@[simp] theorem State.setCohort_mem (s : State) (c sl : Nat) (co : Cohort) : (s.setCohort c sl co).mem = s.mem := rfl
@[simp] theorem State.setCohort_dieLocal (s : State) (c sl : Nat) (co : Cohort) : (s.setCohort c sl co).dieLocal = s.dieLocal := rfl
@[simp] theorem State.setCohort_poisoned (s : State) (c sl : Nat) (co : Cohort) : (s.setCohort c sl co).poisoned = s.poisoned := rfl
@[simp] theorem State.setCohort_tagBad (s : State) (c sl : Nat) (co : Cohort) : (s.setCohort c sl co).tagBad = s.tagBad := rfl
@[simp] theorem State.setCohort_slotLines (s : State) (c sl : Nat) (co : Cohort) : (s.setCohort c sl co).slotLines = s.slotLines := rfl
@[simp] theorem State.setCohort_scrubCounts (s : State) (c sl : Nat) (co : Cohort) : (s.setCohort c sl co).scrubCounts = s.scrubCounts := rfl
@[simp] theorem State.setCohort_twininj (s : State) (c sl : Nat) (co : Cohort) : (s.setCohort c sl co).twininj = s.twininj := rfl
@[simp] theorem State.setCohort_cores (s : State) (c sl : Nat) (co : Cohort) : (s.setCohort c sl co).cores = s.cores.put c (if co.lanes.isEmpty then { s.core c with slots := (s.core c).slots.put sl co }.vacate sl else { s.core c with slots := (s.core c).slots.put sl co }) := rfl
@[simp] theorem State.setCohort_standTlbs (s : State) (c sl : Nat) (co : Cohort) : (s.setCohort c sl co).standTlbs = s.standTlbs := rfl
@[simp] theorem State.setCohort_dies (s : State) (c sl : Nat) (co : Cohort) : (s.setCohort c sl co).dies = s.dies := rfl
@[simp] theorem State.setCohort_strands (s : State) (c sl : Nat) (co : Cohort) : (s.setCohort c sl co).strands = s.strands := rfl
@[simp] theorem State.setCohort_groves (s : State) (c sl : Nat) (co : Cohort) : (s.setCohort c sl co).groves = s.groves := rfl
@[simp] theorem State.setCohort_launches (s : State) (c sl : Nat) (co : Cohort) : (s.setCohort c sl co).launches = s.launches := rfl
@[simp] theorem State.setCohort_parts (s : State) (c sl : Nat) (co : Cohort) : (s.setCohort c sl co).parts = s.parts := rfl
@[simp] theorem State.setCohort_ops (s : State) (c sl : Nat) (co : Cohort) : (s.setCohort c sl co).ops = s.ops := rfl
@[simp] theorem State.setCohort_twins (s : State) (c sl : Nat) (co : Cohort) : (s.setCohort c sl co).twins = s.twins := rfl
@[simp] theorem State.setCohort_sched (s : State) (c sl : Nat) (co : Cohort) : (s.setCohort c sl co).sched = s.sched := rfl
@[simp] theorem State.setCohort_trust (s : State) (c sl : Nat) (co : Cohort) : (s.setCohort c sl co).trust = s.trust := rfl
@[simp] theorem State.setCohort_host (s : State) (c sl : Nat) (co : Cohort) : (s.setCohort c sl co).host = s.host := rfl
@[simp] theorem State.setCohort_link (s : State) (c sl : Nat) (co : Cohort) : (s.setCohort c sl co).link = s.link := rfl
@[simp] theorem State.setCohort_pow (s : State) (c sl : Nat) (co : Cohort) : (s.setCohort c sl co).pow = s.pow := rfl

/-! fresh -/

@[simp] theorem State.fresh_seq (s : State) : s.fresh.2.seq = s.seq + 1 := rfl
@[simp] theorem State.fresh_freeN (s : State) : s.fresh.2.freeN = s.freeN := rfl
@[simp] theorem State.fresh_stepN (s : State) : s.fresh.2.stepN = s.stepN := rfl
@[simp] theorem State.fresh_lag (s : State) : s.fresh.2.lag = s.lag := rfl
@[simp] theorem State.fresh_agenda (s : State) : s.fresh.2.agenda = s.agenda := rfl
@[simp] theorem State.fresh_cur (s : State) : s.fresh.2.cur = s.cur := rfl
@[simp] theorem State.fresh_slot1 (s : State) : s.fresh.2.slot1 = s.slot1 := rfl
@[simp] theorem State.fresh_next1 (s : State) : s.fresh.2.next1 = s.next1 := rfl
@[simp] theorem State.fresh_cyc (s : State) : s.fresh.2.cyc = s.cyc := rfl
@[simp] theorem State.fresh_tick (s : State) : s.fresh.2.tick = s.tick := rfl
@[simp] theorem State.fresh_pkg (s : State) : s.fresh.2.pkg = s.pkg := rfl
@[simp] theorem State.fresh_mem (s : State) : s.fresh.2.mem = s.mem := rfl
@[simp] theorem State.fresh_dieLocal (s : State) : s.fresh.2.dieLocal = s.dieLocal := rfl
@[simp] theorem State.fresh_poisoned (s : State) : s.fresh.2.poisoned = s.poisoned := rfl
@[simp] theorem State.fresh_tagBad (s : State) : s.fresh.2.tagBad = s.tagBad := rfl
@[simp] theorem State.fresh_slotLines (s : State) : s.fresh.2.slotLines = s.slotLines := rfl
@[simp] theorem State.fresh_scrubCounts (s : State) : s.fresh.2.scrubCounts = s.scrubCounts := rfl
@[simp] theorem State.fresh_twininj (s : State) : s.fresh.2.twininj = s.twininj := rfl
@[simp] theorem State.fresh_cores (s : State) : s.fresh.2.cores = s.cores := rfl
@[simp] theorem State.fresh_standTlbs (s : State) : s.fresh.2.standTlbs = s.standTlbs := rfl
@[simp] theorem State.fresh_dies (s : State) : s.fresh.2.dies = s.dies := rfl
@[simp] theorem State.fresh_strands (s : State) : s.fresh.2.strands = s.strands := rfl
@[simp] theorem State.fresh_groves (s : State) : s.fresh.2.groves = s.groves := rfl
@[simp] theorem State.fresh_launches (s : State) : s.fresh.2.launches = s.launches := rfl
@[simp] theorem State.fresh_parts (s : State) : s.fresh.2.parts = s.parts := rfl
@[simp] theorem State.fresh_ops (s : State) : s.fresh.2.ops = s.ops := rfl
@[simp] theorem State.fresh_twins (s : State) : s.fresh.2.twins = s.twins := rfl
@[simp] theorem State.fresh_sched (s : State) : s.fresh.2.sched = s.sched := rfl
@[simp] theorem State.fresh_trust (s : State) : s.fresh.2.trust = s.trust := rfl
@[simp] theorem State.fresh_host (s : State) : s.fresh.2.host = s.host := rfl
@[simp] theorem State.fresh_link (s : State) : s.fresh.2.link = s.link := rfl
@[simp] theorem State.fresh_pow (s : State) : s.fresh.2.pow = s.pow := rfl

/-! takeFree -/

@[simp] theorem State.takeFree_seq (s : State) : s.takeFree.2.seq = s.seq := rfl
@[simp] theorem State.takeFree_freeN (s : State) : s.takeFree.2.freeN = s.freeN + 1 := rfl
@[simp] theorem State.takeFree_stepN (s : State) : s.takeFree.2.stepN = s.stepN := rfl
@[simp] theorem State.takeFree_lag (s : State) : s.takeFree.2.lag = s.lag := rfl
@[simp] theorem State.takeFree_agenda (s : State) : s.takeFree.2.agenda = s.agenda := rfl
@[simp] theorem State.takeFree_cur (s : State) : s.takeFree.2.cur = s.cur := rfl
@[simp] theorem State.takeFree_slot1 (s : State) : s.takeFree.2.slot1 = s.slot1 := rfl
@[simp] theorem State.takeFree_next1 (s : State) : s.takeFree.2.next1 = s.next1 := rfl
@[simp] theorem State.takeFree_cyc (s : State) : s.takeFree.2.cyc = s.cyc := rfl
@[simp] theorem State.takeFree_tick (s : State) : s.takeFree.2.tick = s.tick := rfl
@[simp] theorem State.takeFree_pkg (s : State) : s.takeFree.2.pkg = s.pkg := rfl
@[simp] theorem State.takeFree_mem (s : State) : s.takeFree.2.mem = s.mem := rfl
@[simp] theorem State.takeFree_dieLocal (s : State) : s.takeFree.2.dieLocal = s.dieLocal := rfl
@[simp] theorem State.takeFree_poisoned (s : State) : s.takeFree.2.poisoned = s.poisoned := rfl
@[simp] theorem State.takeFree_tagBad (s : State) : s.takeFree.2.tagBad = s.tagBad := rfl
@[simp] theorem State.takeFree_slotLines (s : State) : s.takeFree.2.slotLines = s.slotLines := rfl
@[simp] theorem State.takeFree_scrubCounts (s : State) : s.takeFree.2.scrubCounts = s.scrubCounts := rfl
@[simp] theorem State.takeFree_twininj (s : State) : s.takeFree.2.twininj = s.twininj := rfl
@[simp] theorem State.takeFree_cores (s : State) : s.takeFree.2.cores = s.cores := rfl
@[simp] theorem State.takeFree_standTlbs (s : State) : s.takeFree.2.standTlbs = s.standTlbs := rfl
@[simp] theorem State.takeFree_dies (s : State) : s.takeFree.2.dies = s.dies := rfl
@[simp] theorem State.takeFree_strands (s : State) : s.takeFree.2.strands = s.strands := rfl
@[simp] theorem State.takeFree_groves (s : State) : s.takeFree.2.groves = s.groves := rfl
@[simp] theorem State.takeFree_launches (s : State) : s.takeFree.2.launches = s.launches := rfl
@[simp] theorem State.takeFree_parts (s : State) : s.takeFree.2.parts = s.parts := rfl
@[simp] theorem State.takeFree_ops (s : State) : s.takeFree.2.ops = s.ops := rfl
@[simp] theorem State.takeFree_twins (s : State) : s.takeFree.2.twins = s.twins := rfl
@[simp] theorem State.takeFree_sched (s : State) : s.takeFree.2.sched = s.sched := rfl
@[simp] theorem State.takeFree_trust (s : State) : s.takeFree.2.trust = s.trust := rfl
@[simp] theorem State.takeFree_host (s : State) : s.takeFree.2.host = s.host := rfl
@[simp] theorem State.takeFree_link (s : State) : s.takeFree.2.link = s.link := rfl
@[simp] theorem State.takeFree_pow (s : State) : s.takeFree.2.pow = s.pow := rfl

/-! modCohort -/

@[simp] theorem State.modCohort_seq (s : State) (c sl : Nat) (f : Cohort → Cohort) : (s.modCohort c sl f).seq = s.seq := by unfold State.modCohort; split <;> rfl
@[simp] theorem State.modCohort_freeN (s : State) (c sl : Nat) (f : Cohort → Cohort) : (s.modCohort c sl f).freeN = s.freeN := by unfold State.modCohort; split <;> rfl
@[simp] theorem State.modCohort_stepN (s : State) (c sl : Nat) (f : Cohort → Cohort) : (s.modCohort c sl f).stepN = s.stepN := by unfold State.modCohort; split <;> rfl
@[simp] theorem State.modCohort_lag (s : State) (c sl : Nat) (f : Cohort → Cohort) : (s.modCohort c sl f).lag = s.lag := by unfold State.modCohort; split <;> rfl
@[simp] theorem State.modCohort_agenda (s : State) (c sl : Nat) (f : Cohort → Cohort) : (s.modCohort c sl f).agenda = s.agenda := by unfold State.modCohort; split <;> rfl
@[simp] theorem State.modCohort_cur (s : State) (c sl : Nat) (f : Cohort → Cohort) : (s.modCohort c sl f).cur = s.cur := by unfold State.modCohort; split <;> rfl
@[simp] theorem State.modCohort_slot1 (s : State) (c sl : Nat) (f : Cohort → Cohort) : (s.modCohort c sl f).slot1 = s.slot1 := by unfold State.modCohort; split <;> rfl
@[simp] theorem State.modCohort_next1 (s : State) (c sl : Nat) (f : Cohort → Cohort) : (s.modCohort c sl f).next1 = s.next1 := by unfold State.modCohort; split <;> rfl
@[simp] theorem State.modCohort_cyc (s : State) (c sl : Nat) (f : Cohort → Cohort) : (s.modCohort c sl f).cyc = s.cyc := by unfold State.modCohort; split <;> rfl
@[simp] theorem State.modCohort_tick (s : State) (c sl : Nat) (f : Cohort → Cohort) : (s.modCohort c sl f).tick = s.tick := by unfold State.modCohort; split <;> rfl
@[simp] theorem State.modCohort_pkg (s : State) (c sl : Nat) (f : Cohort → Cohort) : (s.modCohort c sl f).pkg = s.pkg := by unfold State.modCohort; split <;> rfl
@[simp] theorem State.modCohort_mem (s : State) (c sl : Nat) (f : Cohort → Cohort) : (s.modCohort c sl f).mem = s.mem := by unfold State.modCohort; split <;> rfl
@[simp] theorem State.modCohort_dieLocal (s : State) (c sl : Nat) (f : Cohort → Cohort) : (s.modCohort c sl f).dieLocal = s.dieLocal := by unfold State.modCohort; split <;> rfl
@[simp] theorem State.modCohort_poisoned (s : State) (c sl : Nat) (f : Cohort → Cohort) : (s.modCohort c sl f).poisoned = s.poisoned := by unfold State.modCohort; split <;> rfl
@[simp] theorem State.modCohort_tagBad (s : State) (c sl : Nat) (f : Cohort → Cohort) : (s.modCohort c sl f).tagBad = s.tagBad := by unfold State.modCohort; split <;> rfl
@[simp] theorem State.modCohort_slotLines (s : State) (c sl : Nat) (f : Cohort → Cohort) : (s.modCohort c sl f).slotLines = s.slotLines := by unfold State.modCohort; split <;> rfl
@[simp] theorem State.modCohort_scrubCounts (s : State) (c sl : Nat) (f : Cohort → Cohort) : (s.modCohort c sl f).scrubCounts = s.scrubCounts := by unfold State.modCohort; split <;> rfl
@[simp] theorem State.modCohort_twininj (s : State) (c sl : Nat) (f : Cohort → Cohort) : (s.modCohort c sl f).twininj = s.twininj := by unfold State.modCohort; split <;> rfl
@[simp] theorem State.modCohort_standTlbs (s : State) (c sl : Nat) (f : Cohort → Cohort) : (s.modCohort c sl f).standTlbs = s.standTlbs := by unfold State.modCohort; split <;> rfl
@[simp] theorem State.modCohort_dies (s : State) (c sl : Nat) (f : Cohort → Cohort) : (s.modCohort c sl f).dies = s.dies := by unfold State.modCohort; split <;> rfl
@[simp] theorem State.modCohort_strands (s : State) (c sl : Nat) (f : Cohort → Cohort) : (s.modCohort c sl f).strands = s.strands := by unfold State.modCohort; split <;> rfl
@[simp] theorem State.modCohort_groves (s : State) (c sl : Nat) (f : Cohort → Cohort) : (s.modCohort c sl f).groves = s.groves := by unfold State.modCohort; split <;> rfl
@[simp] theorem State.modCohort_launches (s : State) (c sl : Nat) (f : Cohort → Cohort) : (s.modCohort c sl f).launches = s.launches := by unfold State.modCohort; split <;> rfl
@[simp] theorem State.modCohort_parts (s : State) (c sl : Nat) (f : Cohort → Cohort) : (s.modCohort c sl f).parts = s.parts := by unfold State.modCohort; split <;> rfl
@[simp] theorem State.modCohort_ops (s : State) (c sl : Nat) (f : Cohort → Cohort) : (s.modCohort c sl f).ops = s.ops := by unfold State.modCohort; split <;> rfl
@[simp] theorem State.modCohort_twins (s : State) (c sl : Nat) (f : Cohort → Cohort) : (s.modCohort c sl f).twins = s.twins := by unfold State.modCohort; split <;> rfl
@[simp] theorem State.modCohort_sched (s : State) (c sl : Nat) (f : Cohort → Cohort) : (s.modCohort c sl f).sched = s.sched := by unfold State.modCohort; split <;> rfl
@[simp] theorem State.modCohort_trust (s : State) (c sl : Nat) (f : Cohort → Cohort) : (s.modCohort c sl f).trust = s.trust := by unfold State.modCohort; split <;> rfl
@[simp] theorem State.modCohort_host (s : State) (c sl : Nat) (f : Cohort → Cohort) : (s.modCohort c sl f).host = s.host := by unfold State.modCohort; split <;> rfl
@[simp] theorem State.modCohort_link (s : State) (c sl : Nat) (f : Cohort → Cohort) : (s.modCohort c sl f).link = s.link := by unfold State.modCohort; split <;> rfl
@[simp] theorem State.modCohort_pow (s : State) (c sl : Nat) (f : Cohort → Cohort) : (s.modCohort c sl f).pow = s.pow := by unfold State.modCohort; split <;> rfl

/-! snoop -/

@[simp] theorem State.snoop_seq (s : State) (lines : List Nat) : (s.snoop lines).seq = s.seq := rfl
@[simp] theorem State.snoop_freeN (s : State) (lines : List Nat) : (s.snoop lines).freeN = s.freeN := rfl
@[simp] theorem State.snoop_stepN (s : State) (lines : List Nat) : (s.snoop lines).stepN = s.stepN := rfl
@[simp] theorem State.snoop_lag (s : State) (lines : List Nat) : (s.snoop lines).lag = s.lag := rfl
@[simp] theorem State.snoop_agenda (s : State) (lines : List Nat) : (s.snoop lines).agenda = s.agenda := rfl
@[simp] theorem State.snoop_cur (s : State) (lines : List Nat) : (s.snoop lines).cur = s.cur := rfl
@[simp] theorem State.snoop_slot1 (s : State) (lines : List Nat) : (s.snoop lines).slot1 = s.slot1 := rfl
@[simp] theorem State.snoop_next1 (s : State) (lines : List Nat) : (s.snoop lines).next1 = s.next1 := rfl
@[simp] theorem State.snoop_cyc (s : State) (lines : List Nat) : (s.snoop lines).cyc = s.cyc := rfl
@[simp] theorem State.snoop_tick (s : State) (lines : List Nat) : (s.snoop lines).tick = s.tick := rfl
@[simp] theorem State.snoop_pkg (s : State) (lines : List Nat) : (s.snoop lines).pkg = s.pkg := rfl
@[simp] theorem State.snoop_mem (s : State) (lines : List Nat) : (s.snoop lines).mem = s.mem := rfl
@[simp] theorem State.snoop_dieLocal (s : State) (lines : List Nat) : (s.snoop lines).dieLocal = s.dieLocal := rfl
@[simp] theorem State.snoop_poisoned (s : State) (lines : List Nat) : (s.snoop lines).poisoned = s.poisoned := rfl
@[simp] theorem State.snoop_tagBad (s : State) (lines : List Nat) : (s.snoop lines).tagBad = s.tagBad := rfl
@[simp] theorem State.snoop_slotLines (s : State) (lines : List Nat) : (s.snoop lines).slotLines = s.slotLines := rfl
@[simp] theorem State.snoop_scrubCounts (s : State) (lines : List Nat) : (s.snoop lines).scrubCounts = s.scrubCounts := rfl
@[simp] theorem State.snoop_twininj (s : State) (lines : List Nat) : (s.snoop lines).twininj = s.twininj := rfl
@[simp] theorem State.snoop_cores (s : State) (lines : List Nat) : (s.snoop lines).cores = s.cores := rfl
@[simp] theorem State.snoop_standTlbs (s : State) (lines : List Nat) : (s.snoop lines).standTlbs = s.standTlbs := rfl
@[simp] theorem State.snoop_dies (s : State) (lines : List Nat) : (s.snoop lines).dies = s.dies := rfl
@[simp] theorem State.snoop_strands (s : State) (lines : List Nat) : (s.snoop lines).strands = s.strands := rfl
@[simp] theorem State.snoop_groves (s : State) (lines : List Nat) : (s.snoop lines).groves = s.groves := rfl
@[simp] theorem State.snoop_launches (s : State) (lines : List Nat) : (s.snoop lines).launches = s.launches := rfl
@[simp] theorem State.snoop_parts (s : State) (lines : List Nat) : (s.snoop lines).parts = s.parts := rfl
@[simp] theorem State.snoop_ops (s : State) (lines : List Nat) : (s.snoop lines).ops = s.ops := rfl
@[simp] theorem State.snoop_twins (s : State) (lines : List Nat) : (s.snoop lines).twins = s.twins := rfl
@[simp] theorem State.snoop_sched (s : State) (lines : List Nat) : (s.snoop lines).sched = s.sched := rfl
@[simp] theorem State.snoop_trust (s : State) (lines : List Nat) : (s.snoop lines).trust = s.trust := rfl
@[simp] theorem State.snoop_link (s : State) (lines : List Nat) : (s.snoop lines).link = s.link := rfl
@[simp] theorem State.snoop_pow (s : State) (lines : List Nat) : (s.snoop lines).pow = s.pow := rfl
@[simp] theorem State.snoop_lines (s : State) (lines : List Nat) : (s.snoop lines).host.lines = s.host.lines := rfl

/-! unitsRead -/

@[simp] theorem State.unitsRead_seq (s : State) (ps : List (Nat × Nat × DWord × Nat)) : (s.unitsRead ps).seq = s.seq := by unfold State.unitsRead; split <;> rfl
@[simp] theorem State.unitsRead_freeN (s : State) (ps : List (Nat × Nat × DWord × Nat)) : (s.unitsRead ps).freeN = s.freeN := by unfold State.unitsRead; split <;> rfl
@[simp] theorem State.unitsRead_stepN (s : State) (ps : List (Nat × Nat × DWord × Nat)) : (s.unitsRead ps).stepN = s.stepN := by unfold State.unitsRead; split <;> rfl
@[simp] theorem State.unitsRead_lag (s : State) (ps : List (Nat × Nat × DWord × Nat)) : (s.unitsRead ps).lag = s.lag := by unfold State.unitsRead; split <;> rfl
@[simp] theorem State.unitsRead_agenda (s : State) (ps : List (Nat × Nat × DWord × Nat)) : (s.unitsRead ps).agenda = s.agenda := by unfold State.unitsRead; split <;> rfl
@[simp] theorem State.unitsRead_cur (s : State) (ps : List (Nat × Nat × DWord × Nat)) : (s.unitsRead ps).cur = s.cur := by unfold State.unitsRead; split <;> rfl
@[simp] theorem State.unitsRead_slot1 (s : State) (ps : List (Nat × Nat × DWord × Nat)) : (s.unitsRead ps).slot1 = s.slot1 := by unfold State.unitsRead; split <;> rfl
@[simp] theorem State.unitsRead_next1 (s : State) (ps : List (Nat × Nat × DWord × Nat)) : (s.unitsRead ps).next1 = s.next1 := by unfold State.unitsRead; split <;> rfl
@[simp] theorem State.unitsRead_cyc (s : State) (ps : List (Nat × Nat × DWord × Nat)) : (s.unitsRead ps).cyc = s.cyc := by unfold State.unitsRead; split <;> rfl
@[simp] theorem State.unitsRead_tick (s : State) (ps : List (Nat × Nat × DWord × Nat)) : (s.unitsRead ps).tick = s.tick := by unfold State.unitsRead; split <;> rfl
@[simp] theorem State.unitsRead_pkg (s : State) (ps : List (Nat × Nat × DWord × Nat)) : (s.unitsRead ps).pkg = s.pkg := by unfold State.unitsRead; split <;> rfl
@[simp] theorem State.unitsRead_mem (s : State) (ps : List (Nat × Nat × DWord × Nat)) : (s.unitsRead ps).mem = s.mem := by unfold State.unitsRead; split <;> rfl
@[simp] theorem State.unitsRead_dieLocal (s : State) (ps : List (Nat × Nat × DWord × Nat)) : (s.unitsRead ps).dieLocal = s.dieLocal := by unfold State.unitsRead; split <;> rfl
@[simp] theorem State.unitsRead_poisoned (s : State) (ps : List (Nat × Nat × DWord × Nat)) : (s.unitsRead ps).poisoned = s.poisoned := by unfold State.unitsRead; split <;> rfl
@[simp] theorem State.unitsRead_tagBad (s : State) (ps : List (Nat × Nat × DWord × Nat)) : (s.unitsRead ps).tagBad = s.tagBad := by unfold State.unitsRead; split <;> rfl
@[simp] theorem State.unitsRead_slotLines (s : State) (ps : List (Nat × Nat × DWord × Nat)) : (s.unitsRead ps).slotLines = s.slotLines := by unfold State.unitsRead; split <;> rfl
@[simp] theorem State.unitsRead_scrubCounts (s : State) (ps : List (Nat × Nat × DWord × Nat)) : (s.unitsRead ps).scrubCounts = s.scrubCounts := by unfold State.unitsRead; split <;> rfl
@[simp] theorem State.unitsRead_twininj (s : State) (ps : List (Nat × Nat × DWord × Nat)) : (s.unitsRead ps).twininj = s.twininj := by unfold State.unitsRead; split <;> rfl
@[simp] theorem State.unitsRead_cores (s : State) (ps : List (Nat × Nat × DWord × Nat)) : (s.unitsRead ps).cores = s.cores := by unfold State.unitsRead; split <;> rfl
@[simp] theorem State.unitsRead_standTlbs (s : State) (ps : List (Nat × Nat × DWord × Nat)) : (s.unitsRead ps).standTlbs = s.standTlbs := by unfold State.unitsRead; split <;> rfl
@[simp] theorem State.unitsRead_dies (s : State) (ps : List (Nat × Nat × DWord × Nat)) : (s.unitsRead ps).dies = s.dies := by unfold State.unitsRead; split <;> rfl
@[simp] theorem State.unitsRead_strands (s : State) (ps : List (Nat × Nat × DWord × Nat)) : (s.unitsRead ps).strands = s.strands := by unfold State.unitsRead; split <;> rfl
@[simp] theorem State.unitsRead_groves (s : State) (ps : List (Nat × Nat × DWord × Nat)) : (s.unitsRead ps).groves = s.groves := by unfold State.unitsRead; split <;> rfl
@[simp] theorem State.unitsRead_launches (s : State) (ps : List (Nat × Nat × DWord × Nat)) : (s.unitsRead ps).launches = s.launches := by unfold State.unitsRead; split <;> rfl
@[simp] theorem State.unitsRead_parts (s : State) (ps : List (Nat × Nat × DWord × Nat)) : (s.unitsRead ps).parts = s.parts := by unfold State.unitsRead; split <;> rfl
@[simp] theorem State.unitsRead_ops (s : State) (ps : List (Nat × Nat × DWord × Nat)) : (s.unitsRead ps).ops = s.ops := by unfold State.unitsRead; split <;> rfl
@[simp] theorem State.unitsRead_twins (s : State) (ps : List (Nat × Nat × DWord × Nat)) : (s.unitsRead ps).twins = s.twins := by unfold State.unitsRead; split <;> rfl
@[simp] theorem State.unitsRead_sched (s : State) (ps : List (Nat × Nat × DWord × Nat)) : (s.unitsRead ps).sched = s.sched := by unfold State.unitsRead; split <;> rfl
@[simp] theorem State.unitsRead_trust (s : State) (ps : List (Nat × Nat × DWord × Nat)) : (s.unitsRead ps).trust = s.trust := by unfold State.unitsRead; split <;> rfl
@[simp] theorem State.unitsRead_host (s : State) (ps : List (Nat × Nat × DWord × Nat)) : (s.unitsRead ps).host = s.host := by unfold State.unitsRead; split <;> rfl
@[simp] theorem State.unitsRead_pow (s : State) (ps : List (Nat × Nat × DWord × Nat)) : (s.unitsRead ps).pow = s.pow := by unfold State.unitsRead; split <;> rfl
@[simp] theorem State.unitsRead_nil (s : State) : s.unitsRead [] = s := rfl

end Sys2Proof.Machine
end

