-- ==== Sys2Proof/Laws/Table.lean ====
section
/-! SUPPORT. Laws of the sparse table: reads after writes, and that its one form is kept. -/
namespace Sys2Proof

@[simp] theorem NMap.find?_nil {α : Type} (n : Nat) : NMap.find? ([] : NMap α) n = none := rfl

/-- Reading the key just written. -/
@[simp] theorem NMap.find?_put_same {α : Type} (m : NMap α) (n : Nat) (x : α) : (m.put n x).find? n = some x := by
  induction m with
  | nil => simp [NMap.put, NMap.find?]
  | cons h t ih =>
    obtain ⟨k, v⟩ := h
    by_cases h1 : n < k
    · simp [NMap.put, NMap.find?, h1]
    · by_cases h2 : n = k
      · simp [NMap.put, NMap.find?, h2]
      · have h3 : ¬ k = n := fun e => h2 e.symm
        simpa [NMap.put, NMap.find?, h1, h2, h3] using ih
/-- A key below every listed one is not listed. -/
theorem NMap.find?_below {α : Type} (m : NMap α) (a n : Nat) (hm : NMap.sortedFrom a m = true) (h : n < a) : m.find? n = none := by
  induction m generalizing a with
  | nil => rfl
  | cons x t ih =>
    obtain ⟨k, v⟩ := x
    simp only [NMap.sortedFrom, Bool.and_eq_true, decide_eq_true_eq] at hm
    have hk : ¬ k = n := by omega
    simpa [NMap.find?, hk] using ih (k + 1) hm.2 (by omega)
/-- Writing one key leaves the others. -/
theorem NMap.find?_put_other {α : Type} (m : NMap α) (n j : Nat) (x : α) (h : j ≠ n) : (m.put n x).find? j = m.find? j := by
  have h' : ¬ n = j := fun e => h e.symm
  induction m with
  | nil => simp [NMap.put, NMap.find?, h']
  | cons y t ih =>
    obtain ⟨k, v⟩ := y
    by_cases h1 : n < k
    · simp [NMap.put, NMap.find?, h1, h']
    · by_cases h2 : n = k
      · subst h2
        simp [NMap.put, NMap.find?, h']
      · simp only [NMap.put, h1, h2, if_false, NMap.find?]
        by_cases h3 : k = j
        · simp [h3]
        · simpa [h3] using ih
/-- Taking a key out of a sorted table. -/
theorem NMap.find?_del_same {α : Type} (m : NMap α) (a n : Nat) (hm : NMap.sortedFrom a m = true) : (m.del n).find? n = none := by
  induction m generalizing a with
  | nil => rfl
  | cons x t ih =>
    obtain ⟨k, v⟩ := x
    simp only [NMap.sortedFrom, Bool.and_eq_true, decide_eq_true_eq] at hm
    by_cases h : k = n
    · simpa [NMap.del, h] using NMap.find?_below t (k + 1) n hm.2 (by omega)
    · simpa [NMap.del, h, NMap.find?] using ih (k + 1) hm.2
/-- Taking one key out leaves the others. -/
theorem NMap.find?_del_other {α : Type} (m : NMap α) (n j : Nat) (h : j ≠ n) : (m.del n).find? j = m.find? j := by
  induction m with
  | nil => rfl
  | cons x t ih =>
    obtain ⟨k, v⟩ := x
    by_cases h1 : k = n
    · subst h1
      have h2 : ¬ k = j := fun e => h e.symm
      simp [NMap.del, NMap.find?, h2]
    · simp only [NMap.del, h1, if_false, NMap.find?]
      by_cases h2 : k = j
      · simp [h2]
      · simpa [h2] using ih

/-- A table sorted from b on is sorted from any smaller bound. -/
theorem NMap.sortedFrom_le {α : Type} (m : NMap α) (a b : Nat) (h : a ≤ b) (hm : NMap.sortedFrom b m = true) : NMap.sortedFrom a m = true := by
  cases m with
  | nil => rfl
  | cons x t =>
    obtain ⟨k, v⟩ := x
    simp only [NMap.sortedFrom, Bool.and_eq_true, decide_eq_true_eq] at hm ⊢
    exact ⟨by omega, hm.2⟩
theorem NMap.sortedFrom_put {α : Type} (m : NMap α) (a n : Nat) (x : α) (h : a ≤ n) (hm : NMap.sortedFrom a m = true) : NMap.sortedFrom a (m.put n x) = true := by
  induction m generalizing a with
  | nil => simp [NMap.put, NMap.sortedFrom, h]
  | cons y t ih =>
    obtain ⟨k, v⟩ := y
    simp only [NMap.sortedFrom, Bool.and_eq_true, decide_eq_true_eq] at hm
    by_cases h1 : n < k
    · simp only [NMap.put, h1, if_true, NMap.sortedFrom, Bool.and_eq_true, decide_eq_true_eq]
      exact ⟨h, by omega, hm.2⟩
    · by_cases h2 : n = k
      · subst h2
        simp [NMap.put, NMap.sortedFrom, h, hm.2]
      · simp only [NMap.put, h1, h2, if_false, NMap.sortedFrom, Bool.and_eq_true, decide_eq_true_eq]
        exact ⟨hm.1, ih (k + 1) (by omega) hm.2⟩
theorem NMap.sortedFrom_del {α : Type} (m : NMap α) (a n : Nat) (hm : NMap.sortedFrom a m = true) : NMap.sortedFrom a (m.del n) = true := by
  induction m generalizing a with
  | nil => rfl
  | cons y t ih =>
    obtain ⟨k, v⟩ := y
    simp only [NMap.sortedFrom, Bool.and_eq_true, decide_eq_true_eq] at hm
    by_cases h : k = n
    · simpa [NMap.del, h] using NMap.sortedFrom_le t a (k + 1) (by omega) hm.2
    · simp only [NMap.del, h, if_false, NMap.sortedFrom, Bool.and_eq_true, decide_eq_true_eq]
      exact ⟨hm.1, ih (k + 1) hm.2⟩
/-- Writing keeps the one form. -/
theorem NMap.sorted_put {α : Type} (m : NMap α) (n : Nat) (x : α) (hm : m.sorted = true) : (m.put n x).sorted = true :=
  NMap.sortedFrom_put m 0 n x (by omega) hm
/-- Taking out keeps the one form. -/
theorem NMap.sorted_del {α : Type} (m : NMap α) (n : Nat) (hm : m.sorted = true) : (m.del n).sorted = true := NMap.sortedFrom_del m 0 n hm

end Sys2Proof
end

