-- ==== Sys2Proof/Laws/Issue.lean ====
section
/-! SUPPORT. What an issue does, said once for every instruction whose checks pass (R181): `State.exec` of its plan is the plan's effect on the state whose lanes have moved on. -/
namespace Sys2Proof

/-- The later of two writes of a key stands. -/
@[simp] theorem NMap.put_put {α : Type} (m : NMap α) (n : Nat) (x y : α) : (m.put n x).put n y = m.put n y := by
  induction m with
  | nil => simp [NMap.put]
  | cons h t ih =>
    obtain ⟨k, v⟩ := h
    by_cases h1 : n < k
    · simp [NMap.put, h1]
    · by_cases h2 : n = k
      · simp [NMap.put, h2]
      · simp [NMap.put, h1, h2, ih]
/-- Writing what a key already holds changes nothing in a sorted table. -/
theorem NMap.getD_put_same {α : Type} (m : NMap α) (n : Nat) (x d : α) : (m.put n x).getD n d = x := by simp [NMap.getD]

end Sys2Proof

namespace Sys2Proof.Machine

@[simp] theorem State.core_setCore (s : State) (c : Nat) (k : Core) : (s.setCore c k).core c = k := by
  simp [State.core, State.setCore, NMap.getD]
@[simp] theorem State.setCore_setCore (s : State) (c : Nat) (k l : Core) : (s.setCore c k).setCore c l = s.setCore c l := by
  simp [State.setCore]
@[simp] theorem State.core_modCore (s : State) (c : Nat) (f : Core → Core) : (s.modCore c f).core c = f (s.core c) := by
  simp [State.modCore]
/-- Two changes of one core are one. -/
@[simp] theorem State.modCore_modCore (s : State) (c : Nat) (f h : Core → Core) :
    (s.modCore c f).modCore c h = s.modCore c fun k => h (f k) := by
  simp [State.modCore]
/-- A cohort with a present lane is what its slot then holds. -/
theorem State.cohort?_setCohort (s : State) (c sl : Nat) (co : Cohort) (h : co.lanes ≠ []) : (s.setCohort c sl co).cohort? c sl = some co := by
  have : co.lanes.isEmpty = false := by cases e : co.lanes with
    | nil => exact absurd e h
    | cons _ _ => rfl
  simp [State.cohort?, State.setCohort, this]
/-- Of two replacements of one slot's cohort the later stands. -/
theorem State.setCohort_setCohort (s : State) (c sl : Nat) (co co' : Cohort) (h : co.lanes ≠ []) (h' : co'.lanes ≠ []) :
    (s.setCohort c sl co).setCohort c sl co' = s.setCohort c sl co' := by
  have e : co.lanes.isEmpty = false := by simpa using h
  have e' : co'.lanes.isEmpty = false := by simpa using h'
  simp [State.setCohort, e, e']
theorem State.modCohort_of (s : State) (c sl : Nat) (co : Cohort) (f : Cohort → Cohort) (h : s.cohort? c sl = some co) :
    s.modCohort c sl f = s.setCohort c sl (f co) := by simp [State.modCohort, h]
theorem State.modCohort_setCohort (s : State) (c sl : Nat) (co : Cohort) (f : Cohort → Cohort) (h : co.lanes ≠ []) (h' : (f co).lanes ≠ []) :
    (s.setCohort c sl co).modCohort c sl f = s.setCohort c sl (f co) := by
  rw [State.modCohort_of _ _ _ _ _ (State.cohort?_setCohort s c sl co h), State.setCohort_setCohort s c sl co _ h h']

/-- What issues for a slot names its cohort, which has a present lane. -/
theorem State.ctxAt_cohort (s : State) (c sl : Nat) (x : Ctx) (h : s.ctxAt c sl = some x) :
    x.core = c ∧ x.slot = sl ∧ s.cohort? c sl = some x.co ∧ x.co.lanes ≠ [] := by
  unfold State.ctxAt at h
  cases e2 : s.cohort? c sl with
  | none => simp [e2] at h
  | some co =>
    simp only [e2] at h
    by_cases e3 : co.lanes.isEmpty = true
    · simp [e3] at h
    · simp only [e3, Bool.false_eq_true, if_false, Option.some.injEq] at h
      subst h
      exact ⟨rfl, rfl, rfl, by simpa using e3⟩
/-- The second issue slot's issue is of the same cohort (R25). -/
theorem Ctx.second_same (x y : Ctx) (pc : Pc) (ls : List Nat) (h : x.second pc ls = some y) : y.core = x.core ∧ y.slot = x.slot ∧ y.co = x.co := by
  unfold Ctx.second at h
  split at h
  · simp at h
  · simp only [Option.some.injEq] at h; subst h; exact ⟨rfl, rfl, rfl⟩
/-- R406's turn changes the partitions' registers alone. -/
theorem State.firstIssued_eq (s : State) (x : Ctx) : ∃ ps, s.firstIssued x = { s with parts := ps } := by
  unfold State.firstIssued
  split
  · exact ⟨s.parts, rfl⟩
  · split
    · exact ⟨s.parts, rfl⟩
    · exact ⟨_, rfl⟩
/-- It does not see the cohorts of the slots. -/
theorem State.firstIssued_setCohort (s : State) (x : Ctx) (c sl : Nat) (co : Cohort) : (s.setCohort c sl co).firstIssued x = (s.firstIssued x).setCohort c sl co := by
  have h : (s.setCohort c sl co).part x.part = s.part x.part := rfl
  unfold State.firstIssued
  rw [h]
  split
  · rfl
  · split <;> rfl
/-- The issue of the current cohort names the cohort in its slot, which has a present lane. -/
theorem State.ctx_cohort (s : State) (x : Ctx) (h : s.ctx = some x) : s.cohort? x.core x.slot = some x.co ∧ x.co.lanes ≠ [] := by
  unfold State.ctx at h
  obtain ⟨y, hy, hx⟩ := Option.bind_eq_some_iff.mp h
  obtain ⟨c, -, hc⟩ := Option.bind_eq_some_iff.mp hy
  obtain ⟨h1, h2, h3, h4⟩ := s.ctxAt_cohort c.1 c.2 y hc
  cases e : s.slot1 with
  | none =>
    simp only [e, Option.some.injEq] at hx
    subst hx; rw [h1, h2]; exact ⟨h3, h4⟩
  | some p =>
    simp only [e] at hx
    obtain ⟨k1, k2, k3⟩ := Ctx.second_same y x p.1 p.2 hx
    rw [k1, k2, k3, h1, h2]; exact ⟨h3, h4⟩

/-- `ready` said in full. -/
theorem State.ready_iff (s : State) (x : Ctx) (g : Guard) (regs srcs : List Nat) : s.ready x g regs srcs = true ↔
    s.ctx = some x ∧ x.co.single = none ∧ (∀ r ∈ regs, r < x.co.allot) ∧
    ∀ l ∈ x.en g, (x.strict = true → srcs.any x.co.stale = false) ∧ s.pendingFor (x.strand l) regs = [] ∧
      (((x.co.lanes.find? l).elim [] Lane.poison).any fun q => regs.contains q.1 || srcs.contains q.1) = false := by
  simp only [State.ready, Bool.and_eq_true, decide_eq_true_eq, List.all_eq_true, Option.isNone_iff_eq_none, Bool.not_eq_true',
    Bool.and_eq_false_iff, List.isEmpty_iff]
  constructor
  · rintro ⟨⟨⟨a, b⟩, c⟩, d⟩
    refine ⟨a, b, c, fun l hl => ?_⟩
    obtain ⟨⟨d1, d2⟩, d3⟩ := d l hl
    exact ⟨fun hs => by rcases d1 with d1 | d1 <;> simp_all, d2, d3⟩
  · rintro ⟨a, b, c, d⟩
    refine ⟨⟨⟨a, b⟩, c⟩, fun l hl => ?_⟩
    obtain ⟨d1, d2, d3⟩ := d l hl
    exact ⟨⟨by cases e : x.strict <;> simp_all, d2⟩, d3⟩

theorem overAllot_none (regs : List Nat) (a : Nat) (h : ∀ r ∈ regs, r < a) : overAllot regs a = none := by
  have : (regs.filter fun r => decide (a ≤ r)) = [] := by
    simp only [List.filter_eq_nil_iff, decide_eq_true_eq]
    intro r hr; have := h r hr; omega
  simp [overAllot, this]

/-- Rows 3 to 5 of R181 pass. -/
theorem Plan.upfront_none (p : Plan) (s : State) (x : Ctx) (hb : p.bad s x = none) (hp : p.priv s x = false) (hm : p.misses s x = none)
    (hr : ∀ r ∈ p.regs, r < x.co.allot) : p.upfront s x = none := by
  simp [Plan.upfront, hb, hp, hm, overAllot_none p.regs _ hr]

/-- A lane past the checks of rows 6 and 7 that every instruction makes has its own check's outcome. -/
theorem Plan.verdict_check (p : Plan) (s : State) (x : Ctx) (l : Nat) (h : s.ready x p.g p.regs p.srcs = true) (hl : l ∈ x.en p.g)
    (hc : ∀ c, p.cls = some c → ((s.strands.find? (x.strand l)).elim 0 fun t => t.count c) ≠ 63) :
    p.verdict s x (x.en p.g) l = p.check s x (x.en p.g) l := by
  obtain ⟨-, -, -, h4⟩ := (s.ready_iff x p.g p.regs p.srcs).mp h
  obtain ⟨h1, h2, h3⟩ := h4 l hl
  have hp : (if p.heeds = true then (x.co.lanes.find? l).bind fun y => List.find? (fun q : Nat × Flt => (if q.2.akind = 6 then p.srcs else p.regs).contains q.1) y.poison else none) = none := by
    split
    · cases e : x.co.lanes.find? l with
      | none => rfl
      | some y =>
        simp only [e, Option.elim_some, List.any_eq_false, Bool.or_eq_true, not_or] at h3
        simp only [Option.bind_some, List.find?_eq_none]
        intro q hq
        split
        · exact (h3 q hq).2
        · exact (h3 q hq).1
    · rfl
  have hr : p.row7 s x (x.en p.g) l = p.check s x (x.en p.g) l := by
    have : (if x.strict = true then List.find? x.co.stale p.srcs else none) = none := by
      by_cases e : x.strict = true
      · have := h1 e
        simp only [e, if_true, List.find?_eq_none]
        simpa [List.any_eq_false] using this
      · simp [e]
    simp [Plan.row7, this]
  simp only [Plan.verdict, hp, h2, List.isEmpty_nil, Bool.not_true, Bool.false_eq_true, if_false]
  cases e : p.cls with
  | none => exact hr
  | some c => simp [hc c e, hr]

theorem failing_go (ls : List Nat) : failing (ls.map fun l => (l, Verdict.go)) = [] := by
  induction ls with
  | nil => rfl
  | cons l t ih => simpa [failing] using ih

theorem staying_go (ls : List Nat) : staying (ls.map fun l => (l, Verdict.go)) = [] := by
  induction ls with
  | nil => rfl
  | cons l t ih => simpa [staying] using ih
theorem leaving_go (ls : List Nat) : leaving (ls.map fun l => (l, Verdict.go)) = [] := by
  induction ls with
  | nil => rfl
  | cons l t ih => simpa [leaving] using ih
theorem going_go (ls : List Nat) : going (ls.map fun l => (l, Verdict.go)) = ls := by
  induction ls with
  | nil => rfl
  | cons l t ih => simpa [going] using ih

/-- The effect of a plan in every lane under its guard, after the lanes of the executing set have moved on. -/
def Plan.effect (p : Plan) (s : State) (x : Ctx) : State :=
  if (x.en p.g).isEmpty then s.setPcs x x.xs (x.after p.len) else p.act (s.setPcs x x.xs (x.after p.len)) x (x.en p.g)

/-- Lanes none of whose poisoned registers is named have lost no word among those named. -/
theorem State.ready_lost (s : State) (x : Ctx) (g : Guard) (regs srcs : List Nat) (h : s.ready x g regs srcs = true) : x.lost (x.en g) regs = false := by
  obtain ⟨-, -, -, h4⟩ := (s.ready_iff x g regs srcs).mp h
  simp only [Ctx.lost, List.any_eq_false]
  intro l hl
  have h3 := (h4 l hl).2.2
  cases e : x.co.lanes.find? l with
  | none => simp
  | some y =>
    simp only [e, Option.elim_some, List.any_eq_false, Bool.or_eq_true, not_or] at h3
    simp only [Option.elim_some, Lane.lost, List.any_eq_true, not_exists, not_and, Bool.and_eq_true]
    intro q hq hc
    exact absurd hc.1 (h3 q hq).1
theorem Ctx.lost_nil (x : Ctx) (regs : List Nat) : x.lost [] regs = false := rfl
/-- Nothing is healed where nothing is lost. -/
theorem State.healRegs_none (s : State) (x : Ctx) (ls regs : List Nat) (h : x.lost ls regs = false) : s.healRegs x ls regs = s := by
  simp [State.healRegs, h]
theorem State.watchHalt_none (s t : State) (x : Ctx) (accs : List (Nat × Access)) (h : ∀ a ∈ accs, ∀ n < 4, s.wpMatch x n a.2 = false) :
    t.watchHalt x (s.watchHits x accs) = t := by
  have : (accs.filter fun a => (List.range 4).any fun n => s.wpMatch x n a.2) = [] := by
    simp only [List.filter_eq_nil_iff, List.any_eq_true, List.mem_range, not_exists, not_and, Bool.not_eq_true]
    exact h
  simp [State.watchHalt, State.watchHits, this]

/-- An issue whose checks pass in every lane under its guard: the lanes of the executing set move on, the effect happens, the cohort's age restarts. -/
theorem State.exec_ready (s : State) (x : Ctx) (p : Plan) (h : s.ready x p.g p.regs p.srcs = true) (hb : p.bad s x = none)
    (hp : p.priv s x = false) (hm : p.misses s x = none)
    (hc : ∀ l ∈ x.en p.g, ∀ c, p.cls = some c → ((s.strands.find? (x.strand l)).elim 0 fun t => t.count c) ≠ 63)
    (hgo : ∀ l ∈ x.en p.g, p.check s x (x.en p.g) l = .go)
    (hn : p.need = 0 ∨ x.en p.g = [])
    (hw : ∀ l ∈ x.en p.g, ∀ a, p.acc (s.setPcs x x.xs (x.after p.len)) x (x.en p.g) l = some a → ∀ n < 4, (s.setPcs x x.xs (x.after p.len)).wpMatch x n a = false) :
    s.exec p = (p.effect s x).issued x := by
  obtain ⟨hctx, hs, hr, -⟩ := (s.ready_iff x p.g p.regs p.srcs).mp h
  have hv : ((x.en p.g).map fun l => (l, p.verdict s x (x.en p.g) l)) = (x.en p.g).map fun l => (l, Verdict.go) := by
    apply List.map_congr_left
    intro l hl
    rw [p.verdict_check s x l h hl (hc l hl), hgo l hl]
  have hneed : (if p.need = 0 then [] else List.replicate (x.en p.g).length p.need) = [] := by rcases hn with hn | hn <;> simp [hn]
  have hx : x.xs.filter (fun _ => true) = x.xs := by simp
  unfold State.exec
  simp only [hctx, Plan.run, p.upfront_none s x hb hp hm hr, Plan.body, hv, failing_go, staying_go, leaving_go, going_go]
  simp only [Ctx.lost_nil, List.map_nil, Bool.or_false, State.healRegs_none _ x _ _ (s.ready_lost x p.g p.regs p.srcs h), List.append_nil, List.nil_append, hneed, List.isEmpty_nil, Bool.not_true, List.any_nil,
    Bool.not_false, List.filter_true, List.foldl_nil, Option.map_none, List.filterMap_none, Bool.or_false, Bool.false_and, Bool.false_eq_true, if_false]
  have e : (if (x.en p.g).isEmpty = true then s.setPcs x x.xs (x.after p.len) else p.act (s.setPcs x x.xs (x.after p.len)) x (x.en p.g)) = p.effect s x := rfl
  rw [e, State.watchHalt_none, State.stepDone, hs]
  intro a ha
  obtain ⟨l, hl, he⟩ := List.mem_filterMap.mp ha
  simp only [Option.map_eq_some_iff] at he
  obtain ⟨b, hb, rfl⟩ := he
  exact hw l (by simpa using (List.mem_filter.mp hl).2) b hb

/-- With no watchpoint armed nothing matches, as long as the debug registers stay. -/
theorem State.unwatched_match (s t : State) (x : Ctx) (n : Nat) (a : Access) (h : s.unwatched x = true) (hn : n < 4)
    (hb : (t.core x.core).bps = (s.core x.core).bps) : t.wpMatch x n a = false := by
  have h0 := (List.all_eq_true.mp h) n (by simpa using hn)
  simp only [beq_iff_eq] at h0
  have h1 : (fld ((s.core x.core).bps.getD (16 + 4 * n + 1) 0) 0 0 == 1) = false := by rw [h0]; rfl
  simp only [State.wpMatch, hb, h1, Bool.false_and]
@[simp] theorem Core.vacate_bps (k : Core) (sl : Nat) : (k.vacate sl).bps = k.bps := by unfold Core.vacate; split <;> rfl
/-- The debug registers stay when a cohort is replaced. -/
@[simp] theorem State.setCohort_bps (s : State) (c sl n : Nat) (co : Cohort) : ((s.setCohort c sl co).core n).bps = (s.core n).bps := by
  by_cases h : n = c
  · subst h; simp only [State.setCohort, State.core_modCore]; split <;> simp
  · simp [State.setCohort, State.modCore, State.setCore, State.core, NMap.getD, NMap.find?_put_other _ _ _ _ h]
@[simp] theorem State.setPcs_bps (s : State) (x : Ctx) (ls : List Nat) (pc : Pc) : ((s.setPcs x ls pc).core x.core).bps = (s.core x.core).bps := by
  unfold State.setPcs State.modCohort
  cases s.cohort? x.core x.slot <;> simp
@[simp] theorem State.setPcs_launches (s : State) (x : Ctx) (ls : List Nat) (pc : Pc) : (s.setPcs x ls pc).launches = s.launches := by
  unfold State.setPcs State.modCohort; cases s.cohort? x.core x.slot <;> simp
@[simp] theorem State.setPcs_parts (s : State) (x : Ctx) (ls : List Nat) (pc : Pc) : (s.setPcs x ls pc).parts = s.parts := by
  unfold State.setPcs State.modCohort; cases s.cohort? x.core x.slot <;> simp
/-- What `Acts` asks, from what its plan's effect is. -/
theorem acts_of (i : Instr) (p : Plan) (ok : State → Ctx → Prop) (act : State → Ctx → List Nat → State) (hi : ∀ s, exec i s = .next (s.exec p)) (hn : p.need = 0)
    (hb : ∀ s x, ok s x → p.bad s x = none ∧ p.priv s x = false ∧ p.misses s x = none)
    (hc : ∀ s x, ok s x → ∀ l ∈ x.en p.g, ∀ c, p.cls = some c → s.countable x c l = true)
    (hgo : ∀ s x, ok s x → ∀ l ∈ x.en p.g, p.check s x (x.en p.g) l = .go)
    (ha : ∀ s x, ok s x → p.act (s.setPcs x x.xs (x.after p.len)) x (x.en p.g) = act (s.setPcs x x.xs (x.after p.len)) x (x.en p.g))
    (hw : (∀ s x en l, p.acc s x en l = none) ∨ ∀ s x ls, ((p.act s x ls).core x.core).bps = (s.core x.core).bps) :
    Acts i p.g p.len p.regs p.srcs ok act := by
  intro s x hr hu hok
  obtain ⟨h1, h2, h3⟩ := hb s x hok
  have hx := s.exec_ready x p hr h1 h2 h3 (fun l hl c hcl => by simpa [State.countable] using hc s x hok l hl c hcl) (hgo s x hok) (Or.inl hn) (by
    intro l hl a hacc n hn
    rcases hw with hw | hw
    · simp [hw] at hacc
    · exact s.unwatched_match _ x n a hu hn (by simp))
  rw [hi, hx, Plan.effect, ha s x hok]
  simp only [List.isEmpty_iff]
/-- A plan made by `plain` acts without further conditions. -/
theorem acts_plain (i : Instr) (g : Guard) (len xop : Nat) (regs srcs : List Nat) (a : State → Ctx → List Nat → State)
    (hi : ∀ s, exec i s = .next (s.exec (plain g len xop regs srcs a))) : Acts i g len regs srcs always a :=
  acts_of i (plain g len xop regs srcs a) always a hi rfl (fun _ _ _ => ⟨rfl, rfl, rfl⟩) (fun _ _ _ _ _ c h => by simp [plain] at h) (fun _ _ _ _ _ => rfl)
    (fun _ _ _ => rfl) (Or.inl fun _ _ _ _ => rfl)

theorem staying_leave (ls : List Nat) (w : Nat → Option WaitEv) : staying (ls.map fun l => (l, Verdict.leave (w l))) = [] := by
  induction ls with
  | nil => rfl
  | cons l t ih => simpa [staying] using ih
theorem leaving_leave (ls : List Nat) (w : Nat → Option WaitEv) : leaving (ls.map fun l => (l, Verdict.leave (w l))) = ls.map fun l => (l, w l) := by
  induction ls with
  | nil => rfl
  | cons l t ih => simpa [leaving] using ih
theorem going_leave (ls : List Nat) (w : Nat → Option WaitEv) : going (ls.map fun l => (l, Verdict.leave (w l))) = [] := by
  induction ls with
  | nil => rfl
  | cons l t ih => simpa [going] using ih
theorem failing_leave (ls : List Nat) (w : Nat → Option WaitEv) : failing (ls.map fun l => (l, Verdict.leave (w l))) = [] := by
  induction ls with
  | nil => rfl
  | cons l t ih => simpa [failing] using ih
/-- What `Parks` asks, from what its plan checks. -/
theorem parks_of (i : Instr) (p : Plan) (ok : State → Ctx → Prop) (w : State → Ctx → Nat → Option WaitEv) (hi : ∀ s, exec i s = .next (s.exec p)) (hn : p.need = 0)
    (hc : p.cls = none) (hb : ∀ s x, ok s x → p.bad s x = none ∧ p.priv s x = false ∧ p.misses s x = none)
    (hl : ∀ s x, ok s x → ∀ l ∈ x.en p.g, p.check s x (x.en p.g) l = .leave (w s x l))
    (hw : (∀ s x en l, p.acc s x en l = none) ∨ ∀ s x, ok s x → s.unwatched x = true) :
    Parks i p.g p.len p.regs p.srcs ok w := by
  intro s x hr hok hne hmap hlost hroom
  obtain ⟨h1, h2, h3⟩ := hb s x hok
  obtain ⟨hctx, hs, hregs, -⟩ := (s.ready_iff x p.g p.regs p.srcs).mp hr
  have hv : ((x.en p.g).map fun l => (l, p.verdict s x (x.en p.g) l)) = (x.en p.g).map fun l => (l, Verdict.leave (w s x l)) := by
    apply List.map_congr_left
    intro l hm
    rw [p.verdict_check s x l hr hm (by simp [hc]), hl s x hok l hm]
  rw [hi]
  unfold State.exec
  simp only [hctx, Plan.run, p.upfront_none s x h1 h2 h3 hregs, Plan.body, hv, failing_leave, staying_leave, leaving_leave, going_leave]
  simp only [Ctx.lost_nil, List.map_nil, Bool.false_or, List.map_map, Function.comp_def, List.map_id', hlost, State.healRegs_none _ x [] _ rfl, List.isEmpty_nil, if_true, ite_self, Option.map_none, List.filterMap_none, List.nil_append, List.append_nil, List.map_const', hn, Bool.false_eq_true, if_false, hmap,
    List.any_nil, Bool.not_false, List.filter_true, List.foldl_nil, List.foldl_map, hroom, Bool.not_true, Bool.and_false]
  rw [State.watchHalt_none _ _ _ _ (by
    intro a ha m hm
    obtain ⟨l, -, he⟩ := List.mem_filterMap.mp ha
    simp only [Option.map_eq_some_iff] at he
    obtain ⟨b, hb, rfl⟩ := he
    rcases hw with hw | hw
    · simp [hw] at hb
    · exact s.unwatched_match _ x m b (hw s x hok) hm (by simp))]
  simp only [State.stepDone, hs]

end Sys2Proof.Machine
end

