-- ==== Sys2Proof/Laws/Compute.lean ====
section
/-! SUPPORT. The builders that most meanings share (R61, R197 to R199): what a write of the cohort's registers leaves, and that an instruction made by each builder computes. -/
namespace Sys2Proof.Machine
set_option linter.all false

/-! Writes of registers -/

/-- A write of one register under a shape that its values have, read back in a present lane. -/
theorem Cohort.reg_write (co : Cohort) (n m l : Nat) (sh : Sh) (ls : List Nat) (f : Nat → Word) (hl : l < 32) (hp : l ∈ co.present)
    (hu : sh = .uni → ∀ i ∈ ls, f i = f (ls.headD 0)) (ha : ∀ b st, sh = .aff b st → ∀ i ∈ ls, f i = b + BitVec.ofNat 32 i * st) :
    (co.write n sh ls f).reg m l = if m = n ∧ l ∈ ls then f l else co.reg m l := by
  by_cases he : ls = []
  · subst he; simp [Cohort.write]
  have hne : ls.isEmpty = false := by simpa using he
  by_cases hm : m = n
  · subst hm
    have gen : ({ co with regs := co.regs.put m (.general ((List.range 32).map fun i => if i ∈ ls then f i else co.reg m i)) } : Cohort).reg m l
        = if l ∈ ls then f l else co.reg m l := by
      simp [Cohort.reg, Reg.lane, List.getD, hl]
    by_cases hfull : ls = co.present
    · have hmem : l ∈ ls := by rw [hfull]; exact hp
      cases sh with
      | gen => simpa [Cohort.write, hne, hmem] using gen
      | uni =>
        simp only [Cohort.write, hne, hfull, decide_true]
        simp only [← hfull, Bool.false_eq_true, if_false, Cohort.reg, NMap.find?_put_same, Reg.lane]
        simp only [List.isEmpty_iff, he, if_false, NMap.find?_put_same]
        simp [hmem, hu rfl l hmem]
      | aff b st =>
        simp only [Cohort.write, hne, hfull, decide_true]
        simp only [← hfull, Bool.false_eq_true, if_false, Cohort.reg, NMap.find?_put_same, Reg.lane]
        simp only [List.isEmpty_iff, he, if_false, NMap.find?_put_same]
        simp [hmem, ha b st rfl l hmem]
    · have hd : decide (ls = co.present) = false := by simpa using hfull
      cases sh <;> simpa [Cohort.write, hne, hd] using gen
  · have : ∀ r, (co.regs.put n r).find? m = co.regs.find? m := fun r => NMap.find?_put_other _ _ _ _ hm
    simp only [Cohort.write, hne, Bool.false_eq_true, if_false, Cohort.reg, this, hm, false_and]
/-- A write makes its register current and leaves the others' generations. -/
theorem Cohort.stale_write (co : Cohort) (n m : Nat) (sh : Sh) (ls : List Nat) (f : Nat → Word) :
    (co.write n sh ls f).stale m = (co.stale m && !(decide (m = n) && !ls.isEmpty)) := by
  by_cases he : ls = []
  · subst he; simp [Cohort.write]
  have hne : ls.isEmpty = false := by simpa using he
  by_cases hm : m = n
  · subst hm; simp [Cohort.write, hne, Cohort.stale]
  · simp [Cohort.write, hne, Cohort.stale, NMap.find?_put_other _ _ _ _ hm, hm]
/-- A write touches the registers alone. -/
theorem Cohort.write_eq (co : Cohort) (n : Nat) (sh : Sh) (ls : List Nat) (f : Nat → Word) :
    co.write n sh ls f = { co with regs := (co.write n sh ls f).regs } := by
  unfold Cohort.write; split <;> rfl
/-- A write depends on the cohort's registers and present lanes alone. -/
theorem Cohort.write_congr (co co' : Cohort) (n : Nat) (sh : Sh) (ls : List Nat) (f : Nat → Word) (hr : co'.regs = co.regs) (hp : co'.present = co.present) :
    (co'.write n sh ls f).regs = (co.write n sh ls f).regs := by
  have hreg : ∀ m l, co'.reg m l = co.reg m l := fun m l => by simp [Cohort.reg, hr]
  unfold Cohort.write
  simp only [hp, hreg, hr]
  split
  · exact hr
  · rfl

/-! The shapes of sources -/

theorem Sh.all_uni (shs : List Sh) (h : Sh.all shs = .uni) : ∀ s ∈ shs, s = .uni := by
  induction shs with
  | nil => simp
  | cons s t ih =>
    cases s <;> simp [Sh.all] at h ⊢
    exact ih h
theorem Sh.all_not_aff (shs : List Sh) (b st : Word) : Sh.all shs ≠ .aff b st := by
  induction shs with
  | nil => simp [Sh.all]
  | cons s t ih => cases s <;> simp [Sh.all, ih]
/-- A uniform register has one value. -/
theorem Cohort.reg_uni (co : Cohort) (a : Nat) (h : co.shape a = .uni) (l m : Nat) : co.reg a l = co.reg a m := by
  unfold Cohort.shape at h
  unfold Cohort.reg
  cases e : co.regs.find? a with
  | none => rfl
  | some r => cases r <;> simp [e, Reg.lane] at h ⊢
/-- An affine register's value in a lane (R60). -/
theorem Cohort.reg_aff (co : Cohort) (a : Nat) (b st : Word) (h : co.shape a = .aff b st) (l : Nat) : co.reg a l = b + BitVec.ofNat 32 l * st := by
  unfold Cohort.shape at h
  unfold Cohort.reg
  cases e : co.regs.find? a with
  | none => simp [e] at h
  | some r => cases r <;> simp [e, Reg.lane] at h ⊢; simp [h]
theorem Cohort.src_uni (co : Cohort) (b : Src) (h : co.srcShape b = .uni) (l m : Nat) : co.src b l = co.src b m := by
  cases b with
  | reg n => exact co.reg_uni n h l m
  | imm w => rfl
theorem Cohort.src_aff (co : Cohort) (b : Src) (x st : Word) (h : co.srcShape b = .aff x st) (l : Nat) : co.src b l = x + BitVec.ofNat 32 l * st := by
  cases b with
  | reg n => exact co.reg_aff n x st h l
  | imm w => simp [Cohort.srcShape] at h

/-! An issue whose effect is on the cohort's registers -/

/-- The cohort with its lanes' PCs moved on. -/
def Ctx.moved (x : Ctx) (len : Nat) : Cohort :=
  { x.co with lanes := x.co.lanes.map fun y => (y.1, if x.xs.contains y.1 then { y.2 with pc := x.after len } else y.2) }
theorem Ctx.moved_present (x : Ctx) (len : Nat) : (x.moved len).present = x.co.present := by
  simp [Ctx.moved, Cohort.present, NMap.keys]

/-- An issue of a plan that changes the cohort only, and neither adds nor takes a lane. -/
theorem State.exec_cohort (s : State) (x : Ctx) (p : Plan) (F : State → Cohort → Cohort) (h : s.ready x p.g p.regs p.srcs = true)
    (hb : p.bad s x = none) (hp : p.priv s x = false) (hm : p.misses s x = none)
    (hc : ∀ l ∈ x.en p.g, ∀ c, p.cls = some c → ((s.strands.find? (x.strand l)).elim 0 fun t => t.count c) ≠ 63)
    (hgo : ∀ l ∈ x.en p.g, p.check s x (x.en p.g) l = .go) (hn : p.need = 0) (hw : ∀ s x en l, p.acc s x en l = none)
    (ha : ∀ t, p.act t x (x.en p.g) = t.onCohort x (F t)) (hF : ∀ t co, co.lanes ≠ [] → (F t co).lanes ≠ []) :
    s.exec p = (s.firstIssued x).setCohort x.core x.slot
      (let co := if (x.en p.g).isEmpty then x.moved p.len else F (s.setCohort x.core x.slot (x.moved p.len)) (x.moved p.len)
       { co with readyTick := s.cyc, boosted := false, lanes := co.lanes.map fun y => (y.1, if x.xs.contains y.1 then { y.2 with met := none } else y.2) }) := by
  have hctx := ((s.ready_iff x p.g p.regs p.srcs).mp h).1
  obtain ⟨hco, hne⟩ := s.ctx_cohort x hctx
  have hmv : (x.moved p.len).lanes ≠ [] := by simpa [Ctx.moved] using hne
  rw [s.exec_ready x p h hb hp hm hc hgo (Or.inl hn) (by intro l _ a ha; simp [hw] at ha)]
  have h1 : s.setPcs x x.xs (x.after p.len) = s.setCohort x.core x.slot (x.moved p.len) := by
    simp only [State.setPcs, State.modCohort, hco]; rfl
  have hcyc : ∀ co, (s.setCohort x.core x.slot co).cyc = s.cyc := fun co => rfl
  unfold Plan.effect State.issued
  rw [h1]
  by_cases he : (x.en p.g).isEmpty = true
  · simp only [he, if_true]
    rw [State.firstIssued_setCohort, State.modCohort_setCohort _ _ _ _ _ hmv (by simpa using hmv), hcyc]
  · simp only [he]
    simp only [Bool.false_eq_true, if_false, ha, State.onCohort]
    rw [State.modCohort_setCohort _ _ _ _ _ hmv (hF _ _ hmv)]
    have hf := hF (s.setCohort x.core x.slot (x.moved p.len)) _ hmv
    rw [State.firstIssued_setCohort, State.modCohort_setCohort _ _ _ _ _ hf (by simpa using hf), hcyc]

/-- An issue of a plan that writes registers only. -/
theorem State.exec_regs (s : State) (x : Ctx) (p : Plan) (F : State → Cohort → Cohort) (h : s.ready x p.g p.regs p.srcs = true)
    (hb : p.bad s x = none) (hp : p.priv s x = false) (hm : p.misses s x = none)
    (hc : ∀ l ∈ x.en p.g, ∀ c, p.cls = some c → ((s.strands.find? (x.strand l)).elim 0 fun t => t.count c) ≠ 63)
    (hgo : ∀ l ∈ x.en p.g, p.check s x (x.en p.g) l = .go) (hn : p.need = 0) (hw : ∀ s x en l, p.acc s x en l = none)
    (ha : ∀ t, p.act t x (x.en p.g) = t.onCohort x (F t)) (hF : ∀ t co, F t co = { co with regs := (F t co).regs }) :
    s.exec p = (s.firstIssued x).setCohort x.core x.slot { s.passed x p.len with
      regs := if (x.en p.g).isEmpty then x.co.regs else (F (s.setCohort x.core x.slot (x.moved p.len)) (x.moved p.len)).regs } := by
  rw [s.exec_cohort x p F h hb hp hm hc hgo hn hw ha (by intro t co hne; rw [hF]; exact hne)]
  have hlanes : ((x.moved p.len).lanes.map fun y => (y.1, if x.xs.contains y.1 then { y.2 with met := none } else y.2)) = (s.passed x p.len).lanes := by
    simp only [Ctx.moved, State.passed, List.map_map]
    apply List.map_congr_left
    intro y _
    simp only [Function.comp]
    cases e : x.xs.contains y.1 <;> simp only [Bool.false_eq_true, if_true, if_false]
  congr 1
  by_cases he : (x.en p.g).isEmpty = true
  · simp only [he, if_true, hlanes]; rfl
  · simp only [he, Bool.false_eq_true, if_false]
    rw [hF]
    simp only [hlanes]; rfl

/-- What `Computes` asks, from what its plan's effect is. -/
theorem computes_of (i : Instr) (p : Plan) (ds : List Nat) (ok : State → Ctx → Prop) (v : State → Ctx → Nat → Nat → Word)
    (F : State → Ctx → Cohort → Cohort) (hi : ∀ s, exec i s = .next (s.exec p)) (hn : p.need = 0) (hcls : p.cls = none)
    (hw : ∀ s x en l, p.acc s x en l = none) (ha : ∀ t x, p.act t x (x.en p.g) = t.onCohort x (F t x))
    (hF : ∀ t x co, F t x co = { co with regs := (F t x co).regs })
    (hb : ∀ s x, ok s x → p.bad s x = none ∧ p.priv s x = false ∧ p.misses s x = none ∧ ∀ l ∈ x.en p.g, p.check s x (x.en p.g) l = .go)
    (hv : ∀ s x co, ok s x → s.ready x p.g p.regs p.srcs = true → co.regs = x.co.regs → co.present = x.co.present → co.lanes ≠ [] → (∀ q l, co.pred q l = x.co.pred q l) → ¬(x.en p.g = []) →
      let t := s.setCohort x.core x.slot co
      (∀ n l, l < 32 → l ∈ co.present → (F t x co).reg n l = if n ∈ ds ∧ l ∈ x.en p.g then v s x n l else x.co.reg n l) ∧
      ∀ n, (F t x co).stale n = (x.co.stale n && !decide (n ∈ ds))) :
    Computes i p.g p.len p.regs p.srcs ds ok v := by
  intro s x hr hok
  obtain ⟨hb1, hb2, hb3, hgo⟩ := hb s x hok
  have hx := s.exec_regs x p (fun t => F t x) hr hb1 hb2 hb3 (by simp [hcls]) hgo hn hw (fun t => ha t x) (fun t co => hF t x co)
  refine ⟨_, by rw [hi, hx], ?_⟩
  by_cases he : x.en p.g = []
  · simp only [he, List.isEmpty_nil, if_true]
    exact ⟨fun n l _ _ => by simp, fun n => by simp⟩
  · have he' : (x.en p.g).isEmpty = false := by simpa using he
    have hne := (s.ctx_cohort x ((s.ready_iff x p.g p.regs p.srcs).mp hr).1).2
    have hpred : ∀ q l, (x.moved p.len).pred q l = x.co.pred q l := by
      intro q l
      have : ∀ m : NMap Lane, (NMap.find? (m.map fun y => (y.1, if x.xs.contains y.1 then { y.2 with pc := x.after p.len } else y.2)) l).map Lane.preds
          = (NMap.find? m l).map Lane.preds := by
        intro m
        induction m with
        | nil => rfl
        | cons y t ih =>
          obtain ⟨k, y⟩ := y
          by_cases e : k = l
          · simp only [List.map_cons, NMap.find?, e, if_true, Option.map_some]; split <;> rfl
          · simpa [NMap.find?, e] using ih
      have h2 := this x.co.lanes
      unfold Cohort.pred Ctx.moved
      simp only []
      cases e1 : NMap.find? (x.co.lanes.map fun y => (y.1, if x.xs.contains y.1 then { y.2 with pc := x.after p.len } else y.2)) l <;>
        cases e2 : NMap.find? x.co.lanes l <;> simp only [e1, e2, Option.map_some, Option.map_none] at h2 ⊢
      · exact absurd h2 (by simp)
      · exact absurd h2 (by simp)
      · simp only [Option.some.injEq] at h2
        simp [Lane.pred, h2]
    obtain ⟨h1, h2⟩ := hv s x (x.moved p.len) hok hr rfl (x.moved_present p.len) (by simpa [Ctx.moved] using hne) hpred he
    simp only [he', Bool.false_eq_true, if_false]
    have hreg : ∀ n l, ({ x.co with regs := (F (s.setCohort x.core x.slot (x.moved p.len)) x (x.moved p.len)).regs } : Cohort).reg n l
        = (F (s.setCohort x.core x.slot (x.moved p.len)) x (x.moved p.len)).reg n l := fun n l => rfl
    have hst : ∀ n, ({ x.co with regs := (F (s.setCohort x.core x.slot (x.moved p.len)) x (x.moved p.len)).regs } : Cohort).stale n
        = (F (s.setCohort x.core x.slot (x.moved p.len)) x (x.moved p.len)).stale n := fun n => rfl
    refine ⟨fun n l hl hp => ?_, fun n => ?_⟩
    · rw [hreg]; exact h1 n l hl (by rw [x.moved_present]; exact hp)
    · rw [hst, h2]; simp

/-- What the checks of a plan made by `plain` are. -/
theorem plain_checks (g : Guard) (len xop : Nat) (regs srcs : List Nat) (act : State → Ctx → List Nat → State) (s : State) (x : Ctx) :
    (plain g len xop regs srcs act).bad s x = none ∧ (plain g len xop regs srcs act).priv s x = false ∧
    (plain g len xop regs srcs act).misses s x = none ∧
    ∀ l ∈ x.en g, (plain g len xop regs srcs act).check s x (x.en g) l = .go := ⟨rfl, rfl, rfl, fun _ _ => rfl⟩

/-- A plan that writes one register. -/
theorem computes_write (i : Instr) (p : Plan) (d : Nat) (ok : State → Ctx → Prop) (v : State → Ctx → Nat → Nat → Word)
    (sh : State → Ctx → Cohort → Sh) (f : State → Ctx → Cohort → Nat → Word) (hi : ∀ s, exec i s = .next (s.exec p)) (hn : p.need = 0)
    (hcls : p.cls = none) (hw : ∀ s x en l, p.acc s x en l = none)
    (ha : ∀ t x, p.act t x (x.en p.g) = t.onCohort x fun co => co.write d (sh t x co) (x.en p.g) (f t x co))
    (hb : ∀ s x, ok s x → p.bad s x = none ∧ p.priv s x = false ∧ p.misses s x = none ∧ ∀ l ∈ x.en p.g, p.check s x (x.en p.g) l = .go)
    (hf : ∀ s x co, ok s x → co.regs = x.co.regs → (∀ q l, co.pred q l = x.co.pred q l) → let t := s.setCohort x.core x.slot co
      (∀ l ∈ x.en p.g, l < 32 → f t x co l = v s x d l) ∧ (sh t x co = .uni → ∀ i ∈ x.en p.g, f t x co i = f t x co ((x.en p.g).headD 0)) ∧
      ∀ b st, sh t x co = .aff b st → ∀ i ∈ x.en p.g, f t x co i = b + BitVec.ofNat 32 i * st) :
    Computes i p.g p.len p.regs p.srcs [d] ok v := by
  refine computes_of i p [d] ok v (fun t x co => co.write d (sh t x co) (x.en p.g) (f t x co)) hi hn hcls hw ha
    (fun t x co => Cohort.write_eq _ _ _ _ _) hb ?_
  intro s x co hok _ hr hp _ hpr he
  obtain ⟨h1, h2, h3⟩ := hf s x co hok hr hpr
  refine ⟨fun n l hl hpl => ?_, fun n => ?_⟩
  · rw [Cohort.reg_write co d n l _ _ _ hl hpl h2 h3]
    have hreg : co.reg n l = x.co.reg n l := by simp [Cohort.reg, hr]
    by_cases e : n = d ∧ l ∈ x.en p.g
    · obtain ⟨rfl, e⟩ := e; simp [e, h1 l e hl]
    · simp only [e, if_false, List.mem_singleton, hreg]
  · rw [Cohort.stale_write]
    have : (x.en p.g).isEmpty = false := by simpa using he
    simp [Cohort.stale, hr, this]

/-- d := f a. -/
theorem map1_computes (i : Instr) (g : Guard) (len xop d a : Nat) (f : Word → Word) (hi : ∀ s, exec i s = .next (s.exec (map1 g len xop d a f))) :
    Computes i g len [d, a] [a] [d] always fun _ x _ l => f (x.co.reg a l) := by
  refine computes_write i (map1 g len xop d a f) d always _ (fun _ _ co => Sh.all [co.shape a]) (fun _ _ co l => f (co.reg a l))
    hi rfl rfl (fun _ _ _ _ => rfl) (fun _ _ => rfl) (fun s x _ => plain_checks _ _ _ _ _ _ s x) ?_
  intro s x co _ hr _
  refine ⟨fun l _ _ => by simp [Cohort.reg, hr], fun hu l _ => ?_, fun b st h => absurd h (Sh.all_not_aff _ _ _)⟩
  simp only [co.reg_uni a (Sh.all_uni _ hu _ (by simp)) l ((x.en g).headD 0)]; rfl
/-- d := f a b under a shape rule that the values obey. -/
theorem map2Sh_computes (i : Instr) (g : Guard) (len xop d a : Nat) (b : Src) (sh : Sh → Sh → Word → Word → Sh) (f : Word → Word → Word)
    (hi : ∀ s, exec i s = .next (s.exec (map2Sh g len xop d a b sh f)))
    (hu : ∀ p q v w, sh p q v w = .uni → p = .uni ∧ q = .uni)
    (hs : ∀ p q v w y st, sh p q v w = .aff y st → (∃ y' st', p = .aff y' st' ∧ q = .uni ∧ ∀ l : Nat, f (y' + BitVec.ofNat 32 l * st') w = y + BitVec.ofNat 32 l * st) ∨
      (∃ y' st', p = .uni ∧ q = .aff y' st' ∧ ∀ l : Nat, f v (y' + BitVec.ofNat 32 l * st') = y + BitVec.ofNat 32 l * st)) :
    Computes i g len (d :: a :: b.regs) (a :: b.regs) [d] always fun _ x _ l => f (x.co.reg a l) (x.co.src b l) := by
  refine computes_write i (map2Sh g len xop d a b sh f) d always _ (fun _ _ co => sh (co.shape a) (co.srcShape b) (co.reg a 0) (co.src b 0))
    (fun _ _ co l => f (co.reg a l) (co.src b l)) hi rfl rfl (fun _ _ _ _ => rfl) (fun _ _ => rfl) (fun s x _ => plain_checks _ _ _ _ _ _ s x) ?_
  intro s x co _ hr _
  refine ⟨fun l _ _ => ?_, fun h l _ => ?_, fun y st h l _ => ?_⟩
  · cases b <;> simp [Cohort.reg, Cohort.src, hr]
  · obtain ⟨h1, h2⟩ := hu _ _ _ _ h
    simp only [co.reg_uni a h1 l ((x.en g).headD 0), co.src_uni b h2 l ((x.en g).headD 0)]; rfl
  · rcases hs _ _ _ _ _ _ h with ⟨y', st', h1, h2, h3⟩ | ⟨y', st', h1, h2, h3⟩
    · rw [← h3 l, co.reg_aff a _ _ h1 l, co.src_uni b h2 l 0]
    · rw [← h3 l, co.src_aff b _ _ h2 l, co.reg_uni a h1 l 0]
/-- d := f a b. -/
theorem map2_computes (i : Instr) (g : Guard) (len xop d a : Nat) (b : Src) (f : Word → Word → Word)
    (hi : ∀ s, exec i s = .next (s.exec (map2 g len xop d a b f))) :
    Computes i g len (d :: a :: b.regs) (a :: b.regs) [d] always fun _ x _ l => f (x.co.reg a l) (x.co.src b l) :=
  map2Sh_computes i g len xop d a b _ f hi (fun p q _ _ h => ⟨Sh.all_uni _ h p (by simp), Sh.all_uni _ h q (by simp)⟩)
    fun _ _ _ _ _ _ h => absurd h (Sh.all_not_aff _ _ _)
/-- d := f a b c. -/
theorem map3_computes (i : Instr) (g : Guard) (len xop d a : Nat) (b : Src) (c : Nat) (f : Word → Word → Word → Word)
    (hi : ∀ s, exec i s = .next (s.exec (map3 g len xop d a b c f))) :
    Computes i g len (d :: a :: c :: b.regs) (a :: c :: b.regs) [d] always fun _ x _ l => f (x.co.reg a l) (x.co.src b l) (x.co.reg c l) := by
  refine computes_write i (map3 g len xop d a b c f) d always _ (fun _ _ co => Sh.all [co.shape a, co.srcShape b, co.shape c])
    (fun _ _ co l => f (co.reg a l) (co.src b l) (co.reg c l)) hi rfl rfl (fun _ _ _ _ => rfl) (fun _ _ => rfl) (fun s x _ => plain_checks _ _ _ _ _ _ s x) ?_
  intro s x co _ hr _
  refine ⟨fun l _ _ => ?_, fun h l _ => ?_, fun y st h => absurd h (Sh.all_not_aff _ _ _)⟩
  · cases b <;> simp [Cohort.reg, Cohort.src, hr]
  · have h1 := Sh.all_uni _ h _ (by simp : co.shape a ∈ _)
    have h2 := Sh.all_uni _ h _ (by simp : co.srcShape b ∈ _)
    have h3 := Sh.all_uni _ h _ (by simp : co.shape c ∈ _)
    simp only [co.reg_uni a h1 l ((x.en g).headD 0), co.src_uni b h2 l ((x.en g).headD 0), co.reg_uni c h3 l ((x.en g).headD 0)]; rfl
/-- A plan whose one register is written general, from what the lanes of E hold together. -/
theorem crossLane_computes (i : Instr) (g : Guard) (xop d : Nat) (srcs : List Nat) (f : Cohort → List Nat → Nat → Word)
    (hi : ∀ s, exec i s = .next (s.exec (crossLane g xop d srcs f)))
    (hf : ∀ co co' : Cohort, co.regs = co'.regs → (∀ q l, co.pred q l = co'.pred q l) → ∀ ls l, f co ls l = f co' ls l) :
    Computes i g 12 (d :: srcs) srcs [d] always fun _ x _ l => f x.co (x.en g) l := by
  refine computes_write i (crossLane g xop d srcs f) d _ _ (fun _ _ _ => .gen)
    (fun _ x co l => ((List.range 32).map fun l => if (x.en g).contains l then f co (x.en g) l else 0).getD l 0)
    hi rfl rfl (fun _ _ _ _ => rfl) (fun _ _ => rfl) (fun s x _ => plain_checks _ _ _ _ _ _ s x) ?_
  intro s x co _ hr hp
  refine ⟨fun l hl h32 => ?_, fun h => by simp at h, fun _ _ h => by simp at h⟩
  have hl' : l ∈ x.en g := hl
  simp [List.getD, h32, hl', hf co x.co hr hp]

/-! Several registers -/

/-- One write of a list of them: the register, its shape, its values. -/
abbrev RegW := Nat × Sh × (Nat → Word)
/-- The values have the shape in the lanes listed. -/
def RegW.fits (w : RegW) (ls : List Nat) : Prop :=
  (w.2.1 = .uni → ∀ i ∈ ls, w.2.2 i = w.2.2 (ls.headD 0)) ∧ ∀ b st, w.2.1 = .aff b st → ∀ i ∈ ls, w.2.2 i = b + BitVec.ofNat 32 i * st
/-- Writes one after another. -/
def Cohort.writes (co : Cohort) (ls : List Nat) (ws : List RegW) : Cohort := ws.foldl (fun c w => c.write w.1 w.2.1 ls w.2.2) co
theorem Cohort.present_write (co : Cohort) (n : Nat) (sh : Sh) (ls : List Nat) (f : Nat → Word) : (co.write n sh ls f).present = co.present := by
  rw [Cohort.write_eq]; rfl
theorem Cohort.writes_eq (co : Cohort) (ls : List Nat) (ws : List RegW) : co.writes ls ws = { co with regs := (co.writes ls ws).regs } := by
  induction ws generalizing co with
  | nil => rfl
  | cons w t ih =>
    have := ih (co.write w.1 w.2.1 ls w.2.2)
    rw [Cohort.write_eq] at this
    simpa [Cohort.writes, ← Cohort.write_eq] using this
/-- What the writes leave in a present lane: the last one to a register counts. -/
theorem Cohort.reg_writes (co : Cohort) (ls : List Nat) (ws : List RegW) (n l : Nat) (hl : l < 32) (hp : l ∈ co.present) (hw : ∀ w ∈ ws, RegW.fits w ls) :
    (co.writes ls ws).reg n l = match ws.reverse.find? (fun w => w.1 == n) with
      | some w => if l ∈ ls then w.2.2 l else co.reg n l
      | none => co.reg n l := by
  induction ws generalizing co with
  | nil => rfl
  | cons w t ih =>
    have h1 := ih (co.write w.1 w.2.1 ls w.2.2) (by rw [Cohort.present_write]; exact hp) (fun w' h => hw w' (by simp [h]))
    have h2 := Cohort.reg_write co w.1 n l w.2.1 ls w.2.2 hl hp (hw w (by simp)).1 (hw w (by simp)).2
    simp only [Cohort.writes, List.foldl_cons] at h1 ⊢
    rw [h1, h2]
    simp only [List.reverse_cons, List.find?_append]
    cases e : t.reverse.find? fun w => w.1 == n with
    | some w' => by_cases hm : l ∈ ls <;> simp [hm]
    | none =>
      by_cases hn : w.1 = n
      · subst hn; simp
      · have hn' : ¬ n = w.1 := fun h => hn h.symm
        simp [hn, hn']
theorem Cohort.stale_writes (co : Cohort) (ls : List Nat) (ws : List RegW) (n : Nat) :
    (co.writes ls ws).stale n = (co.stale n && !(ws.any (fun w => w.1 == n) && !ls.isEmpty)) := by
  induction ws generalizing co with
  | nil => simp [Cohort.writes]
  | cons w t ih =>
    have h1 := ih (co.write w.1 w.2.1 ls w.2.2)
    simp only [Cohort.writes, List.foldl_cons] at h1 ⊢
    rw [h1, Cohort.stale_write]
    by_cases hn : n = w.1
    · subst hn; cases co.stale w.1 <;> cases ls.isEmpty <;> simp
    · have hn' : (w.1 == n) = false := by simpa using fun h : w.1 = n => hn h.symm
      simp [hn, hn']

/-- A plan that writes several registers. -/
theorem computes_writes (i : Instr) (p : Plan) (ds : List Nat) (ok : State → Ctx → Prop) (v : State → Ctx → Nat → Nat → Word)
    (ws : State → Ctx → Cohort → List RegW) (hi : ∀ s, exec i s = .next (s.exec p)) (hn : p.need = 0)
    (hcls : p.cls = none) (hw : ∀ s x en l, p.acc s x en l = none)
    (ha : ∀ t x, p.act t x (x.en p.g) = t.onCohort x fun co => co.writes (x.en p.g) (ws t x co))
    (hb : ∀ s x, ok s x → p.bad s x = none ∧ p.priv s x = false ∧ p.misses s x = none ∧ ∀ l ∈ x.en p.g, p.check s x (x.en p.g) l = .go)
    (hd : ∀ s x co n, n ∈ ds ↔ ∃ w ∈ ws s x co, w.1 = n)
    (hf : ∀ s x co, ok s x → s.ready x p.g p.regs p.srcs = true → co.regs = x.co.regs → (∀ q l, co.pred q l = x.co.pred q l) → ∀ w ∈ ws (s.setCohort x.core x.slot co) x co,
      RegW.fits w (x.en p.g))
    (hf' : ∀ s x co, ok s x → s.ready x p.g p.regs p.srcs = true → co.regs = x.co.regs → (∀ q l, co.pred q l = x.co.pred q l) → ∀ n w, (ws (s.setCohort x.core x.slot co) x co).reverse.find? (fun w => w.1 == n) = some w →
      ∀ l ∈ x.en p.g, l < 32 → w.2.2 l = v s x n l) :
    Computes i p.g p.len p.regs p.srcs ds ok v := by
  refine computes_of i p ds ok v (fun t x co => co.writes (x.en p.g) (ws t x co)) hi hn hcls hw ha
    (fun t x co => Cohort.writes_eq _ _ _) hb ?_
  intro s x co hok hrd hr hp _ hpr he
  have h1 := hf s x co hok hrd hr hpr
  have h2 := hf' s x co hok hrd hr hpr
  have hreg : ∀ n l, co.reg n l = x.co.reg n l := fun n l => by simp [Cohort.reg, hr]
  refine ⟨fun n l hl hpl => ?_, fun n => ?_⟩
  · rw [Cohort.reg_writes co _ _ n l hl hpl h1]
    cases e : (ws (s.setCohort x.core x.slot co) x co).reverse.find? fun w => w.1 == n with
    | some w =>
      have hm : n ∈ ds := (hd _ x co n).mpr ⟨w, by simpa using List.mem_of_find?_eq_some e, by simpa using List.find?_some e⟩
      by_cases hl' : l ∈ x.en p.g
      · simp only [hl', if_true, hm, and_self]; exact h2 n w e l hl' hl
      · simp [hl', hreg]
    | none =>
      have hm : n ∉ ds := by
        intro hm
        obtain ⟨w, hw1, hw2⟩ := (hd (s.setCohort x.core x.slot co) x co n).mp hm
        have := List.find?_eq_none.mp e w (by simpa using hw1)
        simp [hw2] at this
      simp [hm, hreg]
  · rw [Cohort.stale_writes]
    have : (x.en p.g).isEmpty = false := by simpa using he
    have hm : (ws (s.setCohort x.core x.slot co) x co).any (fun w => w.1 == n) = decide (n ∈ ds) := by
      rw [Bool.eq_iff_iff]; simp [hd (s.setCohort x.core x.slot co) x co n]
    rw [hm]
    simp [Cohort.stale, hr, this]

/-- A register pair's write as two. -/
theorem Cohort.write64_eq (co : Cohort) (n : Nat) (lo hi : Sh) (ls : List Nat) (f : Nat → DWord) :
    co.write64 n lo hi ls f = co.writes ls [(n, lo, fun l => (f l).setWidth 32), (n + 1, hi, fun l => (f l >>> 32).setWidth 32)] := rfl
/-- A plan that writes a pair. -/
theorem computes_pair (i : Instr) (p : Plan) (d : Nat) (ok : State → Ctx → Prop) (f : State → Ctx → Cohort → Nat → DWord) (v : State → Ctx → Nat → DWord)
    (lo hi : State → Ctx → Cohort → Sh) (hx : ∀ s, exec i s = .next (s.exec p)) (hn : p.need = 0)
    (hcls : p.cls = none) (hw : ∀ s x en l, p.acc s x en l = none)
    (ha : ∀ t x, p.act t x (x.en p.g) = t.onCohort x fun co => co.write64 d (lo t x co) (hi t x co) (x.en p.g) (f t x co))
    (hb : ∀ s x, ok s x → p.bad s x = none ∧ p.priv s x = false ∧ p.misses s x = none ∧ ∀ l ∈ x.en p.g, p.check s x (x.en p.g) l = .go)
    (hf : ∀ s x co, ok s x → co.regs = x.co.regs → (∀ q l, co.pred q l = x.co.pred q l) → let t := s.setCohort x.core x.slot co
      (∀ l ∈ x.en p.g, l < 32 → f t x co l = v s x l) ∧ RegW.fits (d, lo t x co, fun l => (f t x co l).setWidth 32) (x.en p.g) ∧
      RegW.fits (d + 1, hi t x co, fun l => (f t x co l >>> 32).setWidth 32) (x.en p.g)) :
    Computes i p.g p.len p.regs p.srcs [d, d + 1] ok fun s x n l => half d n (v s x l) := by
  refine computes_writes i p [d, d + 1] ok _ (fun t x co => [(d, lo t x co, fun l => (f t x co l).setWidth 32), (d + 1, hi t x co, fun l => (f t x co l >>> 32).setWidth 32)])
    hx hn hcls hw ha hb (fun s x co n => by simp [eq_comm]) ?_ ?_
  · intro s x co hok _ hr hp w hw
    obtain ⟨-, h2, h3⟩ := hf s x co hok hr hp
    simp only [List.mem_cons, List.not_mem_nil, or_false] at hw
    rcases hw with rfl | rfl
    · exact h2
    · exact h3
  · intro s x co hok _ hr hp n w hw l hl h32
    obtain ⟨h1, -, -⟩ := hf s x co hok hr hp
    by_cases e : d + 1 = n
    · simp [e] at hw; subst hw; simp only [h1 l hl h32, half]; simp [← e]
    · by_cases e' : d = n
      · simp [e, e'] at hw; subst hw; simp only [h1 l hl h32, half]; simp [e']
      · simp [e, e'] at hw
/-- The pair d := f of the lane's operands. -/
theorem mapPair_computes (i : Instr) (g : Guard) (len xop d : Nat) (srcs : List Nat) (shapes : Cohort → List Sh) (f : Cohort → Nat → DWord)
    (hi : ∀ s, exec i s = .next (s.exec (mapPair g len xop d srcs shapes f)))
    (hf : ∀ co co' : Cohort, co.regs = co'.regs → ∀ l, f co l = f co' l)
    (hu : ∀ co, (∀ sh ∈ shapes co, sh = .uni) → ∀ l m, f co l = f co m) :
    Computes i g len (d :: (d + 1) :: srcs) srcs [d, d + 1] always fun _ x n l => half d n (f x.co l) := by
  refine computes_pair i (mapPair g len xop d srcs shapes f) d always (fun _ _ co l => f co l) (fun _ x l => f x.co l)
    (fun _ _ co => Sh.all (shapes co)) (fun _ _ co => Sh.all (shapes co)) hi rfl rfl (fun _ _ _ _ => rfl) (fun _ _ => rfl) (fun s x _ => plain_checks _ _ _ _ _ _ s x) ?_
  intro s x co _ hr _
  refine ⟨fun l _ _ => hf co x.co hr l, ⟨fun h l _ => ?_, fun b st h => absurd h (Sh.all_not_aff _ _ _)⟩,
    ⟨fun h l _ => ?_, fun b st h => absurd h (Sh.all_not_aff _ _ _)⟩⟩
  · simp only [hu co (Sh.all_uni _ h) l ((x.en g).headD 0)]; rfl
  · simp only [hu co (Sh.all_uni _ h) l ((x.en g).headD 0)]; rfl

/-! Predicates -/

theorem Lane.pred_setPred (y : Lane) (p q : Nat) (b : Bool) (hq : q < 16) :
    (y.setPred p b).pred q = if q = p ∧ q ≠ 0 then b else y.pred q := by
  unfold Lane.setPred Lane.pred
  by_cases h0 : q = 0
  · simp [h0]
  · have hq0 : (q == 0) = false := by simpa using h0
    by_cases hp : p = 0 ∨ 16 ≤ p
    · have : ¬ (q = p) := by omega
      have hc : ((p == 0) = true ∨ 16 ≤ p) := by simpa using hp
      simp [hp, this, h0]
    · have hc : ¬ ((p == 0) = true ∨ 16 ≤ p) := by simpa using hp
      simp only [hc, if_false, hq0, Bool.false_or]
      have hbit : (BitVec.ofNat 16 (2 ^ p)).getLsbD q = decide (q = p) := by
        simp only [BitVec.getLsbD_ofNat, hq, decide_true, Bool.true_and, Nat.testBit_two_pow]
        by_cases e : p = q <;> simp [e, eq_comm]
      generalize BitVec.ofNat 16 (2 ^ p) = w at hbit ⊢
      have hb' : w[q] = decide (q = p) := by rw [← hbit, BitVec.getLsbD_eq_getElem]
      by_cases e : q = p
      · subst e
        cases b <;> simp [h0, hb', hq]
      · cases b <;> simp [h0, e, hb', hq]
theorem Lane.bare_setPred (y : Lane) (p : Nat) (b : Bool) : (y.setPred p b).bare = y.bare := by
  unfold Lane.setPred; split <;> rfl

/-- Predicate writes one after another: predicate, lane, value. -/
def Cohort.setPreds (co : Cohort) (ws : List (Nat × Nat × Bool)) : Cohort := ws.foldl (fun c w => c.setPred w.1 w.2.1 w.2.2) co
theorem NMap.find?_adj {α : Type} (m : NMap α) (n k : Nat) (f : α → α) : (m.adj n f).find? k = if k = n then (m.find? k).map f else m.find? k := by
  unfold NMap.adj
  by_cases h : k = n
  · subst h; cases e : m.find? k <;> simp [e]
  · cases e : m.find? n <;> simp [h, NMap.find?_put_other _ _ _ _ h]
theorem Cohort.find?_setPred (co : Cohort) (p m l : Nat) (b : Bool) :
    (co.setPred p m b).lanes.find? l = if l = m then (co.lanes.find? l).map (fun y => y.setPred p b) else co.lanes.find? l :=
  NMap.find?_adj _ _ _ _
theorem Cohort.setPreds_bare (co : Cohort) (ws : List (Nat × Nat × Bool)) (l : Nat) :
    ((co.setPreds ws).lanes.find? l).map Lane.bare = (co.lanes.find? l).map Lane.bare := by
  induction ws generalizing co with
  | nil => rfl
  | cons w t ih =>
    have := ih (co.setPred w.1 w.2.1 w.2.2)
    simp only [Cohort.setPreds, List.foldl_cons] at this ⊢
    rw [this, Cohort.find?_setPred]
    split
    · cases co.lanes.find? l <;> simp [Lane.bare_setPred]
    · rfl
theorem Cohort.pred_setPreds (co : Cohort) (ws : List (Nat × Nat × Bool)) (q l : Nat) (hq : q < 16) (hl : (co.lanes.find? l).isSome = true) :
    (co.setPreds ws).pred q l = match ws.reverse.find? (fun w => w.1 == q && w.2.1 == l) with
      | some w => if q = 0 then true else w.2.2
      | none => co.pred q l := by
  induction ws generalizing co with
  | nil => rfl
  | cons w t ih =>
    have hl' : ((co.setPred w.1 w.2.1 w.2.2).lanes.find? l).isSome = true := by
      rw [Cohort.find?_setPred]; split <;> simpa using hl
    have h1 := ih (co.setPred w.1 w.2.1 w.2.2) hl'
    simp only [Cohort.setPreds, List.foldl_cons] at h1 ⊢
    rw [h1]
    simp only [List.reverse_cons, List.find?_append]
    cases e : t.reverse.find? fun w => w.1 == q && w.2.1 == l with
    | some w' => simp
    | none =>
      obtain ⟨y, hy⟩ := Option.isSome_iff_exists.mp hl
      simp only [Cohort.pred, Cohort.find?_setPred, hy, Option.map_some]
      by_cases h2 : l = w.2.1
      · subst h2
        simp only [if_true, Lane.pred_setPred y w.1 q w.2.2 hq]
        by_cases h3 : q = w.1
        · subst h3
          by_cases h0 : w.1 = 0
          · simp [h0, Lane.pred]
          · simp [h0]
        · have : (w.1 == q) = false := by simpa using fun h : w.1 = q => h3 h.symm
          simp [this, h3]
      · have : (w.2.1 == l) = false := by simpa using fun h : w.2.1 = l => h2 h.symm
        simp [this, h2]
theorem Cohort.setPreds_eq (co : Cohort) (ws : List (Nat × Nat × Bool)) : co.setPreds ws = { co with lanes := (co.setPreds ws).lanes } := by
  induction ws generalizing co with
  | nil => rfl
  | cons w t ih => exact ih (co.setPred w.1 w.2.1 w.2.2)
theorem Cohort.setPreds_ne (co : Cohort) (ws : List (Nat × Nat × Bool)) (h : co.lanes ≠ []) : (co.setPreds ws).lanes ≠ [] := by
  induction ws generalizing co with
  | nil => exact h
  | cons w t ih =>
    apply ih
    simp only [Cohort.setPred, Cohort.modLane, NMap.adj]
    split
    · cases e : co.lanes with
      | nil => exact absurd e h
      | cons y t => simp only [NMap.put]; split <;> (try split) <;> simp
    · exact h

theorem find?_mapLanes (m : NMap Lane) (f : Nat → Lane → Lane) (l : Nat) :
    NMap.find? (m.map fun y => (y.1, f y.1 y.2)) l = (NMap.find? m l).map (f l) := by
  induction m with
  | nil => rfl
  | cons y t ih =>
    obtain ⟨k, y⟩ := y
    by_cases e : k = l
    · subst e; simp [NMap.find?]
    · simpa [NMap.find?, e] using ih

/-- A plan that sets predicates. -/
theorem decides_of (i : Instr) (p : Plan) (ps : List Nat) (v : State → Ctx → Nat → Nat → Bool) (ws : State → Ctx → Cohort → List (Nat × Nat × Bool))
    (hi : ∀ s, exec i s = .next (s.exec p)) (hn : p.need = 0) (hcls : p.cls = none) (hw : ∀ s x en l, p.acc s x en l = none)
    (ha : ∀ t x, p.act t x (x.en p.g) = t.onCohort x fun co => co.setPreds (ws t x co))
    (hb : ∀ s x, p.bad s x = none ∧ p.priv s x = false ∧ p.misses s x = none ∧ ∀ l ∈ x.en p.g, p.check s x (x.en p.g) l = .go)
    (hv : ∀ s x co, co.regs = x.co.regs → (∀ q l, co.pred q l = x.co.pred q l) → ∀ q l, q < 16 →
      match (ws (s.setCohort x.core x.slot co) x co).reverse.find? (fun w => w.1 == q && w.2.1 == l) with
      | some w => q ∈ ps ∧ l ∈ x.en p.g ∧ (q ≠ 0 → w.2.2 = v s x q l)
      | none => ¬(q ∈ ps ∧ q ≠ 0 ∧ l ∈ x.en p.g)) :
    Decides i p.g p.len p.regs p.srcs ps v := by
  intro s x hr
  obtain ⟨hb1, hb2, hb3, hgo⟩ := hb s x
  have hx := s.exec_cohort x p (fun t co => co.setPreds (ws t x co)) hr hb1 hb2 hb3 (by simp [hcls]) hgo hn hw (fun t => ha t x)
    (fun t co h => Cohort.setPreds_ne _ _ h)
  have hpred : ∀ q l, (x.moved p.len).pred q l = x.co.pred q l := by
    intro q l
    simp only [Cohort.pred, Ctx.moved, find?_mapLanes x.co.lanes fun k y => if x.xs.contains k then { y with pc := x.after p.len } else y]
    cases x.co.lanes.find? l with
    | none => rfl
    | some y => simp only [Option.map_some]; split <;> rfl
  have hmv : ∀ l, (x.moved p.len).lanes.find? l = (x.co.lanes.find? l).map fun y => if x.xs.contains l then { y with pc := x.after p.len } else y :=
    fun l => find?_mapLanes x.co.lanes (fun k y => if x.xs.contains k then { y with pc := x.after p.len } else y) l
  have hps : ∀ l, (s.passed x p.len).lanes.find? l = (x.co.lanes.find? l).map fun y => if x.xs.contains l then { y with pc := x.after p.len, met := none } else y :=
    fun l => find?_mapLanes x.co.lanes (fun k y => if x.xs.contains k then { y with pc := x.after p.len, met := none } else y) l
  -- the cohort after the effect, before its age restarts
  have key : ∀ co : Cohort, co = { x.moved p.len with lanes := co.lanes } → (∀ l, (co.lanes.find? l).map Lane.bare = ((x.moved p.len).lanes.find? l).map Lane.bare) →
      (∀ q l, q < 16 → (x.co.lanes.find? l).isSome = true → co.pred q l = if q ∈ ps ∧ q ≠ 0 ∧ l ∈ x.en p.g then v s x q l else x.co.pred q l) →
      ∃ ls : NMap Lane, { co with readyTick := s.cyc, boosted := false, lanes := co.lanes.map fun y => (y.1, if x.xs.contains y.1 then { y.2 with met := none } else y.2) }
          = { s.passed x p.len with lanes := ls } ∧
        (∀ l, (ls.find? l).map Lane.bare = ((s.passed x p.len).lanes.find? l).map Lane.bare) ∧
        ∀ q l, q < 16 → (x.co.lanes.find? l).isSome = true → ({ x.co with lanes := ls } : Cohort).pred q l = if q ∈ ps ∧ q ≠ 0 ∧ l ∈ x.en p.g then v s x q l else x.co.pred q l := by
    intro co he hbare hpr
    have hf : ∀ l, NMap.find? (co.lanes.map fun y => (y.1, if x.xs.contains y.1 then { y.2 with met := none } else y.2)) l =
        (co.lanes.find? l).map fun y => if x.xs.contains l then { y with met := none } else y :=
      fun l => find?_mapLanes co.lanes (fun k y => if x.xs.contains k then { y with met := none } else y) l
    refine ⟨co.lanes.map fun y => (y.1, if x.xs.contains y.1 then { y.2 with met := none } else y.2), ?_, fun l => ?_, fun q l hq hl => ?_⟩
    · rw [he]; rfl
    · have hb := hbare l
      rw [hmv] at hb
      rw [hf, hps]
      cases e1 : co.lanes.find? l with
      | none => cases e2 : x.co.lanes.find? l <;> simp [e1, e2] at hb ⊢
      | some y =>
        cases e2 : x.co.lanes.find? l with
        | none => simp [e1, e2] at hb
        | some z =>
          simp only [e1, e2, Option.map_some, Option.some.injEq] at hb ⊢
          cases hc : x.xs.contains l
          · simp only [hc, Bool.false_eq_true, if_false] at hb ⊢; exact hb
          · simp only [hc, if_true, Lane.bare, Lane.mk.injEq] at hb ⊢
            exact ⟨hb.1, hb.2.1, trivial, hb.2.2.2.1, hb.2.2.2.2.1, trivial⟩
    · rw [← hpr q l hq hl]
      simp only [Cohort.pred, hf]
      cases co.lanes.find? l with
      | none => rfl
      | some y => simp only [Option.map_some]; split <;> rfl
  have hsome : ∀ l, (x.co.lanes.find? l).isSome = true → ((x.moved p.len).lanes.find? l).isSome = true := fun l h => by rw [hmv]; simpa using h
  by_cases he : (x.en p.g).isEmpty = true
  · simp only [he, if_true] at hx
    obtain ⟨ls, h1, h2, h3⟩ := key (x.moved p.len) rfl (fun _ => rfl) (fun q l _ _ => by
      have : l ∉ x.en p.g := by simp [List.isEmpty_iff.mp he]
      simp [this, hpred])
    exact ⟨ls, by rw [hi, hx]; simp only [h1], h2, h3⟩
  · simp only [he, Bool.false_eq_true, if_false] at hx
    obtain ⟨ls, h1, h2, h3⟩ := key ((x.moved p.len).setPreds (ws (s.setCohort x.core x.slot (x.moved p.len)) x (x.moved p.len)))
      (Cohort.setPreds_eq _ _) (fun l => Cohort.setPreds_bare _ _ l) (fun q l hq hl => by
        rw [Cohort.pred_setPreds _ _ q l hq (hsome l hl)]
        have h := hv s x (x.moved p.len) rfl hpred q l hq
        cases e : (ws (s.setCohort x.core x.slot (x.moved p.len)) x (x.moved p.len)).reverse.find? fun w => w.1 == q && w.2.1 == l with
        | some w =>
          simp only [e] at h
          obtain ⟨ha, hb, hc⟩ := h
          by_cases h0 : q = 0
          · subst h0
            obtain ⟨y, hy⟩ := Option.isSome_iff_exists.mp hl
            simp [Cohort.pred, hy, Lane.pred]
          · simp [h0, ha, hb, hc h0]
        | none =>
          simp only [e] at h
          rw [if_neg h, hpred])
    exact ⟨ls, by rw [hi, hx]; simp only [h1], h2, h3⟩

/-- pd := f of the lane's operands. -/
theorem mapPred_decides (i : Instr) (g : Guard) (len xop pd : Nat) (srcs : List Nat) (f : Cohort → Nat → Bool)
    (hi : ∀ s, exec i s = .next (s.exec { mapPred g 12 xop pd srcs f with len := len }))
    (hf : ∀ co co' : Cohort, co.regs = co'.regs → (∀ q l, co.pred q l = co'.pred q l) → ∀ l, f co l = f co' l) :
    Decides i g len srcs srcs [pd] fun _ x _ l => f x.co l := by
  refine decides_of i { mapPred g 12 xop pd srcs f with len := len } [pd] _ (fun _ x co => (x.en g).map fun l => (pd, l, f co l)) hi rfl rfl (fun _ _ _ _ => rfl)
    (fun t x => ?_) (fun s x => plain_checks _ _ _ _ _ _ s x) ?_
  · show t.onCohort x _ = _
    congr 1; funext co
    simp [Cohort.setPreds, List.foldl_map]; rfl
  · intro s x co hr hp q l hq
    have hl : ∀ ls : List Nat, (ls.map fun l => (pd, l, f co l)).find? (fun w => w.1 == q && w.2.1 == l) =
        if pd = q ∧ l ∈ ls then some (pd, l, f co l) else none := by
      intro ls
      induction ls with
      | nil => simp
      | cons a t ih =>
        by_cases h1 : pd = q
        · by_cases h2 : a = l
          · subst h2; simp [h1]
          · have h2' : ¬ l = a := fun h => h2 h.symm
            have : (a == l) = false := by simpa using h2
            simp only [List.map_cons, List.find?_cons, this, Bool.and_false, ih]
            simp [h1, h2']
        · have : (pd == q) = false := by simpa using h1
          simp only [List.map_cons, List.find?_cons, this, Bool.false_and, ih]
          simp [h1]
    rw [← List.map_reverse, hl]
    by_cases h : pd = q ∧ l ∈ (x.en g).reverse
    · simp only [h, and_self, if_true]
      obtain ⟨h1, h2⟩ := h
      exact ⟨by simp, List.mem_reverse.mp h2, fun _ => hf co x.co hr hp l⟩
    · simp only [h, if_false]
      rintro ⟨h1, -, h3⟩
      exact h ⟨(List.mem_singleton.mp h1).symm, List.mem_reverse.mpr h3⟩

/-! What the readers of a cohort depend on, and the builders in the terms of the claims -/

theorem Cohort.reg_congr {co co' : Cohort} (h : co.regs = co'.regs) (n l : Nat) : co.reg n l = co'.reg n l := by simp [Cohort.reg, h]
theorem Cohort.reg64_congr {co co' : Cohort} (h : co.regs = co'.regs) (n l : Nat) : co.reg64 n l = co'.reg64 n l := by
  simp [Cohort.reg64, Cohort.reg_congr h]
theorem Cohort.src_congr {co co' : Cohort} (h : co.regs = co'.regs) (b : Src) (l : Nat) : co.src b l = co'.src b l := by
  cases b <;> simp [Cohort.src, Cohort.reg_congr h]
theorem Cohort.src64_congr {co co' : Cohort} (h : co.regs = co'.regs) (b : Src) (l : Nat) : co.src64 b l = co'.src64 b l := by
  cases b <;> simp [Cohort.src64, Cohort.reg64_congr h]
/-- A pair of uniform registers has one value. -/
theorem Cohort.reg64_uni (co : Cohort) (a : Nat) (h : co.shape a = .uni) (h' : co.shape (a + 1) = .uni) (l m : Nat) : co.reg64 a l = co.reg64 a m := by
  simp [Cohort.reg64, co.reg_uni a h l m, co.reg_uni (a + 1) h' l m]
theorem Cohort.src64_uni (co : Cohort) (b : Src) (h : ∀ s ∈ co.srcShape64 b, s = .uni) (l m : Nat) : co.src64 b l = co.src64 b m := by
  cases b with
  | reg n =>
    simp only [Cohort.srcShape64, List.mem_cons, List.not_mem_nil, or_false, forall_eq_or_imp, forall_eq] at h
    exact co.reg64_uni n h.1 h.2 l m
  | imm w => rfl
theorem map1_maps {i : Instr} {g : Guard} {len d a : Nat} {f : Word → Word} (xop : Nat) (hi : ∀ s, exec i s = .next (s.exec (map1 g len xop d a f))) :
    Maps1 i g len d a f := map1_computes _ _ _ _ _ _ _ hi
theorem map2_maps {i : Instr} {g : Guard} {len d a : Nat} {b : Src} {f : Word → Word → Word} (xop : Nat)
    (hi : ∀ s, exec i s = .next (s.exec (map2 g len xop d a b f))) : Maps2 i g len d a b f := map2_computes _ _ _ _ _ _ _ _ hi
theorem map3_maps {i : Instr} {g : Guard} {len d a : Nat} {b : Src} {c : Nat} {f : Word → Word → Word → Word} (xop : Nat)
    (hi : ∀ s, exec i s = .next (s.exec (map3 g len xop d a b c f))) : Maps3 i g len d a b c f := map3_computes _ _ _ _ _ _ _ _ _ hi
theorem mapPair_maps {i : Instr} {g : Guard} {len d : Nat} {srcs : List Nat} {f : Cohort → Nat → DWord} (xop : Nat) (shapes : Cohort → List Sh)
    (hi : ∀ s, exec i s = .next (s.exec (mapPair g len xop d srcs shapes f))) (hf : ∀ co co' : Cohort, co.regs = co'.regs → ∀ l, f co l = f co' l)
    (hu : ∀ co, (∀ sh ∈ shapes co, sh = .uni) → ∀ l m, f co l = f co m) : MapsPair i g len d srcs f :=
  mapPair_computes _ _ _ _ _ _ _ _ hi hf hu
theorem crossLane_gathers {i : Instr} {g : Guard} {d : Nat} {srcs : List Nat} {f : Cohort → List Nat → Nat → Word} (xop : Nat)
    (hi : ∀ s, exec i s = .next (s.exec (crossLane g xop d srcs f)))
    (hf : ∀ co co' : Cohort, co.regs = co'.regs → (∀ q l, co.pred q l = co'.pred q l) → ∀ ls l, f co ls l = f co' ls l) : Gathers i g d srcs f :=
  crossLane_computes _ _ _ _ _ _ hi hf
theorem mapPred_sets {i : Instr} {g : Guard} {len pd : Nat} {srcs : List Nat} {f : Cohort → Nat → Bool} (xop : Nat)
    (hi : ∀ s, exec i s = .next (s.exec { mapPred g 12 xop pd srcs f with len := len }))
    (hf : ∀ co co' : Cohort, co.regs = co'.regs → (∀ q l, co.pred q l = co'.pred q l) → ∀ l, f co l = f co' l) : Sets i g len pd srcs f :=
  mapPred_decides _ _ _ _ _ _ _ hi hf

end Sys2Proof.Machine
end

