-- ==== Sys2Proof/Laws/Memory.lean ====
section
/-! SUPPORT. Laws of memory: a read after a write, the bytes a write leaves alone, and that every memory operation keeps the canonical form. -/
namespace Sys2Proof.Machine

/-! The canonical form -/

theorem memPut_all (m : List Host.Cell) (a : Nat) (b : Byte) (hm : m.all (fun c => c.2 != 0) = true) : (memPut m a b).all (fun c => c.2 != 0) = true := by
  unfold memPut
  split
  · induction m with
    | nil => rfl
    | cons x t ih =>
      obtain ⟨k, v⟩ := x
      simp only [List.all_cons, Bool.and_eq_true] at hm
      by_cases h : k = a
      · simpa [NMap.del, h] using hm.2
      · simp only [NMap.del, h, if_false, List.all_cons, Bool.and_eq_true]
        exact ⟨hm.1, ih hm.2⟩
  · rename_i hb
    induction m with
    | nil => simpa [NMap.put] using hb
    | cons x t ih =>
      obtain ⟨k, v⟩ := x
      simp only [List.all_cons, Bool.and_eq_true] at hm
      by_cases h1 : a < k
      · simp only [NMap.put, h1, if_true, List.all_cons, Bool.and_eq_true]
        exact ⟨by simpa using hb, hm.1, hm.2⟩
      · by_cases h2 : a = k
        · subst h2
          simp only [NMap.put, Nat.lt_irrefl, if_true, if_false, List.all_cons, Bool.and_eq_true]
          exact ⟨by simpa using hb, hm.2⟩
        · simp only [NMap.put, h1, h2, if_false, List.all_cons, Bool.and_eq_true]
          exact ⟨hm.1, ih hm.2⟩
/-- Writing one byte keeps the canonical form. -/
theorem memPut_wf (m : List Host.Cell) (a : Nat) (b : Byte) (hm : Memory.wf m = true) : Memory.wf (memPut m a b) = true := by
  simp only [Memory.wf, Bool.and_eq_true] at hm ⊢
  refine ⟨?_, memPut_all m a b hm.2⟩
  unfold memPut
  split
  · exact NMap.sorted_del m a hm.1
  · exact NMap.sorted_put m a b hm.1
/-- Writing bytes keeps the canonical form. -/
theorem memPuts_wf (m : List Host.Cell) (a : Nat) (bs : List Byte) (hm : Memory.wf m = true) : Memory.wf (memPuts m a bs) = true := by
  induction bs generalizing m a with
  | nil => simpa [memPuts] using hm
  | cons b t ih => simpa [memPuts] using ih _ _ (memPut_wf m a b hm)
/-- The memory of the state after reset has the canonical form. -/
theorem reset_wf : Memory.wf State.reset.mem = true := rfl
theorem State.writeByte_wf (s : State) (a : Nat) (b : Byte) (hm : Memory.wf s.mem = true) : Memory.wf (s.writeByte a b).mem = true := memPut_wf _ _ _ hm
theorem State.writeMem_wf (s : State) (a : Nat) (bs : List Byte) (hm : Memory.wf s.mem = true) : Memory.wf (s.writeMem a bs).mem = true := memPuts_wf _ _ _ hm

/-! Reads after writes -/

/-- What an address reads as. -/
def memGet (m : List Host.Cell) (a : Nat) : Byte := NMap.getD m a 0
theorem readByte_eq (s : State) (a : Nat) : s.readByte a = memGet s.mem a := rfl
theorem memGet_put_same (m : List Host.Cell) (a : Nat) (b : Byte) (hm : Memory.wf m = true) : memGet (memPut m a b) a = b := by
  simp only [Memory.wf, Bool.and_eq_true] at hm
  unfold memGet memPut NMap.getD
  split
  · rename_i h
    rw [NMap.find?_del_same m 0 a hm.1]
    simp [h]
  · simp
theorem memGet_put_other (m : List Host.Cell) (a c : Nat) (b : Byte) (h : c ≠ a) : memGet (memPut m a b) c = memGet m c := by
  unfold memGet memPut NMap.getD
  split
  · rw [NMap.find?_del_other m a c h]
  · rw [NMap.find?_put_other m a c b h]
/-- A write of bytes leaves every address outside them. -/
theorem memGet_puts_other (m : List Host.Cell) (a c : Nat) (bs : List Byte) (h : c < a ∨ a + bs.length ≤ c) : memGet (memPuts m a bs) c = memGet m c := by
  induction bs generalizing m a with
  | nil => rfl
  | cons b t ih =>
    simp only [List.length_cons] at h
    have h1 : memPuts m a (b :: t) = memPuts (memPut m a b) (a + 1) t := rfl
    rw [h1, ih _ _ (by omega), memGet_put_other _ _ _ _ (by omega)]
/-- A write of bytes is read back. -/
theorem memGet_puts_same (m : List Host.Cell) (a i : Nat) (bs : List Byte) (hm : Memory.wf m = true) (h : i < bs.length) :
    memGet (memPuts m a bs) (a + i) = bs.getD i 0 := by
  induction bs generalizing m a i with
  | nil => simp at h
  | cons b t ih =>
    have h1 : memPuts m a (b :: t) = memPuts (memPut m a b) (a + 1) t := rfl
    rw [h1]
    cases i with
    | zero => rw [memGet_puts_other _ _ _ _ (by omega)]; simpa using memGet_put_same m a b hm
    | succ j =>
      have h2 : a + (j + 1) = a + 1 + j := by omega
      rw [h2, ih _ _ _ (memPut_wf m a b hm) (by simpa using h)]
      simp
/-- A write of bytes leaves the reads of every address outside them. -/
theorem State.readByte_writeMem_other (s : State) (a c : Nat) (bs : List Byte) (h : c < a ∨ a + bs.length ≤ c) : (s.writeMem a bs).readByte c = s.readByte c :=
  memGet_puts_other s.mem a c bs h
/-- The bytes written are read back. -/
theorem State.readMem_writeMem_same (s : State) (a : Nat) (bs : List Byte) (hm : Memory.wf s.mem = true) : (s.writeMem a bs).readMem a bs.length = bs := by
  apply List.ext_getElem
  · simp [State.readMem]
  · intro i h1 h2
    simp only [State.readMem, List.getElem_map, List.getElem_range]
    have h3 := memGet_puts_same s.mem a i bs hm h2
    simpa [readByte_eq, List.getD, h2] using h3

end Sys2Proof.Machine
end

