-- ==== Sys2Proof/Laws/Operations.lean ====
section
/-! SUPPORT. What issuing memory operations does (R45, R118, R143): an operation joins those in flight; nothing but the counters, the strands and the issuing core's L1 changes beside. -/
namespace Sys2Proof.Machine

/-- Two tables of cores that differ in the contents of their L1 data caches alone (R118). -/
def L1Only (m m' : NMap Core) : Prop := ∀ c, ∃ l, m'.getD c Core.reset = { m.getD c Core.reset with l1d := l }
theorem L1Only.rfl' (m : NMap Core) : L1Only m m := fun c => ⟨(m.getD c Core.reset).l1d, rfl⟩
theorem L1Only.trans {a b c : NMap Core} (h : L1Only a b) (k : L1Only b c) : L1Only a c := by
  intro n
  obtain ⟨l, h⟩ := h n
  obtain ⟨l', k⟩ := k n
  exact ⟨l', by rw [k, h]⟩
/-- A store that its core's L1 takes changes that cache alone (R118, R150). -/
theorem State.writeThrough_eq (s : State) (core pa : Nat) (bs : List Byte) : ∃ ks, s.writeThrough core pa bs = { s with cores := ks } ∧ L1Only s.cores ks := by
  refine ⟨_, rfl, fun c => ?_⟩
  by_cases e : c = core
  · subst e; exact ⟨_, by simp [NMap.getD, State.core]; rfl⟩
  · exact ⟨(s.cores.getD c Core.reset).l1d, by simp [NMap.getD, NMap.find?_put_other _ _ _ _ e]⟩
theorem State.twinNote_eq (s : State) (o : MemOp) : ∃ ss fs, s.twinNote o = ({ s with strands := ss }, { o with fields := fs }) := by
  unfold State.twinNote
  split
  · split
    · exact ⟨_, o.fields, rfl⟩
    · split
      · exact ⟨_, _, rfl⟩
      · exact ⟨s.strands, o.fields, rfl⟩
  · exact ⟨s.strands, o.fields, rfl⟩
theorem State.foldl_modStrand_eq (ls : List Nat) (f : Nat → Strand → Strand) (s : State) :
    ∃ ss, ls.foldl (fun s n => s.modStrand n (f n)) s = { s with strands := ss } := by
  induction ls generalizing s with
  | nil => exact ⟨s.strands, rfl⟩
  | cons n t ih =>
    obtain ⟨ss, h⟩ := ih (s.modStrand n (f n))
    exact ⟨ss, by simp only [List.foldl_cons]; rw [h]; rfl⟩
/-- An operation that enters joins those in flight; beside, the counters change, and the L1 of its core if that takes a store (R118). -/
theorem State.enterOp_eq (s : State) (o : MemOp) : ∃ ss ks, s.enterOp o = { s with ops := s.ops ++ [o], strands := ss, cores := ks } ∧ L1Only s.cores ks := by
  have hw : ∃ ks, (if o.early = true then s.writeThrough o.core o.pa o.data else s) = { s with cores := ks } ∧ L1Only s.cores ks := by
    split
    · exact s.writeThrough_eq o.core o.pa o.data
    · exact ⟨s.cores, rfl, L1Only.rfl' _⟩
  obtain ⟨ks, h1, h2⟩ := hw
  obtain ⟨ss, h3⟩ := State.foldl_modStrand_eq (o.strand :: o.sharers).eraseDups (fun _ t =>
    let t := match o.cls with
      | some c => t.issue o.id c
      | none => t
    if o.ord.isAcq then { t with befAll := t.befAll ++ [o.id] } else t) ({ s with ops := s.ops ++ [o], cores := ks } : State)
  refine ⟨ss, ks, ?_, h2⟩
  unfold State.enterOp
  simp only [h1]
  exact h3
/-- An issued operation takes the next number and its place after what it is ordered after; all else about it stays. -/
theorem State.issueOp_eq (s : State) (o : MemOp) : ∃ o' ss ks,
    s.issueOp o = { s with seq := s.seq + 1, ops := s.ops ++ [o'], strands := ss, cores := ks } ∧ L1Only s.cores ks ∧
    o' = { o with id := s.seq, after := o'.after, behind := o'.behind, early := o'.early, fields := o'.fields } := by
  obtain ⟨ss, fs, h1⟩ := s.twinNote_eq o
  unfold State.issueOp
  simp only [h1, State.fresh]
  generalize ho : ({ o with fields := fs, id := s.seq, after := _, behind := _, early := _ } : MemOp) = o'
  obtain ⟨ss', ks, h2, h3⟩ := State.enterOp_eq ({ s with seq := s.seq + 1, strands := ss } : State) o'
  exact ⟨o', ss', ks, h2, h3, by rw [← ho]⟩
/-- The checks of an address see neither the operations in flight nor the L1 caches. -/
theorem State.gCheck_ops (s : State) (q : Nat) (os : List MemOp) (ss : NMap Strand) (ks : NMap Core) (hk : L1Only s.cores ks) (core part va len align : Nat) (kind : Acc) :
    ({ s with seq := q, ops := os, strands := ss, cores := ks } : State).gCheck core part va len align kind = s.gCheck core part va len align kind := by
  obtain ⟨l, hl⟩ := hk core
  have ht : ({ s with seq := q, ops := os, strands := ss, cores := ks } : State).tlbFind core part va = s.tlbFind core part va := by
    have : (({ s with seq := q, ops := os, strands := ss, cores := ks } : State).core core).tlb = (s.core core).tlb := by
      simp only [State.core, hl]
    simp only [State.tlbFind, this]
  unfold State.gCheck
  rw [ht]
  rfl
/-- The operations of `gIssue`: one for each lane whose check passes, in order. -/
theorem State.gIssue_eq (s : State) (x : Ctx) (ls : List Nat) (va : Nat → Nat) (size : Nat) (kind : Acc) (mk : State → Nat → Nat → DWord → MemOp)
    (h : ∀ l ∈ ls, ∃ pa leaf, s.gCheck x.core x.part (va l) size size kind = .ok pa leaf) : ∃ q ss ks news,
    s.gIssue x ls va size kind mk = { s with seq := q, ops := s.ops ++ news, strands := ss, cores := ks } ∧ L1Only s.cores ks ∧ news.length = ls.length ∧
    ∀ l o, (l, o) ∈ ls.zip news → ∃ q ss ks os pa leaf, s.gCheck x.core x.part (va l) size size kind = .ok pa leaf ∧
      let m := mk { s with seq := q, ops := os, strands := ss, cores := ks } l pa leaf
      o = { m with id := o.id, after := o.after, behind := o.behind, early := o.early, fields := o.fields } := by
  unfold State.gIssue
  induction ls generalizing s with
  | nil => exact ⟨s.seq, s.strands, s.cores, [], by simp, L1Only.rfl' _, rfl, by simp⟩
  | cons l t ih =>
    obtain ⟨pa, leaf, h0⟩ := h l (by simp)
    simp only [List.foldl_cons, h0]
    obtain ⟨o', ss, ks, h1, h2, h2'⟩ := s.issueOp_eq (mk s l pa leaf)
    rw [h1]
    have hg : ∀ va, ({ s with seq := s.seq + 1, ops := s.ops ++ [o'], strands := ss, cores := ks } : State).gCheck x.core x.part va size size kind =
        s.gCheck x.core x.part va size size kind := fun va => s.gCheck_ops _ _ _ _ h2 _ _ _ _ _ _
    obtain ⟨q3, ss3, ks3, news, h3, h3', h4, h5⟩ := ih { s with seq := s.seq + 1, ops := s.ops ++ [o'], strands := ss, cores := ks }
      (fun l hl => by rw [hg]; exact h l (by simp [hl]))
    refine ⟨q3, ss3, ks3, o' :: news, by rw [h3]; simp, h2.trans h3', by simp [h4], ?_⟩
    intro l' o hmem
    simp only [List.zip_cons_cons, List.mem_cons, Prod.mk.injEq] at hmem
    rcases hmem with ⟨rfl, rfl⟩ | hmem
    · exact ⟨s.seq, s.strands, s.cores, s.ops, pa, leaf, h0, by rw [h2']⟩
    · obtain ⟨q, ss', ks', os, pa', leaf', e1, e2⟩ := h5 l' o hmem
      rw [hg] at e1
      exact ⟨q, ss', ks', os, pa', leaf', e1, e2⟩

/-- A passed check names its translation. -/
theorem State.gCheck_of_go (s : State) (x : Ctx) (va size : Nat) (kind : Acc) (h : s.gVerdict x va size kind = .go) :
    ∃ pa leaf, s.gCheck x.core x.part va size size kind = .ok pa leaf := by
  unfold State.gVerdict at h
  cases e : s.gCheck x.core x.part va size size kind with
  | ok pa leaf => exact ⟨pa, leaf, rfl⟩
  | miss => simp [e] at h
  | bad f => simp [e] at h

/-- After the lanes have moved on and the cohort's age has restarted, its slot holds the cohort that `passed` describes. -/
theorem State.issued_passed (s t : State) (x : Ctx) (len : Nat) (h : s.ctx = some x) (ht : t.cyc = s.cyc)
    (hc : t.cohort? x.core x.slot = (s.setPcs x x.xs (x.after len)).cohort? x.core x.slot) :
    (t.issued x).cohort? x.core x.slot = some (s.passed x len) ∧ (t.issued x).ops = t.ops ∧ (t.issued x).mem = t.mem := by
  obtain ⟨hco, hne⟩ := s.ctx_cohort x h
  have h1 : (s.setPcs x x.xs (x.after len)).cohort? x.core x.slot =
      some { x.co with lanes := x.co.lanes.map fun y => (y.1, if x.xs.contains y.1 then { y.2 with pc := x.after len } else y.2) } := by
    rw [State.setPcs, State.modCohort_of _ _ _ _ _ hco, State.cohort?_setCohort]
    simpa using hne
  rw [h1] at hc
  obtain ⟨ps, hps⟩ := t.firstIssued_eq x
  have hc' : (t.firstIssued x).cohort? x.core x.slot = t.cohort? x.core x.slot := by rw [hps]; rfl
  rw [hc] at hc'
  refine ⟨?_, ?_, ?_⟩
  · rw [State.issued, State.modCohort_of _ _ _ _ _ hc', State.cohort?_setCohort _ _ _ _ (by simpa using hne)]
    simp only [State.passed, ht, List.map_map, Option.some.injEq]
    congr 1
    apply List.map_congr_left
    intro y _
    simp only [Function.comp]
    cases e : x.xs.contains y.1 <;> simp only [Bool.false_eq_true, if_true, if_false]
  · rw [State.issued, State.modCohort_of _ _ _ _ _ hc', hps]; simp
  · rw [State.issued, State.modCohort_of _ _ _ _ _ hc', hps]; simp
@[simp] theorem State.setPcs_cyc (s : State) (x : Ctx) (ls : List Nat) (pc : Pc) : (s.setPcs x ls pc).cyc = s.cyc := by
  unfold State.setPcs State.modCohort; cases s.cohort? x.core x.slot <;> simp
@[simp] theorem State.setPcs_ops (s : State) (x : Ctx) (ls : List Nat) (pc : Pc) : (s.setPcs x ls pc).ops = s.ops := by
  unfold State.setPcs State.modCohort; cases s.cohort? x.core x.slot <;> simp
@[simp] theorem State.setPcs_mem (s : State) (x : Ctx) (ls : List Nat) (pc : Pc) : (s.setPcs x ls pc).mem = s.mem := by
  unfold State.setPcs State.modCohort; cases s.cohort? x.core x.slot <;> simp
@[simp] theorem Core.vacate_tlb (k : Core) (sl : Nat) : (k.vacate sl).tlb = k.tlb := by unfold Core.vacate; split <;> rfl
/-- The checks of an address do not see where a cohort's lanes are. -/
theorem State.gCheck_setCohort (s : State) (c sl : Nat) (co : Cohort) (core part va len align : Nat) (kind : Acc) :
    (s.setCohort c sl co).gCheck core part va len align kind = s.gCheck core part va len align kind := by
  have ht : (s.setCohort c sl co).tlbFind core part va = s.tlbFind core part va := by
    have : ((s.setCohort c sl co).core core).tlb = (s.core core).tlb := by
      by_cases e : core = c
      · subst e; simp only [State.setCohort, State.core_modCore]; split <;> simp
      · simp [State.setCohort, State.modCore, State.core, State.setCore, NMap.getD, NMap.find?_put_other _ _ _ _ e]
    simp only [State.tlbFind, this]
    rfl
  unfold State.gCheck
  rw [ht]
  rfl
theorem State.gCheck_setPcs (s : State) (x : Ctx) (ls : List Nat) (pc : Pc) (core part va len align : Nat) (kind : Acc) :
    (s.setPcs x ls pc).gCheck core part va len align kind = s.gCheck core part va len align kind := by
  unfold State.setPcs State.modCohort
  cases s.cohort? x.core x.slot with
  | none => rfl
  | some co => exact State.gCheck_setCohort _ _ _ _ _ _ _ _ _ _
/-- What `Issues` asks, from what its plan makes of each lane. -/
theorem issues_of (i : Instr) (p : Plan) (cls : CClass) (kind : Acc) (size : Nat) (ok : State → Ctx → Nat → Prop) (va : Ctx → Nat → Nat)
    (want : Ctx → Nat → MemOp → Prop) (mk : Ctx → State → Nat → Nat → DWord → MemOp) (hi : ∀ s, exec i s = .next (s.exec p)) (hn : p.need = 0) (hcls : p.cls = some cls)
    (hb : ∀ s x, p.bad s x = none ∧ p.priv s x = false ∧ p.misses s x = none)
    (hgo : ∀ s x, (∀ l ∈ x.en p.g, s.gVerdict x (va x l) size kind = .go ∧ ok s x l) → ∀ l ∈ x.en p.g, p.check s x (x.en p.g) l = .go)
    (ha : ∀ t x, p.act t x (x.en p.g) = t.gIssue x (x.en p.g) (va x) size kind (mk x))
    (hm : ∀ t x l pa leaf, let m := mk x t l pa leaf
      m.strand = x.strand l ∧ m.core = x.core ∧ m.launch = x.co.launch ∧ m.pc = x.pc ∧ m.cls = some cls ∧ m.va = va x l ∧ m.size = size ∧ m.pa = pa ∧ m.leaf = leaf)
    (hwant : ∀ t x l pa leaf n af bh ea fs, want x l { mk x t l pa leaf with id := n, after := af, behind := bh, early := ea, fields := fs }) :
    Issues i p.g p.len p.regs p.srcs cls kind size ok va want := by
  intro s x hr hu hok
  have hctx := ((s.ready_iff x p.g p.regs p.srcs).mp hr).1
  obtain ⟨h1, h2, h3⟩ := hb s x
  have hchk : ∀ l ∈ x.en p.g, ∃ pa leaf, (s.setPcs x x.xs (x.after p.len)).gCheck x.core x.part (va x l) size size kind = .ok pa leaf := by
    intro l hl
    rw [State.gCheck_setPcs]
    exact s.gCheck_of_go x _ _ _ (hok l hl).1
  obtain ⟨q, ss, ks, news, e1, ek, e2, e3⟩ := State.gIssue_eq (s.setPcs x x.xs (x.after p.len)) x (x.en p.g) (va x) size kind (mk x) hchk
  have he : p.effect s x = { s.setPcs x x.xs (x.after p.len) with seq := q, ops := s.ops ++ news, strands := ss, cores := ks } ∨
      (x.en p.g = [] ∧ p.effect s x = s.setPcs x x.xs (x.after p.len)) := by
    unfold Plan.effect
    by_cases h : x.en p.g = []
    · right; simp [h]
    · left
      have : (x.en p.g).isEmpty = false := by simpa using h
      rw [this, ha, e1]; simp
  have hslot : ∀ u : State, u.cores = ks → (u.core x.core).bps = ((s.setPcs x x.xs (x.after p.len)).core x.core).bps ∧
      u.cohort? x.core x.slot = (s.setPcs x x.xs (x.after p.len)).cohort? x.core x.slot := by
    intro u hu
    obtain ⟨l, hl⟩ := ek x.core
    simp only [State.cohort?, State.core, hu, hl]
    exact ⟨trivial, trivial⟩
  have hx := s.exec_ready x p hr h1 h2 h3 (fun l hl c hc => by
      have := (hok l hl).2.1
      rw [hcls] at hc; cases hc
      simpa [State.countable] using this) (hgo s x fun l hl => ⟨(hok l hl).1, (hok l hl).2.2⟩) (Or.inl hn) (by
    intro l hl a hacc n hn
    exact s.unwatched_match _ x n a hu hn (State.setPcs_bps s x x.xs (x.after p.len)))
  rcases he with he | ⟨hnil, he⟩
  · obtain ⟨p1, p2, p3⟩ := s.issued_passed (p.effect s x) x p.len hctx (by rw [he]; simp) (by rw [he]; exact (hslot _ rfl).2)
    refine ⟨(p.effect s x).issued x, news, by rw [hi, hx], by rw [p2, he], by rw [p3, he]; simp, p1, e2, ?_⟩
    intro l o hmem
    obtain ⟨q', ss', ks', os, pa, leaf, f1, f2⟩ := e3 l o hmem
    obtain ⟨m1, m2, m3, m4, m5, m6, m7, m8, m9⟩ := hm { s.setPcs x x.xs (x.after p.len) with seq := q', ops := os, strands := ss', cores := ks' } x l pa leaf
    rw [State.gCheck_setPcs] at f1
    rw [f2]
    exact ⟨m1, m2, m3, m4, m5, m6, m7, by simp only [m8, m9]; exact f1, hwant _ x l pa leaf _ _ _ _ _⟩
  · obtain ⟨p1, p2, p3⟩ := s.issued_passed (p.effect s x) x p.len hctx (by rw [he]; simp) (by rw [he])
    refine ⟨(p.effect s x).issued x, [], by rw [hi, hx], by rw [p2, he]; simp, by rw [p3, he]; simp, p1, by simp [hnil], by simp⟩

end Sys2Proof.Machine
end

