-- ==== Sys2Proof/Tests/Slice0.lean ====
section
/-! SUPPORT. Own tests: the checks of WellFormed refuse, words decode as the encoding tables say, worked examples of the spec, and for the claims with hypotheses states that meet them. -/
open Sys2Proof Sys2Proof.Machine

namespace Sys2Proof.Tests
set_option linter.all false
set_option maxRecDepth 16000
set_option Elab.async false

/-! A small machine: a cohort of two lanes at issue on core 0, from a privileged queue, with every address mapped to itself -/

/-- The guard @p0: always. -/
def g0 : Guard := { p := 0, neg := false }
/-- An allocation over the first 4 KiB of a window. -/
def al (b : Buf) (gen : Nat) : Alloc := { buf := b, grove := 10, off := 0, size := 0x1000, cls := .l0, ar := false, strict := false, gen := gen }
/-- A granule written under generation 1 at time 0. -/
def gran (bs : List Byte) : Granule := { data := padTo 32 bs, gen := 1, wtick := 0, exp := false, poison := false, refreshed := 0 }
/-- The launch: one stage, a trap handler, arguments at 0x50000. -/
def la : Launch := { progLaunch with pkt := { progPacket with argVa := 0x50000, trapEnt := 0x100, trapSave := 0x60000 } }
/-- The grove, on core 0. -/
def gr : Grove := { progGrove with tags := 6 }
/-- A lane at the instruction. -/
def lane (strand : Nat) : Lane := { strand := strand, pc := 0x20000, preds := 0, repc := 0, poison := [], met := none }
/-- Its cohort: v0 to v7 hold words, v8 and v9 the address 0x40000, v10 the offset 0x40, v11 a barrier's EXPECT, v14 a block's offset. -/
def co : Cohort :=
  { progCohort 1 1 with
    nlanes := 2, lanes := [(0, lane 1), (1, lane 2)],
    regs := [(0, .general [1, 2]), (1, .general [3, 4]), (2, .uniform 5), (3, .affine 0 4), (4, .uniform 0), (5, .uniform 0), (6, .uniform 0x20000), (7, .uniform 0),
      (8, .uniform 0x40000), (9, .uniform 0), (10, .uniform 0x40), (11, .uniform 1), (12, .uniform 0x80), (13, .uniform 0xC0), (14, .uniform 0x200)] }
/-- Core 0: a barrier of phase 0 that expects two at A offset 0x40, a full future of value 9 at 0x80. -/
def k0 : Core :=
  { Core.reset with
    slots := [(0, co)], gen := 2, groves := [(0, 10)], allocs := [al .w 1, al .a 1, al .c 1], spGen := 2,
    spA := [(2, gran (barBytes 2 false 0)), (4, gran (leBytes 16 (1 + 9 * 2 ^ 64)))],
    tlb := [{ part := 0, page := 0, bits := 37, leaf := 0x1B }] }
/-- The machine. -/
def rig : State :=
  { State.reset with
    seq := 20,
    cur := some (0, 0),
    mem := memPuts (memPuts [] 0x100000 (leBytes 8 0x110001)) 0x110000 (leBytes 8 0x1B),
    cores := [(0, k0)],
    strands := [(1, progStrand 10), (2, { progStrand 10 with index := 1 })],
    groves := [(10, gr)],
    launches := [(1, la)],
    parts := [(0, { Part.reset 0 with root := 0x100000 })],
    trust := { Trust.reset with access := [(0, [progDesc]), (0x20, [progDesc]), (0x30, [progDesc]), (0x31, [progDesc]), (0x32, [progDesc]), (0x34, [progDesc])] } }
/-- Its issue. -/
def rx : Ctx := { core := 0, slot := 0, co := co, xs := [0, 1], pc := 0x20000, part := 0, strict := false }

theorem test_rig_ctx : rig.ctx = some rx := by decide
theorem test_rig_inv : Memory.wf rig.mem = true ∧ rig.agendaOk = true := by decide
theorem test_rig_unwatched : rig.unwatched rx = true := by decide
theorem test_rig_walk : (rig.walkVa 0 0x40000).toOption = some { part := 0, page := 0, bits := 37, leaf := 0x1B } := by decide
theorem test_rig_data : rig.gVerdict rx 0x40000 4 .read = .go ∧ rig.countable rx .ld 0 = true := by decide

/-! Ill-formed terms: one for each check of WellFormed -/

/-- None of these can be encoded: guards, S-form fields, register numbers, pairs, quads, predicates, immediates, modifiers that do not go together. -/
theorem test_wf_refuses : ([
    Instr.nop { p := 16, neg := false }, .nop { p := 0, neg := true }, .nopS { p := 8, neg := false }, .nopS { p := 0, neg := true },
    .movS g0 64 0, .icmpS g0 8 0 0 .eq false, .icmpS g0 1 0 0 .eq true, .repS 64 0 0 0, .repS 1 4 0 0, .waittS g0 true 0, .waitcS g0 .ld 64,
    .ldS g0 0 1 0, .stS g0 0 0 64, .movsS g0 1 .tick, .mov g0 512 0, .iadd g0 0 0 (.reg 512) false false, .iadd g0 0 0 (.imm 1) false true,
    .moviLit g0 3 0, .iadd64 g0 2 4 (.reg 5), .iadd64 g0 2 5 (.imm 0), .lea g0 2 4 (.reg 1) false 8, .sel g0 1 2 (.reg 3) 16,
    .icmp g0 1 2 (.reg 3) .ne true, .fclass g0 1 2 .s32 0, .fclass g0 1 3 .f64 0, .fclass g0 1 2 .f16 2, .pmov g0 (.toReg 512 0), .pmov g0 (.toPred 16 0),
    .pset g0 16 true, .cvt g0 1 2 0 .sr false .f32 .s32, .cvt g0 1 2 3 .rn false .f32 .f16, .cvt g0 1 2 0 .rn false .f32 .f64, .cvt g0 1 2 0 .rz false .s32 .s16,
    .cvtpk g0 1 2 3 4 0 .rn false .f32 0, .cvtpk g0 1 2 3 4 0 .rn false .e2m1 4, .cvtex g0 1 2 .f32 0, .cvtex g0 1 2 .f16 2,
    .qblk g0 1 2 3 0 .rn false .s8 .b16 .e8m0, .qblk g0 1 2 3 4 .rn false .e4m3 .b32 .e8m0, .bpunpk g0 1 2 9 false, .bpunpk g0 1 2 0 false]).all
    (fun i => !i.wf) = true := by decide
/-- The same of control, memory, engine and system instructions. -/
theorem test_wf_refuses_more : ([
    Instr.vote g0 .any 16 0, .vote g0 .ballot 512 0, .matchAny g0 1 3 true, .brx g0 3, .call g0 5 0, .trap g0 4096, .brk g0 4096,
    .rep 256 0 0 0 0 0, .rep 1 0 0 0 0 4, .waitt g0 true (.reg 3), .waitv g0 1 (.imm 65536), .waitc g0 .st 64, .spawn g0 0 1 17, .spawn g0 0 1 0,
    .fwait g0 3 2 0 true .core, .fwait g0 2 3 0 false .core, .ffill g0 1 2 0 3 true .core, .parkw g0 2 0 4 5 .eq true .plain .core,
    .parkw g0 2 0 4 6 .eq false .rel .sys, .ld g0 1 2 0 .b64 false .plain .core .dflt, .ld g0 2 4 0 .b128 false .plain .core .dflt,
    .ld g0 1 2 0 .b32 true .plain .core .dflt, .ld g0 1 2 0 .b32 false .plain .sys .dflt, .ld g0 1 2 0 .b32 false .rel .sys .dflt,
    .ld g0 1 3 0 .b32 false .plain .core .dflt, .st g0 1 2 0 .b32 .acq .sys .dflt, .atom g0 2 4 0 6 .fadd true false .plain .core,
    .atomcas g0 1 4 0 6 8 true false .plain .core, .ldc g0 1 0 .b8, .pref g0 3 0 false, .bread g0 1 2 3 0, .bread g0 1 2 4 64, .bwrite g0 16 2 0 .core,
    .bstat g0 1 (.imm 64), .coll g0 1 2 64, .movs g0 3 .pc, .movsw g0 .laneid 1, .regset g0 1 0 (.imm 0), .regset g0 1 513 (.imm 0), .cinv g0 .d 3 0 1,
    .tlbinv g0 (.va 3 1) .core, .tlbinv g0 (.part 512) .core, .csrr g0 2 0x401, .csrw g0 0x400 3,
    .pformPair g0 { op := .nop, d := 1, a := 0, b := 0 } { op := .nop, d := 0, a := 0, b := 0 },
    .pformPair g0 { op := .iadd64, d := 1, a := 0, b := 0 } { op := .nop, d := 0, a := 0, b := 0 },
    .pformPair g0 { op := .icmpLt, d := 16, a := 0, b := 0 } { op := .nop, d := 0, a := 0, b := 0 },
    .pformPair g0 { op := .nop, d := 0, a := 0, b := 0 } { op := .mov, d := 1, a := 0, b := 1 },
    .pformPair g0 { op := .nop, d := 0, a := 0, b := 0 } { op := .fcmpLt, d := 16, a := 0, b := 1 }]).all
    (fun i => !i.wf) = true := by decide

/-! Words written out from the encoding tables (R171 to R179), one or more for each family -/

/-- An S-form word from its fields (R171). -/
def sWord (op g d a b : Nat) : Word := BitVec.ofNat 32 (2 ^ 26 * b + 2 ^ 20 * a + 2 ^ 14 * d + 2 ^ 10 * g + 4 * op)
/-- S-form: IADD v1, v2, v3 under p3; ICMP.lt.u p5, v1, v2 under !p1; BRA of −1 words; WAITC.bk 2; WAITT.all of tags 1 and 6; LD v1, [d2 + 12]; MOVS v4, %tick. -/
theorem test_words_short :
    decodeWords [0x0C204C08] = .ok (.iaddS { p := 3, neg := false } 1 2 3) ∧ sWord 2 3 1 2 3 = 0x0C204C08 ∧
    decodeWords [0x081D6428] = .ok (.icmpS { p := 1, neg := true } 5 1 2 .lt true) ∧ decodeWords [0xFFFFC038] = .ok (.braS g0 (-1)) ∧
    decodeWords [0x08008048] = .ok (.waitcS g0 .bk 2) ∧ decodeWords [0x08104044] = .ok (.waittS g0 true 0x42) ∧
    decodeWords [0x0C20404C] = .ok (.ldS g0 1 2 3) ∧ decodeWords [sWord 0x17 0 4 0x11 0] = .ok (.movsS g0 4 .tick) ∧
    decodeWords [sWord 0x10 8 5 1 0] = .ok (.repS 5 1 0 0) := by decide
/-- P-form: ISUB v4, v5, v6 beside IADD v300, v301, v302. -/
theorem test_words_pair : decodeWords [0x061440C1, 0x974B6582] =
    .ok (.pformPair g0 { op := .isub, d := 4, a := 5, b := 6 } { op := .iadd, d := 300, a := 301, b := 302 }) := by decide
/-- Integer: MOVI v511, 0xDEADBEEF; IADD64 d2, d4, d6; MOVI d4 with a literal; IADD.sat.u v10, v11, #0xFFFFFFF0. -/
theorem test_words_integer :
    decodeWords [0x03FE000A, 0, 0xDEADBEEF] = .ok (.movi g0 511 0xDEADBEEF) ∧ decodeWords [0x0004006E, 0x00000C04, 0] = .ok (.iadd64 g0 2 4 (.reg 6)) ∧
    decodeWords [0x0008000B, 0x80000000, 0, 0x89ABCDEF, 0x01234567] = .ok (.moviLit g0 4 0x0123456789ABCDEF) ∧
    decodeWords [0x6014000E, 0x4000000B, 0xFFFFFFF0] = .ok (.iadd g0 10 11 (.imm 0xFFFFFFF0) true true) := by decide
/-- Predicates, floating point, conversion, cross-lane: ICMP.eq p3, v1, v2; PAND p3, p1, p2; FFMA.ru v1, v2, v3, v4; CVT of FP32; QBLK as the spec writes it out; VOTE.any p3, p1. -/
theorem test_words_compute :
    decodeWords [0x00060202, 0x00000401, 0] = .ok (.icmp g0 3 1 (.reg 2) .eq false) ∧ decodeWords [0x00060212, 0x00000401, 0] = .ok (.pand g0 3 1 2) ∧
    decodeWords [0x0802030E, 0x00100602, 0] = .ok (.ffma g0 1 2 (.reg 3) 4 .ru) ∧ decodeWords [0x00060502, 1, 0] = .ok (.cvt g0 3 1 0 .rn false .f32 .f32) ∧
    decodeWords [0x00060602, 1, 0] = .ok (.vote g0 .any 3 1) := by decide
/-- Control and waiting: BRA of −1 words; CALL d6 of 16 words; EXIT under !p1; BARARR and BARWAIT as the spec writes them out; FWAIT d0, [d2 + 16]. -/
theorem test_words_control :
    decodeWords [0x00000702, 0, 0xFFFFFFFF] = .ok (.bra g0 (-1)) ∧ decodeWords [0x000C070A, 0, 16] = .ok (.call g0 6 16) ∧
    decodeWords [0x00011716, 0, 0] = .ok (.exit { p := 1, neg := true }) ∧ decodeWords [0x0012081E, 8, 0x100] = .ok (.bararr g0 9 8 0x100) ∧
    decodeWords [0x00000822, 0x1208, 0x100] = .ok (.barwait g0 8 0x100 9) ∧ decodeWords [0x00000826, 2, 16] = .ok (.fwait g0 0 2 16 false .core) := by decide
/-- Memory, scratchpads, engines, system: LD v1, [d2 + 8]; ATOM.add v1, [d2], v3; FENCE.sc.core; BREAD p0 from v2; COLL p0 from v2; SHP v7, v4 as the spec writes it out; CSRR d2, 0x400; HALT. -/
theorem test_words_memory :
    decodeWords [0x00020902, 2, 8] = .ok (.ld g0 1 2 8 .b32 false .plain .core .dflt) ∧
    decodeWords [0x0002090E, 0x00000602, 0] = .ok (.atom g0 1 2 0 3 .add false false .plain .core) ∧
    decodeWords [0x0000091A, 0, 0] = .ok (.fence g0 .sc .core) ∧ decodeWords [0x00000B82, 2, 0] = .ok (.bread g0 0 2 0 0) ∧
    decodeWords [0x00000C82, 2, 0] = .ok (.coll g0 0 2 0) ∧ decodeWords [0x000E0CCE, 4, 0] = .ok (.shp g0 7 4) ∧
    decodeWords [0x00040CE6, 0, 0x400] = .ok (.csrr g0 2 0x400) ∧ decodeWords [0x00000CEE, 0, 0] = .ok (.halt g0) := by decide
/-- No instruction: S opcode 0x18, X opcode 0x023, the guard !p0, a field that must be 0, fewer words than LEN says; and the bytes of an instruction in memory order. -/
theorem test_words_refused :
    decodeWords [0x00000060] = .error (.invalid .opcode) ∧ decodeWords [0x0000008E, 0, 0] = .error (.invalid .opcode) ∧
    decodeWords [0x0C206008] = .error (.invalid .guardNotP0) ∧ decodeWords [0x04000000] = .error (.invalid .requiredZero) ∧
    decodeWords [0x00000702, 0] = .error .short ∧ decode [0x08, 0x4C, 0x20, 0x0C] = .ok (.iaddS { p := 3, neg := false } 1 2 3) ∧
    decodeTableWord 32 0x0C204C08 = some (.iaddS { p := 3, neg := false } 1 2 3) := by decide

/-! Words of every constructor that an instruction word stands for: each word's fields are placed by R171 to R177, its opcode is the place of the mnemonic in R172 or R179, and its modifiers stand where the instruction's own rule puts them -/

/-- Whether each list of words decodes to the instruction written beside it. -/
def decodesAll (l : List (List Word × Instr)) : Bool := l.all fun r => decide (decodeWords r.1 = .ok r.2)
/-- The three words of an X-form from its fields (R176): modifier-lo, modifier-hi, opcode, d, a, b, c, word 2. -/
def xWord (lo hi op d a b c imm : Nat) : List Word :=
  [BitVec.ofNat 32 (2 ^ 26 * lo + 2 ^ 17 * d + 4 * op + 2), BitVec.ofNat 32 (2 ^ 27 * hi + 2 ^ 18 * c + 2 ^ 9 * b + a), BitVec.ofNat 32 imm]
/-- The five words of a literal form (R176, R178): LEN 0b11, L = 1, b and word 2 zero. -/
def litWord (lo op d a c : Nat) (lit : DWord) : List Word :=
  [BitVec.ofNat 32 (2 ^ 26 * lo + 2 ^ 17 * d + 4 * op + 3), BitVec.ofNat 32 (2 ^ 31 + 2 ^ 18 * c + a), 0, lit.extractLsb' 0 32, lit.extractLsb' 32 32]

/-- The encodings that the spec itself writes out beside its worked examples: code listings, compute, memory and engine instructions, programs. -/
theorem test_words_of_the_spec : decodesAll [
    ([0x0000405C], .movsS g0 1 .laneid), ([0x0004000A, 0, 2], .movi g0 2 2), ([0x08104020], .shlS g0 1 1 2), ([0x0010C054], .aldS g0 3 1 0),
    ([0x00000722, 0, 0], .yield g0), ([0x0C30C008], .iaddS g0 3 3 3), ([0x0010C058], .astS g0 3 1 0), ([0x0000003C], .exitS g0),
    ([0x05104085, 0x2411C8D2], .pformPair { p := 1, neg := false } { op := .iadd, d := 4, a := 4, b := 5 } { op := .ffma, d := 70, a := 71, b := 72 }),
    ([0x05919302, 0x6C9, 0], .fadd { p := 9, neg := true } 200 201 (.reg 3) .rz),
    ([0x0010000B, 0x80000000, 0, 0x9ABCDEF0, 0x12345678], .moviLit g0 8 0x123456789ABCDEF0), ([0x00003C3C], .exitS { p := 7, neg := true }),
    ([0x0028050E, 8, 0xC15], .qblk g0 20 21 8 0 .rn false .e2m1 .b8 .e8m0), ([0x0006160A, 2, 0x1000], .red { p := 1, neg := false } 3 2 .fadd),
    ([0x0C0C0606, 0x40000007, 1], .shfl g0 6 7 (.imm 1) .xor), ([0x144EC028], .icmpS g0 3 4 5 .ge true), ([0x54060202, 0xA04, 0], .icmp g0 3 4 (.reg 5) .ge true),
    ([0x4C140902, 0x08000004, 8], .ld g0 10 4 8 .b64 false .acq .die .dflt), ([0x0028090E, 0x00242A06, 0x10], .atom g0 20 6 16 21 .fadd false false .plain .core),
    ([0x0000091A, 0x18000000, 0], .fence g0 .sc .dom), ([0xC0004044], .waittS g0 true 0x30), ([0x08008048], .waitcS g0 .bk 2)] = true := by decide
/-- The same of the chapters on engines, programs and failures. -/
theorem test_words_of_the_spec_more : decodesAll [
    ([0x00022B82, 0x802, 3], .bread { p := 2, neg := false } 1 2 4 3), ([0x00040C06, 0xA, 0], .mxrun g0 2 10), ([0x000E0CCE, 4, 0], .shp g0 7 4),
    ([0x0012081E, 8, 0x100], .bararr g0 9 8 0x100), ([0x00000822, 0x1208, 0x100], .barwait g0 8 0x100 9),
    ([0x0028051A, 0x1A0C, 0x0008CC10], .vdotb g0 20 12 13 0 16 .e2m1 .e2m1 .b8 .e5m2), ([0x002C560A, 0x14, 0x1000], .red { p := 5, neg := false } 22 20 .fadd),
    ([0x0022020E, 0xE, 0xA00], .fclass g0 17 14 .e5m2 0), ([0x043C0912, 0x0040341C, 0], .atomcas g0 30 28 0 26 16 true false .plain .core),
    ([0x8C3C0906, 0x1800001C, 0x10], .st g0 30 28 16 .b64 .rel .dom .dflt), ([0x4C400902, 0x1800001C, 0x10], .ld g0 32 28 16 .b64 false .acq .dom .dflt),
    ([0x60000832, 0x1890441C, 0x10], .parkw g0 28 16 34 36 .eq true .acq .dom), ([0x0000171A, 0, 7], .trap { p := 1, neg := false } 7),
    ([0x0C0C0926, 2, 0], .ald g0 6 2 0 .b64 false), ([0x0828090E, 0x2A06, 0], .atom g0 20 6 0 21 .add false true .plain .core)] = true := by decide
/-- Every S opcode of R172, in its order. -/
theorem test_words_short_all : decodesAll [
    ([sWord 0x00 0 0 0 0], .nopS g0), ([sWord 0x01 0 5 6 0], .movS g0 5 6), ([sWord 0x02 0 5 6 7], .iaddS g0 5 6 7), ([sWord 0x03 0 5 6 7], .isubS g0 5 6 7),
    ([sWord 0x04 0 5 6 7], .imulS g0 5 6 7), ([sWord 0x05 0 5 6 7], .andS g0 5 6 7), ([sWord 0x06 0 5 6 7], .orS g0 5 6 7), ([sWord 0x07 0 5 6 7], .xorS g0 5 6 7),
    ([sWord 0x08 0 5 6 7], .shlS g0 5 6 7), ([sWord 0x09 0 5 6 7], .shrS g0 5 6 7), ([sWord 0x0A 0 0x1D 6 7], .icmpS g0 5 6 7 .le false),
    ([sWord 0x0B 0 5 6 7], .faddS g0 5 6 7), ([sWord 0x0C 0 5 6 7], .fsubS g0 5 6 7), ([sWord 0x0D 0 5 6 7], .fmulS g0 5 6 7), ([sWord 0x0E 0 1 2 3], .braS g0 0x3081),
    ([sWord 0x0F 0 0 0 0], .exitS g0), ([sWord 0x10 0 63 0x39 0], .repS 63 1 2 3), ([sWord 0x11 0 0 2 1], .waittS g0 false 0x81), ([sWord 0x12 0 4 0 63], .waitcS g0 .cl 63),
    ([sWord 0x13 0 5 6 7], .ldS g0 5 6 7), ([sWord 0x14 0 5 6 7], .stS g0 5 6 7), ([sWord 0x15 0 5 6 7], .aldS g0 5 6 7), ([sWord 0x16 0 5 6 7], .astS g0 5 6 7),
    ([sWord 0x17 0 5 0x20 0], .movsS g0 5 .fault)] = true := by decide
/-- The X opcodes 0x000 to 0x022 of R179 in order, with the literal forms; fields by R202 to R204. -/
theorem test_words_integer_all : decodesAll [
    (xWord 0 0 0x00 0 0 0 0 0, .nop g0), (xWord 0 0 0x01 4 6 0 0 0, .mov g0 4 6), (xWord 0 0 0x02 4 0 0 0 9, .movi g0 4 9), (xWord 0 0 0x03 4 6 8 0 0, .iadd g0 4 6 (.reg 8) false false),
    (xWord 8 8 0x04 4 6 0 0 9, .isub g0 4 6 (.imm 9) true false), (xWord 0 0 0x05 4 6 8 0 0, .imul g0 4 6 (.reg 8)), (xWord 16 0 0x06 4 6 8 0 0, .imulh g0 4 6 (.reg 8) true),
    (xWord 0 0 0x07 4 6 8 10 0, .imad g0 4 6 (.reg 8) 10), (xWord 0 0 0x08 4 6 8 0 0, .imin g0 4 6 (.reg 8) false), (xWord 16 8 0x09 4 6 0 0 9, .imax g0 4 6 (.imm 9) true),
    (xWord 8 0 0x0A 4 6 0 0 0, .iabs g0 4 6 true), (xWord 0 0 0x0B 4 6 0 0 0, .ineg g0 4 6 false), (xWord 0 0 0x0C 4 6 8 0 0, .and g0 4 6 (.reg 8)), (xWord 0 0 0x0D 4 6 8 0 0, .or g0 4 6 (.reg 8)),
    (xWord 0 0 0x0E 4 6 8 0 0, .xor g0 4 6 (.reg 8)), (xWord 0 8 0x0F 4 6 0 0 9, .andn g0 4 6 (.imm 9)), (xWord 0 0 0x10 4 6 0 0 0, .not g0 4 6), (xWord 0 0 0x11 4 6 8 0 0, .shl g0 4 6 (.reg 8)),
    (xWord 0 0 0x12 4 6 8 0 0, .shr g0 4 6 (.reg 8)), (xWord 0 0 0x13 4 6 8 0 0, .sar g0 4 6 (.reg 8)), (xWord 0 0 0x14 4 6 0 0 0, .popc g0 4 6), (xWord 0 0 0x15 4 6 0 0 0, .clz g0 4 6),
    (xWord 0 0 0x16 4 6 0 0 0, .ctz g0 4 6), (xWord 0 0 0x17 4 6 0 0 0, .brev g0 4 6), (xWord 16 0 0x18 4 6 8 0 0, .bfx g0 4 6 (.reg 8) true), (xWord 0 0 0x19 4 6 8 10 0, .bfi g0 4 6 (.reg 8) 10),
    (xWord 0 0 0x1A 4 6 8 10 0, .sel g0 4 6 (.reg 8) 10)] = true := by decide
/-- The 64-bit and widening ones. -/
theorem test_words_integer64_all : decodesAll [
    (xWord 0 8 0x1B 4 6 0 0 9, .iadd64 g0 4 6 (.imm 9)), (litWord 0 0x1B 4 6 0 0x500000007, .iadd64Lit g0 4 6 0x500000007),
    (xWord 0 0 0x1C 4 6 8 0 0, .isub64 g0 4 6 (.reg 8)), (litWord 0 0x1C 4 6 0 0x500000007, .isub64Lit g0 4 6 0x500000007), (xWord 0 0 0x1D 4 6 8 0 0, .imul64 g0 4 6 (.reg 8)),
    (litWord 0 0x1D 4 6 0 0x500000007, .imul64Lit g0 4 6 0x500000007), (xWord 0 0 0x1E 4 6 9 0 0, .shl64 g0 4 6 (.reg 9)), (xWord 16 0 0x1F 4 6 9 0 0, .shr64 g0 4 6 (.reg 9) true),
    (xWord 19 0 0x20 4 6 9 0 0, .lea g0 4 6 (.reg 9) true 3), (xWord 16 0 0x21 4 7 9 0 0, .imulw g0 4 7 (.reg 9) true), (xWord 0 0 0x22 4 7 9 10 0, .imadw g0 4 7 (.reg 9) 10 false)] = true := by decide
/-- The X opcodes 0x080 to 0x089 of R179 in order; fields by R205 to R208. -/
theorem test_words_predicates_all : decodesAll [
    (xWord 18 0 0x80 3 6 8 0 0, .icmp g0 3 6 (.reg 8) .lt true), (xWord 5 0 0x81 3 6 8 0 0, .icmp64 g0 3 6 (.reg 8) .ge false), (litWord 1 0x81 3 6 0 0x500000007, .icmp64Lit g0 3 6 .ne false 0x500000007),
    (xWord 36 0 0x82 3 6 8 0 0, .fcmp g0 3 6 (.reg 8) .gt true), (xWord 0 0 0x83 4 6 0 0 (2 ^ 13 * 3 + 2 ^ 9 * 4), .fclass g0 4 6 .e4m3 3), (xWord 0 0 0x84 3 1 2 0 0, .pand g0 3 1 2),
    (xWord 0 0 0x85 3 1 2 0 0, .por g0 3 1 2), (xWord 0 0 0x86 3 1 2 0 0, .pxor g0 3 1 2), (xWord 0 0 0x87 3 1 0 0 0, .pnot g0 3 1), (xWord 0 0 0x88 40 3 0 0 0, .pmov g0 (.toReg 40 3)),
    (xWord 1 0 0x88 3 40 0 0 0, .pmov g0 (.toPred 3 40)), (xWord 2 0 0x88 40 0 0 0 0, .pmov g0 (.pack 40)), (xWord 3 0 0x88 0 40 0 0 0, .pmov g0 (.unpk 40)), (xWord 0 0 0x89 3 0 0 0 1, .pset g0 3 true)] = true := by decide
/-- The X opcodes 0x0C0 to 0x0DA of R179 in order, with the literal forms; fields by R209 to R212. -/
theorem test_words_float_all : decodesAll [
    (xWord 0 0 0xC0 4 6 8 0 0, .fadd g0 4 6 (.reg 8) .rn), (xWord 1 0 0xC1 4 6 8 0 0, .fsub g0 4 6 (.reg 8) .rz), (xWord 2 8 0xC2 4 6 0 0 9, .fmul g0 4 6 (.imm 9) .ru),
    (xWord 3 0 0xC3 4 6 8 10 0, .ffma g0 4 6 (.reg 8) 10 .rd), (xWord 0 0 0xC4 4 6 8 0 0, .fmin g0 4 6 (.reg 8)), (xWord 0 0 0xC5 4 6 8 0 0, .fmax g0 4 6 (.reg 8)), (xWord 0 0 0xC6 4 6 0 0 0, .fabs g0 4 6),
    (xWord 0 0 0xC7 4 6 0 0 0, .fneg g0 4 6), (xWord 0 0 0xC8 4 6 0 0 0, .frcp g0 4 6), (xWord 0 0 0xC9 4 6 0 0 0, .frsq g0 4 6), (xWord 1 0 0xCA 4 6 0 0 0, .fsqrt g0 4 6 .rz),
    (xWord 0 0 0xCB 4 6 8 0 0, .fdiv g0 4 6 (.reg 8) .rn), (xWord 0 0 0xCC 4 6 0 0 0, .fexp2 g0 4 6), (xWord 0 0 0xCD 4 6 0 0 0, .flog2 g0 4 6), (xWord 0 0 0xCE 4 6 0 0 0, .fsin g0 4 6),
    (xWord 0 0 0xCF 4 6 0 0 0, .fcos g0 4 6), (xWord 0 0 0xD0 4 6 0 0 0, .ftanh g0 4 6), (xWord 3 0 0xD1 4 6 0 0 0, .frint g0 4 6 .rd), (xWord 17 0 0xD2 4 6 8 0 0, .hadd2 g0 4 6 (.reg 8) .rz true),
    (xWord 0 0 0xD3 4 6 8 0 0, .hmul2 g0 4 6 (.reg 8) .rn false), (xWord 16 0 0xD4 4 6 8 10 0, .hfma2 g0 4 6 (.reg 8) 10 .rn true), (xWord 16 0 0xD5 4 6 8 0 0, .hmin2 g0 4 6 (.reg 8) true),
    (xWord 0 0 0xD6 4 6 8 0 0, .hmax2 g0 4 6 (.reg 8) false), (xWord 1 0 0xD7 4 6 8 0 0, .dadd g0 4 6 8 .rz), (litWord 1 0xD7 4 6 0 0x500000007, .daddLit g0 4 6 .rz 0x500000007),
    (xWord 0 0 0xD8 4 6 8 0 0, .dmul g0 4 6 8 .rn), (litWord 0 0xD8 4 6 0 0x500000007, .dmulLit g0 4 6 .rn 0x500000007), (xWord 2 0 0xD9 4 6 8 10 0, .dfma g0 4 6 8 10 .ru),
    (litWord 0 0xD9 4 6 10 0x500000007, .dfmaLit g0 4 6 10 .rn 0x500000007), (xWord 3 0 0xDA 4 6 8 0 0, .fscale g0 4 6 (.reg 8) .rd)] = true := by decide
/-- The X opcodes 0x140 to 0x148 and 0x180 to 0x185 of R179 in order; fields by R213 to R225. -/
theorem test_words_blocks_all : decodesAll [
    (xWord 9 0 0x140 4 6 0 0 (2 ^ 13 * 1), .cvt g0 4 6 0 .rz true .f32 .f16), (xWord 4 0 0x140 4 6 8 0 (2 ^ 13 * 2), .cvt g0 4 6 8 .sr false .f32 .bf16),
    (xWord 0 0 0x141 4 6 8 10 (2 ^ 13 * 1 + 2 ^ 9 * 4), .cvtpk g0 4 6 8 10 0 .rn false .e4m3 1), (xWord 0 0 0x142 4 6 0 0 (2 ^ 13 * 3 + 2 ^ 9 * 8), .cvtex g0 4 6 .s8 3),
    (xWord 8 0 0x143 4 32 0 0 (2 ^ 15 * 2 + 2 ^ 13 * 1 + 2 ^ 9 * 5 + 12), .qblk g0 4 12 32 0 .rn true .e5m2 .b16 .e4m3), (xWord 0 0 0x144 4 32 0 0 (2 ^ 13 * 2 + 2 ^ 9 * 8 + 12), .dqblk g0 4 32 12 .s8 .b32 .e8m0),
    (xWord 48 0 0x145 4 6 8 10 0, .vdot4 g0 4 6 (.reg 8) 10 true true), (xWord 16 0 0x145 4 6 8 10 0, .vdot4 g0 4 6 (.reg 8) 10 true false),
    (xWord 0 0 0x146 4 6 8 10 (2 ^ 19 * 1 + 2 ^ 17 * 1 + 2 ^ 13 * 5 + 2 ^ 9 * 4 + 12), .vdotb g0 4 6 8 10 12 .e4m3 .e5m2 .b16 .e5m2),
    (xWord 0 0 0x147 4 6 0 0 0, .bppack g0 4 6), (xWord 0 0 0x148 4 6 0 0 (2 ^ 13 + 2 ^ 9 * 3), .bpunpk g0 4 6 3 true), (xWord 2 0 0x180 4 3 0 0 0, .vote g0 .ballot 4 3), (xWord 1 0 0x180 4 3 0 0 0, .vote g0 .all 4 3),
    (xWord 1 0 0x181 4 6 8 0 0, .shfl g0 4 6 (.reg 8) .up), (xWord 0 0 0x182 4 6 0 0 (2 ^ 9 * 4), .red g0 4 6 .minS), (xWord 16 0 0x183 4 6 0 0 (2 ^ 9 * 10), .scan g0 4 6 .fmax true),
    (xWord 0 0 0x184 3 0 0 0 0, .elect g0 3), (xWord 16 0 0x185 4 6 0 0 0, .matchAny g0 4 6 true)] = true := by decide
/-- The X opcodes 0x1C0 to 0x1C9 and 0x200 to 0x20C of R179 in order; fields by R68, R232 to R253. -/
theorem test_words_control_all : decodesAll [
    (xWord 0 0 0x1C0 0 0 0 0 9, .bra g0 9), (xWord 0 0 0x1C1 0 6 0 0 0, .brx g0 6), (xWord 0 0 0x1C2 4 0 0 0 9, .call g0 4 9), (xWord 0 0 0x1C3 4 6 0 0 0, .callx g0 4 6), (xWord 0 0 0x1C4 0 6 0 0 0, .ret g0 6),
    (xWord 0 0 0x1C5 0 0 0 0 0, .exit g0), (xWord 0 0 0x1C6 0 0 0 0 4095, .trap g0 4095), (xWord 0 0 0x1C7 0 0 0 0 9, .brk g0 9), (xWord 0 0 0x1C8 0 0 0 0 0, .yield g0),
    (xWord 0 0 0x1C9 0 0 0 0 0x18E79, .rep 0x79 2 3 0 2 1), (xWord 1 0 0x200 0 6 0 0 0, .waitt g0 true (.reg 6)), (xWord 0 8 0x200 0 0 0 0 9, .waitt g0 false (.imm 9)),
    (xWord 0 0 0x201 0 6 8 0 0, .waitv g0 6 (.reg 8)), (xWord 0 8 0x201 0 6 0 0 9, .waitv g0 6 (.imm 9)), (xWord 3 0 0x202 0 0 0 0 5, .waitc g0 .mx 5), (xWord 0 0 0x203 4 6 0 3 0, .ffr g0 3 4 (.reg 6)),
    (xWord 0 8 0x204 0 0 0 0 9, .tclr g0 (.imm 9)), (xWord 3 0 0x205 0 6 0 0 9, .spawn g0 9 6 3), (xWord 0 0 0x206 0 6 8 0 9, .barinit g0 6 9 8), (xWord 0 0 0x207 4 6 0 0 9, .bararr g0 4 6 9),
    (xWord 0 0 0x208 0 6 8 0 9, .barwait g0 6 9 8), (xWord 0 2 0x209 4 6 0 0 8, .fwait g0 4 6 8 false .pkg), (xWord 8 0 0x20A 5 7 8 0 16, .ffill g0 5 7 16 8 true .core), (xWord 0 4 0x20B 0 6 0 0 8, .freset g0 6 8 false .sys),
    (xWord 2 0 0x20C 0 6 9 11 8, .parkw g0 6 8 9 11 .lt false .plain .core)] = true := by decide
/-- The X opcodes 0x240 to 0x24E and 0x2C0 to 0x2C4 of R179 in order; fields by R226 and R254 to R269. -/
theorem test_words_memory_all : decodesAll [
    (xWord 9 0 0x240 5 6 0 1 8, .ld g0 5 6 8 .b8 true .plain .core .nl1), (xWord 2 0 0x241 5 6 0 2 8, .st g0 5 6 8 .b16 .plain .core .ev), (xWord 4 0 0x242 8 6 0 0 16, .ldu g0 8 6 16 .b128 false .plain .core),
    (xWord 48 1 0x243 5 6 7 3 8, .atom g0 5 6 8 7 .max false false .acqrel .die), (xWord 0 0 0x244 5 6 7 9 8, .atomcas g0 5 6 8 7 9 false false .plain .core), (xWord 33 4 0x245 0 6 8 8 8, .atomn g0 6 8 8 .xchg true false .rel .sys),
    (xWord 16 3 0x246 0 0 0 0 0, .fence g0 .acq .dom), (xWord 0 0 0x247 5 7 0 0 8, .wld g0 5 7 8 .b32 false), (xWord 1 0 0x248 5 7 0 0 8, .wst g0 5 7 8 .b8), (xWord 10 0 0x249 5 7 0 0 8, .ald g0 5 7 8 .b16 true),
    (xWord 0 0 0x24A 5 7 0 0 8, .ast g0 5 7 8 .b32), (xWord 3 0 0x24B 4 7 0 0 8, .cld g0 4 7 8 .b64 false), (xWord 4 0 0x24C 8 7 0 0 16, .cst g0 8 7 16 .b128), (xWord 3 0 0x24D 4 0 0 0 8, .ldc g0 4 8 .b64),
    (xWord 8 0 0x24E 0 6 0 0 9, .pref g0 6 9 true), (xWord 0x35 0 0x2C0 4 0 7 0 0, .spalloc g0 4 (.reg 7) .a .l1 true true), (xWord 0 0 0x2C1 0 7 0 0 0, .spfree g0 7 .w), (xWord 2 8 0x2C2 0 7 0 0 64, .sprenew g0 7 (.imm 64) .c),
    (xWord 1 0 0x2C3 4 7 0 0 0, .spstat g0 4 7 .a), (xWord 2 0 0x2C4 0 7 0 0 0, .spclear g0 7 .c)] = true := by decide
/-- The X opcodes 0x2E0 to 0x2E5, 0x300 to 0x305, 0x320 and 0x330 to 0x33B of R179 in order; fields by R67, R271 to R278 and R280. -/
theorem test_words_engines_system_all : decodesAll [
    (xWord 0 0 0x2E0 3 7 8 0 5, .bread g0 3 7 8 5), (xWord 0 4 0x2E1 3 7 0 0 5, .bwrite g0 3 7 5 .sys), (xWord 0 1 0x2E2 3 7 0 0 5, .bcopy g0 3 7 5 .die), (xWord 0 0 0x2E3 3 7 0 0 5, .bfill g0 3 7 5 .core),
    (xWord 0 0 0x2E4 3 7 0 0 5, .bdigest g0 3 7 5), (xWord 0 8 0x2E5 4 0 0 0 5, .bstat g0 4 (.imm 5)), (xWord 0 0 0x2E5 4 7 0 0 0, .bstat g0 4 (.reg 7)), (xWord 0 0 0x300 3 7 0 0 0, .mxlw g0 3 7),
    (xWord 0 0 0x301 3 7 0 0 0, .mxrun g0 3 7), (xWord 0 0 0x302 3 7 0 0 0, .mxzero g0 3 7), (xWord 0 0 0x303 4 7 0 0 0, .mxver g0 4 7), (xWord 0 0 0x304 4 7 8 0 0, .mxhnd g0 4 7 8), (xWord 0 0 0x305 0 7 0 0 0, .mxrel g0 7),
    (xWord 0 0 0x320 3 7 0 0 5, .coll g0 3 7 5), (xWord 0 0 0x330 4 0x13 0 0 0, .movs g0 4 .cnt), (xWord 0 0 0x331 0x20 7 0 0 0, .movsw g0 .fault 7), (xWord 0 0 0x332 4 15 7 0 0, .regset g0 4 16 (.reg 7)),
    (xWord 1 0 0x332 4 15 0 0 9, .regset g0 4 16 (.imm 9)), (xWord 0 0 0x333 4 7 0 0 0, .shp g0 4 7), (xWord 0 0 0x334 4 7 0 0 0, .uni g0 4 7), (xWord 0 0 0x335 0 0 0 0 0, .ckpt g0), (xWord 0 0 0x336 0 0 0 0 0, .tret g0),
    (xWord 0 2 0x337 0 6 7 0 8, .cinv g0 (.i .pkg) 6 8 7), (xWord 8 0 0x337 0 6 7 0 8, .cinv g0 .d 6 8 7), (xWord 0 3 0x338 0 6 7 0 0, .tlbinv g0 (.va 6 7) .dom), (xWord 1 1 0x338 0 0 7 0 0, .tlbinv g0 (.part 7) .die),
    (xWord 2 4 0x338 0 0 0 0 0, .tlbinv g0 .all .sys), (xWord 0 0 0x339 4 0 0 0 0x400, .csrr g0 4 0x400), (xWord 0 0 0x33A 0 6 0 0 0x400, .csrw g0 0x400 6), (xWord 0 0 0x33B 0 0 0 0 0, .halt g0)] = true := by decide
/-- The two words of a pair from its fields (R173): uop, ud, ua, ub, vop, vd, va, vb. -/
def pWord (uop ud ua ub vop vd va vb : Nat) : List Word :=
  [BitVec.ofNat 32 (2 ^ 24 * ub + 2 ^ 18 * ua + 2 ^ 12 * ud + 2 ^ 6 * uop + 1), BitVec.ofNat 32 (2 ^ 23 * vb + 2 ^ 14 * va + 2 ^ 5 * vd + vop)]
/-- Every slot opcode of R174, in its order, beside a NOP of the other slot. -/
theorem test_words_pair_all :
    decodesAll ([UOp.iadd, .isub, .imul, .imad, .and, .or, .xor, .shl, .shr, .iadd64, .lea, .icmpLt, .icmpEq, .imin, .imax].zipIdx.map fun r =>
      (pWord (r.2 + 2) 4 6 8 0 0 0 0, .pformPair g0 { op := r.1, d := 4, a := 6, b := 8 } { op := .nop, d := 0, a := 0, b := 0 })) = true ∧
    decodesAll ([VOp.iadd, .isub, .imul, .imad, .imin, .imax, .and, .or, .xor, .shl, .shr, .icmpLt, .fcmpLt, .fadd, .fsub, .fmul, .ffma, .fmin, .fmax, .hfma2, .ald, .ast, .vdot4].zipIdx.map fun r =>
      (pWord 1 4 6 0 (r.2 + 2) 5 300 301, .pformPair g0 { op := .mov, d := 4, a := 6, b := 0 } { op := r.1, d := 5, a := 300, b := 301 })) = true := by decide

/-! Worked examples of the spec -/

/-- The table after R204: clamps, shifts past the width, high words, the most negative number, CLZ of 0, bit fields. -/
theorem test_integer_examples :
    addW true false 0x7FFFFFFF 1 = 0x7FFFFFFF ∧ subW true true 5 7 = 0 ∧ shlW 1 32 = 0 ∧ sarW 0x80000000 40 = 0xFFFFFFFF ∧
    mulhW false 0xFFFFFFFF 0xFFFFFFFF = 0 ∧ mulhW true 0xFFFFFFFF 0xFFFFFFFF = 0xFFFFFFFE ∧ absW false 0x80000000 = 0x80000000 ∧
    negW true 0x80000000 = 0x7FFFFFFF ∧ clzW 0 = 32 ∧ bfxW false 0xF0 0x0404 = 0xFFFFFFFF ∧ bfxW true 0xF0 0x0404 = 0xF ∧
    bfxW false 0x80000000 0x0428 = 0xFFFFFFFF ∧ bfiW 0x12345678 0x081C 0xFF = 0xF2345678 ∧ addW true true 0x20 0xFFFFFFF0 = 0xFFFFFFFF := by decide
/-- The conversions after R92: 1.25, 2.5, 5, 7, 0.25, −0.25 and NaN to E2M1; 17, 464 and 500 to E4M3. -/
theorem test_conversion_examples :
    ([0x3FA00000, 0x40200000, 0x40A00000, 0x40E00000, 0x3E800000, 0xBE800000, 0x7FC00000].map fun x => convert .f32 .e2m1 .rn true x) = [2, 4, 6, 7, 0, 8, 0] ∧
    ([0x41880000, 0x43E80000, 0x43FA0000].map fun x => convert .f32 .e4m3 .rn true x) = [0x58, 0x7E, 0x7E] := by decide
/-- The block of R217 and R219: eight values quantised to E2M1 with scale code 128, and the dot product of the block with itself. -/
theorem test_block_example :
    let xs := [0x40400000, 0xC0E00000, 0x3E800000, 0x41400000, 0, 0x3F800000, 0xBF000000, 0x40A00000].map f32
    (quantBlock .e2m1 .e8m0 .rn true xs).1 = 128 ∧ packElems 4 (quantBlock .e2m1 .e8m0 .rn true xs).2 = [0x481070E3] ∧
    (let v := (List.range 8).map fun i => Elem.value .e2m1 (elemOf 4 i 0x481070E3)
     vdotb (f32 0) v v (Scf.value .e8m0 128) (Scf.value .e8m0 128)) = 0x436A0000 := by decide
/-- The dot product before R100: 2^24 + 25 is a tie whose even neighbour is 0x4B80000C. -/
theorem test_dot_example :
    (let v := fun (w : Nat) => (List.range 8).map fun i => Elem.value .e2m1 (elemOf 4 i w)
     vdotb (f32 0x4B800000) (v 0x973) (v 0x275) (Scf.value .e5m2 0x40) (Scf.value .e5m2 0x35)) = 0x4B80000C := by decide
/-- The tree of R100: 1, 2^24, 1, 1 and 28 absent lanes add up to 0x4B800001. -/
theorem test_tree_example :
    treeReduce (RedOp.node .fadd) ([0x3F800000, 0x4B800000, 0x3F800000, 0x3F800000] ++ List.replicate 28 (RedOp.unit .fadd)) = 0x4B800001 := by decide
/-- The planes of R87: −93 through 1 to 8 of its planes, without and with MID. -/
theorem test_plane_examples :
    ((List.range 8).map fun k => planeVal (k + 1) false (0xA3 / 2 ^ (7 - k) * 2 ^ (7 - k))) = [-128, -128, -96, -96, -96, -96, -94, -93] ∧
    ((List.range 8).map fun k => planeVal (k + 1) true (0xA3 / 2 ^ (7 - k) * 2 ^ (7 - k))) = [-64, -96, -80, -88, -92, -94, -93, -93] := by decide
/-- The words of R263: LD.64.acq.die d10, [d4 + 8]; ATOM.fadd v20, [d6 + 16], v21; FENCE.sc.dom; and of the dbl object: MOVS, MOVI, SHL, ALD, YIELD, IADD, AST, EXIT. -/
theorem test_words_examples :
    decodeWords [0x4C140902, 0x08000004, 8] = .ok (.ld g0 10 4 8 .b64 false .acq .die .dflt) ∧
    decodeWords [0x0028090E, 0x00242A06, 0x10] = .ok (.atom g0 20 6 16 21 .fadd false false .plain .core) ∧
    decodeWords [0x0000091A, 0x18000000, 0] = .ok (.fence g0 .sc .dom) ∧ decodeWords [0xC0004044] = .ok (.waittS g0 true 0x30) ∧
    decodeWords [0x0828090E, 0x00002A06, 0] = .ok (.atom g0 20 6 0 21 .add false true .plain .core) ∧
    decodeWords [0x0006160A, 2, 0x1000] = .ok (.red { p := 1, neg := false } 3 2 .fadd) ∧
    decodeWords [0x0028050E, 8, 0xC15] = .ok (.qblk g0 20 21 8 0 .rn false .e2m1 .b8 .e8m0) ∧
    decodeWords [0x0000405C] = .ok (.movsS g0 1 .laneid) ∧ decodeWords [0x0004000A, 0, 2] = .ok (.movi g0 2 2) ∧
    decodeWords [0x08104020] = .ok (.shlS g0 1 1 2) ∧ decodeWords [0x0010C054] = .ok (.aldS g0 3 1 0) ∧ decodeWords [0x00000722, 0, 0] = .ok (.yield g0) ∧
    decodeWords [0x0C30C008] = .ok (.iaddS g0 3 3 3) ∧ decodeWords [0x0010C058] = .ok (.astS g0 3 1 0) ∧ decodeWords [0x0000003C] = .ok (.exitS g0) := by decide

/-! One step of the small machine -/

/-- The cohort after an instruction. -/
def after (i : Instr) : Cohort :=
  match exec i rig with
  | .next t => (t.cohort? 0 0).getD co
  | _ => co
/-- A word of core 0's registers after an instruction. -/
def regAfter (i : Instr) (n l : Nat) : Nat := ((after i).reg n l).toNat
/-- The PC of a lane after an instruction. -/
def pcAfter (i : Instr) (l : Nat) : Nat := ((after i).lanes.find? l).elim 0 fun y => y.pc.toNat
/-- The state after an instruction. -/
def next (i : Instr) (s : State) : State :=
  match exec i s with
  | .next t => t
  | _ => s
/-- R61: a uniform and an affine operand give an affine sum; two generals a general one; the literal a uniform pair. -/
theorem test_step_shapes :
    (after (.iadd g0 20 2 (.reg 3) false false)).regs.find? 20 = some (.affine 5 4) ∧
    (after (.iadd g0 20 0 (.reg 1) false false)).regs.find? 20 = some (.general ([4, 6] ++ List.replicate 30 0)) ∧
    (after (.moviLit g0 20 0x123456789)).regs.find? 21 = some (.uniform 1) ∧ (after (.imul g0 20 3 (.reg 2))).regs.find? 20 = some (.affine 0 20) := by decide
/-- R232: BRA by −1 words, BRX to the pair v6, CALL with its link, and the advance of what does not branch. -/
theorem test_step_branches :
    pcAfter (.bra g0 (-1)) 1 = 0x1FFFC ∧ pcAfter (.brx g0 8) 0 = 0x40000 ∧ pcAfter (.call g0 20 4) 0 = 0x20010 ∧ regAfter (.call g0 20 4) 20 0 = 0x2000C ∧
    pcAfter (.nop g0) 0 = 0x2000C ∧ pcAfter (.nopS g0) 1 = 0x20004 := by decide
/-- R247: two lanes arrive at the barrier at 0x40: each finds phase 0, and the second completes the phase. -/
theorem test_step_bararr : regAfter (.bararr g0 20 10 0) 20 0 = 0 ∧ regAfter (.bararr g0 20 10 0) 20 1 = 0 ∧
    barPhase ((next (.bararr g0 20 10 0) rig).spObj 0 10 0x40) = true ∧ barCount ((next (.bararr g0 20 10 0) rig).spObj 0 10 0x40) = 0 := by decide
/-- R249, R250: FWAIT of the full future at 0x80 gives 9; FFILL of it gives 0. -/
theorem test_step_future : regAfter (.fwait g0 20 12 0 true .core) 20 1 = 9 ∧ regAfter (.ffill g0 20 12 0 8 true .core) 20 0 = 0 := by decide
/-- R127, R128: an AST leaves its word and zeroes the rest of a granule of another generation; an unwritten word reads 0. -/
theorem test_step_scratch : regAfter (.ald g0 20 12 8 .b32 false) 20 0 = 9 ∧ regAfter (.ald g0 20 13 0 .b32 false) 20 0 = 0 ∧
    leNat ((next (.ast g0 2 13 4 .b32) rig).spRead 0 10 .a 0xC0 8) = 5 * 2 ^ 32 := by decide
/-- R243: the two lanes take tags 1 and 2 of the mask 6, and nothing is left. -/
theorem test_step_ffr : regAfter (.ffr g0 1 20 (.imm 6)) 20 0 = 1 ∧ regAfter (.ffr g0 1 20 (.imm 6)) 20 1 = 2 ∧
    ((next (.ffr g0 1 20 (.imm 6)) rig).groves.find? 10).map (fun q => q.tags) = some 0 := by decide
/-- R181, R389: a register at the allotment faults; TRET outside a handler faults with its opcode: the cohort leaves its slot and waits. -/
theorem test_step_traps :
    ((next (.mov g0 512 0) rig).launches.find? 1).map (fun l => l.waiting.map fun st => (st.code, st.faults.map fun f => f.2.d0)) = some [(3, [512, 512])] ∧
    ((next (.tret g0) rig).launches.find? 1).map (fun l => l.waiting.map fun st => (st.code, st.faults.map fun f => f.2.d0)) = some [(2, [0x336, 0x336])] ∧
    (next (.tret g0) rig).cohort? 0 0 = none := by decide
/-- R272, R466: CSRW of TWININJ from a privileged queue, its reserved bits 0. -/
theorem test_step_csrw : (next (.csrw g0 0x400 0) rig).twininj = 0x400000002 &&& ~~~0xFC#64 := by decide
/-- R45, R254: a load issues one operation a lane, which lands in the order asked. -/
theorem test_step_load : (next (.ld g0 20 8 4 .b32 false .plain .core .dflt) rig).ops.map (fun o => (o.strand, o.pa, o.size)) = [(1, 0x40004, 4), (2, 0x40004, 4)] := by decide
/-- R21, R234: EXIT of both lanes ends their strands. -/
theorem test_step_exit : (next (.exit g0) rig).strands = [] ∧ (next (.exit g0) rig).cohort? 0 0 = none := by decide
/-- A word placed for the next step is fetched, decoded and run: MOVI v2, 2. -/
theorem test_step_fetch : decodeTableWord 96 (0x0004000A + 2 ^ 64 * 2) = some (.movi g0 2 2) ∧
    (match step (State.reset.withFetchWord 96 (0x0004000A + 2 ^ 64 * 2)) with
     | .next t => ((t.cohort? 0 0).map fun c => ((c.reg 2 0).toNat, (c.lanes.head?.map fun y => y.2.pc.toNat).getD 0)) == some (2, 0x2000C)
     | _ => false) = true := by decide

/-! The claims' hypotheses are met: for each claim that has some, states and operands that meet them together -/

theorem test_meets_IntegerWordResults : rig.ready rx g0 [20, 0, 1, 2] [0, 1, 2] = true ∧ rx.en g0 = [0, 1] := by decide +kernel
theorem test_meets_ShortFormResults : rig.ready rx g0 [20, 0, 1] [0, 1] = true := by decide +kernel
theorem test_meets_IntegerPairResults : rig.ready rx g0 [20, 21, 0, 1, 2, 3, 4] [0, 1, 2, 3, 4] = true := by decide +kernel
theorem test_meets_PredicateResults : rig.ready rx g0 [0, 1] [0, 1] = true ∧ (rx.co.lanes.find? 0).isSome = true := by decide +kernel
theorem test_meets_FloatWordResults : rig.ready rx g0 [20, 0, 1, 2] [0, 1, 2] = true := by decide +kernel
theorem test_meets_HalfAndDoubleResults : rig.ready rx g0 [20, 21, 0, 1, 2, 3, 4, 5] [0, 1, 2, 3, 4, 5] = true := by decide +kernel
theorem test_meets_FloatNanAndZeroRules : (f32 0x7FC00000).isNan ∧ ¬(f32 0x3F800000).isNan ∧ (0x3F800000 : Word).toNat % 2 ^ 31 < 0x7F800000 := by decide +kernel
theorem test_meets_FloatRoundingKeepsValues : ¬(f32 0x00000001).isNan ∧ ¬(f32 0xFF800000).isNan := by decide +kernel
/-- Each clause at a boundary of its range. -/
theorem test_meets_SpecialFunctionStatedValues :
    (f32 0x7F800001).isNan ∧ (0x80000000 : Word).toNat % 2 ^ 31 = 0 ∧ (0xFF800000 : Word).toNat % 2 ^ 31 = 0x7F800000 ∧
    0x80000001 ≤ (0x80000001 : Word).toNat ∧ (0xFF800000 : Word).toNat ≤ 0xFF800000 ∧ (0x43000000 : Word).toNat ≤ 0x7F800000 ∧
    0xC3160000 ≤ (0xC3160000 : Word).toNat ∧ 0x41200000 ≤ (0xC1200000 : Word).toNat % 2 ^ 31 ∧
    0x4B000000 ≤ (0x4B000000 : Word).toNat % 2 ^ 31 ∧ (0x4B000000 : Word).toNat % 2 ^ 31 < 0x7F800000 := by decide +kernel
theorem test_meets_ConversionResults : rig.ready rx g0 (fmtRegs .f64 20 ++ (fmtRegs .f32 0 ++ [1])) (fmtRegs .f32 0 ++ [1]) = true := by decide +kernel
theorem test_meets_BlockResults : rig.ready rx g0 (run 20 8 ++ (run 0 1 ++ [2])) (run 0 1 ++ [2]) = true ∧
    rig.ready rx g0 (run 60 8 ++ 100 :: (run 20 32 ++ [2])) (run 20 32 ++ [2]) = true := by decide +kernel
theorem test_meets_CrossLaneResults : rig.ready rx g0 [20, 0, 1] [0, 1] = true := by decide +kernel
theorem test_meets_RegisterStateResults : rig.ready rx g0 [20, 21] [] = true ∧ rig.ready rx g0 (run 20 4 ++ [2]) [2] = true ∧ csrAssigned 0x400 = true ∧
    (rig.launches.find? rx.co.launch).any (fun l => l.priv) = true ∧
    (∀ l ∈ rx.en g0, rig.spAfter (rx.strand l) false false = [] ∧ (rx.co.reg 10 l).toNat < (rig.groves.find? (rig.groveOf rx l)).elim 0 (fun q => (q.win .a).2)) ∧
    (∀ l ∈ rx.en g0, ∀ m ∈ rx.en g0, rig.sreg rx l .trapimg = rig.sreg rx m .trapimg) := by decide +kernel
theorem test_meets_ControlTransfers : rig.ready rx g0 [20, 21, 8, 9] [8, 9] = true ∧
    ∀ l ∈ rx.en g0, (rx.co.reg64 8 l).toNat < 2 ^ 48 ∧ (rx.co.reg64 8 l).toNat % 4 = 0 := by decide +kernel
theorem test_meets_InstructionsWithoutEffect : rig.ready rx g0 [8, 9] [] = true ∧ rig.unwatched rx = true ∧
    (rig.launches.find? rx.co.launch).any (fun l => bitN l.pkt.flags 5) = false ∧ fld (rig.part rx.part).dbgctl 0 0 = 0 ∧
    ∀ l ∈ rx.en g0, rig.sideOf (rig.groveOf rx l) = none := by decide +kernel

/-- The cohort as a trap handler's. -/
def coT : Cohort := { co with kind := .trap }
/-- The machine with another cohort at issue. -/
def rigWith (c : Cohort) : State := { rig with cores := [(0, { k0 with slots := [(0, c)] })] }
/-- The machine with breakpoints on in partition 0. -/
def rigBrk : State := { rig with parts := [(0, { Part.reset 0 with root := 0x100000, dbgctl := 1 })] }
theorem test_meets_StrandEndsAndStops : rig.ready rx g0 [] [] = true ∧ rig.unwatched rx = true ∧
    (rig.launches.find? rx.co.launch).any (fun l => l.priv) = true ∧ rigBrk.ready rx g0 [] [] = true ∧ fld (rigBrk.part rx.part).dbgctl 0 0 = 1 ∧
    (rigWith coT).ready { rx with co := coT } g0 [] [] = true ∧ (rigWith coT).unwatched { rx with co := coT } = true ∧ coT.kind = .trap := by decide +kernel

/-- A tile handle of version 3. -/
def tile : Tile := { grove := 10, num := 0, coff := 0, rows := 1, version := 3, status := 0, released := false }
/-- The machine with that tile, and strand 1 with an operation outstanding in ld. -/
def rigTile : State :=
  { rig with
    cores := [(0, { k0 with tiles := [tile] })],
    strands := [(1, { progStrand 10 with out := [{ id := 3, cls := .ld, done := false }] }), (2, { progStrand 10 with out := [{ id := 4, cls := .ld, done := false }] })] }
/-- Tags 1 and 2 are set; no more than one ld is outstanding; version 3 follows v2's 2 at the latest; phase 1 was waited for. -/
theorem test_meets_SatisfiedWaits : rigTile.ready rx g0 [10, 5] [10, 5] = true ∧ rigTile.unwatched rx = true ∧
    (∀ l ∈ rx.en g0, ((rigTile.strands.find? (rx.strand l)).map fun t => t.grove) = some 10 ∧
      ((rigTile.strands.find? (rx.strand l)).map fun t => t.out.countP fun o => o.cls == .ld) = some 1) ∧
    (rigTile.groves.find? 10).map (fun q => (q.tags &&& 6, q.placed)) = some (6, true) ∧
    ((rigTile.core rx.core).tile 10 ((rx.co.reg 5 0).toNat % 64)).toOption = some tile ∧ (tile.version + 65536 - 3 % 65536) % 65536 < 0x8000 ∧
    rigTile.spCheck 0 10 .a (rx.co.sOff 10 0 0) 16 16 true = none ∧ barBad (rigTile.spObj 0 10 (rx.co.sOff 10 0 0)) = false ∧
    barPhase (rigTile.spObj 0 10 (rx.co.sOff 10 0 0)) ≠ (rx.co.reg 11 0).getLsbD 0 ∧ (∀ l ∈ rx.en g0, rigTile.spAfter (rx.strand l) false false = []) := by decide +kernel
/-- A twin pair of grove 10. -/
def pair : Twin :=
  { trail := 11, lead := [], follow := [], ckpt := 0, attempts := 0, log := [], fwd := [], posted := [], leadImg := rig.snapshot 10, trailImg := rig.snapshot 11, slice := 0, releasing := 0 }
/-- The machine with grove 10 as the leading copy of a twin. -/
def rigTwin : State := { rig with groves := [(10, { gr with twin := some (10, false) })], twins := [(10, pair)] }
/-- Tag 3 is clear; two ld are more than none; version 4 is to come; phase 0 is not over; the future at 0xC0 is empty; a cell at 0x40000 in space 0. -/
theorem test_meets_ParkingInstructions : rigTile.ready rx g0 [20, 21, 8, 9] [8, 9] = true ∧ rx.en g0 ≠ [] ∧ rigTile.badParkMap rx (rx.after 12) = none ∧
    rigTile.badParkMap rx (rx.after 4) = none ∧ rx.lost (rx.en g0) (rigTile.parkRegs rx (rx.after 12)) = false ∧
    rigTile.unwatched rx = true ∧ (∀ w ∈ [WaitEv.tags true 8, .futA 0xC0 20, .watch 0x40000 0x40000 0 0 0 .eq true .plain .core],
      let waits := (rx.en g0).map fun l => (rx.strand l, some w)
      rigTile.recRoomWith rx.core rx.part (List.replicate (rx.en g0).length (rx.recSize (rigTile.parkRegs rx (rx.after 12)).length)) (rigTile.waitNodes rx.core waits + rigTile.watchNodes waits) = true) ∧
    (rigTile.groves.find? 10).map (fun q => (q.tags &&& 8, q.placed)) = some (0, true) ∧
    (∀ l ∈ rx.en g0, ((rigTile.strands.find? (rx.strand l)).map fun t => decide (0 < t.out.countP fun o => o.cls == .ld)) = some true) ∧
    0x8000 ≤ (tile.version + 65536 - 4 % 65536) % 65536 ∧ barPhase (rigTile.spObj 0 10 (rx.co.sOff 10 0 0)) = (rx.co.reg 5 0).getLsbD 0 ∧
    rigTile.spCheck 0 10 .a (rx.co.sOff 13 0 0) 16 16 true = none ∧ futBad (rigTile.spObj 0 10 (rx.co.sOff 13 0 0)) = false ∧
    rigTile.spObj 0 10 (rx.co.sOff 13 0 0) % 2 = 0 := by decide +kernel
theorem test_meets_ParkingInstructions_cell : canonical (rx.co.gAddr 8 0 0) = true ∧ rx.co.gAddr 8 0 0 % 16 = 0 ∧
    (rigTile.tlbFind 0 0 (rx.co.gAddr 8 0 0)).elim false (fun e => decide (fld e.leaf 51 49 < 2) && decide (rigTile.leafCheck 0 0 (rx.co.gAddr 8 0 0) 16 .read e = .ok 0x40000 e.leaf)) = true := by decide +kernel
theorem test_meets_ParkingInstructions_ckpt :
    rigTwin.ready rx g0 [] [] = true ∧ (∀ l ∈ rx.en g0, rigTwin.sideOf (rigTwin.groveOf rx l) = some (10, false)) ∧ (rigTwin.twins.find? 10).isSome = true := by decide +kernel
theorem test_meets_GlobalMemoryOperations : rig.ready rx g0 [20, 8, 9, 2] [8, 9, 2] = true ∧ rig.unwatched rx = true ∧
    ∀ l ∈ rx.en g0, rig.gVerdict rx 0x40000 8 .read = .go ∧ rig.gVerdict rx 0x40000 4 .write = .go ∧ rig.gVerdict rx 0x40000 8 .atomic = .go ∧
      rig.gVerdict rx 0x40000 16 .future = .go ∧ rig.countable rx .ld l = true ∧ rig.countable rx .st l = true ∧ (∀ n ∈ [4, 8, 16], rig.atomicCheck rx l false 0x40000 n = .go ∧ rig.atomicCheck rx l true 0x40000 n = .go) ∧
      rig.slackCheck rx (rx.en g0) l 4 = .go := by decide +kernel
theorem test_meets_UniformLoads : rx.en g0 = [0, 1] ∧ rig.unwatched rx = true ∧ (∀ m ∈ rx.en g0, rig.countable rx .ld m = true) ∧
    rig.ready rx g0 [20, 8, 9] [8, 9] = true ∧ rig.gVerdict rx 0x40000 4 .read = .go ∧ rig.launches.find? rx.co.launch = some la ∧ la.pkt.argVa ≠ 0 ∧
    rig.gVerdict rx 0x50000 4 .read = .go := by decide +kernel
/-- A load in flight of strand 1. -/
def load1 : MemOp :=
  { id := 3, kind := .load, cls := some .ld, strand := 1, grove := 10, launch := 1, core := 0, va := 0x40000, pa := 0x40000, leaf := 0x1B, size := 4, sgn := false,
    data := [], cmp := [], dst := 20, ndst := 1, uni := false, sharers := [], ord := .plain, sc := .core, nl1 := false, pc := 0x20000, after := [], behind := [], skip := [], sent := false, early := false, home := false,
    got := [], issued := 0, born := 0, resends := 0, fields := [], bad := none }
/-- The machine with one operation in flight. -/
def rigOp (o : MemOp) : State := { rig with ops := [o] }
/-- The machine with a scratchpad store of each strand in flight, which what the strands do there comes after. -/
def rigSp : State :=
  { rig with ops := [{ load1 with kind := .sp .store .a, cls := none }, { load1 with id := 4, kind := .sp .store .a, cls := none, strand := 2 }] }
theorem test_meets_ParkingInstructions_behind : rigSp.ready rx g0 [10, 5] [10, 5] = true ∧ (∀ l ∈ rx.en g0, rigSp.spAfter (rx.strand l) false false ≠ []) ∧
    rigSp.badParkMap rx (rx.after 12) = none := by decide +kernel
theorem test_meets_FenceOrders : rig.ready rx g0 [] [] = true ∧ rig.unwatched rx = true ∧ ((rigOp load1).strands.find? (rx.strand 0)).isSome = true ∧
    load1 ∈ (rigOp load1).ops ∧ load1.of (rx.strand 0) = true ∧ load1.reads = true ∧ load1.cxlOpen = false := by decide +kernel
theorem test_meets_ScratchpadLoads : rig.ready rx g0 [20, 21, 12] [12] = true ∧
    (∀ l ∈ rx.en g0, rig.spAfter (rx.strand l) false false = [] ∧ rig.spCheck 0 (rig.groveOf rx l) .a (rx.co.reg 12 l + 8).toNat 4 4 true = none ∧
      rig.spCheck 0 (rig.groveOf rx l) .w (rx.co.reg 12 l + 8).toNat 8 8 true = none) ∧
    ([0xFF] : List Byte).length = 1 ∧ ([1, 2, 3, 4, 5, 6, 7, 8] : List Byte).length = 8 := by decide +kernel
theorem test_meets_ScratchpadStores : rig.ready rx g0 [2, 13] [2, 13] = true ∧ rig.unwatched rx = true ∧ rig.spNow rx (rx.en g0) false true = true ∧
    rigSp.ready rx g0 [2, 13] [2, 13] = true ∧ rigSp.unwatched rx = true ∧ rigSp.spNow rx (rx.en g0) false true = false ∧
    (∀ l ∈ rx.en g0, rigSp.spCheck 0 (rigSp.groveOf rx l) .c (rx.co.reg 13 l).toNat 4 4 false = none) ∧ ∀ l ∈ rx.en g0, rig.spCheck 0 (rig.groveOf rx l) .c (rx.co.reg 13 l).toNat 4 4 false = none ∧ rig.spCheck 0 (rig.groveOf rx l) .a (rx.co.reg 13 l).toNat 4 4 false = none := by decide +kernel
theorem test_meets_ScratchpadWriteRule : rig.groves.find? 10 = some gr ∧ (rig.core 0).alloc? .a 10 (max ((gr.win .a).1 + 0x44) (32 * 2) - (gr.win .a).1) = some (al .a 1) ∧
    128 ∈ granules ((gr.win .a).1 + 0xFF0) 64 ∧ (rig.core 0).alloc? .a 10 (max ((gr.win .a).1 + 0xFF0) (32 * 128) - (gr.win .a).1) = none ∧
    2 ∈ granules ((gr.win .a).1 + 0x44) 4 ∧ ((rig.core 0).gran .a 2).data.length = 32 ∧ 9 ∉ granules ((gr.win .a).1 + 0x44) 4 := by decide +kernel
theorem test_meets_ScratchpadManagement : rig.ready rx g0 [20, 5] [5] = true ∧ rig.unwatched rx = true ∧
    (∀ l ∈ rx.en g0, rig.spAfter (rx.strand l) false true = [] ∧ rig.genVerdict rx ((rx.en g0).countP (decide <| · < l)) = .go ∧ (rig.startOf 0 (rig.groveOf rx l) .a (rx.co.reg 5 l).toNat).toOption = some (al .a 1) ∧
      rig.countable rx .st l = true ∧ rig.renewCheck rx l .a (rx.co.reg 10 l).toNat 32 = .go) ∧
    (rig.core 0).allocs.length < 256 ∧ (rig.core 0).nextSpGen = some 2 ∧
    (rig.core 0).alloc? .a 10 0x40 = some (al .a 1) ∧ ¬(LClass.l0 = .l2 ∧ rig.lcmax (dieOf rx.core) = 1) ∧ (rig.core 0).spGen = 2 ∧
    (∀ a ∈ (rig.core 0).allocs, a.buf = .a → a.grove = 10 → 0x1000 + 256 ≤ a.off ∨ a.off + a.size ≤ 0x1000) ∧ 0x1000 + 256 ≤ (gr.win .a).2 := by decide +kernel
theorem test_meets_TagInstructions : rigTile.ready rx g0 [20, 5] [5] = true ∧ rigTile.unwatched rx = true ∧
    (∀ l ∈ rx.en g0, ((rigTile.core 0).tile (rigTile.groveOf rx l) ((rx.co.reg 5 l).toNat % 64)).toOption = some tile) ∧
    (((rigTile.groves.find? (rigTile.groveOf rx 0)).elim 0 fun q => q.tags) &&& 6).getLsbD 1 = true ∧
    (((rigTile.groves.find? (rigTile.groveOf rx 0)).elim 0 fun q => q.tags) &&& 6).getLsbD 0 = false ∧
    ((rigTile.groves.find? (rigTile.groveOf rx 0)).elim 0 fun q => q.tags) &&& 8 = 0 := by decide +kernel
theorem test_meets_Barriers : rig.ready rx g0 [20, 10, 11] [10, 11] = true ∧ rig.unwatched rx = true ∧
    (∀ l ∈ rx.en g0, rig.spAfter (rx.strand l) true true = [] ∧ rig.spAfter (rx.strand l) false true = [] ∧ rig.spCheck 0 (rig.groveOf rx l) .a (rx.co.reg 10 l).toNat 16 16 false = none ∧ 1 ≤ (rx.co.reg 11 l).toNat ∧ (rx.co.reg 11 l).toNat ≤ 1024 ∧
      rig.spCheck 0 (rig.groveOf rx l) .a (rx.co.reg 10 l).toNat 16 16 true = none ∧ barBad (rig.spObj 0 (rig.groveOf rx l) (rx.co.reg 10 l).toNat) = false) ∧
    1 ≤ 1024 ∧ 1023 < 1024 := by decide +kernel
theorem test_meets_ScratchpadFutures : rig.ready rx g0 [20, 21, 12] [12] = true ∧ rig.unwatched rx = true ∧
    (∀ l ∈ rx.en g0, rig.spAfter (rx.strand l) true true = [] ∧ rig.spAfter (rx.strand l) false false = [] ∧ rig.spCheck 0 (rig.groveOf rx l) .a (rx.co.reg 12 l).toNat 16 16 true = none ∧ futBad (rig.spObj 0 (rig.groveOf rx l) (rx.co.reg 12 l).toNat) = false ∧
      rig.spObj 0 (rig.groveOf rx l) (rx.co.reg 12 l).toNat % 2 = 1 ∧ (rig.strands.find? (rx.strand l)).isSome = true ∧ rig.away (rig.groveOf rx l) = false) ∧
    rig.spObj 0 10 0xC0 % 2 = 0 := by decide +kernel

/-- The machine with a descriptor or a parameter block of 64 bytes at the offset that v14 holds. -/
def rigBlk (b : List Byte) : State := { rig with cores := [(0, { k0 with spA := k0.spA ++ [(16, gran (b.take 32)), (17, gran (b.drop 32))] })] }
/-- Descriptors: a read of one burst, a write, a copy and a fill of 32 bytes, a digest of none. -/
def descOf : BulkKind → List Byte
  | .read => leBytes 8 0x40000 ++ leBytes 8 0 ++ leBytes 4 64 ++ leBytes 4 1 ++ leBytes 4 0x20000 ++ leBytes 4 0
  | .write => leBytes 8 0x40000 ++ leBytes 8 0 ++ leBytes 4 32 ++ leBytes 4 1 ++ leBytes 4 0 ++ leBytes 4 1
  | .copy => leBytes 8 0x40000 ++ leBytes 8 0x40020 ++ leBytes 8 32 ++ leBytes 8 0
  | .fill => leBytes 8 0x40000 ++ leBytes 8 32 ++ leBytes 8 7 ++ leBytes 8 0
  | .digest => leBytes 8 0x40000 ++ leBytes 8 0 ++ leBytes 4 0x80 ++ leBytes 4 0 ++ leBytes 8 0
/-- A bulk operation of strand 1 on tag 0. -/
def bulk1 (k : BulkKind) : BulkOp :=
  { id := 5, kind := k, opid := 0, core := 0, strand := 1, grove := 10, tag := 0, sc := .core, desc := descOf k, ctx := 0, ordinal := 0, pc := 0x20000, after := [],
    bursts := [], stage := 0, index := 0, path := [], started := false, refused := [], hold := none, stat := 0, fails := 0, first := none, prog := 0, acc := [], got := [], halves := [], done := false }
/-- The machine with bulk operations in the queue. -/
def withBulk (s : State) (q : List BulkOp) : State := s.modCore 0 fun k => { k with bulkQ := q }
theorem test_meets_BulkInstructions :
    (∀ k ∈ [BulkKind.read, .write, .copy, .fill, .digest], (rigBlk (descOf k)).ready rx g0 [14, 8, 9] [14, 8, 9] = true ∧ (rigBlk (descOf k)).unwatched rx = true ∧
      (rigBlk (descOf k)).bulkUsed 0 + (rx.en g0).length ≤ 64 ∧ 64 ≤ (withBulk (rigBlk (descOf k)) (List.replicate 64 (bulk1 k))).bulkUsed 0 ∧
      ∀ l ∈ rx.en g0, (rigBlk (descOf k)).countable rx .bk l = true ∧ (rigBlk (descOf k)).spCheck 0 ((rigBlk (descOf k)).groveOf rx l) .a (rx.co.reg 14 l).toNat 32 32 true = none ∧
        k.bad ((rigBlk (descOf k)).block rx 14 32 l) = none) ∧
    (withBulk (rigBlk (descOf .read)) (List.replicate 64 (bulk1 .read))).ready rx g0 [14, 8, 9] [14, 8, 9] = true ∧
    63 < 64 ∧ rig.groves.find? (rig.groveOf rx 0) = some gr ∧ (rig.strands.find? (rx.strand 0)).isSome = true := by decide +kernel

/-- Parameter blocks: a latch of the first format, a run and a zeroing of one row of handle 0. -/
def blockOf : MatKind → List Byte
  | .lw => [0, 0, 0, 0] ++ leBytes 4 0 ++ leBytes 4 256 ++ List.replicate 52 0
  | .run => [0, 2, 0, 0] ++ leBytes 2 1 ++ leBytes 2 0 ++ List.replicate 56 0
  | .zero => [0, 0, 0, 0] ++ leBytes 2 1 ++ leBytes 2 0 ++ List.replicate 56 0
/-- A matrix operation of strand 1. -/
def mat1 (k : MatKind) : MatOp := { id := 6, kind := k, strand := 1, grove := 10, block := blockOf k, pc := 0x20000, after := [], issued := 0, started := none, reported := false }
/-- Change core 0. -/
def on0 (s : State) (f : Core → Core) : State := s.modCore 0 f
/-- The machine with a block at v14 and the tile. -/
def rigMat (k : MatKind) : State := on0 (rigBlk (blockOf k)) fun c => { c with tiles := [tile] }
theorem test_meets_MatrixInstructions :
    (∀ k ∈ [(MatKind.lw, 0x300), (.run, 0x301), (.zero, 0x302)], (rigMat k.1).ready rx g0 [14] [14] = true ∧ (rigMat k.1).unwatched rx = true ∧
      (∀ l ∈ rx.en g0, (rigMat k.1).countable rx .mx l = true ∧ (rigMat k.1).spCheck 0 ((rigMat k.1).groveOf rx l) .a (rx.co.reg 14 l).toNat 64 64 true = none ∧
        (rigMat k.1).matVerdict 0 ((rigMat k.1).groveOf rx l) k.1 k.2 (rx.co.reg 14 l).toNat ((rigMat k.1).block rx 14 64 l) = .go) ∧
      ((rigMat k.1).core 0).matQ.length + (rx.en g0).length ≤ 16 ∧ 16 ≤ ((on0 (rigMat k.1) fun c => { c with matQ := List.replicate 16 (mat1 k.1) }).core 0).matQ.length) ∧
    (rigMat .lw).ready rx g0 [20, 5, 11] [5, 11] = true ∧
    (∀ l ∈ rx.en g0, 1 ≤ (rx.co.reg 11 l).toNat ∧ (rx.co.reg 11 l).toNat ≤ 256 ∧ (rx.co.reg 5 l).toNat % 512 = 0 ∧
      (rigMat .lw).spCheck 0 ((rigMat .lw).groveOf rx l) .c (rx.co.reg 5 l).toNat (512 * (rx.co.reg 11 l).toNat) 512 false = none ∧
      ((rigMat .lw).core 0).tile ((rigMat .lw).groveOf rx l) ((rx.co.reg 5 l).toNat % 64) = .ok tile) ∧
    64 ≤ ((on0 rig fun c => { c with tiles := List.replicate 64 tile }).core 0).tiles.length ∧
    ((rigMat .lw).core 0).tiles.length < 64 ∧ (∃ t ∈ ((rigMat .lw).core 0).tiles, t.grove = 10 ∧ t.num = 0) ∧ ∀ t ∈ ((rigMat .lw).core 0).tiles, t.num ≠ 1 := by decide +kernel

/-- A block of COLL: a reduction of one element to every member of communicator 0. -/
def collBlock : List Byte := [0, 0, 0, 0] ++ leBytes 4 0 ++ leBytes 8 0x40000 ++ leBytes 8 1 ++ List.replicate 40 0
/-- The machine with that block and communicator 0 of packages 0 and 1. -/
def rigColl : State :=
  { rigBlk collBlock with
    link := { LinkSt.reset with commtbl := 0x80001 },
    mem := memPuts (rigBlk collBlock).mem 0x80000 ([3] ++ List.replicate 31 0 ++ [0, 1]) }
theorem test_meets_CollectiveInstruction :
    rigColl.ready rx g0 [14] [14] = true ∧ rigColl.unwatched rx = true ∧
    (∀ l ∈ rx.en g0, rigColl.countable rx .cl l = true ∧ rigColl.sideOf (rigColl.groveOf rx l) = none ∧
      rigColl.spCheck 0 (rigColl.groveOf rx l) .a (rx.co.reg 14 l).toNat 64 64 true = none ∧ rigColl.collBad 0 0 (rigColl.block rx 14 64 l) = none) ∧
    rigColl.bulkUsed 0 + (rx.en g0).length ≤ 64 ∧ 64 ≤ (withBulk rigColl (List.replicate 64 (bulk1 .fill))).bulkUsed 0 ∧ rigColl.link.fenced.contains 0 = false := by decide +kernel

theorem test_meets_SystemInstructions :
    (rigWith coT).ready { rx with co := coT } g0 [1] [1] = true ∧ (rigWith coT).unwatched { rx with co := coT } = true ∧ coT.kind = .trap ∧
    rig.ready rx g0 [8, 9, 12] [8, 9, 12] = true ∧ rig.unwatched rx = true ∧
    (∀ l ∈ rx.en g0, rig.countable rx .st l = true ∧ canonical (rx.co.reg64 8 l + (0 : Word).signExtend 64).toNat = true) ∧
    (rig.launches.find? rx.co.launch).any (fun la => la.priv) = true ∧ csrAssigned 0x400 = true := by decide +kernel
theorem test_meets_PairedForm :
    rig.ready rx g0 [20, 21, 8, 9, 10, 11] [8, 9, 10, 11] = true ∧ rig.unwatched rx = true ∧
    (∀ l ∈ rx.en g0, rig.spCheck 0 (rig.groveOf rx l) .a (rx.co.reg 12 l + rx.co.reg 5 l).toNat 4 4 true = none ∧
      rig.spCheck 0 (rig.groveOf rx l) .a (rx.co.reg 12 l + rx.co.reg 5 l).toNat 4 4 false = none) ∧
    (let u : USlot := { op := .mov, d := 20, a := 12, b := 0 }
     let v : VSlot := { op := .ald, d := 21, a := 20, b := 5 }
     let p := uniformPlan g0 u
     let q := vectorPlan g0 v
     rig.ready rx g0 (p.regs ++ q.regs) (p.srcs ++ q.srcs.filter fun r => !((uDests u).contains r)) = true ∧
     ∀ l ∈ rx.en g0, q.check (p.act rig rx (rx.en g0)) ((p.act rig rx (rx.en g0)).again rx) (rx.en g0) l = .go) := by decide +kernel

/-- Code after REP (S-form): a move of v1 to v20, at 0x20004, in memory. -/
def rigRep : State :=
  { on0 rig (fun k => { k with tlb := [{ part := 0, page := 0, bits := 37, leaf := 0x3B }] }) with
    trust := { rig.trust with execBits := [1] }
    mem := memPuts rig.mem 0x20004 ((encode (.mov g0 20 1)).flatMap fun w => leBytes 4 w.toNat) }
/-- The same with both lanes past the last iteration. -/
def coDone : Cohort := { co with lanes := co.lanes.map fun y => (y.1, { y.2 with repc := 2 }) }
theorem test_meets_Repetition :
    rigRep.ctx = some rx ∧ rx.co.single = none ∧
    (let va := (rx.after 4).toNat
     let ws := encode (.mov g0 20 1)
     let s1 := rigRep.keepLines 0 0 va (lenWords (ws.getD 0 0))
     rigRep.fetchWord 0 0 va = .ok [ws.getD 0 0] ∧ rigRep.fetchInstr 0 0 va = .ok ws ∧ rx.minRepc < 2 ∧
     repUpfront s1 rx ws (repStride 1 1 0 0 0) 0 2 = .ok (.mov g0 20 1) ∧
     (planOf (iterOf (.mov g0 20 1) (repStride 1 1 0 0 0) 0)).isSome = true ∧
     ∀ p, planOf (iterOf (.mov g0 20 1) (repStride 1 1 0 0 0) 0) = some p → p.need = 0 ∧ rx.lost (rx.en p.g) p.regs = false ∧ ∀ l ∈ rx.en p.g, p.verdict s1 rx (rx.en p.g) l = .go) ∧
    { rx with co := coDone }.minRepc = 2 := by decide +kernel

theorem test_meets_SpawnMakesStrands :
    rig.ready rx g0 (run 0 4) (run 0 4) = true ∧ 4 ≤ ((rig.launches.find? co.launch).elim 0 fun la => la.pkt.allot.getD co.stage 0) ∧
    rig.recRoomWith 0 0 (List.replicate (rx.en g0).length (32 + roundUp (4 * 4) 32)) 0 = true ∧ (rig.strands.find? (rx.strand 0)).isSome = true ∧ rx.strand 0 < rig.seq := by decide +kernel

/-- An operation of another kind in flight. -/
def op1 (k : OpKind) (ndst : Nat) (home : Bool) : MemOp := { load1 with kind := k, ndst := ndst, home := home, data := [1, 2, 3, 4], cmp := [0, 0, 0, 0] }
/-- The machine under CXL with one operation in flight. -/
def rigCxl (o : MemOp) : State := { rigOp o with host := { HostSt.reset with cxl := true, linkUp := true } }
/-- The machine beside package 1, reached by port 0, with one operation in flight. -/
def rigFar (o : MemOp) : State :=
  { rigOp o with link := { LinkSt.reset with route := [(1, 1)], ports := [(0, { Port.reset with up := true, lanes := 8 })] } }
theorem test_meets_OperationsPerform :
    (rigOp load1).readyOp 3 = some load1 ∧ (rigOp load1).canGo load1 = true ∧ load1.kind = .load ∧
    (let o := op1 (.sp .store .a) 0 false
     (rigOp o).readyOp 3 = some o ∧ o.kind = .sp .store .a ∧ (rigOp o).groves.find? o.grove = some gr ∧ gr.placed = true ∧ (rigOp o).spWaits gr.core .store = false ∧
     (rigOp o).spRefuses gr.core o.grove .store .a o.va (o.fields.headD 0) = none) ∧
    (let o := { op1 (.sp .load .a) 1 false with va := 0x200000, fields := [4] }
     (rigOp o).readyOp 3 = some o ∧ ((rigOp o).spRefuses gr.core o.grove .load .a o.va (o.fields.headD 0)).isSome = true ∧ o.ndst ≠ 0) ∧
    (∀ o ∈ [op1 .store 0 false, op1 (.atomic .add false) 0 false].map (fun o => { o with pa := 2 ^ 49 + 2 ^ 41 + 0x40000, leaf := 0x1B + 2 ^ 49 }),
     (rigFar o).readyOp 3 = some o ∧ o.home = false ∧ (rigFar o).heldFull o = false ∧ (rigFar o).snoopLines o = [] ∧ (rigFar o).toSend o = true ∧ (rigFar o).canGo o = true) ∧
    (let o := op1 .store 0 true
     (rigOp o).readyOp 3 = some o ∧ o.kind = .store ∧ o.home = true) ∧
    (let o := { op1 .store 0 false with pa := 2 * 2 ^ 49, leaf := 0x400000000001B }
     (rigCxl o).readyOp 3 = some o ∧ (rigCxl o).heldFull o = false ∧ (rigCxl o).snoopLines o = [] ∧ (rigCxl o).toSend o = false ∧ (rigCxl o).flowHeld o = false ∧ (rigCxl o).sideOf o.grove = none ∧
     (rigCxl o).host.cxl = true ∧ (rigCxl o).host.linkUp = true ∧ spaceOf o.pa = 2) ∧
    (let o := op1 (.atomic .add true) 1 true
     (rigOp o).readyOp 3 = some o ∧ o.kind ≠ .load ∧ o.home = true ∧ o.ndst ≠ 0 ∧ (rigOp o).canGo o = true ∧ (rigOp o).toSend o = false ∧ o.bad = none ∧ o.ord.isAcq = false) ∧
    (let o := op1 .store 0 false
     (rigOp o).readyOp 3 = some o ∧ (rigOp o).heldFull o = false ∧ (rigOp o).snoopLines o = [] ∧ (rigOp o).flowHeld o = false ∧ (rigOp o).sideOf o.grove = none ∧
     spaceOf o.pa ≠ 2 ∧ (rigOp o).toSend o = false ∧ (((rigOp o).performStore o).opDone o).sideOf o.grove = none) := by decide +kernel
/-- Its other clauses. -/
theorem test_meets_OperationsPerform_rest :
    (let o := op1 (.atomic .add false) 0 false
     (rigOp o).readyOp 3 = some o ∧ o.atomicKind = true ∧ (rigOp o).canGo o = true ∧ (rigOp o).snoopLines o = [] ∧ (rigOp o).toSend o = false ∧ ((rigOp o).performAtomic o []).2.bad = none) ∧
    (let o := op1 (.renew .a) 0 false
     (rigOp o).readyOp 3 = some o ∧ o.kind = .renew .a ∧ (rigOp o).groves.find? o.grove = some gr ∧ gr.placed = true) ∧
    (let o := { op1 .cinv 0 false with fields := [0x40000, 64, 0] }
     (rigOp o).readyOp 3 = some o ∧ o.kind = .cinv ∧ o.fields = [0x40000, 64, 0] ∧ (rigOp o).farPkgs o.sc = []) ∧
    (let o := { op1 .tlbinv 0 false with fields := [2, 0, 0] }
     (rigOp o).readyOp 3 = some o ∧ o.kind = .tlbinv ∧ (rigOp o).farPkgs o.sc = []) ∧
    (let o := { op1 .tlbinv 0 false with fields := [2, 0, 0], sc := .sys }
     (rigFar o).readyOp 3 = some o ∧ o.sent = false ∧ (rigFar o).farPkgs o.sc = [1] ∧ ∀ p ∈ ([] : List Nat), (rigFar o).routeTo p = []) := by decide +kernel
theorem test_meets_LocalMemoryEffects :
    (let o := op1 .store 0 false
     (∀ n ∈ linesOf o.pa o.size, (rigOp o).slotLines.find? n = none) ∧ o.data.length = o.size ∧ Memory.wf (rigOp o).mem = true ∧ (rigOp o).agendaOk = true ∧ (rigOp o).isLocal o.pa = true ∧ (rigOp o).populated o.pa = true ∧ (rigOp o).sideOf o.grove = none ∧
     (rigOp o).stages o = false ∧ (rigOp o).tagFails o.leaf o.pa o.size = false) ∧
    (rig.stagedOf 1 = [] ∧ rig.heldStores 10 = [] ∧ rig.badLine load1 load1.pa load1.size = none ∧ ({ load1 with nl1 := true } : MemOp).nl1 = true ∧ load1.ord.isAcq = false ∧ ({ load1 with data := [0, 0, 0, 0] } : MemOp).data.length = load1.size ∧
      (∀ p ∈ (rigOp load1).ops, p.early = true → p.core ≠ load1.core) ∧ ∀ n ∈ sectorsOf load1.pa load1.size, (rig.core 0).l1d.find? n = none ∧ rig.badLine load1 (load1.pa - localOf load1.pa + 32 * n) 32 = none) ∧
    (let o := op1 (.cas true) 1 false
     (rigOp o).noRoute o.pa = false ∧ (rigOp o).badLine o o.pa o.size = none ∧ (rigOp o).readMem (localOf o.pa) o.size = o.cmp ∧
     (rigOp o).readMem (localOf o.pa) o.size ≠ ({ o with cmp := [9, 9, 9, 9] } : MemOp).cmp) := by decide +kernel

/-- A record of strand 1, ready, with n registers. -/
def rec1 (n : Nat) : Record :=
  { strand := 1, launch := 1, stage := 0, hx := false, pc := 0x20000, preds := 0, repc := 0, regs := (List.range n).map fun i => (i, 0), contig := true, pend := [], wait := none,
    widx := none, held := false, fwd := false, provisional := false, spilled := false, page := 0, tick := 0, origin := 0x20000, poison := [], err := none, set := 0, after := [] }
/-- A page whose walk is under way, or has failed and waits for the driver. -/
def coal (pending : Bool) : Coal := { part := 0, page := 0, pending := pending, level := 0, reason := 0, leaf := 0, acc := 0 }
/-- The machine with that page in die 0's queue of walks. -/
def rigWalk (pending : Bool) : State := { rig with dies := [(0, [(0, coal pending)])] }
/-- The lanes at an import stub 0x100 bytes into their code object. -/
def coStub : Cohort := { co with lanes := co.lanes.map fun y => (y.1, { y.2 with pc := 0x20100 }) }
/-- Their issue. -/
def rxStub : Ctx := { rx with co := coStub, pc := 0x20100 }
/-- The machine at that stub, bound to 0x30000. -/
def rigStub : State :=
  { rigWith coStub with
    trust := { rig.trust with objs := [{ part := 0, va := 0x20000, len := 0x1000, accepted := true, refused := false, why := 0, pages := [1], keyid := 0 }] }
    mem := memPuts (memPuts (memPuts rig.mem 0x20020 (leBytes 4 0x80 ++ leBytes 4 1)) 0x20084 (leBytes 4 0x100)) 0x20100 (leBytes 8 0x30000 ++ leBytes 4 2) }
theorem test_meets_TranslationAndStubEvents :
    ((rigWalk false).dies.getD 0 []).find? 0 = some (coal false) ∧ ((rigWalk false).walkVa 0 0).isOk = true ∧
    ({ rigWalk false with mem := [] }.walkVa 0 0).isOk = false ∧ ((rigWalk true).dies.getD 0 []).find? 0 = some (coal true) ∧ (coal true).part = 0 ∧
    rigStub.ctx = some rxStub ∧ rxStub.co.single = none ∧ rigStub.atStub rxStub = true ∧ rigStub.gCheck 0 0 0x20100 8 4 .read = .ok 0x20100 0x1B ∧
    rigStub.tagFails 0x1B 0x20100 16 = false ∧ rigStub.poisonAt 0x20100 16 = none ∧ getLe (rigStub.readAs 0x1B 0x20100 16) 8 4 = 2 ∧
    rig.ctx = some rx ∧ rx.co.single = none ∧ 255 < 256 := by decide +kernel
/-- The machine with a provisional record at 0x20200, inside a code object whose park map has one entry there, of register 2, or none. -/
def rigMap (n : Nat) : State :=
  { on0 rig (fun k => { k with records := [(1, { rec1 4 with provisional := true, pc := 0x20200 })] }) with
    trust := { rig.trust with objs := [{ part := 0, va := 0x20000, len := 0x1000, accepted := true, refused := false, why := 0, pages := [1], keyid := 0 }] }
    mem := memPuts (memPuts rig.mem 0x20018 (leBytes 4 0x80 ++ leBytes 4 n)) 0x20080 (leBytes 4 0x200 ++ leBytes 4 0x204 ++ leBytes 8 0 ++ leBytes 8 4) }
theorem test_meets_TranslationAndStubEvents_parkmap :
    (∀ n < 2, List.filter (fun (x : Nat × Record) => x.2.provisional && x.2.pc.toNat == 0x20200) ((rigMap n).core 0).records = [(1, { rec1 4 with provisional := true, pc := 0x20200 })]) ∧
    (rigMap 0).parkEntry 0 0 0x20200 = none ∧ ((rigMap 1).parkEntry 0 0 0x20200).map (fun m => m.regs) = some [2] ∧
    overAllot [2] ((rigMap 1).allotOf 1 0 false) = none ∧ (rec1 4).poison = [] := by decide +kernel

/-- A bin that waits since time 0 with record 1, which has aged or not. -/
def bin1 (aged : Bool) : Bin := { launch := 1, stage := 0, hx := false, pc := 0x20000, recs := [(1, 0)], aged := if aged then some 1 else none }
/-- The machine with records and bins on core 0, one second after reset, its slots free, and launch 1 allowing its records to move. -/
def rigRec (rs : NMap Record) (bs : List Bin) : State :=
  { on0 rig (fun k => { k with records := rs, bins := bs, slots := [] }) with
    tick := 1000000000, cyc := 1800000000000
    launches := [(1, { la with pkt := { la.pkt with flags := la.pkt.flags ||| 1 } })] }
/-- A store with 400 records of 1,056 bytes. -/
def fullStore : NMap Record := List.replicate 400 (1, rec1 256)
/-- Every core of stand 0 that full. -/
def rigFull : State :=
  { rigRec fullStore [] with cores := (List.range 8).map fun i => (i, { k0 with slots := [], records := fullStore }) }
theorem test_meets_RecordEvents :
    (let s := rigRec [(1, rec1 4)] [bin1 true]
     s.loneRecord 0 = none ∧ leastOf (s.drains 0 false) = some (bin1 true) ∧ (s.core 0).regSweep = false ∧ (s.core 0).freeSlot = some 0 ∧ (s.core 0).nextGen = some 2 ∧
     (s.core 0).bins[0]? = some (bin1 true) ∧ s.drainAge 1 ≤ s.cycles (bin1 true).oldest) ∧
    (let s := rigRec [(1, { rec1 4 with err := some (fetchFault 0x20000 1) })] []
     s.loneRecord 0 = some 1 ∧ (s.core 0).regSweep = false ∧ (s.core 0).freeSlot = some 0 ∧ (s.core 0).nextGen = some 2) ∧
    ({ rig with cyc := 128000 }.cohort? 0 0 = some co ∧ 128 ≤ { rig with cyc := 128000 }.cycles co.readyTick) ∧
    rig.isLocal 0x40000 = true ∧
    (let r := { rec1 4 with spilled := true }
     ((rigRec [(1, r)] []).core 0).records.find? 1 = some r ∧ r.ready = true ∧ (rigRec [(1, r)] []).stays 1 = true ∧
     (((rigRec [(1, r)] []).makeRoom 0 r).pageFor 0 r).isSome = true) ∧
    (let s := rigRec fullStore []
     (s.core 0).records.find? 1 = some (rec1 256) ∧ 393216 < s.storeBytes 0 ∧ s.forwardable (rec1 256) = true ∧ s.forwardTo 0 (rec1 256) = some 1) ∧
    ((∀ i < 8, 393216 < rigFull.storeBytes i) ∧ rigFull.forwardable (rec1 256) = true ∧ rigFull.canTake (rec1 256) 8 = true ∧ standOf 8 ≠ standOf 0 ∧ dieOf 8 = dieOf 0) ∧
    (WaitEv.tags true 2).judged = true ∧
    (let s := rigRec [(1, rec1 4)] []
     (rec1 4).pend = [] ∧ (rec1 4).wait = none ∧ (rec1 4).provisional = false ∧ (rec1 4).err = none ∧ 1000 ≤ (s.tick - (rec1 4).tick) / 1000 ∧ s.stays (rec1 4).strand = true ∧
     s.sched.starved.contains (1, 0) = false ∧ s.frozenL 1 = false ∧ (s.core 0).regSweep = false) := by decide +kernel

/-- The machine with one bulk operation, every page of it in the TLB. -/
def rigBulk (o : BulkOp) : State := withBulk rig [o]
theorem test_meets_BulkEngineEvents :
    (let o := bulk1 .read
     let s := rigBulk o
     s.bulk? 0 5 = some o ∧ o.bursts.length ≠ burstCount o.desc ∧ s.bulkReady o = true ∧ s.groveStays o.grove = true ∧
     (s.part (s.bulkPart o)).frozen = false ∧ (s.part (s.bulkPart o)).first = none ∧ s.storeBytes 0 + 128 * (s.burstsComing 0 none).length ≤ 458752 ∧
     s.recRoom 0 (s.bulkPart o) (128 :: s.burstsComing 0 (some (s.bulkPart o))) = true ∧
     s.engAt o (o.burst 0).2.2.2 (min (o.burst 0).2.2.1 (64 - (o.burst 0).2.2.2 % 64)) false readSpaces = .ok 0x40000 0x1B ∧
     s.engAt o (((o.burst 0).2.2.2 + (o.burst 0).2.2.1 - 1) % 2 ^ 64) 1 false readSpaces = .ok 0x4003F 0x1B) ∧
    (let o := { bulk1 .read with bursts := [(0, .reading)] }
     (rigBulk o).bulk? 0 5 = some o ∧ o.bursts.find? 0 = some .reading ∧
     (rigBulk o).engRead o readSpaces 3 (o.burst 0).2.2.2 (o.burst 0).2.2.1 = .ok (List.replicate 64 0) ∧
     (match { rigBulk o with poisoned := [0x1000] }.engRead o readSpaces 3 (o.burst 0).2.2.2 (o.burst 0).2.2.1 with
      | .bad _ _ => true
      | _ => false) = true) ∧
    (let o := { bulk1 .read with bursts := [(0, .done)] }
     (rigBulk o).bulkReady o = true ∧ (rigBulk o).readDone o = true ∧ o.parts ≤ o.prog ∧ (rigBulk o).engOps o = []) ∧
    (let o := bulk1 .digest
     (rigBulk o).bulkReady o = true ∧ o.parts ≤ o.prog ∧ (rigBulk o).engOps o = [] ∧ o.fails = 0 ∧
     (rigBulk o).spCheck 0 10 .a (getLe o.desc 0x10 4) 64 64 false = none) ∧
    (∀ k ∈ [BulkKind.write, .copy, .fill],
      let o := { bulk1 k with prog := 1 }
      (rigBulk o).bulkReady o = true ∧ k ≠ .read ∧ k ≠ .digest ∧ o.parts ≤ o.prog ∧ (rigBulk o).engOps o = []) ∧
    (let o := bulk1 .fill
     let s := rigBulk o
     o.prog < o.parts ∧ s.sectorAt o 0 = (0x40000, .ok (List.replicate 4 (leBytes 8 7)).flatten) ∧ (0x40000 % 64 ≠ 0 ∨ o.parts = o.prog + 1) ∧
     s.engAt o 0x40000 32 true readSpaces = .ok 0x40000 0x1B ∧ s.sideOf o.grove = none ∧ s.isLocal 0x40000 = true ∧ s.populated 0x40000 = true ∧
     s.tagFails 0x1B 0x40000 32 = false ∧ ((s.launches.find? (s.bulkLaunch o)).elim false (fun la => la.isStaged) && fld (0x1B : DWord) 7 7 == 1) = false ∧
     s.hostHolds 0x40000 32 = [] ∧ (s.part (s.bulkPart o)).first ≠ some (1, o.id)) := by decide +kernel

/-- The machine with one matrix operation, the tile of version 0 and weights of the third format latched. -/
def rigRun (o : MatOp) : State :=
  { on0 rig (fun k => { k with
      matQ := [o]
      tiles := [{ tile with version := 0 }]
      weights := [(0, { grove := 10, fmt := 3, kpl := 0, mid := false, rows := [], scales := [] })] }) with
    tick := 10000000 }
/-- At work. -/
def begun1 (o : MatOp) : MatOp := { o with started := some 0 }
/-- A run whose version is to come. -/
def waits1 : MatOp := { mat1 .run with block := [0, 6, 0, 0] ++ leBytes 2 1 ++ leBytes 2 0 ++ leBytes 2 5 ++ List.replicate 54 0 }
/-- A run of the third format. -/
def runs1 : MatOp := { mat1 .run with block := [0, 6, 0, 0] ++ leBytes 2 1 ++ leBytes 2 0 ++ List.replicate 56 0 }
/-- A latch of the third format, from 2 KiB of W at 128 rows. -/
def lat1 : MatOp := { mat1 .lw with block := [0, 3, 0, 0] ++ leBytes 4 0 ++ leBytes 4 64 ++ List.replicate 52 0 }
/-- The scratchpads of the witness with W and C of 64 KiB allocated whole. -/
def wideAl (b : Buf) : Alloc := { al b 1 with size := 0x10000 }
/-- The machine for a run, those allocations in place. -/
def rigWide (o : MatOp) : State := on0 (rigRun o) fun k => { k with allocs := [wideAl .w, wideAl .a, wideAl .c] }
theorem test_meets_MatrixEngineEvents :
    ((rigRun (mat1 .lw)).core 0).atWork true = none ∧ List.find? (fun p => p.started.isNone && (p.kind == .lw) && ((rigRun (mat1 .lw)).core 0).matReady p && !(p.after.any (rigRun (mat1 .lw)).flying) && !(rigRun (mat1 .lw)).matTaken p.grove) ((rigRun (mat1 .lw)).core 0).matQ = some (mat1 .lw) ∧
    ((rigRun (mat1 .run)).core 0).atWork false = none ∧ List.find? (fun p => p.started.isNone && !(p.kind == .lw) && ((rigRun (mat1 .run)).core 0).matReady p && !(p.after.any (rigRun (mat1 .run)).flying) && !(rigRun (mat1 .run)).matTaken p.grove) ((rigRun (mat1 .run)).core 0).matQ = some (mat1 .run) := by decide +kernel
theorem test_meets_MatrixEngineEvents_latch : ((rigWide (begun1 lat1)).core 0).atWork true = some (begun1 lat1) ∧ ((rigWide (begun1 lat1)).latchRead 0 (begun1 lat1)).isOk = true := by decide +kernel
theorem test_meets_MatrixEngineEvents_array :
    (let o := begun1 runs1
     let s := rigWide o
     (s.core 0).atWork false = some o ∧ (s.core 0).tileOf o = some { tile with version := 0 } ∧ ((s.core 0).weights.find? o.slot).map (fun w => (w.grove, w.fmt)) = some (10, 3) ∧
     comboOk 3 (getLe o.block 1 1) (getLe o.block 2 1 == 1) = true ∧
     (s.runRows 0 o { grove := 10, fmt := 3, kpl := 0, mid := false, rows := [], scales := [] } 0 (getLe o.block 4 2) 0).2 = none) ∧
    (let o := begun1 (mat1 .zero)
     ((rigRun o).core 0).atWork false = some o ∧ ((rigRun o).core 0).tileOf o = some { tile with version := 0 } ∧ o.kind = .zero) ∧
    (rigRun waits1).stalled 0 6 1000000 = some waits1 ∧ (rigRun waits1).stalled 0 6 10000000 = some waits1 ∧
    (∀ p ∈ ((rigRun waits1).core 0).matQ, p.reported = false) ∧ (rigRun waits1).groves.find? 10 = some gr ∧ gr.matAt + 10000000 ≤ (rigRun waits1).tick := by decide +kernel

/-- A collective of strand 1. -/
def coll1 (started : Bool) : CollOp :=
  { id := 7, core := 0, strand := 1, grove := 10, tag := 0, block := collBlock, after := [], comm := 0, ordinal := 0, hops := [], since := 0, started := started, hold := none,
    refused := false, pc := 0x20000, done := false }
/-- The machine with that collective, 1 ms after reset. -/
def rigHop (started : Bool) : State := { rigColl with link := { rigColl.link with colls := [coll1 started] }, tick := 1000000 }
/-- A broadcast from rank 0. -/
def coll2 : CollOp := { coll1 false with block := [2] ++ collBlock.drop 1 }
theorem test_meets_CollectiveEvents :
    (rigHop false).coll? 7 = some (coll1 false) ∧ (rigHop false).expects (coll1 false) = [1] ∧
    ([0] : List Byte).take 13 ≠ (coll1 false).head ∧ (coll1 false).head.length = 13 ∧ ((coll1 false).head ++ [1, 2, 3, 4]).take 13 = (coll1 false).head ∧
    ((coll1 false).head ++ [1, 2, 3, 4]).length ≠ 13 ∧ ((coll1 false).head ++ [1, 2, 3, 4]).length ≠ 14 ∧ (coll1 false).since + 1000000 ≤ (rigHop false).tick ∧
    (coll1 true).hold = none ∧ (coll1 true).started = true ∧ ((rigHop true).collResult (coll1 true)).isSome = true ∧ 255 < 256 := by decide +kernel
theorem test_meets_CollectiveEvents_agree :
    (rigHop false).expects coll2 = [agreed 1] ∧ (coll2.head ++ agreeMark).take 13 = coll2.head ∧ (coll2.head ++ agreeMark).length = 14 := by decide +kernel

/-- A queue descriptor: 2 packets at 0x60000, RIDX at 0x70000, WIDX at 0x70008, of partition 0, enabled. -/
def qdesc : List Byte := leBytes 8 0x60000 ++ leBytes 8 0x70000 ++ leBytes 8 0x70008 ++ [1, 0, 7, 3, 0] ++ List.replicate 35 0
/-- A packet: a barrier (2), a signal (3) or none (0) without signals. -/
def pkt (ty : Nat) : List Byte := leBytes 1 ty ++ List.replicate 127 0
/-- The machine with that queue in slot 0, its descriptor in the table at 0x400000, its WIDX, a packet in memory and a head. -/
def rigQ (widx ty : Nat) (head : Option (List Byte)) : State :=
  { rig with
    sched := { rig.sched with qtbl := 0x400001, slots := [(0, { qid := 0, desc := qdesc, since := 0, ridx := 0, head := head })] }
    mem := memPuts (memPuts (memPuts rig.mem 0x60000 (pkt ty)) 0x70008 (leBytes 8 widx)) 0x400000 qdesc
    launches := [] }
/-- The queue in slot 0, with a head. -/
def qslot (head : Option (List Byte)) : QSlot := { qid := 0, desc := qdesc, since := 0, ridx := 0, head := head }
theorem test_meets_QueueEvents :
    (rigQ 1 2 none).slot? 0 = some (qslot none) ∧ (rigQ 1 2 none).schedRead 0 0x70008 8 = .ok (leBytes 8 1) ∧ 0 < leNat (leBytes 8 1) ∧ leNat (leBytes 8 1) - 0 ≤ 2 ^ 1 ∧
    (rigQ 1 2 none).schedRead 0 (0x60000 + 128 * (0 % 2 ^ 1)) 128 = .ok (pkt 2) ∧ (rigQ 1 2 none).packetBad 0 (pkt 2) = none ∧ (rigQ 1 0 none).packetBad 0 (pkt 0) = some 0 ∧
    (rigQ 1 0 none).slotHeld (qslot none) 0 = [] := by decide +kernel
/-- The index and the packet of the queue, as the scheduler reads them. -/
def qreads (s : State) (ty : Nat) : Bool :=
  (s.unread (s.awayAll noCore 0x31 [(0, 0x70008, 8)])).isEmpty && (s.unread (s.awayAll noCore 0x31 [(0, 0x60000, 128)])).isEmpty && (s.unread (s.awayAll noCore 0x31 (s.objRanges 0 (pkt ty)))).isEmpty
/-- The same machine with all memory of partition 0 in space 2, its aperture on, the scheduler admitted there. -/
def rigQFar : State :=
  { rigQ 1 2 none with
    mem := memPuts (rigQ 1 2 none).mem 0x110000 (leBytes 8 0x400000000001B)
    host := { (rigQ 1 2 none).host with aperbase := 1 }
    trust := { (rigQ 1 2 none).trust with access := [(256 * 3 + 0x31, [BitVec.ofNat 256 (0xF + 2 ^ 91 + (2 ^ 34 - 1) * 2 ^ 93)])] } }
theorem test_meets_QueueEvents_reads :
    (∀ ty ∈ [2, 0], qreads (rigQ 1 ty none) ty = true) ∧
    rigQFar.slot? 0 = some (qslot none) ∧ rigQFar.unread (rigQFar.awayAll noCore 0x31 [(0, 0x70008, 8)]) ≠ [] := by decide +kernel
theorem test_meets_QueueEvents_error :
    (rigQ 3 2 none).unread ((rigQ 3 2 none).awayAll noCore 0x31 [(0, 0x70008, 8)]) = [] ∧
    (rigQ 3 2 none).schedRead 0 0x70008 8 = .ok (leBytes 8 3) ∧ 2 ^ 1 < leNat (leBytes 8 3) - 0 := by decide +kernel
theorem test_meets_QueueEvents_back :
    (let s := { rigQ 1 2 none with sched := { (rigQ 1 2 none).sched with slots := [(0, { qslot none with ridx := 2 })] } }
     s.slot? 0 = some { qslot none with ridx := 2 } ∧ s.unread (s.awayAll noCore 0x31 [(0, 0x70008, 8)]) = [] ∧ s.schedRead 0 0x70008 8 = .ok (leBytes 8 1)) ∧ leNat (leBytes 8 1) < 2 := by decide +kernel
theorem test_meets_QueueEvents_heads :
    (rigQ 1 1 (some (pkt 1))).slot? 0 = some (qslot (some (pkt 1))) ∧ (rigQ 1 1 (some (pkt 1))).depsMet 0 (pkt 1) = true ∧ getLe (pkt 1) 0 1 = 1 ∧
    ((rigQ 1 1 (some (pkt 1))).part 0).frozen = false ∧ bitN (packetOf (pkt 1) 7).flags 3 = false ∧ (rigQ 1 1 (some (pkt 1))).newLaunchId ≠ 0 ∧
    (rigQ 1 1 (some (pkt 1))).unread ((rigQ 1 1 (some (pkt 1))).awayAll noCore 0x31 (depRanges 0 (pkt 1) ++ (rigQ 1 1 (some (pkt 1))).objRanges 0 (pkt 1))) = [] ∧
    (rigQ 1 1 (some (pkt 1))).slotHeld (qslot (some (pkt 1))) 0 = [] := by decide +kernel
theorem test_meets_QueueEvents_others :
    getLe (pkt 2) 0 1 = 2 ∧ (rigQ 1 2 (some (pkt 2))).depsMet 0 (pkt 2) = true ∧ (rigQ 1 2 none).launches = [] ∧ getLe (pkt 3) 0 1 = 3 ∧
    (rigQ 1 3 (some (pkt 3))).depsMet 0 (pkt 3) = true ∧
    (∀ ty ∈ [2, 3], (rigQ 1 ty (some (pkt ty))).unread ((rigQ 1 ty (some (pkt ty))).awayAll noCore 0x31 (depRanges 0 (pkt ty))) = []) ∧ (rigQ 1 2 (some (pkt 2))).slotHeld (qslot (some (pkt 2))) 0 = [] := by decide +kernel
/-- The machine at its first slice boundary, with queue 0 waiting to be mapped. -/
def rigMapQ : State := { rigQ 1 2 none with tick := 100000, sched := { (rigQ 1 2 none).sched with slots := [], pending := [0] } }
theorem test_meets_QueueEvents_table :
    (let s := { rigQ 1 2 none with sched := { (rigQ 1 2 none).sched with slots := [(0, { qslot none with qid := 1 })] } }
     s.slot? 0 = some { qslot none with qid := 1 } ∧ fld s.sched.qtbl 0 0 = 1 ∧ queueOn (s.queueDesc 0) = true ∧ s.sched.errs.find? 0 = none ∧ getLe (s.queueDesc 0) 0x19 1 = 0 ∧
     (∀ x ∈ s.sched.slots, x.2.qid ≠ 0) ∧ 0 ∉ s.sched.pending ∧ s.tick / s.slice ≤ s.sched.boundary / s.slice) ∧
    rig.sched.slots = [] ∧ rig.sched.errs = [] ∧ fld rig.sched.qtbl 0 0 = 0 ∧ { rig with tick := 100000 }.unread ({ rig with tick := 100000 }.awayAll noCore 0x31 { rig with tick := 100000 }.sliceRanges) = [] ∧ { rig with tick := 100000 }.sched.boundary / { rig with tick := 100000 }.slice < { rig with tick := 100000 }.tick / { rig with tick := 100000 }.slice := by decide +kernel
theorem test_meets_QueueEvents_boundary :
    (let s : State := rigMapQ
     let u := { s with sched := { s.sched with boundary := s.tick, starved := [], cycles := [] }, cores := s.cores.map fun (x : Nat × Core) => (x.1, x.2.unreported) }
     s.sched.slots = [] ∧ s.sched.errs = [] ∧ s.sched.boundary / s.slice < s.tick / s.slice ∧ fld s.sched.qtbl 0 0 = 1 ∧ s.sched.pending = [0] ∧ s.unread (s.awayAll noCore 0x31 s.sliceRanges) = [] ∧
     s.sched.rung.getD 0 (descPart (u.queueDesc 0) % 16) = descPart (u.queueDesc 0) % 16 ∧ queueOn (u.queueDesc 0) = true ∧ descBad (u.queueDesc 0) = false ∧ u.queueVaBad (u.queueDesc 0) = none ∧
     u.schedRead (descPart (u.queueDesc 0) % 16) (getLe (u.queueDesc 0) 8 8) 8 = .ok (leBytes 8 0)) := by decide +kernel

/-- A launch that waits for a grove with a window of all of W. -/
def la2 : Launch := { la with pkt := { la.pkt with prio := 7, req := [0x100000, 0, 0] }, nextGrove := 0 }
/-- The machine with core 0 alone in service, its W taken by grove 10, and that launch. -/
def rigEvict : State := { rig with launches := [(1, la), (2, la2)], pow := { rig.pow with disabled := [1, 2, 3, 4, 5, 6, 7], outOfService := (List.range 79).map (· + 1) } }
/-- The same with a launch to place that needs no window. -/
def rigAdmit : State := { rig with launches := [(1, la), (2, { la2 with pkt := { la2.pkt with req := [0, 0, 0] } })], pow := rigEvict.pow }
/-- The machine with grove 10 being evicted, or evicted. -/
def rigGone (g : Grove) : State := { rig with groves := [(10, g)], tick := 1000000, cores := [(0, { k0 with slots := [] })], strands := [], parts := [(0, { Part.reset 0 with root := 0x100000, pcal := putFld (putFld 0 51 30 1) 6 0 1 })] }
/-- A twin pair, every strand of it stopped at checkpoint 1 but for none, on cores 0 and 160. -/
def rigCkpt : State :=
  { rigTwin with
    groves := [(10, { gr with twin := some (10, false) }), (11, { gr with twin := some (10, true), core := 160 })]
    strands := [(1, { progStrand 10 with index := 0 }), (2, { progStrand 11 with core := 160 })]
    cores := [(0, { k0 with slots := [], records := [(1, { rec1 0 with wait := some (.ckpt 1) })] }), (160, { k0 with slots := [], records := [(2, { rec1 0 with strand := 2, wait := some (.ckpt 1) })] })] }
theorem test_meets_GroveEvents :
    rigAdmit.launches.find? 2 = some { la2 with pkt := { la2.pkt with req := [0, 0, 0] } } ∧ la2.hasNext = true ∧
    (∀ x ∈ rigAdmit.launches, x.2.hasNext = true → x.2.turn < la2.turn → rigAdmit.placeFor x.1 = none) ∧ rigAdmit.placeFor 2 = some (0, none) ∧
    rigEvict.launches.find? 2 = some la2 ∧ (rigEvict.part 0).frozen = false ∧ (rigEvict.afterEvictions 2).placeFor 2 = none ∧
    (rigEvict.afterEvictions 2).victimSet 2 la2 = some [10] := by decide +kernel
/-- A grove of the witness being evicted for launch 2. -/
def going : Grove := { gr with evicting := some 0, evictFor := 2 }
theorem test_meets_GroveEvents_eviction :
    (let s := rigGone going
     s.groves.find? 10 = some going ∧ s.evictStep 10 going = 6 ∧ s.staysResident going.evictFor going = false ∧
     s.frozenL going.launch = false ∧ s.calFits 0 (s.saveOf 10 going false).bytes = true ∧
     40000 ≤ s.tick ∧ 1000000 ≤ s.tick ∧ going.evictSeen = false) ∧
    (let s := { rigGone going with launches := [(1, la), (2, { la2 with pkt := { la2.pkt with req := [0, 0, 0] } })] }
     s.groves.find? 10 = some going ∧ s.evictStep 10 going = 6 ∧ s.staysResident going.evictFor going = true ∧ s.pow.outOfService.contains 0 = false ∧
     s.calFits 0 (s.saveOf 10 going true).bytes = true) ∧
    (let s := { rigGone going with parts := [] }
     s.evictStep 10 going = 6 ∧ s.frozenL going.launch = false ∧ s.calFits 0 (s.saveOf 10 going (s.staysResident 2 going)).bytes = false) := by
  decide +kernel
theorem test_meets_GroveEvents_back :
    (rigGone { gr with placed := false }).takesBack 10 1 = true ∧ (rigGone { gr with placed := false }).framesHeld 10 1 = [] ∧ gr.twin = none ∧ gr.placed = true ∧ (rigGone gr).groveEmpty 10 = true := by decide +kernel
theorem test_meets_GroveEvents_checkpoint :
    rigCkpt.twins.find? 10 = some pair ∧ rigCkpt.allArrived 10 pair = true ∧ rigCkpt.quiet 10 = true ∧ rigCkpt.quiet pair.trail = true ∧ rigCkpt.pairGens 10 pair = none ∧
    rigCkpt.injects gr (pair.ckpt + 1) = false ∧ firstMismatch (rigCkpt.sides pair 10 false) (rigCkpt.sides pair pair.trail true) = none ∧ pair.releasing = 0 ∧
    pair.lead = [] ∧ (rigCkpt.groves.find? pair.trail).isSome = true ∧ (∀ g ∈ rigCkpt.groves, g.2.placed = true ∧ g.2.evicting = none) ∧
    { rigCkpt with twins := rigCkpt.twins.adj 10 fun w => { w with releasing := 1 } }.releasingOps 10 = [] := by decide +kernel

/-- The machine at a time, its allocation of A with a class and automatic renewal. -/
def rigAge (tick : Nat) (cls : LClass) (ar : Bool) : State := { on0 rig (fun k => { k with allocs := [{ al .a 1 with cls := cls, ar := ar }] }) with tick := tick }
/-- An image that has stopped with a fault of lane 0. -/
def stop1 : Stopped := { core := 0, cohort := co, faults := [(0, fetchFault 0x20000 1)], sev := 2, pc := 0x20000, stale := [], code := 0x1005, tick := 0, bins := [], edit := [], cnts := none }
/-- The watchdog at 1 µs in partition 0, rotating or not, 1 ms after reset. -/
def rigDog (rot : Bool) (gib : DWord) : State :=
  { rig with tick := 1000000, parts := [(0, { Part.reset 0 with root := 0x100000, wdog := 0x100 ||| (if rot then 1 else 0), pcal := gib })] }
/-- The machine with an empty core 0, the image rotated out and waiting for its handler. -/
def rigOut : State :=
  { on0 rig (fun k => { k with slots := [] }) with
    parts := [(0, { Part.reset 0 with root := 0x100000, rotated := [stop1], halted := [(3, stop1)] })]
    launches := [(1, { la with waiting := [stop1] })] }
theorem test_meets_SweepAndTrapEvents :
    ({ k0 with regSweep := true } : Core).regSweep = true ∧ ({ k0 with spSweep := true } : Core).spSweep = true ∧
    ((rigAge 512000 .l0 false).core 0).scanTick / 512000 < 512000 / 512000 ∧ 512000 % 512000 < 4000 ∧
    (let s := rigAge 32000 .l0 true
     let a := { al .a 1 with ar := true }
     s.ownerOf 0 .a 2 = some a ∧ a.cls.ticks / 2 ≤ (s.T + 512 - ((s.core 0).gran .a 2).wtick) % 512) ∧
    (let s := { rigAge 256000 .l2 false with pow := { rig.pow with lcmax := [(0, 1)] } }
     let q := (s.core 0).gran .a 2
     s.ownerOf 0 .a 2 = some { al .a 1 with cls := .l2 } ∧ s.lcmax (dieOf 0) = 1 ∧ q.gen = 1 ∧ ageOk s.T q .l2 = true ∧ 64 ≤ (s.T + 512 - q.refreshed) % 512) := by decide +kernel
theorem test_meets_SweepAndTrapEvents_watchdog :
    (∀ rot ∈ [true, false], (rigDog rot 0).cohort? 0 0 = some co ∧ co.wdogSeen = false ∧ ((rigDog rot 0).part 0).frozen = false ∧ fld ((rigDog rot 0).part 0).wdog 31 8 ≠ 0 ∧
      fld ((rigDog rot 0).part 0).wdog 31 8 ≤ ((rigDog rot 0).tick - co.segTick) / 1000 ∧ (fld ((rigDog rot 0).part 0).wdog 1 0 == 1) = rot) ∧
    (rigDog true 1).calRoom 0 ((rigDog true 1).imageRoom ((rigDog true 1).rotated 0 co 0x20000)) = true ∧
    (rigDog true 0).calRoom 0 ((rigDog true 0).imageRoom ((rigDog true 0).rotated 0 co 0x20000)) = false := by decide +kernel
theorem test_meets_SweepAndTrapEvents_delivery :
    List.find? (fun st => rigOut.canReturn st) (rigOut.part 0).rotated = some stop1 ∧ rigOut.frozenL 1 = false ∧
    rigOut.deliverable { la with waiting := [stop1] } false = some stop1 ∧ rig.deliverable la false = none ∧ rig.deliverable la true = none := by decide +kernel

theorem test_meets_PartitionRegistersAndDebug :
    (∀ x ∈ rig.launches, x.2.part ≠ 1 ∨ x.2.ended = true) ∧ rig.launches = [(1, la)] ∧ la.part = 0 ∧ la.ended = false ∧
    rig.devReg 3 0 = none ∧ rig.devReg 3 (4096 * 4) = some (.part 3 .tableRoot) ∧ rig.devReg 0x20 0 = some (.pkg .qtbl) ∧ la.part ≠ 2 ∧
    (rigOut.part 0).halted.find? 4 = none ∧ (rigOut.part 0).halted.find? 3 = some stop1 ∧ 4096 % 4096 = 0 ∧ 8 % 4096 ≠ 0 ∧
    { rigOut with launches := [(1, { la with held := [(0, (1, false))] })] }.isHeld stop1.cohort = true ∧ rigOut.isHeld stop1.cohort = false ∧ stop1.edit = [] ∧ stop1.cnts = none ∧
    { rigOut with parts := [(0, { Part.reset 0 with root := 0x100000, halted := [(3, { stop1 with cnts := some [] })] })] }.part 0 = { Part.reset 0 with root := 0x100000, halted := [(3, { stop1 with cnts := some [] })] } ∧
    NMap.find? [(3, { stop1 with cnts := some [] })] 3 = some { stop1 with cnts := some [] } := by decide +kernel
/-- DBGDATA that asks for 64 bytes of A of grove 0 at offset 0. -/
def rigAsk : State := { rig with parts := [(0, { Part.reset 0 with root := 0x100000, dbgdata := leBytes 4 0 ++ [1] ++ leBytes 4 0 ++ leBytes 4 64 })] }
theorem test_meets_PartitionRegistersAndDebug_readsp :
    List.find? (fun x : Nat × Grove => x.2.launch == 1 && x.2.idx == getLe (rigAsk.part 0).dbgdata 0 4 && x.2.placed) rigAsk.groves = some (10, gr) ∧
    rigAsk.launches.find? 1 = some la ∧ Buf.dec (getLe (rigAsk.part 0).dbgdata 4 1) = .a ∧ getLe (rigAsk.part 0).dbgdata 4 1 ≤ 2 ∧
    getLe (rigAsk.part 0).dbgdata 5 4 % 32 = 0 ∧ getLe (rigAsk.part 0).dbgdata 9 4 = 64 ∧ 0 + 64 ≤ (gr.win .a).2 ∧ bitN 0 0 = false := by decide +kernel

/-- The host's side: capabilities published, the link up, CXL.mem. -/
def rigHost : State := { rig with trust := { rig.trust with published := true }, host := { rig.host with linkUp := true, cxl := true, lines := [5], snoops := [(5, 0, false)] }, tick := 10000000 }
/-- The second aperture has at least 1 GiB. -/
theorem test_bar2 (f n : Nat) (h : n ≤ 2 ^ 30) : ¬bar2Size f < n := by
  have : 2 ^ 30 ≤ bar2Size f := Nat.pow_le_pow_right (by omega) (by omega)
  omega
/-- What the checks after the aperture's size say of an access of function 0 at 0x40000. -/
def past (s : State) (len : Nat) (k : Acc) : Inbound :=
  if !canonical (fld (s.part (s.funcPart 0)).winva 63 17 * 2 ^ 17) then .bad 1 none
  else if canonical (fld (s.part (s.funcPart 0)).winva 63 17 * 2 ^ 17 + 0x40000) && (match s.walkVa (s.funcPart 0) (fld (s.part (s.funcPart 0)).winva 63 17 * 2 ^ 17 + 0x40000) with
      | .ok e => decide (2 ≤ spaceOf (e.pa (fld (s.part (s.funcPart 0)).winva 63 17 * 2 ^ 17 + 0x40000)))
      | .error _ => false) then .bad 2 none
  else
    match s.gWalk noCore (s.funcPart 0) 0x20 (fld (s.part (s.funcPart 0)).winva 63 17 * 2 ^ 17 + 0x40000) len k with
    | .ok pa leaf => .ok pa leaf
    | .miss => .bad 1 none
    | .bad flt =>
      if flt.code == 0x1004 then .bad 2 none
      else if flt.code == 0x1008 then
        match (s.noExec).gWalk noCore (s.funcPart 0) 0x20 (fld (s.part (s.funcPart 0)).winva 63 17 * 2 ^ 17 + 0x40000) len k with
        | .ok pa _ => .bad 6 (some pa)
        | _ => .bad 3 none
      else .bad 1 none
theorem test_past (s : State) (len : Nat) (k : Acc) (h : 0x40000 + len ≤ 2 ^ 30) : s.inbound 0 0x40000 len k = past s len k := by
  unfold State.inbound past
  simp only [test_bar2 0 _ h, decide_false, Bool.false_or] <;> rfl
/-- The same with a line of poison at 0x40000, or with no access allowed. -/
def rigPoison : State := { rigHost with poisoned := [0x1000] }
/-- No access of the function is allowed. -/
def rigClosed : State := { rigHost with trust := { rigHost.trust with access := [] } }
theorem test_meets_HostEvents :
    0 < 16 ∧ rigHost.serves = true ∧ rigHost.host.linkUp = true ∧ ([1, 2, 3, 4] : List Byte) ≠ [] ∧
    (∀ k ∈ [Acc.write, .read], ∀ s ∈ [rigHost, rigPoison], past s 8 k = .ok 0x40000 0x1B) ∧ rigHost.partialTag 0x1B 0x40000 8 = false ∧ rigHost.remote 0x40000 = false ∧ rigHost.hostWrites 0 = [] ∧
    rigHost.isLocal 0x40000 = true ∧ rigHost.poisonAt 0x40000 8 = none ∧ rigHost.tagFails 0x1B 0x40000 8 = false ∧ rigPoison.poisonAt 0x40000 8 ≠ none ∧
    (∀ k ∈ [Acc.write, .read], past rigClosed 8 k = .bad 3 none) ∧
    { rigHost with ops := [{ op1 .store 1 false with strand := 0, grove := 0, fields := [0, 1, 0] }] }.hostWrites 0 ≠ [] := by decide +kernel
theorem test_meets_HostEvents_inbound :
    (∀ k ∈ [Acc.write, .read], ∀ s ∈ [rigHost, rigPoison], s.inbound 0 0x40000 8 k = .ok 0x40000 0x1B) ∧ ∀ k ∈ [Acc.write, .read], rigClosed.inbound 0 0x40000 8 k = .bad 3 none :=
  ⟨fun k hk s hs => (test_past s 8 k (by decide)).trans (test_meets_HostEvents.2.2.2.2.1 k hk s hs),
    fun k hk => (test_past rigClosed 8 k (by decide)).trans (test_meets_HostEvents.2.2.2.2.2.2.2.2.2.2.2.2.1 k hk)⟩
theorem test_meets_HostEvents_more :
    rigHost.host.cxl = true ∧ 0x40000 < 2 ^ 41 ∧ rigHost.populated 0x40000 = true ∧ rigHost.accessReason 0x20 0x40000 64 .write 0 = none ∧
    rigHost.accessReason 0x20 0x40000 64 .read 0 = none ∧ rigHost.poisonAt 0x40000 64 = none ∧ rigHost.host.snoops = [(5, 0, false)] ∧ 0 + 10000000 ≤ rigHost.tick ∧
    (let o := { load1 with pa := 0x40000 + 2 * 2 ^ 49 }
     { rigHost with ops := [o] }.readyOp 3 = some o ∧ hostLoad o = true ∧ o.born + 10000000 ≤ rigHost.tick) ∧
    (∀ o ∈ rigHost.ops, hostLoad o = false) ∧ 1 ≠ 0 ∧ 5 ≤ 5 ∧ rigHost.trust.recovery = false := by decide +kernel
/-- A halted image of 16 registers that nothing has written. -/
def stop3 : Stopped := { stop1 with cohort := { co with allot := 16, regs := [] } }
/-- Its bytes as they stand, or with a reserved field set. -/
def edited (bad : Bool) : List Byte :=
  let bs := rigOut.haltedBytes stop3
  if bad then putBytes bs 0x1F8 [1] else bs
theorem test_meets_PartitionRegistersAndDebug_edit :
    edited false ≠ [] ∧ imageRefused stop3 (edited false) = none ∧ edited true ≠ [] ∧ imageRefused stop3 (edited true) = some (2, 0x1F8) ∧
    rigOut.isHeld { stop3 with edit := edited false }.cohort = false ∧ rigHost.serves = true ∧ State.reset.calBytes 0 = 0 ∧ rigOut.calBytes 0 ≠ 0 ∧
    fld (rigOut.part 0).pcal 51 30 ≠ 1 ∧ { rigHost with trust := { rigHost.trust with recovery := true } }.serves = false := by decide +kernel
theorem test_meets_PartitionRegistersAndDebug_tail :
    (5 + 2 ^ 32 - 4) % 2 ^ 32 ≤ (6 + 2 ^ 32 - 4) % 2 ^ 32 ∧ (6 + 2 ^ 32 - 4) % 2 ^ 32 < (7 + 2 ^ 32 - 4) % 2 ^ 32 := by decide
theorem test_meets_HostEvents_recovery :
    { rigHost with trust := { rigHost.trust with recovery := true } }.trust.recovery = true ∧ 0 ≠ 1 := by decide +kernel

/-- The machine, 10 ms after reset, with a port 0 to package 1 and a flow. -/
def rigLink (p : Port) (n : Nat) (f : Flow) : State :=
  { rig with tick := 10000000, link := { LinkSt.reset with route := [(1, 1)], ports := [(0, p)], flows := [(n, f)] } }
/-- A port that is up. -/
def up1 : Port := { Port.reset with up := true, lanes := 8 }
/-- A data flit of LSEQ 0 with nothing in it. -/
def flit0 : List Byte :=
  let b := leBytes 8 (2 ^ 38) ++ List.replicate 240 0
  b ++ leBytes 8 (crc64 0 b).toNat
theorem test_meets_LinkEvents_flits :
    up1.up = true ∧ (List.replicate 255 (0 : Byte) ++ [1]).length = 256 ∧ crc64 0 ((List.replicate 255 (0 : Byte) ++ [1]).take 248) ≠ BitVec.ofNat 64 (getLe (List.replicate 255 (0 : Byte) ++ [1]) 248 8) ∧
    crc64 0 ((List.replicate 256 (0 : Byte)).take 248) = BitVec.ofNat 64 (getLe (List.replicate 256 (0 : Byte)) 248 8) ∧ bitsN (getLe (List.replicate 256 (0 : Byte)) 0 8) 39 38 = 0 ∧
    flit0.length = 256 ∧ crc64 0 (flit0.take 248) = BitVec.ofNat 64 (getLe flit0 248 8) ∧ bitsN (getLe flit0 0 8) 39 38 = 1 ∧ bitsN (getLe flit0 0 8) 63 52 = up1.rxSeq ∧
    bitsN (getLe flit0 0 8) 63 52 ≠ ({ up1 with rxSeq := 3, replays := 1 } : Port).rxSeq ∧ ({ up1 with rxSeq := 3, replays := 1 } : Port).replays ≠ 0 := by decide +kernel
/-- A flow that is broken since reset. -/
def broken1 : Flow := { Flow.reset with broken := true }
/-- An operation on package 1. -/
def far1 (k : OpKind) (resends : Nat) : MemOp := { op1 k 1 false with pa := 2 ^ 49 + 2 ^ 41 + 0x40000, leaf := 0x1B + 2 ^ 49, resends := resends, sent := true }
/-- A completion signal on its way to package 1. -/
def cpl1 : MemOp := { far1 .store 0 with strand := 0, grove := 0, fields := [0, 0, 0, 9] }
/-- The machine with that operation and no route, its eight flows broken or whole. -/
def rigLost (broken : Bool) (ops : List MemOp) : State :=
  { rig with tick := 10000000, ops := ops, link := { LinkSt.reset with flows := if broken then (List.range 8).map fun i => (txFlow 1 (i / 2) (i % 2), broken1) else [] } }
theorem test_meets_LinkEvents :
    (rigLink up1 0 broken1).port 0 = up1 ∧ up1.lastRx + 10000 ≤ (rigLink up1 0 broken1).tick ∧ up1.replay = [] ∧ ((rigLink up1 0 broken1).portEmpty 0 up1.order.length).port 0 = up1 ∧
    (rigLink Port.reset 0 broken1).link.ports.find? 0 = some Port.reset ∧ Port.reset.up = false ∧ Port.reset.retrains < 3 ∧
    (let f := { Flow.reset with gapSince := some 0 }
     flowOut 1025 = false ∧ flowOrd 1025 = 1 ∧ (rigLink up1 1025 f).flow 1025 = f ∧ f.broken = false ∧ 0 + 100000 ≤ (rigLink up1 1025 f).tick) ∧
    flowOut 4097 = true ∧ (rigLink up1 4097 broken1).canBreak 4097 = true := by decide +kernel
theorem test_meets_LinkEvents_lost :
    (rigLost false []).routeTo 1 = [] ∧ (rigLost false []).opsTo 1 = [] ∧ (∀ i < 8, ((rigLost false []).flow (txFlow 1 (i / 2) (i % 2))).broken = false) ∧
    (rigLost true [far1 .load 0]).routeTo 1 = [] ∧ (rigLost true [far1 .load 0]).opsTo 1 = [far1 .load 0] ∧
    (∀ i < 8, ((rigLost true []).flow (txFlow 1 (i / 2) (i % 2))).broken = true ∧ ((rigLost true []).flow (txFlow 1 (i / 2) (i % 2))).since + 50000 ≤ (rigLost true []).tick) ∧
    (∀ o ∈ [far1 .load 3, far1 .load 4, far1 (.atomic .add true) 3, far1 (.atomic .add false) 0, far1 .store 0, cpl1], (rigLost false [o]).readyOp 3 = some o ∧ (rigLost false [o]).overdue o = true ∧
      (rigLost false [o]).flowHeld o = false ∧ (rigLost false [o]).takesForward o = false ∧ o.home = false) ∧
    (far1 .load 3).resends < 4 ∧ 4 ≤ (far1 .load 4).resends ∧ (far1 (.atomic .add true) 3).rt = true ∧ (far1 (.atomic .add false) 0).rt = false ∧
    (far1 .store 0).isSignal = false ∧ cpl1.isSignal = true ∧ cpl1.rt = false ∧ (far1 .store 0).rt = false := by decide +kernel
/-- The machine where package 1 may reach memory as partition 0, with a result kept under OPID 5 of flow 1. -/
def rigPeer : State :=
  { rig with
    trust := { rig.trust with access := rig.trust.access ++ [(0x10, [progDesc])] }
    link := { LinkSt.reset with opids := [(1, 5, [0, 0, 0, 0])] } }
/-- A control flit that asks for the replay from LSEQ 0. -/
def ask0 : List Byte :=
  let b := leBytes 8 (2 ^ 39) ++ [1] ++ List.replicate 239 0
  b ++ leBytes 8 (crc64 0 b).toNat
theorem test_meets_LinkEvents_control :
    ask0.length = 256 ∧ crc64 0 (ask0.take 248) = BitVec.ofNat 64 (getLe ask0 248 8) ∧ bitsN (getLe ask0 0 8) 39 38 = 2 ∧
    (bitsN (getLe flit0 0 8) 63 52 + 4096 - (4095 : Nat)) % 4096 < 2048 ∧ ¬(bitsN (getLe flit0 0 8) 63 52 + 4096 - (1 : Nat)) % 4096 < 2048 ∧
    up1.replays < 7 ∧ 7 ≤ ({ up1 with replays := 7 } : Port).replays ∧ up1.asks.2 < 7 ∧ ({ up1 with asks := (5, 7) } : Port).asks = (5, 7) ∧
    512 < ({ up1 with rx := [(0, List.replicate 513 [])] } : Port).held 0 ∧ 0 ∉ up1.stopped ∧ up1.held 0 ≤ 256 ∧ 0 ∈ ({ up1 with stopped := [0] } : Port).stopped ∧
    up1.replay.length < 512 ∧ up1.txq = [] ∧
    (let p := { up1 with txq := [(2, [(4097, [1, 2, 3])])] }
     vcOrder.find? (fun vc => !p.xoff.contains vc && !(p.txq.getD vc []).isEmpty) = some 2) ∧
    ({ up1 with replay := [(0, [], [4097])] } : Port).replay = [(0, [], [4097])] := by decide +kernel
theorem test_meets_LinkEvents_atomics :
    flowOut 1 = false ∧ List.find? (fun e => e.2.1 == 5) (rigPeer.window 1) = some (1, 5, [0, 0, 0, 0]) ∧ List.find? (fun e => e.2.1 == 6) (rigPeer.window 1) = none ∧
    (∀ e ∈ rigPeer.window 1, opidOlder 6 e.2.1 = false) ∧ atomKind 0 = some (.atomic .add false) ∧ rigPeer.isLocal 0x40000 = true ∧
    rigPeer.peerAdmits (0 % 16) 0x40000 4 .atomic 0 = true ∧ rigPeer.peerRead 0x40000 4 0 = (0, [0, 0, 0, 0]) ∧
    rigPeer.hostHolds 0x40000 4 = [] ∧ ({ rigPeer with host := { rigPeer.host with cxl := true, lines := [0x1000] } } : State).hostHolds 0x40000 4 ≠ [] ∧
    (remoteOp (.atomic .add false) 0x40000 4 [7, 0, 0, 0] []).atomStep [0, 0, 0, 0] = .ok (some [7, 0, 0, 0], [0, 0, 0, 0]) := by decide +kernel

theorem test_meets_LinkEvents_expired :
    ({ rigPeer with link := { rigPeer.link with opids := [(1, 500, [0, 0, 0, 0])] } }.window 1).head? = some (1, 500, [0, 0, 0, 0]) ∧ opidOlder 5 500 = true ∧
    atomKind 16 = some (.cas false) ∧ (remoteOp (.cas false) 0x40000 4 [7, 0, 0, 0] [1, 0, 0, 0]).atomStep [0, 0, 0, 0] = .ok (none, [0, 0, 0, 0]) := by decide +kernel

theorem test_meets_PowerEvents :
    { rig with pow := { rig.pow with state := .off } }.pow.state = .off ∧ { rig with pow := { rig.pow with state := .d3hot } }.pow.state = .d3hot ∧
    rig.pow.state = .run ∧ rig.pow.state ≠ .off ∧ 79 < 80 ∧ (∀ i < 8, (rig.core (8 * 79 + i)).groves = []) ∧ { rig with tick := 50000 }.pow.idle.getD 79 0 + 50000 ≤ 50000 ∧ 79 ∉ rig.pow.gated ∧
    6000 < 6001 ∧ min 3000 (fld rig.pow.pwrlim 11 0) < 3001 ∧ 6000 ≤ 6000 ∧ 3000 ≤ min 3000 (fld rig.pow.pwrlim 11 0) ∧
    0 + 200000 ≤ { rig with tick := 200000 }.tick ∧ rig.timeMaster = rig.pkg ∧ { rig with pkg := 3, link := { rig.link with route := [(1, 1)] } }.timeMaster = 1 ∧ rig.pow.joined = false ∧
    { rig with trust := { rig.trust with published := false, step8 := some 5 } }.trust.step8 = some 5 ∧ (∀ x ∈ rig.pow.tj, x.2 ≤ 400) ∧ 400 ≤ 400 ∧ 420 < 421 ∧ rig.pow.lcmax.getD 3 2 = 2 ∧
    ({ rig.pow with synced := true } : PowerSt).synced = true ∧ rig.pow.lastSync + 10000000 ≤ 10000000 ∧ 1 ≠ rig.pkg := by decide +kernel

/-- The machine with a load request in progress in partition 0, of the object at 0x60000. -/
def rigLoad (b : List Byte) : State :=
  { rig with mem := memPuts rig.mem 0x60000 b, parts := [(0, { Part.reset 0 with root := 0x100000, loadsts := 0x60001 })] }
/-- An object whose header and tables are right: one section, a string table of one byte. -/
def obj1 : List Byte :=
  leBytes 4 0x014F435A ++ leBytes 2 1 ++ leBytes 2 0 ++ leBytes 8 696 ++ leBytes 4 0x80 ++ leBytes 2 1 ++ List.replicate 34 0 ++ leBytes 4 0xA0 ++ leBytes 4 1 ++
    leBytes 4 0xB0 ++ List.replicate 60 0 ++ leBytes 4 0 ++ leBytes 4 1 ++ leBytes 8 0xA8 ++ leBytes 8 8 ++ List.replicate 544 0
/-- A posted stub at 0x30000 whose STATE is st. -/
def rigPost (st : Nat) : State := { rig with trust := { rig.trust with posts := [(0, 0x20000, 0x30000)] }, mem := memPuts rig.mem 0x30008 (leBytes 4 st) }
/-- A public key of exponent 1, under which a signature is its own encoded message. -/
def key7 : PubKey := { keyid := 7, modulus := 2 ^ 4096 - 1, exponent := 1 }
/-- The machine with a mailbox request of partition 0 and key 7, its answer to the challenge the outstanding one or not. -/
def rigMail (op : Nat) (answers : Bool) : State :=
  { rig with trust := { rig.trust with
      mbdoor := 1
      mailbox := leBytes 4 op ++ leBytes 4 0 ++ leBytes 8 7 ++ leBytes 64 9
      keys := [(1, key7)]
      challenge := some (if answers then 9 else 8) } }
/-- The machine with its pages allowed to be executed and not written. -/
def rigText : State := { rigLoad obj1 with mem := memPuts (rigLoad obj1).mem 0x110000 (leBytes 8 0x2B) }
/-- The encoded message of RFC 8017 for the first 80 bytes of an unlock request with key 7 and challenge 9. -/
def sigMail : Nat := 0x1d3cc0aa99f20511de3afd74955ce5fe38b6b8804046f8765ce228f0c201422a9389e17232c68c97e6edccd39dd39df0463d67aca90815b538c7df257a45a2397366df6d5ce460c83c5900be38bab1dbb5f40538d93d53e4cb3952fee0f065a8b3f19b4af7d423587b5fc952ad12ce84ae151dea032baf84d54991d99ebe0a110803e77c6df50559a3a3cd3e7a4b57e061e009288cd71738177fca1c17e83c03dfda380adc40fbc35572b134021853802a484e7cb168153cf50a25fb9b284f441a402d2beb03e0d0c6ec8cbbb3f16ea88239b7bfb3cab6d4f0d934b32573f2a9be99824990fbd7679e2eccf31d4a2b753441244aa301abecff6dce13a7c0a85482108a848f86718db06579b27053aff8f43ce87edcb596ea744438b03ad00e82a34d94ce0f03a15442b38925b0b78a5ab5fcdbe4b8381d7cff4d1f70b489264de72fa17d0c1b65c510c93006e6f0884a9fe01ca881e7b2ed7b93c4fe76f705adefd279d4ee849f97613192b77776cf10fd9b7e1a275ac7e906544b166e5bf75e4da70c00075d3b8010269b14afe094b75b6c9f75434602ccb313b3676c2365ba5e6c6a60629554eaf00be8e43c9eebc30cbfde5e93c2bf173338868a4eb284f2ab9eb0cead43b140667725c650dadbb69aa5b9e75979bb8c46c2fac771421cc87836b549c54ec15d52fc2a32c197ae774c516ab082dab47281980c00f4d657bc
/-- The machine with that unlock request, signed. -/
def rigUnlock : State := { rigMail 0x51 true with trust := { (rigMail 0x51 true).trust with mailbox := (rigMail 0x51 true).trust.mailbox ++ beOf 512 sigMail } }
/-- An object that verifies has at least 128 KiB, too much to evaluate here: its signature and its pages are met apart, on a smaller one. -/
theorem test_meets_LoaderAndMailboxEvents_text : rigText.textPages 0 (rigText.loadVa 0) obj1 = some [3] := by decide +kernel
theorem test_meets_LoaderAndMailboxEvents :
    (rigLoad []).loading 0 = true ∧ rig.loading 0 = false ∧
    ((rigLoad []).verify 0 ((rigLoad []).loadVa 0)).isOk = false ∧
    (rigLoad obj1).readImage 0 ((rigLoad obj1).loadVa 0) = some obj1 ∧ headerBad obj1 = false ∧ tablesBad obj1 = false := by decide +kernel
theorem test_meets_LoaderAndMailboxEvents_stubs :
    (∀ st ∈ [0, 1, 2], (rigPost st).trust.posts = [(0, 0x20000, 0x30000)] ∧ (rigPost st).stubPa 0 0x30000 = some (0x30000, 0x1B) ∧
      (rigPost st).hostHolds 0x30000 16 = [] ∧ getLe ((rigPost st).readAs 0x1B 0x30000 16) 8 4 = st) ∧ 1 < 2 ∧ (rigPost 1).trust.objs = [] ∧
    { rigPost 1 with mem := [] }.trust.posts = [(0, 0x20000, 0x30000)] ∧ { rigPost 1 with mem := [] }.stubPa 0 0x30000 = none := by decide +kernel
/-- What the loader reads lies in the package, or not. -/
theorem test_meets_LoaderAndMailboxEvents_reads :
    (∀ b ∈ [[], obj1], (rigLoad b).unread ((rigLoad b).awayAll noCore 0x30 ((rigLoad b).imageRanges 0 ((rigLoad b).loadVa 0))) = []) ∧
    (let s := { rigLoad [] with
      mem := memPuts (rigLoad []).mem 0x110000 (leBytes 8 (0x1B + 2 ^ 49 + 2 ^ 41))
      link := { rig.link with route := [(1, 1)], ports := [(0, up1)] }
      trust := { rig.trust with access := [(256 * 2 + 0x30, [BitVec.ofNat 256 (0xF + 2 ^ 90 + (2 ^ 33 - 1) * 2 ^ 93)])] } }
     s.loading 0 = true ∧ s.unread (s.awayAll noCore 0x30 (s.imageRanges 0 (s.loadVa 0))) ≠ []) ∧
    (rigLoad []).readImage 0 ((rigLoad []).loadVa 0) = some [] ∧ headerBad [] = true ∧ headerBad (putBytes obj1 0x80 [9]) = false ∧ tablesBad (putBytes obj1 0x80 [9]) = true ∧
    ({ rigLoad [] with mem := [] }.readImage 0 ((rigLoad []).loadVa 0)) = none ∧ { rigLoad [] with mem := [] }.awayAll noCore 0x30 ({ rigLoad [] with mem := [] }.imageRanges 0 ((rigLoad []).loadVa 0)) = [] := by decide +kernel
theorem test_meets_LoaderAndMailboxEvents_mailbox :
    (rigMail 0x50 true).trust.mbdoor = 1 ∧ (rigMail 0x50 true).trust.recovery = false ∧ 3 < 4 ∧ 255 < 256 ∧ 7 < 8 ∧ 4 ≤ 4 ∧ 63 ≠ 0 ∧ 63 < 64 ∧
    (∀ op ∈ [0x50, 0x51, 0x52, 0x60], (rigMail op true).mb 0 4 = op ∧ (rigMail op true).mb 4 2 = 0 ∧ (rigMail op true).mb 6 2 = 0 ∧ (rigMail op true).mb 0xC 4 = 0) ∧
    (rigMail 0x51 true).trust.challenge = some ((rigMail 0x51 true).mb 0x10 64) ∧ (rigMail 0x51 false).trust.challenge ≠ some ((rigMail 0x51 false).mb 0x10 64) ∧
    (rigMail 0x51 true).knownKey ((rigMail 0x51 true).mb 8 4) = true ∧ (rigMail 0x51 true).hostHolds 0x30000 16 = [] ∧ (rigMail 0x60 true).pow.outOfService = [] ∧ ((rigMail 0x60 true).iftWhy 0 ((rigMail 0x60 true).mb 8 8)) = some 1 ∧
    { rig with pow := { rig.pow with outOfService := [4] } }.pow.outOfService.contains 4 = true ∧ ∀ c ∈ rig.standCores 4, (rig.core c).groves = [] := by decide +kernel

theorem test_meets_LoaderAndMailboxEvents_unlock :
    rigUnlock.trust.mbdoor = 1 ∧ rigUnlock.trust.recovery = false ∧ rigUnlock.mb 0 4 = 0x51 ∧ rigUnlock.trust.challenge = some (rigUnlock.mb 0x10 64) ∧
    rigUnlock.knownKey (rigUnlock.mb 8 4) = true ∧ rigUnlock.mb 4 2 = 0 ∧ rigUnlock.mb 6 2 = 0 ∧ rigUnlock.mb 0xC 4 = 0 ∧
    rigUnlock.sigOk (fun _ => true) (rigUnlock.mb 8 4) ((padTo 4088 rigUnlock.trust.mailbox).take 0x50) (((padTo 4088 rigUnlock.trust.mailbox).drop 0x50).take 512) = true := by
  decide +kernel
theorem test_meets_LoaderAndMailboxEvents_ift :
    (let s := { rigMail 0x60 true with trust := { (rigMail 0x60 true).trust with mailbox := leBytes 4 0x60 ++ leBytes 2 4 ++ leBytes 2 0 ++ leBytes 8 0x60000 } }
     s.mb 0 4 = 0x60 ∧ s.mb 6 2 = 0 ∧ s.mb 4 2 = 4 ∧ (s.iftWhy 4 (s.mb 8 8)).isSome = true ∧ s.unread (s.awayAll noCore 0x30 (s.imageRanges 0 (s.mb 8 8))) = []) := by decide +kernel

/-- A guard that lane 0 alone passes. -/
def g1 : Guard := { p := 1, neg := false }
/-- The cohort with p1 set in lane 0. -/
def coP : Cohort := { co with lanes := [(0, { lane 1 with preds := 2 }), (1, lane 2)] }
/-- A launch of an unprivileged queue. -/
def rigUser : State := { rig with launches := [(1, { la with priv := false })] }
theorem test_meets_TrapEntryAndDelivery :
    rig.ctx = some rx ∧ rx.co.single = none ∧ overAllot [600, 0] rx.co.allot = some 600 ∧
    rigUser.ctx = some rx ∧ (rigUser.launches.find? rx.co.launch).any (fun la => la.priv) = false ∧ rigUser.debugHold rx.co.launch = false ∧ rx.co.kind ≠ .trap ∧
    { rx with co := coP }.en g1 = [0] ∧ (rigWith coP).ready { rx with co := coP } g1 [0, 1] [0, 1] = true ∧ (coP.reg64 0 0).toNat % 4 ≠ 0 ∧
    2 ^ 48 ≤ ({ coP with regs := [(0, .uniform 0), (1, .uniform 0x10000)] }.reg64 0 0).toNat ∧
    rig.cohort? 0 0 = some co ∧ (rigWith coT).cohort? 0 0 = some coT ∧ rig.launches.find? co.launch = some la ∧ la.isStaged = false ∧ la.pkt.trapEnt ≠ 0 ∧ progLaunch.pkt.trapEnt = 0 := by decide +kernel
/-- An image of 16 registers that waits. -/
def stop2 : Stopped := { stop1 with cohort := { co with allot := 16 } }
/-- The bytes of the frame for it. -/
def wroteBytes (s : State) : List Byte :=
  (s.cohortRec stop2.core stop2.cohort stop2.pc stop2.faults 1 stop2.sev).bytes stop2.tick 0 false ++
    ((List.range 32).flatMap fun l => leBytes 2 ((stop2.faults.find? l).elim 0 fun f => f.code)) ++
    ((List.range 32).flatMap fun l => leBytes 8 ((stop2.faults.find? l).elim 0 fun f => f.addr)) ++ List.replicate 128 0 ++ s.imageBytes stop2
/-- What delivery writes for it, through a page table or without one. -/
def wrote (s : State) : State × Option Flt := s.vaWrite 0 0 0 (lineFuel (wroteBytes s).length) (la.frameVa (s.imgTrailing stop2)) (wroteBytes s)
/-- The lines delivery writes that the host holds. -/
def wroteHeld (s : State) : List Nat := s.vaHeld 0 0 0 (lineFuel (wroteBytes s).length) (la.frameVa (s.imgTrailing stop2)) (wroteBytes s).length
/-- The launch of the witness with a frame open. -/
def rigFramed (gib : DWord) : State :=
  { rig with launches := [(1, { la with waiting := [stop1] })], parts := [(0, { Part.reset 0 with root := 0x100000, pcal := gib })] }
theorem test_meets_TrapEntryAndDelivery_room :
    (∀ y ∈ co.lanes, y.2.lost (List.range co.allot) = false) ∧ la.frames = [] ∧ la.waiting = [] ∧ co.single = none ∧ co.kind ≠ .trap ∧ coT.kind = .trap ∧
    (rigFramed 1).imgTrailing stop1 = (rigFramed 1).imgTrailing stop2 ∧ (rigFramed 1).calRoom 0 ((rigFramed 1).imageRoom stop2) = true ∧ (rigFramed 0).calRoom 0 ((rigFramed 0).imageRoom stop2) = false := by decide +kernel
theorem test_meets_TrapEntryAndDelivery_frame :
    rigOut.launches.find? 1 = some { la with waiting := [stop1] } ∧ (wrote rigOut).2 = none ∧ wroteHeld rigOut = [] ∧ ((wrote rigOut).1.core 0).keptFor stop2.cohort = none ∧ ((wrote rigOut).1.modCore 0 fun k => k.release none).cohortFits 0 1 false 16 = true ∧
    ((wrote rigOut).1.core 0).freeSlot = some 0 ∧ ((wrote rigOut).1.core 0).regSweep = false ∧ { k0 with kept := [(5, (1, false, 16, 1))] }.keptFor stop2.cohort = some 5 ∧ ((wrote rigOut).1.core 0).nextGen = some 2 ∧
    (wrote { on0 rigOut (fun k => { k with tlb := [] }) with mem := [] }).2.isSome = true := by decide +kernel

/-- The machine before a step: a move at the PC, or a word that is none. -/
def rigStep (w : List Word) : State :=
  { rigRep with mem := memPuts rig.mem 0x20000 (w.flatMap fun w => leBytes 4 w.toNat), cur := none }
/-- What stands between the fetch and the issue. -/
def fetched (w : List Word) : State := { rigStep w with cur := some (0, 0) }.keepLines 0 0 0x20000 w.length
theorem test_meets_StepRunsDecodedInstruction :
    (∀ w ∈ [encode (.mov g0 20 1), [0xFFFFFFFF, 0, 0, 0, 0]], (rigStep w).due = none ∧ (rigStep w).pow.state = .run ∧ (rigStep w).trust.recovery = false ∧ (rigStep w).stepN % 2 = 0 ∧
      (rigStep w).next1 = none ∧ (rigStep w).nextIssue = some (0, 0) ∧ (rigStep w).atSlot0 (0, 0) = { rigStep w with cur := some (0, 0) } ∧ { rigStep w with cur := some (0, 0) }.ctx = some rx ∧ (rigStep w).isHeld co = false ∧ co.birthFault = none ∧
      { rigStep w with cur := some (0, 0) }.atStub rx = false ∧ { rigStep w with cur := some (0, 0) }.fetchInstr 0 0 0x20000 = .ok w ∧ (fetched w).bpHit rx = none) ∧
    decodeWords (encode (.mov g0 20 1)) = .ok (.mov g0 20 1) ∧ (decodeWords [0xFFFFFFFF, 0, 0, 0, 0]).isOk = false ∧
    { rig with agenda := [(0, .hotReset)] }.due = some (.hotReset, []) ∧ (Instr.hotReset).isEvent = true ∧ rig.hears .hotReset = true := by decide +kernel
theorem test_meets_EveryStepKeepsTheInvariant : rig.Inv ∧ ∃ t, step rig = .next t := ⟨test_rig_inv, exists_of_step (by decide +kernel)⟩
where
  exists_of_step (h : (match step rig with | .next _ => true | _ => false) = true) : ∃ t, step rig = .next t := by
    revert h; cases step rig <;> simp
theorem test_meets_NoRunStops : rig.Inv := test_rig_inv
theorem test_meets_EncodingRoundTrip : (Instr.mov g0 511 511).isEvent = false ∧ (Instr.mov g0 511 511).wf = true ∧ (Instr.mov g0 512 0).wf = false := by decide +kernel
theorem test_meets_ScrubEvents :
    5 < 2 ^ 30 ∧ rig.cohort? 0 (5 / 2 ^ 14) = some co ∧ co.lanes.find? (5 / 2 ^ 9 % 32) = some (lane 1) ∧
    { rig with poisoned := [5] }.poisoned.contains 5 = true ∧
    ((on0 rig fun k => { k with spA := [(2, { gran [] with poison := true })] }).core 0).gran .a 2 = { gran [] with poison := true } ∧
    ∀ sp ∈ [true, false], NMap.find? ((on0 rig fun k => { k with records := [(1, { rec1 0 with spilled := sp })] }).core 0).records 1 = some { rec1 0 with spilled := sp } := by decide +kernel
end Sys2Proof.Tests
end

section
/-! What a step does with what it chooses (R24, R25, R168, R181), and what the passing of time leaves (R4, R357). -/
namespace Sys2Proof.Machine

/-! The choice and its outcome -/

/-- Every instruction and every event answers a next state, in every state. -/
theorem exec_next (i : Instr) (s : State) : ∃ t, exec i s = .next t := by
  cases i <;> exact ⟨_, rfl⟩
/-- An instruction that the step chooses is performed, and time passes. -/
theorem step_of_choose_run (s t : State) (i : Instr) (h : s.choose = .run t i) : ∃ u, exec i t = .next u ∧ step s = .next u.later := by
  obtain ⟨u, hu⟩ := exec_next i t
  exact ⟨u, hu, by simp only [step, h, hu]⟩
/-- An event that is due, and reaches the device, is chosen before all else. -/
theorem State.choose_of_due (s : State) (e : Instr) (rest : List (Nat × Instr)) (h : s.due = some (e, rest)) (he : e.isEvent = true) (hh : s.hears e = true) :
    s.choose = .run { s with agenda := rest } e := by
  simp only [State.choose, h, he, hh, Bool.not_true, Bool.false_eq_true, if_false, if_true]
/-- At an even step of a running device with nothing due, what a cohort runs is chosen. -/
theorem State.choose_of_issueNext (s t : State) (i : Instr) (hd : s.due = none) (hp : s.pow.state = .run) (hr : s.trust.recovery = false)
    (he : s.stepN % 2 = 0) (h : s.issueNext = .run t i) : s.choose = .run t i := by
  simp [State.choose, hd, hp, hr, he, h, Choice.orElse]

/-! The issue -/

/-- With no cohort noted for issue slot 1 there is no issue in it. -/
theorem State.atSlot1_of_next1_none (s : State) (h : s.next1 = none) : s.atSlot1 = none := by simp [State.atSlot1, h]
/-- The state `p` is that of the issue which is next: of slot 0, or of slot 1 after it (R25, R317). -/
def State.IssuesAt (s p : State) : Prop := (s.next1 = none ∧ ∃ c, s.nextIssue = some c ∧ p = s.atSlot0 c) ∨ s.atSlot1 = some p
/-- A cohort that neither halts nor faults at its issue, and is at no stub, has its words fetched and decoded. -/
theorem State.issueNext_eq_issueOf (s p : State) (x : Ctx) (hs : s.IssuesAt p) (hx : p.ctx = some x) (hh : p.isHeld x.co = false)
    (hb : x.co.birthFault = none) (hst : p.atStub x = false) : s.issueNext = p.issueOf x := by
  rcases hs with ⟨h1, c, hc, rfl⟩ | h1
  · simp [State.issueNext, s.atSlot1_of_next1_none h1, hc, hx, hh, hb, hst]
  · simp [State.issueNext, h1, Option.filter, hx, hh, hb, hst]
/-- What runs when the words have been fetched and no breakpoint matches: the instruction they decode to, or the trap for words that are none (R168, R381). -/
theorem State.issueOf_fetched (p : State) (x : Ctx) (ws : List Word) (hf : p.fetchInstr x.core x.part x.pc.toNat = .ok ws)
    (hb : (p.keepLines x.core x.part x.pc.toNat ws.length).bpHit x = none) :
    (∀ i, decodeWords ws = .ok i → p.issueOf x = .run (p.keepLines x.core x.part x.pc.toNat ws.length) i) ∧
    ∀ r, decodeWords ws = .error r → p.issueOf x = .run (p.keepLines x.core x.part x.pc.toNat ws.length) (.invalidInstruction ws (rejectNumber r)) := by
  constructor <;> intro y hy <;> simp [State.issueOf, hf, hb, hy]

/-! The passing of time -/

/-- A wait-table entry that a chain node takes changes the cores alone (R402). -/
theorem State.promote_eq (s : State) (core : Nat) : ∃ cs, s.promote core = { s with cores := cs } := by
  unfold State.promote
  dsimp only
  split
  · exact ⟨s.cores, rfl⟩
  · split
    · exact ⟨s.cores, rfl⟩
    · split
      · exact ⟨s.cores, rfl⟩
      · exact ⟨_, rfl⟩
/-- A fold of steps that each change the cores alone does so too. -/
theorem State.foldl_cores_eq {α : Type} (f : State → α → State) (hf : ∀ s a, ∃ cs, f s a = { s with cores := cs }) (l : List α) (s : State) :
    ∃ cs, l.foldl f s = { s with cores := cs } := by
  induction l generalizing s with
  | nil => exact ⟨s.cores, rfl⟩
  | cons a t ih =>
    obtain ⟨cs, ha⟩ := hf s a
    obtain ⟨cs', ht⟩ := ih (f s a)
    exact ⟨cs', by rw [List.foldl_cons, ht, ha]⟩
/-- Settling the chains changes the cores alone (R402). -/
theorem State.settleChains_eq (s : State) : ∃ cs, s.settleChains = { s with cores := cs } := by
  unfold State.settleChains
  refine State.foldl_cores_eq _ (fun s x => ?_) s.cores s
  exact State.foldl_cores_eq _ (fun s _ => s.promote_eq x.1) _ s
/-- The correction of the rate leaves the clock. -/
theorem State.pace_mhz (s : State) (dt : Nat) : (s.pace dt).2.mhz = s.pow.mhz := by
  unfold State.pace
  dsimp only
  split
  · rfl
  · split <;> rfl
/-- With no offset to take up, %tick goes on by the time that passes (R357). -/
theorem State.pace_of_no_drift (s : State) (dt : Nat) (h : s.pow.drift = 0) : (s.pace dt).1 = dt := by simp [State.pace, h]
/-- What a step settles before the chains and before time goes on. -/
def State.settled (s : State) : State :=
  s.settleBoot.settleFrames.settleImages.settleDebug.settleComms.settleHops.settleWaiting.settleLogs.settleTwins.settleEnded.settleBins
/-- Time goes on by a step, with the telemetry, the scans and the renewals that it brings. -/
def State.elapse (s : State) : State :=
  let dt := (s.pace (Config.stepTime s.stepN)).1
  let s := { s with pow := (s.pace (Config.stepTime s.stepN)).2 }.telemetry (s.tick + dt)
  let s := (s.scansBefore (s.tick + dt)).renewalsBefore s (s.tick + dt)
  { s with cyc := s.cyc + Config.stepTime s.stepN * s.pow.mhz, tick := s.tick + dt, stepN := s.stepN + 1 }
theorem State.later_eq (s : State) : s.later = s.settled.settleChains.elapse := by
  unfold State.later State.settled State.elapse
  rfl
theorem State.elapse_stepN (s : State) : s.elapse.stepN = s.stepN + 1 := rfl
theorem State.elapse_tick (s : State) : s.elapse.tick = s.tick + (s.pace (Config.stepTime s.stepN)).1 := rfl
/-- The cycles of a step are counted at the clock that was set before it. -/
theorem State.elapse_cyc (s : State) : s.elapse.cyc = s.cyc + Config.stepTime s.stepN * s.pow.mhz := by
  rw [← s.pace_mhz (Config.stepTime s.stepN)]
  rfl

/-- Settles O56: an issue that is next is chosen, fetched and decoded; `exec` answers every instruction with a next state; and what a step adds leaves the counters but for its time. -/
theorem stepRunsDecodedInstruction : Obligations.StepRunsDecodedInstruction := by
  refine ⟨?_, ?_, ?_⟩
  · rintro s p t x ws hdue hpow hrec heven hat hctx hheld hbirth hstub hfetch rfl hbp
    have hissue : s.issueNext = p.issueOf x := s.issueNext_eq_issueOf p x hat hctx hheld hbirth hstub
    obtain ⟨hok, herr⟩ := p.issueOf_fetched x ws hfetch hbp
    have hrun : ∀ t i, p.issueOf x = .run t i → ∃ u, exec i t = .next u ∧ step s = .next u.later := fun t i h =>
      step_of_choose_run s t i (s.choose_of_issueNext t i hdue hpow hrec heven (hissue.trans h))
    exact ⟨fun i hi => hrun _ i (hok i hi), fun r hr => hrun _ _ (herr r hr)⟩
  · intro s e rest hdue hevent hhears
    exact step_of_choose_run s _ e (s.choose_of_due e rest hdue hevent hhears)
  · intro s t
    obtain ⟨cs, hchains⟩ := s.settled.settleChains_eq
    have hlater : s.later = ({ t with cores := cs } : State).elapse := s.later_eq.trans (congrArg State.elapse hchains)
    clear_value t
    rw [hlater]
    refine ⟨State.elapse_stepN _, State.elapse_cyc _, fun hdrift => ?_⟩
    rw [State.elapse_tick, State.pace_of_no_drift { t with cores := cs } _ hdrift]

end Sys2Proof.Machine
end

section
/-! What logging, thawing and terminating leave of partitions and launches (R369, R370, R379, R406). -/
namespace Sys2Proof

/-- A listed entry is in its table. -/
theorem NMap.mem_of_find? {α : Type} (m : NMap α) (n : Nat) (x : α) (h : m.find? n = some x) : (n, x) ∈ m := by
  induction m with
  | nil => simp at h
  | cons y t ih =>
    obtain ⟨k, v⟩ := y
    by_cases hk : k = n
    · simp only [NMap.find?, hk, if_true, Option.some.injEq] at h
      simp [hk, h]
    · simp only [NMap.find?, hk, if_false] at h
      exact List.mem_cons_of_mem _ (ih h)

end Sys2Proof

namespace Sys2Proof.Machine

/-! Partitions -/

@[simp] theorem State.part_modPart (s : State) (p : Nat) (f : Part → Part) : (s.modPart p f).part p = f (s.part p) := by
  simp [State.part, NMap.getD]

/-! The fault log -/

/-- What a fold keeps when each of its steps keeps it. -/
theorem foldl_keeps {α β : Type} (g : State → β) (f : State → α → State) (hf : ∀ s a, g (f s a) = g s) (l : List α) (s : State) : g (l.foldl f s) = g s := by
  induction l generalizing s with
  | nil => rfl
  | cons a t ih => rw [List.foldl_cons, ih, hf]
/-- Lines that stand as their ciphertext again are no register of a partition (R348). -/
@[simp] theorem State.unseal_parts (s : State) (leaf : DWord) (pa len : Nat) : (s.unseal leaf pa len).parts = s.parts := by
  unfold State.unseal
  split
  · exact foldl_keeps State.parts _ (fun s n => by dsimp only; split <;> rfl) _ s
  · rfl
@[simp] theorem State.unseal_launches (s : State) (leaf : DWord) (pa len : Nat) : (s.unseal leaf pa len).launches = s.launches := by
  unfold State.unseal
  split
  · exact foldl_keeps State.launches _ (fun s n => by dsimp only; split <;> rfl) _ s
  · rfl
@[simp] theorem State.markKey_parts (s : State) (leaf : DWord) (pa len : Nat) : (s.markKey leaf pa len).parts = s.parts := by
  unfold State.markKey
  dsimp only
  split <;> rfl
@[simp] theorem State.markKey_launches (s : State) (leaf : DWord) (pa len : Nat) : (s.markKey leaf pa len).launches = s.launches := by
  unfold State.markKey
  dsimp only
  split <;> rfl
@[simp] theorem State.msix_parts (s : State) (p v : Nat) : (s.msix p v).parts = s.parts := by
  unfold State.msix
  split <;> rfl
@[simp] theorem State.msix_launches (s : State) (p v : Nat) : (s.msix p v).launches = s.launches := by
  unfold State.msix
  split <;> rfl
theorem State.part_of_parts (s t : State) (p : Nat) (h : t.parts = s.parts) : t.part p = s.part p := by simp only [State.part, h]
/-- The partition's registers but for those of its fault log ring (R369, R370). -/
def Part.SameButRing (q q' : Part) : Prop := ∃ head drops ovr pend, q' = { q with head := head, drops := drops, ovr := ovr, pend := pend }
/-- HEAD moves on once a record is in memory, and the host is told. -/
theorem State.part_ringWritten (s t : State) (p : Nat) (h : t.parts = s.parts) :
    (s.part p).SameButRing (((t.modPart p fun q => { q with head := (q.head + 1) % 2 ^ 32, ovr := false }).msix p 0).part p) := by
  rw [State.part_of_parts _ _ p (State.msix_parts _ _ _), State.part_modPart, State.part_of_parts s t p h]
  exact ⟨_, _, _, _, rfl⟩
/-- A record goes into the ring or is counted as dropped; the partition's other registers stay (R370). -/
theorem State.part_logAt (s : State) (p : Nat) (r : FaultRec) (tick : Nat) : (s.part p).SameButRing ((s.logAt p r tick).part p) := by
  unfold State.logAt
  extract_lets q n t
  split
  · rw [State.part_modPart]
    exact ⟨_, _, _, _, rfl⟩
  · exact s.part_ringWritten t p (by rw [State.markKey_parts, State.writeMem_parts, State.unseal_parts])
/-- A record goes into the ring or waits for the host; the partition's other registers stay (R328, R370). -/
theorem State.part_log (s : State) (p : Nat) (r : FaultRec) : (s.part p).SameButRing ((s.log p r).part p) := by
  unfold State.log
  dsimp only
  split
  · exact s.part_logAt p r s.tick
  · rw [State.part_modPart]
    exact ⟨_, _, _, _, rfl⟩
@[simp] theorem State.logAt_launches (s : State) (p : Nat) (r : FaultRec) (tick : Nat) : (s.logAt p r tick).launches = s.launches := by
  unfold State.logAt
  extract_lets q n t
  split
  · exact s.modPart_launches p _
  · rw [State.msix_launches, State.modPart_launches, State.markKey_launches, State.writeMem_launches, State.unseal_launches]
@[simp] theorem State.log_launches (s : State) (p : Nat) (r : FaultRec) : (s.log p r).launches = s.launches := by
  unfold State.log
  dsimp only
  split <;> simp
@[simp] theorem State.part_log_pcal (s : State) (p : Nat) (r : FaultRec) : ((s.log p r).part p).pcal = (s.part p).pcal := by
  obtain ⟨_, _, _, _, h⟩ := s.part_log p r
  rw [h]
@[simp] theorem State.part_log_frozen (s : State) (p : Nat) (r : FaultRec) : ((s.log p r).part p).frozen = (s.part p).frozen := by
  obtain ⟨_, _, _, _, h⟩ := s.part_log p r
  rw [h]

/-! Freeze and thaw -/

@[simp] theorem State.thaw_launches (s : State) (p why : Nat) : (s.thaw p why).launches = s.launches := by
  unfold State.thaw
  split <;> simp
/-- A thaw leaves the caldera (R406). -/
@[simp] theorem State.part_thaw_pcal (s : State) (p why : Nat) : ((s.thaw p why).part p).pcal = (s.part p).pcal := by
  unfold State.thaw
  split <;> simp
/-- A partition is not frozen once thawed (R406). -/
@[simp] theorem State.part_thaw_frozen (s : State) (p why : Nat) : ((s.thaw p why).part p).frozen = false := by
  unfold State.thaw
  split
  · simp
  · simpa using ‹¬(s.part p).frozen = true›

/-! The end of launches -/

/-- Counting a termination touches no launch. -/
@[simp] theorem State.countTerm_launches (s : State) (p code : Nat) : (s.countTerm p code).launches = s.launches := by
  unfold State.countTerm
  split <;> simp
@[simp] theorem State.restStand_launches (s : State) (core : Nat) : (s.restStand core).launches = s.launches := by
  unfold State.restStand
  split <;> rfl
/-- What ends with a launch is not the launches' table (R379). -/
@[simp] theorem State.endGroves_launches (s : State) (launch : Nat) : (s.endGroves launch).launches = s.launches := by
  unfold State.endGroves
  dsimp only
  rw [foldl_keeps State.launches _ State.restStand_launches]
  exact foldl_keeps State.launches _ (fun s n => s.schedule_launches _) _ s
/-- A launch is terminated: it has ended, with nothing left to run (R379). -/
def Launch.terminated (la : Launch) : Launch := { la with frames := [], waiting := [], staged := [], stagedKeys := [], ended := true, failed := true }
/-- The launches after one is terminated: it alone has changed, if it is there and had not ended. -/
theorem State.terminate_launches (s : State) (launch : Nat) (r : FaultRec) :
    (s.terminate launch r).launches = if (s.launches.find? launch).any (fun la => !la.ended) then s.launches.adj launch Launch.terminated else s.launches := by
  unfold State.terminate
  cases h : s.launches.find? launch with
  | none => rfl
  | some la =>
    cases hend : la.ended with
    | true => simp [hend]
    | false =>
      simp [hend]
      rfl
/-- Other launches stay when one is terminated. -/
theorem State.find?_terminate_other (s : State) (launch l : Nat) (r : FaultRec) (h : l ≠ launch) :
    (s.terminate launch r).launches.find? l = s.launches.find? l := by
  rw [State.terminate_launches]
  split
  · unfold NMap.adj
    split
    · exact NMap.find?_put_other _ _ _ _ h
    · rfl
  · rfl
/-- A terminated launch has ended. -/
theorem State.find?_terminate_same (s : State) (launch : Nat) (r : FaultRec) (la : Launch)
    (h : (s.terminate launch r).launches.find? launch = some la) : la.ended = true := by
  rw [State.terminate_launches] at h
  cases hl : s.launches.find? launch with
  | none => simp [hl] at h
  | some lb =>
    cases hend : lb.ended with
    | true => simp_all
    | false =>
      simp only [hl, Option.any_some, hend, Bool.not_false, if_true, NMap.adj, NMap.find?_put_same, Option.some.injEq] at h
      rw [← h]
      rfl
/-- Once all of a list are terminated, a launch has ended, or is none of them and as it was. -/
theorem State.find?_terminate_all (rec_ : State → Nat → FaultRec) (ls : List Nat) (s : State) (l : Nat) (la : Launch)
    (h : (ls.foldl (fun s l => s.terminate l (rec_ s l)) s).launches.find? l = some la) : la.ended = true ∨ l ∉ ls ∧ s.launches.find? l = some la := by
  induction ls generalizing s with
  | nil => exact .inr ⟨List.not_mem_nil, h⟩
  | cons a t ih =>
    rcases ih _ h with hend | ⟨hnot, hfind⟩
    · exact .inl hend
    · by_cases hla : l = a
      · subst hla
        exact .inl (s.find?_terminate_same l _ la hfind)
      · rw [s.find?_terminate_other a l _ hla] at hfind
        exact .inr ⟨by simp [hla, hnot], hfind⟩
/-- After a KILL every launch of the partition has ended (R406). -/
theorem State.kill_ended (s : State) (p l : Nat) (la : Launch) (h : (s.kill p).launches.find? l = some la) (hp : la.part = p) : la.ended = true := by
  unfold State.kill at h
  rw [State.thaw_launches] at h
  rcases State.find?_terminate_all (fun s l => { (sysRec 3 3 0x2002 0x7000 p 0 0 (fld (s.part p).pcal 6 0) 0) with launch := l }) _ s l la h with hend | ⟨hnot, hfind⟩
  · exact hend
  · by_contra hend
    refine hnot (List.mem_map.mpr ⟨(l, la), List.mem_filter.mpr ⟨NMap.mem_of_find? _ _ _ hfind, ?_⟩, rfl⟩)
    simpa [hp] using hend

end Sys2Proof.Machine
end

section
/-! The registers of a partition and the debug commands, an equation per case (R136, R323, R324, R369, R370, R385 to R387, R399, R406, R434). -/
namespace Sys2Proof.Machine

/-! Registers -/

theorem fld_lt (w : DWord) (hi lo : Nat) : fld w hi lo < 2 ^ (hi + 1 - lo) := Nat.mod_lt _ (Nat.two_pow_pos _)
/-- The base written to PCAL stands beside any size (R136). -/
theorem fld_pcal_base (x size : Nat) (hx : x < 2 ^ 22) : fld (putFld (putFld 0 51 30 x) 6 0 size) 51 30 = x := by
  simp only [fld, putFld, bitsN, BitVec.toNat_ofNat]
  omega
/-- The value that a write leaves in PCAL: a size above 64 is not taken (R136). -/
def pcalNew (old v : DWord) : DWord := putFld (putFld 0 51 30 (fld v 51 30)) 6 0 (if 64 < fld v 6 0 then fld old 6 0 else fld v 6 0)
/-- PCAL takes a write that keeps its base and does not shrink it, or any while nothing is in the caldera; another is ignored (R136, R406). -/
theorem State.pcalWrite_eq (s : State) (p : Nat) (v : DWord) :
    let old := (s.part p).pcal
    let size := if 64 < fld v 6 0 then fld old 6 0 else fld v 6 0
    let u := s.modPart p fun q => { q with pcal := pcalNew old v }
    s.pcalWrite p v = if (fld v 51 30 = fld old 51 30 ∧ fld old 6 0 ≤ size) ∨ s.calBytes p = 0 then (if fld old 6 0 < size then u.thaw p 1 else u) else s := by
  intro old size u
  have hbase : fld (putFld (putFld 0 51 30 (fld v 51 30)) 6 0 size) 51 30 = fld v 51 30 := fld_pcal_base _ _ (fld_lt v 51 30)
  have hcond : ((fld (putFld (putFld 0 51 30 (fld v 51 30)) 6 0 size) 51 30 != fld old 51 30 || decide (size < fld old 6 0)) && s.calBytes p != 0) = true ↔
      ¬((fld v 51 30 = fld old 51 30 ∧ fld old 6 0 ≤ size) ∨ s.calBytes p = 0) := by
    rw [hbase]
    simp only [Bool.and_eq_true, Bool.or_eq_true, bne_iff_ne, decide_eq_true_eq]
    omega
  unfold State.pcalWrite
  exact (if_congr hcond rfl rfl).trans (ite_not _ _ _)
/-- A LOG of FLOGCFG that is not one of those allowed keeps the one before (R369). -/
theorem State.flogcfgWrite_eq (s : State) (p : Nat) (v : DWord) :
    s.flogcfgWrite p v = s.modPart p fun q => { q with
      flogcfg := putFld (putFld 0 51 12 (fld v 51 12)) 4 0 (if fld v 4 0 = 0 ∨ (6 ≤ fld v 4 0 ∧ fld v 4 0 ≤ 16) then fld v 4 0 else fld (s.part p).flogcfg 4 0)
      head := 0, tail := 0, drops := 0 } := by
  simp [State.flogcfgWrite, State.modPart]
/-- A change of a partition depends on the partition as it is alone. -/
theorem State.modPart_congr (s : State) (p : Nat) (f g : Part → Part) (h : f (s.part p) = g (s.part p)) : s.modPart p f = s.modPart p g := by
  simp only [State.modPart, h]
/-- FLOGTAIL takes a value that does not pass HEAD (R370). -/
theorem State.flogtailWrite_taken (s : State) (p : Nat) (v : DWord)
    (h : (fld v 31 0 + 2 ^ 32 - (s.part p).tail) % 2 ^ 32 ≤ ((s.part p).head + 2 ^ 32 - (s.part p).tail) % 2 ^ 32) :
    s.flogtailWrite p v = s.modPart p fun q => { q with tail := fld v 31 0, drops := 0 } :=
  s.modPart_congr p _ _ (if_neg (Nat.not_lt.mpr h))
/-- A value that passes HEAD is ignored (R370). -/
theorem State.flogtailWrite_ignored (s : State) (p : Nat) (v : DWord)
    (h : ((s.part p).head + 2 ^ 32 - (s.part p).tail) % 2 ^ 32 < (fld v 31 0 + 2 ^ 32 - (s.part p).tail) % 2 ^ 32) :
    s.flogtailWrite p v = s.modPart p fun q => q :=
  s.modPart_congr p _ _ (if_pos h)
/-- A partition's requester reaches neither a package register nor another partition's block (R323). -/
theorem State.devReg_none (s : State) (who : Nat) (hw : who < 16) (n : Nat) (hn : n < 4096 ∨ n / 4096 ≠ who + 1) : s.devReg who n = none := by
  have hpf : isPf who = false := by simp [isPf]; omega
  have hpart : s.partOf who = some who := by simp [State.partOf, hw]
  have hblock : ¬n < 4096 → who ≠ n / 4096 - 1 := by omega
  by_cases h : n < 4096
  · simp [State.devReg, h, hpf]
  · simp [State.devReg, h, hpf, hpart, hblock h]
theorem State.writeReg_none (s : State) (who n : Nat) (v : DWord) (h : s.devReg who n = none) : s.writeReg who n v = s := by
  rw [State.writeReg, h]
theorem State.writeReg_part (s : State) (who n : Nat) (v : DWord) (p : Nat) (r : PReg) (h : s.devReg who n = some (.part p r)) : s.writeReg who n v = s.writeP who p r v := by
  rw [State.writeReg, h]
theorem State.writeReg_pkg (s : State) (who n : Nat) (v : DWord) (r : GReg) (h : s.devReg who n = some (.pkg r)) : s.writeReg who n v = s.writeG r v := by
  rw [State.writeReg, h]

/-! Stages held and released -/

theorem State.haltStage_refused (s : State) (p launch arg : Nat) (la : Launch) (h : s.launches.find? launch = some la) (hp : la.part ≠ p) :
    s.haltStage p launch arg = s.dbgRefuse p 0 := by simp [State.haltStage, h, hp]
theorem State.haltStage_held (s : State) (p launch arg : Nat) (la : Launch) (h : s.launches.find? launch = some la) (hp : la.part = p) :
    s.haltStage p launch arg =
      ((((s.modLaunch launch fun la => la.holdStages arg).holdRecords launch).haltHeld launch (arg % 16)).haltEvicted p launch (arg % 16)).dbgDone p 0 := by
  simp [State.haltStage, h, hp]
theorem State.releaseStages_refused (s : State) (p launch arg : Nat) (la : Launch) (h : s.launches.find? launch = some la) (hp : la.part ≠ p) :
    s.releaseStages p launch arg = s.dbgRefuse p 0 := by simp [State.releaseStages, h, hp]
/-- Released stages: their records and their halted images go on (R385). -/
theorem State.releaseStages_freed (s : State) (p launch arg : Nat) (la : Launch) (h : s.launches.find? launch = some la) (hp : la.part = p) :
    let free := fun (r : Record) => if r.launch = launch && bitN arg r.stage then { r with held := false } else r
    let a := s.modLaunch launch fun la => { la with held := la.held.filter fun x => !bitN arg x.1 }
    let b := { a with cores := a.cores.map fun (x : Nat × Core) => (x.1, { x.2 with records := x.2.records.map fun (y : Nat × Record) => (y.1, free y.2) }) }
    s.releaseStages p launch arg = ((b.part p).halted.foldl (fun (s : State) (x : Nat × Stopped) =>
      if x.2.cohort.launch == launch && bitN arg x.2.cohort.stage then s.restoreHalted p x.1 x.2 false else s) b).dbgDone p 0 := by
  intro free a b
  unfold State.releaseStages
  rw [h]
  exact if_neg (by simp [hp])

/-! Commands on a halted image -/

/-- LIST gives each halted image's id, launch, stage, whether a handler's, and code (R385). -/
theorem State.listHalted_eq (s : State) (p : Nat) :
    let hs := (s.part p).halted.take 512
    let entry := fun (x : Nat × Stopped) =>
      leBytes 8 (x.1 + x.2.cohort.launch * 2 ^ 16 + x.2.cohort.stage * 2 ^ 32 + (if x.2.cohort.kind = .handler then 2 ^ 34 else 0) + x.2.code * 2 ^ 48)
    s.listHalted p = (s.modPart p fun q => { q with dbgdata := padTo 4096 (hs.flatMap entry) }).dbgDone p hs.length := by
  have hbit : ∀ k : Kind, (k == .handler).toNat * 2 ^ 34 = if k = .handler then 2 ^ 34 else 0 := by
    intro k
    by_cases hk : k = .handler <;> simp [hk]
  unfold State.listHalted
  simp only [hbit]

theorem State.onHalted_none (s : State) (p id : Nat) (f : Stopped → State) (h : (s.part p).halted.find? id = none) : s.onHalted p id f = s.dbgRefuse p 0 := by
  simp [State.onHalted, h]
theorem State.onHalted_some (s : State) (p id : Nat) (f : Stopped → State) (st : Stopped) (h : (s.part p).halted.find? id = some st) : s.onHalted p id f = f st := by
  simp [State.onHalted, h]
theorem State.onImage_none (s : State) (p op id arg : Nat) (f : Stopped → State) (h : (s.part p).halted.find? id = none) :
    s.onImage p op id arg f = s.dbgRefuse p 0 := s.onHalted_none p id _ h
/-- A command on an image that is not written yet waits, busy (R371, R384). -/
theorem State.onImage_waits (s : State) (p op id arg : Nat) (f : Stopped → State) (st : Stopped) (h : (s.part p).halted.find? id = some st) (hc : st.cnts = none) :
    s.onImage p op id arg f = (s.dbg p 1 0).modPart p fun q => { q with dbgwait := some (op, id, arg) } := by
  simp [State.onImage, s.onHalted_some p id _ st h, hc]
theorem State.onImage_written (s : State) (p op id arg : Nat) (f : Stopped → State) (st : Stopped) (h : (s.part p).halted.find? id = some st) (hc : st.cnts ≠ none) :
    s.onImage p op id arg f = f st := by
  simp [State.onImage, s.onHalted_some p id _ st h, hc]
theorem State.readImg_written (s : State) (p id off : Nat) (st : Stopped) (h : (s.part p).halted.find? id = some st) (hc : st.cnts ≠ none) :
    s.readImg p id off = if off % 4096 = 0 then
      (s.modPart p fun q => { q with dbgdata := padTo 4096 (((s.haltedBytes st).drop off).take 4096) }).dbgDone p 0 else s.dbgRefuse p 0 := by
  unfold State.readImg
  rw [s.onImage_written p 4 id off _ st h hc]
  split <;> simp_all

/-- The bytes of an image after WRITEIMG at an offset (R74, R385). -/
def imageAfter (handler : Bool) (off : Nat) (old data : List Byte) : List Byte :=
  old.zipIdx.map fun x => if off ≤ x.2 ∧ x.2 < off + 4096 then imageByte handler x.2 x.1 (data.getD (x.2 - off) 0) else x.1
theorem State.writeImg_written (s : State) (p id off : Nat) (st : Stopped) (h : (s.part p).halted.find? id = some st) (hc : st.cnts ≠ none) :
    s.writeImg p id off = (s.modPart p fun q => { q with halted := q.halted.put id { st with
      edit := imageAfter (st.cohort.kind == .handler) off (padTo st.cohort.imageMax (s.haltedBytes st)) (s.part p).dbgdata } }).dbgDone p 0 :=
  s.onImage_written p 5 id off _ st h hc
theorem length_imageAfter (handler : Bool) (off : Nat) (old data : List Byte) : (imageAfter handler off old data).length = old.length := by
  simp [imageAfter]
/-- A byte outside the block written, or read-only, stays (R74). -/
theorem imageAfter_kept (handler : Bool) (off : Nat) (old data : List Byte) (i : Nat) (h : i < off ∨ off + 4096 ≤ i ∨ imageRO handler i = true) :
    (imageAfter handler off old data)[i]? = old[i]? := by
  have hbyte : ∀ b : Byte, (if off ≤ i ∧ i < off + 4096 then imageByte handler i b (data.getD (i - off) 0) else b) = b := by
    intro b
    split
    · have hro : imageRO handler i = true := (h.resolve_left (by omega)).resolve_left (by omega)
      simp [imageByte, hro]
    · rfl
  rw [imageAfter, List.getElem?_map, List.getElem?_zipIdx]
  cases old[i]? with
  | none => rfl
  | some b => simpa using hbyte b
/-- A byte of the block written that is neither read-only nor of a CNT word is DBGDATA's (R74). -/
theorem imageAfter_taken (handler : Bool) (off : Nat) (old data : List Byte) (i : Nat) (hlo : off ≤ i) (hhi : i < off + 4096) (hlen : i < old.length)
    (hro : imageRO handler i = false) (hcnt : i < 0x100 ∨ 0x180 ≤ i) : (imageAfter handler off old data)[i]? = some (data.getD (i - off) 0) := by
  have hnot : ¬(0x100 ≤ i ∧ i < 0x180) := by omega
  rw [imageAfter, List.getElem?_map, List.getElem?_zipIdx, List.getElem?_eq_getElem hlen]
  simp [hlo, hhi, imageByte, hro, hnot]

/-! An image resumed -/

/-- RESUME and STEP are refused while the image's stage is held (R385). -/
theorem State.resumeHalted_held (s : State) (p id : Nat) (single : Bool) (st : Stopped) (h : (s.part p).halted.find? id = some st) (hh : s.isHeld st.cohort = true) :
    s.resumeHalted p id single = s.dbgRefuse p 0 := by
  rw [State.resumeHalted, s.onHalted_some p id _ st h, if_pos hh]
theorem State.resumeHalted_free (s : State) (p id : Nat) (single : Bool) (st : Stopped) (h : (s.part p).halted.find? id = some st) (hh : s.isHeld st.cohort = false) :
    s.resumeHalted p id single = s.restoreHalted p id st single := by
  rw [State.resumeHalted, s.onHalted_some p id _ st h, if_neg (by simp [hh])]
/-- The state after a halted image has left the list for its cohort as it now is, given the strands that its edit ended; a step is busy, else the command is done (R385, R387). -/
def State.backFromHalt (s : State) (p id : Nat) (st : Stopped) (single : Bool) (co : Cohort) (ended : List Nat) : State :=
  let u := s.modPart p fun q => { q with halted := q.halted.del id }
  let v := if single then u.dbg p 1 0 else u.dbgDone p 0
  (if ended = [] then v else v.closeFrames st.cohort.launch).resume { st with cohort := { co with single := if single then some id else none }, edit := [] }
theorem State.restoreHalted_unedited (s : State) (p id : Nat) (st : Stopped) (single : Bool) (he : st.edit = []) :
    s.restoreHalted p id st single = s.backFromHalt p id st single st.cohort [] := by
  simp [State.restoreHalted, Stopped.edited, he, State.backFromHalt]
/-- An edited image that R75 does not refuse is restored as edited (R399). -/
theorem State.restoreHalted_edited (s : State) (p id : Nat) (st : Stopped) (single : Bool) (he : st.edit ≠ []) (hr : imageRefused st st.edit = none) :
    let e := imageCohort st st.edit
    s.restoreHalted p id st single = ((e.2.foldl (fun s t => s.endStrand t) s).imageIdentity st.core e.1 st.edit).backFromHalt p id st single e.1 e.2 := by
  simp [State.restoreHalted, Stopped.edited, he, hr, State.backFromHalt]
theorem State.restoreHalted_refused (s : State) (p id : Nat) (st : Stopped) (single : Bool) (reason d : Nat) (he : st.edit ≠ [])
    (hr : imageRefused st st.edit = some (reason, d)) : s.restoreHalted p id st single = s.dbgRefuse p reason := by
  simp [State.restoreHalted, Stopped.edited, he, hr]

/-! Scratchpads read -/

/-- READSP of a placed grove of a launch of the partition, of whole granules and at most 2,048 bytes, answers each granule's bytes and then the bitmap (R385, R434). -/
theorem State.readSp_placed (s : State) (p launch arg key : Nat) (g : Grove) (la : Launch)
    (hg : List.find? (fun x : Nat × Grove => x.2.launch == launch && x.2.idx == getLe (s.part p).dbgdata 0 4 && x.2.placed) s.groves = some (key, g))
    (hl : s.launches.find? launch = some la) (hp : la.part = p) (hb : getLe (s.part p).dbgdata 4 1 ≤ 2)
    (hoff : getLe (s.part p).dbgdata 5 4 % 32 = 0) (hlen : getLe (s.part p).dbgdata 9 4 % 32 = 0) (hmax : getLe (s.part p).dbgdata 9 4 ≤ 2048)
    (hraw : bitN arg 0 = true → (s.part p).forensic = true) :
    let out := (List.range (getLe (s.part p).dbgdata 9 4 / 32)).map fun i =>
      s.spGran g.core key g (Buf.dec (getLe (s.part p).dbgdata 4 1)) (bitN arg 0) (getLe (s.part p).dbgdata 5 4 + 32 * i)
    let bits := leBytes ((getLe (s.part p).dbgdata 9 4 / 32 + 7) / 8) (maskOf ((out.zipIdx.filter fun x => x.1.2).map Prod.snd))
    s.readSp p launch arg = (s.modPart p fun q => { q with dbgdata := padTo 4096 (out.flatMap Prod.fst ++ bits) }).dbgDone p 0 := by
  intro out bits
  have hok : (la.part != p || decide (2 < getLe (s.part p).dbgdata 4 1) || getLe (s.part p).dbgdata 5 4 % 32 != 0 || getLe (s.part p).dbgdata 9 4 % 32 != 0 ||
      decide (2048 < getLe (s.part p).dbgdata 9 4) || (bitN arg 0 && !(s.part p).forensic)) = false := by
    simp only [Bool.or_eq_false_iff, bne_eq_false_iff_eq, decide_eq_false_iff_not, Bool.and_eq_false_imp, Bool.not_eq_false']
    exact ⟨⟨⟨⟨⟨hp, by omega⟩, hoff⟩, hlen⟩, by omega⟩, hraw⟩
  unfold State.readSp
  simp only [hg, hl, hok, Bool.false_eq_true, if_false]
  rfl

end Sys2Proof.Machine
end

section
/-! The registers of a partition and the debug commands, as the claim puts them. -/
namespace Sys2Proof.Machine

/-- A KILL leaves the partition thawed with each of its launches ended (R406). -/
theorem exec_pfrzKill (s : State) (p : Nat) :
    exec (.pfrzKill p) s = .next (s.kill p) ∧ ((s.kill p).part p).frozen = false ∧
      ∀ l la, (s.kill p).launches.find? l = some la → la.part = p → la.ended = true :=
  ⟨rfl, State.part_thaw_frozen _ p 2, s.kill_ended p⟩
/-- A write by register before the device serves writes nothing (R350). -/
theorem exec_registerWrite_unserved (s : State) (who n : Nat) (v : DWord) (h : s.serves = false) : exec (.registerWrite who n v) s = .next s :=
  congrArg _ (if_pos (by simp [h]))
/-- A write by register reaches the register of its number, or of its offset in BAR0 (R5, R324). -/
theorem exec_registerWrite_served (s : State) (who n : Nat) (v : DWord) (h : s.serves = true) :
    exec (.registerWrite who n v) s = .next (s.writeReg who (if 2 ^ 25 ≤ n then s.bar0Reg (who - 0x20) (n - 2 ^ 25) else n) v) :=
  congrArg _ (if_neg (by simp [h]))
/-- A command on an image that the partition has not halted is refused (R385). -/
theorem exec_onHalted_none (s : State) (p id arg : Nat) (h : (s.part p).halted.find? id = none) :
    ∀ e ∈ [Instr.readimg p id arg, .writeimg p id arg, .debugStep p id, .resumeImage p id, .stalemap p id, .discardImage p id],
      exec e s = .next (s.dbgRefuse p 0) := by
  simp only [List.forall_mem_cons, List.not_mem_nil, false_imp_iff, implies_true, and_true]
  exact ⟨congrArg _ (s.onImage_none p 4 id arg _ h), congrArg _ (s.onImage_none p 5 id arg _ h), congrArg _ (s.onHalted_none p id _ h),
    congrArg _ (s.onHalted_none p id _ h), congrArg _ (s.onImage_none p 8 id 0 _ h), congrArg _ (s.onHalted_none p id _ h)⟩
/-- A command on the bytes of an image that is not written yet waits (R371). -/
theorem exec_onImage_waits (s : State) (p id arg : Nat) (st : Stopped) (h : (s.part p).halted.find? id = some st) (hc : st.cnts = none) :
    ∀ e ∈ [(Instr.readimg p id arg, 4, arg), (.writeimg p id arg, 5, arg), (.stalemap p id, 8, 0)],
      exec e.1 s = .next ((s.dbg p 1 0).modPart p fun q => { q with dbgwait := some (e.2.1, id, e.2.2) }) := by
  simp only [List.forall_mem_cons, List.not_mem_nil, false_imp_iff, implies_true, and_true]
  exact ⟨congrArg _ (s.onImage_waits p 4 id arg _ st h hc), congrArg _ (s.onImage_waits p 5 id arg _ st h hc), congrArg _ (s.onImage_waits p 8 id 0 _ st h hc)⟩
/-- STEP and RESUME of an image whose stage is not held restore it (R385, R387). -/
theorem exec_step_resume (s t : State) (p id : Nat) (st : Stopped) (co : Cohort) (ended : List Nat) (h : (s.part p).halted.find? id = some st)
    (hh : s.isHeld st.cohort = false) (hr : ∀ single, s.restoreHalted p id st single = t.backFromHalt p id st single co ended) :
    exec (.debugStep p id) s = .next (t.backFromHalt p id st true co ended) ∧ exec (.resumeImage p id) s = .next (t.backFromHalt p id st false co ended) :=
  ⟨congrArg _ ((s.resumeHalted_free p id true st h hh).trans (hr true)), congrArg _ ((s.resumeHalted_free p id false st h hh).trans (hr false))⟩

/-- Settles O49: an equation per case of each register write and each debug command; that a KILL ends every launch is an induction over those it terminates. -/
theorem partitionRegistersAndDebug : Obligations.PartitionRegistersAndDebug := by
  refine ⟨fun s p v => ⟨?_, ?_, ?_, exec_pfrzKill s p, ?_, s.devReg_none⟩, fun s p id arg => ⟨?_, ?_, exec_onHalted_none s p id arg, ?_, ?_⟩⟩
  case refine_1 =>
    intro old size new u
    have hpcal : (u.part p).pcal = new := congrArg Part.pcal (s.part_modPart p _)
    refine ⟨fun h => ⟨?_, hpcal, (u.part_thaw_pcal p 1).trans hpcal⟩, fun h => ?_⟩
    · exact congrArg _ ((s.pcalWrite_eq p v).trans (if_pos h))
    · exact congrArg _ ((s.pcalWrite_eq p v).trans (if_neg h))
  case refine_2 => exact congrArg _ (s.flogcfgWrite_eq p v)
  case refine_3 => exact ⟨fun h => congrArg _ (s.flogtailWrite_taken p v h), fun h => congrArg _ (s.flogtailWrite_ignored p v h)⟩
  case refine_4 =>
    intro who n m
    refine ⟨fun h => ?_, fun p r hs hr => ?_, fun r hs hr => ?_⟩
    · cases hs : s.serves with
      | false => exact exec_registerWrite_unserved s who n v hs
      | true =>
        have hnone : s.devReg who m = none := h.resolve_left (by simp [hs])
        rw [exec_registerWrite_served s who n v hs, s.writeReg_none who m v hnone]
    · rw [exec_registerWrite_served s who n v hs, s.writeReg_part who m v p r hr]
    · rw [exec_registerWrite_served s who n v hs, s.writeReg_pkg who m v r hr]
  case refine_5 =>
    intro launch la hl
    refine ⟨fun hp => ⟨congrArg _ (s.haltStage_refused p launch arg la hl hp), congrArg _ (s.releaseStages_refused p launch arg la hl hp)⟩,
      fun hp => congrArg _ (s.haltStage_held p launch arg la hl hp), fun hp => congrArg _ (s.releaseStages_freed p launch arg la hl hp)⟩
  case refine_6 => exact congrArg _ (s.listHalted_eq p)
  case refine_7 =>
    intro st hst
    refine ⟨exec_onImage_waits s p id arg st hst, fun hc h0 => congrArg _ ((s.readImg_written p id arg st hst hc).trans (if_pos h0)),
      fun hc h0 => congrArg _ ((s.readImg_written p id arg st hst hc).trans (if_neg h0)), fun hc => ?_,
      fun hh => ⟨congrArg _ (s.resumeHalted_held p id true st hst hh), congrArg _ (s.resumeHalted_held p id false st hst hh)⟩, fun hh => ⟨?_, ?_, ?_⟩,
      fun hc => congrArg _ (s.onImage_written p 8 id 0 _ st hst hc), congrArg _ (s.onHalted_some p id _ st hst)⟩
    · exact ⟨_, congrArg _ (s.writeImg_written p id arg st hst hc), length_imageAfter _ _ _ _, imageAfter_kept _ _ _ _,
        fun i hlo hhi hlen => imageAfter_taken _ _ _ _ i hlo hhi (by simpa [length_imageAfter] using hlen)⟩
    · exact fun he => exec_step_resume s s p id st st.cohort [] hst hh fun single => s.restoreHalted_unedited p id st single he
    · exact fun he hr => exec_step_resume s _ p id st _ _ hst hh fun single => s.restoreHalted_edited p id st single he hr
    · exact fun reason d he hr => ⟨congrArg _ ((s.resumeHalted_free p id true st hst hh).trans (s.restoreHalted_refused p id st true reason d he hr)),
        congrArg _ ((s.resumeHalted_free p id false st hst hh).trans (s.restoreHalted_refused p id st false reason d he hr))⟩
  case refine_8 =>
    rintro key g la b hg hl hp rfl hb off len raw hoff hlen hmax hraw
    exact ⟨_, congrArg _ (s.readSp_placed p id arg key g la hg hl hp hb hoff hlen hmax hraw)⟩

end Sys2Proof.Machine
end

section
/-! Groves, an equation per case of each event (R15, R21, R315, R318 to R321, R412, R460, R463). -/
namespace Sys2Proof.Machine

/-! Admission and eviction -/

/-- The next grove of a launch is placed where it fits, when no launch served before it can place one (R315, R316). -/
theorem State.admission_placed (s : State) (launch : Nat) (la : Launch) (c : Nat) (t : Option Nat) (hl : s.launches.find? launch = some la)
    (hn : la.hasNext = true) (hfirst : ∀ x ∈ s.launches, x.2.hasNext = true → x.2.turn < la.turn → s.placeFor x.1 = none)
    (hp : s.placeFor launch = some (c, t)) : s.admission launch = s.placeNext launch la c t := by
  have hnone : (s.launches.any fun x => x.2.hasNext && decide (x.2.turn < la.turn) && (s.placeFor x.1).isSome) = false := by
    simp only [List.any_eq_false, Bool.and_eq_true, decide_eq_true_eq, not_and, and_imp]
    intro x hx hnext hturn
    simp [hfirst x hx hnext hturn]
  simp [State.admission, hl, hn, hnone, hp]
/-- A waiting launch stops its victims, when the evictions in progress for it do not make room enough (R318). -/
theorem State.evictFor_victims (s : State) (launch : Nat) (la : Launch) (vs : List Nat) (hl : s.launches.find? launch = some la) (hn : la.hasNext = true)
    (hf : (s.part la.part).frozen = false) (hp : (s.afterEvictions launch).placeFor launch = none)
    (hv : (s.afterEvictions launch).victimSet launch la = some vs) :
    s.evictFor launch = ((vs.flatMap s.pairOf).eraseDups).foldl (fun s k => s.evictBegin launch k) s := by
  simp [State.evictFor, hl, hn, hf, hp, hv]
/-- An eviction with nothing left in flight ends when its save fits the caldera, else it is undone and the partition freezes (R319, R320, R407). -/
theorem State.evictTurn_done (s : State) (key : Nat) (g : Grove) (t0 : Nat) (hg : s.groves.find? key = some g) (he : g.evicting = some t0)
    (h6 : s.evictStep key g = 6) (hf : s.frozenL g.launch = false) :
    let part := (s.launches.find? g.launch).elim 0 fun la => la.part
    let stays := s.staysResident g.evictFor g && !s.pow.outOfService.contains (standOf g.core)
    s.evictTurn key = if s.calFits part (s.saveOf key g stays).bytes then s.evictEnd key g stays
      else (s.evictUndo key g).freeze g.core part ((s.strandsOf key).headD 0) 0 := by
  simp [State.evictTurn, hg, he, h6, hf]
/-- An eviction in progress has lasted `n` once its start lies that far back. The time is a variable, as the kernel is slow to compare sums with 1,000,000. -/
theorem Grove.evicting_late (g : Grove) (t0 n tick : Nat) (he : g.evicting = some t0) (ht : t0 + n ≤ tick) :
    g.evicting.elim false (fun t => decide (t + n ≤ tick)) = true := by
  simp [he, ht]
/-- After 40 µs an unfinished eviction is reported, once (R412). -/
theorem exec_evictionOverBound_late (s : State) (key : Nat) (g : Grove) (t0 : Nat) (hg : s.groves.find? key = some g) (he : g.evicting = some t0)
    (ht : t0 + 40000 ≤ s.tick) (hs : g.evictSeen = false) :
    exec (.evictionOverBound key) s = .next ((s.logRec (s.evictRec key g 3 1 0x2007)).modGrove key fun g => { g with evictSeen := true }) := by
  have hexec : exec (.evictionOverBound key) s = execEvictionOverBound key s := rfl
  simp [hexec, execEvictionOverBound, hg, g.evicting_late t0 40000 s.tick he ht, hs]
/-- After 1 ms an unfinished eviction ends the launch of its grove (R412). -/
theorem exec_evictionAbandon_late (s : State) (key : Nat) (g : Grove) (t0 : Nat) (hg : s.groves.find? key = some g) (he : g.evicting = some t0)
    (ht : t0 + 1000000 ≤ s.tick) : exec (.evictionAbandon key) s = .next (s.terminate g.launch (s.evictRec key g 1 3 0x2008)) := by
  have hexec : exec (.evictionAbandon key) s = execEvictionAbandon key s := rfl
  simp [hexec, execEvictionAbandon, hg, g.evicting_late t0 1000000 s.tick he ht]

/-! Restore and retirement -/

/-- A grove that is no twin comes back on a core that takes it, when the host holds no line of its trap frames (R321). -/
theorem exec_groveRestore_single (s : State) (key core : Nat) (g : Grove) (hg : s.groves.find? key = some g) (hw : g.twin = none)
    (hb : s.takesBack key core = true) (hf : s.framesHeld key core = []) : exec (.groveRestore key core) s = .next (s.restoreOn key core) := by
  have hexec : exec (.groveRestore key core) s = execGroveRestore key core s := rfl
  simp [hexec, execGroveRestore, hg, hw, hb, hf, State.whenFree]
/-- A grove that is no twin, with nothing left in it, leaves its core and its launch (R21). -/
theorem State.retire_single (s : State) (key : Nat) (g : Grove) (hg : s.groves.find? key = some g) (hw : g.twin = none) (hp : g.placed = true)
    (he : s.groveEmpty key = true) : s.retire key = (s.removeGrove key).endLaunch g.launch := by
  simp [State.retire, hg, hw, hp, he]
@[simp] theorem State.restStand_groves (s : State) (core : Nat) : (s.restStand core).groves = s.groves := by
  unfold State.restStand
  split <;> rfl
/-- A grove that leaves its core is gone from the table of groves. -/
theorem State.removeGrove_groves (s : State) (key : Nat) (g : Grove) (hg : s.groves.find? key = some g) :
    (s.removeGrove key).groves = s.groves.del key := by
  simp [State.removeGrove, hg]

/-! Checkpoints -/

/-- Copies that agree, with no injection and no sweep to wait for, go on as after a good compare (R463, R464, R466). -/
theorem State.compareTwin_agree (s : State) (lead : Nat) (g : Grove) (w : Twin) (good : State → Twin → Nat → State) (hg : s.groves.find? lead = some g)
    (hw : s.twins.find? lead = some w) (hr : w.releasing = 0) (hgen : s.pairGens lead w = none) (hi : s.injects g (w.ckpt + 1) = false)
    (hm : firstMismatch (s.sides w lead false) (s.sides w w.trail true) = none) :
    s.compareTwin lead good = good s w ((s.launches.find? g.launch).elim 0 fun la => la.part) := by
  simp [State.compareTwin, hg, hw, hr, hgen, hi, hm]
/-- A pair whose copies have arrived and agree releases the leading half of its compare buffer (R460, R463). -/
theorem State.checkpoint_agree (s : State) (lead : Nat) (g : Grove) (w : Twin) (hg : s.groves.find? lead = some g) (hw : s.twins.find? lead = some w)
    (ha : s.allArrived lead w = true) (hq : s.quiet lead = true) (hqt : s.quiet w.trail = true) (hgen : s.pairGens lead w = none)
    (hi : s.injects g (w.ckpt + 1) = false) (hm : firstMismatch (s.sides w lead false) (s.sides w w.trail true) = none) (hr : w.releasing = 0) :
    s.checkpoint lead = s.release lead 1 w := by
  have hcompare := s.compareTwin_agree lead g w (fun s w _ => s.release lead 1 w) hg hw hr hgen hi hm
  simp [State.checkpoint, hw, ha, hq, hqt, hcompare]
/-- Once every store of a checkpoint's release is performed, the checkpoint of two resident copies is complete (R463). -/
theorem State.afterRelease_done (s : State) (lead : Nat) (g h : Grove) (w : Twin) (hg : s.groves.find? lead = some g) (hw : s.twins.find? lead = some w)
    (hh : s.groves.find? w.trail = some h) (hr : w.releasing = 1) (hops : s.releasingOps lead = []) (hgp : g.placed = true) (hhp : h.placed = true)
    (hge : g.evicting = none) (hhe : h.evicting = none) : s.afterRelease lead = s.ckptDone lead w := by
  simp [State.afterRelease, hg, hw, hh, hr, hops, hgp, hhp, hge, hhe]
/-- A release with nothing to release goes on at once (R460). -/
theorem State.release_nothing (s : State) (lead how : Nat) (g : Grove) (w : Twin) (hg : s.groves.find? lead = some g) (hl : w.lead = []) :
    s.release lead how w = { s with twins := s.twins.adj lead fun w => { w with releasing := how } }.afterRelease lead := by
  simp [State.release, hg, hl]

/-- Settles O47: an equation per case of each event; the checkpoint goes by its compare, its release and what follows the release. -/
theorem groveEvents : Obligations.GroveEvents := by
  refine ⟨fun s launch la hl hn => ⟨?_, ?_, ?_⟩, fun s key g hg => ⟨fun t0 he => ⟨?_, ?_, ?_⟩, fun hw => ⟨?_, ?_⟩, ?_⟩⟩
  case refine_1 => exact fun hfirst c t hp => congrArg _ (s.admission_placed launch la c t hl hn hfirst hp)
  case refine_2 => exact fun vs hf hp hv => congrArg _ (s.evictFor_victims launch la vs hl hn hf hp hv)
  case refine_3 => exact fun step hstep => congrArg _ (if_neg (by omega))
  case refine_4 =>
    intro h6 hf
    have hturn := s.evictTurn_done key g t0 hg he h6 hf
    exact ⟨fun hfits => hturn.trans (if_pos hfits), fun hfull => hturn.trans (if_neg (ne_true_of_eq_false hfull))⟩
  case refine_5 => exact exec_evictionOverBound_late s key g t0 hg he
  case refine_6 => exact exec_evictionAbandon_late s key g t0 hg he
  case refine_7 => exact fun core => exec_groveRestore_single s key core g hg hw
  case refine_8 => exact fun hp he => ⟨congrArg _ (s.retire_single key g hg hw hp he), s.removeGrove_groves key g hg⟩
  case refine_9 =>
    intro w hw ha hq hqt hgen hi hm hr
    have hrelease : exec (.checkpointComplete key) s = .next (s.release key 1 w) :=
      congrArg _ (s.checkpoint_agree key g w hg hw ha hq hqt hgen hi hm hr)
    refine ⟨hrelease, ?_⟩
    intro h hlead hh hgp hhp hge hhe u hops
    have hu : u.twins.find? key = some { w with releasing := 1 } := by simp [u, NMap.find?_adj, hw]
    rw [hrelease, s.release_nothing key 1 g w hg hlead]
    exact congrArg _ (u.afterRelease_done key g h _ hg hu hh rfl hops hgp hhp hge hhe)

end Sys2Proof.Machine
end

section
/-! Lanes sent to targets of their own, and the ends of strands (R21, R24, R232 to R235, R272, R274, R278). -/
namespace Sys2Proof.Machine

/-! Lanes sent elsewhere -/

/-- `u` is `t` with the lanes `ls` of the cohort `co` of an issue at their targets `f`; every other lane is where it was. -/
def State.SentTo (t u : State) (x : Ctx) (co : Cohort) (ls : List Nat) (f : Nat → Pc) : Prop :=
  ∃ m, u = t.setCohort x.core x.slot { co with lanes := m } ∧ m ≠ [] ∧
    ∀ l, m.find? l = (co.lanes.find? l).map fun y => if l ∈ ls then { y with pc := f l } else y
/-- Lanes that are each changed in their place leave no empty cohort. -/
theorem lanes_ne_of_find? (m m' : NMap Lane) (f : Nat → Lane → Lane) (hne : m ≠ []) (h : ∀ l, m'.find? l = (m.find? l).map (f l)) : m' ≠ [] := by
  obtain ⟨⟨k, y⟩, t, rfl⟩ := List.exists_cons_of_ne_nil hne
  rintro rfl
  simpa [NMap.find?] using h k
/-- What the cohort was before does not matter. -/
theorem State.SentTo.of_setCohort {t u : State} {x : Ctx} {co co' : Cohort} {ls : List Nat} {f : Nat → Pc} (hne : co.lanes ≠ [])
    (h : (t.setCohort x.core x.slot co).SentTo u x co' ls f) : t.SentTo u x co' ls f := by
  obtain ⟨m, hm, hmne, hfind⟩ := h
  exact ⟨m, hm.trans (State.setCohort_setCohort t x.core x.slot co { co' with lanes := m } hne hmne), hmne, hfind⟩
/-- Where the lanes of a cohort are once those listed have been sent to one PC (R232). -/
theorem State.setPcs_of (t : State) (x : Ctx) (co : Cohort) (ls : List Nat) (pc : Pc) (h : t.cohort? x.core x.slot = some co) :
    t.setPcs x ls pc = t.setCohort x.core x.slot { co with lanes := co.lanes.map fun y => (y.1, if ls.contains y.1 then { y.2 with pc := pc } else y.2) } :=
  State.modCohort_of _ _ _ _ _ h
theorem State.jump_sentTo (t : State) (x : Ctx) (co : Cohort) (ls : List Nat) (pc : Pc) (h : t.cohort? x.core x.slot = some co) (hne : co.lanes ≠ []) :
    t.SentTo (t.jump x ls pc) x co ls fun _ => pc := by
  refine ⟨_, t.setPcs_of x co ls pc h, by simpa using hne, fun l => ?_⟩
  rw [find?_mapLanes co.lanes fun k y => if ls.contains k then { y with pc := pc } else y]
  simp only [List.contains_iff_mem]
/-- The cohort with each lane listed at its own target. -/
def Cohort.sendEach (co : Cohort) (ls : List Nat) (f : Nat → Pc) : Cohort := ls.foldl (fun co l => co.modLane l fun y => { y with pc := f l }) co
theorem Cohort.sendEach_eq (co : Cohort) (ls : List Nat) (f : Nat → Pc) : co.sendEach ls f = { co with lanes := (co.sendEach ls f).lanes } := by
  induction ls generalizing co with
  | nil => rfl
  | cons l t ih => exact ih (co.modLane l fun y => { y with pc := f l })
theorem Cohort.find?_sendEach (co : Cohort) (ls : List Nat) (f : Nat → Pc) (k : Nat) :
    (co.sendEach ls f).lanes.find? k = (co.lanes.find? k).map fun y => if k ∈ ls then { y with pc := f k } else y := by
  induction ls generalizing co with
  | nil => simp [Cohort.sendEach]
  | cons l t ih =>
    have hstep : (co.modLane l fun y => { y with pc := f l }).lanes.find? k = if k = l then (co.lanes.find? k).map fun y => { y with pc := f l } else co.lanes.find? k :=
      NMap.find?_adj _ _ _ _
    refine (ih _).trans ?_
    rw [hstep]
    by_cases hk : k = l
    · subst hk
      cases co.lanes.find? k <;> simp
    · simp [hk]
theorem Cohort.sendEach_ne (co : Cohort) (ls : List Nat) (f : Nat → Pc) (hne : co.lanes ≠ []) : (co.sendEach ls f).lanes ≠ [] :=
  lanes_ne_of_find? _ _ _ hne (co.find?_sendEach ls f)
/-- Lanes sent one after another are sent together. -/
theorem State.jumpTo_setCohort (t : State) (x : Ctx) (a : Nat) (ls : List Nat) (co : Cohort) (hne : co.lanes ≠ []) :
    (t.setCohort x.core x.slot co).jumpTo x a ls = t.setCohort x.core x.slot (co.sendEach ls fun l => (x.co.reg64 a l).setWidth 48) := by
  induction ls generalizing co with
  | nil => rfl
  | cons l rest ih =>
    have hne' := co.sendEach_ne [l] (fun l => (x.co.reg64 a l).setWidth 48) hne
    refine (congrArg (fun u : State => u.jumpTo x a rest) (State.modCohort_setCohort t x.core x.slot co _ hne hne')).trans (ih _ hne')
theorem State.jumpTo_sentTo (t : State) (x : Ctx) (a : Nat) (co : Cohort) (ls : List Nat) (h : t.cohort? x.core x.slot = some co) (hne : co.lanes ≠ []) (hls : ls ≠ []) :
    t.SentTo (t.jumpTo x a ls) x co ls fun l => (x.co.reg64 a l).setWidth 48 := by
  obtain ⟨l, rest, rfl⟩ := List.exists_cons_of_ne_nil hls
  have hne' := co.sendEach_ne [l] (fun l => (x.co.reg64 a l).setWidth 48) hne
  have hsent : t.jumpTo x a (l :: rest) = t.setCohort x.core x.slot (co.sendEach (l :: rest) fun l => (x.co.reg64 a l).setWidth 48) :=
    (congrArg (fun u : State => u.jumpTo x a rest) (State.modCohort_of t x.core x.slot co _ h)).trans (t.jumpTo_setCohort x a rest _ hne')
  exact ⟨_, by rw [hsent, ← Cohort.sendEach_eq], co.sendEach_ne _ _ hne, co.find?_sendEach _ _⟩

/-! The link pair -/

/-- A pair written uniform with one value, read back (R58, R61). -/
theorem Cohort.reg_write64_uni (co : Cohort) (d n l : Nat) (ls : List Nat) (v : DWord) (hl : l < 32) (hp : l ∈ co.present) :
    (co.write64 d .uni .uni ls fun _ => v).reg n l = if n ∈ [d, d + 1] ∧ l ∈ ls then half d n v else co.reg n l := by
  have hp' : l ∈ (co.write d .uni ls fun _ => v.setWidth 32).present := by rw [Cohort.present_write]; exact hp
  unfold Cohort.write64
  rw [Cohort.reg_write _ _ n l _ _ _ hl hp' (fun _ _ _ => rfl) (fun _ _ h => by simp at h),
    Cohort.reg_write co d n l _ _ _ hl hp (fun _ _ _ => rfl) (fun _ _ h => by simp at h)]
  by_cases hlo : n = d
  · simp [hlo, half]
  · by_cases hhi : n = d + 1 <;> simp [hlo, hhi, half]
theorem Cohort.write64_eq_regs (co : Cohort) (n : Nat) (lo hi : Sh) (ls : List Nat) (f : Nat → DWord) :
    co.write64 n lo hi ls f = { co with regs := (co.write64 n lo hi ls f).regs } := by
  rw [Cohort.write64_eq]
  exact Cohort.writes_eq _ _ _

/-! Plans that send lanes -/

/-- A move of the lanes under a guard that sends each to its target, whatever the state. -/
def Moves (g : Guard) (move : State → Ctx → List Nat → State) (target : Ctx → Nat → Pc) : Prop :=
  ∀ (t : State) (x : Ctx) (co : Cohort), t.cohort? x.core x.slot = some co → co.lanes ≠ [] → x.en g ≠ [] → t.SentTo (move t x (x.en g)) x co (x.en g) (target x)
theorem jump_moves (g : Guard) (pc : Ctx → Pc) : Moves g (fun s x ls => s.jump x ls (pc x)) fun x _ => pc x :=
  fun t x co hco hne _ => t.jump_sentTo x co _ (pc x) hco hne
theorem jumpTo_moves (g : Guard) (a : Nat) : Moves g (fun s x ls => s.jumpTo x a ls) fun x l => (x.co.reg64 a l).setWidth 48 :=
  fun t x co hco hne hen => t.jumpTo_sentTo x a co _ hco hne hen
/-- The effect of a plan on a cohort: each lane under its guard goes to its target, the registers `ds` take the link there, and nothing else changes. -/
def Plan.Sends (p : Plan) (ds : List Nat) (target : Ctx → Nat → Pc) : Prop :=
  ∀ (t : State) (x : Ctx) (co : Cohort), t.cohort? x.core x.slot = some co → co.lanes ≠ [] → x.en p.g ≠ [] →
    ∃ rs, t.SentTo (p.act t x (x.en p.g)) x { co with regs := rs } (x.en p.g) (target x) ∧
      ∀ n l, l < 32 → l ∈ co.present → ({ co with regs := rs } : Cohort).reg n l =
        if n ∈ ds ∧ l ∈ x.en p.g then half (ds.headD 0) n ((x.after p.len).setWidth 64) else co.reg n l
/-- A plan that only moves lanes. -/
theorem Plan.sends_of_move (p : Plan) (target : Ctx → Nat → Pc) (h : Moves p.g p.act target) : p.Sends [] target :=
  fun t x co hco hne hen => ⟨co.regs, h t x co hco hne hen, fun n l _ _ => by simp⟩
/-- A plan that writes the link and then moves lanes (R232). -/
theorem Plan.sends_of_link (p : Plan) (d : Nat) (target : Ctx → Nat → Pc) (move : State → Ctx → List Nat → State) (hlen : p.len = 12)
    (ha : ∀ t x, p.act t x (x.en p.g) = move (t.writeLink x d (x.en p.g)) x (x.en p.g)) (h : Moves p.g move target) : p.Sends [d, d + 1] target := by
  intro t x co hco hne hen
  have hlink : t.writeLink x d (x.en p.g) = t.setCohort x.core x.slot (co.write64 d .uni .uni (x.en p.g) fun _ => (x.after 12).setWidth 64) :=
    State.modCohort_of _ _ _ _ _ hco
  have hreg := fun n l => co.reg_write64_uni d n l (x.en p.g) ((x.after 12).setWidth 64)
  rw [Cohort.write64_eq_regs] at hlink hreg
  generalize (co.write64 d .uni .uni (x.en p.g) fun _ => (x.after 12).setWidth 64).regs = rs at hlink hreg
  refine ⟨rs, State.SentTo.of_setCohort (co := { co with regs := rs }) hne ?_, by rw [hlen]; exact hreg⟩
  rw [ha, hlink]
  exact h _ x _ (State.cohort?_setCohort t x.core x.slot { co with regs := rs } hne) hne hen
/-- The cohort after the effect of a plan that sends lanes, also where no lane is under its guard. -/
theorem Plan.Sends.effect {p : Plan} {ds : List Nat} {target : Ctx → Nat → Pc} (h : p.Sends ds target) (s : State) (x : Ctx)
    (hco : s.cohort? x.core x.slot = some x.co) (hne : x.co.lanes ≠ []) :
    ∃ rs, s.SentTo (p.effect s x) x { x.moved p.len with regs := rs } (x.en p.g) (target x) ∧
      ∀ n l, l < 32 → l ∈ x.co.present → ({ x.co with regs := rs } : Cohort).reg n l =
        if n ∈ ds ∧ l ∈ x.en p.g then half (ds.headD 0) n ((x.after p.len).setWidth 64) else x.co.reg n l := by
  have hmv : (x.moved p.len).lanes ≠ [] := by simpa [Ctx.moved] using hne
  have hset : s.setPcs x x.xs (x.after p.len) = s.setCohort x.core x.slot (x.moved p.len) := s.setPcs_of x x.co _ _ hco
  unfold Plan.effect
  rw [hset]
  by_cases hen : x.en p.g = []
  · refine ⟨x.co.regs, ⟨(x.moved p.len).lanes, ?_, hmv, fun l => ?_⟩, fun n l _ _ => ?_⟩
    · simp only [hen, List.isEmpty_nil, if_true]
      rfl
    · simp [hen]
    · simp [hen]
  · obtain ⟨rs, hsent, hreg⟩ := h _ x _ (State.cohort?_setCohort s x.core x.slot _ hmv) hmv hen
    refine ⟨rs, ?_, fun n l hl hp => hreg n l hl ((x.moved_present p.len).symm ▸ hp)⟩
    simpa only [List.isEmpty_iff, hen, if_false] using hsent.of_setCohort hmv
/-- The age of the cohort of an issue restarts (R317, R381). -/
theorem State.issued_setCohort (s : State) (x : Ctx) (co : Cohort) (hne : co.lanes ≠ []) :
    (s.setCohort x.core x.slot co).issued x = (s.firstIssued x).setCohort x.core x.slot { co with
      readyTick := s.cyc, boosted := false, lanes := co.lanes.map fun y => (y.1, if x.xs.contains y.1 then { y.2 with met := none } else y.2) } := by
  unfold State.issued
  rw [State.firstIssued_setCohort, State.modCohort_setCohort _ _ _ _ _ hne (by simpa using hne)]
  rfl
/-- What `Jumps` asks, from where its plan sends the lanes. -/
theorem jumps_of (i : Instr) (p : Plan) (ds : List Nat) (ok : State → Ctx → Prop) (target : Ctx → Nat → Pc) (hi : ∀ s, exec i s = .next (s.exec p)) (hn : p.need = 0)
    (hcls : p.cls = none) (hw : ∀ s x en l, p.acc s x en l = none)
    (hb : ∀ s x, ok s x → p.bad s x = none ∧ p.priv s x = false ∧ p.misses s x = none ∧ ∀ l ∈ x.en p.g, p.check s x (x.en p.g) l = .go)
    (hs : p.Sends ds target) : Jumps i p.g p.len p.regs p.srcs ds ok fun _ x l => target x l := by
  intro s x hr hok
  obtain ⟨hco, hne⟩ := s.ctx_cohort x ((s.ready_iff x p.g p.regs p.srcs).mp hr).1
  obtain ⟨hb1, hb2, hb3, hgo⟩ := hb s x hok
  have hx := s.exec_ready x p hr hb1 hb2 hb3 (by simp [hcls]) hgo (Or.inl hn) (by intro l _ a ha; simp [hw] at ha)
  obtain ⟨rs, ⟨m, hm, hmne, hfind⟩, hreg⟩ := hs.effect s x hco hne
  rw [hm, s.issued_setCohort x _ hmne] at hx
  refine ⟨rs, _, (hi s).trans (congrArg _ hx), fun l => ?_, hreg⟩
  have hmoved : (x.moved p.len).lanes.find? l = (x.co.lanes.find? l).map fun y => if x.xs.contains l then { y with pc := x.after p.len } else y :=
    find?_mapLanes x.co.lanes (fun k y => if x.xs.contains k then { y with pc := x.after p.len } else y) l
  have hxs : l ∈ x.en p.g → l ∈ x.xs := fun h => (List.mem_filter.mp h).1
  rw [find?_mapLanes m (fun k y => if x.xs.contains k then { y with met := none } else y), hfind l]
  show Option.map _ (Option.map _ ((x.moved p.len).lanes.find? l)) = _
  rw [hmoved]
  cases x.co.lanes.find? l with
  | none => rfl
  | some y =>
    simp only [Option.map_some, List.contains_iff_mem]
    by_cases hen : l ∈ x.en p.g
    · simp [hen, hxs hen]
    · by_cases hx : l ∈ x.xs <;> simp [hen, hx]
/-- A target of 48 bits that is a multiple of 4 passes (R233). -/
theorem targetCheck_go (a : Nat) (x : Ctx) (l : Nat) (h : (x.co.reg64 a l).toNat < 2 ^ 48 ∧ (x.co.reg64 a l).toNat % 4 = 0) : targetCheck a x l = .go := by
  simpa [targetCheck] using h
/-- The signed offset of the S-form is that of the word it stands for (R172). -/
theorem Pc.plus_signExtend (pc : Pc) (off : BitVec 18) : pc.plus (off.signExtend 32).toInt = pc.plus off.toInt := by
  rw [BitVec.toInt_signExtend_of_le (by decide)]

/-- Settles O16: each plan sends its lanes, after it has written the link where it writes one. -/
theorem controlTransfers : Obligations.ControlTransfers := by
  intro g d a imm off good pair
  have checked : ∀ s x, good s x → ∀ l ∈ x.en g, targetCheck a x l = .go := fun s x h l hl => targetCheck_go a x l (h l hl)
  refine ⟨?bra, ?braS, ?brx, ?call, ?callx, ?ret⟩
  case bra =>
    exact jumps_of _ (planBra g imm) [] always (fun x _ => x.pc.plus imm.toInt) (fun _ => rfl) rfl rfl (fun _ _ _ _ => rfl) (fun s x _ => plain_checks _ _ _ _ _ _ s x)
      (Plan.sends_of_move _ _ (jump_moves g _))
  case braS =>
    have h := jumps_of (.braS g off) (planBraS g off) [] always (fun x _ => x.pc.plus (off.signExtend 32).toInt) (fun _ => rfl) rfl rfl (fun _ _ _ _ => rfl)
      (fun s x _ => plain_checks _ _ _ _ _ _ s x) (Plan.sends_of_move _ _ (jump_moves g _))
    simp only [Pc.plus_signExtend] at h
    exact h
  case brx =>
    exact jumps_of _ (planBrx g a) [] good _ (fun _ => rfl) rfl rfl (fun _ _ _ _ => rfl) (fun s x h => ⟨rfl, rfl, rfl, checked s x h⟩) (Plan.sends_of_move _ _ (jumpTo_moves g a))
  case call =>
    exact jumps_of _ (planCall g d imm) [d, d + 1] always (fun x _ => x.pc.plus imm.toInt) (fun _ => rfl) rfl rfl (fun _ _ _ _ => rfl)
      (fun s x _ => plain_checks _ _ _ _ _ _ s x) (Plan.sends_of_link _ d _ (fun s x ls => s.jump x ls (x.pc.plus imm.toInt)) rfl (fun _ _ => rfl) (jump_moves g _))
  case callx =>
    exact jumps_of _ (planCallx g d a) [d, d + 1] good _ (fun _ => rfl) rfl rfl (fun _ _ _ _ => rfl) (fun s x h => ⟨rfl, rfl, rfl, checked s x h⟩)
      (Plan.sends_of_link _ d _ (fun s x ls => s.jumpTo x a ls) rfl (fun _ _ => rfl) (jumpTo_moves g a))
  case ret =>
    exact jumps_of _ (planRet g a) [] good _ (fun _ => rfl) rfl rfl (fun _ _ _ _ => rfl) (fun s x h => ⟨rfl, rfl, rfl, checked s x h⟩) (Plan.sends_of_move _ _ (jumpTo_moves g a))

/-! The ends of strands -/

/-- A launch held by its flag, as the model asks for it (R303). -/
theorem State.debugHold_eq_any (s : State) (launch : Nat) : s.debugHold launch = (s.launches.find? launch).any fun la => bitN la.pkt.flags 5 := by
  unfold State.debugHold
  cases s.launches.find? launch <;> rfl
/-- A launch of a privileged queue, as the model asks for it (R272). -/
theorem State.privileged_eq_any (s : State) (launch : Nat) : s.privileged launch = (s.launches.find? launch).any fun la => la.priv := by
  unfold State.privileged
  cases s.launches.find? launch <;> rfl
/-- Breakpoints are on (R235). -/
def State.breaks (s : State) (x : Ctx) : Bool := s.debugHold x.co.launch || fld (s.part x.part).dbgctl 0 0 == 1
/-- Whether breakpoints are on does not depend on where lanes are. -/
@[simp] theorem State.breaks_setPcs (s : State) (x : Ctx) (ls : List Nat) (pc : Pc) : (s.setPcs x ls pc).breaks x = s.breaks x := by
  simp [State.breaks, State.debugHold, State.part]
theorem planBrk_act (g : Guard) (n : Nat) (s : State) (x : Ctx) (ls : List Nat) (h : s.breaks x = true) :
    (planBrk g n).act s x ls = s.debugHalt x.core x.slot x.pc ls { code := 0x5003, akind := 0, addr := 0, gen := 0, d0 := n, d1 := 0 } := if_pos h

/-- Settles O18: each plan acts as it is said to; BRK's and HALT's conditions are on launches and partitions, which the lanes' moving on leaves. -/
theorem strandEndsAndStops : Obligations.StrandEndsAndStops := by
  intro g n leave flt held
  refine ⟨?exit, ?exitS, ?trap, ?brk, ?halt, ?tret⟩
  case exit => exact acts_plain _ g 12 _ [] [] _ fun _ => rfl
  case exitS => exact acts_plain _ g 4 _ [] [] _ fun _ => rfl
  case trap => exact acts_plain _ g 12 _ [] [] _ fun _ => rfl
  case brk =>
    refine acts_of _ (planBrk g n) _ _ (fun _ => rfl) rfl (fun _ _ _ => ⟨rfl, rfl, rfl⟩) (fun _ _ _ _ _ _ h => by simp [planBrk, plain] at h) (fun _ _ _ _ _ => rfl)
      (fun s x hok => ?_) (Or.inl fun _ _ _ _ => rfl)
    have hbreaks : s.breaks x = true := by simpa [State.breaks, State.debugHold_eq_any] using hok
    exact planBrk_act g n _ x _ ((s.breaks_setPcs x _ _).trans hbreaks)
  case halt =>
    refine acts_of _ (planHalt g) _ _ (fun _ => rfl) rfl (fun s x hok => ⟨rfl, ?_, rfl⟩) (fun _ _ _ _ _ _ h => by simp [planHalt, plain] at h) (fun _ _ _ _ _ => rfl)
      (fun _ _ _ => rfl) (Or.inl fun _ _ _ _ => rfl)
    have hallowed : (s.privileged x.co.launch || s.debugHold x.co.launch) = true := by
      rw [State.privileged_eq_any, State.debugHold_eq_any, Bool.or_comm, Bool.or_eq_true]
      exact hok
    exact congrArg not hallowed
  case tret =>
    exact acts_of _ (planTret g) _ _ (fun _ => rfl) rfl (fun s x hok => ⟨rfl, by simp [planTret, hok], rfl⟩) (fun _ _ _ _ _ _ h => by simp [planTret, plain] at h)
      (fun _ _ _ _ _ => rfl) (fun _ _ _ => rfl) (Or.inl fun _ _ _ _ => rfl)

end Sys2Proof.Machine
end

section
/-! The machine right after reset (R41, R124, R310, R313, R323, R340, R346, R353, R461). -/
namespace Sys2Proof.Machine

/-- After reset every core, listed or not, is as after reset. -/
theorem State.core_reset (c : Nat) : State.reset.core c = Core.reset := rfl
/-- After reset every partition, listed or not, is as after reset. -/
theorem State.part_reset (p : Nat) : State.reset.part p = Part.reset p := rfl
/-- A partition other than 0 has no quota after reset, and DRAIN alone in PQ0 (R41, R313). -/
theorem readP_reset_quota (p : Nat) (h : 1 ≤ p) : State.reset.readP p .pq0 = 8 ∧ State.reset.readP p .pq1 = 0 := by
  have hp : (p == 0) = false := by simp; omega
  simp [State.readP, State.part_reset, Part.reset, hp]
/-- DRAIN of every partition after reset: 8 units of 32 cycles (R41, R313). -/
theorem readP_reset_drain (p : Nat) : fld (State.reset.readP p .pq0) 7 0 = 8 := by
  cases p with
  | zero => decide
  | succ p => rw [(readP_reset_quota (p + 1) (Nat.succ_pos p)).1]; decide

/-- Settles O55: each register, table and core is read from the reset state. -/
theorem resetState : Obligations.ResetState := by
  unfold Obligations.ResetState
  intro s
  have hinv : s.Inv := ⟨reset_wf, rfl⟩
  have hquota : fld (s.readP 0 .pq0) 54 48 = 96 ∧ fld (s.readP 0 .pq0) 47 42 = 48 ∧ fld (s.readP 0 .pq0) 28 21 = 128 ∧
      fld (s.readP 0 .pq1) 15 0 = 16384 ∧ fld (s.readP 0 .pq1) 31 16 = 32768 ∧ fld (s.readP 0 .pq1) 47 32 = 32768 := by decide
  have hslack : fld (BitVec.ofNat 64 1024) 10 0 = 1024 := by decide
  have hpart : ∀ p < 16, 32 * fld (s.readP p .pq0) 7 0 = 256 ∧ fld (s.readP p .twinctl) 10 0 = 1024 ∧ s.readP p .pcal = 0 ∧ s.readP p .pfrz = 0 ∧ s.readP p .tableRoot = 0 :=
    fun p _ => ⟨by rw [readP_reset_drain], hslack, rfl, rfl, rfl⟩
  have hfunc : ∀ f < 16, s.funcPart f = f := by decide
  exact ⟨hinv, rfl, rfl, rfl, rfl, rfl, fun _ _ => rfl, fun _ b _ => by cases b <;> exact ⟨rfl, rfl⟩, fun _ => ⟨rfl, rfl⟩, hquota, fun p h _ => readP_reset_quota p h, hpart,
    by decide, by decide, hfunc, rfl, fun _ => rfl, by decide, rfl, fun _ _ => rfl⟩

end Sys2Proof.Machine
end

section
/-! Strands made by SPAWN (R43, R155, R244), and what placing a record leaves of the others (R33, R135). -/
namespace Sys2Proof

/-- Reading a table whose values have each been changed under their key. -/
theorem NMap.find?_mapVals {α β : Type} (m : NMap α) (f : Nat → α → β) (n : Nat) : NMap.find? (m.map fun y => (y.1, f y.1 y.2)) n = (m.find? n).map (f n) := by
  induction m with
  | nil => rfl
  | cons y t ih =>
    obtain ⟨k, v⟩ := y
    by_cases h : k = n
    · simp [NMap.find?, h]
    · simpa [NMap.find?, h] using ih

end Sys2Proof

namespace Sys2Proof.Machine

/-! The issue of a plan that needs record space -/

theorem State.waitNodes_nil (s : State) (core : Nat) : s.waitNodes core [] = 0 := rfl
theorem State.watchNodes_nil (s : State) : s.watchNodes [] = 0 := rfl
/-- An issue whose checks pass and for whose records there is room happens in every lane under its guard (R181, R404). -/
theorem State.exec_room (s : State) (x : Ctx) (p : Plan) (h : s.ready x p.g p.regs p.srcs = true) (hb : p.bad s x = none)
    (hp : p.priv s x = false) (hm : p.misses s x = none) (hcls : p.cls = none) (hgo : ∀ l ∈ x.en p.g, p.check s x (x.en p.g) l = .go)
    (hroom : s.recRoomWith x.core x.part (List.replicate (x.en p.g).length p.need) 0 = true) (hw : ∀ s x en l, p.acc s x en l = none) :
    s.exec p = (p.effect s x).issued x := by
  obtain ⟨hctx, hsingle, hregs, -⟩ := (s.ready_iff x p.g p.regs p.srcs).mp h
  by_cases hneed : p.need = 0
  · exact s.exec_ready x p h hb hp hm (by simp [hcls]) hgo (Or.inl hneed) (by intro l _ a ha; simp [hw] at ha)
  have hgoes : ((x.en p.g).map fun l => (l, p.verdict s x (x.en p.g) l)) = (x.en p.g).map fun l => (l, Verdict.go) :=
    List.map_congr_left fun l hl => by rw [p.verdict_check s x l h hl (by simp [hcls]), hgo l hl]
  have hheal : ∀ t : State, t.healRegs x (x.en p.g) p.regs = t := fun t => t.healRegs_none x _ _ (s.ready_lost x p.g p.regs p.srcs h)
  unfold State.exec
  simp only [hctx, Plan.run, p.upfront_none s x hb hp hm hregs, Plan.body, hgoes, failing_go, staying_go, leaving_go, going_go, hneed, hw]
  simp [Ctx.lost_nil, hheal, s.waitNodes_nil, s.watchNodes_nil, hroom, Plan.effect, State.watchHits, State.watchHalt, State.stepDone, hsingle]

/-! Records that spill -/

theorem State.core_modCore_other (s : State) (c n : Nat) (f : Core → Core) (h : n ≠ c) : (s.modCore c f).core n = s.core n := by
  simp [State.core, State.modCore, State.setCore, NMap.getD, NMap.find?_put_other _ _ _ _ h]
/-- `t` is `s` but for the cores, and every record is still there, in the store or spilled. -/
def State.SpillsTo (s t : State) : Prop :=
  (∃ ks, t = { s with cores := ks }) ∧
    ∀ c rid r, (s.core c).records.find? rid = some r → ∃ sp, (t.core c).records.find? rid = some { r with spilled := sp }
theorem State.SpillsTo.rfl' (s : State) : s.SpillsTo s := ⟨⟨s.cores, rfl⟩, fun _ _ r h => ⟨r.spilled, h⟩⟩
theorem State.SpillsTo.trans {s t u : State} (h : s.SpillsTo t) (k : t.SpillsTo u) : s.SpillsTo u := by
  obtain ⟨⟨ks, rfl⟩, hr⟩ := h
  obtain ⟨⟨ks', rfl⟩, kr⟩ := k
  refine ⟨⟨ks', rfl⟩, fun c rid r hfind => ?_⟩
  obtain ⟨_, ht⟩ := hr c rid r hfind
  obtain ⟨sp, hu⟩ := kr c rid _ ht
  exact ⟨sp, hu⟩
theorem State.spillOne_spillsTo (s : State) (core : Nat) (p : Option Nat) : s.SpillsTo (s.spillOne core p) := by
  unfold State.spillOne
  split
  · exact State.SpillsTo.rfl' s
  next n _ =>
    refine ⟨⟨_, rfl⟩, fun c rid r hfind => ?_⟩
    by_cases hc : c = core
    · subst hc
      rw [State.core_modCore]
      have hmap := NMap.find?_mapVals (s.core c).records (fun _ r => if r.page == n && r.idle then { r with spilled := true } else r) rid
      rw [hfind] at hmap
      refine ⟨if r.page == n && r.idle then true else r.spilled, hmap.trans ?_⟩
      simp only [Option.map_some]
      split <;> rfl
    · rw [State.core_modCore_other _ _ _ _ hc]
      exact ⟨r.spilled, hfind⟩
theorem State.spillWhile_spillsTo (core : Nat) (p : Option Nat) (more : State → Bool) (fuel : Nat) (s : State) : s.SpillsTo (s.spillWhile core p more fuel) := by
  induction fuel generalizing s with
  | zero => exact State.SpillsTo.rfl' s
  | succ n ih =>
    unfold State.spillWhile
    split
    · exact (s.spillOne_spillsTo core p).trans (ih _)
    · exact State.SpillsTo.rfl' s
/-- What spills for a record's room, and what spills beyond the thresholds, leaves every record (R135, R404). -/
theorem State.makeRoom_spillsTo (s : State) (core : Nat) (r : Record) : s.SpillsTo (s.makeRoom core r) :=
  (State.spillWhile_spillsTo ..).trans (State.spillWhile_spillsTo ..)
theorem State.foldl_spillsTo {α : Type} (f : State → α → State) (hf : ∀ (s : State) a, s.SpillsTo (f s a)) (l : List α) (s : State) : s.SpillsTo (l.foldl f s) := by
  induction l generalizing s with
  | nil => exact State.SpillsTo.rfl' s
  | cons a t ih => exact (hf s a).trans (ih (f s a))
theorem State.spill_spillsTo (s : State) (core : Nat) : s.SpillsTo (s.spill core) := by
  unfold State.spill
  refine State.SpillsTo.trans ?_ (State.foldl_spillsTo _ (fun s p => State.spillWhile_spillsTo ..) _ _)
  split
  · exact State.spillWhile_spillsTo ..
  · exact State.SpillsTo.rfl' s

/-! Records placed -/

/-- A record that is put back is on its core under its number, in the store or spilled; all but the cores stays (R33). -/
theorem State.putBack_record (s : State) (core rid : Nat) (r : Record) :
    (∃ ks, s.putBack core rid r = { s with cores := ks }) ∧
      ∃ sp page, ((s.putBack core rid r).core core).records.find? rid = some { r with spilled := sp, page := page } := by
  obtain ⟨⟨ks, hroom⟩, -⟩ := s.makeRoom_spillsTo core r
  have hput : ∀ r' : Record, (∃ ks', ((s.makeRoom core r).modCore core fun k => { k with records := k.records.put rid r' }).spill core = { s with cores := ks' }) ∧
      ∃ sp, ((((s.makeRoom core r).modCore core fun k => { k with records := k.records.put rid r' }).spill core).core core).records.find? rid =
        some { r' with spilled := sp } := by
    intro r'
    obtain ⟨⟨ks', hspill⟩, hfind⟩ := ((s.makeRoom core r).modCore core fun k => { k with records := k.records.put rid r' }).spill_spillsTo core
    exact ⟨⟨ks', hspill.trans (by rw [hroom]; rfl)⟩, hfind core rid r' (by simp)⟩
  unfold State.putBack
  dsimp only
  split
  next n _ =>
    obtain ⟨hcores, sp, hfind⟩ := hput { r with page := n, spilled := false }
    exact ⟨hcores, sp, n, hfind⟩
  next =>
    obtain ⟨hcores, sp, hfind⟩ := hput { r with spilled := true }
    exact ⟨hcores, sp, r.page, hfind⟩
/-- A new record takes the next number. -/
theorem State.addRecord_record (s : State) (core : Nat) (r : Record) :
    (∃ ks, s.addRecord core r = { s with seq := s.seq + 1, cores := ks }) ∧
      ∃ sp page, ((s.addRecord core r).core core).records.find? s.seq = some { r with spilled := sp, page := page } :=
  s.fresh.2.putBack_record core s.seq r

/-! SPAWN -/

/-- The strand that SPAWN makes of a spawner with some operations in flight (R43, R155, R457). -/
def Strand.spawned (y : Strand) (mine : List Nat) : Strand :=
  { y with burst := none, out := [], befStore := [], befAll := y.befAll ++ mine, path := y.path ++ [0, y.nSpawn, 0], nOrd := 0,
           nSpawn := 0, nBread := 0, sig := 0, nStores := 0 }
/-- The record that SPAWN makes for its strand (R43, R244). -/
def State.spawnRecord (s : State) (x : Ctx) (entry : Pc) (a n l id : Nat) : Record :=
  { strand := id, launch := x.co.launch, stage := x.co.stage, hx := false, pc := entry, preds := 0, repc := 0,
    regs := (List.range n).map fun i => (i, x.co.reg (a + i) l), contig := true, pend := [], wait := none, widx := none,
    held := (s.launches.find? x.co.launch).elim false fun la => la.holds x.co.stage false, fwd := false, provisional := false,
    spilled := false, page := 0, tick := s.tick, origin := x.pc, poison := [], err := none, set := 0, after := [] }
/-- The strands once a lane's strand has spawned a child: the child under the next number, and the spawner's count of children. -/
def State.spawning (s : State) (parent : Nat) (child : Strand) : State :=
  ({ s with seq := s.seq + 1, strands := s.strands.put s.seq child } : State).modStrand parent fun z => { z with nSpawn := z.nSpawn + 1 }
theorem State.find?_spawning (s : State) (parent : Nat) (child : Strand) (h : parent < s.seq) : (s.spawning parent child).strands.find? s.seq = some child := by
  have hne : s.seq ≠ parent := Nat.ne_of_gt h
  simp [State.spawning, NMap.find?_adj, hne]
/-- One task of SPAWN: the strand, then its record. -/
theorem State.spawnOne_of (s : State) (x : Ctx) (entry : Pc) (a n l : Nat) (y : Strand) (h : s.strands.find? (x.strand l) = some y) :
    ∃ mine, s.spawnOne x entry a n l = (s.spawning (x.strand l) (y.spawned mine)).addRecord x.core (s.spawnRecord x entry a n l s.seq) := by
  refine ⟨(s.ops.filter fun o => o.strand == x.strand l || o.sharers.contains (x.strand l)).map MemOp.id, ?_⟩
  unfold State.spawnOne
  simp only [h]
  rfl
/-- SPAWN's check of n against the stage's allotment passes (R244). -/
theorem planSpawn_misses (g : Guard) (imm : Word) (a n : Nat) (s : State) (x : Ctx)
    (h : n ≤ ((s.launches.find? x.co.launch).elim 0 fun la => la.pkt.allot.getD x.co.stage 0)) : (planSpawn g imm a n).misses s x = none :=
  if_neg (Nat.not_lt.mpr h)

/-- Settles O37: an issue with room for its records spawns for each lane under its guard; each spawned strand's record stays on its core, whatever spills. -/
theorem spawnMakesStrands : Obligations.SpawnMakesStrands := by
  refine ⟨fun g imm a n s x hready hn hroom => ?_, fun s x entry a n l y hy hlt => ?_⟩
  case refine_1 =>
    have hexec := s.exec_room x (planSpawn g imm a n) hready rfl rfl (planSpawn_misses g imm a n s x hn) rfl (fun _ _ => rfl) hroom fun _ _ _ _ => rfl
    refine congrArg _ (hexec.trans ?_)
    simp only [Plan.effect, List.isEmpty_iff]
    rfl
  case refine_2 =>
    intro t
    obtain ⟨mine, hspawn⟩ := s.spawnOne_of x entry a n l y hy
    obtain ⟨⟨ks, hadd⟩, sp, page, hrecord⟩ := (s.spawning (x.strand l) (y.spawned mine)).addRecord_record x.core (s.spawnRecord x entry a n l s.seq)
    rw [← hspawn] at hadd hrecord
    have hchild : t.strands.find? s.seq = some (y.spawned mine) :=
      (congrArg (fun u : State => u.strands.find? s.seq) hadd).trans (s.find?_spawning _ _ hlt)
    have hmem : t.mem = s.mem := (congrArg State.mem hadd).trans rfl
    exact ⟨_, _, _, hchild, rfl, rfl, rfl, rfl, rfl, hrecord, rfl, rfl, rfl, rfl, rfl, rfl, rfl, rfl, rfl, rfl, hmem⟩

end Sys2Proof.Machine
end

section
/-! Memory operations in flight: what is performed, what completes, and what leaves (R38, R45, R149 to R164, R268, R275, R276, R397). -/
namespace Sys2Proof.Machine

/-! The operations in flight are left by wakes and counters -/

@[simp] theorem State.promote_ops (s : State) (core : Nat) : (s.promote core).ops = s.ops := by
  obtain ⟨cs, h⟩ := s.promote_eq core
  rw [h]
@[simp] theorem State.forward_ops (s : State) (strand : Nat) (bs : List Byte) : (s.forward strand bs).ops = s.ops := by
  unfold State.forward
  split
  · rfl
  · split
    · rfl
    · dsimp only
      split <;> rfl
@[simp] theorem State.forwardCell_ops (s : State) (r : Record) (w : WaitEv) : (s.forwardCell r w).ops = s.ops := by
  unfold State.forwardCell
  dsimp only
  split <;> simp
@[simp] theorem State.dropSectors_ops (s : State) (core pa len : Nat) : (s.dropSectors core pa len).ops = s.ops := by
  unfold State.dropSectors
  split <;> rfl
@[simp] theorem State.acquire_ops (s : State) (core : Nat) (sc : Scope) : (s.acquire core sc).ops = s.ops := by
  unfold State.acquire
  split <;> rfl
/-- A record that wakes, or fails to, touches no operation in flight. -/
@[simp] theorem State.wakeAs_ops (s : State) (core rid : Nat) (r : Record) (w : WaitEv) (res : Woken) : (s.wakeAs core rid r w res).ops = s.ops := by
  cases res with
  | no => rfl
  | err f => simp [State.wakeAs]
  | yes dst ws acq =>
    simp only [State.wakeAs, State.promote_ops]
    cases acq <;> dsimp only <;> split <;> simp
@[simp] theorem State.wakeOne_ops (s : State) (core rid : Nat) : (s.wakeOne core rid).ops = s.ops := by
  unfold State.wakeOne
  split
  · rfl
  · split
    · rfl
    · split <;> simp
@[simp] theorem State.fireCounter_ops (s : State) (core strand : Nat) : (s.fireCounter core strand).ops = s.ops := by
  unfold State.fireCounter State.fire State.asSet
  dsimp only
  split
  · exact foldl_keeps State.ops _ (fun s i => s.wakeOne_ops core i) _ s
  · exact foldl_keeps State.ops _ (fun s i => s.wakeOne_ops core i) _ s
@[simp] theorem State.unpend_ops (s : State) (strand id : Nat) : (s.unpend strand id).ops = s.ops := by
  unfold State.unpend
  split <;> rfl
/-- What an operation completes in its strands leaves the operations in flight (R38, R45). -/
@[simp] theorem State.tellDone_ops (s : State) (o : MemOp) (gone : Bool) : (s.tellDone o gone).ops = s.ops := by
  refine foldl_keeps State.ops _ (fun s n => ?_) _ s
  dsimp only
  split <;> simp
@[simp] theorem State.acquireOp_ops (s : State) (o : MemOp) : (s.acquireOp o).ops = s.ops :=
  foldl_keeps State.ops _ (fun s c => s.acquire_ops c o.sc) _ s
/-- An operation that leaves takes its number with it (R45). -/
theorem State.retireOp_ops (s : State) (o : MemOp) : (s.retireOp o).ops = s.ops.filter fun p => p.id != o.id := by
  unfold State.retireOp
  rw [State.tellDone_ops]
  dsimp only
  split <;> simp

/-! What performs at RESULT_LANDING -/

/-- An atomic is neither a load, a store, nor a scratchpad access. -/
theorem MemOp.kind_of_atomic (o : MemOp) (h : o.atomicKind = true) : o.kind ≠ .load ∧ o.kind ≠ .store ∧ ∀ op b, o.kind ≠ .sp op b := by
  unfold MemOp.atomicKind at h
  cases hk : o.kind <;> simp_all
theorem State.takeOpid_kind (s : State) (o : MemOp) : (s.takeOpid o).2.kind = o.kind := by
  unfold State.takeOpid
  split
  · rfl
  · rfl
  · rfl
  · split <;> rfl
/-- A request that leaves is of the kind that the operation is. -/
theorem State.onceSent_kind (s : State) (o : MemOp) : (s.onceSent o).2.kind = o.kind := by
  unfold State.onceSent
  split
  · exact s.takeOpid_kind o
  · rfl
theorem State.onceSent_of_not (s : State) (o : MemOp) (h : s.toSend o = false) : s.onceSent o = (s, o) := if_neg (by simp [h])
theorem State.resultLands_global (s : State) (id : Nat) (data : List Byte) (status : Nat) (o : MemOp) (h : s.readyOp id = some o) (hk : ∀ op b, o.kind ≠ .sp op b)
    (hg : s.canGo o = true) : s.resultLands id data status = (s.onceSent o).1.landRes (s.onceSent o).2 data status := by
  unfold State.resultLands
  rw [h]
  dsimp only
  split
  next op b hsp => exact absurd hsp (hk op b)
  · exact if_pos hg
theorem State.resultLands_load (s : State) (id : Nat) (data : List Byte) (status : Nat) (o : MemOp) (h : s.readyOp id = some o) (hk : o.kind = .load)
    (hg : s.canGo o = true) : s.resultLands id data status = (s.onceSent o).1.landLoad (s.onceSent o).2 data status := by
  rw [s.resultLands_global id data status o h (by simp [hk]) hg]
  exact if_pos (by simp [s.onceSent_kind o, hk])
/-- The value of an atomic already performed lands (R38, R151). -/
theorem State.resultLands_atomic (s : State) (id : Nat) (data : List Byte) (o : MemOp) (h : s.readyOp id = some o) (hk : o.atomicKind = true) (hh : o.home = true)
    (hd : o.ndst ≠ 0) (hg : s.canGo o = true) (ht : s.toSend o = false) (hb : o.bad = none) (ha : o.ord.isAcq = false) :
    s.resultLands id data 0 = (s.landOp o (loadWords o.got false)).opDone o := by
  obtain ⟨hload, -, hsp⟩ := o.kind_of_atomic hk
  rw [s.resultLands_global id data 0 o h hsp hg, s.onceSent_of_not o ht]
  simp [State.landRes, hload, hh, hd, ha, hb]
theorem State.resultLands_sp (s : State) (id : Nat) (data : List Byte) (status : Nat) (o : MemOp) (op : SpOp) (b : Buf) (h : s.readyOp id = some o)
    (hk : o.kind = .sp op b) : s.resultLands id data status = s.spLands o op b := by
  unfold State.resultLands
  rw [h]
  simp only [hk]
/-- A held scratchpad access that meets nothing is performed, and what it returns lands (R153, R230). -/
theorem State.spLands_performs (s : State) (o : MemOp) (op : SpOp) (b : Buf) (g : Grove) (hg : s.groves.find? o.grove = some g) (hp : g.placed = true)
    (hw : s.spWaits g.core op = false) (hr : s.spRefuses g.core o.grove op b o.va (o.fields.headD 0) = none) :
    s.spLands o op b = ((s.spPerform g.core o op b).1.landOp o (s.spPerform g.core o op b).2).opDone o := by
  simp only [State.spLands, hg, hp, hw, hr, Bool.not_true, Bool.false_eq_true, if_false]
/-- One that its checks refuse at that moment fails its registers (R397). -/
theorem State.spLands_refused (s : State) (o : MemOp) (op : SpOp) (b : Buf) (g : Grove) (f : Flt) (hg : s.groves.find? o.grove = some g) (hp : g.placed = true)
    (hw : s.spWaits g.core op = false) (hr : s.spRefuses g.core o.grove op b o.va (o.fields.headD 0) = some f) (hd : o.ndst ≠ 0) :
    s.spLands o op b = (s.failOp o f).opDone o := by
  simp [State.spLands, hg, hp, hw, hd, -List.headD_eq_head?_getD, hr]

/-! What performs at STORE_PERFORMED and ATOMIC_AT_HOME -/

theorem MemOp.cxlOpen_of_not_home (o : MemOp) (h : o.home = false) : o.cxlOpen = false := by simp [MemOp.cxlOpen, h]
/-- A store that the host egress had accepted is complete now (R164). -/
theorem State.storePerforms_open (s : State) (id : Nat) (o : MemOp) (h : s.readyOp id = some o) (hk : o.kind = .store) (hh : o.home = true) :
    s.storePerforms id = s.opDone o := by
  simp [State.storePerforms, h, MemOp.cxlOpen, hk, hh]
/-- A request to another package leaves first (R162). -/
theorem State.storePerforms_sends (s : State) (id : Nat) (o : MemOp) (h : s.readyOp id = some o) (hh : o.home = false) (hf : o.kind = .store → s.heldFull o = false)
    (hn : s.snoopLines o = []) (ht : s.toSend o = true) (hg : s.canGo o = true) : s.storePerforms id = (s.sendOp o).1 := by
  have hfull : (o.kind == .store && s.heldFull o) = false := by
    rw [Bool.and_eq_false_iff]
    by_cases hk : o.kind = .store
    · exact .inr (hf hk)
    · exact .inl (by simpa using hk)
  simp [State.storePerforms, h, o.cxlOpen_of_not_home hh, hfull, hn, ht, hg]
/-- A store to host space under CXL counts as performed when the host egress takes it (R164). -/
theorem State.storePerforms_accepted (s : State) (id : Nat) (o : MemOp) (h : s.readyOp id = some o) (hk : o.kind = .store) (hh : o.home = false)
    (hf : s.heldFull o = false) (hn : s.snoopLines o = []) (ht : s.toSend o = false) (hl : s.flowHeld o = false) (hs : s.sideOf o.grove = none)
    (hc : s.host.cxl = true ∧ s.host.linkUp = true ∧ spaceOf o.pa = 2) : s.storePerforms id = (s.performStore o).acceptStore o := by
  simp [State.storePerforms, h, o.cxlOpen_of_not_home hh, hk, hf, hn, ht, hl, hs, hc]
/-- Any other store takes effect and is complete (R151). -/
theorem State.storePerforms_done (s : State) (id : Nat) (o : MemOp) (h : s.readyOp id = some o) (hk : o.kind = .store) (hh : o.home = false)
    (hf : s.heldFull o = false) (hn : s.snoopLines o = []) (ht : s.toSend o = false) (hl : s.flowHeld o = false)
    (hc : ¬(s.host.cxl = true ∧ s.host.linkUp = true ∧ spaceOf o.pa = 2)) (hs : ((s.performStore o).opDone o).sideOf o.grove = none) :
    s.storePerforms id = (s.performStore o).opDone o := by
  have hcxl : (s.host.cxl && s.host.linkUp && spaceOf o.pa == 2) = false := by simpa [and_assoc] using hc
  simp [State.storePerforms, h, o.cxlOpen_of_not_home hh, hk, hf, hn, ht, hl, hs, hcxl]
/-- An atomic that returns nothing is performed at its home and complete (R149, R151). -/
theorem State.storePerforms_atomic (s : State) (id : Nat) (o : MemOp) (h : s.readyOp id = some o) (hk : o.atomicKind = true) (hd : o.ndst = 0) (hh : o.home = false)
    (hg : s.canGo o = true) (hn : s.snoopLines o = []) (ht : s.toSend o = false) (hb : (s.performAtomic o []).2.bad = none) :
    s.storePerforms id = (s.performAtomic o []).1.opDone (s.performAtomic o []).2 := by
  obtain ⟨-, hstore, -⟩ := o.kind_of_atomic hk
  simp [State.storePerforms, h, o.cxlOpen_of_not_home hh, hstore, hn, ht, hk, hd, hg, hh, hb]
/-- An atomic is performed at its home, its request having gone first (R149). -/
theorem exec_atomicAtHome_performs (s : State) (id : Nat) (data : List Byte) (o : MemOp) (h : s.readyOp id = some o) (hk : o.atomicKind = true) (hh : o.home = false)
    (hg : s.canGo o = true) (hn : s.snoopLines o = []) :
    exec (.atomicAtHome id data) s = .next (((s.onceSent o).1.performAtomic (s.onceSent o).2 data).1.setOp ((s.onceSent o).1.performAtomic (s.onceSent o).2 data).2) := by
  have hexec : exec (.atomicAtHome id data) s = execAtomicAtHome id data s := rfl
  simp [hexec, execAtomicAtHome, h, hk, hh, hg, hn]

/-! Renewals and invalidations -/

theorem exec_sprenewComplete_renews (s : State) (id : Nat) (o : MemOp) (b : Buf) (g : Grove) (h : s.readyOp id = some o) (hk : o.kind = .renew b)
    (hg : s.groves.find? o.grove = some g) (hp : g.placed = true) :
    exec (.sprenewComplete id) s = .next ((o.fields.foldl (fun s off => s.renewGran g.core o.grove b off) s).opDone o) := by
  have hexec : exec (.sprenewComplete id) s = execSprenewComplete id s := rfl
  simp [hexec, execSprenewComplete, h, hk, State.renewAll, hg, hp]
/-- An invalidation acts once no package it told, or would tell, is awaited (R275, R276). -/
theorem State.invalidate_acts (s : State) (o : MemOp) (kind : Nat) (act : State → State) (va len part : Nat) (far : List Nat) (hf : o.fields = va :: len :: part :: far)
    (hfar : ∀ p ∈ far, s.routeTo p = []) (hs : o.sent = true ∨ s.farPkgs o.sc = []) : s.invalidate o kind act = (act s).opDone o := by
  have htold : (!o.sent && !(s.farPkgs o.sc).isEmpty && decide (3 ≤ o.fields.length)) = false := by
    rcases hs with hs | hs <;> simp [hs]
  have hawait : ((o.fields.drop 3).any fun n => !(s.routeTo n).isEmpty) = false := by simpa [hf] using hfar
  simp only [State.invalidate, htold, hawait, Bool.false_eq_true, if_false]
/-- What an invalidation tells the other packages in its scope, and whom it awaits then (R331). -/
theorem State.invalidate_tells (s : State) (o : MemOp) (kind : Nat) (act : State → State) (a b c : Nat) (hf : o.fields = [a, b, c]) (hs : o.sent = false)
    (hfar : s.farPkgs o.sc ≠ []) :
    s.invalidate o kind act = ((s.farPkgs o.sc).foldl (fun s p => s.post p 3 1 (s.opPart o) kind 0 (leBytes 8 o.id ++ [a, b, c].flatMap (leBytes 8))) s).setOp
      { o with sent := true, fields := [a, b, c] ++ s.farPkgs o.sc } := by
  simp [State.invalidate, hf, hs, hfar]
theorem exec_cinvComplete_ready (s : State) (id : Nat) (o : MemOp) (va len part : Nat) (far : List Nat) (h : s.readyOp id = some o) (hk : o.kind = .cinv)
    (hf : o.fields = va :: len :: part :: far) : exec (.cinvComplete id) s = .next (s.invalidate o 12 fun s => s.dropCode o.sc o.core va len part) := by
  have hexec : exec (.cinvComplete id) s = execCinvComplete id s := rfl
  simp [hexec, execCinvComplete, h, hk, hf]
theorem exec_tlbinvComplete_ready (s : State) (id : Nat) (o : MemOp) (va len part : Nat) (far : List Nat) (h : s.readyOp id = some o) (hk : o.kind = .tlbinv)
    (hf : o.fields = va :: len :: part :: far) : exec (.tlbinvComplete id) s = .next (s.invalidate o 11 fun s => s.tlbRemove o.sc o.core [va, len, part]) := by
  have hexec : exec (.tlbinvComplete id) s = execTlbinvComplete id s := rfl
  simp [hexec, execTlbinvComplete, h, hk, hf]

/-! What invalidations remove -/

theorem sameInstance_self (sc : Scope) (c : Nat) : sameInstance sc c c = true := by cases sc <;> simp [sameInstance]
/-- A core among those changed has changed, or is not listed. -/
theorem State.core_mapped (s t : State) (P : Nat → Bool) (f : Core → Core) (h : t.cores = s.cores.map fun x => if P x.1 then (x.1, f x.2) else x) (n : Nat) (hn : P n = true) :
    t.core n = f (s.core n) ∨ t.core n = Core.reset := by
  have hmap : t.cores = s.cores.map fun x => (x.1, if P x.1 then f x.2 else x.2) := by
    rw [h]
    exact List.map_congr_left fun x _ => by split <;> rfl
  simp only [State.core, NMap.getD, hmap, NMap.find?_mapVals s.cores (fun m k => if P m then f k else k) n, hn, if_true]
  cases s.cores.find? n with
  | none => exact .inr rfl
  | some k => exact .inl rfl
/-- No translation that a TLBINV names is left in the TLB of its core (R276). -/
theorem State.tlbRemove_tlb (s : State) (sc : Scope) (c : Nat) (fields : List Nat) : ∀ e ∈ ((s.tlbRemove sc c fields).core c).tlb, tlbinvHits fields e = false := by
  intro e he
  rcases s.core_mapped (s.tlbRemove sc c fields) (sameInstance sc c) (fun k => { k with tlb := k.tlb.filter fun e => !tlbinvHits fields e }) rfl c (sameInstance_self sc c)
    with h | h <;> rw [h] at he
  · simpa using (List.mem_filter.mp he).2
  · simp [Core.reset] at he
/-- No instruction line that a CINV names is left on a core of its scope (R275). -/
theorem State.dropCode_l1i (s : State) (sc : Scope) (c va len part n : Nat) (hn : sameInstance sc c n = true) :
    ∀ y ∈ ((s.dropCode sc c va len part).core n).l1i, touches (s.mappedRanges c part va len) 128 y.1 = false := by
  intro y hy
  rcases s.core_mapped (s.dropCode sc c va len part) (sameInstance sc c) (fun k => { k with
      l1i := k.l1i.filter fun y => !touches (s.mappedRanges c part va len) 128 y.1
      parkmaps := k.parkmaps.filter fun m => !(m.part == part && decide (m.lo < va + len ∧ va < m.hi)) }) rfl n hn
    with h | h <;> rw [h] at hy
  · simpa using (List.mem_filter.mp hy).2
  · simp [Core.reset] at hy
/-- A unit that no range touches overlaps none. -/
theorem not_overlaps_of_touches (rs : List (Nat × Nat)) (size n : Nat) (h : touches rs size n = false) : ∀ r ∈ rs, ¬(n * size < r.1 + r.2 ∧ r.1 < (n + 1) * size) :=
  fun r hr => by simpa using List.any_eq_false.mp h r hr

/-- Settles O38: an equation per event and kind of operation; what is gone afterwards is filtered out. -/
theorem operationsPerform : Obligations.OperationsPerform := by
  refine ⟨fun s id status data o h => ⟨?load, ?sp, ?atomic, ?sends, ?store, ?cxlDone, ?atomicDone, ?atHome, ?renew, ?invalidate, ?tell⟩,
    fun s fields c sc => s.tlbRemove_tlb sc c fields, fun s sc c va len part n hn y hy => not_overlaps_of_touches _ _ _ (s.dropCode_l1i sc c va len part n hn y hy), fun s o p hp => ?retired⟩
  case load => exact fun hk hg => congrArg _ (s.resultLands_load id data status o h hk hg)
  case sp =>
    intro op b g hk hg hp hw
    have hlands := s.resultLands_sp id data status o op b h hk
    exact ⟨fun hr => congrArg _ (hlands.trans (s.spLands_performs o op b g hg hp hw hr)),
      fun f hr hd => congrArg _ (hlands.trans (s.spLands_refused o op b g f hg hp hw hr hd))⟩
  case atomic => exact fun hk hh hd hg ht hb ha => congrArg _ (s.resultLands_atomic id data o h hk hh hd hg ht hb ha)
  case sends => exact fun _ hh hf hn ht hg => congrArg _ (s.storePerforms_sends id o h hh hf hn ht hg)
  case store =>
    intro hk hh hf hn ht hl hs
    exact ⟨fun hc => congrArg _ (s.storePerforms_accepted id o h hk hh hf hn ht hl hs hc),
      fun hc hside => congrArg _ (s.storePerforms_done id o h hk hh hf hn ht hl hc hside)⟩
  case cxlDone => exact fun hk hh => congrArg _ (s.storePerforms_open id o h hk hh)
  case atomicDone => exact fun hk hd hh hg hn ht hb => congrArg _ (s.storePerforms_atomic id o h hk hd hh hg hn ht hb)
  case atHome => exact fun hk hh hg hn => exec_atomicAtHome_performs s id data o h hk hh hg hn
  case renew => exact fun b g hk hg hp => exec_sprenewComplete_renews s id o b g h hk hg hp
  case invalidate =>
    intro va len part far hf hfar hs
    exact ⟨fun hk => (exec_cinvComplete_ready s id o va len part far h hk hf).trans (congrArg _ (s.invalidate_acts o 12 _ va len part far hf hfar hs)),
      fun hk => (exec_tlbinvComplete_ready s id o va len part far h hk hf).trans (congrArg _ (s.invalidate_acts o 11 _ va len part far hf hfar hs))⟩
  case tell =>
    intro a b c hf hs hfar told
    exact ⟨fun hk => (exec_cinvComplete_ready s id o a b c [] h hk hf).trans (congrArg _ (s.invalidate_tells o 12 _ a b c hf hs hfar)),
      fun hk => (exec_tlbinvComplete_ready s id o a b c [] h hk hf).trans (congrArg _ (s.invalidate_tells o 11 _ a b c hf hs hfar))⟩
  case retired =>
    rw [State.retireOp_ops] at hp
    simpa using (List.mem_filter.mp hp).2

end Sys2Proof.Machine
end

section
/-! REP (R68 to R70): the issue of the lanes of one iteration, all of which go, and that no plan that REP repeats arms a watchpoint. -/
namespace Sys2Proof.Machine

/-! Watchpoints are left by what REP repeats -/

/-- A plan makes no global access, or its effect leaves the debug registers of the issuing core (R382). -/
def Plan.KeepsWatch (p : Plan) : Prop :=
  (∀ s x en l, p.acc s x en l = none) ∨ ∀ s x ls, ((p.act s x ls).core x.core).bps = (s.core x.core).bps
theorem L1Only.bps {s t : State} (h : L1Only s.cores t.cores) (c : Nat) : (t.core c).bps = (s.core c).bps := by
  obtain ⟨l, hl⟩ := h c
  simp only [State.core, hl]
theorem State.issueOp_bps (s : State) (o : MemOp) (c : Nat) : ((s.issueOp o).core c).bps = (s.core c).bps := by
  obtain ⟨o', ss, ks, hissue, hl1, -⟩ := s.issueOp_eq o
  rw [hissue]
  exact L1Only.bps (s := s) hl1 c
theorem State.gIssue_bps (s : State) (x : Ctx) (ls : List Nat) (va : Nat → Nat) (size : Nat) (kind : Acc) (mk : State → Nat → Nat → DWord → MemOp) (c : Nat) :
    ((s.gIssue x ls va size kind mk).core c).bps = (s.core c).bps :=
  foldl_keeps (fun s => (s.core c).bps) _ (fun s l => by
    split
    · exact s.issueOp_bps _ c
    · rfl) ls s
theorem State.leadIssue_bps (s : State) (x : Ctx) (ls : List Nat) (va d : Nat) (size : Size) (sgn : Bool) (ord : Ord) (sc : Scope) (c : Nat) :
    ((s.leadIssue x ls va d size sgn ord sc).core c).bps = (s.core c).bps := by
  cases ls with
  | nil => rfl
  | cons l t => exact s.gIssue_bps _ _ _ _ _ _ c
theorem planFclass_acc (g : Guard) (d a : Nat) (fmt : Fmt) (n : Nat) (s : State) (x : Ctx) (en : List Nat) (l : Nat) : (planFclass g d a fmt n).acc s x en l = none := by
  unfold planFclass
  split <;> rfl
/-- Of the plans that REP may repeat (R69), those of the global loads, stores and atomics alone make accesses that a watchpoint sees; they issue operations. -/
theorem planOf_keepsWatch (i : Instr) (p : Plan) (h : planOf i = some p) : p.KeepsWatch := by
  cases i
  case ld | ldS | st | stS | atom | atomcas | atomn =>
    cases h
    exact .inr fun s x ls => s.gIssue_bps ..
  case ldu | ldc =>
    cases h
    exact .inr fun s x ls => s.leadIssue_bps ..
  case fclass g d a fmt n =>
    cases h
    exact .inl (planFclass_acc g d a fmt n)
  case pmov g f =>
    cases h
    exact .inl fun _ _ _ _ => by cases f <;> rfl
  case vote g mode d pa =>
    cases h
    exact .inl fun _ _ _ _ => by cases mode <;> rfl
  all_goals cases h <;> exact .inl fun _ _ _ _ => rfl

/-! The lanes of an iteration -/

/-- The effect of a plan on a state whose lanes have moved on. -/
def Plan.effectOn (p : Plan) (t : State) (x : Ctx) : State := if x.en p.g = [] then t else p.act t x (x.en p.g)
theorem Plan.KeepsWatch.effectOn {p : Plan} (h : p.KeepsWatch) (t : State) (x : Ctx) :
    (∀ l, p.acc t x (x.en p.g) l = none) ∨ (t.core x.core).bps = ((p.effectOn t x).core x.core).bps := by
  refine h.imp (fun hacc l => hacc t x _ l) fun hbps => ?_
  unfold Plan.effectOn
  split
  · rfl
  · exact (hbps t x _).symm
/-- The body of an issue in which every lane under the guard goes and no watchpoint is armed afterwards: the lanes move on, then the effect happens (R181). -/
theorem Plan.body_of_go (p : Plan) (s : State) (x : Ctx) (next : Pc) (move : State → List Nat → List Nat → State) (hkeeps : p.KeepsWatch)
    (hgo : ∀ l ∈ x.en p.g, p.verdict s x (x.en p.g) l = .go) (hneed : p.need = 0) (hlost : x.lost (x.en p.g) p.regs = false)
    (hwatch : (p.effectOn (move s x.xs []) x).unwatched x = true) : p.body s x next move = p.effectOn (move s x.xs []) x := by
  have hgoes : ((x.en p.g).map fun l => (l, p.verdict s x (x.en p.g) l)) = (x.en p.g).map fun l => (l, Verdict.go) :=
    List.map_congr_left fun l hl => by rw [hgo l hl]
  have hheal : ∀ t : State, t.healRegs x (x.en p.g) p.regs = t := fun t => t.healRegs_none x _ _ hlost
  have hhalt : ∀ ls : List Nat, (p.effectOn (move s x.xs []) x).watchHalt x
      ((move s x.xs []).watchHits x (ls.filterMap fun l => (p.acc (move s x.xs []) x (x.en p.g) l).map fun a => (l, a))) = p.effectOn (move s x.xs []) x := by
    refine fun ls => State.watchHalt_none _ _ x _ fun a ha n hn => ?_
    obtain ⟨l, -, hacc⟩ := List.mem_filterMap.mp ha
    rcases hkeeps.effectOn (move s x.xs []) x with hnone | hbps
    · simp [hnone] at hacc
    · exact State.unwatched_match _ _ x n _ hwatch hn hbps
  simp only [Plan.body, hgoes, failing_go, staying_go, leaving_go, going_go]
  simpa [Ctx.lost_nil, hheal, hneed, Plan.effectOn] using hhalt _

/-! One step of REP -/

/-- The lanes of an issue that are listed change in their place. -/
def State.onLanes (s : State) (x : Ctx) (ls : List Nat) (f : Lane → Lane) : State :=
  s.onCohort x fun co => { co with lanes := co.lanes.map fun y => (y.1, if ls.contains y.1 then f y.2 else y.2) }
/-- The lanes that take part in iteration j: those that have not gone past it (R70). -/
def Ctx.iterating (x : Ctx) (j : Nat) : Ctx := { x with xs := x.xs.filter fun l => (x.co.lanes.find? l).elim false fun z => decide (z.repc ≤ j) }
/-- A lane that has performed iteration j counts on, or is past the repeated instruction (R70). -/
def Lane.iterated (z : Lane) (j count : Nat) (after : Pc) : Lane := if j + 1 = count then { z with repc := 0, pc := after } else { z with repc := j + 1 }
/-- With no lane parked after the repeated instruction, every lane that took part counts on. -/
theorem State.repMove_nil (s : State) (x : Ctx) (j count : Nat) (after : Pc) (ls : List Nat) :
    s.repMove x j count after ls [] = s.onLanes x ls fun z => z.iterated j count after := by
  simp [State.repMove, State.onLanes, Lane.iterated]
/-- An iteration in which every lane that takes part goes. -/
theorem State.repIter_of_go (s : State) (x : Ctx) (i : Instr) (st : RegField → Nat) (j count : Nat) (after : Pc) (p : Plan)
    (hplan : planOf (iterOf i st j) = some p) (hneed : p.need = 0)
    (hgo : ∀ l ∈ (x.iterating j).en p.g, p.verdict s (x.iterating j) ((x.iterating j).en p.g) l = .go)
    (hlost : (x.iterating j).lost ((x.iterating j).en p.g) p.regs = false) :
    let t := p.effectOn (s.onLanes x (x.iterating j).xs fun z => z.iterated j count after) (x.iterating j)
    t.unwatched x = true → s.repIter x i st j count after = t := by
  intro t hwatch
  have hbody := p.body_of_go s (x.iterating j) x.pc (fun s ls leaving => s.repMove x j count after ls leaving) (planOf_keepsWatch _ p hplan) hgo hneed hlost
  rw [State.repMove_nil] at hbody
  unfold State.repIter
  rw [hplan]
  exact hbody hwatch
theorem State.execRep_of (s : State) (x : Ctx) (len count : Nat) (st : RegField → Nat) (hctx : s.ctx = some x) (hsingle : x.co.single = none) :
    s.execRep len count st = (s.repRun x len count st).issued x := by
  simp [State.execRep, hctx, State.stepDone, hsingle]
/-- With every iteration performed the lanes go on (R70). -/
theorem State.repRun_done (s : State) (x : Ctx) (len count : Nat) (st : RegField → Nat) (w : Word) (tl : List Word)
    (hfetch : s.fetchWord x.core x.part (x.after len).toNat = .ok (w :: tl)) (hdone : count ≤ x.minRepc) :
    s.repRun x len count st = (s.keepLines x.core x.part (x.after len).toNat 1).onLanes x x.xs fun y =>
      { y with repc := 0, pc := x.after (len + 4 * lenWords w) } := by
  simp only [State.repRun, hfetch, if_pos hdone]
  rfl
/-- With iterations left the lowest one is performed, of a follower that passes the checks of REP (R69, R70). -/
theorem State.repRun_iterates (s : State) (x : Ctx) (len count : Nat) (st : RegField → Nat) (w : Word) (tl ws : List Word) (k : Instr)
    (hfetch : s.fetchWord x.core x.part (x.after len).toNat = .ok (w :: tl)) (hleft : x.minRepc < count)
    (hinstr : s.fetchInstr x.core x.part (x.after len).toNat = .ok ws)
    (hupfront : repUpfront (s.keepLines x.core x.part (x.after len).toNat (lenWords w)) x ws st x.minRepc count = .ok k) :
    s.repRun x len count st = (s.keepLines x.core x.part (x.after len).toNat (lenWords w)).repIter x k st x.minRepc count (x.after (len + 4 * lenWords w)) := by
  simp only [State.repRun, hfetch, if_neg (Nat.not_le.mpr hleft), hinstr, hupfront]

/-- Settles O36: both lengths of REP run one step, which ends the repetition or performs the lowest iteration left. -/
theorem repetition : Obligations.Repetition := by
  intro count sd sa sb sc se s x w tl hctx hsingle step_
  have hstep : ∀ i len st, exec i s = .next (s.execRep len count st) → step_ i len st := by
    intro i len st hexec hfetch
    rw [s.execRep_of x len count st hctx hsingle] at hexec
    refine ⟨fun hdone => ?_, fun ws k p hleft hinstr hupfront hplan hneed hgo hlost hwatch => ?_⟩
    · exact hexec.trans (congrArg _ (congrArg (State.issued · x) (s.repRun_done x len count st w tl hfetch hdone)))
    · have hrun := s.repRun_iterates x len count st w tl ws k hfetch hleft hinstr hupfront
      have hiter := State.repIter_of_go _ x k st x.minRepc count _ p hplan hneed hgo hlost hwatch
      exact hexec.trans (congrArg _ (congrArg (State.issued · x) (hrun.trans hiter)))
  exact ⟨hstep _ 12 _ rfl, hstep _ 4 _ rfl⟩

end Sys2Proof.Machine
end

section
/-! Instructions that read the state of registers, of the machine and of scratchpad granules (R60, R67, R71, R268, R269, R277). -/
namespace Sys2Proof.Machine

/-! What reads of the machine see of a cohort's slot -/

/-- A cohort that is replaced changes the slots and the register file of its core alone. -/
theorem State.core_setCohort (s : State) (c sl n : Nat) (co : Cohort) :
    ∃ ks rf, (s.setCohort c sl co).core n = { s.core n with slots := ks, regFile := rf } := by
  by_cases h : n = c
  · subst h
    unfold State.setCohort
    rw [State.core_modCore]
    unfold Core.vacate
    split
    · split <;> exact ⟨_, _, rfl⟩
    · exact ⟨_, _, rfl⟩
  · exact ⟨(s.core n).slots, (s.core n).regFile, s.core_modCore_other c n _ h⟩
theorem State.tlbFind_setCohort (s : State) (c sl : Nat) (co : Cohort) (core part va : Nat) : (s.setCohort c sl co).tlbFind core part va = s.tlbFind core part va := by
  obtain ⟨ks, rf, h⟩ := s.core_setCohort c sl core co
  simp only [State.tlbFind, h]
  rfl
theorem State.walk_setCohort (s : State) (c sl : Nat) (co : Cohort) (part va level pa : Nat) : (s.setCohort c sl co).walk part va level pa = s.walk part va level pa := by
  induction level generalizing pa with
  | zero => rfl
  | succ n ih =>
    simp only [State.walk, ih]
    rfl
theorem State.gWalk_setCohort (s : State) (c sl : Nat) (co : Cohort) (core part master va len : Nat) (kind : Acc) :
    (s.setCohort c sl co).gWalk core part master va len kind = s.gWalk core part master va len kind := by
  have hwalk : (s.setCohort c sl co).walkVa part va = s.walkVa part va := s.walk_setCohort c sl co part va _ _
  simp only [State.gWalk, State.tlbFind_setCohort, hwalk]
  rfl
theorem State.faultCode_setCohort (s : State) (c sl : Nat) (co : Cohort) (x : Ctx) (strand : Nat) : (s.setCohort c sl co).faultCode x strand = s.faultCode x strand := by
  have hpa : (s.setCohort c sl co).faultCodePa x strand .read = s.faultCodePa x strand .read := by
    simp only [State.faultCodePa, State.gWalk_setCohort]
    rfl
  simp only [State.faultCode, hpa]
  rfl
/-- A special register does not depend on what a cohort's slot holds (R71). -/
theorem State.sreg_setCohort (s : State) (c sl : Nat) (co : Cohort) (x : Ctx) (l : Nat) (r : SReg) : (s.setCohort c sl co).sreg x l r = s.sreg x l r := by
  cases r
  case fault => exact s.faultCode_setCohort c sl co x _
  all_goals rfl
/-- Nor does the state of a granule (R269). -/
theorem State.spStat_setCohort (s : State) (c sl : Nat) (co : Cohort) (core grove : Nat) (b : Buf) (off : Nat) :
    (s.setCohort c sl co).spStat core grove b off = s.spStat core grove b off := by
  obtain ⟨ks, rf, h⟩ := s.core_setCohort c sl core co
  simp only [State.spStat, State.granNow, h]
  cases b <;> rfl

/-! Special registers -/

/-- Lanes agree on a special register whose shape is uniform (R60, R71). -/
theorem State.sreg_uni (s : State) (x : Ctx) (r : SReg) (l m : Nat) (h : sregShape r = .uni) (ht : r = .trapimg → s.sreg x l r = s.sreg x m r) :
    s.sreg x l r = s.sreg x m r := by
  cases r
  case trapimg => exact ht rfl
  all_goals cases h <;> rfl
theorem sregShape_aff (r : SReg) (b st : Word) (h : sregShape r = .aff b st) : r = .laneid ∧ b = 0 ∧ st = 1 := by
  cases r <;> cases h
  exact ⟨rfl, rfl, rfl⟩
theorem headD_mem {l : Nat} {ls : List Nat} (h : l ∈ ls) : ls.headD 0 ∈ ls := by
  cases ls with
  | nil => simp at h
  | cons a t => simp
/-- The lanes under a guard agree on the frame of the trap they handle, where that is what is read. -/
def State.oneFrame (g : Guard) (r : SReg) (s : State) (x : Ctx) : Prop := r = .trapimg → ∀ l ∈ x.en g, ∀ m ∈ x.en g, s.sreg x l r = s.sreg x m r
theorem State.sreg_head (s : State) (x : Ctx) (g : Guard) (r : SReg) (hone : State.oneFrame g r s x) (h : sregShape r = .uni) (l : Nat) (hl : l ∈ x.en g) :
    s.sreg x l r = s.sreg x ((x.en g).headD 0) r :=
  s.sreg_uni x r l _ h fun ht => hone ht l hl _ (headD_mem hl)

/-- MOVS of either length: its register, or its pair, takes the special register's value (R71, R271). -/
theorem movs_computes (i : Instr) (g : Guard) (len d : Nat) (r : SReg) (hi : ∀ s, exec i s = .next (s.exec { planMovs g d r with len := len })) :
    let ds := if r.wide then [d, d + 1] else [d]
    Computes i g len ds [] ds (State.oneFrame g r) fun s x n l =>
      if r.wide then half d n (BitVec.ofNat 64 (s.sreg x l r)) else BitVec.ofNat 32 (s.sreg x l r) := by
  intro ds
  cases hw : r.wide with
  | true =>
    have hds : ds = [d, d + 1] := by simp [ds, hw]
    have hplan : { planMovs g d r with len := len } = plain g len (opc .movs) [d, d + 1] [] fun s x ls => s.onCohort x fun co =>
        co.write64 d (sregShape r) (sregShape r) ls fun l => BitVec.ofNat 64 (s.sreg x l r) := by
      simp [planMovs, hw, plain]
    simp only [hplan] at hi
    rw [hds]
    refine computes_pair i _ d _ (fun s x _ l => BitVec.ofNat 64 (s.sreg x l r)) (fun s x l => BitVec.ofNat 64 (s.sreg x l r)) (fun _ _ _ => sregShape r)
      (fun _ _ _ => sregShape r) hi rfl rfl (fun _ _ _ _ => rfl) (fun _ _ => rfl) (fun s x _ => plain_checks _ _ _ _ _ _ s x) ?_
    intro s x co hone _ _ t
    have hfits : ∀ (n : Nat) (h : DWord → Word), RegW.fits (n, sregShape r, fun l => h (BitVec.ofNat 64 (t.sreg x l r))) (x.en g) := by
      intro n h
      refine ⟨fun hu l hl => ?_, fun b st ha => ?_⟩
      · simp only [t, State.sreg_setCohort, s.sreg_head x g r hone hu l hl]
      · obtain ⟨rfl, -, -⟩ := sregShape_aff r b st ha
        cases hw
    exact ⟨fun l _ _ => by simp only [t, State.sreg_setCohort], hfits d _, hfits (d + 1) fun v => (v >>> 32).setWidth 32⟩
  | false =>
    have hds : ds = [d] := by simp [ds, hw]
    have hplan : { planMovs g d r with len := len } = plain g len (opc .movs) [d] [] fun s x ls => s.onCohort x fun co =>
        co.write d (sregShape r) ls fun l => BitVec.ofNat 32 (s.sreg x l r) := by
      simp [planMovs, hw, plain]
    simp only [hplan] at hi
    rw [hds]
    refine computes_write i _ d _ _ (fun _ _ _ => sregShape r) (fun s x _ l => BitVec.ofNat 32 (s.sreg x l r)) hi rfl rfl (fun _ _ _ _ => rfl) (fun _ _ => rfl)
      (fun s x _ => plain_checks _ _ _ _ _ _ s x) ?_
    intro s x co hone _ _ t
    refine ⟨fun l _ _ => ?_, fun hu l hl => ?_, fun b st ha l _ => ?_⟩
    · simp [t, State.sreg_setCohort]
    · simp only [t, State.sreg_setCohort, s.sreg_head x g r hone hu l hl]
      rfl
    · obtain ⟨rfl, rfl, rfl⟩ := sregShape_aff r b st ha
      simp [State.sreg]

/-! Registers -/

theorem shp_computes (g : Guard) (d a : Nat) :
    Computes (.shp g d a) g 12 [d, a] [] [d] always fun _ x _ _ => (x.co.regs.find? a).elim 1 fun q => BitVec.ofNat 32 q.tag := by
  refine computes_write _ (planShp g d a) d always _ (fun _ _ _ => .uni) (fun _ _ co _ => match co.regs.find? a with
    | some r => BitVec.ofNat 32 r.tag
    | none => 1) (fun _ => rfl) rfl rfl (fun _ _ _ _ => rfl) (fun _ _ => rfl) (fun s x _ => plain_checks _ _ _ _ _ _ s x) ?_
  intro s x co _ hr _
  refine ⟨fun l _ _ => ?_, fun _ _ _ => rfl, fun b st h => Sh.noConfusion h⟩
  rw [hr]
  cases x.co.regs.find? a <;> rfl
theorem uni_computes (g : Guard) (d a : Nat) : Computes (.uni g d a) g 12 [d, a] [a] [d] always fun _ x _ _ => x.co.reg a ((x.en g).headD 0) := by
  refine computes_write _ (planUni g d a) d always _ (fun _ _ _ => .uni) (fun _ x co _ => co.reg a ((x.en g).headD 0)) (fun _ => rfl) rfl rfl (fun _ _ _ _ => rfl)
    (fun _ _ => rfl) (fun s x _ => plain_checks _ _ _ _ _ _ s x) ?_
  exact fun s x co _ hr _ => ⟨fun l _ _ => Cohort.reg_congr hr a _, fun _ _ _ => rfl, fun b st h => Sh.noConfusion h⟩
/-- REGSET: a write of each of the registers in turn. -/
theorem regset_computes (g : Guard) (d n : Nat) (b : Src) :
    Computes (.regset g d n b) g 12 (run d n ++ b.regs) b.regs (run d n) always fun _ x _ l => x.co.src b l := by
  refine computes_writes _ (planRegset g d n b) (run d n) always _ (fun _ _ co => (run d n).map fun r => (r, Sh.all [co.srcShape b], fun l => co.src b l))
    (fun _ => rfl) rfl rfl (fun _ _ _ _ => rfl) (fun t x => ?_) (fun s x _ => plain_checks _ _ _ _ _ _ s x) (fun s x co m => by simp) ?_ ?_
  · simp only [Cohort.writes, List.foldl_map]
    rfl
  · intro s x co _ _ _ _ w hw
    obtain ⟨r, -, rfl⟩ := List.mem_map.mp hw
    exact ⟨fun h l _ => co.src_uni b (Sh.all_uni _ h _ (by simp)) l _, fun _ _ h => absurd h (Sh.all_not_aff _ _ _)⟩
  · intro s x co _ _ hr _ m w hw l _ _
    obtain ⟨r, -, rfl⟩ := List.mem_map.mp (List.mem_reverse.mp (List.mem_of_find?_eq_some hw))
    exact Cohort.src_congr hr b l
/-- CSRR reads TWININJ, or 0, for a launch of a privileged queue (R277). -/
theorem csrr_computes (g : Guard) (d csr : Nat) (h : csrAssigned csr = true) : Computes (.csrr g d csr) g 12 [d, d + 1] [] [d, d + 1]
    (fun s x => (s.launches.find? x.co.launch).any (fun la => la.priv) = true) (fun s _ n _ => half d n (if csr = 0x0400 then s.twininj else 0)) := by
  refine computes_pair _ (planCsrr g d csr) d _ (fun s _ _ _ => s.csr csr) (fun s _ _ => if csr = 0x0400 then s.twininj else 0) (fun _ _ _ => .uni) (fun _ _ _ => .uni)
    (fun _ => rfl) rfl rfl (fun _ _ _ _ => rfl) (fun _ _ => rfl) (fun s x hpriv => ?_) ?_
  · exact ⟨if_pos h, by simp [planCsrr, State.privileged_eq_any, hpriv], rfl, fun _ _ => rfl⟩
  · intro s x co _ _ _ t
    exact ⟨fun l _ _ => by simp [State.csr, t], ⟨fun _ _ _ => rfl, fun b st h => Sh.noConfusion h⟩, ⟨fun _ _ _ => rfl, fun b st h => Sh.noConfusion h⟩⟩

/-! The state of granules -/

/-- Plans that differ in their effects alone do the same where their effects agree. -/
theorem State.exec_act_congr (s : State) (x : Ctx) (p : Plan) (act : State → Ctx → List Nat → State) (h : s.ready x p.g p.regs p.srcs = true)
    (hb : p.bad s x = none) (hp : p.priv s x = false) (hm : p.misses s x = none) (hc : p.cls = none) (hgo : ∀ l ∈ x.en p.g, p.check s x (x.en p.g) l = .go)
    (hn : p.need = 0) (hw : ∀ s x en l, p.acc s x en l = none)
    (ha : p.act (s.setPcs x x.xs (x.after p.len)) x (x.en p.g) = act (s.setPcs x x.xs (x.after p.len)) x (x.en p.g)) :
    s.exec p = s.exec { p with act := act } := by
  rw [s.exec_ready x p h hb hp hm (by simp [hc]) hgo (.inl hn) (by simp [hw]),
    s.exec_ready x { p with act := act } h hb hp hm (by simp [hc]) hgo (.inl hn) (by simp [hw])]
  simp only [Plan.effect, ha]
/-- A plan with its effect put as a general write of one register, each lane its own value. -/
def Plan.writing (p : Plan) (d : Nat) (f : Nat → Word) : Plan := { p with act := fun t x ls => t.onCohort x fun co => co.write d .gen ls f }
/-- An issue that writes one register general, each lane under its guard its own value. -/
theorem State.exec_write_gen (s : State) (x : Ctx) (p : Plan) (d : Nat) (f : Nat → Word) (h : s.ready x p.g p.regs p.srcs = true)
    (hb : p.bad s x = none) (hp : p.priv s x = false) (hm : p.misses s x = none) (hc : p.cls = none) (hgo : ∀ l ∈ x.en p.g, p.check s x (x.en p.g) l = .go)
    (hn : p.need = 0) (hw : ∀ s x en l, p.acc s x en l = none)
    (ha : p.act (s.setPcs x x.xs (x.after p.len)) x (x.en p.g) = (s.setPcs x x.xs (x.after p.len)).onCohort x fun co => co.write d .gen (x.en p.g) f) :
    ∃ rs : NMap Reg, s.exec p = (s.firstIssued x).setCohort x.core x.slot { s.passed x p.len with regs := rs } ∧
      (∀ n l, l < 32 → l ∈ x.co.present → ({ x.co with regs := rs } : Cohort).reg n l = if n ∈ [d] ∧ l ∈ x.en p.g then f l else x.co.reg n l) ∧
      ∀ n, ({ x.co with regs := rs } : Cohort).stale n = (x.co.stale n && !(decide (n ∈ [d]) && !(x.en p.g).isEmpty)) := by
  have hexec := (s.exec_act_congr x p (p.writing d f).act h hb hp hm hc hgo hn hw ha).trans
    (s.exec_regs x (p.writing d f) (fun _ co => co.write d .gen (x.en p.g) f) h hb hp hm (by simp [Plan.writing, hc]) hgo hn hw (fun _ => rfl)
      fun _ co => co.write_eq ..)
  have hregs : (if (x.en p.g).isEmpty = true then x.co.regs else ((x.moved p.len).write d .gen (x.en p.g) f).regs) = ((x.moved p.len).write d .gen (x.en p.g) f).regs := by
    by_cases hen : x.en p.g = []
    · simp [hen, Cohort.write, Ctx.moved]
    · simp [hen]
  refine ⟨((x.moved p.len).write d .gen (x.en p.g) f).regs,
    hexec.trans (congrArg (fun rs => (s.firstIssued x).setCohort x.core x.slot { s.passed x p.len with regs := rs }) hregs), fun n l hl hpres => ?_, fun n => ?_⟩
  · simp only [List.mem_singleton]
    exact (x.moved p.len).reg_write d n l .gen (x.en p.g) f hl (by rwa [x.moved_present]) (fun h => Sh.noConfusion h) fun _ _ h => Sh.noConfusion h
  · simp only [List.mem_singleton]
    exact (x.moved p.len).stale_write d n .gen (x.en p.g) f
theorem State.spNow_of (s : State) (x : Ctx) (ls : List Nat) (release writes : Bool) (h : ∀ l ∈ ls, s.spAfter (x.strand l) release writes = []) :
    s.spNow x ls release writes = true := by
  simpa [State.spNow] using h
/-- SPSTAT within the window, with nothing before it in flight: the word of each lane's granule (R153, R268, R269). -/
theorem spstat_computes (g : Guard) (d a : Nat) (buf : Buf) : Computes (.spstat g d a buf) g 12 [d, a] [a] [d]
    (fun s x => ∀ l ∈ x.en g, s.spAfter (x.strand l) false false = [] ∧ (x.co.reg a l).toNat < (s.groves.find? (s.groveOf x l)).elim 0 (fun q => (q.win buf).2))
    (fun s x _ l => BitVec.ofNat 32 (s.spStat x.core (s.groveOf x l) buf (x.co.reg a l).toNat)) := by
  intro s x hr hok
  obtain ⟨hco, hne⟩ := s.ctx_cohort x ((s.ready_iff x g [d, a] [a]).mp hr).1
  have hmoved : s.setPcs x x.xs (x.after 12) = s.setCohort x.core x.slot (x.moved 12) := s.setPcs_of x x.co _ _ hco
  have hnow : (s.setCohort x.core x.slot (x.moved 12)).spNow x (x.en g) false false = true := State.spNow_of _ x _ _ _ fun l hl => (hok l hl).1
  have hact : (planSpstat g d a buf).act (s.setPcs x x.xs (x.after 12)) x (x.en g) = (s.setPcs x x.xs (x.after 12)).onCohort x fun co =>
      co.write d .gen (x.en g) fun l => BitVec.ofNat 32 (s.spStat x.core (s.groveOf x l) buf (x.co.reg a l).toNat) := by
    rw [hmoved]
    refine (if_pos hnow).trans ?_
    simp only [State.spStat_setCohort]
    rfl
  obtain ⟨rs, hexec, hreg, hstale⟩ := s.exec_write_gen x (planSpstat g d a buf) d _ hr rfl rfl rfl rfl
    (fun l hl => if_neg (Nat.not_le.mpr (hok l hl).2)) rfl (fun _ _ _ _ => rfl) hact
  exact ⟨rs, congrArg _ hexec, hreg, hstale⟩

/-- Settles O15: a write of each instruction's registers, from what its issue reads. -/
theorem registerStateResults : Obligations.RegisterStateResults := by
  intro g d a n csr b r buf
  exact ⟨shp_computes g d a, uni_computes g d a, regset_computes g d n b, ⟨movs_computes _ g 12 d r fun _ => rfl, movs_computes _ g 4 d r fun _ => rfl⟩,
    csrr_computes g d csr, spstat_computes g d a buf⟩

end Sys2Proof.Machine
end

section
/-! Sweeps, scans, renewals, the watchdog and the delivery of traps, an equation per case (R66, R126, R131 to R133, R375, R409). -/
namespace Sys2Proof.Machine

/-! Sweeps and scans -/

theorem exec_registerSweepDone (s : State) (core : Nat) (h : (s.core core).regSweep = true) : exec (.registerSweepDone core) s = .next (s.modCore core fun k =>
    { k with regSweep := false, gen := 1, regFile := k.regFile.filter fun x => k.slots.any fun c => c.2.rslots.contains x.1 }) :=
  congrArg _ (if_pos h)
theorem exec_spWrapSweepDone (s : State) (core : Nat) (h : (s.core core).spSweep = true) : exec (.spWrapSweepDone core) s =
    .next ((s.modCore core fun k => { k with spSweep := false, sweptAt := s.tick, spGen := 1, spW := s.kept core .w, spA := s.kept core .a, spC := s.kept core .c }).firePlain
      core fun w => w == .sweepDone) :=
  congrArg _ (if_pos h)
/-- The scan of the multiple of 512 µs just passed judges ages as of that multiple (R126). -/
theorem Core.scan_last (k : Core) (now : Nat) : k.scan now (now / 512000) =
    let mark := fun (x : Nat × Granule) => (x.1, if 256 + now % 512000 / 4000 ≤ (now / 4000 % 512 + 512 - x.2.wtick) % 512 then { x.2 with exp := true } else x.2)
    { k with scanTick := now, spW := k.spW.map mark, spA := k.spA.map mark, spC := k.spC.map mark } := by
  have hlate : now - now / 512000 * 512000 = now % 512000 := by omega
  simp only [Core.scan, hlate]
theorem exec_expiryScan (s : State) (core : Nat) (h : (s.core core).scanTick / 512000 < s.tick / 512000) :
    exec (.expiryScan core) s = .next (s.setCore core ((s.core core).scan s.tick (s.tick / 512000))) :=
  congrArg _ (if_neg (Nat.not_le.mpr h))

/-! Renewals and refreshes -/

theorem exec_sweeperRenew (s : State) (core : Nat) (b : Buf) (n : Nat) (a : Alloc) (ha : s.ownerOf core b n = some a) (har : a.ar = true)
    (hage : a.cls.ticks / 2 ≤ (s.T + 512 - ((s.core core).gran b n).wtick) % 512) :
    exec (.sweeperRenew core b n) s = .next (s.modCore core fun k => k.setGran b n (renewed s.T a ((s.core core).gran b n))) := by
  have hexec : exec (.sweeperRenew core b n) s = execSweeperRenew core b n s := rfl
  simp [hexec, execSweeperRenew, ha, har, hage]
theorem exec_l2ClassRefresh (s : State) (core : Nat) (b : Buf) (n : Nat) (a : Alloc) (ha : s.ownerOf core b n = some a) (hl : s.lcmax (dieOf core) = 1) (hc : a.cls = .l2)
    (hg : ((s.core core).gran b n).gen = a.gen) (hok : ageOk s.T ((s.core core).gran b n) a.cls = true)
    (hage : 64 ≤ (s.T + 512 - ((s.core core).gran b n).refreshed) % 512) :
    exec (.l2ClassRefresh core b n) s = .next (s.modCore core fun k => k.setGran b n { (s.core core).gran b n with refreshed := s.T }) := by
  have hexec : exec (.l2ClassRefresh core b n) s = execL2ClassRefresh core b n s := rfl
  rw [hc] at hok
  simp [hexec, execL2ClassRefresh, ha, hl, hc, hg, hok, hage]

/-! Trap delivery -/

theorem exec_trapDelivery (s : State) (launch : Nat) (la : Launch) (hl : s.launches.find? launch = some la) (hf : s.frozenL launch = false) :
    exec (.trapDelivery launch) s = .next (match (s.deliverable la false).orElse fun _ => s.deliverable la true with
      | some st => s.deliver launch st
      | none => s) := by
  have hexec : exec (.trapDelivery launch) s = execTrapDelivery launch s := rfl
  simp only [hexec, execTrapDelivery, hl, hf, Bool.false_or]
  cases s.deliverable la false <;> cases s.deliverable la true <;> rfl

/-! The watchdog -/

/-- The least PC of a cohort's lanes, which the watchdog names (R409). -/
def Cohort.lowPc (co : Cohort) : Pc := (co.lanes.map fun x => x.2.pc).foldl (fun a p => if p < a then p else a) (BitVec.allOnes 48)
/-- The strand of a cohort's first lane, for which its partition freezes (R404). -/
def Cohort.firstStrand (co : Cohort) : Nat := (co.lanes.head?.map fun x => x.2.strand).getD 0
/-- The watchdog of a cohort's partition rotates (R409). -/
def State.wdogRotates (s : State) (co : Cohort) : Bool := fld (s.part (s.launchPart co.launch)).wdog 1 0 == 1
/-- The record of a segment that has reached its limit (R409). -/
def State.wdogRec (s : State) (core : Nat) (co : Cohort) : FaultRec :=
  { (s.strandRec co.firstStrand 3 0 core 0 co.lowPc
      { code := 0x2009, akind := 0, addr := 0, gen := 0, d0 := (s.tick - co.born) / 1000, d1 := (s.wdogRotates co).toNat }) with strand := 0 }
/-- The caldera has room for the image of a cohort that would be rotated (R404). -/
def State.wdogRoom (s : State) (core : Nat) (co : Cohort) : Bool := s.calRoom (s.launchPart co.launch) (s.imageRoom (s.rotated core co co.lowPc))
/-- What the watchdog does with a segment that has reached its limit (R409). -/
theorem exec_watchdogExpiry (s : State) (core slot : Nat) (co : Cohort) (hco : s.cohort? core slot = some co) (hseen : co.wdogSeen = false)
    (hfrozen : (s.part (s.launchPart co.launch)).frozen = false) (hlim : fld (s.part (s.launchPart co.launch)).wdog 31 8 ≠ 0)
    (hreached : fld (s.part (s.launchPart co.launch)).wdog 31 8 ≤ (s.tick - co.segTick) / 1000) :
    exec (.watchdogExpiry core slot) s = .next (
      if (s.wdogRotates co && !s.wdogRoom core co) = true then s.freeze core (s.launchPart co.launch) co.firstStrand co.lowPc
      else if s.wdogRotates co = true then (s.logRec (s.wdogRec core co)).rotate core slot (s.launchPart co.launch) co co.lowPc
      else (s.logRec (s.wdogRec core co)).setCohort core slot { co with wdogSeen := true }) := by
  have hdue : (fld (s.part (s.launchPart co.launch)).wdog 31 8 == 0 || decide ((s.tick - co.segTick) / 1000 < fld (s.part (s.launchPart co.launch)).wdog 31 8) ||
      co.wdogSeen || (s.part (s.launchPart co.launch)).frozen) = false := by
    simp [hlim, Nat.not_lt.mpr hreached, hseen, hfrozen]
  have hexec : exec (.watchdogExpiry core slot) s = execWatchdogExpiry core slot s := rfl
  rw [hexec, execWatchdogExpiry, hco]
  exact congrArg _ (if_neg (Bool.eq_false_iff.mp hdue))
/-- The three outcomes: reported only, rotated, and held where there is no room. -/
theorem exec_watchdogExpiry_cases (s : State) (core slot : Nat) (co : Cohort) (hco : s.cohort? core slot = some co) (hseen : co.wdogSeen = false)
    (hfrozen : (s.part (s.launchPart co.launch)).frozen = false) (hlim : fld (s.part (s.launchPart co.launch)).wdog 31 8 ≠ 0)
    (hreached : fld (s.part (s.launchPart co.launch)).wdog 31 8 ≤ (s.tick - co.segTick) / 1000) :
    (s.wdogRotates co = false → exec (.watchdogExpiry core slot) s = .next ((s.logRec (s.wdogRec core co)).setCohort core slot { co with wdogSeen := true })) ∧
    (s.wdogRotates co = true → s.wdogRoom core co = true →
      exec (.watchdogExpiry core slot) s = .next ((s.logRec (s.wdogRec core co)).rotate core slot (s.launchPart co.launch) co co.lowPc)) ∧
    (s.wdogRotates co = true → s.wdogRoom core co = false →
      exec (.watchdogExpiry core slot) s = .next (s.freeze core (s.launchPart co.launch) co.firstStrand co.lowPc)) := by
  have hexec := exec_watchdogExpiry s core slot co hco hseen hfrozen hlim hreached
  refine ⟨fun hrot => ?_, fun hrot hroom => ?_, fun hrot hroom => ?_⟩
  · simp [hexec, hrot]
  · simp [hexec, hrot, hroom]
  · simp [hexec, hrot, hroom]
theorem exec_rotatedImageRestore (s : State) (part : Nat) (st : Stopped) (h : List.find? (fun st => s.canReturn st) (s.part part).rotated = some st) :
    exec (.rotatedImageRestore part) s = .next ((s.modPart part fun q => { q with rotated := q.rotated.erase st }).resume st) := by
  have hexec : exec (.rotatedImageRestore part) s = execRotatedImageRestore part s := rfl
  simp only [hexec, execRotatedImageRestore, h]

/-- Settles O48: an equation per case of each event. -/
theorem sweepAndTrapEvents : Obligations.SweepAndTrapEvents := by
  intro s core k
  refine ⟨exec_registerSweepDone s core, exec_spWrapSweepDone s core, fun h => ?scan, fun b n a ha => ⟨exec_sweeperRenew s core b n a ha, exec_l2ClassRefresh s core b n a ha⟩,
    fun slot co hco hseen => exec_watchdogExpiry_cases s core slot co hco hseen, exec_rotatedImageRestore s, fun launch la hl hf => ?delivery⟩
  case scan =>
    rw [exec_expiryScan s core h, Core.scan_last]
    rfl
  case delivery =>
    rw [exec_trapDelivery s launch la hl hf]
    refine ⟨fun st hst => ?_, fun st hno hst => ?_, fun hno hno' => ?_⟩
    · rw [hst]
      rfl
    · rw [hno, hst]
      rfl
    · rw [hno, hno']
      rfl

end Sys2Proof.Machine
end

section
/-! Exceptions: the checks of a whole executing set, the stop of a cohort, and the delivery of its image to a handler (R57, R181, R233, R272, R371 to R379). -/
namespace Sys2Proof.Machine

/-! Faults at issue -/

/-- The outcome of a fault that every lane of the executing set takes at its PC (R392). -/
def State.stopAll (s : State) (x : Ctx) (f : Flt) : State := (s.trap x.core x.slot x.pc (x.xs.map fun l => (l, f)) 2).issued x
/-- A fault of rows 3 to 5 of R181 stops the whole executing set. -/
theorem State.exec_upfront (s : State) (x : Ctx) (p : Plan) (f : Flt) (hctx : s.ctx = some x) (hsingle : x.co.single = none) (h : p.upfront s x = some f) :
    s.exec p = s.stopAll x f := by
  simp [State.exec, hctx, Plan.run, h, State.stepDone, hsingle, State.stopAll]
/-- A privileged instruction of an unprivileged launch faults with its opcode, unless its context already refuses it (R181, R272). -/
theorem Plan.upfront_priv (p : Plan) (s : State) (x : Ctx) (hb : p.bad s x = none) (hp : p.priv s x = true) :
    p.upfront s x = some { code := 0x0002, akind := 0, addr := 0, gen := 0, d0 := p.xop, d1 := 0 } := by
  simp [Plan.upfront, hb, hp]
/-- A register at or above the allotment faults with its number (R57). -/
theorem Plan.upfront_range (p : Plan) (s : State) (x : Ctx) (r : Nat) (hb : p.bad s x = none) (hp : p.priv s x = false) (hm : p.misses s x = none)
    (hr : overAllot p.regs x.co.allot = some r) : p.upfront s x = some (rangeFault r x.co.allot x.repc) := by
  simp [Plan.upfront, hb, hp, hm, hr]
/-- The one lane under the guard fails the check of its operands: it faults (R181, R392). -/
theorem State.exec_bad (s : State) (x : Ctx) (p : Plan) (l : Nat) (f : Flt) (hen : x.en p.g = [l]) (h : s.ready x p.g p.regs p.srcs = true) (hb : p.bad s x = none)
    (hp : p.priv s x = false) (hm : p.misses s x = none) (hcls : p.cls = none) (hbad : p.check s x [l] l = .bad f) :
    s.exec p = (s.trap x.core x.slot x.pc [(l, f)] 2).issued x := by
  obtain ⟨hctx, hsingle, hregs, -⟩ := (s.ready_iff x p.g p.regs p.srcs).mp h
  have hverdict : p.verdict s x [l] l = .bad f := by
    have hcheck := p.verdict_check s x l h (by simp [hen]) (by simp [hcls])
    rwa [hen, hbad] at hcheck
  simp [State.exec, hctx, Plan.run, p.upfront_none s x hb hp hm hregs, Plan.body, hen, hverdict, failing, State.stepDone, hsingle]
/-- A target of more than 48 bits, or that is no multiple of 4, fails (R233). -/
theorem targetCheck_bad (a : Nat) (x : Ctx) (l : Nat) (h : 2 ^ 48 ≤ (x.co.reg64 a l).toNat ∨ (x.co.reg64 a l).toNat % 4 ≠ 0) :
    targetCheck a x l = .bad { code := 0x0009, akind := 0, addr := 0, gen := 0, d0 := (x.co.reg64 a l).toNat, d1 := 0 } := by
  refine if_pos ?_
  rw [Bool.or_eq_true, bne_iff_ne, bne_iff_ne]
  exact h.imp_left fun h => by omega

/-! The stop of a cohort -/

/-- No register word with an uncorrectable error keeps a cohort's image from being saved (R421). -/
theorem Cohort.lostReg_none (co : Cohort) (h : ∀ y ∈ co.lanes, y.2.lost (List.range co.allot) = false) : co.lostReg = none := by
  rw [Cohort.lostReg, List.findSome?_eq_none_iff]
  intro y hy
  have hlost := h y hy
  simpa [Lane.lost, and_assoc] using hlost
/-- What a fault does with a cohort of a launch that is no staged node (R371 to R374, R378). -/
theorem State.trap_of (s : State) (core sl : Nat) (pc : Pc) (co : Cohort) (la : Launch) (l : Nat) (f : Flt) (fs : NMap Flt) (sev : Nat)
    (hco : s.cohort? core sl = some co) (hla : s.launches.find? co.launch = some la) (hst : la.isStaged = false) :
    (co.kind = .trap → s.trap core sl pc ((l, f) :: fs) sev =
      s.terminate co.launch { (s.cohortRec core co pc ((l, f) :: fs) 1 3) with flt := { f with code := 0x5008, d0 := f.code, d1 := 0 } }) ∧
    (co.kind ≠ .trap → la.pkt.trapEnt = 0 → s.trap core sl pc ((l, f) :: fs) sev = s.terminate co.launch (s.cohortRec core co pc ((l, f) :: fs) 1 3)) := by
  constructor
  · intro hk
    simp [State.trap, hco, hla, hst, hk]
  · intro hk he
    simp [State.trap, hco, hla, hst, hk, he]
/-- The image of a cohort that stops at a fault, for its handler (R371). -/
def State.faultImage (s : State) (core : Nat) (co : Cohort) (faults : NMap Flt) (sev : Nat) (pc : Pc) (code : Nat) : Stopped :=
  ({ co with single := none, birthFault := none } : Cohort).stop s.tick core faults sev pc code
/-- With a handler, and an image that can be saved: its image waits for delivery, unless it has to wait behind another and the caldera has no room (R374, R375, R404). -/
theorem State.trap_handled (s : State) (core sl : Nat) (pc : Pc) (co : Cohort) (la : Launch) (l : Nat) (f : Flt) (fs : NMap Flt) (sev : Nat)
    (hco : s.cohort? core sl = some co) (hla : s.launches.find? co.launch = some la) (hst : la.isStaged = false) (hk : co.kind ≠ .trap) (he : la.pkt.trapEnt ≠ 0)
    (hs : co.single = none) (hlost : co.lostReg = none) :
    let st := s.faultImage core co ((l, f) :: fs) sev pc f.code
    let ahead := s.trapAhead la (s.imgTrailing st)
    s.trap core sl pc ((l, f) :: fs) sev =
      if (ahead && !s.calRoom la.part (s.imageRoom st)) = true then s.freeze core la.part co.firstStrand pc
      else (if ahead = true then s.modCore core fun k => k.vacate sl else (s.modCore core fun k => k.vacate sl).modCore core fun k =>
          { k with kept := k.kept.put sl (co.launch, co.kind == .handler, co.allot, co.gen) }).modLaunch co.launch fun la => { la with waiting := la.waiting ++ [st] } := by
  intro st ahead
  have hpart : s.launchPart co.launch = la.part := by simp [State.launchPart, hla]
  unfold State.trap
  simp only [hco, hla, Option.elim_some, hst, Bool.false_and, beq_iff_eq, hk, he, hs, hlost, hpart, Option.isSome_none, Bool.false_eq_true, if_false]
  rfl
/-- A trap of the same copy of the launch is in delivery, or waits (R374, R458). -/
theorem State.trapAhead_iff (s : State) (la : Launch) (trailing : Bool) : s.trapAhead la trailing = true ↔
    (∃ q ∈ la.frames, q.trailing = trailing ∧ q.restored = false) ∨ ∃ w ∈ la.waiting, s.imgTrailing w = trailing := by
  simp [State.trapAhead]
/-- The cohort of a slot leaves it; what it wrote stays in the register file (R60, R64). -/
theorem State.modCore_vacate (s : State) (core sl : Nat) (co : Cohort) (h : s.cohort? core sl = some co) :
    (s.modCore core fun k => k.vacate sl) = s.modCore core fun k => { k with slots := k.slots.del sl, regFile := co.stamp k.regFile } := by
  have hslot : (s.core core).slots.find? sl = some co := h
  simp only [State.modCore, Core.vacate, hslot]
/-- The three outcomes: the first to wait keeps its slot for its handler, one behind another needs room in the caldera, and without room it is held. -/
theorem State.trap_handled_cases (s : State) (core sl : Nat) (pc : Pc) (co : Cohort) (la : Launch) (l : Nat) (f : Flt) (fs : NMap Flt) (sev : Nat) (st : Stopped)
    (hco : s.cohort? core sl = some co) (hla : s.launches.find? co.launch = some la) (hst : la.isStaged = false) (hk : co.kind ≠ .trap) (he : la.pkt.trapEnt ≠ 0)
    (hs : co.single = none) (hlost : co.lostReg = none) (himg : s.faultImage core co ((l, f) :: fs) sev pc f.code = st) :
    (s.trapAhead la (s.imgTrailing st) = false → s.trap core sl pc ((l, f) :: fs) sev = (s.modCore core fun k => { k with
        slots := k.slots.del sl, regFile := co.stamp k.regFile, kept := k.kept.put sl (co.launch, co.kind == .handler, co.allot, co.gen) }).modLaunch
      co.launch fun la => { la with waiting := la.waiting ++ [st] }) ∧
    (s.trapAhead la (s.imgTrailing st) = true → s.calRoom la.part (s.imageRoom st) = true →
      s.trap core sl pc ((l, f) :: fs) sev = (s.modCore core fun k => { k with slots := k.slots.del sl, regFile := co.stamp k.regFile }).modLaunch
        co.launch fun la => { la with waiting := la.waiting ++ [st] }) ∧
    (s.trapAhead la (s.imgTrailing st) = true → s.calRoom la.part (s.imageRoom st) = false →
      s.trap core sl pc ((l, f) :: fs) sev = s.freeze core la.part co.firstStrand pc) := by
  have htrap := s.trap_handled core sl pc co la l f fs sev hco hla hst hk he hs hlost
  rw [himg, s.modCore_vacate core sl co hco, State.modCore_modCore] at htrap
  refine ⟨fun ha => ?_, fun ha hr => ?_, fun ha hr => ?_⟩
  · simpa [ha] using htrap
  · simpa [ha, hr] using htrap
  · simpa [ha, hr] using htrap

/-! Delivery -/

/-- The bytes of the frame of a stopped cohort: the record, each lane's code and address, and the image (R373). -/
def State.frameBytes (s : State) (st : Stopped) : List Byte :=
  (s.cohortRec st.core st.cohort st.pc st.faults 1 st.sev).bytes st.tick 0 false ++ ((List.range 32).flatMap fun l => leBytes 2 ((st.faults.find? l).elim 0 fun f => f.code)) ++
    ((List.range 32).flatMap fun l => leBytes 8 ((st.faults.find? l).elim 0 fun f => f.addr)) ++ List.replicate 128 0 ++ s.imageBytes st
/-- The write of the frame: the state after, and the fault it meets (R375). -/
def State.frameWrite (s : State) (la : Launch) (st : Stopped) : State × Option Flt :=
  s.vaWrite st.core la.part la.part (lineFuel (s.frameBytes st).length) (la.frameVa (s.imgTrailing st)) (s.frameBytes st)
/-- The lines of the frame that the host may hold (R328). -/
def State.frameHeld (s : State) (la : Launch) (st : Stopped) : List Nat :=
  s.vaHeld st.core la.part la.part (lineFuel (s.frameBytes st).length) (la.frameVa (s.imgTrailing st)) (s.frameBytes st).length
/-- A frame that cannot be written ends the launch (R375). -/
theorem State.deliver_refused (s t : State) (launch : Nat) (la : Launch) (st : Stopped) (f : Flt) (hla : s.launches.find? launch = some la) (hheld : s.frameHeld la st = [])
    (hwrite : s.frameWrite la st = (t, some f)) :
    let rec_ := s.cohortRec st.core st.cohort st.pc st.faults 1 st.sev
    s.deliver launch st = t.terminate launch { rec_ with sev := 3, flt := { rec_.flt with code := 0x5009, d0 := rec_.flt.code, d1 := f.code } } := by
  unfold State.frameHeld State.frameBytes at hheld
  unfold State.frameWrite State.frameBytes at hwrite
  simp only [State.deliver, hla, State.whenFree, hheld, hwrite, List.isEmpty_nil, if_true]
/-- The cohort of a handler, in the place of the one it handles (R375). -/
def Cohort.IsHandlerOf (h co : Cohort) (entry : Pc) : Prop :=
  h.kind = .trap ∧ h.regs = [] ∧ h.launch = co.launch ∧ h.stage = co.stage ∧ h.allot = co.allot ∧ h.lanes.length = co.nlanes ∧
    ∀ y ∈ h.lanes, y.2.pc = entry ∧ y.2.preds = 0 ∧ y.2.repc = 0 ∧ y.2.poison = []
theorem State.cohort?_modLaunch (s : State) (n : Nat) (f : Launch → Launch) (c sl : Nat) : (s.modLaunch n f).cohort? c sl = s.cohort? c sl := rfl
theorem State.cohort?_modCore_put (s : State) (c sl : Nat) (h : Cohort) (f : Core → Core) (hf : (f (s.core c)).slots = (s.core c).slots.put sl h) :
    (s.modCore c f).cohort? c sl = some h := by
  rw [State.cohort?, State.core_modCore, hf, NMap.find?_put_same]
/-- With the frame written and room for it, the handler cohort forms in the slot kept for it, else in the lowest free one (R375). -/
theorem State.deliver_forms (s t : State) (launch : Nat) (la : Launch) (st : Stopped) (sl gen : Nat) (hla : s.launches.find? launch = some la) (hheld : s.frameHeld la st = [])
    (hwrite : s.frameWrite la st = (t, none)) (hfits : (t.modCore st.core fun k => k.release ((t.core st.core).keptFor st.cohort)).cohortFits st.core launch false st.cohort.allot = true)
    (hslot : (t.core st.core).keptFor st.cohort = some sl ∨ (t.core st.core).keptFor st.cohort = none ∧ (t.core st.core).freeSlot = some sl)
    (hgen : (t.core st.core).nextGen = some gen) (hsweep : (t.core st.core).regSweep = false) :
    ∃ h, (s.deliver launch st).cohort? st.core sl = some h ∧ h.IsHandlerOf st.cohort (BitVec.ofNat 48 (la.pkt.codeVa + la.pkt.trapEnt)) := by
  have hplace : (((t.core st.core).keptFor st.cohort).orElse fun _ => (t.core st.core).freeSlot) = some sl := by
    rcases hslot with hkept | ⟨hkept, hfree⟩
    · rw [hkept]
      rfl
    · rw [hkept]
      exact hfree
  unfold State.frameHeld State.frameBytes at hheld
  unfold State.frameWrite State.frameBytes at hwrite
  simp only [State.deliver, hla, State.whenFree, hheld, hwrite, List.isEmpty_nil, if_true, hfits, hplace, hgen, hsweep, Bool.false_eq_true, if_false]
  refine ⟨_, (State.cohort?_modLaunch ..).trans (State.cohort?_modCore_put _ _ sl _ _ rfl), rfl, rfl, rfl, rfl, rfl, by simp, fun y hy => ?_⟩
  obtain ⟨l, -, rfl⟩ := List.mem_map.mp hy
  exact ⟨rfl, rfl, rfl, rfl⟩

/-- Settles O54: what each check of an issue faults with, an equation per outcome of a stop, and the handler that a delivery forms. -/
theorem trapEntryAndDelivery : Obligations.TrapEntryAndDelivery := by
  refine ⟨fun s x g hctx hsingle => ⟨fun d a r hr => ?range, fun hpriv => ?privileged, fun hk => ?tret, fun a l hen hready htarget => ?brx⟩,
    fun s core sl pc co la l f fs sev hco hla hst => ?stop, fun s launch la st img codes addrs hla => ?delivery⟩
  case range => exact congrArg _ (s.exec_upfront x (planMov g d a) _ hctx hsingle ((planMov g d a).upfront_range s x r rfl rfl rfl hr))
  case privileged =>
    have hnot : s.privileged x.co.launch = false := (s.privileged_eq_any _).trans hpriv
    have hstop : ∀ p : Plan, p.bad s x = none → p.priv s x = true → s.exec p = s.stopAll x { code := 0x0002, akind := 0, addr := 0, gen := 0, d0 := p.xop, d1 := 0 } :=
      fun p hb hp => s.exec_upfront x p _ hctx hsingle (p.upfront_priv s x hb hp)
    exact ⟨fun k sc => congrArg _ (hstop (planTlbinv g k sc) rfl (congrArg not hnot)), fun d => congrArg _ (hstop (planCsrr g d 0x0400) rfl (congrArg not hnot)),
      fun a => congrArg _ (hstop (planCsrw g 0x0400 a) rfl (congrArg not hnot)), fun hhold => congrArg _ (hstop (planHalt g) rfl (by simp [planHalt, hnot, hhold]))⟩
  case tret => exact congrArg _ (s.exec_upfront x (planTret g) _ hctx hsingle ((planTret g).upfront_priv s x rfl (bne_iff_ne.mpr hk)))
  case brx => exact congrArg _ (s.exec_bad x (planBrx g a) l _ hen hready rfl rfl rfl rfl (targetCheck_bad a x l htarget))
  case stop =>
    obtain ⟨hends, hends'⟩ := s.trap_of core sl pc co la l f fs sev hco hla hst
    refine ⟨hends, hends', fun hk he hs hlost => ?_⟩
    have hahead := s.trapAhead_iff la (s.imgTrailing (s.faultImage core co ((l, f) :: fs) sev pc f.code))
    obtain ⟨hfirst, hbehind, hfull⟩ := s.trap_handled_cases core sl pc co la l f fs sev _ hco hla hst hk he hs (co.lostReg_none hlost) rfl
    exact ⟨fun hno => hfirst (Bool.eq_false_iff.mpr (mt hahead.mp hno)), fun ha hroom => hbehind (hahead.mpr ha) hroom, fun ha hroom => hfull (hahead.mpr ha) hroom⟩
  case delivery =>
    rintro rec_ rfl rfl rfl bs wrote hheld
    refine ⟨fun f hf => s.deliver_refused _ launch la st f hla hheld (Prod.ext rfl hf), fun sl gen hnone hfits hslot hgen hsweep => ?_⟩
    obtain ⟨h, hco, hh⟩ := s.deliver_forms _ launch la st sl gen hla hheld (Prod.ext rfl hnone) hfits hslot hgen hsweep
    exact ⟨h, hco, hh⟩

end Sys2Proof.Machine
end

section
/-! Rounding and decoding of the binary formats (R77 to R79, R90): a value that a format holds rounds to its own code, and FP32 decodes by its sign bit and its magnitude. -/
namespace Sys2Proof

/-! Rounding a value that the format holds -/

theorem shiftDown_eq (k : Int) (x : Nat) : (if 0 ≤ k then x else x * 2 ^ (-k).toNat) = x * 2 ^ (-k).toNat := by
  split
  · simp [Int.toNat_of_nonpos, *]
  · rfl
theorem shiftUp_eq (k : Int) (x : Nat) : (if 0 ≤ k then x * 2 ^ k.toNat else x) = x * 2 ^ k.toNat := by
  split
  · rfl
  · simp [Int.toNat_of_nonpos (Int.le_of_lt (Int.not_le.mp ‹_›))]
/-- A dyadic as a fraction of powers of two, one of which is 1. -/
theorem ratio_eq (n : Nat) (k : Int) : ratio n k = (n * 2 ^ k.toNat, 2 ^ (-k).toNat) := by
  rw [← shiftUp_eq k n, ← one_mul (2 ^ (-k).toNat), ← shiftDown_eq k 1, one_mul, ratio]
  split <;> rfl
theorem flog2_dyadic (n a b : Nat) (hn : n ≠ 0) : flog2 (n * 2 ^ a) (2 ^ b) = Nat.log2 n + a - b := by
  have hle : 2 ^ (Nat.log2 n + a) ≤ n * 2 ^ a := by
    rw [pow_add]
    exact Nat.mul_le_mul_right _ (Nat.log2_self_le hn)
  have hlt : n * 2 ^ a < 2 ^ (Nat.log2 n + a + 1) := by
    rw [Nat.add_right_comm, pow_add]
    exact Nat.mul_lt_mul_of_pos_right Nat.lt_log2_self (by positivity)
  have hlog : Nat.log2 (n * 2 ^ a) = Nat.log2 n + a := (Nat.log2_eq_iff (by positivity)).mpr ⟨hle, hlt⟩
  unfold flog2
  rw [hlog, Nat.log2_two_pow]
  generalize hd : ((Nat.log2 n + a : Nat) : Int) - (b : Nat) = d
  by_cases h0 : 0 ≤ d
  · have : 2 ^ b * 2 ^ d.toNat ≤ n * 2 ^ a := by
      rwa [← pow_add, show b + d.toNat = Nat.log2 n + a by omega]
    simp only [h0, if_true, this, decide_true]
    omega
  · have : 2 ^ b ≤ n * 2 ^ a * 2 ^ (-d).toNat := by
      rw [show b = Nat.log2 n + a + (-d).toNat by omega, pow_add]
      exact Nat.mul_le_mul_right _ hle
    simp only [h0, if_false, this, decide_true, if_true]
    omega
theorem flog2_ratio (n : Nat) (k : Int) (hn : n ≠ 0) : flog2 (ratio n k).1 (ratio n k).2 = Nat.log2 n + k := by
  rw [ratio_eq, flog2_dyadic n _ _ hn]
  omega
/-- An exact magnitude is never rounded up. -/
@[simp] theorem roundsUp_exact (mode : Mode) (neg : Bool) (t D : Nat) (hD : D ≠ 0) : roundsUp mode neg t 0 D = false := by
  cases mode
  case rn => simp [roundsUp, hD.symm]
  case sr rb => simp [roundsUp, Nat.mod_lt]
  all_goals simp [roundsUp]

/-- The code of a finite magnitude n * 2^k that a format holds, with n < 2^m for the subnormals (R78). -/
def FP.magCode (F : FP) (n : Nat) (k : Int) : Nat := if n < 2 ^ F.m then n else (k + F.m + F.bias).toNat * 2 ^ F.m + (n - 2 ^ F.m)
/-- A format holds n * 2^k as it is: a subnormal at the least exponent, or a normal one up to the largest finite value. -/
structure FP.Holds (F : FP) (n : Nat) (k : Int) : Prop where
  sig_lt : n < 2 ^ (F.m + 1)
  least : F.emin - F.m ≤ k
  subnormal : n < 2 ^ F.m → k = F.emin - F.m
  notAbove : k ≤ F.maxK
  largest : k = F.maxK → n ≤ F.maxSig
/-- Rounding a magnitude that the format holds gives its code, in every mode (R90). -/
theorem FP.roundMag_exact (F : FP) (mode : Mode) (sat neg : Bool) (n : Nat) (k : Int) (hn : n ≠ 0) (h : F.Holds n k) :
    F.roundMag mode sat neg (ratio n k).1 (ratio n k).2 = F.sign neg + F.magCode n k := by
  have hexp : max (flog2 (ratio n k).1 (ratio n k).2) F.emin = k + F.m := by
    rw [flog2_ratio n k hn]
    have hlog : Nat.log2 n < F.m + 1 := (Nat.log2_lt hn).mpr h.sig_lt
    have hleast := h.least
    by_cases hs : n < 2 ^ F.m
    · have := (Nat.log2_lt hn).mpr hs
      have := h.subnormal hs
      omega
    · have : F.m ≤ Nat.log2 n := (Nat.le_log2 hn).mpr (Nat.le_of_not_lt hs)
      omega
  have hD : 2 ^ (-k).toNat * 2 ^ k.toNat ≠ 0 := by positivity
  have hscaled : n * 2 ^ k.toNat * 2 ^ (-k).toNat = n * (2 ^ (-k).toNat * 2 ^ k.toNat) := by ring
  have hfits : ¬(F.maxK < k ∨ k = F.maxK ∧ F.maxSig < n) := by
    simpa [h.notAbove] using h.largest
  unfold FP.roundMag
  simp only [hexp, add_sub_cancel_right, shiftDown_eq, shiftUp_eq]
  simp only [ratio_eq, hscaled, Nat.mul_div_cancel _ (Nat.pos_of_ne_zero hD), Nat.mul_mod_left, roundsUp_exact _ _ _ _ hD, FP.magCode]
  simp [hn, hfits, apply_ite (F.sign neg + ·)]
/-- A value that the format holds rounds to its own code, in every mode (R90). -/
theorem FP.round_exact (F : FP) (mode : Mode) (sat neg : Bool) (n : Nat) (k : Int) (h : F.Holds n k) :
    F.round mode sat (.fin neg n k) = F.sign neg + F.magCode n k := by
  by_cases hn : n = 0
  · subst hn
    simp [FP.round, ratio_eq, FP.roundMag, FP.magCode]
  · exact F.roundMag_exact mode sat neg n k hn h

/-! FP32 by its sign bit and its magnitude -/

/-- The value of an FP32 code with the magnitude n, the code without its sign bit (R78). -/
def f32Mag (neg : Bool) (n : Nat) : FVal :=
  if 0x7F800000 < n then .nan
  else if n = 0x7F800000 then .inf neg
  else if n < 2 ^ 23 then .fin neg n (-149)
  else .fin neg (2 ^ 23 + n % 2 ^ 23) ((n / 2 ^ 23 : Nat) - 150)
theorem f32_eq (a : Word) : f32 a = f32Mag a.msb (a.toNat % 2 ^ 31) := by
  have hneg : (a.toNat / 2 ^ 31 % 2 == 1) = a.msb := by
    rw [BitVec.msb_eq_decide, Bool.eq_iff_iff, beq_iff_eq, decide_eq_true_iff]
    omega
  have hexp : a.toNat / 2 ^ 23 % 2 ^ 8 = a.toNat % 2 ^ 31 / 2 ^ 23 := by omega
  have hfrac : a.toNat % 2 ^ 23 = a.toNat % 2 ^ 31 % 2 ^ 23 := by omega
  have hlt : a.toNat % 2 ^ 31 < 2 ^ 31 := Nat.mod_lt _ (by decide)
  have hdec : f32 a = fp32.decode a.toNat := rfl
  simp only [hdec, FP.decode, fp32, FP.ebits, FP.emin, Nat.add_one_sub_one, Nat.reduceSub, hneg, hexp, hfrac, f32Mag]
  generalize a.toNat % 2 ^ 31 = n at hlt
  by_cases hnan : 0x7F800000 < n
  · have htop : n / 8388608 = 255 := by omega
    have hfrac : n % 8388608 ≠ 0 := by omega
    simp [hnan, htop, hfrac]
  by_cases hinf : n = 0x7F800000
  · simp [hinf]
  have htop : n / 8388608 ≠ 255 := by omega
  by_cases hsub : n < 8388608
  · simp [hnan, hinf, htop, hsub, Nat.mod_eq_of_lt hsub]
  · simp [hnan, hinf, htop, hsub]
    omega
@[simp] theorem f32Mag_abs (neg : Bool) (n : Nat) : (f32Mag neg n).abs = f32Mag false n := by
  unfold f32Mag
  split_ifs <;> rfl
@[simp] theorem f32Mag_flip (neg : Bool) (n : Nat) : (f32Mag neg n).flip = f32Mag (!neg) n := by
  unfold f32Mag
  split_ifs <;> rfl
theorem f32Mag_isNan (neg : Bool) (n : Nat) : (f32Mag neg n).isNan = decide (0x7F800000 < n) := by
  unfold f32Mag
  split_ifs <;> simp [FVal.isNan, *]
theorem f32Mag_isFin (neg : Bool) (n : Nat) : (f32Mag neg n).isFin = decide (n < 0x7F800000) := by
  unfold f32Mag
  split_ifs <;> simp [FVal.isFin] <;> omega
theorem fp32_holds (n : Nat) (k : Int) (hn : n < 2 ^ 24) (hlow : -149 ≤ k) (hsub : n < 2 ^ 23 → k = -149) (hhigh : k ≤ 104) : fp32.Holds n k :=
  ⟨hn, hlow, hsub, hhigh, fun _ => Nat.le_of_lt_succ hn⟩
theorem fp32_round_f32Mag (mode : Mode) (neg : Bool) (n : Nat) (h : n ≤ 0x7F800000) : fp32.round mode false (f32Mag neg n) = fp32.sign neg + n := by
  unfold f32Mag
  split_ifs with hnan hinf hsub
  · omega
  · rw [hinf]
    rfl
  · rw [fp32.round_exact _ _ _ _ _ (fp32_holds _ _ (by omega) (by omega) (by omega) (by omega)), FP.magCode]
    exact congrArg _ (if_pos hsub)
  · rw [fp32.round_exact _ _ _ _ _ (fp32_holds _ _ (by omega) (by omega) (by omega) (by omega)), FP.magCode]
    refine congrArg _ ((if_neg (Nat.not_lt.mpr (Nat.le_add_right _ _))).trans ?_)
    simp only [fp32]
    omega
/-- A word is its sign bit and its magnitude. -/
theorem word_of_sign_mag (a : Word) : BitVec.ofNat 32 (fp32.sign a.msb + a.toNat % 2 ^ 31) = a := by
  apply BitVec.eq_of_toNat_eq
  simp [FP.sign, fp32, BitVec.msb_eq_decide]
  split_ifs <;> omega
/-- Rounding an FP32 value into FP32 gives it back, in every mode (R90). -/
theorem roundF32_f32 (mode : Mode) (a : Word) (h : ¬(f32 a).isNan) : roundF32 mode (f32 a) = a := by
  have hle : a.toNat % 2 ^ 31 ≤ 0x7F800000 := by
    simpa [f32_eq, f32Mag_isNan] using h
  rw [f32_eq, roundF32, fp32_round_f32Mag mode _ _ hle, word_of_sign_mag]
/-- Clearing the sign bit gives the magnitude. -/
theorem f32_clearSign (a : Word) : f32 (a &&& 0x7FFFFFFF) = (f32 a).abs := by
  have hmag : (a &&& 0x7FFFFFFF).toNat % 2 ^ 31 = a.toNat % 2 ^ 31 := by
    simp [Nat.and_two_pow_sub_one_eq_mod a.toNat 31]
  rw [f32_eq, f32_eq a, hmag, f32Mag_abs, BitVec.msb_and, show (0x7FFFFFFF : Word).msb = false from rfl, Bool.and_false]
/-- Flipping the sign bit reverses the sign. -/
theorem f32_flipSign (a : Word) : f32 (a ^^^ 0x80000000) = (f32 a).flip := by
  have hmag : (a ^^^ 0x80000000).toNat % 2 ^ 31 = a.toNat % 2 ^ 31 := by
    rw [BitVec.toNat_xor, Nat.xor_mod_two_pow]
    exact Nat.xor_zero _
  rw [f32_eq, f32_eq a, hmag, f32Mag_flip, BitVec.msb_xor, show (0x80000000 : Word).msb = true from rfl, Bool.xor_true]
theorem FVal.isNan_abs (v : FVal) : v.abs.isNan = v.isNan := by cases v <;> rfl
theorem FVal.isNan_flip (v : FVal) : v.flip.isNan = v.isNan := by cases v <;> rfl

end Sys2Proof

namespace Sys2Proof.Machine

/-- Settles O10: FABS and FNEG give the value of the word with its sign bit cleared or flipped, and that rounds to itself. -/
theorem floatRoundingKeepsValues : Obligations.FloatRoundingKeepsValues := by
  intro m a hnan
  refine ⟨roundF32_f32 m a hnan, ?_, ?_⟩
  · rw [← f32_clearSign]
    exact roundF32_f32 .rn _ (by rwa [f32_clearSign, FVal.isNan_abs])
  · rw [← f32_flipSign]
    exact roundF32_f32 .rn _ (by rwa [f32_flipSign, FVal.isNan_flip])

end Sys2Proof.Machine
end

section
/-! Operations on values with a NaN and with opposite operands (R93 to R95). -/
namespace Sys2Proof

theorem FVal.eq_nan_of_isNan (v : FVal) (h : v.isNan = true) : v = .nan := by
  cases v with
  | nan => rfl
  | inf | fin => cases h
@[simp] theorem FVal.nan_add (mode : Mode) (v : FVal) : FVal.nan.add mode v = .nan := rfl
@[simp] theorem FVal.add_nan (mode : Mode) (v : FVal) : v.add mode .nan = .nan := by cases v <;> rfl
@[simp] theorem FVal.nan_mul (v : FVal) : FVal.nan.mul v = .nan := rfl
@[simp] theorem FVal.mul_nan (v : FVal) : v.mul .nan = .nan := by cases v <;> rfl
@[simp] theorem FVal.flip_nan : FVal.nan.flip = .nan := rfl
@[simp] theorem FVal.nan_minNum (v : FVal) : FVal.nan.minNum v = v := rfl
@[simp] theorem FVal.minNum_nan (v : FVal) : v.minNum .nan = v := by cases v <;> rfl
@[simp] theorem FVal.nan_maxNum (v : FVal) : FVal.nan.maxNum v = v := rfl
@[simp] theorem FVal.maxNum_nan (v : FVal) : v.maxNum .nan = v := by cases v <;> rfl
/-- A NaN rounds to the canonical one (R93). -/
@[simp] theorem roundF32_nan (mode : Mode) : roundF32 mode .nan = 0x7FC00000 := rfl
/-- Opposite mantissas cancel. -/
theorem mant_add_mant_not (neg : Bool) (n : Nat) (e e0 : Int) : mant neg n e e0 + mant (!neg) n e e0 = 0 := by
  cases neg <;> simp [mant]
/-- The exact zero sum of a finite value and its opposite is −0 under .rd and +0 otherwise (R94). -/
theorem FVal.add_flip_self (mode : Mode) (v : FVal) (h : v.isFin = true) : v.add mode v.flip = .fin (mode == .rd) 0 0 := by
  cases v with
  | nan | inf => cases h
  | fin s n e =>
    by_cases hn : n = 0
    · simp [FVal.add, FVal.flip, hn]
    · simp [FVal.add, FVal.flip, hn, mant_add_mant_not]
/-- A zero keeps its sign when it is rounded (R90). -/
theorem roundF32_zero (mode : Mode) (neg : Bool) (e : Int) : roundF32 mode (.fin neg 0 e) = if neg then 0x80000000 else 0 := by
  cases neg <;> simp [roundF32, FP.round, ratio_eq, FP.roundMag, FP.sign, fp32]
theorem f32_isFin (a : Word) (h : a.toNat % 2 ^ 31 < 0x7F800000) : (f32 a).isFin = true := by
  rw [f32_eq, f32Mag_isFin]
  exact decide_eq_true h
theorem RM.mode_eq_rd (m : RM) : (m.mode == .rd) = decide (m = .rd) := by cases m <;> rfl

end Sys2Proof

namespace Sys2Proof.Machine

/-- Settles O9: a NaN goes through each exact operation, a finite value and its opposite cancel to a zero, and an FP32 value rounds to itself. -/
theorem floatNanAndZeroRules : Obligations.FloatNanAndZeroRules := by
  intro m a b c
  refine ⟨fun h => ?anyNan, fun _ hfin => ?cancel, fun ha hb => ?oneNan, fun ha hb => ?twoNan, ?zeros⟩
  case anyNan =>
    rcases h with h | h <;> simp [faddR, fsubR, fmulR, ffmaR, (f32 _).eq_nan_of_isNan h]
  case cancel =>
    rw [fsubR, FVal.add_flip_self _ _ (f32_isFin a hfin), roundF32_zero, RM.mode_eq_rd]
    simp
  case oneNan => simp [fminW, fmaxW, (f32 a).eq_nan_of_isNan ha, roundF32_f32 .rn b hb]
  case twoNan => simp [fminW, fmaxW, (f32 a).eq_nan_of_isNan ha, (f32 b).eq_nan_of_isNan hb]
  case zeros => decide

end Sys2Proof.Machine
end

section
/-! QBLK over a lane table that lists a lane beyond the 32 of R22 (R216). QBLK takes its results from a table of the 32 lanes, and a uniform write takes the value of the lane that is listed first; `State.ready` does not ask that the lanes of a cohort are below 32, nor that their table is sorted. -/
namespace Sys2Proof.Machine

/-- A lane at the PC 0 with no predicate set. -/
def blankLane : Lane := { strand := 0, pc := 0, preds := 0, repc := 0, poison := [], met := none }
/-- A cohort that lists a lane 32, one beyond the 32 of R22, before its lane 0; its register 0 holds 1.0 uniformly, and the others are stale. -/
def strayLaneCohort : Cohort :=
  { launch := 0, stage := 0, kind := .stage, allot := 64, nlanes := 2, gen := 1, lanes := [(32, blankLane), (0, blankLane)], regs := [(0, .uniform 0x3F800000)],
    rslots := [], age := 0, readyTick := 0, segTick := 0, born := 0, boosted := false, single := none, birthFault := none, wdogSeen := false }
/-- The machine after reset with that cohort alone. -/
def strayLaneState : State := { State.reset with cur := some (0, 0), cores := [(0, { Core.reset with slots := [(0, strayLaneCohort)] })] }
/-- Its issue. -/
def strayLaneCtx : Ctx := { core := 0, slot := 0, co := strayLaneCohort, xs := [32, 0], pc := 0, part := 0, strict := false }
/-- QBLK of the registers 0 to 7 into E4M3 codes in the registers 40 and 41 and an E8M0 scale in register 48. -/
def strayLaneQblk : Instr := .qblk { p := 0, neg := false } 40 48 0 0 .rn false .e4m3 .b8 .e8m0

/-- The scale register takes the entry of lane 32, which is empty. -/
theorem strayLaneQblk_scale : ∃ t, exec strayLaneQblk strayLaneState = .next t ∧ (t.cohort? strayLaneCtx.core strayLaneCtx.slot).map (fun co => co.reg 48 0) = some 0 :=
  ⟨_, rfl, by decide⟩
/-- The scale of eight values of which 1.0 is the largest, in E4M3 elements: 2^-8, code 119 (R86). -/
theorem strayLane_scaleCode : (quantBlock .e4m3 .e8m0 .rn false ((run 0 8).map fun r => f32 (strayLaneCohort.reg r 0))).1 = 119 := by decide

/-- Refutes O13: a QBLK that is ready writes the scale 0 and not 2^-8 in lane 0 of a cohort that lists a lane 32 before it. -/
theorem not_blockResults : ¬ Obligations.BlockResults := by
  intro h
  obtain ⟨hqblk, -⟩ := h { p := 0, neg := false } 40 48 0 0 0 (.imm 0) .rn false false false .e4m3 .e4m3 .e4m3 .b8 .e8m0
  obtain ⟨rs, hexec, hreg, -⟩ := hqblk strayLaneState strayLaneCtx (by decide) trivial
  obtain ⟨t, hrun, hscale⟩ := strayLaneQblk_scale
  obtain rfl := Host.Outcome.next.inj (hrun.symm.trans hexec)
  rw [State.cohort?_setCohort _ _ _ _ (List.cons_ne_nil _ _)] at hscale
  have hlane := hreg 48 0 (by decide) (by decide)
  rw [if_pos (by decide)] at hlane
  have hzero : BitVec.ofNat 32 119 = (0 : Word) := by
    rw [← strayLane_scaleCode]
    exact hlane.symm.trans (Option.some.inj hscale)
  exact absurd hzero (by decide)

end Sys2Proof.Machine
end

section
/-! Granules as a write of the scratchpad leaves them (R122, R127, R128, R419). -/
namespace Sys2Proof.Machine

/-! One granule replaced -/

@[simp] theorem Core.sp_setSp (k : Core) (b : Buf) (m : NMap Granule) : (k.setSp b m).sp b = m := by cases b <;> rfl
theorem Core.sp_setSp_other (k : Core) (b b' : Buf) (m : NMap Granule) (h : b' ≠ b) : (k.setSp b m).sp b' = k.sp b' := by
  cases b <;> cases b' <;> trivial
@[simp] theorem Core.setGran_allocs (k : Core) (b : Buf) (n : Nat) (q : Granule) : (k.setGran b n q).allocs = k.allocs := by cases b <;> rfl
@[simp] theorem Core.setGran_slots (k : Core) (b : Buf) (n : Nat) (q : Granule) : (k.setGran b n q).slots = k.slots := by cases b <;> rfl
@[simp] theorem Core.alloc?_setGran (k : Core) (b : Buf) (n : Nat) (q : Granule) (b' : Buf) (grove off : Nat) :
    (k.setGran b n q).alloc? b' grove off = k.alloc? b' grove off := by simp [Core.alloc?]
@[simp] theorem Core.gran_setGran_same (k : Core) (b : Buf) (n : Nat) (q : Granule) : (k.setGran b n q).gran b n = q := by
  simp [Core.gran, Core.setGran, NMap.getD]
theorem Core.gran_setGran_other (k : Core) (b : Buf) (n m : Nat) (q : Granule) (h : m ≠ n) : (k.setGran b n q).gran b m = k.gran b m := by
  simp [Core.gran, Core.setGran, NMap.getD, NMap.find?_put_other _ _ _ _ h]

/-! The granules that a write touches -/

theorem mem_granules (pa len n : Nat) : n ∈ granules pa len ↔ pa / 32 ≤ n ∧ n < (pa + len + 31) / 32 := by
  simp only [granules, List.mem_map, List.mem_range]
  exact ⟨fun ⟨i, hi, hn⟩ => by omega, fun h => ⟨n - pa / 32, by omega, by omega⟩⟩

/-- The first granule that a write touches takes what falls in it; the others are those that the rest touches. -/
theorem mem_granules_rest (pa len n : Nat) (h : n ≠ pa / 32) :
    n ∈ granules pa len ↔ n ∈ granules (pa + (32 - pa % 32)) (len - (32 - pa % 32)) ∧ 32 - pa % 32 < len := by
  simp only [mem_granules]
  omega

/-- The granule n as a write of bytes that touches it leaves it: what falls in it goes in under the allocation it falls in (R122, R128). -/
def Core.granPut (k : Core) (t : Nat) (b : Buf) (grove base off : Nat) (bs : List Byte) (n : Nat) : Granule :=
  let pos := max (base + off) (32 * n)
  (k.alloc? b grove (pos - base)).elim (k.gran b n) fun a =>
    granWrite t a.gen a.cls (k.gran b n) (pos % 32) ((bs.drop (pos - (base + off))).take (32 - pos % 32))

/-- What a write puts in its first granule, by one step of the recursion. -/
def Core.putFirst (k : Core) (t : Nat) (b : Buf) (grove base off : Nat) (bs : List Byte) : Core :=
  match k.alloc? b grove off with
  | some a => k.setGran b ((base + off) / 32) (granWrite t a.gen a.cls (k.gran b ((base + off) / 32)) ((base + off) % 32) (bs.take (32 - (base + off) % 32)))
  | none => k
theorem Core.spPut_succ (k : Core) (t : Nat) (b : Buf) (grove base fuel off : Nat) (bs : List Byte) : k.spPut t b grove base (fuel + 1) off bs =
    if bs.isEmpty then k
    else (k.putFirst t b grove base off bs).spPut t b grove base fuel (off + (32 - (base + off) % 32)) (bs.drop (32 - (base + off) % 32)) := rfl
theorem Core.putFirst_keeps (k : Core) (t : Nat) (b : Buf) (grove base off : Nat) (bs : List Byte) :
    (k.putFirst t b grove base off bs).allocs = k.allocs ∧ (k.putFirst t b grove base off bs).slots = k.slots ∧
      ∀ b', b' ≠ b → (k.putFirst t b grove base off bs).sp b' = k.sp b' := by
  unfold Core.putFirst
  split
  · exact ⟨by simp, by simp, fun b' h => k.sp_setSp_other b b' _ h⟩
  · exact ⟨rfl, rfl, fun _ _ => rfl⟩
@[simp] theorem Core.alloc?_putFirst (k : Core) (t : Nat) (b : Buf) (grove base off : Nat) (bs : List Byte) (b' : Buf) (grove' off' : Nat) :
    (k.putFirst t b grove base off bs).alloc? b' grove' off' = k.alloc? b' grove' off' := by
  simp only [Core.alloc?, (k.putFirst_keeps t b grove base off bs).1]
theorem Core.gran_putFirst_same (k : Core) (t : Nat) (b : Buf) (grove base off : Nat) (bs : List Byte) :
    (k.putFirst t b grove base off bs).gran b ((base + off) / 32) = k.granPut t b grove base off bs ((base + off) / 32) := by
  have hmax : max (base + off) (32 * ((base + off) / 32)) = base + off := by omega
  simp only [Core.putFirst, Core.granPut, hmax, Nat.add_sub_cancel_left, Nat.sub_self, List.drop_zero]
  cases k.alloc? b grove off <;> simp
theorem Core.gran_putFirst_other (k : Core) (t : Nat) (b : Buf) (grove base off : Nat) (bs : List Byte) (n : Nat) (h : n ≠ (base + off) / 32) :
    (k.putFirst t b grove base off bs).gran b n = k.gran b n := by
  unfold Core.putFirst
  split
  · exact k.gran_setGran_other b _ n _ h
  · rfl
/-- Past the first granule, a granule takes of the whole write what it takes of the rest. -/
theorem Core.granPut_rest (k : Core) (t : Nat) (b : Buf) (grove base off : Nat) (bs : List Byte) (n : Nat) (h : (base + off) / 32 < n) :
    (k.putFirst t b grove base off bs).granPut t b grove base (off + (32 - (base + off) % 32)) (bs.drop (32 - (base + off) % 32)) n =
      k.granPut t b grove base off bs n := by
  have hmax : max (base + (off + (32 - (base + off) % 32))) (32 * n) = 32 * n := by omega
  have hmax' : max (base + off) (32 * n) = 32 * n := by omega
  have hdrop : 32 - (base + off) % 32 + (32 * n - (base + (off + (32 - (base + off) % 32)))) = 32 * n - (base + off) := by omega
  simp only [Core.granPut, hmax, hmax', Core.alloc?_putFirst, k.gran_putFirst_other t b grove base off bs n (Nat.ne_of_gt h), List.drop_drop, hdrop]

/-- A write of bytes granule by granule, in each granule at once. -/
theorem Core.gran_spPut (k : Core) (t : Nat) (b : Buf) (grove base fuel off : Nat) (bs : List Byte) (n : Nat) (hfuel : bs.length < fuel) (hbs : bs ≠ []) :
    (k.spPut t b grove base fuel off bs).gran b n =
      if n ∈ granules (base + off) bs.length then k.granPut t b grove base off bs n else k.gran b n := by
  induction fuel generalizing k off bs with
  | zero => omega
  | succ fuel ih =>
    have hlen : 0 < bs.length := List.length_pos_iff.mpr hbs
    have hrest : ∀ m, m ∈ granules (base + (off + (32 - (base + off) % 32))) (bs.length - (32 - (base + off) % 32)) → (base + off) / 32 < m := by
      intro m hm
      rw [mem_granules] at hm
      omega
    rw [Core.spPut_succ, if_neg (by simpa using hbs)]
    by_cases hshort : bs.length ≤ 32 - (base + off) % 32
    · have hmem : n ∈ granules (base + off) bs.length ↔ n = (base + off) / 32 := by rw [mem_granules]; omega
      have hend : ∀ k' : Core, k'.spPut t b grove base fuel (off + (32 - (base + off) % 32)) (bs.drop (32 - (base + off) % 32)) = k' := by
        intro k'
        rw [List.drop_of_length_le hshort]
        cases fuel <;> rfl
      rw [hend]
      by_cases hn : n = (base + off) / 32
      · rw [if_pos (hmem.mpr hn), hn, k.gran_putFirst_same]
      · rw [if_neg (mt hmem.mp hn), k.gran_putFirst_other t b grove base off bs n hn]
    · have hdrop : bs.drop (32 - (base + off) % 32) ≠ [] := by simpa using hshort
      rw [ih _ _ _ (by simp only [List.length_drop]; omega) hdrop, List.length_drop]
      by_cases hn : n = (base + off) / 32
      · have hmem : n ∈ granules (base + off) bs.length := by rw [mem_granules]; omega
        rw [if_neg fun h => by have := hrest n h; omega, if_pos hmem, hn, k.gran_putFirst_same]
      · rw [k.gran_putFirst_other t b grove base off bs n hn]
        have hmem := mem_granules_rest (base + off) bs.length n hn
        by_cases hin : n ∈ granules (base + (off + (32 - (base + off) % 32))) (bs.length - (32 - (base + off) % 32))
        · rw [if_pos hin, if_pos (hmem.mpr ⟨by simpa only [Nat.add_assoc] using hin, by omega⟩), k.granPut_rest t b grove base off bs n (hrest n hin)]
        · rw [if_neg hin, if_neg fun h => hin (by simpa only [Nat.add_assoc] using (hmem.mp h).1)]
theorem Core.spPut_keeps (k : Core) (t : Nat) (b : Buf) (grove base fuel off : Nat) (bs : List Byte) :
    (k.spPut t b grove base fuel off bs).allocs = k.allocs ∧ (k.spPut t b grove base fuel off bs).slots = k.slots ∧
      ∀ b', b' ≠ b → (k.spPut t b grove base fuel off bs).sp b' = k.sp b' := by
  induction fuel generalizing k off bs with
  | zero => exact ⟨rfl, rfl, fun _ _ => rfl⟩
  | succ fuel ih =>
    rw [Core.spPut_succ]
    split
    · exact ⟨rfl, rfl, fun _ _ => rfl⟩
    · obtain ⟨ha, hs, hsp⟩ := ih (k.putFirst t b grove base off bs) (off + (32 - (base + off) % 32)) (bs.drop (32 - (base + off) % 32))
      obtain ⟨ha', hs', hsp'⟩ := k.putFirst_keeps t b grove base off bs
      exact ⟨ha.trans ha', hs.trans hs', fun b' h => (hsp b' h).trans (hsp' b' h)⟩

/-! The bytes of a granule -/

theorem getD_putBytes (old new : List Byte) (pos i : Nat) (h : pos + new.length ≤ old.length) :
    (putBytes old pos new).getD i 0 = if pos ≤ i ∧ i < pos + new.length then new.getD (i - pos) 0 else old.getD i 0 := by
  simp only [putBytes, List.getD_eq_getElem?_getD, List.getElem?_append, List.length_append, List.length_take, Nat.min_eq_left (Nat.le_of_add_right_le h)]
  split
  · split
    · rw [List.getElem?_take, if_pos ‹_›, if_neg (by omega)]
    · rw [if_pos (by omega)]
  · rw [if_neg (by omega), List.getElem?_drop]
    congr 3
    omega
theorem length_putBytes (old new : List Byte) (pos : Nat) (h : pos + new.length ≤ old.length) : (putBytes old pos new).length = old.length := by
  simp only [putBytes, List.length_append, List.length_take, List.length_drop]
  omega
/-- What a granule's bytes are where they can be read, and zeroes where not (R127, R128). -/
theorem granWrite_data (t gen : Nat) (cls : LClass) (q : Granule) (pos : Nat) (bs : List Byte) (hq : q.data.length = 32) (hpos : pos + bs.length ≤ 32) :
    (granWrite t gen cls q pos bs).data.length = 32 ∧ ∀ i < 32, (granWrite t gen cls q pos bs).data.getD i 0 =
      if pos ≤ i ∧ i < pos + bs.length then bs.getD (i - pos) 0 else if q.gen = gen ∧ ageOk t q cls = true then q.data.getD i 0 else 0 := by
  have hread : (q.gen != gen || !ageOk t q cls) = !decide (q.gen = gen ∧ ageOk t q cls = true) := by
    by_cases hg : q.gen = gen <;> simp [hg]
  simp only [granWrite, hread]
  by_cases h : q.gen = gen ∧ ageOk t q cls = true
  · simp only [h, and_self, decide_true, Bool.not_true, Bool.false_eq_true, if_false, if_true]
    exact ⟨(length_putBytes _ _ _ (by omega)).trans hq, fun i _ => getD_putBytes q.data bs pos i (by omega)⟩
  · simp only [h, decide_false, Bool.not_false, if_true, if_false]
    refine ⟨(length_putBytes _ _ _ (by rwa [List.length_replicate])).trans List.length_replicate, fun i hi => ?_⟩
    rw [getD_putBytes _ _ _ _ (by rwa [List.length_replicate]), List.getD_replicate _ hi]
/-- The same in the terms of the whole write: byte by byte of the granule (R128). -/
theorem Core.granPut_data (k : Core) (t : Nat) (b : Buf) (grove base off : Nat) (bs : List Byte) (n : Nat) (a : Alloc)
    (hn : n ∈ granules (base + off) bs.length) (ha : k.alloc? b grove (max (base + off) (32 * n) - base) = some a) (hq : (k.gran b n).data.length = 32) :
    (k.granPut t b grove base off bs n).data.length = 32 ∧ ∀ i < 32, (k.granPut t b grove base off bs n).data.getD i 0 =
      if base + off ≤ 32 * n + i ∧ 32 * n + i < base + off + bs.length then bs.getD (32 * n + i - (base + off)) 0
      else if (k.gran b n).gen = a.gen ∧ ageOk t (k.gran b n) a.cls = true then (k.gran b n).data.getD i 0 else 0 := by
  rw [mem_granules] at hn
  simp only [Core.granPut, ha, Option.elim_some]
  have hpos : max (base + off) (32 * n) % 32 = max (base + off) (32 * n) - 32 * n := by omega
  obtain ⟨hlen, hdata⟩ := granWrite_data t a.gen a.cls (k.gran b n) (max (base + off) (32 * n) % 32)
    ((bs.drop (max (base + off) (32 * n) - (base + off))).take (32 - max (base + off) (32 * n) % 32)) hq (by simp only [List.length_take]; omega)
  refine ⟨hlen, fun i hi => ?_⟩
  rw [hdata i hi]
  simp only [List.length_take, List.length_drop]
  refine ite_congr (propext ⟨fun h => by omega, fun h => by omega⟩) (fun h => ?_) fun _ => rfl
  simp only [List.getD_eq_getElem?_getD, List.getElem?_take, List.getElem?_drop]
  rw [if_pos (by omega)]
  congr 2
  omega

/-! The write of a grove's window -/

theorem State.spWrite_of (s : State) (core grove off : Nat) (b : Buf) (bs : List Byte) (g : Grove) (hg : s.groves.find? grove = some g) :
    s.spWrite core grove b off bs = s.modCore core fun k => k.spPut s.T b grove (g.win b).1 (bs.length + 1) off bs := by
  simp only [State.spWrite, hg]
theorem State.gran_spWrite (s : State) (core grove off : Nat) (b : Buf) (bs : List Byte) (g : Grove) (n : Nat) (hbs : bs ≠ []) (hg : s.groves.find? grove = some g) :
    ((s.spWrite core grove b off bs).core core).gran b n =
      if n ∈ granules ((g.win b).1 + off) bs.length then (s.core core).granPut s.T b grove (g.win b).1 off bs n else (s.core core).gran b n := by
  rw [s.spWrite_of core grove off b bs g hg, State.core_modCore]
  exact (s.core core).gran_spPut _ _ _ _ _ _ _ _ (Nat.lt_succ_self _) hbs

/-- Settles O26: a granule that the write touches takes its part under the allocation that part lies in, byte by byte; the recursion over the granules leaves all else. -/
theorem scratchpadWriteRule : Obligations.ScratchpadWriteRule := by
  intro s core grove off b bs g hbs hg t pa
  have hgran : ∀ n, (t.core core).gran b n = if n ∈ granules pa bs.length then (s.core core).granPut s.T b grove (g.win b).1 off bs n else (s.core core).gran b n :=
    fun n => s.gran_spWrite core grove off b bs g n hbs hg
  have ht : t = s.modCore core fun k => k.spPut s.T b grove (g.win b).1 (bs.length + 1) off bs := s.spWrite_of core grove off b bs g hg
  have hcore : t.core core = (s.core core).spPut s.T b grove (g.win b).1 (bs.length + 1) off bs := by rw [ht, State.core_modCore]
  obtain ⟨hallocs, hslots, hsp⟩ := (s.core core).spPut_keeps s.T b grove (g.win b).1 (bs.length + 1) off bs
  refine ⟨fun n hn a ha => ?_, fun n hn => ?_, fun c b' hother => ?_, by rw [ht]; rfl, by rw [hcore, hallocs], by rw [hcore, hslots]⟩
  · intro q r
    have hr : r = (s.core core).granPut s.T b grove (g.win b).1 off bs n := (hgran n).trans (if_pos hn)
    have hwrite : r = granWrite s.T a.gen a.cls q _ _ := hr.trans (by simp only [Core.granPut]; rw [ha]; rfl)
    refine ⟨by rw [hwrite]; rfl, by rw [hwrite]; rfl, by rw [hwrite]; rfl, fun hp => ?_, fun hq => ?_⟩
    · rw [hwrite] at hp
      exact (Bool.and_eq_true_iff.mp hp).1
    · rw [hr]
      exact (s.core core).granPut_data s.T b grove (g.win b).1 off bs n a hn ha hq
  · rw [hgran n]
    split
    · simp only [Core.granPut]
      rw [hn ‹_›]
      rfl
    · rfl
  · by_cases hc : c = core
    · subst hc
      rw [hcore]
      exact hsp b' (hother.resolve_left fun h => h rfl)
    · rw [ht, s.core_modCore_other core c _ hc]

end Sys2Proof.Machine
end

section
/-! Accesses of scratchpad objects at once, where nothing is in flight that they are ordered after, and barriers (R139, R153, R160, R245 to R247). -/
namespace Sys2Proof.Machine

/-! What an access of a scratchpad sees of a cohort whose lanes have moved on -/

@[simp] theorem State.spAfter_setPcs (s : State) (x : Ctx) (ls : List Nat) (pc : Pc) (strand : Nat) (release writes : Bool) :
    (s.setPcs x ls pc).spAfter strand release writes = s.spAfter strand release writes := by
  unfold State.setPcs State.modCohort
  cases s.cohort? x.core x.slot <;> rfl
/-- Nothing that the accesses of lanes are ordered after is in flight when their lanes have moved on, if nothing was before. -/
theorem State.spNow_setPcs (s : State) (x : Ctx) (pc : Pc) (ls : List Nat) (release writes : Bool) (h : ∀ l ∈ ls, s.spAfter (x.strand l) release writes = []) :
    (s.setPcs x x.xs pc).spNow x ls release writes = true :=
  State.spNow_of _ x ls release writes fun l hl => (s.spAfter_setPcs x x.xs pc _ release writes).trans (h l hl)
theorem State.spNow_one (s : State) (x : Ctx) (l : Nat) (release writes : Bool) (h : s.spAfter (x.strand l) release writes = []) :
    s.spNow x [l] release writes = true :=
  s.spNow_of x [l] release writes fun _ hm => by rwa [List.mem_singleton.mp hm]

/-- A plan that acts on a scratchpad at once: it does so where nothing is in flight that its lanes' accesses are ordered after, and each lane passes its check (R153, R160, R270). -/
theorem acts_at_once (i : Instr) (p : Plan) (ok : State → Ctx → Nat → Prop) (act : State → Ctx → List Nat → State) (release writes : Bool)
    (hi : ∀ s, exec i s = .next (s.exec p)) (hn : p.need = 0) (hcls : p.cls = none) (hacc : ∀ s x en l, p.acc s x en l = none)
    (hb : ∀ s x, p.bad s x = none ∧ p.priv s x = false ∧ p.misses s x = none)
    (hnow : ∀ s x l, ok s x l → s.spAfter (x.strand l) release writes = []) (hgo : ∀ s x l, ok s x l → p.check s x (x.en p.g) l = .go)
    (ha : ∀ t x ls, t.spNow x ls release writes = true → p.act t x ls = act t x ls) : Acts i p.g p.len p.regs p.srcs (each p.g ok) act :=
  acts_of i p _ act hi hn (fun s x _ => hb s x) (fun _ _ _ _ _ c h => by simp [hcls] at h) (fun s x hok l hl => hgo s x l (hok l hl))
    (fun s x hok => ha _ x _ (s.spNow_setPcs x _ _ release writes fun l hl => hnow s x l (hok l hl))) (.inl hacc)

/-! Barriers -/

theorem State.barCheck_go (s : State) (x : Ctx) (l off : Nat) (hafter : s.spAfter (x.strand l) true true = [])
    (hcheck : s.spCheck x.core (s.groveOf x l) .a off 16 16 true = none) (hgood : barBad (s.spObj x.core (s.groveOf x l) off) = false) :
    s.barCheck x l off = .go := by
  have hrefuses : s.spRefuses x.core (s.groveOf x l) .bararr .a off 16 = none := by
    simp [State.spRefuses, hcheck, hgood]
  simp only [State.barCheck, s.spNow_one x l true true hafter, hrefuses, if_true]
/-- BARINIT in lanes whose places pass the checks, with an EXPECT of 1 to 1024 (R246). -/
theorem barinit_acts (g : Guard) (a b : Nat) (imm : Word) : Acts (.barinit g a imm b) g 12 [a, b] [a, b]
    (each g fun s x l => s.spAfter (x.strand l) false true = [] ∧ s.spCheck x.core (s.groveOf x l) .a (x.co.reg a l + imm).toNat 16 16 false = none ∧
      1 ≤ (x.co.reg b l).toNat ∧ (x.co.reg b l).toNat ≤ 1024)
    fun s x ls => ls.foldl (fun s l => s.barInit x.core (s.groveOf x l) (x.co.sOff a imm l) (barBytes (x.co.reg b l).toNat false 0)) s := by
  refine acts_at_once _ (planBarinit g a imm b) _ _ false true (fun _ => rfl) rfl rfl (fun _ _ _ _ => rfl) (fun _ _ => ⟨rfl, rfl, rfl⟩) (fun _ _ _ hok => hok.1) ?_
    fun _ _ _ h => if_pos h
  rintro s x l ⟨-, hcheck, hlow, hhigh⟩
  have hexpect : ((x.co.reg b l).toNat == 0 || decide (1024 < (x.co.reg b l).toNat)) = false := by
    simp only [Bool.or_eq_false_iff, beq_eq_false_iff_ne, decide_eq_false_iff_not]
    omega
  simp only [planBarinit, Cohort.sOff, hcheck, hexpect, Bool.false_eq_true, if_false]
/-- BARARR in lanes whose objects can be read and are barriers (R245, R247). -/
theorem bararr_acts (g : Guard) (d a : Nat) (imm : Word) : Acts (.bararr g d a imm) g 12 [d, a] [a]
    (each g fun s x l => s.spAfter (x.strand l) true true = [] ∧ s.spCheck x.core (s.groveOf x l) .a (x.co.reg a l + imm).toNat 16 16 true = none ∧
      barBad (s.spObj x.core (s.groveOf x l) (x.co.reg a l + imm).toNat) = false)
    fun s x ls => (s.arrivals x (x.co.sOff a imm) ls).1.onCohort x fun co =>
      co.write d .gen ls fun l => BitVec.ofNat 32 ((s.arrivals x (x.co.sOff a imm) ls).2.getD l 0) := by
  exact acts_at_once _ (planBararr g d a imm) _ _ true true (fun _ => rfl) rfl rfl (fun _ _ _ _ => rfl) (fun _ _ => ⟨rfl, rfl, rfl⟩) (fun _ _ _ hok => hok.1)
    (fun s x l ⟨hafter, hcheck, hgood⟩ => s.barCheck_go x l _ hafter hcheck hgood) fun _ _ _ h => if_pos h

/-- The number that k bytes hold which were made of a number (R2). -/
theorem leNat_leBytes (k n : Nat) : leNat (leBytes k n) = n % 256 ^ k := by
  induction k generalizing n with
  | zero => simp [leBytes, leNat, Nat.mod_one]
  | succ k ih =>
    have hcons : leBytes (k + 1) n = byteAt n 0 :: leBytes k (n / 256) := by
      simp only [leBytes, List.range_succ_eq_map, List.map_cons, List.map_map]
      congr 2
      funext i
      simp only [Function.comp, byteAt, Nat.div_div_eq_div_mul, Nat.succ_eq_add_one, Nat.pow_succ']
    rw [hcons, leNat, ih, Nat.pow_succ', Nat.mod_mul]
    simp [byteAt]
theorem leNat_barBytes (e c : Nat) (p : Bool) (he : e ≤ 1024) (hc : c < e) : leNat (barBytes e p c) = c + p.toNat * 2 ^ 31 + e * 2 ^ 32 := by
  rw [barBytes, leNat_leBytes]
  have := Bool.toNat_le p
  omega

/-- Settles O29: BARINIT and BARARR act at once; an arrival goes by its object's fields; and the fields of an object that was written are its own. -/
theorem barriers : Obligations.Barriers := by
  refine ⟨fun g d a b imm => ⟨barinit_acts g a b imm, bararr_acts g d a imm⟩, fun s x off l t => ?_, fun e c p hlow hhigh hc => ?_⟩
  · by_cases hdone : barCount (s.spObj x.core (s.groveOf x l) (off l)) + 1 = barExpect (s.spObj x.core (s.groveOf x l) (off l))
    · simp [State.arrivals, State.arrive, hdone]
    · simp [State.arrivals, State.arrive, hdone]
  · have hn := leNat_barBytes e c p hhigh hc
    have hp := Bool.toNat_le p
    intro n
    have hexpect : barExpect n = e := by
      simp only [n, hn, barExpect, bitsN]
      omega
    have hcount : barCount n = c := by
      simp only [n, hn, barCount, bitsN]
      omega
    refine ⟨by simp [barBytes, leBytes], hexpect, ?_, hcount, ?_⟩
    · cases p <;> simp only [n, hn, barPhase, bitN, Bool.toNat_true, Bool.toNat_false, beq_eq_false_iff_ne, beq_iff_eq] <;> omega
    · simp only [barBad, hexpect, hcount, Bool.or_eq_false_iff, bne_eq_false_iff_eq, beq_eq_false_iff_ne, decide_eq_false_iff_not]
      simp only [n, hn, bitsN]
      omega

end Sys2Proof.Machine
end

section
/-! Futures in a scratchpad, at once where nothing is in flight that the access is ordered after (R138, R249 to R252). -/
namespace Sys2Proof.Machine

/-- What is read of a scratchpad does not depend on what a cohort's slot holds. -/
theorem State.spRead_setCohort (s : State) (c sl : Nat) (co : Cohort) (core grove : Nat) (b : Buf) (off len : Nat) :
    (s.setCohort c sl co).spRead core grove b off len = s.spRead core grove b off len := by
  obtain ⟨ks, rf, h⟩ := s.core_setCohort c sl core co
  simp only [State.spRead, h]
  cases b <;> rfl
theorem State.spObj_setCohort (s : State) (c sl : Nat) (co : Cohort) (core grove off : Nat) : (s.setCohort c sl co).spObj core grove off = s.spObj core grove off :=
  congrArg leNat (s.spRead_setCohort c sl co core grove .a off 16)

/-! FWAIT -/

/-- The wait for a cell of a scratchpad that can be read, is a future and is full has its condition (R237, R249, R252). -/
theorem State.waitVerdict_futA (s : State) (x : Ctx) (l off d : Nat) (hafter : s.spAfter (x.strand l) false false = [])
    (hcheck : s.spCheck x.core (s.groveOf x l) .a off 16 16 true = none) (hgood : futBad (s.spObj x.core (s.groveOf x l) off) = false)
    (hfull : s.spObj x.core (s.groveOf x l) off % 2 = 1) (hstrand : (s.strands.find? (x.strand l)).isSome = true) (hhere : s.away (s.groveOf x l) = false) :
    s.waitVerdict x l (.futA off d) = .go := by
  obtain ⟨t, ht⟩ := Option.isSome_iff_exists.mp hstrand
  have hgrove : s.groveOf x l = t.grove := by simp [State.groveOf, ht]
  rw [hgrove] at hcheck hgood hfull hhere
  have hwoken : s.evalWait x.core (x.strand l) (.futA off d) = .yes d (words64 (s.spObj x.core t.grove off / 2 ^ 64)) none := by
    simp only [State.spObj] at hgood hfull ⊢
    simp [State.evalWait, ht, hhere, hcheck, hgood, hfull]
  simp [State.waitVerdict, State.waitAfter, hafter, hwoken]
theorem fwait_computes (g : Guard) (d a : Nat) (imm : Word) (sc : Scope) : Computes (.fwait g d a imm true sc) g 12 [d, d + 1, a] [a] [d, d + 1]
    (each g fun s x l => s.spAfter (x.strand l) false false = [] ∧
      (s.spCheck x.core (s.groveOf x l) .a (x.co.reg a l + imm).toNat 16 16 true = none ∧ futBad (s.spObj x.core (s.groveOf x l) (x.co.reg a l + imm).toNat) = false) ∧
      s.spObj x.core (s.groveOf x l) (x.co.reg a l + imm).toNat % 2 = 1 ∧ (s.strands.find? (x.strand l)).isSome = true ∧ s.away (s.groveOf x l) = false)
    fun s x n l => half d n (BitVec.ofNat 64 (s.spObj x.core (s.groveOf x l) (x.co.reg a l + imm).toNat / 2 ^ 64)) := by
  refine computes_pair _ (planFwait g d a imm true sc) d _ (fun t x co l => BitVec.ofNat 64 (t.spObj x.core (t.groveOf x l) (co.sOff a imm l) / 2 ^ 64)) _
    (fun _ _ _ => .gen) (fun _ _ _ => .gen) (fun _ => rfl) rfl rfl (fun _ _ _ _ => rfl) (fun _ _ => rfl) (fun s x hok => ⟨rfl, rfl, rfl, fun l hl => ?_⟩) ?_
  · obtain ⟨hafter, ⟨hcheck, hgood⟩, hfull, hstrand, hhere⟩ := hok l hl
    exact s.waitVerdict_futA x l _ d hafter hcheck hgood hfull hstrand hhere
  · intro s x co _ hregs _
    refine ⟨fun l _ _ => ?_, ⟨fun h => Sh.noConfusion h, fun _ _ h => Sh.noConfusion h⟩, fun h => Sh.noConfusion h, fun _ _ h => Sh.noConfusion h⟩
    rw [State.spObj_setCohort, Cohort.sOff, Cohort.reg_congr hregs]
    rfl

/-! FFILL and FRESET -/

theorem State.futCheck_go (s : State) (x : Ctx) (l off : Nat) (hafter : s.spAfter (x.strand l) true true = [])
    (hcheck : s.spCheck x.core (s.groveOf x l) .a off 16 16 true = none) (hgood : futBad (s.spObj x.core (s.groveOf x l) off) = false) :
    s.futCheck x l off = .go := by
  have hrefuses : s.spRefuses x.core (s.groveOf x l) .ffill .a off 16 = none := by
    simp [State.spRefuses, hcheck, hgood]
  simp only [State.futCheck, s.spNow_one x l true true hafter, hrefuses, if_true]
/-- FFILL in lanes whose cells can be read and are futures: lane by lane (R250). -/
theorem ffill_acts (g : Guard) (d a b : Nat) (imm : Word) (sc : Scope) : Acts (.ffill g d a imm b true sc) g 12 [d, a, b, b + 1] [a, b, b + 1]
    (each g fun s x l => s.spAfter (x.strand l) true true = [] ∧ s.spCheck x.core (s.groveOf x l) .a (x.co.reg a l + imm).toNat 16 16 true = none ∧
      futBad (s.spObj x.core (s.groveOf x l) (x.co.reg a l + imm).toNat) = false)
    fun s x ls => (s.fills x (x.co.sOff a imm) (x.co.reg64 b) ls).1.onCohort x fun co =>
      co.write d .gen ls fun l => BitVec.ofNat 32 ((s.fills x (x.co.sOff a imm) (x.co.reg64 b) ls).2.getD l 0) :=
  acts_at_once _ (planFfill g d a imm b true sc) _ _ true true (fun _ => rfl) rfl rfl (fun _ _ _ _ => rfl) (fun _ _ => ⟨rfl, rfl, rfl⟩) (fun _ _ _ hok => hok.1)
    (fun s x l ⟨hafter, hcheck, hgood⟩ => s.futCheck_go x l _ hafter hcheck hgood) fun _ _ _ h => if_pos h
/-- FRESET in lanes whose cells can be read and are futures (R250). -/
theorem freset_acts (g : Guard) (a : Nat) (imm : Word) (sc : Scope) : Acts (.freset g a imm true sc) g 12 [a] [a]
    (each g fun s x l => s.spAfter (x.strand l) true true = [] ∧ s.spCheck x.core (s.groveOf x l) .a (x.co.reg a l + imm).toNat 16 16 true = none ∧
      futBad (s.spObj x.core (s.groveOf x l) (x.co.reg a l + imm).toNat) = false)
    fun s x ls => ls.foldl (fun s l => s.cellWrite x.core (s.groveOf x l) (x.co.sOff a imm l) (leBytes 16 0)) s :=
  acts_at_once _ (planFreset g a imm true sc) _ _ true true (fun _ => rfl) rfl rfl (fun _ _ _ _ => rfl) (fun _ _ => ⟨rfl, rfl, rfl⟩) (fun _ _ _ hok => hok.1)
    (fun s x l ⟨hafter, hcheck, hgood⟩ => s.futCheck_go x l _ hafter hcheck hgood) fun _ _ _ h => if_pos h
theorem State.fills_full (s : State) (x : Ctx) (off : Nat → Nat) (v : Nat → DWord) (l : Nat) (t : List Nat) (h : s.spObj x.core (s.groveOf x l) (off l) % 2 = 1) :
    s.fills x off v (l :: t) = ((s.fills x off v t).1, (l, 0) :: (s.fills x off v t).2) := by
  simp [State.fills, State.fill1, h]
theorem State.fills_empty (s : State) (x : Ctx) (off : Nat → Nat) (v : Nat → DWord) (l : Nat) (t : List Nat) (h : s.spObj x.core (s.groveOf x l) (off l) % 2 = 0) :
    let s' := s.cellWrite x.core (s.groveOf x l) (off l) (fullCell (v l))
    s.fills x off v (l :: t) = ((s'.fills x off v t).1, (l, 1) :: (s'.fills x off v t).2) := by
  simp [State.fills, State.fill1, h]

/-- Settles O30: FWAIT computes from a full cell; FFILL and FRESET act at once, and a lane's FFILL goes by what its cell holds. -/
theorem scratchpadFutures : Obligations.ScratchpadFutures :=
  ⟨fun g d a b imm sc => ⟨fwait_computes g d a imm sc, ffill_acts g d a b imm sc, freset_acts g a imm sc⟩,
    fun s x off v l t => ⟨s.fills_full x off v l t, s.fills_empty x off v l t⟩⟩

end Sys2Proof.Machine
end

section
/-! Allocations of scratchpad windows: where one is made, freed, cleared and renewed (R122, R129, R130, R132, R266 to R268, R270). -/
namespace Sys2Proof.Machine

/-! The lowest offset that fits -/

/-- An allocation of a size fits at an offset of a window beside those that are live (R122). -/
def AllocFits (as : List Alloc) (win size o : Nat) : Prop := o + size ≤ win ∧ ∀ a ∈ as, o + size ≤ a.off ∨ a.off + a.size ≤ o

/-- One that fits as low as it can begins at the window's base or where a live one ends. -/
theorem AllocFits.begins (as : List Alloc) (win size o : Nat) (h : AllocFits as win size o) (hleast : ∀ p < o, ¬AllocFits as win size p) :
    o ∈ 0 :: as.map fun a => a.off + a.size := by
  by_contra hmem
  simp only [List.mem_cons, List.mem_map, not_or, not_exists, not_and] at hmem
  obtain ⟨hpos, hends⟩ := hmem
  refine hleast (o - 1) (by omega) ⟨by have := h.1; omega, fun a ha => ?_⟩
  have hend := hends a ha
  have hroom := h.2 a ha
  omega
theorem mem_firstFit (as : List Alloc) (win size o : Nat) :
    o ∈ ((0 :: as.map fun a => a.off + a.size).filter fun o => decide (o + size ≤ win) && !(as.any fun a => decide (o < a.off + a.size ∧ a.off < o + size))) ↔
      o ∈ (0 :: as.map fun a => a.off + a.size) ∧ AllocFits as win size o := by
  simp only [List.mem_filter, Bool.and_eq_true, decide_eq_true_eq, Bool.not_eq_true', List.any_eq_false, AllocFits]
  refine and_congr_right fun _ => and_congr_right fun _ => forall₂_congr fun a _ => ?_
  omega
/-- Where there is room at all there is room at or below it where the search looks. -/
theorem AllocFits.searched (as : List Alloc) (win size o : Nat) (h : AllocFits as win size o) : ∃ m ≤ o, m ∈ (0 :: as.map fun a => a.off + a.size) ∧ AllocFits as win size m := by
  classical
  exact ⟨Nat.find ⟨o, h⟩, Nat.find_min' ⟨o, h⟩ h,
    AllocFits.begins as win size _ (Nat.find_spec ⟨o, h⟩) fun _ => Nat.find_min ⟨o, h⟩, Nat.find_spec ⟨o, h⟩⟩
/-- The search answers the lowest offset that fits. -/
theorem firstFit_some (as : List Alloc) (win size o : Nat) (h : firstFit as win size = some o) : AllocFits as win size o ∧ ∀ p < o, ¬AllocFits as win size p := by
  obtain ⟨hmem, hle⟩ := List.min?_eq_some_iff.mp h
  refine ⟨((mem_firstFit as win size o).mp hmem).2, fun p hp hfits => ?_⟩
  obtain ⟨m, hm, hsearched⟩ := hfits.searched
  have hom := hle m ((mem_firstFit as win size m).mpr hsearched)
  omega
theorem firstFit_isNone (as : List Alloc) (win size : Nat) : firstFit as win size = none ↔ ∀ o, ¬AllocFits as win size o := by
  rw [firstFit, List.min?_eq_none_iff, List.eq_nil_iff_forall_not_mem]
  refine ⟨fun h o hfits => ?_, fun h o hmem => h o ((mem_firstFit as win size o).mp hmem).2⟩
  obtain ⟨m, -, hsearched⟩ := hfits.searched
  exact h m ((mem_firstFit as win size m).mpr hsearched)

/-! SPALLOC -/

theorem Core.allocFits_allocsOf (k : Core) (b : Buf) (grove win size o : Nat) : AllocFits (k.allocsOf b grove) win size o ↔
    o + size ≤ win ∧ ∀ a ∈ k.allocs, a.buf = b → a.grove = grove → o + size ≤ a.off ∨ a.off + a.size ≤ o := by
  simp [AllocFits, Core.allocsOf]
/-- A next generation is in range and no live allocation holds it (R129). -/
theorem Core.nextSpGen_some (k : Core) (gen : Nat) (h : k.nextSpGen = some gen) : (∀ a ∈ k.allocs, a.gen ≠ gen) ∧ gen ≤ 65535 := by
  have hfound := List.find?_some h
  simpa [and_comm] using hfound
theorem State.spAlloc_refused (s : State) (core grove bytes : Nat) (b : Buf) (cls : LClass) (ar strict : Bool)
    (h : bytes = 0 ∨ 256 ≤ (s.core core).allocs.length ∨
      firstFit ((s.core core).allocsOf b grove) ((s.groves.find? grove).elim 0 fun g => (g.win b).2) (roundUp bytes 256) = none) :
    s.spAlloc core grove b cls ar strict bytes = (s, 0xFFFFFFFF) := by
  unfold State.spAlloc
  dsimp only
  split
  · next off gen hoff hgen => exact if_pos (by simpa [hoff] using h)
  · rfl
theorem State.spAlloc_made (s : State) (core grove bytes off gen : Nat) (b : Buf) (cls : LClass) (ar strict : Bool)
    (hbytes : bytes ≠ 0) (hroom : (s.core core).allocs.length < 256) (hgen : (s.core core).nextSpGen = some gen)
    (hoff : firstFit ((s.core core).allocsOf b grove) ((s.groves.find? grove).elim 0 fun g => (g.win b).2) (roundUp bytes 256) = some off) :
    s.spAlloc core grove b cls ar strict bytes = (s.carve core grove b off (roundUp bytes 256) cls ar strict gen, off) := by
  simp [State.spAlloc, hoff, hgen, hbytes, hroom]
@[simp] theorem State.spAlloc_launches (s : State) (core grove bytes : Nat) (b : Buf) (cls : LClass) (ar strict : Bool) :
    (s.spAlloc core grove b cls ar strict bytes).1.launches = s.launches := by
  unfold State.spAlloc
  dsimp only
  split
  · split <;> rfl
  · rfl
/-- Two ways to allocate lane by lane that agree in every state they pass through come to the same. -/
theorem State.spAllocs_congr (x : Ctx) (f h : State → Nat → State × Nat) (P : State → Prop) (hstep : ∀ u l, P u → P (f u l).1) (heq : ∀ u l, P u → f u l = h u l)
    (ls : List Nat) (s : State) (hs : P s) : s.spAllocs x f ls = s.spAllocs x h ls := by
  induction ls generalizing s with
  | nil => rfl
  | cons l t ih => simp only [State.spAllocs, ← heq s l hs, ih _ (hstep s l hs)]
/-- SPALLOC where no lane is refused its class and the core has a generation for each lane (R133, R266, R270). -/
theorem spalloc_acts (g : Guard) (d : Nat) (b : Src) (buf : Buf) (lc : LClass) (ar strict : Bool) : Acts (.spalloc g d b buf lc ar strict) g 12 (d :: b.regs) b.regs
    (each g fun s x l => s.spAfter (x.strand l) false true = [] ∧ ¬(lc = .l2 ∧ s.lcmax (dieOf x.core) = 1) ∧
      s.genVerdict x ((x.en g).countP (decide <| · < l)) = .go)
    fun s x ls =>
      let r := s.spAllocs x (fun s l => s.spAlloc x.core (s.groveOf x l) buf lc (ar || s.autoRenew x.co.launch) strict (x.co.src b l).toNat) ls
      r.1.onCohort x fun co => co.write d .gen ls fun l => BitVec.ofNat 32 (r.2.getD l 0) := by
  refine acts_at_once _ (planSpalloc g d b buf lc ar strict) _ _ false true (fun _ => rfl) rfl rfl (fun _ _ _ _ => rfl) (fun _ _ => ⟨rfl, rfl, rfl⟩) (fun _ _ _ hok => hok.1)
    ?_ fun t x ls h => ?_
  · rintro s x l ⟨-, hclass, hturn⟩
    rw [List.countP_eq_length_filter] at hturn
    have hrefused : (lc == .l2 && s.lcmax (dieOf x.core) == 1) = false := by simpa using hclass
    exact (if_neg (by simp [hrefused])).trans hturn
  · have hauto := State.spAllocs_congr x (fun u l => u.spAlloc x.core (u.groveOf x l) buf lc (ar || t.autoRenew x.co.launch) strict (x.co.src b l).toNat)
      (fun u l => u.spAlloc x.core (u.groveOf x l) buf lc (ar || u.autoRenew x.co.launch) strict (x.co.src b l).toNat) (fun u => u.launches = t.launches)
      (fun u l hu => (u.spAlloc_launches ..).trans hu) (fun u l hu => by simp only [State.autoRenew, hu]) ls t rfl
    rw [← hauto]
    exact if_pos (c := t.spNow x ls false true = true) h

/-! SPFREE, SPCLEAR and SPRENEW -/

theorem State.startVerdict_go (s : State) (x : Ctx) (l : Nat) (b : Buf) (off : Nat) (h : ∃ al, s.startOf x.core (s.groveOf x l) b off = .ok al) :
    s.startVerdict x l b off = .go := by
  obtain ⟨al, hal⟩ := h
  simp only [State.startVerdict, hal]
theorem spfree_acts (g : Guard) (a : Nat) (buf : Buf) : Acts (.spfree g a buf) g 12 [a] [a]
    (each g fun s x l => s.spAfter (x.strand l) false true = [] ∧ ∃ al, s.startOf x.core (s.groveOf x l) buf (x.co.reg a l).toNat = .ok al)
    fun s x ls => ls.foldl (fun s l => s.spFree x.core (s.groveOf x l) buf (x.co.reg a l).toNat) s :=
  acts_at_once _ (planSpfree g a buf) _ _ false true (fun _ => rfl) rfl rfl (fun _ _ _ _ => rfl) (fun _ _ => ⟨rfl, rfl, rfl⟩) (fun _ _ _ hok => hok.1)
    (fun s x l hok => s.startVerdict_go x l buf _ hok.2) fun _ _ _ h => if_pos h
theorem spclear_acts (g : Guard) (a : Nat) (buf : Buf) : Acts (.spclear g a buf) g 12 [a] [a]
    (each g fun s x l => (s.spAfter (x.strand l) false true = [] ∧ ∃ al, s.startOf x.core (s.groveOf x l) buf (x.co.reg a l).toNat = .ok al) ∧
      s.genVerdict x ((x.en g).countP (decide <| · < l)) = .go)
    fun s x ls => ls.foldl (fun s l => s.spClear x.core (s.groveOf x l) buf (x.co.reg a l).toNat) s := by
  refine acts_at_once _ (planSpclear g a buf) _ _ false true (fun _ => rfl) rfl rfl (fun _ _ _ _ => rfl) (fun _ _ => ⟨rfl, rfl, rfl⟩) (fun _ _ _ hok => hok.1.1)
    ?_ fun _ _ _ h => if_pos h
  rintro s x l ⟨⟨-, hstart⟩, hturn⟩
  rw [List.countP_eq_length_filter] at hturn
  exact (congrArg (Verdict.and · _) (s.startVerdict_go x l buf _ hstart)).trans hturn
/-- SPRENEW of a lane whose length is a register's or an immediate's (R268). -/
theorem State.renewIssue_eq (s : State) (x : Ctx) (l : Nat) (b : Buf) (off : Nat) (len : Word) : s.renewIssue x l b off len.toNat =
    if len = 0 then s else s.issueOp { s.newOp x l (.renew b) (some .st) off 0 0 0 with fields := renewOffs off len.toNat } := by
  have hzero : len.toNat = 0 ↔ len = 0 := by rw [BitVec.toNat_eq]; rfl
  simp only [State.renewIssue, beq_iff_eq, hzero]
theorem sprenew_acts (g : Guard) (a : Nat) (b : Src) (buf : Buf) : Acts (.sprenew g a b buf) g 12 (a :: b.regs) (a :: b.regs)
    (each g fun s x l => s.countable x .st l = true ∧ s.renewCheck x l buf (x.co.reg a l).toNat (x.co.src b l).toNat = .go)
    fun s x ls => ls.foldl (fun s l => if x.co.src b l = 0 then s else
      s.issueOp { s.newOp x l (.renew buf) (some .st) (x.co.reg a l).toNat 0 0 0 with fields := renewOffs (x.co.reg a l).toNat (x.co.src b l).toNat }) s := by
  refine acts_of _ (planSprenew g a b buf) _ _ (fun _ => rfl) rfl (fun _ _ _ => ⟨rfl, rfl, rfl⟩) (fun s x hok l hl c hc => ?_) (fun s x hok l hl => (hok l hl).2)
    (fun s x _ => ?_) (.inl fun _ _ _ _ => rfl)
  · cases hc
    exact (hok l hl).1
  · exact congrArg (fun f => (x.en g).foldl f _) (funext₂ fun s l => s.renewIssue_eq x l buf _ _)
/-- A renewal stamps its granule, marks it expired or leaves it, by its generation and its age; the others stay (R130). -/
theorem State.gran_renewGran (s : State) (core grove off : Nat) (b : Buf) (g : Grove) (a : Alloc) (m : Nat) (hg : s.groves.find? grove = some g)
    (ha : (s.core core).alloc? b grove off = some a) :
    ((s.renewGran core grove b off).core core).gran b m =
      if m = ((g.win b).1 + off) / 32 then renewed s.T a ((s.core core).gran b m) else (s.core core).gran b m := by
  simp only [State.renewGran, hg, ha, State.core_modCore]
  split
  · next h => rw [h, Core.gran_setGran_same]
  · next h => exact Core.gran_setGran_other _ _ _ _ _ h

/-- Settles O27: each instruction acts through its operation on the allocations; a renewal goes by its granule, and SPALLOC by the search for the lowest offset that fits. -/
theorem scratchpadManagement : Obligations.ScratchpadManagement := by
  refine ⟨fun g d a b buf lc ar strict => ⟨spalloc_acts g d b buf lc ar strict, spfree_acts g a buf, spclear_acts g a buf, sprenew_acts g a b buf⟩,
    fun s core grove off b g a hg ha => ⟨?_, fun m hm => ?_⟩, fun s core grove bytes b cls ar strict => ?_⟩
  · rw [s.gran_renewGran core grove off b g a _ hg ha, if_pos rfl, renewed]
    simp only [bne_iff_ne]
  · rw [s.gran_renewGran core grove off b g a m hg ha, if_neg hm]
  · intro size win free
    have hfree : ∀ o, AllocFits ((s.core core).allocsOf b grove) win size o ↔ free o := (s.core core).allocFits_allocsOf b grove win size
    refine ⟨fun h => s.spAlloc_refused core grove bytes b cls ar strict ?_, fun gen hbytes hroom hgen hsome => ?_⟩
    · exact h.imp_right fun h => h.imp_right fun h => (firstFit_isNone _ _ _).mpr fun o ho => h o ((hfree o).mp ho)
    · obtain ⟨hothers, hrange⟩ := (s.core core).nextSpGen_some gen hgen
      cases hfirst : firstFit ((s.core core).allocsOf b grove) win size with
      | none =>
        obtain ⟨o, ho⟩ := hsome
        exact absurd ((hfree o).mpr ho) ((firstFit_isNone _ _ _).mp hfirst o)
      | some o =>
        obtain ⟨hfits, hleast⟩ := firstFit_some _ _ _ _ hfirst
        exact ⟨o, (hfree o).mp hfits, fun p hp => mt (hfree p).mpr (hleast p hp), hothers, hrange,
          s.spAlloc_made core grove bytes o gen b cls ar strict hbytes hroom hgen hfirst⟩

end Sys2Proof.Machine
end

section
/-! What stores and atomics leave in local memory (R119, R149, R255, R259, R260, R348). -/
namespace Sys2Proof.Machine

/-! Wakes leave memory -/

/-- What the wake of a record can change: cores, strands and twin pairs. -/
def State.WakesTo (s t : State) : Prop := ∃ cs ss ws, t = { s with cores := cs, strands := ss, twins := ws }
theorem State.WakesTo.rfl' (s : State) : s.WakesTo s := ⟨s.cores, s.strands, s.twins, rfl⟩
theorem State.WakesTo.trans {s t u : State} (h : s.WakesTo t) (k : t.WakesTo u) : s.WakesTo u := by
  obtain ⟨_, _, _, rfl⟩ := h
  obtain ⟨_, _, _, rfl⟩ := k
  exact ⟨_, _, _, rfl⟩
theorem State.WakesTo.mem {s t : State} (h : s.WakesTo t) : t.mem = s.mem := by
  obtain ⟨_, _, _, rfl⟩ := h
  rfl
theorem State.WakesTo.foldl {α : Type} (f : State → α → State) (hf : ∀ (s : State) a, s.WakesTo (f s a)) (l : List α) (s : State) : s.WakesTo (l.foldl f s) := by
  induction l generalizing s with
  | nil => exact .rfl' s
  | cons a t ih => exact (hf s a).trans (ih (f s a))
theorem State.modCore_wakesTo (s : State) (c : Nat) (f : Core → Core) : s.WakesTo (s.modCore c f) := ⟨_, s.strands, s.twins, rfl⟩
theorem State.promote_wakesTo (s : State) (core : Nat) : s.WakesTo (s.promote core) := by
  obtain ⟨cs, h⟩ := s.promote_eq core
  exact ⟨cs, s.strands, s.twins, h⟩
theorem State.forward_wakesTo (s : State) (strand : Nat) (bs : List Byte) : s.WakesTo (s.forward strand bs) := by
  unfold State.forward
  split
  · exact .rfl' s
  · split
    · exact .rfl' s
    · dsimp only
      split
      · exact ⟨s.cores, _, s.twins, rfl⟩
      · exact ⟨s.cores, _, _, rfl⟩
theorem State.forwardCell_wakesTo (s : State) (r : Record) (w : WaitEv) : s.WakesTo (s.forwardCell r w) := by
  unfold State.forwardCell
  dsimp only
  split
  · exact s.forward_wakesTo _ _
  · exact s.forward_wakesTo _ _
  · exact .rfl' s
theorem State.dropSectors_eq (s : State) (core pa len : Nat) : ∃ cs, s.dropSectors core pa len = { s with cores := cs } := by
  unfold State.dropSectors
  split
  · exact ⟨_, rfl⟩
  · exact ⟨s.cores, rfl⟩
theorem State.dropSectors_wakesTo (s : State) (core pa len : Nat) : s.WakesTo (s.dropSectors core pa len) := by
  obtain ⟨cs, h⟩ := s.dropSectors_eq core pa len
  exact ⟨cs, s.strands, s.twins, h⟩
theorem State.acquire_wakesTo (s : State) (core : Nat) (sc : Scope) : s.WakesTo (s.acquire core sc) := by
  unfold State.acquire
  split
  · exact .rfl' s
  · exact s.modCore_wakesTo _ _
/-- The read of a record's wait takes the place of what the L1 holds of a watched cell (R118, R147). -/
def State.takeRead (s : State) (core : Nat) (w : WaitEv) : State :=
  match w with
  | .futG _ pa _ _ _ | .watch _ pa _ _ _ _ _ _ _ => s.dropSectors core pa w.watchLen
  | _ => s
theorem State.wakeAs_yes (s : State) (core rid : Nat) (r : Record) (w : WaitEv) (dst : Nat) (ws : List Word) (acq : Option Scope) :
    ∃ f : Core → Core, let t := ((s.forwardCell r w).modCore core f).takeRead core w
      s.wakeAs core rid r w (.yes dst ws acq) = (acq.elim t (t.acquire core)).promote core :=
  ⟨_, by cases acq <;> rfl⟩
theorem State.takeRead_wakesTo (s : State) (core : Nat) (w : WaitEv) : s.WakesTo (s.takeRead core w) := by
  unfold State.takeRead
  split
  · exact s.dropSectors_wakesTo _ _ _
  · exact s.dropSectors_wakesTo _ _ _
  · exact .rfl' s
theorem State.wakeAs_wakesTo (s : State) (core rid : Nat) (r : Record) (w : WaitEv) (res : Woken) : s.WakesTo (s.wakeAs core rid r w res) := by
  cases res with
  | no => exact .rfl' s
  | err f => exact (s.modCore_wakesTo _ _).trans (State.promote_wakesTo _ _)
  | yes dst ws acq =>
    obtain ⟨f, h⟩ := s.wakeAs_yes core rid r w dst ws acq
    have hread := ((s.forwardCell_wakesTo r w).trans (State.modCore_wakesTo _ core f)).trans (State.takeRead_wakesTo _ core w)
    rw [h]
    refine .trans ?_ (State.promote_wakesTo _ _)
    cases acq with
    | none => exact hread
    | some sc => exact hread.trans (State.acquire_wakesTo _ core sc)
theorem State.wakeOne_wakesTo (s : State) (core rid : Nat) : s.WakesTo (s.wakeOne core rid) := by
  unfold State.wakeOne
  split
  · exact .rfl' s
  · split
    · exact .rfl' s
    · split
      · exact .rfl' s
      · exact s.wakeAs_wakesTo _ _ _ _ _
theorem State.fire_wakesTo (s : State) (core : Nat) (sel : Record → WaitEv → Bool) : s.WakesTo (s.fire core sel) := by
  unfold State.fire State.asSet
  extract_lets rids woken
  have hwoken := State.WakesTo.foldl (fun s i => s.wakeOne core i) (fun s i => s.wakeOne_wakesTo core i) rids s
  split
  · exact hwoken
  · exact hwoken.trans (State.modCore_wakesTo _ _ _)
theorem State.fireLine_wakesTo (s : State) (pa len : Nat) : s.WakesTo (s.fireLine pa len) :=
  .foldl _ (fun s c => s.fire_wakesTo c _) _ s

/-! A write at its home -/

@[simp] theorem State.postMsg_mem (s : State) (key : Nat) (msg : List Byte) : (s.postMsg key msg).mem = s.mem := by
  unfold State.postMsg
  dsimp only
  split
  · rfl
  · split <;> rfl
@[simp] theorem State.post_mem (s : State) (pkg cls ord part kind opid : Nat) (bs : List Byte) : (s.post pkg cls ord part kind opid bs).mem = s.mem :=
  foldl_keeps State.mem _ (fun s _ => s.postMsg_mem _ _) _ s
@[simp] theorem State.tellWatchers_mem (s : State) (pa len : Nat) : (s.tellWatchers pa len).mem = s.mem := by
  unfold State.tellWatchers
  dsimp only
  split
  · rfl
  · exact foldl_keeps State.mem _ (fun s _ => s.post_mem _ _ _ _ _ _ _) _ _
/-- A write at its home puts its bytes in memory and leaves the others (R119). -/
@[simp] theorem State.homeWrite_mem (s : State) (pa : Nat) (bs : List Byte) : (s.homeWrite pa bs).mem = memPuts s.mem (localOf pa) bs := by
  unfold State.homeWrite
  extract_lets whole t
  rw [State.tellWatchers_mem, (State.fireLine_wakesTo _ _ _).mem]
  rfl
@[simp] theorem State.markKey_mem (s : State) (leaf : DWord) (pa len : Nat) : (s.markKey leaf pa len).mem = s.mem := by
  unfold State.markKey
  dsimp only
  split <;> rfl
theorem foldl_eq_self {α β : Type} (f : α → β → α) (l : List β) (s : α) (h : ∀ a ∈ l, f s a = s) : l.foldl f s = s := by
  induction l with
  | nil => rfl
  | cons a t ih => rw [List.foldl_cons, h a List.mem_cons_self, ih fun b hb => h b (List.mem_cons_of_mem a hb)]
/-- What is read and written through a leaf is plain memory: it names a key slot, or no key wrote the lines (R348). -/
def State.Plain (s : State) (leaf : DWord) (pa len : Nat) : Prop := fld leaf 63 58 ≠ 0 ∨ ∀ n ∈ linesOf pa len, s.slotLines.find? n = none
theorem mem_linesOf (pa len n : Nat) : n ∈ linesOf pa len ↔ localOf pa / 64 ≤ n ∧ n < (localOf pa + len + 63) / 64 := by
  simp only [linesOf, List.mem_map, List.mem_range]
  exact ⟨fun ⟨i, hi, hn⟩ => by omega, fun h => ⟨n - localOf pa / 64, by omega, by omega⟩⟩
theorem State.readAs_plain (s : State) (leaf : DWord) (pa len : Nat) (h : s.Plain leaf pa len) : s.readAs leaf pa len = s.readMem (localOf pa) len := by
  unfold State.readAs
  split
  · next hkey =>
    have hlines := h.resolve_left (by simpa using (Bool.and_eq_true_iff.mp hkey).1)
    refine List.map_congr_left fun i hi => ?_
    have hline := hlines ((localOf pa + i) / 64) ((mem_linesOf ..).mpr (by have := List.mem_range.mp hi; omega))
    simp only [State.rawByte, hline]
  · rfl
theorem State.unseal_plain (s : State) (leaf : DWord) (pa len : Nat) (h : s.Plain leaf pa len) : s.unseal leaf pa len = s := by
  unfold State.unseal
  split
  · next hkey =>
    have hlines := h.resolve_left (by simpa using (Bool.and_eq_true_iff.mp hkey).1)
    exact foldl_eq_self _ _ s fun n hn => if_neg (by simp [hlines n hn])
  · rfl
theorem State.keyedWrite_mem (s : State) (leaf : DWord) (pa : Nat) (bs : List Byte) (h : s.Plain leaf pa bs.length) :
    (s.keyedWrite leaf pa bs).mem = memPuts s.mem (localOf pa) bs := by
  rw [State.keyedWrite, State.markKey_mem, State.homeWrite_mem, s.unseal_plain leaf pa _ h]
/-- What every address reads as once bytes were put in memory. -/
theorem State.readByte_of_puts (s t : State) (pa : Nat) (bs : List Byte) (hwf : Memory.wf s.mem = true) (h : t.mem = memPuts s.mem pa bs) (a : Nat) :
    t.readByte a = if pa ≤ a ∧ a < pa + bs.length then bs.getD (a - pa) 0 else s.readByte a := by
  rw [readByte_eq, readByte_eq, h]
  split
  · next hin =>
    have hget := memGet_puts_same s.mem pa (a - pa) bs hwf (by omega)
    rwa [Nat.add_sub_cancel' hin.1] at hget
  · exact memGet_puts_other s.mem pa a bs (by omega)

/-! Stores -/

theorem State.spaceOf_of_isLocal (s : State) (pa : Nat) (h : s.isLocal pa = true) : spaceOf pa = 0 ∨ spaceOf pa = 1 := by
  simp only [State.isLocal, Bool.or_eq_true, Bool.and_eq_true, beq_iff_eq] at h
  exact h.imp_right And.left
theorem State.notRegisters_of_isLocal (s : State) (pa : Nat) (h : s.isLocal pa = true) : (spaceOf pa == 3) = false := by
  have := s.spaceOf_of_isLocal pa h
  rw [beq_eq_false_iff_ne]
  omega
/-- What the effects on local memory take for granted: an access of this package's populated memory, outside twin groves and staging, whose lines are plain. -/
structure State.LocalAccess (s : State) (o : MemOp) : Prop where
  wf : Memory.wf s.mem = true
  here : s.isLocal o.pa = true
  populated : s.populated o.pa = true
  single : s.sideOf o.grove = none
  unstaged : s.stages o = false
  sized : o.data.length = o.size
  plain : s.Plain o.leaf o.pa o.size
theorem State.putHome_mem (s : State) (o : MemOp) (bs : List Byte) (ha : s.LocalAccess o) (hlen : bs.length = o.size) :
    (s.putHome o bs).mem = memPuts s.mem (localOf o.pa) bs := by
  simp only [State.putHome, ha.unstaged, ha.populated, Bool.false_eq_true, if_false, if_true]
  exact s.keyedWrite_mem o.leaf o.pa bs (hlen.symm ▸ ha.plain)
@[simp] theorem State.writeThrough_mem (s : State) (core pa : Nat) (bs : List Byte) : (s.writeThrough core pa bs).mem = s.mem := rfl
@[simp] theorem State.halfHeld_mem (s : State) (o : MemOp) : (s.halfHeld o).mem = s.mem := by
  unfold State.halfHeld State.halfLine
  split
  · rfl
  · dsimp only
    split
    · rfl
    · split <;> rfl
/-- A store puts its bytes in memory (R119, R255). -/
theorem State.performStore_mem (s : State) (o : MemOp) (ha : s.LocalAccess o) (htag : s.tagFails o.leaf o.pa o.size = false) :
    (s.performStore o).mem = memPuts s.mem (localOf o.pa) o.data := by
  have hput := s.putHome_mem o o.data ha ha.sized
  have hspace := s.spaceOf_of_isLocal o.pa ha.here
  have hhost : (spaceOf o.pa == 2 || spaceOf o.pa == 4) = false := by simp only [Bool.or_eq_false_iff, beq_eq_false_iff_ne]; omega
  simp only [State.performStore, ha.single, s.notRegisters_of_isLocal o.pa ha.here, hhost, ha.here, htag, Bool.not_true, Bool.false_eq_true, if_false]
  split
  · exact hput
  · split
    · rw [State.writeThrough_mem, State.halfHeld_mem, hput]
    · rw [State.writeThrough_mem, hput]

/-! Atomics -/

theorem map_zipIdx_fst {α : Type} (l : List α) (f : α × Nat → α) (h : ∀ x, f x = x.1) : l.zipIdx.map f = l := by
  rw [funext h]
  exact List.zipIdx_map_fst 0 l
theorem MemOp.atomStep_cas (o : MemOp) (rt : Bool) (old : List Byte) (h : o.kind = .cas rt) :
    o.atomStep old = .ok (if old = o.cmp then some o.data else none, old) := by simp [MemOp.atomStep, h]
/-- An atomic on good memory takes what stands there, and puts its new bytes there if it has some (R149). -/
theorem State.atHome_local (s : State) (o : MemOp) (data : List Byte) (new : Option (List Byte)) (got : List Byte) (ha : s.LocalAccess o)
    (hroute : s.noRoute o.pa = false) (hbad : s.badLine o o.pa o.size = none) (hstep : o.atomStep (s.readMem (localOf o.pa) o.size) = .ok (new, got)) :
    s.atHome o data = ((new.elim s (s.putHome o)).dropSectors o.core o.pa o.size, { o with home := true, got := got }) := by
  have hold : (s.readAs o.leaf o.pa o.size).zipIdx.map (fun x => NMap.getD ([] : NMap Byte) (localOf o.pa + x.2) x.1) = s.readMem (localOf o.pa) o.size :=
    (map_zipIdx_fst _ _ fun _ => rfl).trans (s.readAs_plain _ _ _ ha.plain)
  simp only [State.atHome, hroute, ha.here, hbad, ha.unstaged, hold, hstep, Bool.not_true, Bool.false_eq_true, if_false]
  cases new <;> rfl
theorem State.atHome_puts (s : State) (o : MemOp) (data new got : List Byte) (ha : s.LocalAccess o) (hroute : s.noRoute o.pa = false)
    (hbad : s.badLine o o.pa o.size = none) (hlen : new.length = o.size) (hstep : o.atomStep (s.readMem (localOf o.pa) o.size) = .ok (some new, got)) :
    (s.atHome o data).2 = { o with home := true, got := got } ∧ (s.atHome o data).1.mem = memPuts s.mem (localOf o.pa) new := by
  rw [s.atHome_local o data (some new) got ha hroute hbad hstep]
  exact ⟨rfl, (State.dropSectors_wakesTo _ _ _ _).mem.trans (s.putHome_mem o new ha hlen)⟩

end Sys2Proof.Machine
end

section
/-! What loads of local memory take, from the L2 and through the L1, and the effects on local memory as the claim puts them (R115, R116, R118, R254). -/
namespace Sys2Proof

/-- The entries kept by a condition on their keys are found as before. -/
theorem NMap.find?_filter_key {α : Type} (m : NMap α) (P : Nat → Bool) (n : Nat) (h : P n = true) : NMap.find? (m.filter fun x => P x.1) n = m.find? n := by
  induction m with
  | nil => rfl
  | cons y t ih =>
    obtain ⟨k, v⟩ := y
    by_cases hk : k = n
    · simp [NMap.find?, hk, h]
    · by_cases hP : P k = true
      · simpa [NMap.find?, hk, hP] using ih
      · simpa [NMap.find?, hk, hP] using ih
/-- A table into which a list of keys was filled. -/
theorem NMap.find?_fill {α : Type} (ns : List Nat) (f : Nat → Option α) (v : Nat → α) (hf : ∀ n ∈ ns, f n = some (v n)) (m : NMap α) (n : Nat) :
    (ns.foldl (fun m n => (f n).elim m (NMap.put m n)) m).find? n = if n ∈ ns then some (v n) else m.find? n := by
  induction ns generalizing m with
  | nil => simp
  | cons k t ih =>
    rw [List.foldl_cons, ih fun j hj => hf j (List.mem_cons_of_mem k hj), hf k List.mem_cons_self, Option.elim_some]
    by_cases ht : n ∈ t
    · simp [ht]
    · by_cases hk : n = k
      · simp [hk]
      · simp [ht, hk, NMap.find?_put_other _ _ _ _ hk]

end Sys2Proof

namespace Sys2Proof.Machine

theorem State.overlaid_nothing (s : State) (grove launch pa : Nat) (bs : List Byte) (hstaged : s.stagedOf launch = []) (hheld : s.heldStores grove = []) :
    s.overlaid grove launch pa bs = bs := by
  unfold State.overlaid
  rw [hheld, hstaged, ite_self]
  exact map_zipIdx_fst bs _ fun _ => rfl
/-- A load of local memory takes what its read at the L2 or at the L1 gives, where nothing lies over it. -/
theorem State.loadBytes_local (s : State) (o : MemOp) (data bs : List Byte) (status : Nat) (cs : NMap Core) (fr : Nat) (hlocal : s.isLocal o.pa = true)
    (hread : (if o.nl1 || (o.ord.isAcq && o.sc != .core) then s.readL2 o else s.readL1 o) = ({ s with cores := cs, freeN := fr }, .ok bs))
    (hstaged : s.stagedOf o.launch = []) (hheld : s.heldStores o.grove = []) : (s.loadBytes o data status).2.toOption = some bs := by
  have hover := ({ s with cores := cs, freeN := fr } : State).overlaid_nothing o.grove o.launch o.pa bs hstaged hheld
  simp only [State.loadBytes, s.notRegisters_of_isLocal o.pa hlocal, hlocal, hread, hover, Bool.false_eq_true, if_false, if_true]
  rfl
theorem find?_evictOne (lineOf : Nat → Nat) (cap free : Nat) (keep : List Nat) (m : NMap (List Byte)) (n : Nat) (h : lineOf n ∈ keep) :
    (evictOne lineOf cap free keep m).find? n = m.find? n := by
  unfold evictOne
  extract_lets lines
  split
  · rfl
  · cases hout : lines[free % lines.length]? with
    | none => rfl
    | some out =>
      have hgone : out ∉ keep := by simpa using (List.mem_filter.mp (List.mem_of_getElem? hout)).2
      have hkept : (lineOf n != out) = true := by
        rw [bne_iff_ne]
        exact fun heq => hgone (heq ▸ h)
      exact NMap.find?_filter_key m (fun k => lineOf k != out) n hkept
/-- A core's L1 that has too many lines keeps those just filled. -/
theorem State.find?_trimL1d (s : State) (core n : Nat) (keep : List Nat) (h : n / 4 ∈ keep) :
    ((s.trimL1d core keep).core core).l1d.find? n = (s.core core).l1d.find? n := by
  unfold State.trimL1d
  split
  · rfl
  · rw [State.core_modCore]
    exact find?_evictOne (· / 4) 2048 _ keep _ n h
theorem State.trimL1d_eq (s : State) (core : Nat) (keep : List Nat) : ∃ cs fr, s.trimL1d core keep = { s with cores := cs, freeN := fr } := by
  unfold State.trimL1d
  split
  · exact ⟨s.cores, s.freeN, rfl⟩
  · exact ⟨_, _, rfl⟩
theorem mem_sectorsOf (pa len n : Nat) : n ∈ sectorsOf pa len ↔ localOf pa / 32 ≤ n ∧ n < (localOf pa + len + 31) / 32 := by
  simp only [sectorsOf, List.mem_map, List.mem_range]
  exact ⟨fun ⟨i, hi, hn⟩ => by omega, fun h => ⟨n - localOf pa / 32, by omega, by omega⟩⟩
theorem State.populated_of_badLine (s : State) (o : MemOp) (pa len : Nat) (h : s.badLine o pa len = none) : s.populated pa = true := by
  by_contra hpop
  rw [Bool.not_eq_true] at hpop
  simp [State.badLine, State.poisonAt, hpop] at h
theorem localOf_sector (pa m : Nat) (h : 32 * m < 2 ^ 41) : localOf (pa - localOf pa + 32 * m) = 32 * m := by
  unfold localOf
  omega
/-- Between a populated address and the end of the local address space lies a sector that is not populated (R115, R116). -/
theorem State.exists_unpopulated (s : State) (pa : Nat) (hpop : s.populated pa = true) :
    ∃ m, localOf pa / 32 ≤ m ∧ 32 * m < 2 ^ 41 ∧ s.populated (pa - localOf pa + 32 * m) = false := by
  have hlt : localOf pa < 2 ^ 41 := Nat.mod_lt _ (by decide)
  simp only [State.populated, Bool.and_eq_true] at hpop
  obtain ⟨-, hpop⟩ := hpop
  cases hdie : s.dieLocal with
  | false =>
    simp only [hdie, Bool.false_eq_true, if_false, decide_eq_true_eq] at hpop
    have hm : 32 * (1536 * 2 ^ 30 / 32) < 2 ^ 41 := by decide
    refine ⟨1536 * 2 ^ 30 / 32, by omega, hm, ?_⟩
    simp only [State.populated, localOf_sector pa _ hm, hdie, Bool.false_eq_true, if_false, Bool.and_eq_false_iff, decide_eq_false_iff_not]
    omega
  | true =>
    simp only [hdie, if_true, decide_eq_true_eq] at hpop
    have hm : 32 * ((localOf pa / 2 ^ 39 * 2 ^ 39 + 384 * 2 ^ 30) / 32) < 2 ^ 41 := by omega
    refine ⟨(localOf pa / 2 ^ 39 * 2 ^ 39 + 384 * 2 ^ 30) / 32, by omega, hm, ?_⟩
    simp only [State.populated, localOf_sector pa _ hm, hdie, if_true, Bool.and_eq_false_iff, decide_eq_false_iff_not]
    omega
/-- Sectors that follow one another and are all populated lie below the end of the local address space. -/
theorem State.sectors_below (s : State) (pa len : Nat) (hpop : s.populated pa = true) (hall : ∀ n ∈ sectorsOf pa len, s.populated (pa - localOf pa + 32 * n) = true) :
    ∀ n ∈ sectorsOf pa len, 32 * n < 2 ^ 41 := by
  intro n hn
  by_contra hhigh
  obtain ⟨m, hlow, hm, hgap⟩ := s.exists_unpopulated pa hpop
  have hin : m ∈ sectorsOf pa len := by
    rw [mem_sectorsOf] at hn ⊢
    omega
  exact Bool.false_ne_true (hgap.symm.trans (hall m hin))
theorem State.Plain.sector {s : State} {leaf : DWord} {pa len : Nat} (h : s.Plain leaf pa len) (n : Nat) (hn : n ∈ sectorsOf pa len) (hlt : 32 * n < 2 ^ 41) :
    s.Plain leaf (32 * n) 32 := by
  refine h.imp_right fun hlines m hm => hlines m ?_
  have hlocal : localOf (32 * n) = 32 * n := Nat.mod_eq_of_lt hlt
  rw [mem_sectorsOf] at hn
  rw [mem_linesOf, hlocal] at hm
  rw [mem_linesOf]
  omega
/-- A sector fills the L1 as memory holds it, where the core sees no store of its own before its home (R118). -/
theorem State.l1Fill_plain (s : State) (core : Nat) (leaf : DWord) (n : Nat) (hearly : ∀ p ∈ s.ops, p.early = true → p.core ≠ core) (hn : 32 * n < 2 ^ 41)
    (h : s.Plain leaf (32 * n) 32) : s.l1Fill core leaf n = s.readMem (32 * n) 32 := by
  have hseen : (s.ops.filter fun o => o.early && o.core == core) = [] := by
    simpa [List.filter_eq_nil_iff] using hearly
  have hlocal : localOf (32 * n) = 32 * n := Nat.mod_eq_of_lt hn
  unfold State.l1Fill
  rw [hseen]
  refine (map_zipIdx_fst _ _ fun _ => rfl).trans ?_
  rw [s.readAs_plain leaf _ _ h, hlocal]
theorem State.getD_readMem (s : State) (a k i : Nat) (h : i < k) : (s.readMem a k).getD i 0 = s.readByte (a + i) := by
  simp [State.readMem, h]
/-- A read whose sectors the L1 lacks, and all of them good, takes memory's bytes (R118). -/
theorem State.readL1_fresh (s : State) (o : MemOp) (ha : s.LocalAccess o) (hearly : ∀ p ∈ s.ops, p.early = true → p.core ≠ o.core)
    (hfresh : ∀ n ∈ sectorsOf o.pa o.size, (s.core o.core).l1d.find? n = none ∧ s.badLine o (o.pa - localOf o.pa + 32 * n) 32 = none) :
    ∃ cs fr, s.readL1 o = ({ s with cores := cs, freeN := fr }, .ok (s.readMem (localOf o.pa) o.size)) := by
  have hbelow := s.sectors_below o.pa o.size ha.populated fun n hn => s.populated_of_badLine o _ _ (hfresh n hn).2
  have hsector : ∀ n ∈ sectorsOf o.pa o.size, s.l1Sector o n = some (s.readMem (32 * n) 32) := fun n hn => by
    simp only [State.l1Sector, (hfresh n hn).2, s.l1Fill_plain o.core o.leaf n hearly (hbelow n hn) (ha.plain.sector n hn (hbelow n hn))]
  unfold State.readL1
  extract_lets missing bad old t u
  have hmissing : missing = sectorsOf o.pa o.size := List.filter_eq_self.mpr fun n hn => by simp [(hfresh n hn).1]
  have hbad : bad = none := List.findSome?_eq_none_iff.mpr fun n hn => (hfresh n (hmissing ▸ hn)).2
  have hold : old = none := if_neg (by simpa using fun n hn => by simp [(hfresh n hn).1])
  have hfound : ∀ n ∈ sectorsOf o.pa o.size, (u.core o.core).l1d.find? n = some (s.readMem (32 * n) 32) := by
    intro n hn
    have hkeep : n / 4 ∈ (missing.map (· / 4)).eraseDups := by
      rw [List.mem_eraseDups, hmissing]
      exact List.mem_map_of_mem hn
    rw [t.find?_trimL1d o.core n _ hkeep, State.core_modCore, hmissing]
    exact (NMap.find?_fill _ _ _ hsector _ n).trans (if_pos hn)
  obtain ⟨cs, fr, hu⟩ := t.trimL1d_eq o.core (missing.map (· / 4)).eraseDups
  refine ⟨cs, fr, ?_⟩
  rw [hbad, hold]
  refine Prod.ext hu (congrArg Except.ok (List.map_congr_left fun i hi => ?_))
  have hlen := List.mem_range.mp hi
  rw [NMap.getD, hfound _ ((mem_sectorsOf ..).mpr (by omega)), Option.getD_some, s.getD_readMem _ _ _ (Nat.mod_lt _ (by decide)), Nat.div_add_mod]

theorem State.loadBytes_nl1 (s : State) (o : MemOp) (data : List Byte) (status : Nat) (ha : s.LocalAccess o) (hstaged : s.stagedOf o.launch = [])
    (hheld : s.heldStores o.grove = []) (hnl1 : o.nl1 = true) (hbad : s.badLine o o.pa o.size = none) :
    (s.loadBytes o data status).2.toOption = some (s.readMem (localOf o.pa) o.size) := by
  obtain ⟨cs, hdrop⟩ := s.dropSectors_eq o.core o.pa o.size
  refine s.loadBytes_local o data _ status cs s.freeN ha.here ?_ hstaged hheld
  simp only [hnl1, Bool.true_or, if_true, State.readL2, hbad, hdrop, s.readAs_plain _ _ _ ha.plain]
theorem State.loadBytes_fresh (s : State) (o : MemOp) (data : List Byte) (status : Nat) (ha : s.LocalAccess o) (hstaged : s.stagedOf o.launch = [])
    (hheld : s.heldStores o.grove = []) (hnl1 : o.nl1 = false) (hacq : o.ord.isAcq = false) (hearly : ∀ p ∈ s.ops, p.early = true → p.core ≠ o.core)
    (hfresh : ∀ n ∈ sectorsOf o.pa o.size, (s.core o.core).l1d.find? n = none ∧ s.badLine o (o.pa - localOf o.pa + 32 * n) 32 = none) :
    (s.loadBytes o data status).2.toOption = some (s.readMem (localOf o.pa) o.size) := by
  obtain ⟨cs, fr, hread⟩ := s.readL1_fresh o ha hearly hfresh
  exact s.loadBytes_local o data _ status cs fr ha.here (by simpa [hnl1, hacq] using hread) hstaged hheld

/-! The claim -/

theorem length_leBytes (k n : Nat) : (leBytes k n).length = k := by simp [leBytes]
/-- Settles O39: a store and an atomic put their bytes in memory, where every address then reads as the claim says; a load past the L1, or through it where it holds none of its sectors, reads memory. -/
theorem localMemoryEffects : Obligations.LocalMemoryEffects := by
  intro s o data status hinv hlocal hpop hside hstage hsize hplain at_ stored
  have ha : s.LocalAccess o := ⟨hinv.1, hlocal, hpop, hside, hstage, hsize, hplain⟩
  have hstored : ∀ (t : State) (bs : List Byte), t.mem = memPuts s.mem at_ bs → stored t bs := fun t bs h a => s.readByte_of_puts t at_ bs ha.wf h a
  refine ⟨fun _ htag => hstored _ _ (s.performStore_mem o ha htag), fun hstaged hheld => ⟨s.loadBytes_nl1 o data status ha hstaged hheld, s.loadBytes_fresh o data status ha hstaged hheld⟩,
    fun hroute hbad => ⟨fun op rt hkind => ?_, fun rt hkind => ?_⟩⟩
  · obtain ⟨hop, hmem⟩ := s.atHome_puts o data _ _ ha hroute hbad (length_leBytes _ _) (by rw [MemOp.atomStep, hkind])
    exact ⟨by rw [hop], by rw [hop], hstored _ _ hmem⟩
  · have hcas := o.atomStep_cas rt (s.readMem at_ o.size) hkind
    by_cases hsame : s.readMem at_ o.size = o.cmp
    · obtain ⟨hop, hmem⟩ := s.atHome_puts o data o.data _ ha hroute hbad hsize (hcas.trans (by rw [if_pos hsame]))
      rw [if_pos hsame]
      exact ⟨by rw [hop], hstored _ _ hmem⟩
    · rw [if_neg hsame, s.atHome_local o data none _ ha hroute hbad (hcas.trans (by rw [if_neg hsame]))]
      exact ⟨rfl, (State.dropSectors_wakesTo _ _ _ _).mem⟩

end Sys2Proof.Machine
end

section
/-! The bulk engine's events: a burst's read and its return, a sector's write, and the end of an operation (R157, R281, R282, R285, R287, R289, R319, R419, R423). -/
namespace Sys2Proof.Machine

/-! A partition's turn and the compare buffer -/

theorem State.hasTurn_of_no_first (s : State) (p : Nat) (who : Nat × Nat) (h : (s.part p).first = none) : s.hasTurn p who = true := by
  simp [State.hasTurn, h]
theorem State.tookTurn_of_not_first (s : State) (p : Nat) (who : Nat × Nat) (h : (s.part p).first ≠ some who) : s.tookTurn p who = s :=
  if_neg (by simpa using h)
/-- Only a twin copy's stores wait for room in the compare buffer (R460). -/
theorem State.heldFull_of_no_side (s : State) (o : MemOp) (h : s.sideOf o.grove = none) : s.heldFull o = false := by
  simp [State.heldFull, h]

/-! Bursts -/

/-- A burst is read when its partition is not frozen, the core has room for its record, and both ends of its range translate (R285, R287, R404). -/
theorem State.burstStart_reads (s : State) (core id : Nat) (o : BulkOp) (row col len va pa pa' : Nat) (leaf leaf' : DWord) (h : s.bulk? core id = some o)
    (hburst : o.burst o.bursts.length = (row, col, len, va)) (hkind : o.kind = .read) (hmore : o.bursts.length ≠ burstCount o.desc) (hready : s.bulkReady o = true)
    (hstays : s.groveStays o.grove = true) (hfrozen : (s.part (s.bulkPart o)).frozen = false) (hfirst : (s.part (s.bulkPart o)).first = none)
    (hstore : s.storeBytes core + 128 * (s.burstsComing core none).length ≤ 458752)
    (hroom : s.recRoom core (s.bulkPart o) (128 :: s.burstsComing core (some (s.bulkPart o))) = true)
    (hlo : s.engAt o va (min len (64 - va % 64)) false readSpaces = .ok pa leaf) (hhi : s.engAt o ((va + len - 1) % 2 ^ 64) 1 false readSpaces = .ok pa' leaf') :
    s.burstStart core id = s.setBulk { o with started := true, hold := none, bursts := o.bursts.put o.bursts.length .reading } := by
  have hturn := s.hasTurn_of_no_first (s.bulkPart o) (1, o.id) hfirst
  have htook : s.tookTurn (s.bulkPart o) (1, o.id) = s := s.tookTurn_of_not_first _ _ (by simp [hfirst])
  simp [State.burstStart, h, hkind, hmore, hready, hstays, hfrozen, hturn, Nat.not_lt.mpr hstore, hroom, htook, hburst, hlo, hhi, -Nat.reducePow]
section
variable (s : State) (core id seq : Nat) (data : List Byte) (status : Nat) (o : BulkOp) (row col len va : Nat) (h : s.bulk? core id = some o)
  (hreading : o.bursts.find? seq = some .reading) (hburst : o.burst seq = (row, col, len, va))
include h hreading hburst
/-- A burst that was being read returns what the read of its range gives: its bytes, or a failure (R285). -/
theorem State.burstReturn_ok (bs : List Byte) (hread : s.engRead o readSpaces 3 va len = .ok bs) :
    s.burstReturn core id seq data status = s.burstBorn (o.use va len) seq bs := by
  simp [State.burstReturn, h, hreading, hburst, hread]
theorem State.burstReturn_bad (bit : Bit) (fl : Flt) (hread : s.engRead o readSpaces 3 va len = .bad bit fl) :
    s.burstReturn core id seq data status = s.burstFails (o.use va len) seq bit fl := by
  simp [State.burstReturn, h, hreading, hburst, hread]
end

/-! The parts of an operation, one after another -/

/-- A part after which the operation does not go on at once is the event's last. -/
theorem State.bulkComplete_of_stop (s t : State) (core id : Nat) (data : List Byte) (status : Nat) (o : BulkOp) (h : s.bulk? core id = some o)
    (hstep : s.bulkStep o data status = (t, false)) : s.bulkComplete core id data status = t := by
  simp only [State.bulkComplete, State.bulkRun, h, hstep, Option.elim_some]
theorem State.bulkComplete_of_go (s t : State) (core id : Nat) (data : List Byte) (status : Nat) (o : BulkOp) (h : s.bulk? core id = some o)
    (hstep : s.bulkStep o data status = (t, true)) : s.bulkComplete core id data status = t.bulkRun core id data status (4 * o.parts + 1) := by
  simp only [State.bulkComplete, State.bulkRun, h, hstep, Option.elim_some]
theorem State.bulkStep_of_done (s : State) (o : BulkOp) (data : List Byte) (status : Nat) (hready : s.bulkReady o = true) (hstays : s.groveStays o.grove = true)
    (hdone : o.parts ≤ o.prog) : s.bulkStep o data status = (s.bulkClose o, false) := by
  simp [State.bulkStep, hready, hstays, hdone]
theorem State.bulkStep_of_sector (s : State) (o : BulkOp) (data : List Byte) (status : Nat) (hready : s.bulkReady o = true) (hstays : s.groveStays o.grove = true)
    (hmore : o.prog < o.parts) (hkind : o.kind ≠ .digest) : s.bulkStep o data status = s.sectorStep o data status := by
  simp [State.bulkStep, hready, hstays, hmore, hkind]

/-! The end of an operation -/

theorem State.bulkClose_read (s : State) (o : BulkOp) (hops : s.engOps o = []) (hkind : o.kind = .read) (hdone : s.readDone o = true) : s.bulkClose o = s.bulkEnd o := by
  simp [State.bulkClose, hops, hkind, hdone]
theorem State.bulkClose_digest (s : State) (o : BulkOp) (hops : s.engOps o = []) (hkind : o.kind = .digest) : s.bulkClose o = s.digestEnd o := by
  simp [State.bulkClose, hops, hkind]
theorem State.bulkClose_sectors (s : State) (o : BulkOp) (hops : s.engOps o = []) (hread : o.kind ≠ .read) (hdigest : o.kind ≠ .digest) : s.bulkClose o = s.bulkEnd o := by
  cases hkind : o.kind with
  | read => exact absurd hkind hread
  | digest => exact absurd hkind hdigest
  | write | copy | fill => simp [State.bulkClose, hops, hkind]
/-- A digest none of whose parts failed is written into the A-buffer (R289). -/
theorem State.digestEnd_writes (s : State) (o : BulkOp) (hfails : o.fails = 0) (hcheck : s.spCheck o.core o.grove .a (getLe o.desc 0x10 4) 64 64 false = none) :
    s.digestEnd o = ((s.spWrite o.core o.grove .a (getLe o.desc 0x10 4) (sha512 o.acc)).fireGran o.core o.grove (getLe o.desc 0x10 4) 64).bulkEnd o := by
  simp [State.digestEnd, hfails, hcheck]

/-! A sector -/

/-- A sector that does not begin a line, or is the last, goes alone (R419). -/
theorem State.sectorStep_alone (s : State) (o : BulkOp) (data : List Byte) (status va : Nat) (bs : List Byte) (h : s.sectorAt o o.prog = (va, .ok bs))
    (halone : va % 64 ≠ 0 ∨ o.parts = o.prog + 1) : s.sectorStep o data status = s.putSectors o va bs := by
  have hpaired : (va % 64 == 0 && decide (o.prog + 1 < o.parts) && (s.sectorAt o (o.prog + 1)).1 == va + 32) = false := by
    rcases halone with hmid | hlast
    · simp [hmid]
    · simp [hlast]
  simp only [State.sectorStep, h, hpaired]
/-- A sector of a grove that is no twin copy is written where its page lies (R289, R404). -/
theorem State.putSectors_writes (s : State) (o : BulkOp) (va pa : Nat) (leaf : DWord) (bs : List Byte) (hat : s.engAt o va bs.length true readSpaces = .ok pa leaf)
    (hside : s.sideOf o.grove = none) (hfirst : (s.part (s.bulkPart o)).first ≠ some (1, o.id)) :
    s.putSectors o va bs = ((s.sectorWrite (o.on (bs.length / 32)) va pa leaf bs).1.setBulk (s.sectorWrite (o.on (bs.length / 32)) va pa leaf bs).2, true) := by
  have hheld : s.heldFull { s.unitOp .store o.grove (s.bulkLaunch o) o.core va pa leaf bs.length with data := bs } = false := s.heldFull_of_no_side _ hside
  simp only [State.putSectors, hat, hheld, s.tookTurn_of_not_first _ _ hfirst, Bool.false_eq_true, if_false]
theorem State.sectorWrite_local (s : State) (o : BulkOp) (va pa : Nat) (leaf : DWord) (bs : List Byte) (hside : s.sideOf o.grove = none) (hlocal : s.isLocal pa = true)
    (htag : s.tagFails leaf pa bs.length = false) : s.sectorWrite o va pa leaf bs = s.localSector o va pa leaf bs := by
  simp [State.sectorWrite, hside, hlocal, htag]
/-- A sector that is neither staged nor awaited from the host goes to populated memory under its leaf's key, and leaves the core's L1 (R157, R289). -/
theorem State.localSector_written (s : State) (o : BulkOp) (va pa : Nat) (leaf : DWord) (bs : List Byte) (hpop : s.populated pa = true)
    (hstage : ((s.launches.find? (s.bulkLaunch o)).elim false (fun la => la.isStaged) && fld leaf 7 7 == 1) = false) (hhost : s.hostHolds pa bs.length = []) :
    s.localSector o va pa leaf bs =
      (((s.keyedWrite leaf pa bs).halfLine o pa bs.length).1.dropSectors o.core pa bs.length, ((s.keyedWrite leaf pa bs).halfLine o pa bs.length).2) := by
  simp only [State.localSector, hstage, hhost, hpop, List.isEmpty_nil, Bool.not_true, Bool.or_false, Bool.false_eq_true, if_false, if_true]

/-! The claim -/

theorem exec_burstReadStart (core id : Nat) (s : State) : exec (.burstReadStart core id) s = .next (s.burstStart core id) := rfl
theorem exec_burstReturn (core id seq : Nat) (data : List Byte) (status : Nat) (s : State) :
    exec (.burstReturn core id seq data status) s = .next (s.burstReturn core id seq data status) := rfl
theorem exec_bulkOpComplete (core id : Nat) (data : List Byte) (status : Nat) (s : State) :
    exec (.bulkOpComplete core id data status) s = .next (s.bulkComplete core id data status) := rfl

/-- Settles O43: an operation whose parts are all done closes by its kind; a sector goes alone, to local memory, and the operation runs on from there. -/
theorem bulkEngineEvents : Obligations.BulkEngineEvents := by
  intro s core id o h
  refine ⟨fun pa leaf pa' leaf' hkind hmore hready hstays hfrozen hfirst hstore hroom hlo hhi => ?_, fun seq data status hreading => ?_,
    fun data status hready hstays => ⟨fun hdone hops => ?_, fun va bs pa leaf hread hdigest hmore hsector halone hat hside hlocal hpop htag hstage hhost hfirst => ?_⟩⟩
  · obtain ⟨⟨row, col, len, va⟩, hburst⟩ : ∃ b, o.burst o.bursts.length = b := ⟨_, rfl⟩
    rw [hburst] at hlo hhi
    rw [exec_burstReadStart, s.burstStart_reads core id o row col len va pa pa' leaf leaf' h hburst hkind hmore hready hstays hfrozen hfirst hstore hroom hlo hhi]
  · obtain ⟨⟨row, col, len, va⟩, hburst⟩ : ∃ b, o.burst seq = b := ⟨_, rfl⟩
    rw [hburst, exec_burstReturn]
    exact ⟨fun bs hread => by rw [s.burstReturn_ok core id seq data status o row col len va h hreading hburst bs hread],
      fun bit fl hread => by rw [s.burstReturn_bad core id seq data status o row col len va h hreading hburst bit fl hread]⟩
  · have hclose := s.bulkComplete_of_stop _ core id data status o h (s.bulkStep_of_done o data status hready hstays hdone)
    rw [exec_bulkOpComplete, hclose]
    exact ⟨fun hkind hbursts => by rw [s.bulkClose_read o hops hkind hbursts],
      fun hkind hfails hcheck => by rw [s.bulkClose_digest o hops hkind, s.digestEnd_writes o hfails hcheck],
      fun hread hdigest => by rw [s.bulkClose_sectors o hops hread hdigest]⟩
  · have hwrite : s.sectorWrite (o.on (bs.length / 32)) va pa leaf bs = _ :=
      (s.sectorWrite_local (o.on (bs.length / 32)) va pa leaf bs hside hlocal htag).trans (s.localSector_written _ va pa leaf bs hpop hstage hhost)
    have hstep : s.bulkStep o data status = _ :=
      (s.bulkStep_of_sector o data status hready hstays hmore hdigest).trans <| (s.sectorStep_alone o data status va bs hsector halone).trans <|
        s.putSectors_writes o va pa leaf bs hat hside hfirst
    rw [exec_bulkOpComplete, s.bulkComplete_of_go _ core id data status o h hstep, hwrite]
    rfl

end Sys2Proof.Machine
end

section
/-! Collectives' events: a hop that comes or is missing, the failure of a communicator, and a member's result (R161, R301, R336, R447). -/
namespace Sys2Proof.Machine

/-! A record of the fault log and the setting of a tag leave the fences -/

@[simp] theorem State.unseal_link (s : State) (leaf : DWord) (pa len : Nat) : (s.unseal leaf pa len).link = s.link := by
  unfold State.unseal
  split
  · exact foldl_keeps State.link _ (fun s n => by dsimp only; split <;> rfl) _ s
  · rfl
@[simp] theorem State.markKey_link (s : State) (leaf : DWord) (pa len : Nat) : (s.markKey leaf pa len).link = s.link := by
  unfold State.markKey
  dsimp only
  split <;> rfl
@[simp] theorem State.msix_link (s : State) (p v : Nat) : (s.msix p v).link = s.link := by
  unfold State.msix
  split <;> rfl
@[simp] theorem State.logAt_link (s : State) (p : Nat) (r : FaultRec) (tick : Nat) : (s.logAt p r tick).link = s.link := by
  unfold State.logAt
  extract_lets q n t
  split
  · exact s.modPart_link p _
  · rw [State.msix_link, State.modPart_link, State.markKey_link, State.writeMem_link, State.unseal_link]
@[simp] theorem State.log_link (s : State) (p : Nat) (r : FaultRec) : (s.log p r).link = s.link := by
  unfold State.log
  dsimp only
  split <;> simp
theorem State.WakesTo.link {s t : State} (h : s.WakesTo t) : t.link = s.link := by
  obtain ⟨_, _, _, rfl⟩ := h
  rfl
@[simp] theorem State.fire_link (s : State) (core : Nat) (sel : Record → WaitEv → Bool) : (s.fire core sel).link = s.link := (s.fire_wakesTo core sel).link
@[simp] theorem State.unpend_link (s : State) (strand id : Nat) : (s.unpend strand id).link = s.link := by
  unfold State.unpend
  split <;> rfl
@[simp] theorem State.completeAll_link (s : State) (core : Nat) (ops : List (Nat × Nat)) : (s.completeAll core ops).link = s.link :=
  foldl_keeps State.link _ (fun s o => by simp [State.fireCounter]) _ s
/-- The last of a tag's operations frees the entries of its group in the link engine, and no more of the link side (R281, R282). -/
@[simp] theorem State.finishTag_fenced (s : State) (core grove t err : Nat) : (s.finishTag core grove t err).link.fenced = s.link.fenced := by
  unfold State.finishTag
  split
  · rfl
  · dsimp only
    split
    · rw [State.fireTags, State.fire_link, State.completeAll_link]
      rfl
    · rw [State.modGrove_link]
@[simp] theorem State.collEnd_fenced (s : State) (o : CollOp) (bits : Nat) : (s.collEnd o bits).link.fenced = s.link.fenced := by
  rw [State.collEnd, State.finishTag_fenced]
  rfl
@[simp] theorem State.collRec_link (s : State) (comm launch n reason : Nat) : (s.collRec comm launch n reason).link = s.link := s.log_link _ _

/-! The failure of a communicator -/

/-- A communicator that fails is fenced, once; the others' fences stay (R447). -/
theorem State.commFail_fenced (s : State) (comm reason : Nat) :
    (s.commFail comm reason).link.fenced = if s.link.fenced.contains comm then s.link.fenced else s.link.fenced ++ [comm] := by
  unfold State.commFail
  extract_lets ops launchOf again old t
  have hfenced : t.link.fenced = if again then s.link.fenced else s.link.fenced ++ [comm] := rfl
  refine Eq.trans ?_ hfenced
  clear_value ops t
  cases ops with
  | nil =>
    dsimp only
    split
    · rfl
    · rw [State.collRec_link]
  | cons o rest =>
    exact (foldl_keeps (fun s : State => s.link.fenced) _ (fun s o => by rw [State.collEnd_fenced, State.collRec_link]) rest _).trans
      (by rw [State.collEnd_fenced, State.collRec_link])
theorem State.commFail_fences (s : State) (comm reason : Nat) : (s.commFail comm reason).link.fenced.contains comm = true := by
  rw [State.commFail_fenced]
  split
  · assumption
  · simp
theorem exec_collAbort_told (s : State) (comm r : Nat) (h : r < 256) : exec (.collAbort comm r) s = .next (s.commFail comm r) :=
  congrArg _ (if_neg (Nat.not_le.mpr h))
theorem exec_collAbort_found (s : State) (comm r : Nat) : exec (.collAbort comm (256 + r)) s = .next (s.commAbort comm r) := by
  have hexec : exec (.collAbort comm (256 + r)) s = execCollAbort comm (256 + r) s := rfl
  rw [hexec, execCollAbort, if_pos (Nat.le_add_right _ _), Nat.add_sub_cancel_left]

/-! A hop that comes -/

/-- A hop of a rank is awaited with its share, or with the agreement alone (log 97). -/
def State.awaitsHop (s : State) (o : CollOp) (rank : Nat) : Prop := rank ∈ s.expects o ∨ agreed rank ∈ s.expects o
/-- The key that a hop is kept under: that of an agreement where its data is one byte (log 97). -/
def hopKey (rank : Nat) (data : List Byte) : Nat := if data.length = 14 then agreed rank else rank
theorem State.any_expects (s : State) (o : CollOp) (rank : Nat) (h : s.awaitsHop o rank) : ((s.expects o).any fun k => k == rank || k == agreed rank) = true := by
  rw [List.any_eq_true]
  rcases h with h | h
  · exact ⟨rank, h, by simp⟩
  · exact ⟨agreed rank, h, by simp⟩
theorem State.takeHop_disagrees (s : State) (o : CollOp) (rank : Nat) (data : List Byte) (h : s.awaitsHop o rank) (hhead : data.take 13 ≠ o.head) :
    s.takeHop o rank data = s.commAbort o.comm 1 := by
  simp [State.takeHop, s.any_expects o rank h, hhead]
theorem State.takeHop_poisoned (s : State) (o : CollOp) (rank : Nat) (data : List Byte) (h : s.awaitsHop o rank) (hhead : data.take 13 = o.head) (hlen : data.length = 13) :
    s.takeHop o rank data = s.commAbort o.comm 4 := by
  simp only [State.takeHop, s.any_expects o rank h, hhead, hlen, Bool.not_true, bne_self_eq_false, beq_self_eq_true, Bool.false_eq_true, if_false, if_true]
theorem exec_collHopReceive (s : State) (id rank : Nat) (data : List Byte) (o : CollOp) (h : s.coll? id = some o) :
    exec (.collHopReceive id rank data) s = .next (s.takeHop o rank data) := by
  have hexec : exec (.collHopReceive id rank data) s = execCollHopReceive id rank data s := rfl
  rw [hexec, execCollHopReceive, h, Option.elim_some]
theorem State.takeHop_kept (s : State) (o : CollOp) (rank : Nat) (data : List Byte) (hhead : data.take 13 = o.head) (hlen : data.length ≠ 13)
    (hkey : hopKey rank data ∈ s.expects o) : s.takeHop o rank data = s.setColl { o with hops := o.hops ++ [(hopKey rank data, data.drop 13)], since := s.tick } := by
  have hawaited : s.awaitsHop o rank := by
    unfold hopKey at hkey
    split at hkey
    · exact .inr hkey
    · exact .inl hkey
  simp only [hopKey] at hkey ⊢
  simp [State.takeHop, s.any_expects o rank hawaited, hhead, hlen, hkey]

/-! A hop that is missing, and the result -/

theorem exec_collHopTimeout_late (s : State) (id : Nat) (o : CollOp) (h : s.coll? id = some o) (hmissing : s.expects o ≠ []) (hlate : o.since + 1000000 ≤ s.tick) :
    exec (.collHopTimeout id) s = .next (s.commAbort o.comm 2) := by
  have hexec : exec (.collHopTimeout id) s = execCollHopTimeout id s := rfl
  simp [hexec, execCollHopTimeout, h, hmissing, hlate]
/-- A member that has sent its share up goes on to its result (R301). -/
theorem State.collTurn_result (s : State) (id : Nat) (o : CollOp) (bs : List Byte) (h : s.coll? id = some o) (hhold : o.hold = none) (hstarted : o.started = true)
    (hresult : s.collResult o = some bs) : s.collTurn id = s.collDown o bs := by
  have hup : s.collUp o = s := by simp [State.collUp, hstarted]
  simp [State.collTurn, h, hhold, hup, hresult]

theorem exec_collComplete (s : State) (id : Nat) : exec (.collComplete id) s = .next (s.collTurn id) := rfl
/-- Settles O45: an awaited hop goes by its parameters, its bytes and its key; a communicator that fails is fenced, whatever its collectives end with. -/
theorem collectiveEvents : Obligations.CollectiveEvents := by
  refine ⟨fun s id o h => ⟨fun rank data hawaited => ?_, exec_collHopTimeout_late s id o h, fun bs hhold hstarted hresult => ?_⟩,
    fun s comm => ⟨fun r hr => ⟨exec_collAbort_told s comm r hr, exec_collAbort_found s comm r⟩, s.commFail_fences comm⟩⟩
  · rw [exec_collHopReceive s id rank data o h]
    refine ⟨fun hhead => ?_, fun hhead hlen => ?_, fun hhead hlen hshare hkey => ?_, fun hhead hlen hkey => ?_⟩
    · rw [s.takeHop_disagrees o rank data hawaited hhead]
    · rw [s.takeHop_poisoned o rank data hawaited hhead hlen]
    · have hrank : hopKey rank data = rank := if_neg hshare
      rw [s.takeHop_kept o rank data hhead hlen (by rwa [hrank]), hrank]
    · have hagreed : hopKey rank data = agreed rank := if_pos hlen
      rw [s.takeHop_kept o rank data hhead (by omega) (by rwa [hagreed]), hagreed]
  · rw [exec_collComplete, s.collTurn_result id o bs h hhold hstarted hresult]

end Sys2Proof.Machine
end

section
/-! The words that stand for instructions, and those that stand for none (R168 to R180). -/
namespace Sys2Proof.Machine

/-- Settles O58: each instruction's own round trip, by its constructor; an event has no words. -/
theorem encodingRoundTrip : Obligations.EncodingRoundTrip := by
  intro i
  cases i with
  | nopS g => exact Laws.RoundTrip.nopS g
  | movS g d a => exact Laws.RoundTrip.movS g d a
  | iaddS g d a b => exact Laws.RoundTrip.iaddS g d a b
  | isubS g d a b => exact Laws.RoundTrip.isubS g d a b
  | imulS g d a b => exact Laws.RoundTrip.imulS g d a b
  | andS g d a b => exact Laws.RoundTrip.andS g d a b
  | orS g d a b => exact Laws.RoundTrip.orS g d a b
  | xorS g d a b => exact Laws.RoundTrip.xorS g d a b
  | shlS g d a b => exact Laws.RoundTrip.shlS g d a b
  | shrS g d a b => exact Laws.RoundTrip.shrS g d a b
  | icmpS g pd a b cc u => exact Laws.RoundTrip.icmpS g pd a b cc u
  | faddS g d a b => exact Laws.RoundTrip.faddS g d a b
  | fsubS g d a b => exact Laws.RoundTrip.fsubS g d a b
  | fmulS g d a b => exact Laws.RoundTrip.fmulS g d a b
  | braS g off => exact Laws.RoundTrip.braS g off
  | exitS g => exact Laws.RoundTrip.exitS g
  | repS count sd sa sb => exact Laws.RoundTrip.repS count sd sa sb
  | waittS g all mask => exact Laws.RoundTrip.waittS g all mask
  | waitcS g cls n => exact Laws.RoundTrip.waitcS g cls n
  | ldS g d a off => exact Laws.RoundTrip.ldS g d a off
  | stS g d a off => exact Laws.RoundTrip.stS g d a off
  | aldS g d a off => exact Laws.RoundTrip.aldS g d a off
  | astS g d a off => exact Laws.RoundTrip.astS g d a off
  | movsS g d x => exact Laws.RoundTrip.movsS g d x
  | pformPair g u v => exact Laws.RoundTrip.pformPair g u v
  | nop g => exact Laws.RoundTrip.nop g
  | mov g d a => exact Laws.RoundTrip.mov g d a
  | movi g d imm => exact Laws.RoundTrip.movi g d imm
  | moviLit g d lit => exact Laws.RoundTrip.moviLit g d lit
  | iadd g d a b sat u => exact Laws.RoundTrip.iadd g d a b sat u
  | isub g d a b sat u => exact Laws.RoundTrip.isub g d a b sat u
  | imul g d a b => exact Laws.RoundTrip.imul g d a b
  | imulh g d a b u => exact Laws.RoundTrip.imulh g d a b u
  | imad g d a b c => exact Laws.RoundTrip.imad g d a b c
  | imin g d a b u => exact Laws.RoundTrip.imin g d a b u
  | imax g d a b u => exact Laws.RoundTrip.imax g d a b u
  | iabs g d a sat => exact Laws.RoundTrip.iabs g d a sat
  | ineg g d a sat => exact Laws.RoundTrip.ineg g d a sat
  | and g d a b => exact Laws.RoundTrip.and g d a b
  | or g d a b => exact Laws.RoundTrip.or g d a b
  | xor g d a b => exact Laws.RoundTrip.xor g d a b
  | andn g d a b => exact Laws.RoundTrip.andn g d a b
  | not g d a => exact Laws.RoundTrip.not g d a
  | shl g d a b => exact Laws.RoundTrip.shl g d a b
  | shr g d a b => exact Laws.RoundTrip.shr g d a b
  | sar g d a b => exact Laws.RoundTrip.sar g d a b
  | popc g d a => exact Laws.RoundTrip.popc g d a
  | clz g d a => exact Laws.RoundTrip.clz g d a
  | ctz g d a => exact Laws.RoundTrip.ctz g d a
  | brev g d a => exact Laws.RoundTrip.brev g d a
  | bfx g d a b u => exact Laws.RoundTrip.bfx g d a b u
  | bfi g d a b c => exact Laws.RoundTrip.bfi g d a b c
  | sel g d a b pc => exact Laws.RoundTrip.sel g d a b pc
  | iadd64 g d a b => exact Laws.RoundTrip.iadd64 g d a b
  | iadd64Lit g d a lit => exact Laws.RoundTrip.iadd64Lit g d a lit
  | isub64 g d a b => exact Laws.RoundTrip.isub64 g d a b
  | isub64Lit g d a lit => exact Laws.RoundTrip.isub64Lit g d a lit
  | imul64 g d a b => exact Laws.RoundTrip.imul64 g d a b
  | imul64Lit g d a lit => exact Laws.RoundTrip.imul64Lit g d a lit
  | shl64 g d a b => exact Laws.RoundTrip.shl64 g d a b
  | shr64 g d a b sg => exact Laws.RoundTrip.shr64 g d a b sg
  | lea g d a b u sh => exact Laws.RoundTrip.lea g d a b u sh
  | imulw g d a b u => exact Laws.RoundTrip.imulw g d a b u
  | imadw g d a b c u => exact Laws.RoundTrip.imadw g d a b c u
  | icmp g pd a b cc u => exact Laws.RoundTrip.icmp g pd a b cc u
  | icmp64 g pd a b cc u => exact Laws.RoundTrip.icmp64 g pd a b cc u
  | icmp64Lit g pd a cc u lit => exact Laws.RoundTrip.icmp64Lit g pd a cc u lit
  | fcmp g pd a b cc un => exact Laws.RoundTrip.fcmp g pd a b cc un
  | fclass g d a fmt laneIx => exact Laws.RoundTrip.fclass g d a fmt laneIx
  | pand g pd pa pb => exact Laws.RoundTrip.pand g pd pa pb
  | por g pd pa pb => exact Laws.RoundTrip.por g pd pa pb
  | pxor g pd pa pb => exact Laws.RoundTrip.pxor g pd pa pb
  | pnot g pd pa => exact Laws.RoundTrip.pnot g pd pa
  | pmov g f => exact Laws.RoundTrip.pmov g f
  | pset g pd v => exact Laws.RoundTrip.pset g pd v
  | fadd g d a b m => exact Laws.RoundTrip.fadd g d a b m
  | fsub g d a b m => exact Laws.RoundTrip.fsub g d a b m
  | fmul g d a b m => exact Laws.RoundTrip.fmul g d a b m
  | ffma g d a b c m => exact Laws.RoundTrip.ffma g d a b c m
  | fmin g d a b => exact Laws.RoundTrip.fmin g d a b
  | fmax g d a b => exact Laws.RoundTrip.fmax g d a b
  | fabs g d a => exact Laws.RoundTrip.fabs g d a
  | fneg g d a => exact Laws.RoundTrip.fneg g d a
  | frcp g d a => exact Laws.RoundTrip.frcp g d a
  | frsq g d a => exact Laws.RoundTrip.frsq g d a
  | fsqrt g d a m => exact Laws.RoundTrip.fsqrt g d a m
  | fdiv g d a b m => exact Laws.RoundTrip.fdiv g d a b m
  | fexp2 g d a => exact Laws.RoundTrip.fexp2 g d a
  | flog2 g d a => exact Laws.RoundTrip.flog2 g d a
  | fsin g d a => exact Laws.RoundTrip.fsin g d a
  | fcos g d a => exact Laws.RoundTrip.fcos g d a
  | ftanh g d a => exact Laws.RoundTrip.ftanh g d a
  | frint g d a m => exact Laws.RoundTrip.frint g d a m
  | hadd2 g d a b m h => exact Laws.RoundTrip.hadd2 g d a b m h
  | hmul2 g d a b m h => exact Laws.RoundTrip.hmul2 g d a b m h
  | hfma2 g d a b c m h => exact Laws.RoundTrip.hfma2 g d a b c m h
  | hmin2 g d a b h => exact Laws.RoundTrip.hmin2 g d a b h
  | hmax2 g d a b h => exact Laws.RoundTrip.hmax2 g d a b h
  | dadd g d a b m => exact Laws.RoundTrip.dadd g d a b m
  | daddLit g d a m lit => exact Laws.RoundTrip.daddLit g d a m lit
  | dmul g d a b m => exact Laws.RoundTrip.dmul g d a b m
  | dmulLit g d a m lit => exact Laws.RoundTrip.dmulLit g d a m lit
  | dfma g d a b c m => exact Laws.RoundTrip.dfma g d a b c m
  | dfmaLit g d a c m lit => exact Laws.RoundTrip.dfmaLit g d a c m lit
  | fscale g d a b m => exact Laws.RoundTrip.fscale g d a b m
  | cvt g d a b m sat src dst => exact Laws.RoundTrip.cvt g d a b m sat src dst
  | cvtpk g d a b c e m sat dst j => exact Laws.RoundTrip.cvtpk g d a b c e m sat dst j
  | cvtex g d a fmt i => exact Laws.RoundTrip.cvtex g d a fmt i
  | qblk g d e a b m sat el bsz scf => exact Laws.RoundTrip.qblk g d e a b m sat el bsz scf
  | dqblk g d a e el bsz scf => exact Laws.RoundTrip.dqblk g d a e el bsz scf
  | vdot4 g d a b c ua ub => exact Laws.RoundTrip.vdot4 g d a b c ua ub
  | vdotb g d a b c e ea eb bsz scf => exact Laws.RoundTrip.vdotb g d a b c e ea eb bsz scf
  | bppack g d a => exact Laws.RoundTrip.bppack g d a
  | bpunpk g d a k mid => exact Laws.RoundTrip.bpunpk g d a k mid
  | vote g mode d pa => exact Laws.RoundTrip.vote g mode d pa
  | shfl g d a b mode => exact Laws.RoundTrip.shfl g d a b mode
  | red g d a op => exact Laws.RoundTrip.red g d a op
  | scan g d a op excl => exact Laws.RoundTrip.scan g d a op excl
  | elect g pd => exact Laws.RoundTrip.elect g pd
  | matchAny g d a w => exact Laws.RoundTrip.matchAny g d a w
  | bra g imm => exact Laws.RoundTrip.bra g imm
  | brx g a => exact Laws.RoundTrip.brx g a
  | call g d imm => exact Laws.RoundTrip.call g d imm
  | callx g d a => exact Laws.RoundTrip.callx g d a
  | ret g a => exact Laws.RoundTrip.ret g a
  | exit g => exact Laws.RoundTrip.exit g
  | trap g n => exact Laws.RoundTrip.trap g n
  | brk g n => exact Laws.RoundTrip.brk g n
  | yield g => exact Laws.RoundTrip.yield g
  | rep count sd sa sb sc se => exact Laws.RoundTrip.rep count sd sa sb sc se
  | waitt g all a => exact Laws.RoundTrip.waitt g all a
  | waitv g a b => exact Laws.RoundTrip.waitv g a b
  | waitc g cls n => exact Laws.RoundTrip.waitc g cls n
  | ffr g pc d a => exact Laws.RoundTrip.ffr g pc d a
  | tclr g a => exact Laws.RoundTrip.tclr g a
  | spawn g imm a n => exact Laws.RoundTrip.spawn g imm a n
  | barinit g a imm b => exact Laws.RoundTrip.barinit g a imm b
  | bararr g d a imm => exact Laws.RoundTrip.bararr g d a imm
  | barwait g a imm b => exact Laws.RoundTrip.barwait g a imm b
  | fwait g d a imm cellA sc => exact Laws.RoundTrip.fwait g d a imm cellA sc
  | ffill g d a imm b cellA sc => exact Laws.RoundTrip.ffill g d a imm b cellA sc
  | freset g a imm cellA sc => exact Laws.RoundTrip.freset g a imm cellA sc
  | parkw g a imm b c cc w ord sc => exact Laws.RoundTrip.parkw g a imm b c cc w ord sc
  | ld g d a imm size sgn ord sc hint => exact Laws.RoundTrip.ld g d a imm size sgn ord sc hint
  | st g d a imm size ord sc hint => exact Laws.RoundTrip.st g d a imm size ord sc hint
  | ldu g d a imm size sgn ord sc => exact Laws.RoundTrip.ldu g d a imm size sgn ord sc
  | atom g d a imm b op w rt ord sc => exact Laws.RoundTrip.atom g d a imm b op w rt ord sc
  | atomcas g d a imm b c w rt ord sc => exact Laws.RoundTrip.atomcas g d a imm b c w rt ord sc
  | atomn g a imm b op w rt ord sc => exact Laws.RoundTrip.atomn g a imm b op w rt ord sc
  | fence g kind sc => exact Laws.RoundTrip.fence g kind sc
  | wld g d a imm size sgn => exact Laws.RoundTrip.wld g d a imm size sgn
  | wst g d a imm size => exact Laws.RoundTrip.wst g d a imm size
  | ald g d a imm size sgn => exact Laws.RoundTrip.ald g d a imm size sgn
  | ast g d a imm size => exact Laws.RoundTrip.ast g d a imm size
  | cld g d a imm size sgn => exact Laws.RoundTrip.cld g d a imm size sgn
  | cst g d a imm size => exact Laws.RoundTrip.cst g d a imm size
  | ldc g d imm size => exact Laws.RoundTrip.ldc g d imm size
  | pref g a imm l2 => exact Laws.RoundTrip.pref g a imm l2
  | spalloc g d b buf lc ar strict => exact Laws.RoundTrip.spalloc g d b buf lc ar strict
  | spfree g a buf => exact Laws.RoundTrip.spfree g a buf
  | sprenew g a b buf => exact Laws.RoundTrip.sprenew g a b buf
  | spstat g d a buf => exact Laws.RoundTrip.spstat g d a buf
  | spclear g a buf => exact Laws.RoundTrip.spclear g a buf
  | bread g pd a b tag => exact Laws.RoundTrip.bread g pd a b tag
  | bwrite g pd a tag sc => exact Laws.RoundTrip.bwrite g pd a tag sc
  | bcopy g pd a tag sc => exact Laws.RoundTrip.bcopy g pd a tag sc
  | bfill g pd a tag sc => exact Laws.RoundTrip.bfill g pd a tag sc
  | bdigest g pd a tag => exact Laws.RoundTrip.bdigest g pd a tag
  | bstat g d a => exact Laws.RoundTrip.bstat g d a
  | mxlw g pd a => exact Laws.RoundTrip.mxlw g pd a
  | mxrun g pd a => exact Laws.RoundTrip.mxrun g pd a
  | mxzero g pd a => exact Laws.RoundTrip.mxzero g pd a
  | mxver g d a => exact Laws.RoundTrip.mxver g d a
  | mxhnd g d a b => exact Laws.RoundTrip.mxhnd g d a b
  | mxrel g a => exact Laws.RoundTrip.mxrel g a
  | coll g pd a tag => exact Laws.RoundTrip.coll g pd a tag
  | movs g d x => exact Laws.RoundTrip.movs g d x
  | movsw g x a => exact Laws.RoundTrip.movsw g x a
  | regset g d n b => exact Laws.RoundTrip.regset g d n b
  | shp g d a => exact Laws.RoundTrip.shp g d a
  | uni g d a => exact Laws.RoundTrip.uni g d a
  | ckpt g => exact Laws.RoundTrip.ckpt g
  | tret g => exact Laws.RoundTrip.tret g
  | cinv g k a imm b => exact Laws.RoundTrip.cinv g k a imm b
  | tlbinv g k sc => exact Laws.RoundTrip.tlbinv g k sc
  | csrr g d csr => exact Laws.RoundTrip.csrr g d csr
  | csrw g csr a => exact Laws.RoundTrip.csrw g csr a
  | halt g => exact Laws.RoundTrip.halt g
  | stubEntry => exact Laws.RoundTrip.stubEntry
  | stubBind => exact Laws.RoundTrip.stubBind
  | parkmapFetchDone core pc => exact Laws.RoundTrip.parkmapFetchDone core pc
  | resultLanding id data status => exact Laws.RoundTrip.resultLanding id data status
  | storePerformed id => exact Laws.RoundTrip.storePerformed id
  | atomicAtHome id data => exact Laws.RoundTrip.atomicAtHome id data
  | sprenewComplete id => exact Laws.RoundTrip.sprenewComplete id
  | cinvComplete id => exact Laws.RoundTrip.cinvComplete id
  | tlbinvComplete id => exact Laws.RoundTrip.tlbinvComplete id
  | cohortFormation core idle => exact Laws.RoundTrip.cohortFormation core idle
  | drainAgeExpiry core n => exact Laws.RoundTrip.drainAgeExpiry core n
  | cohortAgePromotion core slot => exact Laws.RoundTrip.cohortAgePromotion core slot
  | spillReadback core rid => exact Laws.RoundTrip.spillReadback core rid
  | recordForward core rid => exact Laws.RoundTrip.recordForward core rid
  | schedulerForward core rid dest => exact Laws.RoundTrip.schedulerForward core rid dest
  | waitEventFire core rid => exact Laws.RoundTrip.waitEventFire core rid
  | l2WatchEvent pa data => exact Laws.RoundTrip.l2WatchEvent pa data
  | burstReadStart core id => exact Laws.RoundTrip.burstReadStart core id
  | burstReturn core id seq data status => exact Laws.RoundTrip.burstReturn core id seq data status
  | bulkOpComplete core id data status => exact Laws.RoundTrip.bulkOpComplete core id data status
  | mxlwStart core => exact Laws.RoundTrip.mxlwStart core
  | mxlwComplete core => exact Laws.RoundTrip.mxlwComplete core
  | mxrunStart core => exact Laws.RoundTrip.mxrunStart core
  | mxrunComplete core => exact Laws.RoundTrip.mxrunComplete core
  | mxzeroComplete core => exact Laws.RoundTrip.mxzeroComplete core
  | matrixStall core id => exact Laws.RoundTrip.matrixStall core id
  | matrixStallTerminate core id => exact Laws.RoundTrip.matrixStallTerminate core id
  | collHopReceive id rank data => exact Laws.RoundTrip.collHopReceive id rank data
  | collComplete id => exact Laws.RoundTrip.collComplete id
  | collHopTimeout id => exact Laws.RoundTrip.collHopTimeout id
  | collAbort comm reason => exact Laws.RoundTrip.collAbort comm reason
  | launchPacket slot => exact Laws.RoundTrip.launchPacket slot
  | launchStart slot => exact Laws.RoundTrip.launchStart slot
  | barrierPacket slot => exact Laws.RoundTrip.barrierPacket slot
  | signalPacket slot => exact Laws.RoundTrip.signalPacket slot
  | sliceBoundary => exact Laws.RoundTrip.sliceBoundary
  | qdoor part qid => exact Laws.RoundTrip.qdoor part qid
  | groveAdmission launch => exact Laws.RoundTrip.groveAdmission launch
  | evict launch step => exact Laws.RoundTrip.evict launch step
  | evictionOverBound grove => exact Laws.RoundTrip.evictionOverBound grove
  | evictionAbandon grove => exact Laws.RoundTrip.evictionAbandon grove
  | groveRestore grove core => exact Laws.RoundTrip.groveRestore grove core
  | groveRetirement grove => exact Laws.RoundTrip.groveRetirement grove
  | registerSweepDone core => exact Laws.RoundTrip.registerSweepDone core
  | spWrapSweepDone core => exact Laws.RoundTrip.spWrapSweepDone core
  | expiryScan core => exact Laws.RoundTrip.expiryScan core
  | sweeperRenew core buf gran => exact Laws.RoundTrip.sweeperRenew core buf gran
  | l2ClassRefresh core buf gran => exact Laws.RoundTrip.l2ClassRefresh core buf gran
  | watchdogExpiry core slot => exact Laws.RoundTrip.watchdogExpiry core slot
  | rotatedImageRestore part => exact Laws.RoundTrip.rotatedImageRestore part
  | formationStarved core rid => exact Laws.RoundTrip.formationStarved core rid
  | pfrzKill part => exact Laws.RoundTrip.pfrzKill part
  | pcalWrite part v => exact Laws.RoundTrip.pcalWrite part v
  | trapDelivery launch => exact Laws.RoundTrip.trapDelivery launch
  | flogcfgWrite part v => exact Laws.RoundTrip.flogcfgWrite part v
  | flogtailWrite part v => exact Laws.RoundTrip.flogtailWrite part v
  | haltstage part launch arg => exact Laws.RoundTrip.haltstage part launch arg
  | releaseStage part launch arg => exact Laws.RoundTrip.releaseStage part launch arg
  | listImages part => exact Laws.RoundTrip.listImages part
  | readimg part hid off => exact Laws.RoundTrip.readimg part hid off
  | writeimg part hid off => exact Laws.RoundTrip.writeimg part hid off
  | debugStep part hid => exact Laws.RoundTrip.debugStep part hid
  | resumeImage part hid => exact Laws.RoundTrip.resumeImage part hid
  | stalemap part hid => exact Laws.RoundTrip.stalemap part hid
  | discardImage part hid => exact Laws.RoundTrip.discardImage part hid
  | readsp part launch arg => exact Laws.RoundTrip.readsp part launch arg
  | demandReplay part die n => exact Laws.RoundTrip.demandReplay part die n
  | demandRefuse part die n => exact Laws.RoundTrip.demandRefuse part die n
  | pageWalkComplete die n => exact Laws.RoundTrip.pageWalkComplete die n
  | patrolScrub src ue loc line => exact Laws.RoundTrip.patrolScrub src ue loc line
  | hostInboundWrite f off data => exact Laws.RoundTrip.hostInboundWrite f off data
  | hostInboundRead f bar off len tag => exact Laws.RoundTrip.hostInboundRead f bar off len tag
  | outboundHostTimeout id => exact Laws.RoundTrip.outboundHostTimeout id
  | biSnoopResponse line => exact Laws.RoundTrip.biSnoopResponse line
  | biSnoopTimeout line => exact Laws.RoundTrip.biSnoopTimeout line
  | hostLinkDown => exact Laws.RoundTrip.hostLinkDown
  | hotReset => exact Laws.RoundTrip.hotReset
  | vfFlr f => exact Laws.RoundTrip.vfFlr f
  | pfFlr => exact Laws.RoundTrip.pfFlr
  | aerError f cls req bits => exact Laws.RoundTrip.aerError f cls req bits
  | spdmRequest index => exact Laws.RoundTrip.spdmRequest index
  | flitReceive port flit => exact Laws.RoundTrip.flitReceive port flit
  | portRxTimeout port => exact Laws.RoundTrip.portRxTimeout port
  | laneLoss port => exact Laws.RoundTrip.laneLoss port
  | portRetrainDone port ok => exact Laws.RoundTrip.portRetrainDone port ok
  | flowGapTimeout flow => exact Laws.RoundTrip.flowGapTimeout flow
  | breakMessage flow fseq => exact Laws.RoundTrip.breakMessage flow fseq
  | noRouteTimeout pkg => exact Laws.RoundTrip.noRouteTimeout pkg
  | remoteResponseTimeout id => exact Laws.RoundTrip.remoteResponseTimeout id
  | remoteAtomicRequest flow opid part pa op size key token data cmp => exact Laws.RoundTrip.remoteAtomicRequest flow opid part pa op size key token data cmp
  | timingMessage corr => exact Laws.RoundTrip.timingMessage corr
  | timeSyncLost => exact Laws.RoundTrip.timeSyncLost
  | powerGood b => exact Laws.RoundTrip.powerGood b
  | mgmtPackageReset b => exact Laws.RoundTrip.mgmtPackageReset b
  | powerSample amps watts => exact Laws.RoundTrip.powerSample amps watts
  | clockRaise => exact Laws.RoundTrip.clockRaise
  | thermalReport die tj => exact Laws.RoundTrip.thermalReport die tj
  | thermalTrip die tj b => exact Laws.RoundTrip.thermalTrip die tj b
  | standGate stand => exact Laws.RoundTrip.standGate stand
  | d3hotEntry => exact Laws.RoundTrip.d3hotEntry
  | loadObject part => exact Laws.RoundTrip.loadObject part
  | registerExport part => exact Laws.RoundTrip.registerExport part
  | unloadObject part => exact Laws.RoundTrip.unloadObject part
  | loaderDone part st why => exact Laws.RoundTrip.loaderDone part st why
  | mailboxAccessTable target master i desc => exact Laws.RoundTrip.mailboxAccessTable target master i desc
  | mailboxKeyLoad slot => exact Laws.RoundTrip.mailboxKeyLoad slot
  | forensicChallenge => exact Laws.RoundTrip.forensicChallenge
  | forensicUnlock => exact Laws.RoundTrip.forensicUnlock
  | forensicRelock => exact Laws.RoundTrip.forensicRelock
  | iftRequest => exact Laws.RoundTrip.iftRequest
  | iftScanDone stand fails => exact Laws.RoundTrip.iftScanDone stand fails
  | checkpointComplete lead => exact Laws.RoundTrip.checkpointComplete lead
  | registerWrite who n v => exact Laws.RoundTrip.registerWrite who n v
  | invalidInstruction ws reason => exact Laws.RoundTrip.invalidInstruction ws reason
  | d3hotExit => exact Laws.RoundTrip.d3hotExit
  | powerRemoved => exact Laws.RoundTrip.powerRemoved
  | timeBaseExchange master => exact Laws.RoundTrip.timeBaseExchange master
  | cxlMemRequest write addr data => exact Laws.RoundTrip.cxlMemRequest write addr data

/-- Words that are refused stand for no instruction. -/
theorem decodeWords_ne_of_error {ws : List Word} {r : Reject} (h : decodeWords ws = .error r) (i : Instr) : decodeWords ws ≠ .ok i := by
  simp [h]

/-- Settles O57: each word is decoded by evaluation; of those that stand for nothing, the reason of their refusal is evaluated. -/
theorem wordsDecode : Obligations.WordsDecode := by
  refine ⟨rfl, rfl, rfl, rfl, rfl, rfl, rfl, rfl, rfl, ?_, ?_, ?_, ?_, ?_⟩
  · exact decodeWords_ne_of_error (r := .invalid .opcode) rfl
  · exact decodeWords_ne_of_error (r := .invalid .opcode) rfl
  · exact decodeWords_ne_of_error (r := .invalid .guardNotP0) rfl
  · exact decodeWords_ne_of_error (r := .invalid .requiredZero) rfl
  · exact decodeWords_ne_of_error (r := .invalid .requiredZero) rfl

end Sys2Proof.Machine
end

section
/-! What meets the invariant of the machine (Safety): the memory in its one form, and a schedule of events only. It goes through choices, folds, pairs and every update that leaves the memory and the schedule. -/
namespace Sys2Proof.Machine

/-- An outcome whose next state, if there is one, meets the invariant. -/
def Res.Inv : Res → Prop
  | .next t => t.Inv
  | _ => True

theorem Res.Inv.ite {c : Prop} [Decidable c] {a b : Res} (ha : a.Inv) (hb : b.Inv) : (if c then a else b).Inv := by
  split
  · exact ha
  · exact hb
theorem Res.Inv.elim {α : Type} {o : Option α} {a : Res} {f : α → Res} (ha : a.Inv) (hf : ∀ x, (f x).Inv) : (o.elim a f).Inv := by
  cases o with
  | none => exact ha
  | some x => exact hf x
theorem State.Inv.ite {c : Prop} [Decidable c] {a b : State} (ha : a.Inv) (hb : b.Inv) : (if c then a else b).Inv := by
  split
  · exact ha
  · exact hb
theorem State.Inv.elim {α : Type} {o : Option α} {a : State} {f : α → State} (ha : a.Inv) (hf : ∀ x, (f x).Inv) : (o.elim a f).Inv := by
  cases o with
  | none => exact ha
  | some x => exact hf x
/-- A step of a fold that keeps the invariant keeps it through the fold. -/
theorem State.Inv.foldl {α : Type} {s : State} {f : State → α → State} {l : List α} (h : s.Inv) (hf : ∀ (t : State) (x : α), t.Inv → (f t x).Inv) :
    (l.foldl f s).Inv := by
  induction l generalizing s with
  | nil => exact h
  | cons x t ih => exact ih (hf s x h)
/-- An update that leaves the memory and the schedule keeps the invariant. -/
theorem State.Inv.quiet {s t : State} (h : s.Inv) (hm : t.mem = s.mem := by rfl) (ha : t.agenda = s.agenda := by rfl) : t.Inv := by
  unfold State.Inv State.agendaOk
  rw [hm, ha]
  exact h
/-- The state in a pair that an operation answers. -/
theorem State.Inv.fst {α : Type} {p : State × α} {t : State} {a : α} (h : p.1.Inv) (e : p = (t, a) := by assumption) : t.Inv := by
  rw [e] at h
  exact h
theorem State.Inv.snd {α : Type} {p : α × State} {t : State} {a : α} (h : p.2.Inv) (e : p = (a, t) := by assumption) : t.Inv := by
  rw [e] at h
  exact h
/-- A state that meets the invariant, in a pair. -/
theorem State.Inv.pair {α : Type} {s : State} {a : α} (h : s.Inv) : (s, a).1.Inv := h

end Sys2Proof.Machine
end

section
/-! That what operates on the state, and the units beside an issue, keep the invariant of the machine: the memory keeps its one form and the schedule holds events only. -/
namespace Sys2Proof.Machine
set_option Elab.async false

/-! Memory, tables, records, traps and the named operations on them -/

/-- Bytes written keep the memory in its one form. -/
theorem State.Inv.writeMem {s : State} (h : s.Inv) {a : Nat} {bs : List Byte} : (s.writeMem a bs).Inv := ⟨memPuts_wf s.mem a bs h.1, h.2⟩
theorem State.Inv.setCore {s : State} (h : s.Inv) {c : Nat} {k : Core} : (s.setCore c k).Inv := h.quiet
theorem State.Inv.modCore {s : State} (h : s.Inv) {c : Nat} {f : Core → Core} : (s.modCore c f).Inv := h.setCore
theorem State.Inv.modPart {s : State} (h : s.Inv) {p : Nat} {f : Part → Part} : (s.modPart p f).Inv := h.quiet
theorem State.Inv.modGrove {s : State} (h : s.Inv) {g : Nat} {f : Grove → Grove} : (s.modGrove g f).Inv := h.quiet
theorem State.Inv.modStrand {s : State} (h : s.Inv) {n : Nat} {f : Strand → Strand} : (s.modStrand n f).Inv := h.quiet
theorem State.Inv.modLaunch {s : State} (h : s.Inv) {n : Nat} {f : Launch → Launch} : (s.modLaunch n f).Inv := h.quiet
theorem State.Inv.setCohort {s : State} (h : s.Inv) {c sl : Nat} {co : Cohort} : (s.setCohort c sl co).Inv := h.modCore
theorem State.Inv.modCohort {s : State} (h : s.Inv) {c sl : Nat} {f : Cohort → Cohort} : (s.modCohort c sl f).Inv := by
  unfold State.modCohort
  split
  · exact h.setCohort
  · exact h
theorem State.Inv.fresh {s : State} (h : s.Inv) : s.fresh.2.Inv := h.quiet
theorem State.Inv.takeFree {s : State} (h : s.Inv) : s.takeFree.2.Inv := h.quiet
/-- A schedule of events that takes one more event holds events only. -/
theorem enqueue_all_isEvent {t : Nat} {e : Instr} {a : List (Nat × Instr)} (he : e.isEvent = true) (ha : (a.all fun x => x.2.isEvent) = true) :
    ((enqueue t e a).all fun x => x.2.isEvent) = true := by
  induction a with
  | nil => simp [enqueue, he]
  | cons y r ih =>
    obtain ⟨hy, hr⟩ := Bool.and_eq_true_iff.mp ha
    unfold enqueue
    split
    · exact Bool.and_eq_true_iff.mpr ⟨hy, ih hr⟩
    · exact Bool.and_eq_true_iff.mpr ⟨he, ha⟩
theorem State.Inv.schedule {s : State} (h : s.Inv) {e : Instr} (he : e.isEvent = true := by rfl) : (s.schedule e).Inv := ⟨h.1, enqueue_all_isEvent he h.2⟩
theorem State.Inv.spWrite {s : State} (h : s.Inv) {core grove : Nat} {b : Buf} {off : Nat} {bs : List Byte} : (s.spWrite core grove b off bs).Inv := by
  unfold State.spWrite
  split
  · exact h.modCore
  · exact h
theorem State.Inv.markKey {s : State} (h : s.Inv) {leaf : DWord} {pa len : Nat} : (s.markKey leaf pa len).Inv := .ite h h.quiet
theorem State.Inv.unseal {s : State} (h : s.Inv) {leaf : DWord} {pa len : Nat} : (s.unseal leaf pa len).Inv :=
  .ite (h.foldl fun _ _ h₁ => .ite h₁.writeMem.quiet h₁) h
theorem State.Inv.tlbFill {s : State} (h : s.Inv) {core : Nat} {e : TlbEntry} : (s.tlbFill core e).Inv := h.quiet
theorem State.Inv.msix {s : State} (h : s.Inv) {p v : Nat} : (s.msix p v).Inv := .ite h.quiet h
theorem State.Inv.snoop {s : State} (h : s.Inv) {lines : List Nat} : (s.snoop lines).Inv := h.quiet
theorem State.Inv.logAt {s : State} (h : s.Inv) {p : Nat} {r : FaultRec} {tick : Nat} : (s.logAt p r tick).Inv :=
  .ite h.modPart h.unseal.writeMem.markKey.modPart.msix
theorem State.Inv.log {s : State} (h : s.Inv) {p : Nat} {r : FaultRec} : (s.log p r).Inv := .ite h.logAt h.snoop.modPart
theorem State.Inv.settleLogs {s : State} (h : s.Inv) : s.settleLogs.Inv := h.foldl fun _ _ h₁ => by split; exacts [h₁, .ite h₁.modPart.logAt h₁.snoop]
theorem State.Inv.logRec {s : State} (h : s.Inv) {r : FaultRec} : (s.logRec r).Inv := h.log
theorem State.Inv.overStopped {s : State} (h : s.Inv) {f : Stopped → Stopped} : (s.overStopped f).Inv := h.quiet
theorem State.Inv.landWords {s : State} (h : s.Inv) {strand : Nat} {ws : List (Word × Nat)} : (s.landWords strand ws).Inv := by
  unfold State.landWords
  split
  · exact h
  · exact h.modCore.overStopped
theorem State.Inv.lostPoison {s : State} (h : s.Inv) {base : Flt → FaultRec} {fs : List Flt} : (s.lostPoison base fs).Inv :=
  h.foldl fun _ _ h₁ => h₁.logRec
theorem State.Inv.landPoison {s : State} (h : s.Inv) {strand : Nat} {regs : List Nat} {f : Flt} : (s.landPoison strand regs f).Inv := by
  unfold State.landPoison
  split
  · exact h
  · exact h.modCore.overStopped
theorem State.Inv.discard {s : State} (h : s.Inv) {strand : Nat} {kept : List Nat} : (s.discard strand kept).Inv := h.quiet
theorem State.Inv.dropSectors {s : State} (h : s.Inv) {core pa len : Nat} : (s.dropSectors core pa len).Inv := .ite h.modCore h
theorem State.Inv.addUnit {s : State} (h : s.Inv) {o : MemOp} : (s.addUnit o).Inv := h.quiet
theorem State.Inv.toHost {s : State} (h : s.Inv) {pa : Nat} {bs : List Byte} {relaxed : Bool} : (s.toHost pa bs relaxed).Inv := .ite h.quiet h
theorem State.Inv.askHost {s : State} (h : s.Inv) {token pa len : Nat} : (s.askHost token pa len).Inv := .ite h.quiet h
theorem State.Inv.postMsg {s : State} (h : s.Inv) {key : Nat} {msg : List Byte} : (s.postMsg key msg).Inv := by
  unfold State.postMsg
  dsimp only
  split
  · exact h.quiet
  · split
    · exact h
    · exact h.quiet
theorem State.Inv.post1 {s : State} (h : s.Inv) {pkg cls ord part kind opid : Nat} {bs : List Byte} : (s.post1 pkg cls ord part kind opid bs).Inv :=
  h.postMsg
theorem State.Inv.post {s : State} (h : s.Inv) {pkg cls ord part kind opid : Nat} {bs : List Byte} : (s.post pkg cls ord part kind opid bs).Inv :=
  h.foldl fun _ _ h₁ => h₁.post1
theorem State.Inv.nextOpid {s : State} (h : s.Inv) {key : Nat} : (s.nextOpid key).2.Inv := h.quiet
theorem State.Inv.toPeer {s : State} (h : s.Inv) {part pa : Nat} {leaf : DWord} {token : Nat} {bs : List Byte} : (s.toPeer part pa leaf token bs).Inv :=
  h.foldl fun _ _ h₁ => h₁.post
theorem State.Inv.spillOne {s : State} (h : s.Inv) {core : Nat} {p : Option Nat} : (s.spillOne core p).Inv := by
  unfold State.spillOne
  split
  · exact h
  · exact h.modCore
theorem State.Inv.spillWhile {s : State} (h : s.Inv) {core : Nat} {p : Option Nat} {more : State → Bool} {fuel : Nat} : (s.spillWhile core p more fuel).Inv := by
  induction fuel generalizing s with
  | zero => exact h
  | succ fuel ih => exact .ite (ih h.spillOne) h
theorem State.Inv.spill {s : State} (h : s.Inv) {core : Nat} : (s.spill core).Inv := State.Inv.foldl (.ite h.spillWhile h) fun _ _ h₁ => h₁.spillWhile
theorem State.Inv.makeRoom {s : State} (h : s.Inv) {core : Nat} {r : Record} : (s.makeRoom core r).Inv := h.spillWhile.spillWhile
theorem State.Inv.binCore {s : State} (h : s.Inv) {core : Nat} : (s.binCore core).Inv := .ite h h.modCore
theorem State.Inv.settleBins {s : State} (h : s.Inv) : s.settleBins.Inv := h.foldl fun _ _ h₁ => h₁.binCore
theorem State.Inv.putBack {s : State} (h : s.Inv) {core rid : Nat} {r : Record} : (s.putBack core rid r).Inv := h.makeRoom.modCore.spill
theorem State.Inv.addRecord {s : State} (h : s.Inv) {core : Nat} {r : Record} : (s.addRecord core r).Inv := h.fresh.putBack
theorem State.Inv.hiddenRelease {s : State} (h : s.Inv) {strand core : Nat} : (s.hiddenRelease strand core).Inv := by
  unfold State.hiddenRelease
  split
  · exact h
  · exact .ite h h.addUnit.modStrand
theorem State.Inv.unpend {s : State} (h : s.Inv) {strand id : Nat} : (s.unpend strand id).Inv := by
  unfold State.unpend
  split
  · exact h
  · exact h.modCore
theorem State.Inv.forward {s : State} (h : s.Inv) {strand : Nat} {bs : List Byte} : (s.forward strand bs).Inv := by
  unfold State.forward
  split
  · exact h
  · split
    · exact h
    · exact .ite h.modStrand h.quiet
theorem State.Inv.askCell {s : State} (h : s.Inv) {core strand : Nat} {after : List Nat} {e : WaitEv} {pa : Nat} :
    (s.askCell core strand after e pa).Inv := by
  unfold State.askCell
  split
  · exact h
  · exact .ite h h.addUnit
theorem State.Inv.countWatch {s : State} (h : s.Inv) {part pa : Nat} : (s.countWatch part pa).Inv := .ite h h.modPart
theorem State.Inv.placeWatch {s : State} (h : s.Inv) {core strand part : Nat} {after : List Nat} {w : WaitEv} :
    (s.placeWatch core strand part after w).Inv := by
  unfold State.placeWatch
  split
  · exact h
  · exact .ite h.askCell h.countWatch
theorem State.Inv.park {s : State} (h : s.Inv) {core sl l : Nat} {origin resume : Pc} {w : Option WaitEv} {named : List Nat} {set : Nat} :
    (s.park core sl l origin resume w named set).Inv := by
  unfold State.park
  split
  · exact h
  · split
    · exact h
    · extract_lets la part entry regs saved gone key widx r s₁ s₂ s₃ s₄ s₅
      have h₁ : s₁.Inv := .ite h.discard h
      have h₂ : s₂.Inv := h₁.setCohort
      have h₃ : s₃.Inv := .ite h₂.modPart h₂
      have h₄ : s₄.Inv := .elim h₃ fun _ => h₃.placeWatch
      have h₅ : s₅.Inv := h₄.lostPoison
      exact h₅.addRecord
theorem State.Inv.trimL1d {s : State} (h : s.Inv) {core : Nat} {keep : List Nat} : (s.trimL1d core keep).Inv := .ite h h.takeFree.modCore
theorem State.Inv.trimL1i {s : State} (h : s.Inv) {core n : Nat} : (s.trimL1i core n).Inv := .ite h h.takeFree.modCore
theorem State.Inv.invalidateL1 {s : State} (h : s.Inv) {core : Nat} : (s.invalidateL1 core).Inv := h.modCore
theorem State.Inv.acquire {s : State} (h : s.Inv) {core : Nat} {sc : Scope} : (s.acquire core sc).Inv := .ite h h.invalidateL1
theorem State.Inv.promote {s : State} (h : s.Inv) {core : Nat} : (s.promote core).Inv := by
  unfold State.promote
  dsimp only
  split
  · exact h
  · split
    · exact h
    · split
      · exact h
      · exact h.modCore
theorem State.Inv.settleChains {s : State} (h : s.Inv) : s.settleChains.Inv := h.foldl fun _ _ h₁ => h₁.foldl fun _ _ h₂ => h₂.promote
theorem State.Inv.forwardCell {s : State} (h : s.Inv) {r : Record} {w : WaitEv} : (s.forwardCell r w).Inv := by
  unfold State.forwardCell
  dsimp only
  split
  · exact h.forward
  · exact h.forward
  · exact h
theorem State.Inv.wakeAs {s : State} (h : s.Inv) {core rid : Nat} {r : Record} {w : WaitEv} {res : Woken} : (s.wakeAs core rid r w res).Inv := by
  unfold State.wakeAs
  extract_lets set
  split
  · exact h
  · extract_lets s₁ s₂ s₃
    have h₁ : s₁.Inv := h.forwardCell.modCore
    have h₂ : s₂.Inv := by
      unfold s₂
      split
      · exact h₁.dropSectors
      · exact h₁.dropSectors
      · exact h₁
    have h₃ : s₃.Inv := by
      unfold s₃
      split
      · exact h₂.acquire
      · exact h₂
    exact h₃.promote
  · exact h.modCore.promote
theorem State.Inv.wakeOne {s : State} (h : s.Inv) {core rid : Nat} : (s.wakeOne core rid).Inv := by
  unfold State.wakeOne
  split
  · exact h
  · split
    · exact h
    · exact .ite h h.wakeAs
theorem State.Inv.asSet {s : State} (h : s.Inv) {core : Nat} {rids : List Nat} : (s.asSet core rids).Inv := .ite h h.modCore
theorem State.Inv.fire {s : State} (h : s.Inv) {core : Nat} {sel : Record → WaitEv → Bool} : (s.fire core sel).Inv :=
  (h.foldl fun _ _ h₁ => h₁.wakeOne).asSet
theorem State.Inv.fireTags {s : State} (h : s.Inv) {core grove : Nat} : (s.fireTags core grove).Inv := h.fire
theorem State.Inv.fireCounter {s : State} (h : s.Inv) {core strand : Nat} : (s.fireCounter core strand).Inv := h.fire
theorem State.Inv.fireTile {s : State} (hs : s.Inv) {core grove h : Nat} : (s.fireTile core grove h).Inv := hs.fire
theorem State.Inv.fireBarrier {s : State} (h : s.Inv) {core grove off : Nat} : (s.fireBarrier core grove off).Inv := h.fire
theorem State.Inv.fireGran {s : State} (h : s.Inv) {core grove off len : Nat} : (s.fireGran core grove off len).Inv := h.fire
theorem State.Inv.fireAlloc {s : State} (h : s.Inv) {core grove : Nat} : (s.fireAlloc core grove).Inv := h.fire
theorem State.Inv.firePlain {s : State} (h : s.Inv) {core : Nat} {sel : WaitEv → Bool} : (s.firePlain core sel).Inv := h.fire
theorem State.Inv.fireLine {s : State} (h : s.Inv) {pa len : Nat} : (s.fireLine pa len).Inv := h.foldl fun _ _ h₁ => h₁.fire
theorem State.Inv.tellWatchers {s : State} (h : s.Inv) {pa len : Nat} : (s.tellWatchers pa len).Inv := .ite h (h.quiet.foldl fun _ _ h₁ => h₁.post)
theorem State.Inv.homeWrite {s : State} (h : s.Inv) {pa : Nat} {bs : List Byte} : (s.homeWrite pa bs).Inv := h.writeMem.quiet.fireLine.tellWatchers
theorem State.Inv.endStrand {s : State} (h : s.Inv) {strand : Nat} : (s.endStrand strand).Inv := by
  unfold State.endStrand
  split
  · exact h
  · extract_lets g t
    have ht : t.Inv := by
      unfold t
      split
      · exact h
      · exact h.quiet
    exact ht.quiet
theorem State.Inv.exitLane {s : State} (h : s.Inv) {core sl l : Nat} : (s.exitLane core sl l).Inv := by
  unfold State.exitLane
  split
  · exact h
  · split
    · exact h
    · exact h.lostPoison.setCohort.endStrand
theorem State.Inv.form {s : State} (h : s.Inv) {core sl : Nat} {rids : List Nat} : (s.form core sl rids).Inv := by
  unfold State.form
  dsimp only
  split
  · exact h.modCore.foldl fun _ _ h₁ => h₁.modStrand
  · exact h
theorem State.Inv.keyedWrite {s : State} (h : s.Inv) {leaf : DWord} {pa : Nat} {bs : List Byte} : (s.keyedWrite leaf pa bs).Inv :=
  h.unseal.homeWrite.markKey
theorem State.Inv.anyWrite {s : State} (h : s.Inv) {part pa : Nat} {leaf : DWord} {bs : List Byte} : (s.anyWrite part pa leaf bs).Inv :=
  .ite (.ite h.keyedWrite h) (.ite h.toPeer h.toHost)
theorem State.Inv.askUnits {s : State} (h : s.Inv) {part : Nat} {ps : List (Nat × Nat × DWord × Nat)} : (s.askUnits part ps).Inv :=
  h.foldl fun _ _ h₁ => .ite h₁ h₁.addUnit
theorem State.Inv.unitsRead {s : State} (h : s.Inv) {ps : List (Nat × Nat × DWord × Nat)} : (s.unitsRead ps).Inv := .ite h h.quiet
theorem State.Inv.whenRead {s : State} (h : s.Inv) {core master : Nat} {rs : List (Nat × Nat × Nat)} {go : State → State} (hgo : ∀ t : State, t.Inv → (go t).Inv) :
    (s.whenRead core master rs go).Inv := .ite (hgo s h).unitsRead h.askUnits
theorem State.Inv.keepWalk {s : State} (h : s.Inv) {core part va : Nat} : (s.keepWalk core part va).Inv := by
  unfold State.keepWalk
  split
  · split
    · exact h.tlbFill
    · exact h
  · exact h
theorem State.Inv.coreWrites {s : State} (h : s.Inv) {core part va pa n : Nat} : (s.coreWrites core part va pa n).Inv := .ite h.keepWalk.dropSectors h
theorem State.Inv.vaWrite {s : State} (h : s.Inv) {core part master fuel va : Nat} {bs : List Byte} : (s.vaWrite core part master fuel va bs).1.Inv := by
  induction fuel generalizing s va bs with
  | zero => exact h
  | succ fuel ih =>
    unfold State.vaWrite
    dsimp only
    split
    · exact h
    · split
      · split
        · exact h
        · exact ih h.coreWrites.anyWrite
      · exact h
      · exact h
theorem State.Inv.whenFree {s : State} (h : s.Inv) {lines : List Nat} {go : State → State} (hgo : ∀ t : State, t.Inv → (go t).Inv) : (s.whenFree lines go).Inv :=
  .ite (hgo s h) h.snoop
theorem State.Inv.signalWord {s : State} (h : s.Inv) {leaf : DWord} {pa : Nat} {failed : Bool} : (s.signalWord leaf pa failed).Inv := h.keyedWrite
theorem State.Inv.signalFails {s : State} (h : s.Inv) {part launch va code : Nat} : (s.signalFails part launch va code).Inv := h.log
theorem State.Inv.signal {s : State} (h : s.Inv) {part launch va : Nat} {failed : Bool} : (s.signal part launch va failed).Inv := by
  unfold State.signal
  split
  · exact h
  · dsimp only
    split
    · exact h.signalFails
    · exact h.signalFails
    · exact .ite h.addUnit (.ite h.signalFails (.ite h.signalFails h.signalWord))
theorem State.Inv.restStand {s : State} (h : s.Inv) {core : Nat} : (s.restStand core).Inv := .ite h h.quiet
theorem State.Inv.endGroves {s : State} (h : s.Inv) {launch : Nat} : (s.endGroves launch).Inv := by
  unfold State.endGroves
  extract_lets gs mine comms t cores
  have ht : t.Inv := h.foldl fun _ _ h₁ => h₁.schedule
  exact ht.quiet.foldl fun _ _ h₁ => h₁.restStand
theorem State.Inv.countTerm {s : State} (h : s.Inv) {part code : Nat} : (s.countTerm part code).Inv := .ite h.modPart h
theorem State.Inv.terminate {s : State} (h : s.Inv) {launch : Nat} {rec : FaultRec} : (s.terminate launch rec).Inv := by
  unfold State.terminate
  split
  · exact h
  · exact .ite h h.log.countTerm.endGroves.modLaunch
theorem State.Inv.restage {s : State} (h : s.Inv) {launch code : Nat} : (s.restage launch code).Inv := by
  unfold State.restage
  split
  · exact h
  · exact .ite h.terminate h.log.endGroves.quiet
theorem State.Inv.settleImages {s : State} (h : s.Inv) : s.settleImages.Inv := .ite h.overStopped h
theorem State.Inv.stateLost {s : State} (h : s.Inv) {core launch src addr : Nat} : (s.stateLost core launch src addr).Inv := by
  unfold State.stateLost
  split
  · exact h
  · exact .ite h.restage h.terminate
theorem State.Inv.freezeAs {s : State} (h : s.Inv) {core p : Nat} {who : Nat × Nat} {launch grove : Nat} {pc : Pc} :
    (s.freezeAs core p who launch grove pc).Inv := by
  unfold State.freezeAs
  split
  · exact h
  · dsimp only
    split <;> exact h.modPart.log
theorem State.Inv.tookTurn {s : State} (h : s.Inv) {p : Nat} {who : Nat × Nat} : (s.tookTurn p who).Inv := .ite h.modPart h
theorem State.Inv.freeze {s : State} (h : s.Inv) {core p : Nat} {strand : Nat} {pc : Pc} : (s.freeze core p strand pc).Inv := h.freezeAs
theorem State.Inv.trap {s : State} (h : s.Inv) {core sl sev : Nat} {pc : Pc} {faults : NMap Flt} : (s.trap core sl pc faults sev).Inv := by
  unfold State.trap
  split
  · extract_lets la rec st ahead part left kept moved
    have hkept : kept.Inv := .ite h.modCore h.quiet
    have hmoved : moved.Inv := hkept.modLaunch
    refine .ite h.restage (.ite h.terminate (.ite h.terminate (.ite h.stateLost (.ite h.freeze ?_))))
    split
    · exact hmoved
    · exact hmoved.modPart
  · exact h
theorem State.Inv.imageIdentity {s : State} (h : s.Inv) {core : Nat} {co : Cohort} {bs : List Byte} : (s.imageIdentity core co bs).Inv :=
  h.foldl fun _ _ h₁ => h₁.modStrand
theorem State.Inv.countWrap {s : State} (h : s.Inv) {core : Nat} : (s.countWrap core).Inv := h.foldl fun _ _ h₁ => h₁.modPart
theorem State.Inv.needSweep {s : State} (h : s.Inv) {core : Nat} : (s.needSweep core).Inv := .ite h h.countWrap.modCore
theorem State.Inv.resume {s : State} (h : s.Inv) {st : Stopped} : (s.resume st).Inv := by
  unfold State.resume
  dsimp only
  split
  · exact h
  · split
    · exact h.modCore
    · exact h.modPart.needSweep
    · exact h.modPart
theorem State.Inv.closeFrames {s : State} (h : s.Inv) {launch : Nat} : (s.closeFrames launch).Inv := by
  unfold State.closeFrames
  split
  · exact h
  · exact h.modLaunch.foldl fun _ _ h₁ => h₁.foldl fun _ _ h₂ => h₂.endStrand
theorem State.Inv.deliver {s : State} (h : s.Inv) {launch : Nat} {st : Stopped} : (s.deliver launch st).Inv := by
  unfold State.deliver
  split
  · exact h
  · refine h.whenFree fun t ht => ?_
    split
    · exact ht.vaWrite.fst.terminate
    · have hwrote := ht.vaWrite.fst
      extract_lets
      split
      · split
        · exact hwrote
        · exact hwrote.quiet
      · exact hwrote.needSweep
      · exact hwrote
theorem State.Inv.setFrame {s : State} (h : s.Inv) {launch : Nat} {f : Frame} : (s.setFrame launch f).Inv := h.modLaunch
theorem State.Inv.restoreFrame {s : State} (h : s.Inv) {launch : Nat} {la : Launch} {f : Frame} : (s.restoreFrame launch la f).Inv := by
  unfold State.restoreFrame
  extract_lets va ps rec die
  refine .ite h.setFrame.askUnits (State.Inv.unitsRead ?_)
  have hdie {g : Flt} : (die g).Inv := h.terminate
  split
  · exact hdie
  · split
    · exact hdie
    · split
      · exact hdie
      · split
        · exact hdie
        · split
          · exact hdie
          · extract_lets bs
            split
            extract_lets back s₁ s₂ later s₃ s₄
            have h₂ : s₂.Inv := h.imageIdentity.foldl fun _ _ h₁ => h₁.endStrand
            have h₃ : s₃.Inv := h₂.foldl fun _ _ h₁ => h₁.modStrand
            exact .ite h.setFrame.freeze h₃.setFrame.resume
theorem State.Inv.trapReturn {s : State} (h : s.Inv) {launch strand : Nat} {flying : List Nat} : (s.trapReturn launch strand flying).Inv := by
  unfold State.trapReturn
  split
  · exact h
  · split
    · exact h
    · exact .ite h (.ite h.restoreFrame h.setFrame)
theorem State.Inv.settleFrames {s : State} (h : s.Inv) : s.settleFrames.Inv :=
  h.foldl fun _ _ h₁ => h₁.foldl fun _ _ h₂ => by split; exacts [.ite h₂ h₂.restoreFrame.closeFrames, h₂]
theorem State.Inv.debugHaltAs {s : State} (h : s.Inv) {core sl : Nat} {who : Cohort} {pc : Pc} {lanes : List Nat} {f : Flt} :
    (s.debugHaltAs core sl who pc lanes f).Inv := by
  unfold State.debugHaltAs
  split
  · exact h
  · exact .ite h.freeze (.ite h.log.modCore.stateLost h.log.modCore.modPart)
theorem State.Inv.debugHalt {s : State} (h : s.Inv) {core sl : Nat} {pc : Pc} {lanes : List Nat} {f : Flt} : (s.debugHalt core sl pc lanes f).Inv := by
  unfold State.debugHalt
  split
  · exact h
  · exact h.debugHaltAs

/-! The issue of a plan -/

theorem State.Inv.setPcs {s : State} (h : s.Inv) {x : Ctx} {ls : List Nat} {pc : Pc} : (s.setPcs x ls pc).Inv := h.modCohort
theorem State.Inv.setPc {s : State} (h : s.Inv) {x : Ctx} {l : Nat} {pc : Pc} : (s.setPc x l pc).Inv := h.modCohort
theorem State.Inv.watchHalt {s : State} (h : s.Inv) {x : Ctx} {hits : List (Nat × Access) × Nat} : (s.watchHalt x hits).Inv := by
  unfold State.watchHalt
  split
  · exact h
  · exact h.debugHaltAs
theorem State.Inv.stepDone {s : State} (h : s.Inv) {x : Ctx} : (s.stepDone x).Inv := by
  unfold State.stepDone
  split
  · exact h
  · dsimp only
    split
    · exact .ite h.debugHalt.modPart h
    · exact .ite h.modPart (.ite h h.modPart)
theorem State.Inv.firstIssued {s : State} (h : s.Inv) {x : Ctx} : (s.firstIssued x).Inv := by
  unfold State.firstIssued
  split
  · exact h
  · exact .ite h h.modPart
theorem State.Inv.issued {s : State} (h : s.Inv) {x : Ctx} : (s.issued x).Inv := h.firstIssued.modCohort
theorem State.Inv.startSpSweep {s : State} (h : s.Inv) {core : Nat} : (s.startSpSweep core).Inv := .ite h h.countWrap.modCore
theorem State.Inv.joinWalk {s : State} (h : s.Inv) {core : Nat} {w : Option WaitEv} : (s.joinWalk core w).Inv := by
  unfold State.joinWalk
  split
  · exact h.startSpSweep
  · dsimp only
    split
    · exact h
    · split
      · exact h.quiet
      · exact h
  · exact h
theorem State.Inv.healRegs {s : State} (h : s.Inv) {x : Ctx} {ls regs : List Nat} : (s.healRegs x ls regs).Inv := .ite h.modCohort h
/-- The effect of a plan keeps the invariant. -/
def Plan.Keeps (p : Plan) : Prop := ∀ (s : State) (x : Ctx) (ls : List Nat), s.Inv → (p.act s x ls).Inv
theorem State.Inv.body {s : State} (h : s.Inv) {p : Plan} (hp : p.Keeps) {x : Ctx} {next : Pc} {move : State → List Nat → List Nat → State}
    (hmove : ∀ (t : State) (ls leaving : List Nat), t.Inv → (move t ls leaving).Inv) : (p.body s x next move).Inv := by
  unfold Plan.body
  extract_lets en vs stays leaves go bad parks sizes waits moving moved hits acted
  split
  · exact h.trap
  · split
    · exact h.trap
    · have hacted : acted.Inv := State.Inv.healRegs (.ite (hmove _ _ _ h) (hp _ _ _ (hmove _ _ _ h)))
      exact .ite h.stateLost (.ite h.freeze ((hacted.foldl fun _ _ h₁ => h₁.joinWalk.park).foldl fun _ _ h₁ => h₁.park).watchHalt)
theorem State.Inv.run {s : State} (h : s.Inv) {p : Plan} (hp : p.Keeps) {x : Ctx} : (p.run s x).Inv := by
  unfold Plan.run
  split
  · exact h.trap
  · exact h.body hp fun _ _ _ h₁ => h₁.setPcs
theorem State.Inv.exec {s : State} (h : s.Inv) {p : Plan} (hp : p.Keeps) : (s.exec p).Inv := by
  unfold State.exec
  split
  · exact h
  · exact (h.run hp).issued.stepDone

/-! Operands -/

theorem State.Inv.onCohort {s : State} (h : s.Inv) {x : Ctx} {f : Cohort → Cohort} : (s.onCohort x f).Inv := h.modCohort

/-! The issue of memory operations -/

theorem State.Inv.twinNote {s : State} (h : s.Inv) {o : MemOp} : (s.twinNote o).1.Inv := by
  unfold State.twinNote
  split
  · split
    · exact h.modStrand
    · split
      · exact h.modStrand
      · exact h
  · exact h
theorem State.Inv.sendRequest {s : State} (h : s.Inv) {o : MemOp} : (s.sendRequest o).Inv := by
  unfold State.sendRequest
  dsimp only
  split
  · exact h.askHost
  · split
    · exact h.post
    · exact .ite h.post h.toPeer
    · exact h.post
    · exact h.post
    · exact h.post
    · exact h.post
    · exact h
theorem State.Inv.takeOpid {s : State} (h : s.Inv) {o : MemOp} : (s.takeOpid o).1.Inv := by
  unfold State.takeOpid
  split
  · exact h.nextOpid
  · exact h.nextOpid
  · exact h.nextOpid
  · split
    · exact h.nextOpid
    · exact h
theorem State.Inv.writeThrough {s : State} (h : s.Inv) {core pa : Nat} {bs : List Byte} : (s.writeThrough core pa bs).Inv := h.modCore
theorem State.Inv.enterOp {s : State} (h : s.Inv) {o : MemOp} : (s.enterOp o).Inv :=
  (State.Inv.quiet (.ite h.writeThrough h)).foldl fun _ _ h₁ => h₁.modStrand
theorem State.Inv.issueOp {s : State} (h : s.Inv) {o : MemOp} : (s.issueOp o).Inv := h.twinNote.fresh.enterOp
theorem State.Inv.pushUnit {s : State} (h : s.Inv) {o : MemOp} : (s.pushUnit o).Inv := h.quiet
theorem State.Inv.pushStore {s : State} (h : s.Inv) {grove launch core va pa : Nat} {leaf : DWord} {data : List Byte} {after fields : List Nat} :
    (s.pushStore grove launch core va pa leaf data after fields).Inv := h.pushUnit
theorem State.Inv.holdSp {s : State} (h : s.Inv) {x : Ctx} {l : Nat} {op : SpOp} {buf : Buf} {off size : Nat} {data : List Byte} {dst ndst : Nat} {sgn release : Bool} :
    (s.holdSp x l op buf off size data dst ndst sgn release).Inv := h.quiet
theorem State.Inv.gIssue {s : State} (h : s.Inv) {x : Ctx} {ls : List Nat} {va : Nat → Nat} {size : Nat} {kind : Acc} {mk : State → Nat → Nat → DWord → MemOp} :
    (s.gIssue x ls va size kind mk).Inv := h.foldl fun _ _ h₁ => by split; exacts [h₁.issueOp, h₁]

/-! Issue to the engines -/

theorem State.Inv.claimTag {s : State} (h : s.Inv) {grove t strand id : Nat} : (s.claimTag grove t strand id).Inv := h.modGrove
theorem State.Inv.completeAll {s : State} (h : s.Inv) {core : Nat} {ops : List (Nat × Nat)} : (s.completeAll core ops).Inv :=
  h.foldl fun _ _ h₁ => h₁.modStrand.unpend.fireCounter
theorem State.Inv.freeEntries {s : State} (h : s.Inv) {core grove : Nat} {ops : List (Nat × Nat)} : (s.freeEntries core grove ops).Inv := h.quiet
theorem State.Inv.finishTag {s : State} (h : s.Inv) {core grove t err : Nat} : (s.finishTag core grove t err).Inv := by
  unfold State.finishTag
  split
  · exact h
  · exact .ite h.modGrove.freeEntries.completeAll.fireTags h.modGrove
theorem State.Inv.countOp {s : State} (h : s.Inv) {strand id : Nat} {cls : CClass} : (s.countOp strand id cls).Inv := h.modStrand
theorem State.Inv.setPd {s : State} (h : s.Inv) {x : Ctx} {pd l : Nat} {v : Bool} : (s.setPd x pd l v).Inv := h.onCohort
theorem State.Inv.putBulk {s : State} (h : s.Inv) {x : Ctx} {l : Nat} {k : BulkKind} {a tag : Nat} {ctx : DWord} {sc : Scope} :
    (s.putBulk x l k a tag ctx sc).Inv := .ite h.fresh.modCore.claimTag.countOp.modStrand h.fresh.modCore.claimTag.countOp
theorem State.Inv.putMat {s : State} (h : s.Inv) {x : Ctx} {l : Nat} {k : MatKind} {a : Nat} : (s.putMat x l k a).Inv :=
  h.fresh.modCore.modGrove.countOp
theorem State.Inv.newTile {s : State} (h : s.Inv) {core grove coff rows : Nat} : (s.newTile core grove coff rows).1.Inv := by
  unfold State.newTile
  split
  · exact h
  · exact h.modCore
theorem State.Inv.newTiles {s : State} (h : s.Inv) {x : Ctx} {a b : Nat} {ls : List Nat} : (s.newTiles x a b ls).1.Inv := by
  induction ls generalizing s with
  | nil => exact h
  | cons l t ih => exact ih h.newTile
theorem State.Inv.releaseTile {s : State} (hs : s.Inv) {core grove h : Nat} : (s.releaseTile core grove h).Inv := hs.modCore.fireTile
theorem State.Inv.putColl {s : State} (h : s.Inv) {x : Ctx} {l a tag : Nat} : (s.putColl x l a tag).Inv := by
  unfold State.putColl
  split
  next id s₁ hid =>
  have h₁ : s₁.Inv := State.Inv.snd h.fresh hid
  extract_lets t b comm n grove op s₂ link s₃
  have h₂ : s₂.Inv := h₁.claimTag.countOp
  have h₃ : s₃.Inv := h₂.quiet
  exact .ite h₃.log.finishTag h₃.quiet

/-! The debug command interface -/

theorem State.Inv.dbg {s : State} (h : s.Inv) {part st result : Nat} : (s.dbg part st result).Inv := h.modPart
theorem State.Inv.dbgDone {s : State} (h : s.Inv) {part result : Nat} : (s.dbgDone part result).Inv := h.dbg
theorem State.Inv.dbgRefuse {s : State} (h : s.Inv) {part result : Nat} : (s.dbgRefuse part result).Inv := h.dbg
theorem State.Inv.haltSlot {s : State} (h : s.Inv) {core sl code detail : Nat} : (s.haltSlot core sl code detail).Inv := by
  unfold State.haltSlot
  split
  · exact h
  · exact h.debugHalt
theorem State.Inv.holdRecords {s : State} (h : s.Inv) {launch : Nat} : (s.holdRecords launch).Inv := by
  unfold State.holdRecords
  split
  · exact h
  · exact h.quiet
theorem State.Inv.haltHeld {s : State} (h : s.Inv) {launch mask : Nat} : (s.haltHeld launch mask).Inv :=
  .ite h (h.foldl fun _ _ h₁ => h₁.foldl fun _ _ h₂ => .ite h₂.haltSlot h₂)
theorem State.Inv.haltSaved {s : State} (h : s.Inv) {part grove mask : Nat} {st : Stopped} : (s.haltSaved part grove mask st).Inv :=
  h.log.modGrove.modPart
theorem State.Inv.haltEvicted {s : State} (h : s.Inv) {part launch mask : Nat} : (s.haltEvicted part launch mask).Inv :=
  h.foldl fun _ _ h₁ => h₁.foldl fun _ _ h₂ => h₂.haltSaved
theorem State.Inv.haltStage {s : State} (h : s.Inv) {part launch arg : Nat} : (s.haltStage part launch arg).Inv := by
  unfold State.haltStage
  split
  · exact h.dbgRefuse
  · exact .ite h.dbgRefuse h.modLaunch.holdRecords.haltHeld.haltEvicted.dbgDone
theorem State.Inv.restoreHalted {s : State} (h : s.Inv) {part id : Nat} {st : Stopped} {single : Bool} : (s.restoreHalted part id st single).Inv := by
  unfold State.restoreHalted
  split
  · exact h.dbgRefuse
  · extract_lets s₁ s₂ s₃ s₄ s₅
    have h₁ : s₁.Inv := h.foldl fun _ _ h₁ => h₁.endStrand
    have h₂ : s₂.Inv := .ite h₁ h₁.imageIdentity
    have h₃ : s₃.Inv := h₂.modPart
    have h₄ : s₄.Inv := .ite h₃.dbg h₃.dbgDone
    have h₅ : s₅.Inv := .ite h₄ h₄.closeFrames
    exact h₅.resume
theorem State.Inv.releaseStages {s : State} (h : s.Inv) {part launch arg : Nat} : (s.releaseStages part launch arg).Inv := by
  unfold State.releaseStages
  split
  · exact h.dbgRefuse
  · split
    · exact h.dbgRefuse
    · extract_lets s₁ free onCore s₂ s₃
      have h₂ : s₂.Inv := h.quiet
      exact State.Inv.dbgDone (s := s₃) (h₂.foldl fun _ _ h₁ => .ite h₁.restoreHalted h₁)
theorem State.Inv.listHalted {s : State} (h : s.Inv) {part : Nat} : (s.listHalted part).Inv := h.modPart.dbgDone
theorem State.Inv.onHalted {s : State} (h : s.Inv) {part id : Nat} {f : Stopped → State} (hf : ∀ st, (f st).Inv) : (s.onHalted part id f).Inv := by
  unfold State.onHalted
  split
  · exact h.dbgRefuse
  · exact hf _
theorem State.Inv.onImage {s : State} (h : s.Inv) {part op id arg : Nat} {f : Stopped → State} (hf : ∀ st, (f st).Inv) : (s.onImage part op id arg f).Inv :=
  h.onHalted fun st => .ite h.dbg.modPart (hf st)
theorem State.Inv.readImg {s : State} (h : s.Inv) {part id off : Nat} : (s.readImg part id off).Inv :=
  h.onImage fun _ => .ite h.dbgRefuse h.modPart.dbgDone
theorem State.Inv.writeImg {s : State} (h : s.Inv) {part id off : Nat} : (s.writeImg part id off).Inv := h.onImage fun _ => h.modPart.dbgDone
theorem State.Inv.resumeHalted {s : State} (h : s.Inv) {part id : Nat} {single : Bool} : (s.resumeHalted part id single).Inv :=
  h.onHalted fun _ => .ite h.dbgRefuse h.restoreHalted
theorem State.Inv.staleMap {s : State} (h : s.Inv) {part id : Nat} : (s.staleMap part id).Inv := h.onImage fun _ => h.modPart.dbgDone
theorem State.Inv.settleDebug {s : State} (h : s.Inv) : s.settleDebug.Inv :=
  h.foldl fun _ _ h₁ => by split; exacts [h₁, .ite h₁ (.ite h₁.modPart.readImg (.ite h₁.modPart.writeImg h₁.modPart.staleMap))]
theorem State.Inv.discardHalted {s : State} (h : s.Inv) {part id : Nat} : (s.discardHalted part id).Inv :=
  h.onHalted (fun _ => (((h.foldl fun _ _ h₂ => h₂.endStrand).modPart).closeFrames).dbgDone)
theorem State.Inv.readSp {s : State} (h : s.Inv) {part launch arg : Nat} : (s.readSp part launch arg).Inv := by
  unfold State.readSp
  dsimp only
  split
  · exact .ite h.dbgRefuse h.modPart.dbgDone
  · exact h.dbgRefuse
theorem State.Inv.execHaltstage {s : State} (h : s.Inv) {part launch arg : Nat} : (execHaltstage part launch arg s).Inv := h.haltStage
theorem State.Inv.execReleaseStage {s : State} (h : s.Inv) {part launch arg : Nat} : (execReleaseStage part launch arg s).Inv := h.releaseStages
theorem State.Inv.execListImages {s : State} (h : s.Inv) {part : Nat} : (execListImages part s).Inv := h.listHalted
theorem State.Inv.execReadimg {s : State} (h : s.Inv) {part hid off : Nat} : (execReadimg part hid off s).Inv := h.readImg
theorem State.Inv.execWriteimg {s : State} (h : s.Inv) {part hid off : Nat} : (execWriteimg part hid off s).Inv := h.writeImg
theorem State.Inv.execDebugStep {s : State} (h : s.Inv) {part hid : Nat} : (execDebugStep part hid s).Inv := h.resumeHalted
theorem State.Inv.execResumeImage {s : State} (h : s.Inv) {part hid : Nat} : (execResumeImage part hid s).Inv := h.resumeHalted
theorem State.Inv.execStalemap {s : State} (h : s.Inv) {part hid : Nat} : (execStalemap part hid s).Inv := h.staleMap
theorem State.Inv.execDiscardImage {s : State} (h : s.Inv) {part hid : Nat} : (execDiscardImage part hid s).Inv := h.discardHalted
theorem State.Inv.execReadsp {s : State} (h : s.Inv) {part launch arg : Nat} : (execReadsp part launch arg s).Inv := h.readSp

/-! Instruction fetch -/

theorem State.Inv.fillL1i {s : State} (h : s.Inv) {core part va : Nat} : (s.fillL1i core part va).Inv := by
  unfold State.fillL1i
  split
  · exact h
  · exact .ite h (h.modCore.trimL1i.foldl fun _ _ h₁ => h₁.logRec)
theorem State.Inv.keepLines {s : State} (h : s.Inv) {core part va k : Nat} : (s.keepLines core part va k).Inv := h.foldl fun _ _ h₁ => h₁.fillL1i
theorem State.Inv.parkAll {s : State} (h : s.Inv) {x : Ctx} {w : Option WaitEv} : (s.parkAll x w).Inv :=
  h.body (fun _ _ _ h₁ => h₁) fun _ _ _ h₁ => h₁
theorem State.Inv.trapAll {s : State} (h : s.Inv) {x : Ctx} {f : Flt} {sev : Nat} : (s.trapAll x f sev).Inv := h.trap
theorem State.Inv.fetchStop {s : State} (h : s.Inv) {x : Ctx} {r : FetchRes} : (s.fetchStop x r).Inv := by
  unfold State.fetchStop
  split
  · exact h
  · exact h.parkAll
  · exact h.trapAll

/-! Code objects and import stubs -/

theorem State.Inv.clearExec {s : State} (h : s.Inv) {part va : Nat} : (s.clearExec part va).Inv := h.quiet
theorem State.Inv.putObj {s : State} (h : s.Inv) {o : CodeObj} : (s.putObj o).Inv := h.quiet
theorem State.Inv.accept {s : State} (h : s.Inv) {o : CodeObj} {b : List Byte} {pages : List Nat} : (s.accept o b pages).Inv := h.putObj.modPart
theorem State.Inv.refuse {s : State} (h : s.Inv) {part va why : Nat} : (s.refuse part va why).Inv := h.quiet
theorem State.Inv.loadObj {s : State} (h : s.Inv) {part : Nat} : (s.loadObj part).Inv := by
  unfold State.loadObj
  dsimp only
  split
  · exact h.refuse.schedule
  · exact h.accept.schedule
theorem State.Inv.registerObj {s : State} (h : s.Inv) {part : Nat} : (s.registerObj part).Inv := by
  unfold State.registerObj
  dsimp only
  split
  · exact h.refuse.schedule
  · exact .ite h.refuse.schedule (.ite h.refuse.schedule h.putObj.schedule)
theorem State.Inv.unloadObj {s : State} (h : s.Inv) {part : Nat} : (s.unloadObj part).Inv := h.quiet.schedule
theorem State.Inv.execLoadObject {s : State} (h : s.Inv) {part : Nat} : (execLoadObject part s).Inv :=
  State.Inv.ite (h.whenRead (fun _ h₁ => h₁.loadObj)) h
theorem State.Inv.execRegisterExport {s : State} (h : s.Inv) {part : Nat} : (execRegisterExport part s).Inv :=
  State.Inv.ite (h.whenRead (fun _ h₁ => h₁.registerObj)) h
theorem State.Inv.execUnloadObject {s : State} (h : s.Inv) {part : Nat} : (execUnloadObject part s).Inv := State.Inv.ite h.unloadObj h
theorem State.Inv.execLoaderDone {s : State} (h : s.Inv) {part st why : Nat} : (execLoaderDone part st why s).Inv := State.Inv.ite h.modPart.msix h
theorem State.Inv.loadReq {s : State} (h : s.Inv) {part : Nat} {v : DWord} : (s.loadReq part v).Inv :=
  .ite h (h.modPart.schedule (by split; exacts [rfl, by split <;> rfl]))
theorem State.Inv.setStub {s : State} (h : s.Inv) {stub : Nat × DWord} {target state detail : Nat} : (s.setStub stub target state detail).Inv :=
  State.Inv.keyedWrite (.ite h.keyedWrite h)
theorem State.Inv.failStub {s : State} (h : s.Inv) {part : Nat} {o : CodeObj} {why : Nat} {stub : Nat × DWord} : (s.failStub part o why stub).Inv :=
  h.logRec.setStub
theorem State.Inv.bindStub {s : State} (h : s.Inv) {part obj va : Nat} {stub : Nat × DWord} : (s.bindStub part obj va stub).Inv := by
  unfold State.bindStub
  split
  · exact h.setStub
  · split
    · exact h.setStub
    · split
      · exact h.failStub
      · split
        · exact h.accept.setStub
        · exact h.refuse.failStub
theorem State.Inv.execStubBind {s : State} (h : s.Inv) : (execStubBind s).Inv := by
  unfold Machine.execStubBind
  split
  · exact h
  · split
    · exact h.quiet
    · exact h.whenFree (fun _ h₁ => (by dsimp only; split; exacts [h₁.setStub, h₁.whenRead (fun _ h₂ => h₂.quiet.bindStub), h₁.quiet]))

/-! Page walks, demand faults and the background scrub -/

theorem State.Inv.freeEntry {s : State} (h : s.Inv) {die n : Nat} : (s.freeEntry die n).Inv := h.quiet.foldl fun _ _ h₁ => h₁.firePlain
theorem State.Inv.walkDone {s : State} (h : s.Inv) {die n : Nat} {e : Coal} {t : TlbEntry} : (s.walkDone die n e t).Inv :=
  ((h.foldl fun _ _ h₁ => h₁.tlbFill).foldl fun _ _ h₁ => h₁.firePlain).freeEntry
theorem State.Inv.walkFailed {s : State} (h : s.Inv) {die n : Nat} {e : Coal} {w : WalkFail} : (s.walkFailed die n e w).Inv := h.quiet.logRec
theorem State.Inv.execPageWalkComplete {s : State} (h : s.Inv) {die n : Nat} : (execPageWalkComplete die n s).Inv := by
  unfold Machine.execPageWalkComplete
  split
  · exact h
  · split
    · exact h
    · split
      · exact h.walkDone
      · exact h.walkFailed
theorem State.Inv.demandReplay {s : State} (h : s.Inv) {part die n : Nat} : (s.demandReplay part die n).Inv := by
  unfold State.demandReplay
  split
  · exact h
  · exact h.quiet
theorem State.Inv.demandRefuse {s : State} (h : s.Inv) {part die n : Nat} : (s.demandRefuse part die n).Inv := by
  unfold State.demandRefuse
  split
  · exact h
  · extract_lets t colls
    have ht : t.Inv := h.foldl fun _ _ h₁ => h₁.modCore
    exact State.Inv.freeEntry ht.quiet
theorem State.Inv.execDemandReplay {s : State} (h : s.Inv) {part die n : Nat} : (execDemandReplay part die n s).Inv := h.demandReplay
theorem State.Inv.execDemandRefuse {s : State} (h : s.Inv) {part die n : Nat} : (execDemandRefuse part die n s).Inv := h.demandRefuse
theorem State.Inv.countErr {s : State} (h : s.Inv) {n hi lo : Nat} : (s.countErr n hi lo).Inv := h.quiet
theorem State.Inv.corrected {s : State} (h : s.Inv) {n src srcId addr : Nat} : (s.corrected n src srcId addr).Inv := .ite h.quiet.logRec h.quiet
theorem State.Inv.poisonLine {s : State} (h : s.Inv) {src line why : Nat} : (s.poisonLine src line why).Inv := .ite h h.quiet.countErr.logRec
theorem State.Inv.poisonGranule {s : State} (h : s.Inv) {core : Nat} {b : Buf} {n why : Nat} : (s.poisonGranule core b n why).Inv :=
  .ite h h.modCore.countErr.logRec
theorem State.Inv.poisonWord {s : State} (h : s.Inv) {core sl lane reg : Nat} {shape : Bool} : (s.poisonWord core sl lane reg shape).Inv :=
  h.modCohort.countErr
theorem State.Inv.recordError {s : State} (h : s.Inv) {core rid : Nat} {r : Record} {ue : Bool} : (s.recordError core rid r ue).Inv :=
  .ite h.countErr.stateLost h.corrected
theorem State.Inv.execPatrolScrub {s : State} (h : s.Inv) {src : Nat} {ue : Bool} {loc line : Nat} : (execPatrolScrub src ue loc line s).Inv :=
  State.Inv.ite (.ite h.poisonGranule h.corrected) (.ite (.ite h.poisonLine h.corrected) (.ite h.dropSectors.corrected (.ite h.modCore.corrected (.ite (.ite h.poisonWord h.corrected) (.ite (.elim h fun _ => h.recordError) h)))))

/-! The device registers -/

theorem State.Inv.thaw {s : State} (h : s.Inv) {p why : Nat} : (s.thaw p why).Inv := .ite h.modPart.log h
theorem State.Inv.pcalWrite {s : State} (h : s.Inv) {p : Nat} {v : DWord} : (s.pcalWrite p v).Inv := .ite h (.ite h.modPart.thaw h.modPart)
theorem State.Inv.execPcalWrite {s : State} (h : s.Inv) {part : Nat} {v : DWord} : (execPcalWrite part v s).Inv := h.pcalWrite
theorem State.Inv.kill {s : State} (h : s.Inv) {p : Nat} : (s.kill p).Inv := (h.foldl fun _ _ h₁ => h₁.terminate).thaw
theorem State.Inv.execPfrzKill {s : State} (h : s.Inv) {part : Nat} : (execPfrzKill part s).Inv := h.kill
theorem State.Inv.flogcfgWrite {s : State} (h : s.Inv) {p : Nat} {v : DWord} : (s.flogcfgWrite p v).Inv := h.modPart
theorem State.Inv.execFlogcfgWrite {s : State} (h : s.Inv) {part : Nat} {v : DWord} : (execFlogcfgWrite part v s).Inv := h.flogcfgWrite
theorem State.Inv.flogtailWrite {s : State} (h : s.Inv) {p : Nat} {v : DWord} : (s.flogtailWrite p v).Inv := h.modPart
theorem State.Inv.execFlogtailWrite {s : State} (h : s.Inv) {part : Nat} {v : DWord} : (execFlogtailWrite part v s).Inv := h.flogtailWrite
theorem State.Inv.xreplay {s : State} (h : s.Inv) {p : Nat} {v : DWord} : (s.xreplay p v).Inv := .ite h.demandReplay (.ite h.demandRefuse h)
theorem State.Inv.rearm {s : State} (h : s.Inv) {core n : Nat} : (s.rearm core n).Inv := h.modCore.overStopped
theorem State.Inv.dbgRegWrite {s : State} (h : s.Inv) {p : Nat} {r : PReg} {v : DWord} : (s.dbgRegWrite p r v).Inv := by
  unfold State.dbgRegWrite
  split
  · exact h
  · exact State.Inv.modCore (.ite h h.rearm)
theorem State.Inv.dbgcmd {s : State} (h : s.Inv) {p : Nat} {v : DWord} : (s.dbgcmd p v).Inv := by
  unfold State.dbgcmd
  dsimp only
  split
  · exact h
  · split
    · exact h.haltStage
    · exact h.releaseStages
    · exact h.listHalted
    · exact h.readImg
    · exact h.writeImg
    · exact h.resumeHalted
    · exact h.resumeHalted
    · exact h.staleMap
    · exact h.discardHalted
    · exact h.readSp
    · exact h.dbgRefuse
theorem State.Inv.seeErr {s : State} (h : s.Inv) {qid : Nat} : (s.seeErr qid).Inv := by
  unfold State.seeErr
  split
  · exact h
  · exact h.quiet
theorem State.Inv.qdoor {s : State} (h : s.Inv) {p qid : Nat} : (s.qdoor p qid).Inv := .ite h.seeErr.quiet h.seeErr
theorem State.Inv.execQdoor {s : State} (h : s.Inv) {part qid : Nat} : (execQdoor part qid s).Inv := h.qdoor
theorem State.Inv.unmapSlot {s : State} (h : s.Inv) {sl : Nat} : (s.unmapSlot sl).Inv := by
  unfold State.unmapSlot
  split
  · exact h
  · exact h.quiet
theorem State.Inv.writeP {s : State} (h : s.Inv) {who p : Nat} {r : PReg} {v : DWord} : (s.writeP who p r v).Inv := by
  unfold State.writeP
  split
  · exact h
  · split
    · exact h.modPart
    · exact h.modPart
    · exact h.modPart
    · exact h.pcalWrite
    · exact h.qdoor
    · exact h.modPart
    · exact h.loadReq
    · exact h.modPart
    · exact h.flogcfgWrite
    · exact h.flogtailWrite
    · exact h.xreplay
    · exact h.modPart
    · exact .ite h.kill h
    · exact h.modPart
    · exact h.modPart
    · exact h.modPart
    · exact h.modPart
    · exact h.modPart
    · exact h.dbgcmd
    · exact h.dbgRegWrite
    · exact h.dbgRegWrite
    · exact h.dbgRegWrite
    · exact h.modPart
    · exact h
    · exact h
    · exact h
theorem State.Inv.writeG {s : State} (h : s.Inv) {r : GReg} {v : DWord} : (s.writeG r v).Inv := by
  unfold State.writeG
  split
  · exact State.Inv.quiet (.ite (h.foldl fun _ _ h₁ => h₁.unmapSlot) h)
  · exact h.quiet
  · exact h.quiet
  · exact h.quiet
  · exact h.quiet
  · exact h.quiet
  · exact h.quiet
  · exact h.quiet
  · exact h.quiet
  · exact h.quiet
  · exact .ite h h.quiet
  · exact .ite h h.quiet
theorem State.Inv.writeReg {s : State} (h : s.Inv) {who n : Nat} {v : DWord} : (s.writeReg who n v).Inv := by
  unfold State.writeReg
  split
  · exact h.writeP
  · exact h.writeG
  · exact h
theorem State.Inv.execRegisterWrite {s : State} (h : s.Inv) {who n : Nat} {v : DWord} : (execRegisterWrite who n v s).Inv :=
  State.Inv.ite h h.writeReg
theorem State.Inv.writeSpace3 {s : State} (h : s.Inv) {part pa : Nat} {bs : List Byte} : (s.writeSpace3 part pa bs).Inv := by
  unfold State.writeSpace3
  dsimp only
  split
  · exact h
  · exact h.writeReg

end Sys2Proof.Machine
end

section
/-! That the effects of instructions, and the operations and engines in flight, keep the invariant. -/
namespace Sys2Proof.Machine
set_option Elab.async false

/-! Scratchpads -/

theorem State.Inv.spLoads {s : State} (h : s.Inv) {x : Ctx} {ls : List Nat} {buf : Buf} {d : Nat} {off : Nat → Nat} {size : Size} {sgn : Bool} :
    (s.spLoads x ls buf d off size sgn).Inv := h.onCohort.foldl fun _ _ h₁ => h₁.holdSp
theorem State.Inv.spStore1 {s : State} (h : s.Inv) {core grove : Nat} {buf : Buf} {off : Nat} {bs : List Byte} :
    (s.spStore1 core grove buf off bs).Inv := .ite h.spWrite.fireGran h.spWrite
theorem State.Inv.spStores {s : State} (h : s.Inv) {x : Ctx} {ls : List Nat} {buf : Buf} {off : Nat → Nat} {bs : Nat → List Byte} :
    (s.spStores x ls buf off bs).Inv := .ite (h.foldl fun _ _ h₁ => h₁.spStore1) (h.foldl fun _ _ h₁ => h₁.holdSp)
theorem State.Inv.carve {s : State} (h : s.Inv) {core grove : Nat} {b : Buf} {off size : Nat} {cls : LClass} {ar strict : Bool} {gen : Nat} :
    (s.carve core grove b off size cls ar strict gen).Inv := h.modCore
theorem State.Inv.spAlloc {s : State} (h : s.Inv) {core grove : Nat} {b : Buf} {cls : LClass} {ar strict : Bool} {bytes : Nat} :
    (s.spAlloc core grove b cls ar strict bytes).1.Inv := by
  unfold State.spAlloc
  dsimp only
  split
  · split
    · exact h
    · exact h.carve
  · exact h
theorem State.Inv.spAllocs {s : State} (h : s.Inv) {x : Ctx} {f : State → Nat → State × Nat} (hf : ∀ (t : State) (l : Nat), t.Inv → (f t l).1.Inv) {ls : List Nat} :
    (s.spAllocs x f ls).1.Inv := by
  induction ls generalizing s with
  | nil => exact h
  | cons l t ih => exact ih (hf s l h)
theorem State.Inv.spFree {s : State} (h : s.Inv) {core grove : Nat} {buf : Buf} {off : Nat} : (s.spFree core grove buf off).Inv := by
  unfold State.spFree
  split
  · exact h.modCore.fireAlloc
  · exact h
theorem State.Inv.spClear {s : State} (h : s.Inv) {core grove : Nat} {buf : Buf} {off : Nat} : (s.spClear core grove buf off).Inv := by
  unfold State.spClear
  split
  · exact h.modCore.fireAlloc
  · exact h
theorem State.Inv.renewGran {s : State} (h : s.Inv) {core grove : Nat} {b : Buf} {off : Nat} : (s.renewGran core grove b off).Inv := by
  unfold State.renewGran
  split
  · exact h.modCore
  · exact h
theorem State.Inv.renewIssue {s : State} (h : s.Inv) {x : Ctx} {l : Nat} {b : Buf} {off len : Nat} : (s.renewIssue x l b off len).Inv :=
  .ite h h.issueOp

/-! Control flow, the end of strands, traps and tasks -/

theorem State.Inv.jump {s : State} (h : s.Inv) {x : Ctx} {ls : List Nat} {pc : Pc} : (s.jump x ls pc).Inv := h.setPcs
theorem State.Inv.jumpTo {s : State} (h : s.Inv) {x : Ctx} {a : Nat} {ls : List Nat} : (s.jumpTo x a ls).Inv := h.foldl fun _ _ h₁ => h₁.setPc
theorem State.Inv.writeLink {s : State} (h : s.Inv) {x : Ctx} {d : Nat} {ls : List Nat} : (s.writeLink x d ls).Inv := h.onCohort
theorem State.Inv.exitLanes {s : State} (h : s.Inv) {x : Ctx} {ls : List Nat} : (s.exitLanes x ls).Inv :=
  (h.foldl fun _ _ h₁ => h₁.exitLane).closeFrames
theorem State.Inv.spawnOne {s : State} (h : s.Inv) {x : Ctx} {entry : Pc} {a n l : Nat} : (s.spawnOne x entry a n l).Inv := by
  unfold State.spawnOne
  dsimp only
  split
  · exact h
  · exact h.quiet.modStrand.addRecord
theorem State.Inv.execBra {s : State} (h : s.Inv) {g : Guard} {imm : Word} : (execBra g imm s).Inv := h.exec fun _ _ _ h₁ => h₁.jump
theorem State.Inv.execBrx {s : State} (h : s.Inv) {g : Guard} {a : Nat} : (execBrx g a s).Inv := h.exec fun _ _ _ h₁ => h₁.jumpTo
theorem State.Inv.execCall {s : State} (h : s.Inv) {g : Guard} {d : Nat} {imm : Word} : (execCall g d imm s).Inv :=
  h.exec fun _ _ _ h₁ => h₁.writeLink.jump
theorem State.Inv.execCallx {s : State} (h : s.Inv) {g : Guard} {d a : Nat} : (execCallx g d a s).Inv := h.exec fun _ _ _ h₁ => h₁.writeLink.jumpTo
theorem State.Inv.execRet {s : State} (h : s.Inv) {g : Guard} {a : Nat} : (execRet g a s).Inv := h.exec fun _ _ _ h₁ => h₁.jumpTo
theorem State.Inv.execExit {s : State} (h : s.Inv) {g : Guard} : (execExit g s).Inv := h.exec fun _ _ _ h₁ => h₁.exitLanes
theorem State.Inv.execTrap {s : State} (h : s.Inv) {g : Guard} {n : Nat} : (execTrap g n s).Inv := h.exec fun _ _ _ h₁ => h₁.trap
theorem State.Inv.execBrk {s : State} (h : s.Inv) {g : Guard} {n : Nat} : (execBrk g n s).Inv := h.exec fun _ _ _ h₁ => .ite h₁.debugHalt h₁
theorem State.Inv.execYield {s : State} (h : s.Inv) {g : Guard} : (execYield g s).Inv := h.exec fun _ _ _ h₁ => h₁
theorem State.Inv.execSpawn {s : State} (h : s.Inv) {g : Guard} {imm : Word} {a n : Nat} : (execSpawn g imm a n s).Inv :=
  h.exec fun _ _ _ h₁ => h₁.foldl fun _ _ h₂ => h₂.spawnOne
theorem State.Inv.execTret {s : State} (h : s.Inv) {g : Guard} : (execTret g s).Inv :=
  h.exec fun _ _ _ h₁ => ((h₁.foldl fun _ _ h₂ => h₂.exitLane).trapReturn).closeFrames
theorem State.Inv.execHalt {s : State} (h : s.Inv) {g : Guard} : (execHalt g s).Inv := h.exec fun _ _ _ h₁ => h₁.debugHalt

/-! Invalidation and the CSR -/

theorem State.Inv.dropL1d {s : State} (h : s.Inv) {core : Nat} {rs : List (Nat × Nat)} : (s.dropL1d core rs).Inv := h.modCore
theorem State.Inv.setCsr {s : State} (h : s.Inv) {n : Nat} {v : DWord} : (s.setCsr n v).Inv := .ite h.quiet h

/-! Waits, barriers, futures and watched memory -/

theorem State.Inv.modTags {s : State} (h : s.Inv) {grove : Nat} {f : DWord → DWord} : (s.modTags grove f).Inv := h.modGrove
theorem State.Inv.ffr {s : State} (h : s.Inv) {x : Ctx} {mask : Nat → DWord} {ls : List Nat} : (s.ffr x mask ls).1.Inv := by
  induction ls generalizing s with
  | nil => exact h
  | cons l t ih =>
    unfold State.ffr
    dsimp only
    split
    · exact ih h
    · exact ih h.modTags
theorem State.Inv.barInit {s : State} (h : s.Inv) {core grove off : Nat} {bs : List Byte} : (s.barInit core grove off bs).Inv :=
  h.spWrite.fireGran.fireBarrier
theorem State.Inv.arrive {s : State} (h : s.Inv) {core grove off : Nat} : (s.arrive core grove off).2.Inv :=
  .ite h.spWrite.fireGran.fireBarrier h.spWrite.fireGran
theorem State.Inv.arrivals {s : State} (h : s.Inv) {x : Ctx} {off : Nat → Nat} {ls : List Nat} : (s.arrivals x off ls).1.Inv := by
  induction ls generalizing s with
  | nil => exact h
  | cons l t ih => exact ih h.arrive
theorem State.Inv.cellWrite {s : State} (h : s.Inv) {core grove off : Nat} {bs : List Byte} : (s.cellWrite core grove off bs).Inv :=
  h.spWrite.fireGran
theorem State.Inv.fill1 {s : State} (h : s.Inv) {core grove off : Nat} {v : DWord} : (s.fill1 core grove off v).2.Inv := by
  unfold State.fill1
  split
  · exact h.cellWrite
  · exact h
theorem State.Inv.fills {s : State} (h : s.Inv) {x : Ctx} {off : Nat → Nat} {v : Nat → DWord} {ls : List Nat} : (s.fills x off v ls).1.Inv := by
  induction ls generalizing s with
  | nil => exact h
  | cons l t ih => exact ih h.fill1
theorem State.Inv.execWaittS {s : State} (h : s.Inv) {g : Guard} {all : Bool} {mask : BitVec 12} : (execWaittS g all mask s).Inv :=
  h.exec fun _ _ _ h₁ => h₁
theorem State.Inv.execWaitcS {s : State} (h : s.Inv) {g : Guard} {cls : CClass} {n : Nat} : (execWaitcS g cls n s).Inv := h.exec fun _ _ _ h₁ => h₁
theorem State.Inv.execWaitt {s : State} (h : s.Inv) {g : Guard} {all : Bool} {a : Src} : (execWaitt g all a s).Inv := h.exec fun _ _ _ h₁ => h₁
theorem State.Inv.execWaitv {s : State} (h : s.Inv) {g : Guard} {a : Nat} {b : Src} : (execWaitv g a b s).Inv := h.exec fun _ _ _ h₁ => h₁
theorem State.Inv.execWaitc {s : State} (h : s.Inv) {g : Guard} {cls : CClass} {n : Nat} : (execWaitc g cls n s).Inv := h.exec fun _ _ _ h₁ => h₁
theorem State.Inv.execFfr {s : State} (h : s.Inv) {g : Guard} {pc d : Nat} {a : Src} : (execFfr g pc d a s).Inv :=
  h.exec fun _ _ _ h₁ => h₁.ffr.onCohort
theorem State.Inv.execTclr {s : State} (h : s.Inv) {g : Guard} {a : Src} : (execTclr g a s).Inv :=
  h.exec fun _ _ _ h₁ => h₁.foldl fun _ _ h₂ => h₂.modTags
theorem State.Inv.execBarinit {s : State} (h : s.Inv) {g : Guard} {a : Nat} {imm : Word} {b : Nat} : (execBarinit g a imm b s).Inv :=
  h.exec fun _ _ _ h₁ => .ite (h₁.foldl fun _ _ h₂ => h₂.barInit) (h₁.foldl fun _ _ h₂ => h₂.holdSp)
theorem State.Inv.execBararr {s : State} (h : s.Inv) {g : Guard} {d a : Nat} {imm : Word} : (execBararr g d a imm s).Inv :=
  h.exec fun _ _ _ h₁ => .ite h₁.arrivals.onCohort (h₁.foldl fun _ _ h₂ => h₂.holdSp)
theorem State.Inv.execBarwait {s : State} (h : s.Inv) {g : Guard} {a : Nat} {imm : Word} {b : Nat} : (execBarwait g a imm b s).Inv :=
  h.exec fun _ _ _ h₁ => h₁
theorem State.Inv.execFwait {s : State} (h : s.Inv) {g : Guard} {d a : Nat} {imm : Word} {cellA : Bool} {sc : Scope} :
    (execFwait g d a imm cellA sc s).Inv := h.exec fun _ _ _ h₁ => .ite h₁.onCohort h₁
theorem State.Inv.execFfill {s : State} (h : s.Inv) {g : Guard} {d a : Nat} {imm : Word} {b : Nat} {cellA : Bool} {sc : Scope} :
    (execFfill g d a imm b cellA sc s).Inv := h.exec fun _ _ _ h₁ => .ite (.ite h₁.fills.onCohort (h₁.foldl fun _ _ h₂ => h₂.holdSp)) h₁.gIssue
theorem State.Inv.execFreset {s : State} (h : s.Inv) {g : Guard} {a : Nat} {imm : Word} {cellA : Bool} {sc : Scope} :
    (execFreset g a imm cellA sc s).Inv :=
  h.exec fun _ _ _ h₁ => .ite (.ite (h₁.foldl fun _ _ h₂ => h₂.cellWrite) (h₁.foldl fun _ _ h₂ => h₂.holdSp)) h₁.gIssue
theorem State.Inv.execParkw {s : State} (h : s.Inv) {g : Guard} {a : Nat} {imm : Word} {b c : Nat} {cc : Cc} {w : Bool} {ord : Ord} {sc : Scope} :
    (execParkw g a imm b c cc w ord sc s).Inv := h.exec fun _ _ _ h₁ => h₁

/-! Memory operations perform and complete -/

theorem State.Inv.acquireOp {s : State} (h : s.Inv) {o : MemOp} : (s.acquireOp o).Inv := h.foldl fun _ _ h₁ => h₁.acquire
theorem State.Inv.tellDone {s : State} (h : s.Inv) {o : MemOp} {gone : Bool} : (s.tellDone o gone).Inv :=
  h.foldl fun _ _ h₁ => by dsimp only; split; exacts [h₁.modStrand, h₁.modStrand.unpend.fireCounter]
theorem State.Inv.retireOp {s : State} (h : s.Inv) {o : MemOp} : (s.retireOp o).Inv := (State.Inv.quiet (.ite h.acquireOp h)).tellDone
theorem State.Inv.linger {s : State} (h : s.Inv) {o : MemOp} {stores : List Nat} : (s.linger o stores).Inv := h.quiet.tellDone
theorem State.Inv.settleFences {s : State} (h : s.Inv) {k : Nat} : (s.settleFences k).Inv := by
  induction k generalizing s with
  | zero => exact h
  | succ k ih =>
    unfold State.settleFences
    split
    · exact h
    · exact ih h.retireOp
theorem State.Inv.opDone {s : State} (h : s.Inv) {o : MemOp} : (s.opDone o).Inv := h.retireOp.settleFences
theorem State.Inv.loadDone {s : State} (h : s.Inv) {o : MemOp} : (s.loadDone o).Inv := .ite h.opDone h.linger
theorem State.Inv.engGot {s : State} (h : s.Inv) {o : MemOp} {r : List Byte × Option Flt} : (s.engGot o r).Inv := h.modCore
theorem State.Inv.engFailed {s : State} (h : s.Inv) {o : MemOp} {f : Flt} : (s.engFailed o f).Inv := h.modCore
theorem State.Inv.halfLine {s : State} (h : s.Inv) {o : BulkOp} {pa len : Nat} : (s.halfLine o pa len).1.Inv := by
  unfold State.halfLine
  dsimp only
  split
  · exact h
  · split
    · exact h.quiet
    · exact h
theorem State.Inv.halfHeld {s : State} (h : s.Inv) {o : MemOp} : (s.halfHeld o).Inv := by
  unfold State.halfHeld
  split
  · exact h
  · exact h.halfLine.modCore
theorem State.Inv.landOp {s : State} (h : s.Inv) {o : MemOp} {ws : List Word} : (s.landOp o ws).Inv :=
  .ite ((h.foldl fun _ _ h₁ => h₁.landWords).modCore) (h.foldl fun _ _ h₁ => h₁.landWords)
theorem State.Inv.failOp {s : State} (h : s.Inv) {o : MemOp} {f : Flt} : (s.failOp o f).Inv :=
  .ite (h.foldl fun _ _ h₁ => h₁.landPoison) ((h.foldl fun _ _ h₁ => h₁.landPoison).foldl fun _ _ h₁ => h₁.lostPoison)
theorem State.Inv.readL2 {s : State} (h : s.Inv) {o : MemOp} : (s.readL2 o).1.Inv := by
  unfold State.readL2
  split
  · exact h
  · exact h.dropSectors
theorem State.Inv.readL1 {s : State} (h : s.Inv) {o : MemOp} : (s.readL1 o).1.Inv := by
  unfold State.readL1
  dsimp only
  split <;> exact h.modCore.trimL1d
theorem State.Inv.outBytes {s : State} (h : s.Inv) {size : Nat} {data : List Byte} : (s.outBytes size data).1.Inv := by
  unfold State.outBytes
  split
  · exact h
  · exact h.takeFree
theorem State.Inv.cxlPoison {s : State} (h : s.Inv) {pa status : Nat} : (s.cxlPoison pa status).Inv := .ite h.log h
theorem State.Inv.loadBytes {s : State} (h : s.Inv) {o : MemOp} {data : List Byte} {status : Nat} : (s.loadBytes o data status).1.Inv := by
  unfold State.loadBytes
  split
  · exact h
  · dsimp only
    split
    · split
      · split
        · exact h.readL2
        · exact h.readL1
      · split
        · exact h
        · split
          · exact h.cxlPoison
          · exact h.outBytes
    · split
      · split
        · exact h.readL2
        · exact h.readL1
      · split
        · exact h
        · split
          · exact h.cxlPoison
          · exact h.outBytes
theorem State.Inv.complete {s : State} (h : s.Inv) {tag status : Nat} {bs : List Byte} : (s.complete tag status bs).Inv := .ite h.quiet h
theorem State.Inv.hostGot {s : State} (h : s.Inv) {o : MemOp} {r : Except Flt (List Byte)} : (s.hostGot o r).Inv := by
  unfold State.hostGot
  dsimp only
  split
  · exact h.complete
  · exact .ite h.complete h.addUnit
theorem State.Inv.unitGot {s : State} (h : s.Inv) {o : MemOp} {r : Except Flt (List Byte)} : (s.unitGot o r).Inv := h.quiet
theorem State.Inv.cellGot {s : State} (h : s.Inv) {o : MemOp} {r : Except Flt (List Byte)} : (s.cellGot o r).Inv := by
  unfold State.cellGot
  split
  · exact h
  · split
    · exact h
    · split
      · exact h
      · exact h.wakeAs
theorem State.Inv.landLoad {s : State} (h : s.Inv) {o : MemOp} {data : List Byte} {status : Nat} : (s.landLoad o data status).Inv := by
  unfold State.landLoad
  extract_lets s₁
  have h₁ : s₁.Inv := .ite h.acquireOp h
  split
  next s₂ r hread =>
  have h₂ : s₂.Inv := by
    refine State.Inv.fst ?_ hread
    split
    · split <;> exact h₁
    · exact h₁.loadBytes
  extract_lets s₃
  have h₃ : s₃.Inv := .ite h₂.forward h₂
  refine .ite h₃.hostGot.opDone (.ite h₃.unitGot.opDone (.ite h₃.opDone.cellGot ?_))
  split
  · exact State.Inv.loadDone (.ite h₃.engGot h₃.landOp)
  · exact State.Inv.opDone (.ite h₃.engGot h₃.failOp)
theorem State.Inv.stage {s : State} (h : s.Inv) {launch pa : Nat} {leaf : DWord} {bs : List Byte} : (s.stage launch pa leaf bs).Inv := by
  unfold State.stage
  dsimp only
  split
  · exact h.modLaunch
  · exact .ite h.modLaunch.terminate h.modLaunch
theorem State.Inv.putHome {s : State} (h : s.Inv) {o : MemOp} {bs : List Byte} : (s.putHome o bs).Inv := .ite h.stage (.ite h.keyedWrite h)
theorem State.Inv.atHome {s : State} (h : s.Inv) {o : MemOp} {data : List Byte} : (s.atHome o data).1.Inv := by
  unfold State.atHome
  split
  · exact h
  · split
    · split
      split <;> exact h.outBytes.fst
    · split
      · exact h
      · extract_lets staged old
        split
        · exact h
        · exact State.Inv.dropSectors (by split; exacts [h.putHome, h])
theorem State.Inv.atHomeTwin {s : State} (h : s.Inv) {o : MemOp} {lead : Nat} {data : List Byte} : (s.atHomeTwin o lead data).1.Inv := by
  unfold State.atHomeTwin
  split
  · split
    · split
      · exact h.forward
      · exact h.terminate
    · dsimp only
      split
      · exact h.atHome.forward
      · exact h.atHome.forward.quiet
  · exact h.atHome
theorem State.Inv.fireFwd {s : State} (h : s.Inv) {lead : Nat} : (s.fireFwd lead).Inv := by
  unfold State.fireFwd
  split
  · exact h
  · exact h.fire
theorem State.Inv.performAtomic {s : State} (h : s.Inv) {o : MemOp} {data : List Byte} : (s.performAtomic o data).1.Inv := by
  unfold State.performAtomic
  split
  · split <;> exact h
  · split
    · exact h.atHomeTwin.fireFwd
    · exact h.atHome
theorem State.Inv.recordFailed {s : State} (h : s.Inv) {o : MemOp} {f : Flt} : (s.recordFailed o f).Inv :=
  .ite (.ite h.engGot h.engFailed) (.ite h.signalFails (.ite h.logRec.restage h.logRec))
theorem State.Inv.setOp {s : State} (h : s.Inv) {o : MemOp} : (s.setOp o).Inv := h.quiet
theorem State.Inv.holdStore {s : State} (h : s.Inv) {o : MemOp} {lead : Nat} {trailing : Bool} : (s.holdStore o lead trailing).Inv := h.quiet
theorem State.Inv.fireSlack {s : State} (h : s.Inv) {lead : Nat} : (s.fireSlack lead).Inv := by
  unfold State.fireSlack
  split
  · exact h
  · exact .ite h.fire h
theorem State.Inv.performStore {s : State} (h : s.Inv) {o : MemOp} : (s.performStore o).Inv := by
  unfold State.performStore
  split
  · exact h.holdStore
  · exact .ite h.writeSpace3 (.ite h.toHost (.ite (.ite h.recordFailed h) (.ite (.ite h h.recordFailed) (.ite h.putHome (.ite h.putHome.halfHeld.writeThrough h.putHome.writeThrough)))))
theorem State.Inv.sendOp {s : State} (h : s.Inv) {o : MemOp} : (s.sendOp o).1.Inv := h.takeOpid.sendRequest.setOp
theorem State.Inv.onceSent {s : State} (h : s.Inv) {o : MemOp} : (s.onceSent o).1.Inv := by
  unfold State.onceSent
  split
  · exact h.sendOp
  · exact h
theorem State.Inv.spPerform {s : State} (h : s.Inv) {c : Nat} {o : MemOp} {op : SpOp} {b : Buf} : (s.spPerform c o op b).1.Inv := by
  unfold State.spPerform
  split
  · exact h
  · exact h.spStore1
  · exact h
  · exact h.barInit
  · exact h.arrive
  · exact h.fill1
  · exact h.cellWrite
  · exact h.spAlloc
  · exact h.spFree
  · exact h.spClear
theorem State.Inv.spLands {s : State} (h : s.Inv) {o : MemOp} {op : SpOp} {b : Buf} : (s.spLands o op b).Inv := by
  unfold State.spLands
  split
  · exact h.opDone
  · split
    · exact h
    · split
      · exact h.startSpSweep
      · split
        · exact State.Inv.opDone (.ite h.recordFailed h.failOp)
        · exact h.spPerform.landOp.opDone
theorem State.Inv.renewNext {s : State} (h : s.Inv) {o : MemOp} {b : Buf} : (s.renewNext o b).Inv := by
  unfold State.renewNext
  split
  · exact .ite h.renewGran.setOp h
  · exact h.opDone
theorem State.Inv.renewAll {s : State} (h : s.Inv) {o : MemOp} {b : Buf} : (s.renewAll o b).Inv := by
  unfold State.renewAll
  split
  · exact .ite ((h.foldl fun _ _ h₁ => h₁.renewGran).opDone) h
  · exact h.opDone
theorem State.Inv.landRes {s : State} (h : s.Inv) {o : MemOp} {data : List Byte} {status : Nat} : (s.landRes o data status).Inv := by
  unfold State.landRes
  split
  · exact h.landLoad
  · split
    · dsimp only
      split
      · exact (State.Inv.failOp (.ite h.acquireOp h)).opDone
      · exact (State.Inv.landOp (.ite h.acquireOp h)).opDone
    · exact h
theorem State.Inv.resultLands {s : State} (h : s.Inv) {id : Nat} {data : List Byte} {status : Nat} : (s.resultLands id data status).Inv := by
  unfold State.resultLands
  split
  · exact h
  · split
    · exact h.spLands
    · exact .ite h.onceSent.landRes h
theorem State.Inv.execResultLanding {s : State} (h : s.Inv) {id : Nat} {data : List Byte} {status : Nat} : (execResultLanding id data status s).Inv :=
  h.resultLands
theorem State.Inv.acceptStore {s : State} (h : s.Inv) {o : MemOp} : (s.acceptStore o).Inv := h.setOp.modStrand.fireCounter
theorem State.Inv.storePerforms {s : State} (h : s.Inv) {id : Nat} : (s.storePerforms id).Inv := by
  unfold State.storePerforms
  split
  · exact h
  · refine .ite h.opDone (.ite h.freezeAs (.ite h.snoop (.ite (.ite h.sendOp h) (.ite (.ite h (.ite h.performStore.acceptStore ?_)) (.ite ?_ h)))))
    · extract_lets t
      have ht : t.Inv := h.performStore.opDone
      split
      · exact ht.fireSlack
      · exact ht
    · split
      next t o' hdone =>
      have ht : t.Inv := by
        refine State.Inv.fst ?_ hdone
        split
        · exact h
        · exact h.performAtomic
      split
      · exact ht.recordFailed.opDone
      · exact ht.opDone
theorem State.Inv.execStorePerformed {s : State} (h : s.Inv) {id : Nat} : (execStorePerformed id s).Inv := h.storePerforms
theorem State.Inv.execAtomicAtHome {s : State} (h : s.Inv) {id : Nat} {data : List Byte} : (execAtomicAtHome id data s).Inv := by
  unfold Machine.execAtomicAtHome
  split
  · exact h
  · exact State.Inv.ite h.snoop (.ite h.onceSent.performAtomic.setOp h)
theorem State.Inv.execSprenewComplete {s : State} (h : s.Inv) {id : Nat} : (execSprenewComplete id s).Inv := by
  unfold Machine.execSprenewComplete
  split
  · split
    · exact h.renewAll
    · exact h
  · exact h
theorem State.Inv.dropCode {s : State} (h : s.Inv) {sc : Scope} {core va len part : Nat} : (s.dropCode sc core va len part).Inv := h.quiet
theorem State.Inv.tlbRemove {s : State} (h : s.Inv) {sc : Scope} {core : Nat} {fields : List Nat} : (s.tlbRemove sc core fields).Inv := h.quiet
theorem State.Inv.invalidate {s : State} (h : s.Inv) {o : MemOp} {kind : Nat} {act : State → State} (hact : ∀ t : State, t.Inv → (act t).Inv) :
    (s.invalidate o kind act).Inv := .ite ((h.foldl fun _ _ h₁ => h₁.post).setOp) (.ite h (hact s h).opDone)
theorem State.Inv.invAnswered {s : State} (h : s.Inv) {id src : Nat} : (s.invAnswered id src).Inv := h.quiet
theorem State.Inv.execCinvComplete {s : State} (h : s.Inv) {id : Nat} : (execCinvComplete id s).Inv := by
  unfold Machine.execCinvComplete
  split
  · exact State.Inv.ite (h.invalidate (fun _ h₁ => (by split; exacts [h₁.dropCode, h₁]))) h
  · exact h
theorem State.Inv.execTlbinvComplete {s : State} (h : s.Inv) {id : Nat} : (execTlbinvComplete id s).Inv := by
  unfold Machine.execTlbinvComplete
  split
  · exact State.Inv.ite (h.invalidate (fun _ h₁ => h₁.tlbRemove)) h
  · exact h

/-! The bulk engine -/

theorem State.Inv.setBulk {s : State} (h : s.Inv) {o : BulkOp} : (s.setBulk o).Inv := h.modCore
theorem State.Inv.engHold {s : State} (h : s.Inv) {o : BulkOp} {page : Nat} : (s.engHold o page).Inv := h.setBulk.joinWalk
theorem State.Inv.engAsk {s : State} (h : s.Inv) {o : BulkOp} {va pa : Nat} {leaf : DWord} {len : Nat} : (s.engAsk o va pa leaf len).Inv :=
  .ite h h.setBulk.pushUnit
theorem State.Inv.engAnswer {s : State} (h : s.Inv) {o : BulkOp} {va len : Nat} {data : List Byte} {status : Nat} :
    (s.engAnswer o va len data status).Inv := by
  unfold State.engAnswer
  split
  · exact .ite h h.resultLands
  · exact h
theorem State.Inv.bulkEnd {s : State} (h : s.Inv) {o : BulkOp} : (s.bulkEnd o).Inv := by
  unfold State.bulkEnd
  extract_lets launch s₁ staged s₂
  have h₁ : s₁.Inv := by
    unfold s₁
    split
    · exact h
    · exact h.logRec
  have h₂ : s₂.Inv := h₁.setBulk.finishTag
  exact .ite h₂.restage h₂
theorem State.Inv.burstFails {s : State} (h : s.Inv) {o : BulkOp} {seq : Nat} {b : Bit} {f : Flt} : (s.burstFails o seq b f).Inv := h.setBulk
theorem State.Inv.burstStart {s : State} (h : s.Inv) {core id : Nat} : (s.burstStart core id).Inv := by
  unfold State.burstStart
  split
  · exact h
  · extract_lets seq part t
    have ht : t.Inv := h.tookTurn
    refine .ite h (.ite h.freezeAs ?_)
    split
    extract_lets last
    split
    · exact ht.engHold
    · exact ht.burstFails
    · exact ht.engHold
    · exact ht.burstFails
    · exact ht.setBulk
theorem State.Inv.execBurstReadStart {s : State} (h : s.Inv) {core id : Nat} : (execBurstReadStart core id s).Inv := h.burstStart
theorem State.Inv.burstBorn {s : State} (h : s.Inv) {o : BulkOp} {seq : Nat} {bs : List Byte} : (s.burstBorn o seq bs).Inv :=
  h.quiet.setBulk.addRecord
theorem State.Inv.burstReturn {s : State} (h : s.Inv) {core id seq : Nat} {data : List Byte} {status : Nat} :
    (s.burstReturn core id seq data status).Inv := by
  unfold State.burstReturn
  split
  · exact h
  · split
    · exact h
    · split
      · split
        · exact h.burstBorn
        · exact h.burstFails
        · exact h.engHold
        · exact h.engAsk.engAnswer
theorem State.Inv.execBurstReturn {s : State} (h : s.Inv) {core id seq : Nat} {data : List Byte} {status : Nat} :
    (execBurstReturn core id seq data status s).Inv := h.burstReturn
theorem State.Inv.foldSector {s : State} (h : s.Inv) {o : BulkOp} {va : Nat} {bs : List Byte} : (s.foldSector o va bs).Inv := h.modStrand
theorem State.Inv.holdSectors {s : State} (h : s.Inv) {o : BulkOp} {lead : Nat} {trailing : Bool} {va pa : Nat} {leaf : DWord} {bs : List Byte} :
    (s.holdSectors o lead trailing va pa leaf bs).Inv := h.foldl fun _ _ h₁ => h₁.quiet
theorem State.Inv.localSector {s : State} (h : s.Inv) {o : BulkOp} {va pa : Nat} {leaf : DWord} {bs : List Byte} : (s.localSector o va pa leaf bs).1.Inv := by
  unfold State.localSector
  extract_lets launch staged held t x
  have ht : t.Inv := .ite h.stage (.ite h.pushStore (.ite h.keyedWrite h))
  refine State.Inv.dropSectors ?_
  unfold x
  split
  · exact ht
  · exact ht.halfLine
theorem State.Inv.sectorWrite {s : State} (h : s.Inv) {o : BulkOp} {va pa : Nat} {leaf : DWord} {bs : List Byte} :
    (s.sectorWrite o va pa leaf bs).1.Inv := by
  unfold State.sectorWrite
  split
  · exact h.holdSectors
  · split
    · split
      · exact h
      · exact h.localSector
    · split
      · exact h
      · exact .ite h.pushStore h.pushStore.storePerforms
theorem State.Inv.putSectors {s : State} (h : s.Inv) {o : BulkOp} {va : Nat} {bs : List Byte} : (s.putSectors o va bs).1.Inv := by
  unfold State.putSectors
  split
  · exact h.engHold.pair
  · exact h.setBulk.pair
  · extract_lets held
    split
    · exact h.freezeAs.pair
    · exact h.tookTurn.sectorWrite.setBulk.pair
theorem State.Inv.partStops {s : State} (h : s.Inv) {o : BulkOp} {r : EngRead} {data : List Byte} {status : Nat} : (s.partStops o r data status).1.Inv := by
  unfold State.partStops
  split
  · exact h
  · exact h.engHold.pair
  · exact h.engAsk.engAnswer.pair
  · exact h.setBulk.pair
theorem State.Inv.sectorStep {s : State} (h : s.Inv) {o : BulkOp} {data : List Byte} {status : Nat} : (s.sectorStep o data status).1.Inv := by
  unfold State.sectorStep
  split
  extract_lets next paired
  split
  · split
    · exact h.putSectors
    · exact h.engHold.pair
    · exact h.partStops
    · exact h.putSectors
  · exact h.partStops
theorem State.Inv.digestStep {s : State} (h : s.Inv) {o : BulkOp} {data : List Byte} {status : Nat} : (s.digestStep o data status).1.Inv := by
  unfold State.digestStep
  dsimp only
  split
  · exact h.partStops
  · exact h.partStops
  · split <;> exact h.setBulk
theorem State.Inv.digestEnd {s : State} (h : s.Inv) {o : BulkOp} : (s.digestEnd o).Inv := by
  unfold State.digestEnd
  dsimp only
  split
  · exact h.bulkEnd
  · split
    · exact h.bulkEnd
    · exact h.spWrite.fireGran.bulkEnd
theorem State.Inv.bulkClose {s : State} (h : s.Inv) {o : BulkOp} : (s.bulkClose o).Inv := by
  unfold State.bulkClose
  split
  · exact h
  · split
    · exact .ite h.bulkEnd h
    · exact h.digestEnd
    · exact h.bulkEnd
    · exact h.bulkEnd
    · exact h.bulkEnd
theorem State.Inv.bulkStep {s : State} (h : s.Inv) {o : BulkOp} {data : List Byte} {status : Nat} : (s.bulkStep o data status).1.Inv := by
  unfold State.bulkStep
  split
  · exact h
  · split
    · exact h.bulkClose
    · split
      · exact h.digestStep
      · exact h.sectorStep
theorem State.Inv.bulkTurn {s : State} (h : s.Inv) {core id : Nat} : (s.bulkTurn core id).Inv := .elim h fun _ => h.bulkStep
theorem State.Inv.bulkRun {s : State} (h : s.Inv) {core id status fuel : Nat} {data : List Byte} : (s.bulkRun core id data status fuel).Inv := by
  induction fuel generalizing s with
  | zero => exact h
  | succ fuel ih =>
    unfold State.bulkRun
    split
    · exact h
    · split
      · exact ih h.bulkStep.fst
      · exact h.bulkStep.fst
theorem State.Inv.bulkComplete {s : State} (h : s.Inv) {core id : Nat} {data : List Byte} {status : Nat} : (s.bulkComplete core id data status).Inv :=
  h.bulkRun
theorem State.Inv.execBulkOpComplete {s : State} (h : s.Inv) {core id : Nat} {data : List Byte} {status : Nat} :
    (execBulkOpComplete core id data status s).Inv := h.bulkComplete

/-! Collectives -/

theorem State.Inv.setColl {s : State} (h : s.Inv) {o : CollOp} : (s.setColl o).Inv := h.quiet
theorem State.Inv.collEnd {s : State} (h : s.Inv) {o : CollOp} {bits : Nat} : (s.collEnd o bits).Inv := h.setColl.finishTag
theorem State.Inv.collRec {s : State} (h : s.Inv) {comm launch n reason : Nat} : (s.collRec comm launch n reason).Inv := h.log
theorem State.Inv.commFail {s : State} (h : s.Inv) {comm reason : Nat} : (s.commFail comm reason).Inv := by
  unfold State.commFail
  dsimp only
  split
  · exact .ite h.quiet h.quiet.collRec
  · exact h.quiet.collRec.collEnd.foldl fun _ _ h₁ => h₁.collRec.collEnd
theorem State.Inv.commAbort {s : State} (h : s.Inv) {comm reason : Nat} : (s.commAbort comm reason).Inv := h.commFail.foldl fun _ _ h₁ => h₁.post
theorem State.Inv.hop {s : State} (h : s.Inv) {o : CollOp} {rank : Nat} {bs : List Byte} : (s.hop o rank bs).Inv :=
  .ite h (.ite h.commAbort (h.foldl fun _ _ h₁ => h₁.post1))
theorem State.Inv.collFault {s : State} (h : s.Inv) {o : CollOp} {r : CollRead} : (s.collFault o r).Inv := by
  unfold State.collFault
  split
  · exact h
  · exact h.setColl.joinWalk
  · exact .ite h.logRec.commAbort.restage h.logRec.commAbort
  · exact h.logRec.collEnd
theorem State.Inv.collUp {s : State} (h : s.Inv) {o : CollOp} : (s.collUp o).Inv :=
  .ite h (h.whenRead (fun _ h₁ => (by split; exacts [h₁.setColl.foldl fun _ _ h₂ => h₂.hop, h₁.collFault])))
theorem State.Inv.collWrite {s : State} (h : s.Inv) {o : CollOp} {ws : List (Nat × List Byte)} : (s.collWrite o ws).1.Inv := by
  induction ws generalizing s with
  | nil => exact h
  | cons w t ih =>
    unfold State.collWrite
    split
    · exact ih h.vaWrite.fst
    · exact h.vaWrite.fst
theorem State.Inv.collDown {s : State} (h : s.Inv) {o : CollOp} {bs : List Byte} : (s.collDown o bs).Inv := by
  unfold State.collDown
  extract_lets writes
  refine h.whenFree fun t ht => ?_
  split
  · exact ht.collWrite.fst.collFault
  · extract_lets kids u
    have hu : u.Inv := ht.collWrite.fst.foldl fun _ _ h₁ => h₁.hop
    exact .elim hu fun _ => hu.collEnd
theorem State.Inv.collTurn {s : State} (h : s.Inv) {id : Nat} : (s.collTurn id).Inv := by
  unfold State.collTurn
  split
  · exact h
  · split
    · exact h
    · dsimp only
      split
      · exact h.collUp
      · split
        · exact h.collUp.collDown
        · exact h.collUp
theorem State.Inv.execCollComplete {s : State} (h : s.Inv) {id : Nat} : (execCollComplete id s).Inv := h.collTurn
theorem State.Inv.takeHop {s : State} (h : s.Inv) {o : CollOp} {rank : Nat} {data : List Byte} : (s.takeHop o rank data).Inv :=
  .ite h (.ite h.commAbort (.ite h.commAbort (.ite h.setColl h)))
theorem State.Inv.execCollHopReceive {s : State} (h : s.Inv) {id rank : Nat} {data : List Byte} : (execCollHopReceive id rank data s).Inv :=
  State.Inv.elim h fun _ => h.takeHop
theorem State.Inv.hopPiece {s : State} (h : s.Inv) {src : Nat} {bs : List Byte} : (s.hopPiece src bs).Inv := h.quiet
theorem State.Inv.settleHops {s : State} (h : s.Inv) : s.settleHops.Inv :=
  h.foldl fun _ _ h₁ => by split; exacts [h₁, (by split; exacts [h₁, h₁.quiet.takeHop])]
theorem State.Inv.execCollHopTimeout {s : State} (h : s.Inv) {id : Nat} : (execCollHopTimeout id s).Inv := by
  unfold Machine.execCollHopTimeout
  split
  · exact h
  · exact State.Inv.ite h.commAbort h
theorem State.Inv.execCollAbort {s : State} (h : s.Inv) {comm reason : Nat} : (execCollAbort comm reason s).Inv :=
  State.Inv.ite h.commAbort h.commFail
theorem State.Inv.settleComms {s : State} (h : s.Inv) : s.settleComms.Inv := h.quiet

end Sys2Proof.Machine
end

section
/-! That the events of records, queues, launches and groves keep the invariant. -/
namespace Sys2Proof.Machine
set_option Elab.async false

/-! Bins, formation, forwarding and the waking of records -/

theorem State.Inv.formNow {s : State} (h : s.Inv) {core : Nat} {rids : List Nat} {b : Option Bin} : (s.formNow core rids b).Inv := by
  unfold State.formNow
  dsimp only
  split
  · exact h
  · split
    · exact State.Inv.form (by split; exacts [h.modCore, h])
    · exact h.needSweep
    · exact h
theorem State.Inv.formation {s : State} (h : s.Inv) {core : Nat} {idle : Bool} : (s.formation core idle).Inv := by
  unfold State.formation
  split
  · exact h.formNow
  · split
    · exact h.formNow
    · exact h
theorem State.Inv.execCohortFormation {s : State} (h : s.Inv) {core : Nat} {idle : Bool} : (execCohortFormation core idle s).Inv := h.formation
theorem State.Inv.execDrainAgeExpiry {s : State} (h : s.Inv) {core n : Nat} : (execDrainAgeExpiry core n s).Inv := by
  unfold Machine.execDrainAgeExpiry
  split
  · exact h
  · exact State.Inv.ite h.modCore h
theorem State.Inv.execCohortAgePromotion {s : State} (h : s.Inv) {core slot : Nat} : (execCohortAgePromotion core slot s).Inv := h.modCohort
theorem State.Inv.parkmapDone {s : State} (h : s.Inv) {core pc : Nat} : (s.parkmapDone core pc).Inv :=
  h.foldl fun _ _ h₁ => State.Inv.lostPoison (by split; exacts [h₁.modCore.discard, h₁.modCore])
theorem State.Inv.execParkmapFetchDone {s : State} (h : s.Inv) {core pc : Nat} : (execParkmapFetchDone core pc s).Inv := h.parkmapDone
theorem State.Inv.readBack {s : State} (h : s.Inv) {core rid : Nat} {r : Record} : (s.readBack core rid r).Inv := .ite h.putBack h
theorem State.Inv.execSpillReadback {s : State} (h : s.Inv) {core rid : Nat} : (execSpillReadback core rid s).Inv := by
  unfold Machine.execSpillReadback
  split
  · exact h
  · exact State.Inv.ite h.readBack h
theorem State.Inv.moveRecord {s : State} (h : s.Inv) {core rid dest : Nat} {r : Record} : (s.moveRecord core rid dest r).Inv := by
  unfold State.moveRecord
  extract_lets s₁ s₂
  have h₁ : s₁.Inv := h.modCore
  have h₂ : s₂.Inv := h₁.hiddenRelease.modStrand.invalidateL1
  exact h₂.putBack
theorem State.Inv.execRecordForward {s : State} (h : s.Inv) {core rid : Nat} : (execRecordForward core rid s).Inv := by
  unfold Machine.execRecordForward
  split
  · exact h
  · split
    · split
      · exact h.moveRecord
      · exact h
    · exact h
theorem State.Inv.execSchedulerForward {s : State} (h : s.Inv) {core rid dest : Nat} : (execSchedulerForward core rid dest s).Inv := by
  unfold Machine.execSchedulerForward
  split
  · exact h
  · exact State.Inv.ite h.moveRecord h
theorem State.Inv.execWaitEventFire {s : State} (h : s.Inv) {core rid : Nat} : (execWaitEventFire core rid s).Inv := by
  unfold Machine.execWaitEventFire
  split
  · exact h
  · exact State.Inv.ite h.fire h
theorem State.Inv.lineWritten {s : State} (h : s.Inv) {pa : Nat} {data : List Byte} : (s.lineWritten pa data).Inv :=
  h.foldl fun _ _ h₁ => (h₁.foldl fun _ _ h₂ => (by split; exacts [h₂, (by split; exacts [h₂, (by split; exacts [.ite h₂.placeWatch h₂, h₂.wakeAs])])])).asSet
theorem State.Inv.execL2WatchEvent {s : State} (h : s.Inv) {pa : Nat} {data : List Byte} : (execL2WatchEvent pa data s).Inv :=
  State.Inv.ite h.fireLine h.lineWritten
theorem State.Inv.execFormationStarved {s : State} (h : s.Inv) {core rid : Nat} : (execFormationStarved core rid s).Inv := by
  unfold Machine.execFormationStarved
  split
  · exact h
  · exact State.Inv.ite h.log.quiet h

/-! Queues, packets and time slices -/

theorem State.Inv.queueError {s : State} (h : s.Inv) {qid part reason d1 : Nat} : (s.queueError qid part reason d1).Inv := h.quiet.log.msix
theorem State.Inv.slotWatch {s : State} (h : s.Inv) {sl : Nat} {old : List Nat} {pa : Nat} : (s.slotWatch sl old pa).Inv := by
  unfold State.slotWatch
  dsimp only
  split
  · exact h.quiet.modPart
  · exact h.quiet
theorem State.Inv.watchSlot {s : State} (h : s.Inv) {sl : Nat} : (s.watchSlot sl).Inv := by
  unfold State.watchSlot
  split
  · exact h.quiet
  · exact h.quiet.foldl fun _ _ h₁ => h₁.slotWatch
theorem State.Inv.mapQueue {s : State} (h : s.Inv) {sl qid : Nat} : (s.mapQueue sl qid).Inv := by
  unfold State.mapQueue
  dsimp only
  split
  · exact h.unmapSlot.queueError
  · split
    · exact h.unmapSlot.queueError
    · split
      · exact h.unmapSlot.queueError
      · exact h.unmapSlot.quiet.watchSlot
theorem State.Inv.consume {s : State} (h : s.Inv) {sl : Nat} : (s.consume sl).Inv := by
  unfold State.consume
  split
  · exact h
  · extract_lets part va n sched t
    have ht : t.Inv := State.Inv.watchSlot h.quiet
    split
    · exact ht.vaWrite.fst
    · exact ht.vaWrite.fst.queueError
theorem State.Inv.refusePacket {s : State} (h : s.Inv) {sl : Nat} {q : QSlot} {b : List Byte} {off : Nat} : (s.refusePacket sl q b off).Inv :=
  h.whenFree fun _ h₁ => h₁.log.signal.consume
theorem State.Inv.readPacket {s : State} (h : s.Inv) {sl : Nat} : (s.readPacket sl).Inv := by
  unfold State.readPacket
  split
  · exact h
  · exact h.whenRead (fun _ h₁ => (by split; exacts [h₁.queueError, .ite h₁.queueError (.ite h₁ (h₁.whenRead (fun _ h₂ => (by split; exacts [h₂.queueError, h₂.whenRead (fun _ h₃ => (by split; exacts [h₃.quiet.watchSlot, h₃.refusePacket]))]))))]))
theorem State.Inv.execLaunchPacket {s : State} (h : s.Inv) {slot : Nat} : (execLaunchPacket slot s).Inv := h.readPacket
theorem State.Inv.startLaunch {s : State} (h : s.Inv) {sl : Nat} : (s.startLaunch sl).Inv := by
  unfold State.startLaunch
  split
  · exact h
  · split
    · exact h
    · exact .ite h (h.whenRead (fun _ h₁ => .ite h₁ (.ite h₁.refusePacket (h₁.whenFree (fun _ h₂ => h₂.quiet.consume)))))
theorem State.Inv.execLaunchStart {s : State} (h : s.Inv) {slot : Nat} : (execLaunchStart slot s).Inv := h.startLaunch
theorem State.Inv.passPacket {s : State} (h : s.Inv) {sl ty : Nat} : (s.passPacket sl ty).Inv := by
  unfold State.passPacket
  split
  · exact h
  · split
    · exact h
    · exact .ite h (h.whenRead (fun _ h₁ => .ite h₁ (h₁.whenFree (fun _ h₂ => h₂.signal.consume))))
theorem State.Inv.execBarrierPacket {s : State} (h : s.Inv) {slot : Nat} : (execBarrierPacket slot s).Inv := h.passPacket
theorem State.Inv.execSignalPacket {s : State} (h : s.Inv) {slot : Nat} : (execSignalPacket slot s).Inv := h.passPacket
theorem State.Inv.cycleCheck {s : State} (h : s.Inv) : s.cycleCheck.Inv := (h.foldl fun _ _ h₁ => .ite h₁.log h₁).quiet
theorem State.Inv.mapPending {s : State} (h : s.Inv) {fuel : Nat} {left : List Nat} : (s.mapPending fuel left).Inv := by
  induction fuel generalizing s left with
  | zero => exact h
  | succ fuel ih =>
    unfold State.mapPending
    split
    · exact h
    · exact ih (by split; exacts [h.mapQueue, h])
theorem State.Inv.sliceTurn {s : State} (h : s.Inv) : s.sliceTurn.Inv := by
  unfold State.sliceTurn
  refine .ite h (h.whenRead fun t ht => ?_)
  extract_lets sched s₁ s₂ off s₃ s₄
  have h₂ : s₂.Inv := ht.quiet.foldl fun _ _ h₁ => h₁.seeErr
  have h₃ : s₃.Inv := h₂.foldl fun _ _ h₁ => h₁.unmapSlot
  have h₄ : s₄.Inv := h₃.cycleCheck
  exact .ite h₄ h₄.mapPending
theorem State.Inv.execSliceBoundary {s : State} (h : s.Inv) : (execSliceBoundary s).Inv := h.sliceTurn

/-! Admission and placement of groves -/

theorem State.Inv.restoreAllocs {s : State} (h : s.Inv) {core grove : Nat} {allocs : List Alloc} {grans : List (Nat × Nat × Nat × Granule)} :
    (s.restoreAllocs core grove allocs grans).Inv := h.foldl fun _ _ h₁ => by split; exacts [h₁.carve.modCore, h₁]
theorem State.Inv.wakeStand {s : State} (h : s.Inv) {core : Nat} : (s.wakeStand core).Inv := h.quiet
theorem State.Inv.seat {s : State} (h : s.Inv) {key core : Nat} {wins : List Nat} : (s.seat key core wins).Inv := h.modCore.modGrove.wakeStand
theorem State.Inv.placeAllocs {s : State} (h : s.Inv) {key core : Nat} {p : Packet} : (s.placeAllocs key core p).Inv :=
  h.foldl fun _ _ h₁ => by dsimp only; split; exacts [h₁, (by split; exacts [h₁.carve, h₁])]
theorem State.Inv.initial {s : State} (h : s.Inv) {launch key core : Nat} {la : Launch} : (s.initial launch key core la).Inv :=
  h.foldl fun _ _ h₁ => h₁.foldl fun _ _ h₂ => h₂.quiet.addRecord
theorem State.Inv.placeOne {s : State} (h : s.Inv) {launch core : Nat} {la : Launch} {twin : Nat → Option (Nat × Bool)} : (s.placeOne launch core la twin).2.Inv := by
  unfold State.placeOne
  extract_lets n i gx
  split
  next key s₁ hkey =>
  have h₁ : s₁.Inv := State.Inv.snd h.modLaunch.fresh hkey
  extract_lets g s₂
  have h₂ : s₂.Inv := (State.Inv.seat h₁.quiet).placeAllocs.invalidateL1
  clear_value s₂
  dsimp only
  exact h₂.initial
theorem State.Inv.placeNext {s : State} (h : s.Inv) {launch core : Nat} {la : Launch} {trail : Option Nat} : (s.placeNext launch la core trail).Inv := by
  unfold State.placeNext
  extract_lets advance
  split
  · split
    next hone => exact (State.Inv.snd h.placeOne hone).quiet
  · split
    next hlead =>
    split
    next htrail =>
    have hone := State.Inv.snd h.placeOne hlead
    exact (State.Inv.snd hone.placeOne htrail).quiet
theorem State.Inv.admission {s : State} (h : s.Inv) {launch : Nat} : (s.admission launch).Inv := by
  unfold State.admission
  split
  · exact h
  · split
    · exact h
    · split
      · exact h
      · split
        · exact h.placeNext
        · split
          · exact h
          · split
            · exact h.startSpSweep
            · exact h
theorem State.Inv.execGroveAdmission {s : State} (h : s.Inv) {launch : Nat} : (execGroveAdmission launch s).Inv := h.admission

/-! Twin groves and the retirement of groves and launches -/

theorem State.Inv.releaseOne {s : State} (h : s.Inv) {launch lead core : Nat} {e : Held} : (s.releaseOne launch lead core e).Inv :=
  .ite h.pushStore.storePerforms h.pushStore
theorem State.Inv.dropHeld {s : State} (h : s.Inv) {lead : Nat} {w : Twin} : (s.dropHeld lead w).Inv :=
  h.foldl fun _ _ h₁ => .elim h₁ fun _ => h₁.foldl fun _ _ h₂ => h₂.dropSectors
theorem State.Inv.bindArrived {s : State} (h : s.Inv) {key n : Nat} : (s.bindArrived key n).Inv := by
  unfold State.bindArrived
  split
  · exact h
  · exact h.fire
theorem State.Inv.ckptDone {s : State} (h : s.Inv) {lead : Nat} {w : Twin} : (s.ckptDone lead w).Inv := by
  unfold State.ckptDone
  extract_lets n s₁ s₂ s₃
  have h₁ : s₁.Inv := h.dropHeld
  have h₂ : s₂.Inv := h₁.quiet
  have h₃ : s₃.Inv := h₂.bindArrived.bindArrived
  exact h₃.quiet
theorem State.Inv.rollOne {s : State} (h : s.Inv) {key : Nat} {v : Saved} : (s.rollOne key v).Inv := by
  unfold State.rollOne
  split
  · exact h
  · exact h.quiet.modGrove.restoreAllocs.foldl fun _ _ h₁ => h₁.putBack
theorem State.Inv.rollback {s : State} (h : s.Inv) {lead : Nat} {w : Twin} {part : Nat} : (s.rollback lead w part).Inv :=
  h.rollOne.rollOne.quiet.modPart
theorem State.Inv.compareTwin {s : State} (h : s.Inv) {lead : Nat} {good : State → Twin → Nat → State}
    (hgood : ∀ (t : State) (w : Twin) (part : Nat), t.Inv → (good t w part).Inv) : (s.compareTwin lead good).Inv := by
  unfold State.compareTwin
  split
  · extract_lets part inj copy a b low hit t
    have ht : t.Inv := .ite h.quiet h
    split
    · exact h
    · split
      · exact h.startSpSweep
      · split
        · exact hgood _ _ _ ht
        · exact .ite ht.modPart.terminate ht.modPart.log.rollback
  · exact h
theorem State.Inv.unitWrite {s : State} (h : s.Inv) {launch part pa : Nat} {leaf : DWord} {bs : List Byte} : (s.unitWrite launch part pa leaf bs).Inv :=
  .ite h.pushStore.storePerforms h.anyWrite
theorem State.Inv.commit {s : State} (h : s.Inv) {launch : Nat} {la : Launch} : (s.commit launch la).Inv := h.foldl fun _ _ h₁ => h₁.unitWrite
theorem State.Inv.settleLaunch {s : State} (h : s.Inv) {launch : Nat} {la : Launch} : (s.settleLaunch launch la).Inv :=
  .ite h (h.whenFree (fun _ h₁ => h₁.signal.quiet))
theorem State.Inv.endLaunch {s : State} (h : s.Inv) {launch : Nat} : (s.endLaunch launch).Inv := by
  unfold State.endLaunch
  split
  · exact h
  · exact .ite h.commit.modLaunch.settleLaunch h
theorem State.Inv.settleEnded {s : State} (h : s.Inv) : s.settleEnded.Inv := h.foldl fun _ _ h₁ => .ite h₁.settleLaunch h₁
theorem State.Inv.removeGrove {s : State} (h : s.Inv) {key : Nat} : (s.removeGrove key).Inv := by
  unfold State.removeGrove
  split
  · exact h
  · exact h.quiet.restStand
theorem State.Inv.pairDone {s : State} (h : s.Inv) {lead : Nat} {w : Twin} {launch : Nat} : (s.pairDone lead w launch).Inv :=
  h.dropHeld.removeGrove.removeGrove.quiet.endLaunch
theorem State.Inv.afterRelease {s : State} (h : s.Inv) {lead : Nat} : (s.afterRelease lead).Inv := by
  unfold State.afterRelease
  split
  · exact .ite h (.ite h.ckptDone h.pairDone)
  · exact h
theorem State.Inv.release {s : State} (h : s.Inv) {lead how : Nat} {w : Twin} : (s.release lead how w).Inv := by
  unfold State.release
  split
  · exact h
  · exact (h.quiet.foldl fun _ _ h₁ => h₁.releaseOne).afterRelease
theorem State.Inv.settleTwins {s : State} (h : s.Inv) : s.settleTwins.Inv := h.foldl fun _ _ h₁ => h₁.afterRelease
theorem State.Inv.checkpoint {s : State} (h : s.Inv) {lead : Nat} : (s.checkpoint lead).Inv := by
  unfold State.checkpoint
  split
  · exact h
  · exact .ite (h.compareTwin (fun _ _ _ h₁ => h₁.release)) h
theorem State.Inv.execCheckpointComplete {s : State} (h : s.Inv) {lead : Nat} : (execCheckpointComplete lead s).Inv := h.checkpoint
theorem State.Inv.retire {s : State} (h : s.Inv) {key : Nat} : (s.retire key).Inv := by
  unfold State.retire
  split
  · exact h
  · split
    · exact .ite h.removeGrove.endLaunch h
    · exact h
    · split
      · exact h
      · exact .ite (h.compareTwin (fun _ _ _ h₁ => h₁.release)) h
theorem State.Inv.execGroveRetirement {s : State} (h : s.Inv) {grove : Nat} : (execGroveRetirement grove s).Inv := h.retire

/-! Eviction and restore of groves -/

theorem State.Inv.without {s : State} (h : s.Inv) {core : Nat} {gs : List Nat} : (s.without core gs).Inv := h.quiet
theorem State.Inv.parkWhole {s : State} (h : s.Inv) {core sl l : Nat} : (s.parkWhole core sl l).Inv := by
  unfold State.parkWhole
  split
  · exact h
  · split
    · exact h
    · exact h.setCohort.addRecord
theorem State.Inv.stopFor {s : State} (h : s.Inv) {core sl key : Nat} : (s.stopFor core sl key).Inv := by
  unfold State.stopFor
  split
  · exact h
  · dsimp only
    split
    · exact h
    · split
      · exact ((h.foldl fun _ _ h₁ => h₁.parkWhole).modCore).stateLost
      · exact ((h.foldl fun _ _ h₁ => h₁.parkWhole).modCore).modGrove
theorem State.Inv.splitImage {s : State} (h : s.Inv) {st : Stopped} {key : Nat} {held : Bool} {put : State → Stopped → State}
    (hput : ∀ (t : State) (st : Stopped), t.Inv → (put t st).Inv) : (s.splitImage st key held put).Inv :=
  .ite h ((hput _ _ h).foldl fun _ _ h₁ => by split; exacts [h₁.addRecord, h₁.endStrand])
theorem State.Inv.splitImages {s : State} (h : s.Inv) {part key : Nat} : (s.splitImages part key).Inv :=
  (h.foldl fun _ _ h₁ => h₁.splitImage (fun _ _ h₂ => h₂.modPart)).foldl fun _ _ h₁ => h₁.splitImage fun _ _ h₂ => h₂.modPart
theorem State.Inv.dropKept {s : State} (h : s.Inv) {core key : Nat} : (s.dropKept core key).Inv := h.modCore
theorem State.Inv.evictBegin {s : State} (h : s.Inv) {launch key : Nat} : (s.evictBegin launch key).Inv := by
  unfold State.evictBegin
  split
  · exact h
  · exact h.modCore.modGrove.splitImages.dropKept.foldl fun _ _ h₁ => h₁.stopFor
theorem State.Inv.afterEvictions {s : State} (h : s.Inv) {launch : Nat} : (s.afterEvictions launch).Inv := h.foldl fun _ _ h₁ => .ite h₁.without h₁
theorem State.Inv.evictFor {s : State} (h : s.Inv) {launch : Nat} : (s.evictFor launch).Inv := by
  unfold State.evictFor
  split
  · exact h
  · split
    · exact h
    · split
      · exact h
      · exact h.foldl fun _ _ h₁ => h₁.evictBegin
theorem State.Inv.evictEnd {s : State} (h : s.Inv) {key : Nat} {g : Grove} {resident : Bool} : (s.evictEnd key g resident).Inv :=
  (State.Inv.modCore (.ite h h.quiet)).modGrove.restStand
theorem State.Inv.evictUndo {s : State} (h : s.Inv) {key : Nat} {g : Grove} : (s.evictUndo key g).Inv :=
  h.modGrove.modCore.foldl fun _ _ h₁ => h₁.resume
theorem State.Inv.takeMats {s : State} (h : s.Inv) {key : Nat} : (s.takeMats key).Inv := by
  unfold State.takeMats
  split
  · exact h
  · exact .ite h h.modCore.modGrove
theorem State.Inv.evictTurn {s : State} (h : s.Inv) {key : Nat} : (s.evictTurn key).Inv := by
  unfold State.evictTurn
  split
  · exact h
  · exact .ite h (.ite h.evictEnd h.evictUndo.freeze)
theorem State.Inv.execEvict {s : State} (h : s.Inv) {launch step : Nat} : (execEvict launch step s).Inv :=
  State.Inv.ite h.evictFor (h.foldl fun _ _ h₁ => h₁.takeMats.evictTurn)
theorem State.Inv.execEvictionOverBound {s : State} (h : s.Inv) {grove : Nat} : (execEvictionOverBound grove s).Inv := by
  unfold Machine.execEvictionOverBound
  split
  · exact h
  · exact State.Inv.ite h.logRec.modGrove h
theorem State.Inv.execEvictionAbandon {s : State} (h : s.Inv) {grove : Nat} : (execEvictionAbandon grove s).Inv := by
  unfold Machine.execEvictionAbandon
  split
  · exact h
  · exact State.Inv.ite h.terminate h
theorem State.Inv.reslotFrame {s : State} (h : s.Inv) {la : Launch} {f : Frame} {core old new : Nat} {mine : Nat → Bool} :
    (s.reslotFrame la f core old new mine).Inv := by
  unfold State.reslotFrame
  dsimp only
  split
  · exact h
  · split
    · exact h
    · exact h.vaWrite
theorem State.Inv.rejoin {s : State} (h : s.Inv) {core rid : Nat} : (s.rejoin core rid).Inv := by
  unfold State.rejoin
  split
  · exact h.joinWalk.modCore
  · exact h.wakeOne
  · exact h.wakeOne
  · exact h
theorem State.Inv.reseat {s : State} (h : s.Inv) {key core : Nat} {g : Grove} {v : Saved} : (s.reseat key core g v).Inv :=
  .ite h.modCore.modGrove.wakeStand ((State.Inv.modGrove (.ite h.modCore h)).seat.restoreAllocs)
theorem State.Inv.reload {s : State} (h : s.Inv) {core : Nat} {v : Saved} : (s.reload core v).Inv := h.modCore
theorem State.Inv.follow {s : State} (h : s.Inv) {key core : Nat} {g : Grove} : (s.follow key core g).Inv := by
  unfold State.follow
  extract_lets moved mine slot recs s₁ s₂ s₃ s₄ s₅ s₆ s₇ s₈ s₉
  have h₁ : s₁.Inv := .ite (h.foldl fun _ _ h => h.hiddenRelease) h
  have h₂ : s₂.Inv := h₁.modCore
  have h₃ : s₃.Inv := h₂.quiet
  have h₄ : s₄.Inv := h₃.foldl fun _ _ h => h.foldl fun _ _ h => h.reslotFrame
  have h₅ : s₅.Inv := h₄.quiet
  have h₆ : s₆.Inv := h₅.overStopped
  have h₇ : s₇.Inv := .ite h₆.invalidateL1 h₆
  have h₈ : s₈.Inv := h₇.foldl fun _ _ h => h.putBack
  have h₉ : s₉.Inv := .ite (h₈.foldl fun _ _ h => h.rejoin) h₈
  exact h₉.fire
theorem State.Inv.restoreOn {s : State} (h : s.Inv) {key core : Nat} : (s.restoreOn key core).Inv := by
  unfold State.restoreOn
  split
  · exact h
  · split
    · exact h
    · split
      · exact h.terminate
      · exact h.reseat.reload.follow.foldl fun _ _ h₁ => h₁.resume
theorem State.Inv.sweepFor {s : State} (h : s.Inv) {key core : Nat} : (s.sweepFor key core).Inv := .ite h.startSpSweep h
theorem State.Inv.execGroveRestore {s : State} (h : s.Inv) {grove core : Nat} : (execGroveRestore grove core s).Inv := by
  unfold Machine.execGroveRestore
  split
  · exact h
  · split
    · exact State.Inv.ite (h.whenFree (fun _ h₁ => h₁.restoreOn)) h.sweepFor
    · exact h
    · split
      · exact h
      · split
        · exact h
        · exact State.Inv.ite (h.whenFree (fun _ h₁ => h₁.restoreOn.restoreOn.quiet)) (.ite h.sweepFor.sweepFor h)

end Sys2Proof.Machine
end

section
/-! That the events of links, the host, power and the root of trust, and of the matrix engine, keep the invariant. -/
namespace Sys2Proof.Machine
set_option Elab.async false

/-! The Chaeri ports, flows and messages -/

theorem State.Inv.failRemote {s : State} (h : s.Inv) {o : MemOp} {status : Nat} : (s.failRemote o status).Inv :=
  .ite h.landLoad (.ite h.recordFailed.opDone ((State.Inv.failOp (.ite h.forward h)).opDone))
theorem State.Inv.answered {s : State} (h : s.Inv) {id status : Nat} {data : List Byte} : (s.answered id status data).Inv := by
  unfold State.answered
  split
  · exact h
  · refine .ite h.landLoad (.ite (.ite h (.ite h.failRemote h.storePerforms)) (.ite h (.ite h.failRemote ?_)))
    split
    next t o' hdone =>
    have ht : t.Inv := by
      refine State.Inv.fst ?_ hdone
      split
      · exact h
      · exact h.performAtomic
    exact .ite ht.setOp.storePerforms ht.setOp.resultLands
theorem State.Inv.execRemoteResponseTimeout {s : State} (h : s.Inv) {id : Nat} : (execRemoteResponseTimeout id s).Inv := by
  unfold Machine.execRemoteResponseTimeout
  split
  · exact h
  · exact State.Inv.ite h (.ite (.ite h.setOp.sendRequest h.failRemote) (.ite h.failRemote h.failRemote))
theorem State.Inv.setFlow {s : State} (h : s.Inv) {n : Nat} {f : Flow} : (s.setFlow n f).Inv := h.quiet
theorem State.Inv.flowRec {s : State} (h : s.Inv) {n fseq : Nat} : (s.flowRec n fseq).Inv := h.log
theorem State.Inv.breakColls {s : State} (h : s.Inv) {n : Nat} : (s.breakColls n).Inv := .ite h (h.foldl fun _ _ h₁ => h₁.commAbort)
theorem State.Inv.breakFlow {s : State} (h : s.Inv) {n : Nat} : (s.breakFlow n).Inv := .ite h h.setFlow.breakColls
theorem State.Inv.respond {s : State} (h : s.Inv) {pkg part opid token status : Nat} {bs : List Byte} : (s.respond pkg part opid token status bs).Inv :=
  h.post
theorem State.Inv.peerWrite {s : State} (h : s.Inv) {src part pa key token : Nat} {bs : List Byte} : (s.peerWrite src part pa key token bs).Inv :=
  .ite h (.ite (.ite h h.keyedWrite) (State.Inv.respond (.ite h h.keyedWrite)))
theorem State.Inv.keepOpid {s : State} (h : s.Inv) {flow opid : Nat} {bs : List Byte} : (s.keepOpid flow opid bs).Inv := h.quiet
theorem State.Inv.remoteAtomic {s : State} (h : s.Inv) {flow opid part pa op size key token : Nat} {data cmp : List Byte} :
    (s.remoteAtomic flow opid part pa op size key token data cmp).Inv := by
  unfold State.remoteAtomic
  extract_lets win
  split
  · exact h.respond
  · refine .ite h.respond (.ite h ?_)
    split
    · extract_lets t
      have ht : t.Inv := by
        unfold t
        split
        · exact h.keyedWrite
        · exact h
      exact State.Inv.respond (.ite ht ht.keepOpid)
    · exact h.respond
  · exact h
theorem State.Inv.remoteSignal {s : State} (h : s.Inv) {flow opid part pa key token : Nat} {failed : Bool} :
    (s.remoteSignal flow opid part pa key token failed).Inv := by
  unfold State.remoteSignal
  split
  · exact h
  · split
    · exact h.respond
    · split
      · exact h.signalWord.keepOpid.respond
      · exact h.respond
theorem State.Inv.execRemoteAtomicRequest {s : State} (h : s.Inv) {flow opid part pa op size key token : Nat} {data cmp : List Byte} :
    (execRemoteAtomicRequest flow opid part pa op size key token data cmp s).Inv := State.Inv.ite h (.ite h.remoteAtomic h.quiet)
theorem State.Inv.resendHeld {s : State} (h : s.Inv) {n : Nat} : (s.resendHeld n).Inv := h.setFlow.foldl fun _ _ h₁ => h₁.postMsg
theorem State.Inv.sourceBreak {s : State} (h : s.Inv) {n fseq : Nat} : (s.sourceBreak n fseq).Inv := h.post.flowRec.resendHeld
theorem State.Inv.flowEnds {s : State} (h : s.Inv) {n : Nat} : (s.flowEnds n).Inv := h.setFlow.flowRec.breakColls
theorem State.Inv.peerWatch {s : State} (h : s.Inv) {src part pa : Nat} : (s.peerWatch src part pa).Inv := .ite h h.countWatch.quiet
theorem State.Inv.timed {s : State} (h : s.Inv) {corr : Int} : (s.timed corr).Inv := .ite h (State.Inv.quiet (.ite h h.log))
theorem State.Inv.timing {s : State} (h : s.Inv) {src : Nat} {bs : List Byte} : (s.timing src bs).Inv := .ite h.post h
theorem State.Inv.timingAnswer {s : State} (h : s.Inv) {src : Nat} {bs : List Byte} : (s.timingAnswer src bs).Inv := .ite h h.timed
theorem State.Inv.hand {s : State} (h : s.Inv) {m : List Byte} : (s.hand m).Inv :=
  .ite h.peerWrite (.ite h.hopPiece (.ite h.schedule (.ite (.ite h (State.Inv.respond (.ite h.peerWatch h))) (.ite h.remoteAtomic (.ite h.flowEnds (.ite h.breakFlow (.ite h.answered (.ite h.remoteSignal (.ite h.tlbRemove.post (.ite h.dropCode.post (.ite h.invAnswered (.ite h.timing (.ite h.timingAnswer (.ite h.lineWritten h.quiet))))))))))))))
theorem State.Inv.give {s : State} (h : s.Inv) {m : List Byte} : (s.give m).Inv := .ite h.hand h.quiet
theorem State.Inv.settleWaiting {s : State} (h : s.Inv) : s.settleWaiting.Inv := h.quiet.foldl fun _ _ h₁ => h₁.give
theorem State.Inv.drain {s : State} (h : s.Inv) {n k : Nat} : (s.drain n k).Inv := by
  induction k generalizing s with
  | zero => exact h
  | succ k ih =>
    unfold State.drain
    dsimp only
    split
    · exact .ite h.setFlow h
    · exact ih (.ite h.setFlow.give h.setFlow)
theorem State.Inv.arriveMsg {s : State} (h : s.Inv) {m : List Byte} : (s.arriveMsg m).Inv := .ite h ((State.Inv.setFlow (.ite h.give h)).drain)
theorem State.Inv.setPort {s : State} (h : s.Inv) {n : Nat} {p : Port} : (s.setPort n p).Inv := h.quiet
theorem State.Inv.countPort {s : State} (h : s.Inv) {n hi lo : Nat} : (s.countPort n hi lo).Inv := h.quiet
theorem State.Inv.portRec {s : State} (h : s.Inv) {n sev cause lanes : Nat} : (s.portRec n sev cause lanes).Inv := h.log
theorem State.Inv.requeue {s : State} (h : s.Inv) {msgs : List (Nat × List Byte)} : (s.requeue msgs).Inv :=
  h.foldl fun _ _ h₁ => by split; exacts [h₁.quiet, h₁.breakFlow]
theorem State.Inv.wireOut {s : State} (h : s.Inv) {n : Nat} {fs : List (List Byte)} : (s.wireOut n fs).Inv := h.quiet
theorem State.Inv.control {s : State} (h : s.Inv) {n kind arg : Nat} : (s.control n kind arg).Inv := h.wireOut
theorem State.Inv.flowControl {s : State} (h : s.Inv) {n vc : Nat} : (s.flowControl n vc).Inv := .ite h.setPort.control (.ite h.setPort.control h)
theorem State.Inv.portDeliver {s : State} (h : s.Inv) {n : Nat} : (s.portDeliver n).Inv := by
  unfold State.portDeliver
  dsimp only
  split
  · exact h
  · split
    · exact h
    · exact h.setPort.flowControl.foldl fun _ _ h₁ => h₁.arriveMsg
theorem State.Inv.portEmpty {s : State} (h : s.Inv) {n k : Nat} : (s.portEmpty n k).Inv := by
  induction k generalizing s with
  | zero => exact h
  | succ k ih => exact ih h.portDeliver
theorem State.Inv.portDown {s : State} (h : s.Inv) {n cause : Nat} : (s.portDown n cause).Inv :=
  .ite h ((h.portEmpty.setPort.countPort.portRec.foldl fun _ _ h₁ => h₁.breakFlow).requeue)
theorem State.Inv.execPortRxTimeout {s : State} (h : s.Inv) {port : Nat} : (execPortRxTimeout port s).Inv := State.Inv.ite h.portDown h
theorem State.Inv.execLaneLoss {s : State} (h : s.Inv) {port : Nat} : (execLaneLoss port s).Inv := h.portDown
theorem State.Inv.execPortRetrainDone {s : State} (h : s.Inv) {port : Nat} {ok : Bool} : (execPortRetrainDone port ok s).Inv :=
  State.Inv.ite h (.ite h.countPort.setPort.portRec h.countPort.setPort)
theorem State.Inv.replayAsked {s : State} (h : s.Inv) {n : Nat} : (s.replayAsked n).Inv := .ite h.countPort.portDown h.countPort.setPort.control
theorem State.Inv.resend {s : State} (h : s.Inv) {n lseq : Nat} : (s.resend n lseq).Inv := .ite h.countPort.portDown h.countPort.setPort.wireOut
theorem State.Inv.portSend {s : State} (h : s.Inv) {n : Nat} : (s.portSend n).Inv := by
  unfold State.portSend
  dsimp only
  split
  · exact h
  · exact .ite h h.setPort.wireOut
theorem State.Inv.controlled {s : State} (h : s.Inv) {n : Nat} {payload : List Byte} : (s.controlled n payload).Inv := by
  unfold State.controlled
  dsimp only
  split
  · exact h.resend
  · exact h.setPort
  · exact h.setPort
  · exact h
theorem State.Inv.execFlitReceive {s : State} (h : s.Inv) {port : Nat} {flit : List Byte} : (execFlitReceive port flit s).Inv :=
  State.Inv.ite h (.ite h.setPort.replayAsked (.ite h.setPort.setPort.controlled (.ite h.setPort.setPort (.ite (.ite h.setPort.setPort.replayAsked h.setPort.setPort) h.setPort.setPort.setPort.flowControl))))
theorem State.Inv.execFlowGapTimeout {s : State} (h : s.Inv) {flow : Nat} : (execFlowGapTimeout flow s).Inv :=
  State.Inv.ite h h.setFlow.post.breakColls
theorem State.Inv.execBreakMessage {s : State} (h : s.Inv) {flow fseq : Nat} : (execBreakMessage flow fseq s).Inv :=
  State.Inv.ite (.ite h.sourceBreak h) h.flowEnds
theorem State.Inv.execNoRouteTimeout {s : State} (h : s.Inv) {pkg : Nat} : (execNoRouteTimeout pkg s).Inv :=
  State.Inv.ite h ((h.foldl fun _ _ h₁ => h₁.setFlow).foldl fun _ _ h₁ => .ite h₁.failRemote h₁)

/-! The host port -/

theorem State.Inv.logOnce {s : State} (h : s.Inv) {who p : Nat} {r : FaultRec} : (s.logOnce who p r).Inv := .ite h h.quiet.log
theorem State.Inv.inboundRec {s : State} (h : s.Inv) {f reason off : Nat} {pa : Option Nat} : (s.inboundRec f reason off pa).Inv := h.logOnce
theorem State.Inv.noExec {s : State} (h : s.Inv) : s.noExec.Inv := h.quiet
theorem State.Inv.hostStore {s : State} (h : s.Inv) {f va pa : Nat} {leaf : DWord} {data : List Byte} : (s.hostStore f va pa leaf data).Inv :=
  h.foldl fun _ _ h₁ => h₁.pushUnit
theorem State.Inv.hostFetch {s : State} (h : s.Inv) {f va pa : Nat} {leaf : DWord} {len tag : Nat} : (s.hostFetch f va pa leaf len tag).Inv :=
  h.pushUnit
theorem State.Inv.execHostInboundWrite {s : State} (h : s.Inv) {f off : Nat} {data : List Byte} : (execHostInboundWrite f off data s).Inv := by
  unfold Machine.execHostInboundWrite
  split
  · exact h
  · split
    · exact h.inboundRec
    · exact State.Inv.ite h.inboundRec (.ite h.hostStore h.anyWrite)
theorem State.Inv.execHostInboundRead {s : State} (h : s.Inv) {f bar off len tag : Nat} : (execHostInboundRead f bar off len tag s).Inv := by
  unfold Machine.execHostInboundRead
  split
  · exact h
  · split
    · exact h.complete
    · split
      · exact h
      · split
        · exact h.inboundRec.complete
        · exact State.Inv.ite h.inboundRec.complete (.ite h.hostFetch h.complete)
theorem State.Inv.execCxlMemRequest {s : State} (h : s.Inv) {write : Bool} {addr : Nat} {data : List Byte} : (execCxlMemRequest write addr data s).Inv :=
  State.Inv.ite h (.ite h.log.complete (.ite h.inboundRec.complete (.ite h.anyWrite.complete h.quiet.complete)))
theorem State.Inv.execBiSnoopResponse {s : State} (h : s.Inv) {line : Nat} : (execBiSnoopResponse line s).Inv := h.quiet
theorem State.Inv.execBiSnoopTimeout {s : State} (h : s.Inv) {line : Nat} : (execBiSnoopTimeout line s).Inv := State.Inv.ite h.quiet.log h
theorem State.Inv.execOutboundHostTimeout {s : State} (h : s.Inv) {id : Nat} : (execOutboundHostTimeout id s).Inv := by
  unfold Machine.execOutboundHostTimeout
  split
  · exact State.Inv.ite h.landLoad h
  · exact h
theorem State.Inv.linkDown {s : State} (h : s.Inv) : s.linkDown.Inv := h.quiet.foldl fun _ _ h₁ => h₁.resultLands
theorem State.Inv.execHostLinkDown {s : State} (h : s.Inv) : (execHostLinkDown s).Inv := h.linkDown
theorem State.Inv.execHotReset {s : State} (h : s.Inv) : (execHotReset s).Inv := h.quiet
theorem State.Inv.execAerError {s : State} (h : s.Inv) {f cls req : Nat} {bits : DWord} : (execAerError f cls req bits s).Inv :=
  State.Inv.ite h (.ite h.quiet.logOnce (.ite h.quiet.log h.quiet.log.linkDown))
theorem State.Inv.flr {s : State} (h : s.Inv) {p : Nat} : (s.flr p).Inv := h.quiet.foldl fun _ _ h₁ => h₁.terminate
theorem State.Inv.execVfFlr {s : State} (h : s.Inv) {f : Nat} : (execVfFlr f s).Inv := State.Inv.ite h h.flr.quiet
theorem State.Inv.execPfFlr {s : State} (h : s.Inv) : (execPfFlr s).Inv := by
  unfold Machine.execPfFlr
  extract_lets t
  have ht : t.Inv := h.foldl fun _ _ h₁ => h₁.flr
  clear_value t
  exact ht.quiet
theorem State.Inv.execSpdmRequest {s : State} (h : s.Inv) {index : Nat} : (execSpdmRequest index s).Inv := State.Inv.ite h h.quiet

/-! Boot, reset, power, clock and the time base -/

/-- The machine starts again with its memory unwritten, and its schedule goes on. -/
theorem State.Inv.blank {s : State} (h : s.Inv) : s.blank.Inv := ⟨reset_wf, by simpa [State.agendaOk, State.blank, rebase, List.all_map] using h.2⟩
theorem State.Inv.boot {s : State} (h : s.Inv) {b : Boot} : (s.boot b).Inv := h.blank.quiet
theorem State.Inv.packageReset {s : State} (h : s.Inv) {b : Boot} : (s.packageReset b).Inv := ⟨h.1, (h.boot (b := b)).2⟩
theorem State.Inv.execPowerGood {s : State} (h : s.Inv) {b : Boot} : (execPowerGood b s).Inv := State.Inv.ite h.boot h
theorem State.Inv.execMgmtPackageReset {s : State} (h : s.Inv) {b : Boot} : (execMgmtPackageReset b s).Inv := State.Inv.ite h h.packageReset
theorem State.Inv.execPowerRemoved {s : State} (h : s.Inv) : (execPowerRemoved s).Inv := h.blank.quiet
theorem State.Inv.execD3hotEntry {s : State} (h : s.Inv) : (execD3hotEntry s).Inv := State.Inv.ite h.quiet h
theorem State.Inv.execD3hotExit {s : State} (h : s.Inv) : (execD3hotExit s).Inv := State.Inv.ite h.quiet h
theorem State.Inv.execStandGate {s : State} (h : s.Inv) {stand : Nat} : (execStandGate stand s).Inv := State.Inv.ite h.quiet h
theorem State.Inv.clockDown {s : State} (h : s.Inv) : s.clockDown.Inv := h.quiet
theorem State.Inv.execPowerSample {s : State} (h : s.Inv) {amps watts : Nat} : (execPowerSample amps watts s).Inv :=
  State.Inv.ite h.quiet.clockDown (.ite h.quiet h.quiet)
theorem State.Inv.execClockRaise {s : State} (h : s.Inv) : (execClockRaise s).Inv := State.Inv.ite h.quiet h
theorem State.Inv.execThermalReport {s : State} (h : s.Inv) {die tj : Nat} : (execThermalReport die tj s).Inv :=
  State.Inv.ite h (.ite h.quiet.clockDown h.quiet)
theorem State.Inv.execThermalTrip {s : State} (h : s.Inv) {die tj : Nat} {b : Boot} : (execThermalTrip die tj b s).Inv :=
  State.Inv.ite h ((h.foldl fun _ _ h₁ => h₁.log).packageReset)
theorem State.Inv.telemetry {s : State} (h : s.Inv) {tick : Nat} : (s.telemetry tick).Inv := h.quiet
theorem State.Inv.execTimingMessage {s : State} (h : s.Inv) {corr : Int} : (execTimingMessage corr s).Inv := h.timed
theorem State.Inv.execTimeSyncLost {s : State} (h : s.Inv) : (execTimeSyncLost s).Inv := State.Inv.ite h.quiet.log h
theorem State.Inv.execTimeBaseExchange {s : State} (h : s.Inv) {master : Nat} : (execTimeBaseExchange master s).Inv := State.Inv.ite h h.quiet.post

/-! The mailbox of the root of trust -/

theorem State.Inv.reply {s : State} (h : s.Inv) {door : DWord} {off : Nat} {bs : List Byte} : (s.reply door off bs).Inv := h.quiet
theorem State.Inv.execMailboxAccessTable {s : State} (h : s.Inv) {target master i : Nat} {desc : BitVec 256} :
    (execMailboxAccessTable target master i desc s).Inv := State.Inv.ite h (.ite h.reply h.quiet.reply)
theorem State.Inv.execMailboxKeyLoad {s : State} (h : s.Inv) {slot : Nat} : (execMailboxKeyLoad slot s).Inv :=
  State.Inv.ite h (.ite h.reply h.quiet.reply)
theorem State.Inv.execForensicChallenge {s : State} (h : s.Inv) : (execForensicChallenge s).Inv := State.Inv.ite h h.quiet.reply
theorem State.Inv.forensicRec {s : State} (h : s.Inv) {p what keyid : Nat} : (s.forensicRec p what keyid).Inv := h.log
theorem State.Inv.clearPart {s : State} (h : s.Inv) {p : Nat} : (s.clearPart p).Inv := h.foldl fun _ _ h₁ => h₁.foldl fun _ _ h₂ => h₂.modCore
theorem State.Inv.execForensicUnlock {s : State} (h : s.Inv) : (execForensicUnlock s).Inv :=
  State.Inv.ite h (.ite h.quiet.clearPart.modPart.forensicRec.reply h.quiet.reply)
theorem State.Inv.execForensicRelock {s : State} (h : s.Inv) : (execForensicRelock s).Inv :=
  State.Inv.ite h (.ite h.modPart.forensicRec.reply h.reply)
theorem State.Inv.execIftRequest {s : State} (h : s.Inv) : (execIftRequest s).Inv :=
  State.Inv.ite h (h.whenRead (fun _ h₁ => (by split; exacts [h₁.log.reply, h₁.quiet.foldl fun _ _ h₂ => h₂.evictBegin])))
theorem State.Inv.execIftScanDone {s : State} (h : s.Inv) {stand : Nat} {fails : List (Nat × Nat)} : (execIftScanDone stand fails s).Inv :=
  State.Inv.ite h ((((h.foldl fun _ _ h₁ => h₁.log).log).quiet).reply)

/-! The matrix engine -/

theorem State.Inv.matStart {s : State} (h : s.Inv) {core : Nat} {latch : Bool} : (s.matStart core latch).Inv := by
  unfold State.matStart
  dsimp only
  split
  · exact h.modCore
  · exact h
theorem State.Inv.execMxlwStart {s : State} (h : s.Inv) {core : Nat} : (execMxlwStart core s).Inv := h.matStart
theorem State.Inv.execMxrunStart {s : State} (h : s.Inv) {core : Nat} : (execMxrunStart core s).Inv := h.matStart
theorem State.Inv.matEnd {s : State} (h : s.Inv) {core : Nat} {o : MatOp} : (s.matEnd core o).Inv := h.modCore.completeAll
theorem State.Inv.matPoison {s : State} (h : s.Inv) {o : MatOp} {f : Flt} : (s.matPoison o f).Inv := .ite h.restage h
theorem State.Inv.latchDone {s : State} (h : s.Inv) {core : Nat} {o : MatOp} : (s.latchDone core o).Inv := by
  unfold State.latchDone
  dsimp only
  split
  · exact h.modCore.matEnd
  · exact (State.Inv.matEnd (.ite h.modCore.logRec.logRec h.modCore.logRec)).matPoison
theorem State.Inv.execMxlwComplete {s : State} (h : s.Inv) {core : Nat} : (execMxlwComplete core s).Inv := by
  unfold Machine.execMxlwComplete
  split
  · exact h.latchDone
  · exact h
theorem State.Inv.modTile {s : State} (h : s.Inv) {core : Nat} {o : MatOp} {f : Tile → Tile} : (s.modTile core o f).Inv := h.modCore
theorem State.Inv.bumpTile {s : State} (h : s.Inv) {core : Nat} {o : MatOp} : (s.bumpTile core o).Inv := h.modTile.matEnd.fireTile
theorem State.Inv.acce {s : State} (h : s.Inv) {core : Nat} {o : MatOp} {f : Flt} : (s.acce core o f).Inv := h.modTile.logRec
theorem State.Inv.runRows {s : State} (h : s.Inv) {core coff k m : Nat} {o : MatOp} {w : WeightSlot} : (s.runRows core o w coff k m).1.Inv := by
  induction k generalizing s m with
  | zero => exact h
  | succ k ih =>
    unfold State.runRows
    dsimp only
    split
    · exact h.acce
    · exact h.acce
    · exact h.acce
    · exact ih (.ite h.spWrite.modTile h.spWrite)
theorem State.Inv.runDone {s : State} (h : s.Inv) {core : Nat} {o : MatOp} : (s.runDone core o).Inv := by
  unfold State.runDone
  dsimp only
  split
  · exact h.modTile.logRec.bumpTile
  · split
    · split
      · exact h.runRows.bumpTile.matPoison
      · exact h.runRows.bumpTile
    · exact h.modTile.logRec.bumpTile
  · exact h.matEnd
theorem State.Inv.execMxrunComplete {s : State} (h : s.Inv) {core : Nat} : (execMxrunComplete core s).Inv := by
  unfold Machine.execMxrunComplete
  split
  · exact State.Inv.ite h.runDone h
  · exact h
theorem State.Inv.zeroRows {s : State} (h : s.Inv) {core coff k m : Nat} {o : MatOp} : (s.zeroRows core o coff k m).Inv := by
  induction k generalizing s m with
  | zero => exact h
  | succ k ih =>
    unfold State.zeroRows
    dsimp only
    split
    · exact h.acce
    · exact ih h.spWrite
theorem State.Inv.execMxzeroComplete {s : State} (h : s.Inv) {core : Nat} : (execMxzeroComplete core s).Inv := by
  unfold Machine.execMxzeroComplete
  split
  · split
    · exact h.modTile.zeroRows.bumpTile
    · exact h.matEnd
    · exact h
  · exact h
theorem State.Inv.execMatrixStall {s : State} (h : s.Inv) {core id : Nat} : (execMatrixStall core id s).Inv := by
  unfold Machine.execMatrixStall
  split
  · exact h
  · exact State.Inv.ite h h.logRec.modCore
theorem State.Inv.execMatrixStallTerminate {s : State} (h : s.Inv) {core id : Nat} : (execMatrixStallTerminate core id s).Inv := by
  unfold Machine.execMatrixStallTerminate
  split
  · exact h
  · exact State.Inv.ite h.terminate h

end Sys2Proof.Machine
end

section
/-! That every plan, instruction and event, the choice of what is next and the step keep the invariant, so that no run stops (O59, O60). -/
namespace Sys2Proof.Machine
set_option Elab.async false

/-! Global memory instructions -/

theorem State.Inv.leadIssue {s : State} (h : s.Inv) {x : Ctx} {ls : List Nat} {va d : Nat} {size : Size} {sgn : Bool} {ord : Ord} {sc : Scope} :
    (s.leadIssue x ls va d size sgn ord sc).Inv := by
  unfold State.leadIssue
  split
  · exact h
  · exact h.gIssue
theorem State.Inv.addFence {s : State} (h : s.Inv) {x : Ctx} {l : Nat} {ord : Ord} {sc : Scope} {after : List Nat} : (s.addFence x l ord sc after).Inv :=
  h.addUnit.modStrand
theorem State.Inv.fenceOne {s : State} (h : s.Inv) {x : Ctx} {kind : FenceKind} {sc : Scope} {l : Nat} : (s.fenceOne x kind sc l).Inv := by
  unfold State.fenceOne
  extract_lets t mine seen all held host s₁ after
  have h₁ : s₁.Inv := .ite h (.ite h.addFence h.modStrand)
  exact .ite h₁ (.ite h₁ h₁.addFence)

/-! The P-form pair -/

theorem uniformPlan_keeps {g : Guard} {u : USlot} : (uniformPlan g u).Keeps := by
  unfold uniformPlan
  split
  · exact fun _ _ _ h => h
  all_goals exact fun _ _ _ h => h.onCohort
theorem vectorPlan_keeps {g : Guard} {v : VSlot} : (vectorPlan g v).Keeps := by
  unfold vectorPlan
  split
  case h_1 => exact fun _ _ _ h => h
  case h_23 => exact fun _ _ _ h => h.spLoads
  case h_24 => exact fun _ _ _ h => h.spStores
  all_goals exact fun _ _ _ h => h.onCohort
theorem State.Inv.execPformPair {s : State} (h : s.Inv) {g : Guard} {u : USlot} {v : VSlot} : (execPformPair g u v s).Inv :=
  h.exec fun _ _ _ h₁ => vectorPlan_keeps _ _ _ (uniformPlan_keeps _ _ _ h₁)

/-! The S-forms -/

theorem State.Inv.execBraS {s : State} (h : s.Inv) {g : Guard} {off : BitVec 18} : (execBraS g off s).Inv := h.exec fun _ _ _ h₁ => h₁.jump
theorem State.Inv.execExitS {s : State} (h : s.Inv) {g : Guard} : (execExitS g s).Inv := h.exec fun _ _ _ h₁ => h₁.exitLanes

/-! The plans that REP may repeat, and REP -/

theorem State.Inv.repMove {s : State} (h : s.Inv) {x : Ctx} {j count : Nat} {after : Pc} {ls leaving : List Nat} :
    (s.repMove x j count after ls leaving).Inv := h.onCohort
theorem State.Inv.repEnd {s : State} (h : s.Inv) {x : Ctx} {after : Pc} : (s.repEnd x after).Inv := h.onCohort
/-- Every plan that REP may repeat keeps the invariant: most write the issuing cohort alone. -/
theorem planOf_keeps {i : Instr} {p : Plan} (hp : planOf i = some p) : p.Keeps := by
  cases i <;> cases hp
  case nopS => exact fun _ _ _ h => h
  case ldS => exact fun _ _ _ h => h.gIssue
  case stS => exact fun _ _ _ h => h.gIssue
  case aldS => exact fun _ _ _ h => h.spLoads
  case astS => exact fun _ _ _ h => h.spStores
  case nop => exact fun _ _ _ h => h
  case fclass =>
    unfold planFclass
    split <;> exact fun _ _ _ h => h.onCohort
  case pmov =>
    unfold planPmov
    split <;> exact fun _ _ _ h => h.onCohort
  case vote =>
    unfold planVote
    split <;> exact fun _ _ _ h => h.onCohort
  case ld => exact fun _ _ _ h => h.gIssue
  case st => exact fun _ _ _ h => h.gIssue
  case ldu => exact fun _ _ _ h => h.leadIssue
  case atom => exact fun _ _ _ h => h.gIssue
  case atomcas => exact fun _ _ _ h => h.gIssue
  case atomn => exact fun _ _ _ h => h.gIssue
  case fence => exact fun _ _ _ h => (h.foldl fun _ _ h₁ => h₁.fenceOne).acquire
  case wld => exact fun _ _ _ h => h.spLoads
  case wst => exact fun _ _ _ h => h.spStores
  case ald => exact fun _ _ _ h => h.spLoads
  case ast => exact fun _ _ _ h => h.spStores
  case cld => exact fun _ _ _ h => h.spLoads
  case cst => exact fun _ _ _ h => h.spStores
  case ldc => exact fun _ _ _ h => h.leadIssue
  case pref => exact fun _ _ _ h => h
  case spalloc => exact fun _ _ _ h => .ite ((h.spAllocs (fun _ _ h₁ => h₁.spAlloc)).onCohort) (h.foldl fun _ _ h₁ => h₁.holdSp)
  case spfree => exact fun _ _ _ h => .ite (h.foldl fun _ _ h₁ => h₁.spFree) (h.foldl fun _ _ h₁ => h₁.holdSp)
  case sprenew => exact fun _ _ _ h => h.foldl fun _ _ h₁ => h₁.renewIssue
  case spstat => exact fun _ _ _ h => .ite h.onCohort (h.foldl fun _ _ h₁ => h₁.holdSp)
  case spclear => exact fun _ _ _ h => .ite (h.foldl fun _ _ h₁ => h₁.spClear) (h.foldl fun _ _ h₁ => h₁.holdSp)
  case bread => exact fun _ _ _ h => h.foldl fun _ _ h₁ => .ite h₁.setPd h₁.putBulk.setPd
  case bwrite => exact fun _ _ _ h => h.foldl fun _ _ h₁ => .ite h₁.setPd h₁.putBulk.setPd
  case bcopy => exact fun _ _ _ h => h.foldl fun _ _ h₁ => .ite h₁.setPd h₁.putBulk.setPd
  case bfill => exact fun _ _ _ h => h.foldl fun _ _ h₁ => .ite h₁.setPd h₁.putBulk.setPd
  case bdigest => exact fun _ _ _ h => h.foldl fun _ _ h₁ => .ite h₁.setPd h₁.putBulk.setPd
  case mxlw => exact fun _ _ _ h => h.foldl fun _ _ h₁ => .ite h₁.setPd h₁.putMat.setPd
  case mxrun => exact fun _ _ _ h => h.foldl fun _ _ h₁ => .ite h₁.setPd h₁.putMat.setPd
  case mxzero => exact fun _ _ _ h => h.foldl fun _ _ h₁ => .ite h₁.setPd h₁.putMat.setPd
  case mxhnd => exact fun _ _ _ h => h.newTiles.onCohort
  case mxrel => exact fun _ _ _ h => h.foldl fun _ _ h₁ => h₁.releaseTile
  case coll => exact fun _ _ _ h => h.foldl fun _ _ h₁ => .ite h₁.setPd h₁.putColl.setPd
  case movsw => exact fun _ _ _ h => h.foldl fun _ _ h₁ => (by split; exacts [.ite h₁.keyedWrite h₁.issueOp, h₁])
  case ckpt => exact fun _ _ _ h => h
  case cinv => exact fun _ _ _ h => h.foldl fun _ _ h₁ => by dsimp only; split; exacts [h₁, by split; exacts [h₁.dropL1d.issueOp, h₁.issueOp]]
  case tlbinv => exact fun _ _ _ h => h.foldl fun _ _ h₁ => h₁.issueOp
  case csrw => exact fun _ _ _ h => h.foldl fun _ _ h₁ => h₁.setCsr
  all_goals exact fun _ _ _ h => h.onCohort
theorem State.Inv.repIter {s : State} (h : s.Inv) {x : Ctx} {i : Instr} {st : RegField → Nat} {j count : Nat} {after : Pc} : (s.repIter x i st j count after).Inv := by
  unfold State.repIter
  split
  · exact h
  · exact h.body (planOf_keeps ‹_›) fun _ _ _ h₁ => h₁.repMove
theorem State.Inv.repRun {s : State} (h : s.Inv) {x : Ctx} {len count : Nat} {st : RegField → Nat} : (s.repRun x len count st).Inv := by
  unfold State.repRun
  dsimp only
  split
  · split
    · exact h.keepLines.repEnd
    · split
      · split
        · exact h.keepLines.trapAll
        · exact h.keepLines.repIter
      · exact h.fetchStop
  · exact h.fetchStop
theorem State.Inv.issueRep {s : State} (h : s.Inv) {len count : Nat} {st : RegField → Nat} : (s.execRep len count st).Inv := by
  unfold State.execRep
  split
  · exact h
  · exact h.repRun.issued.stepDone
theorem State.Inv.execRepS {s : State} (h : s.Inv) {count sd sa sb : Nat} : (execRepS count sd sa sb s).Inv := h.issueRep
theorem State.Inv.execRep {s : State} (h : s.Inv) {count sd sa sb sc se : Nat} : (Machine.execRep count sd sa sb sc se s).Inv := h.issueRep

/-! Import stubs, and words that are no instruction -/

theorem State.Inv.atIssue {s : State} (h : s.Inv) {f : State → Ctx → State} (hf : ∀ (t : State) (x : Ctx), t.Inv → (f t x).Inv) : (s.atIssue f).Inv := by
  unfold State.atIssue
  split
  · exact h
  · exact (hf _ _ h).issued.stepDone
theorem State.Inv.postStub {s : State} (h : s.Inv) {part codeVa va : Nat} : (s.postStub part codeVa va).Inv := h.quiet
theorem State.Inv.stubIssue {s : State} (h : s.Inv) {x : Ctx} : (s.stubIssue x).Inv := by
  unfold State.stubIssue
  dsimp only
  split
  · exact h.parkAll
  · exact h.trapAll
  · split
    · exact h.trapAll
    · exact .ite h.trapAll (.ite h.acquire.setPcs (.ite h.acquire.trapAll (State.Inv.parkAll (.ite h.acquire.postStub h.acquire))))
theorem State.Inv.execStubEntry {s : State} (h : s.Inv) : (execStubEntry s).Inv := h.atIssue fun _ _ h₁ => .ite h₁.stubIssue h₁
theorem State.Inv.execInvalidInstruction {s : State} (h : s.Inv) {ws : List Word} {reason : Nat} : (execInvalidInstruction ws reason s).Inv :=
  h.atIssue fun _ _ h₁ => h₁.trapAll

/-! What runs by itself on a core -/

theorem State.Inv.execRegisterSweepDone {s : State} (h : s.Inv) {core : Nat} : (execRegisterSweepDone core s).Inv := State.Inv.ite h.modCore h
theorem State.Inv.execSpWrapSweepDone {s : State} (h : s.Inv) {core : Nat} : (execSpWrapSweepDone core s).Inv := State.Inv.ite h.modCore.firePlain h
theorem State.Inv.execExpiryScan {s : State} (h : s.Inv) {core : Nat} : (execExpiryScan core s).Inv := State.Inv.ite h h.setCore
theorem State.Inv.scansBefore {s : State} (h : s.Inv) {t : Nat} : (s.scansBefore t).Inv := h.quiet
theorem State.Inv.execSweeperRenew {s : State} (h : s.Inv) {core : Nat} {buf : Buf} {gran : Nat} : (execSweeperRenew core buf gran s).Inv := by
  unfold Machine.execSweeperRenew
  split
  · exact h
  · exact State.Inv.ite h.modCore h
theorem State.Inv.renewalsBefore {s : State} (h : s.Inv) {s0 : State} {t : Nat} : (s.renewalsBefore s0 t).Inv := h.quiet
theorem State.Inv.execL2ClassRefresh {s : State} (h : s.Inv) {core : Nat} {buf : Buf} {gran : Nat} : (execL2ClassRefresh core buf gran s).Inv := by
  unfold Machine.execL2ClassRefresh
  split
  · exact h
  · exact State.Inv.ite h.modCore h
theorem State.Inv.rotate {s : State} (h : s.Inv) {core sl part : Nat} {co : Cohort} {pc : Pc} : (s.rotate core sl part co pc).Inv :=
  .ite h.modCore.stateLost h.modCore.modPart
theorem State.Inv.execWatchdogExpiry {s : State} (h : s.Inv) {core slot : Nat} : (execWatchdogExpiry core slot s).Inv := by
  unfold Machine.execWatchdogExpiry
  split
  · exact h
  · exact State.Inv.ite h (.ite h.freeze (.ite h.logRec.rotate h.logRec.setCohort))
theorem State.Inv.execRotatedImageRestore {s : State} (h : s.Inv) {part : Nat} : (execRotatedImageRestore part s).Inv := by
  unfold Machine.execRotatedImageRestore
  split
  · exact h
  · exact h.modPart.resume
theorem State.Inv.execTrapDelivery {s : State} (h : s.Inv) {launch : Nat} : (execTrapDelivery launch s).Inv := by
  unfold Machine.execTrapDelivery
  split
  · exact h
  · split
    · exact h
    · split
      · exact h.deliver
      · exact h

/-! Every instruction and every event -/

/-- An instruction that REP may repeat is its plan, issued for the current cohort. -/
theorem exec_of_planOf {i : Instr} {p : Plan} (hp : planOf i = some p) (s : State) : exec i s = .next (s.exec p) := by
  cases i <;> cases hp <;> rfl
/-- Every instruction and every event keeps the invariant. -/
theorem State.Inv.execInstr {s : State} (h : s.Inv) (i : Instr) : Res.Inv (Machine.exec i s) := by
  cases hp : planOf i with
  | some p =>
    rw [exec_of_planOf hp]
    exact h.exec (planOf_keeps hp)
  | none =>
    cases i
    case braS => exact h.execBraS
    case exitS => exact h.execExitS
    case repS => exact h.execRepS
    case waittS => exact h.execWaittS
    case waitcS => exact h.execWaitcS
    case pformPair => exact h.execPformPair
    case bra => exact h.execBra
    case brx => exact h.execBrx
    case call => exact h.execCall
    case callx => exact h.execCallx
    case ret => exact h.execRet
    case exit => exact h.execExit
    case trap => exact h.execTrap
    case brk => exact h.execBrk
    case yield => exact h.execYield
    case rep => exact h.execRep
    case waitt => exact h.execWaitt
    case waitv => exact h.execWaitv
    case waitc => exact h.execWaitc
    case ffr => exact h.execFfr
    case tclr => exact h.execTclr
    case spawn => exact h.execSpawn
    case barinit => exact h.execBarinit
    case bararr => exact h.execBararr
    case barwait => exact h.execBarwait
    case fwait => exact h.execFwait
    case ffill => exact h.execFfill
    case freset => exact h.execFreset
    case parkw => exact h.execParkw
    case tret => exact h.execTret
    case halt => exact h.execHalt
    case stubEntry => exact h.execStubEntry
    case stubBind => exact h.execStubBind
    case parkmapFetchDone => exact h.execParkmapFetchDone
    case resultLanding => exact h.execResultLanding
    case storePerformed => exact h.execStorePerformed
    case atomicAtHome => exact h.execAtomicAtHome
    case sprenewComplete => exact h.execSprenewComplete
    case cinvComplete => exact h.execCinvComplete
    case tlbinvComplete => exact h.execTlbinvComplete
    case cohortFormation => exact h.execCohortFormation
    case drainAgeExpiry => exact h.execDrainAgeExpiry
    case cohortAgePromotion => exact h.execCohortAgePromotion
    case spillReadback => exact h.execSpillReadback
    case recordForward => exact h.execRecordForward
    case schedulerForward => exact h.execSchedulerForward
    case waitEventFire => exact h.execWaitEventFire
    case l2WatchEvent => exact h.execL2WatchEvent
    case burstReadStart => exact h.execBurstReadStart
    case burstReturn => exact h.execBurstReturn
    case bulkOpComplete => exact h.execBulkOpComplete
    case mxlwStart => exact h.execMxlwStart
    case mxlwComplete => exact h.execMxlwComplete
    case mxrunStart => exact h.execMxrunStart
    case mxrunComplete => exact h.execMxrunComplete
    case mxzeroComplete => exact h.execMxzeroComplete
    case matrixStall => exact h.execMatrixStall
    case matrixStallTerminate => exact h.execMatrixStallTerminate
    case collHopReceive => exact h.execCollHopReceive
    case collComplete => exact h.execCollComplete
    case collHopTimeout => exact h.execCollHopTimeout
    case collAbort => exact h.execCollAbort
    case launchPacket => exact h.execLaunchPacket
    case launchStart => exact h.execLaunchStart
    case barrierPacket => exact h.execBarrierPacket
    case signalPacket => exact h.execSignalPacket
    case sliceBoundary => exact h.execSliceBoundary
    case qdoor => exact h.execQdoor
    case groveAdmission => exact h.execGroveAdmission
    case evict => exact h.execEvict
    case evictionOverBound => exact h.execEvictionOverBound
    case evictionAbandon => exact h.execEvictionAbandon
    case groveRestore => exact h.execGroveRestore
    case groveRetirement => exact h.execGroveRetirement
    case registerSweepDone => exact h.execRegisterSweepDone
    case spWrapSweepDone => exact h.execSpWrapSweepDone
    case expiryScan => exact h.execExpiryScan
    case sweeperRenew => exact h.execSweeperRenew
    case l2ClassRefresh => exact h.execL2ClassRefresh
    case watchdogExpiry => exact h.execWatchdogExpiry
    case rotatedImageRestore => exact h.execRotatedImageRestore
    case formationStarved => exact h.execFormationStarved
    case pfrzKill => exact h.execPfrzKill
    case pcalWrite => exact h.execPcalWrite
    case trapDelivery => exact h.execTrapDelivery
    case flogcfgWrite => exact h.execFlogcfgWrite
    case flogtailWrite => exact h.execFlogtailWrite
    case haltstage => exact h.execHaltstage
    case releaseStage => exact h.execReleaseStage
    case listImages => exact h.execListImages
    case readimg => exact h.execReadimg
    case writeimg => exact h.execWriteimg
    case debugStep => exact h.execDebugStep
    case resumeImage => exact h.execResumeImage
    case stalemap => exact h.execStalemap
    case discardImage => exact h.execDiscardImage
    case readsp => exact h.execReadsp
    case demandReplay => exact h.execDemandReplay
    case demandRefuse => exact h.execDemandRefuse
    case pageWalkComplete => exact h.execPageWalkComplete
    case patrolScrub => exact h.execPatrolScrub
    case hostInboundWrite => exact h.execHostInboundWrite
    case hostInboundRead => exact h.execHostInboundRead
    case outboundHostTimeout => exact h.execOutboundHostTimeout
    case biSnoopResponse => exact h.execBiSnoopResponse
    case biSnoopTimeout => exact h.execBiSnoopTimeout
    case hostLinkDown => exact h.execHostLinkDown
    case hotReset => exact h.execHotReset
    case vfFlr => exact h.execVfFlr
    case pfFlr => exact h.execPfFlr
    case aerError => exact h.execAerError
    case spdmRequest => exact h.execSpdmRequest
    case flitReceive => exact h.execFlitReceive
    case portRxTimeout => exact h.execPortRxTimeout
    case laneLoss => exact h.execLaneLoss
    case portRetrainDone => exact h.execPortRetrainDone
    case flowGapTimeout => exact h.execFlowGapTimeout
    case breakMessage => exact h.execBreakMessage
    case noRouteTimeout => exact h.execNoRouteTimeout
    case remoteResponseTimeout => exact h.execRemoteResponseTimeout
    case remoteAtomicRequest => exact h.execRemoteAtomicRequest
    case timingMessage => exact h.execTimingMessage
    case timeSyncLost => exact h.execTimeSyncLost
    case powerGood => exact h.execPowerGood
    case mgmtPackageReset => exact h.execMgmtPackageReset
    case powerSample => exact h.execPowerSample
    case clockRaise => exact h.execClockRaise
    case thermalReport => exact h.execThermalReport
    case thermalTrip => exact h.execThermalTrip
    case standGate => exact h.execStandGate
    case d3hotEntry => exact h.execD3hotEntry
    case loadObject => exact h.execLoadObject
    case registerExport => exact h.execRegisterExport
    case unloadObject => exact h.execUnloadObject
    case loaderDone => exact h.execLoaderDone
    case mailboxAccessTable => exact h.execMailboxAccessTable
    case mailboxKeyLoad => exact h.execMailboxKeyLoad
    case forensicChallenge => exact h.execForensicChallenge
    case forensicUnlock => exact h.execForensicUnlock
    case forensicRelock => exact h.execForensicRelock
    case iftRequest => exact h.execIftRequest
    case iftScanDone => exact h.execIftScanDone
    case checkpointComplete => exact h.execCheckpointComplete
    case registerWrite => exact h.execRegisterWrite
    case invalidInstruction => exact h.execInvalidInstruction
    case d3hotExit => exact h.execD3hotExit
    case powerRemoved => exact h.execPowerRemoved
    case timeBaseExchange => exact h.execTimeBaseExchange
    case cxlMemRequest => exact h.execCxlMemRequest
    all_goals cases hp

/-! What happens next, and the passing of time -/

theorem State.Inv.event {s : State} (h : s.Inv) {o : MemOp} : (MemOp.event o s).Inv := by
  unfold MemOp.event
  split
  · exact h.sendOp
  · split
    · exact h
    · split
      · exact h.execResultLanding
      · exact h.execResultLanding
      · exact h.execStorePerformed
      · exact h.execStorePerformed
      · split
        · exact h.execResultLanding
        · split
          · exact h.execStorePerformed
          · exact h.execAtomicAtHome
      · split
        · exact h.execResultLanding
        · split
          · exact h.execStorePerformed
          · exact h.execAtomicAtHome
      · split
        · exact h.execResultLanding
        · split
          · exact h.execStorePerformed
          · exact h.execAtomicAtHome
      · exact h.renewNext
      · exact h.execCinvComplete
      · exact h.execTlbinvComplete
      · exact h
theorem State.Inv.nextOf {s : State} (h : s.Inv) {r : Res} (hr : r.Inv) : (nextOf s r).Inv := by
  cases r with
  | next t => exact hr
  | fault f => exact h
  | refused r => exact h
/-- Each of the events listed keeps the invariant of the state. -/
def State.KeptBy (s : State) (fs : List (State → Res)) : Prop := ∀ f ∈ fs, (f s).Inv
theorem State.KeptBy.nil {s : State} : s.KeptBy [] := fun _ hf => absurd hf List.not_mem_nil
theorem State.KeptBy.cons {s : State} {f : State → Res} {fs : List (State → Res)} (hf : (f s).Inv) (h : s.KeptBy fs) : s.KeptBy (f :: fs) := List.forall_mem_cons.mpr ⟨hf, h⟩
theorem State.KeptBy.append {s : State} {fs gs : List (State → Res)} (hf : s.KeptBy fs) (hg : s.KeptBy gs) : s.KeptBy (fs ++ gs) := List.forall_mem_append.mpr ⟨hf, hg⟩
theorem State.KeptBy.map {s : State} {α : Type} {l : List α} {f : α → State → Res} (hf : ∀ a, (f a s).Inv) : s.KeptBy (l.map f) := List.forall_mem_map.mpr fun a _ => hf a
theorem State.KeptBy.flatMap {s : State} {α : Type} {l : List α} {f : α → List (State → Res)} (hf : ∀ a, s.KeptBy (f a)) : s.KeptBy (l.flatMap f) := by
  intro g hg
  obtain ⟨a, _, ha⟩ := List.mem_flatMap.mp hg
  exact hf a g ha
theorem State.Inv.firstActing {s t : State} (h : s.Inv) {fs : List (State → Res)} (hfs : s.KeptBy fs) (ht : s.firstActing fs = some t) : t.Inv := by
  induction fs with
  | nil => cases ht
  | cons f fs ih =>
    obtain ⟨hf, hrest⟩ := List.forall_mem_cons.mp hfs
    unfold State.firstActing at ht
    split at ht
    · exact ih hrest ht
    · cases ht
      exact h.nextOf hf
theorem State.Inv.advanceOps {s t : State} (h : s.Inv) {lag : Nat} (ht : s.advanceOps lag = some t) : t.Inv :=
  h.firstActing (by unfold MemOp.event; exact .map fun _ => h.event) ht
theorem State.Inv.markMet {s : State} (h : s.Inv) {x : Ctx} {mask : Nat} : (s.markMet x mask).Inv := h.modCohort
/-- What a step does keeps the invariant, and it is not stuck. -/
def Choice.Inv : Choice → Prop
  | .idle => True
  | .act t => t.Inv
  | .run t _ => t.Inv
  | .stuck => False
theorem State.Inv.issueOf {s : State} (h : s.Inv) {x : Ctx} : (s.issueOf x).Inv := by
  unfold State.issueOf
  split
  · dsimp only
    split
    · exact h.keepLines.markMet.debugHalt.stepDone
    · split
      · exact h.keepLines
      · exact h.keepLines
  · exact h.atIssue fun _ _ h₁ => h₁.fetchStop
theorem State.Inv.atSlot0 {s : State} (h : s.Inv) {c : Nat × Nat} : (s.atSlot0 c).Inv := h.quiet
theorem State.Inv.atSlot1 {s t : State} (h : s.Inv) (ht : s.atSlot1 = some t) : t.Inv := by
  unfold State.atSlot1 at ht
  split at ht
  · cases ht
  · split at ht
    · cases ht
      exact h.quiet
    · cases ht
/-- The state at the issue that is next, of either slot, meets the invariant. -/
theorem State.Inv.issuing {s : State} (h : s.Inv) {c : Option (Nat × Nat)} :
    (((s.atSlot1.filter fun t => t.ctx.isSome).orElse fun _ => c.map s.atSlot0).getD s).Inv := by
  cases hp : s.atSlot1.filter fun t => t.ctx.isSome with
  | some p => exact h.atSlot1 (Option.filter_eq_some_iff.mp hp).1
  | none =>
    cases c with
    | none => exact h
    | some c => exact h.atSlot0
theorem State.Inv.issueNext {s : State} (h : s.Inv) : s.issueNext.Inv := by
  unfold State.issueNext
  split
  · trivial
  · have hp := h.issuing (c := s.nextIssue)
    extract_lets p
    change p.Inv at hp
    clear_value p
    split
    · trivial
    · split
      · exact hp.haltSlot.stepDone
      · split
        · exact hp.trap.stepDone
        · split
          · exact hp
          · exact hp.issueOf
theorem State.Inv.dieEvents {s : State} (h : s.Inv) : s.KeptBy s.dieEvents := .flatMap fun _ => .map fun _ => h.execPageWalkComplete
theorem State.Inv.recordEvents {s : State} (h : s.Inv) {c : Nat} : s.KeptBy (s.recordEvents c) := by
  unfold State.recordEvents
  exact ((((((State.KeptBy.nil.cons h.execCohortFormation).append (.map fun _ => h.execDrainAgeExpiry)).append (.map fun _ => h.execParkmapFetchDone)).append
    (.map fun _ => h.execWaitEventFire)).append (.map fun _ => h.execSpillReadback)).append
    (.flatMap fun _ => .cons h.execRecordForward (.cons h.execFormationStarved .nil))).append
    (.flatMap fun _ => .cons h.execCohortAgePromotion (.cons h.execWatchdogExpiry .nil))
theorem State.Inv.engineEvents {s : State} (h : s.Inv) {c : Nat} : s.KeptBy (s.engineEvents c) := by
  unfold State.engineEvents
  refine ((State.KeptBy.flatMap fun o => ((State.KeptBy.nil.cons h.execBurstReadStart).append (.map fun _ => h.execBurstReturn)).append ?_).append
    (.cons h.execMxlwStart (.cons h.execMxrunStart (.cons h.execMxlwComplete (.cons h.execMxrunComplete (.cons h.execMxzeroComplete .nil)))))).append
    (.flatMap fun _ => .cons h.execMatrixStallTerminate (.cons h.execMatrixStall .nil))
  exact .cons h.bulkTurn .nil
theorem State.Inv.sweepEvents {s : State} (h : s.Inv) {c : Nat} : s.KeptBy (s.sweepEvents c) :=
  (State.KeptBy.cons h.execRegisterSweepDone (.cons h.execSpWrapSweepDone (.cons h.execExpiryScan .nil))).append
    (.flatMap fun _ => .flatMap fun _ => .cons h.execSweeperRenew (.cons h.execL2ClassRefresh .nil))
theorem State.Inv.launchEvents {s : State} (h : s.Inv) : s.KeptBy s.launchEvents := by
  unfold State.launchEvents
  exact ((((((((State.KeptBy.flatMap fun _ => .cons h.execLaunchPacket (.cons h.execLaunchStart (.cons h.execBarrierPacket (.cons h.execSignalPacket .nil)))).append
    (.cons h.execSliceBoundary .nil)).append (.flatMap fun _ => .cons h.execTrapDelivery (.cons h.execGroveAdmission .nil))).append
    (.flatMap fun _ => .map fun _ => h.execGroveRestore)).append (.map fun _ => h.execGroveRetirement)).append (.map fun _ => h.execCheckpointComplete)).append
    (.flatMap fun _ => .cons h.execEvict (.cons h.execEvict .nil))).append (.flatMap fun _ => .cons h.execEvictionOverBound (.cons h.execEvictionAbandon .nil)))
theorem State.Inv.trustEvents {s : State} (h : s.Inv) : s.KeptBy s.trustEvents :=
  .cons h.execStubBind (.cons h.execForensicChallenge (.cons h.execForensicUnlock (.cons h.execForensicRelock (.cons h.execIftRequest .nil))))
theorem State.Inv.linkEvents {s : State} (h : s.Inv) : s.KeptBy s.linkEvents := by
  unfold State.linkEvents
  refine ((((State.KeptBy.flatMap fun _ => .cons h.execCollComplete (.cons h.execCollHopTimeout .nil)).append (.flatMap fun n => .cons h.execFlowGapTimeout ?_)).append
    (.flatMap fun n => ?_)).append (.map fun _ => h.execRemoteResponseTimeout)).append (.map fun _ => h.execBiSnoopTimeout)
  · refine .cons ?_ (.cons ?_ .nil)
    · split
      · exact h.execBreakMessage
      · exact h
    · split
      · exact h.execNoRouteTimeout
      · exact h
  · refine .cons ?_ (.cons ?_ .nil)
    · exact h.portDeliver
    · exact h.portSend
theorem State.Inv.otherEvents {s : State} (h : s.Inv) : s.KeptBy s.otherEvents :=
  ((State.KeptBy.map fun _ => h.execRotatedImageRestore).append (.map fun _ => h.execStandGate)).append
    (.cons h.execClockRaise (.cons h.execTimeBaseExchange (.cons h.execTimeSyncLost .nil)))
theorem State.Inv.ownEvents {s : State} (h : s.Inv) : s.KeptBy s.ownEvents :=
  ((((h.dieEvents.append h.launchEvents).append (.flatMap fun _ => (h.recordEvents.append h.engineEvents).append h.sweepEvents)).append h.trustEvents).append
    h.linkEvents).append h.otherEvents
theorem mem_of_mem_rotateLeft {α : Type} {l : List α} {k : Nat} {a : α} (h : a ∈ l.rotateLeft k) : a ∈ l := by
  unfold List.rotateLeft at h
  dsimp only at h
  split at h
  · exact h
  · exact (List.mem_append.mp h).elim List.mem_of_mem_drop List.mem_of_mem_take
theorem State.Inv.ownEvent {s t : State} (h : s.Inv) (ht : s.ownEvent = some t) : t.Inv :=
  h.firstActing (fun f hf => h.ownEvents f (mem_of_mem_rotateLeft hf)) ht
theorem State.Inv.background {s : State} (h : s.Inv) : s.background.Inv := by
  unfold State.background
  split
  · exact h.advanceOps ‹_›
  · split
    · exact h.ownEvent ‹_›
    · trivial
theorem Choice.Inv.orElse {a b : Choice} (ha : a.Inv) (hb : b.Inv) : (a.orElse b).Inv := by
  unfold Choice.orElse
  split
  · exact hb
  · exact ha
/-- What is due is an event, and the schedule goes on without it. -/
theorem State.Inv.due {s : State} (h : s.Inv) {e : Instr} {rest : List (Nat × Instr)} (hd : s.due = some (e, rest)) :
    e.isEvent = true ∧ ({ s with agenda := rest } : State).Inv := by
  obtain ⟨hmem, hagenda⟩ := h
  unfold State.due at hd
  unfold State.agendaOk at hagenda
  split at hd
  next t e' rest' hs =>
    split at hd
    · cases hd
      rw [hs, List.all_cons, Bool.and_eq_true] at hagenda
      exact ⟨hagenda.1, hmem, hagenda.2⟩
    · cases hd
  next => cases hd
theorem State.Inv.choose {s : State} (h : s.Inv) : s.choose.Inv := by
  unfold State.choose
  split
  next e rest hd =>
    obtain ⟨hevent, ht⟩ := h.due hd
    extract_lets t
    rw [if_neg (by simp [hevent])]
    split
    · exact ht
    · exact ht
  · split
    · split
      · exact h.issueNext.orElse h.background
      · exact h.background.orElse h.issueNext
    · trivial
theorem State.Inv.settleBoot {s : State} (h : s.Inv) : s.settleBoot.Inv := .ite h.quiet h
theorem State.Inv.later {s : State} (h : s.Inv) : s.later.Inv := by
  unfold State.later
  extract_lets s₁ dt s₂ s₃
  have h₁ : s₁.Inv :=
    h.settleBoot.settleFrames.settleImages.settleDebug.settleComms.settleHops.settleWaiting.settleLogs.settleTwins.settleEnded.settleBins.settleChains
  clear_value s₁
  have h₂ : s₂.Inv := State.Inv.telemetry h₁.quiet
  clear_value s₂
  have h₃ : s₃.Inv := h₂.scansBefore.renewalsBefore
  clear_value s₃
  exact h₃.quiet
/-- From a state that meets the invariant a step answers a next state, which meets it too. -/
theorem State.Inv.step {s : State} (h : s.Inv) : ∃ t, step s = .next t ∧ t.Inv := by
  have hc := h.choose
  unfold Machine.step
  cases hs : s.choose with
  | idle => exact ⟨_, rfl, h.later⟩
  | act t =>
    rw [hs] at hc
    exact ⟨_, rfl, State.Inv.later hc⟩
  | run t i =>
    rw [hs] at hc
    obtain ⟨u, hu⟩ := exec_next i t
    have hexec : Res.Inv (Machine.exec i t) := State.Inv.execInstr hc i
    simp only [hu] at hexec ⊢
    exact ⟨_, rfl, State.Inv.later hexec⟩
  | stuck =>
    rw [hs] at hc
    exact hc.elim
theorem State.Reaches.inv {s t : State} (hr : s.Reaches t) (h : s.Inv) : t.Inv := by
  induction hr with
  | refl => exact h
  | tail t u _ hstep ih =>
    obtain ⟨v, hv, hinv⟩ := ih.step
    rw [hv] at hstep
    cases hstep
    exact hinv

/-- Settles O59: a choice, its instruction or event and the passing of time each keep the invariant. -/
theorem everyStepKeepsTheInvariant : Obligations.EveryStepKeepsTheInvariant := by
  intro s t h hstep
  obtain ⟨u, hu, hinv⟩ := h.step
  rw [hu] at hstep
  cases hstep
  exact hinv
/-- Settles O60: every state that a run reaches meets the invariant, and from such a state a step answers a next state. -/
theorem noRunStops : Obligations.NoRunStops := by
  refine ⟨fun s h t hr => ?_, exec_next⟩
  obtain ⟨u, hu, _⟩ := (hr.inv h).step
  exact ⟨u, hu⟩

end Sys2Proof.Machine
end

section
/-! The S-forms (R168, R172): each computes what its X-form does, in one word. -/
namespace Sys2Proof.Machine

/-! The shapes of sums and products (R61) -/

theorem addShape_uni {p q : Sh} {v w : Word} (h : addShape p q v w = .uni) : p = .uni ∧ q = .uni := by
  cases p <;> cases q <;> simp [addShape] at h ⊢
theorem mulShape_uni {p q : Sh} {v w : Word} (h : mulShape p q v w = .uni) : p = .uni ∧ q = .uni := by
  cases p <;> cases q <;> simp [mulShape] at h ⊢
/-- A sum is affine where one source is affine and the other uniform. -/
theorem addShape_aff {p q : Sh} {v w y st : Word} (h : addShape p q v w = .aff y st) :
    (∃ z, p = .aff z st ∧ q = .uni ∧ y = z + w) ∨ (∃ z, p = .uni ∧ q = .aff z st ∧ y = v + z) := by
  cases p <;> cases q <;> simp [addShape] at h ⊢
  · exact ⟨h.2, h.1.symm⟩
  · exact ⟨h.2, h.1.symm⟩
/-- A product is affine where one source is affine and the other uniform. -/
theorem mulShape_aff {p q : Sh} {v w y st : Word} (h : mulShape p q v w = .aff y st) :
    (∃ z k, p = .aff z k ∧ q = .uni ∧ y = z * w ∧ st = k * w) ∨ (∃ z k, p = .uni ∧ q = .aff z k ∧ y = v * z ∧ st = v * k) := by
  cases p <;> cases q <;> simp [mulShape] at h ⊢
  · exact ⟨h.1.symm, h.2.symm⟩
  · exact ⟨h.1.symm, h.2.symm⟩

/-! IADD and IMUL, whose shapes are their own, with registers alone -/

/-- IADD without saturation, in as many bytes as its form takes. -/
theorem iadd_maps {i : Instr} {g : Guard} {len d a : Nat} {b : Src} {u : Bool} (xop : Nat)
    (hi : ∀ s, exec i s = .next (s.exec (map2Sh g len xop d a b addShape (addW false u)))) : Maps2 i g len d a b (· + ·) := by
  refine map2Sh_computes i g len xop d a b _ (addW false u) hi (fun _ _ _ _ h => addShape_uni h) fun p q v w y st h => ?_
  rcases addShape_aff h with ⟨z, hp, hq, rfl⟩ | ⟨z, hp, hq, rfl⟩
  · exact .inl ⟨z, st, hp, hq, fun l => add_right_comm z _ w⟩
  · exact .inr ⟨z, st, hp, hq, fun l => (add_assoc v z _).symm⟩
theorem imul_maps {i : Instr} {g : Guard} {len d a : Nat} {b : Src} (xop : Nat)
    (hi : ∀ s, exec i s = .next (s.exec (map2Sh g len xop d a b mulShape (· * ·)))) : Maps2 i g len d a b (· * ·) := by
  refine map2Sh_computes i g len xop d a b _ _ hi (fun _ _ _ _ h => mulShape_uni h) fun p q v w y st h => ?_
  rcases mulShape_aff h with ⟨z, k, hp, hq, rfl, rfl⟩ | ⟨z, k, hp, hq, rfl, rfl⟩
  · exact .inl ⟨z, k, hp, hq, fun l => by rw [add_mul, mul_assoc]⟩
  · exact .inr ⟨z, k, hp, hq, fun l => by rw [mul_add, mul_left_comm]⟩

/-- Settles O2: the plan of an S-form is its X-form's in four bytes, with registers alone. -/
theorem shortFormResults : Obligations.ShortFormResults := fun _ _ _ _ =>
  ⟨map1_maps (opc .mov) fun _ => rfl, iadd_maps (u := false) (opc .iadd) fun _ => rfl, map2_maps (opc .isub) fun _ => rfl,
    imul_maps (opc .imul) fun _ => rfl, map2_maps (opc .and) fun _ => rfl, map2_maps (opc .or) fun _ => rfl, map2_maps (opc .xor) fun _ => rfl,
    map2_maps (opc .shl) fun _ => rfl, map2_maps (opc .shr) fun _ => rfl, map2_maps (opc .fadd) fun _ => rfl, map2_maps (opc .fsub) fun _ => rfl,
    map2_maps (opc .fmul) fun _ => rfl⟩

end Sys2Proof.Machine
end

section
/-! The P-form pair (R173 to R175): its effect is that of the uniform slot and then, on the cohort that leaves, that of the vector slot; with one slot empty it is the other's X-form in eight bytes. -/
namespace Sys2Proof.Machine

/-! The issue as the vector slot sees it -/

theorem State.again_of {t : State} {x : Ctx} {co : Cohort} (h : t.cohort? x.core x.slot = some co) : t.again x = { x with co := co } := by
  rw [State.again, h]
  rfl
theorem State.again_of_ctx {s : State} {x : Ctx} (h : s.ctx = some x) : s.again x = x := State.again_of (s.ctx_cohort x h).1
/-- The lanes of an issue that has moved on, before any slot has written. -/
theorem State.again_setPcs {s : State} {x : Ctx} {len : Nat} (h : s.ctx = some x) :
    (s.setPcs x x.xs (x.after len)).again x = { x with co := x.moved len } := by
  obtain ⟨hco, hne⟩ := s.ctx_cohort x h
  rw [s.setPcs_of x x.co _ _ hco]
  exact State.again_of (State.cohort?_setCohort _ _ _ _ (by simpa using hne))
/-- Lanes that move on are of the strands that they were. -/
theorem Ctx.strand_moved (x : Ctx) (len l : Nat) : ({ x with co := x.moved len } : Ctx).strand l = x.strand l := by
  have hfind : (x.moved len).lanes.find? l = (x.co.lanes.find? l).map fun y => if x.xs.contains l then { y with pc := x.after len } else y :=
    find?_mapLanes x.co.lanes (fun k y => if x.xs.contains k then { y with pc := x.after len } else y) l
  simp only [Ctx.strand, hfind]
  cases x.co.lanes.find? l with
  | none => rfl
  | some y => simp only [Option.map_some, Option.elim_some]; split <;> rfl
theorem State.groveOf_moved (s : State) (x : Ctx) (len l : Nat) : s.groveOf { x with co := x.moved len } l = s.groveOf x l := by
  simp only [State.groveOf, Ctx.strand_moved]

/-! The pair -/

/-- What acts under a condition acts as it is seen to act where that condition follows. -/
theorem Acts.imp {i : Instr} {g : Guard} {len : Nat} {regs srcs : List Nat} {ok ok' : State → Ctx → Prop} {act act' : State → Ctx → List Nat → State}
    (h : Acts i g len regs srcs ok act) (hok : ∀ s x, s.ctx = some x → ok' s x → ok s x)
    (hact : ∀ s x, s.ctx = some x → ok' s x → act (s.setPcs x x.xs (x.after len)) x (x.en g) = act' (s.setPcs x x.xs (x.after len)) x (x.en g)) :
    Acts i g len regs srcs ok' act' := by
  intro s x hr hu hx
  have hctx := ((s.ready_iff x g regs srcs).mp hr).1
  rw [h s x hr hu (hok s x hctx hx), hact s x hctx hx]
/-- The effect of a pair, where the vector slot's checks pass on the cohort that the uniform slot leaves. -/
theorem pformPair_acts (g : Guard) (u : USlot) (v : VSlot) :
    Acts (.pformPair g u v) g 8 ((uniformPlan g u).regs ++ (vectorPlan g v).regs)
      ((uniformPlan g u).srcs ++ (vectorPlan g v).srcs.filter fun r => !((uDests u).contains r))
      (fun s x => ∀ l ∈ x.en g, (vectorPlan g v).check ((uniformPlan g u).act s x (x.en g)) (((uniformPlan g u).act s x (x.en g)).again x) (x.en g) l = .go)
      (fun s x ls => (vectorPlan g v).act ((uniformPlan g u).act s x ls) (((uniformPlan g u).act s x ls).again x) ls) :=
  acts_of _ (planPair g u v) _ _ (fun _ => rfl) rfl (fun _ _ _ => ⟨rfl, rfl, rfl⟩) (fun _ _ _ _ _ c h => by cases h) (fun _ _ h => h) (fun _ _ _ => rfl)
    (.inl fun _ _ _ _ => rfl)
/-- An empty slot. -/
def noU (e : Nat) : USlot := { op := .nop, d := e, a := e, b := e }
def noV (e : Nat) : VSlot := { op := .nop, d := e, a := e, b := e }

/-! LEA, whose sum may be affine -/

theorem setWidth_signExtend (w : Word) : (w.signExtend 64).setWidth 32 = w :=
  BitVec.eq_of_getLsbD_eq fun i hi => by
    have h64 : i < 64 := by omega
    simp only [BitVec.getLsbD_setWidth, BitVec.getLsbD_signExtend, hi, h64, decide_true, Bool.true_and, if_true]
/-- The low word of a pair and a word added to it is the words' sum. -/
theorem setWidth_pairOf_add (lo hi w : Word) : (pairOf lo hi + w.signExtend 64).setWidth 32 = lo + w := by
  unfold pairOf
  rw [BitVec.setWidth_add _ _ (by decide)]
  rw [BitVec.setWidth_append_eq_right, setWidth_signExtend]
/-- The shapes of LEA's sum: its high word is uniform where every source is, and its low word is affine where the address's low word and the index sum so. -/
def leaShapes (co : Cohort) (a b : Nat) : Sh × Sh :=
  let all := Sh.all [co.shape a, co.shape (a + 1), co.shape b]
  let lo := if all = .uni then .uni else addShape (co.shape a) (co.shape b) (co.reg a 0) (co.reg b 0)
  (if all ≠ .uni ∧ lo = .uni then .gen else lo, all)
theorem leaShapes_lo_uni {co : Cohort} {a b : Nat} (h : (leaShapes co a b).1 = .uni) : (leaShapes co a b).2 = .uni := by
  unfold leaShapes at h ⊢
  dsimp only at h ⊢
  by_cases hall : Sh.all [co.shape a, co.shape (a + 1), co.shape b] = .uni
  · exact hall
  · by_cases hlo : addShape (co.shape a) (co.shape b) (co.reg a 0) (co.reg b 0) = .uni <;> simp [hall, hlo] at h
theorem leaShapes_lo_aff {co : Cohort} {a b : Nat} {y st : Word} (h : (leaShapes co a b).1 = .aff y st) :
    addShape (co.shape a) (co.shape b) (co.reg a 0) (co.reg b 0) = .aff y st := by
  unfold leaShapes at h
  dsimp only at h
  by_cases hall : Sh.all [co.shape a, co.shape (a + 1), co.shape b] = .uni
  · simp [hall] at h
  · by_cases hlo : addShape (co.shape a) (co.shape b) (co.reg a 0) (co.reg b 0) = .uni
    · simp [hall, hlo] at h
    · simpa [hall, hlo] using h
/-- The address of LEA, of an index taken as it is. -/
def leaAt (co : Cohort) (a b l : Nat) : DWord := co.reg64 a l + (co.reg b l).signExtend 64
theorem leaAt_uni {co : Cohort} {a b : Nat} (h : (leaShapes co a b).2 = .uni) (l m : Nat) : leaAt co a b l = leaAt co a b m := by
  have hall := Sh.all_uni _ h
  simp only [List.forall_mem_cons] at hall
  obtain ⟨ha, ha', hb, -⟩ := hall
  simp only [leaAt, co.reg64_uni a ha ha' l m, co.reg_uni b hb l m]
theorem leaAt_aff {co : Cohort} {a b : Nat} {y st : Word} (h : (leaShapes co a b).1 = .aff y st) (l : Nat) :
    (leaAt co a b l).setWidth 32 = y + BitVec.ofNat 32 l * st := by
  rw [leaAt, Cohort.reg64, setWidth_pairOf_add]
  rcases addShape_aff (leaShapes_lo_aff h) with ⟨z, ha, hb, rfl⟩ | ⟨z, ha, hb, rfl⟩
  · rw [co.reg_aff a z st ha l, co.reg_uni b hb l 0, add_right_comm]
  · rw [co.reg_uni a ha l 0, co.reg_aff b z st hb l, add_assoc]
theorem leaW_signed (a : DWord) (b : Word) : leaW false 0 a b = a + b.signExtend 64 := by simp [leaW, leaIdx]
/-- LEA of an index taken as it is, in as many bytes as its form takes. -/
theorem lea_maps {i : Instr} {g : Guard} {len d a b : Nat} (xop : Nat)
    (hi : ∀ s, exec i s = .next (s.exec { planLea g d a (.reg b) false 0 with len := len, xop := xop })) :
    MapsPair i g len d [a, a + 1, b] fun co l => leaAt co a b l := by
  refine computes_pair i { planLea g d a (.reg b) false 0 with len := len, xop := xop } d always (fun _ _ co l => leaAt co a b l) (fun _ x l => leaAt x.co a b l)
    (fun _ _ co => (leaShapes co a b).1) (fun _ _ co => (leaShapes co a b).2) hi rfl rfl (fun _ _ _ _ => rfl) (fun t x => ?_)
    (fun s x _ => plain_checks _ _ _ _ _ _ s x) ?_
  · simp only [leaAt, ← leaW_signed]
    rfl
  · intro s x co _ hr _
    refine ⟨fun l _ _ => by simp only [leaAt, Cohort.reg64_congr hr, Cohort.reg_congr hr], ⟨fun h l _ => ?_, fun y st h l _ => leaAt_aff h l⟩,
      fun h l _ => ?_, fun y st h => absurd h (Sh.all_not_aff _ _ _)⟩
    · exact congrArg (BitVec.setWidth 32) (leaAt_uni (leaShapes_lo_uni h) l _)
    · exact congrArg (fun w : DWord => (w >>> 32).setWidth 32) (leaAt_uni h l _)

/-! Slots that access the A-buffer (R174) -/

/-- Lanes that move on keep their words. -/
theorem pairOff_moved (x : Ctx) (len a b l : Nat) : pairOff (x.moved len) a b l = pairOff x.co a b l := rfl
theorem Cohort.dataBytes_moved (x : Ctx) (len d n l : Nat) : (x.moved len).dataBytes d n l = x.co.dataBytes d n l := rfl
theorem Cohort.length_dataBytes (co : Cohort) (d n l : Nat) : (co.dataBytes d n l).length = n := length_leBytes n _
theorem State.spStore1_eq (s : State) (core grove off : Nat) (bs : List Byte) :
    s.spStore1 core grove .a off bs = (s.spWrite core grove .a off bs).fireGran core grove off bs.length := rfl
theorem State.sVerdict_go {s : State} {x : Ctx} {l off size : Nat} {b : Buf} {read : Bool} (h : s.spCheck x.core (s.groveOf x l) b off size size read = none) :
    s.sVerdict x l b off size read = .go := by
  rw [State.sVerdict, h]
theorem State.length_spRead (s : State) (core grove : Nat) (b : Buf) (off n : Nat) : (s.spRead core grove b off n).length = n := by
  unfold State.spRead
  split
  · simp
  · simp
theorem loadWords_word (bs : List Byte) (h : bs.length = 4) : loadWords bs false = [BitVec.ofNat 32 (leNat bs)] := by
  simp [loadWords, extendLoad, h]
/-- A load of a word by lanes that nothing in flight holds (R264): each takes its four bytes. -/
theorem State.spLoads_word {s : State} {x : Ctx} {ls : List Nat} {buf : Buf} {d : Nat} {off : Nat → Nat} (h : ∀ l ∈ ls, s.spNow x [l] false false = true) :
    s.spLoads x ls buf d off .b32 false =
      s.onCohort x fun co => co.write d .gen ls fun l => BitVec.ofNat 32 (leNat (s.spRead x.core (s.groveOf x l) buf (off l) 4)) := by
  have hheld : (ls.filter fun l => !ls.contains l) = [] := List.filter_eq_nil_iff.mpr fun l hl => by simpa using hl
  have hword : ∀ l, loadWords (s.spRead x.core (s.groveOf x l) buf (off l) Size.b32.bytes) false
      = [BitVec.ofNat 32 (leNat (s.spRead x.core (s.groveOf x l) buf (off l) 4))] := fun l => loadWords_word _ (s.length_spRead ..)
  simp only [State.spLoads, List.filter_eq_self.mpr h, hheld, hword]
  rfl
/-- ALD of the vector slot (R174, R264): each lane's four bytes. -/
theorem pair_ald_computes (g : Guard) (d a b e : Nat) : Computes (.pformPair g (noU e) { op := .ald, d := d, a := a, b := b }) g 8 [d, a, b] [a, b] [d]
    (each g fun s x l => s.spAfter (x.strand l) false false = [] ∧ s.spCheck x.core (s.groveOf x l) .a (pairOff x.co a b l) 4 4 true = none)
    (fun s x _ l => BitVec.ofNat 32 (leNat (s.spRead x.core (s.groveOf x l) .a (pairOff x.co a b l) 4))) := by
  intro s x hr hok
  have hctx := ((s.ready_iff x g [d, a, b] [a, b]).mp hr).1
  have hmoved : s.setPcs x x.xs (x.after 8) = s.setCohort x.core x.slot (x.moved 8) := s.setPcs_of x x.co _ _ (s.ctx_cohort x hctx).1
  have hnow : ∀ l ∈ x.en g, (s.setPcs x x.xs (x.after 8)).spNow { x with co := x.moved 8 } [l] false false = true := fun l hl =>
    State.spNow_one _ _ _ _ _ (by rw [State.spAfter_setPcs, Ctx.strand_moved]; exact (hok l hl).1)
  have hact : (planPair g (noU e) { op := .ald, d := d, a := a, b := b }).act (s.setPcs x x.xs (x.after 8)) x (x.en g)
      = (s.setPcs x x.xs (x.after 8)).onCohort x fun co =>
        co.write d .gen (x.en g) fun l => BitVec.ofNat 32 (leNat (s.spRead x.core (s.groveOf x l) .a (pairOff x.co a b l) 4)) := by
    show (s.setPcs x x.xs (x.after 8)).spLoads ((s.setPcs x x.xs (x.after 8)).again x) (x.en g) .a d (pairOff ((s.setPcs x x.xs (x.after 8)).again x).co a b) .b32 false = _
    rw [State.again_setPcs hctx, State.spLoads_word hnow]
    simp only [State.groveOf_moved, pairOff_moved, hmoved, State.spRead_setCohort]
    rfl
  obtain ⟨rs, hexec, hreg, hstale⟩ := s.exec_write_gen x (planPair g (noU e) { op := .ald, d := d, a := a, b := b }) d _ hr rfl rfl rfl rfl
    (fun l hl => by
      show s.sVerdict (s.again x) l .a (pairOff (s.again x).co a b l) 4 true = .go
      rw [State.again_of_ctx hctx]
      exact State.sVerdict_go (hok l hl).2) rfl (fun _ _ _ _ => rfl) hact
  exact ⟨rs, congrArg _ hexec, hreg, hstale⟩
/-- AST of the vector slot (R174, R264): each lane's word, in ascending order. -/
theorem pair_ast_acts (g : Guard) (d a b e : Nat) : Acts (.pformPair g (noU e) { op := .ast, d := d, a := a, b := b }) g 8 [d, a, b] [d, a, b]
    (each g fun s x l => s.spAfter (x.strand l) false true = [] ∧ s.spCheck x.core (s.groveOf x l) .a (pairOff x.co a b l) 4 4 false = none)
    (fun s x ls => ls.foldl (fun s l => (s.spWrite x.core (s.groveOf x l) .a (pairOff x.co a b l) (x.co.dataBytes d 4 l)).fireGran x.core (s.groveOf x l) (pairOff x.co a b l) 4) s) := by
  refine (pformPair_acts g (noU e) { op := .ast, d := d, a := a, b := b }).imp (fun s x hctx hok l hl => ?_) fun s x hctx hok => ?_
  · show s.sVerdict (s.again x) l .a (pairOff (s.again x).co a b l) 4 false = .go
    rw [State.again_of_ctx hctx]
    exact State.sVerdict_go (hok l hl).2
  · have hnow : (s.setPcs x x.xs (x.after 8)).spNow { x with co := x.moved 8 } (x.en g) false true = true :=
      State.spNow_of _ _ _ _ _ fun l hl => by rw [State.spAfter_setPcs, Ctx.strand_moved]; exact (hok l hl).1
    show (s.setPcs x x.xs (x.after 8)).spStores ((s.setPcs x x.xs (x.after 8)).again x) (x.en g) .a (pairOff ((s.setPcs x x.xs (x.after 8)).again x).co a b)
      (((s.setPcs x x.xs (x.after 8)).again x).co.dataBytes d 4) = _
    rw [State.again_setPcs hctx, State.spStores, if_pos hnow]
    simp only [State.groveOf_moved, pairOff_moved, Cohort.dataBytes_moved, State.spStore1_eq, Cohort.length_dataBytes]

/-- Settles O35: a pair is one plan of its two slots' plans; an empty slot leaves the other's plan. -/
theorem pairedForm : Obligations.PairedForm := by
  intro g d a b idle still U V off
  refine ⟨fun e => ?_, fun _ => map1_maps 0 fun _ => rfl, fun _ => map1_maps 0 fun _ => rfl, fun e => ?_, fun _ => map3_maps 0 fun _ => rfl, ?_, ?_, ?_, ?_, ?_, ?_, ?_,
    fun e => pair_ald_computes g d a b e, fun e => pair_ast_acts g d a b e, fun u v => pformPair_acts g u v⟩
  · exact (pformPair_acts g (noU e) (noV e)).imp (fun _ _ _ _ _ _ => rfl) fun _ _ _ _ => rfl
  · simp only [List.forall_mem_cons, List.not_mem_nil]
    exact ⟨iadd_maps 0 fun _ => rfl, map2_maps 0 fun _ => rfl, imul_maps 0 fun _ => rfl, map2_maps 0 fun _ => rfl, map2_maps 0 fun _ => rfl,
      map2_maps 0 fun _ => rfl, map2_maps 0 fun _ => rfl, map2_maps 0 fun _ => rfl, map2_maps 0 fun _ => rfl, map2_maps 0 fun _ => rfl, nofun⟩
  · exact fun e => mapPair_maps 0 (fun co => [co.shape a, co.shape (a + 1), co.shape b, co.shape (b + 1)]) (fun _ => rfl)
      (fun co co' h l => by simp only [Cohort.reg64_congr h])
      fun co h l m => congrArg₂ (· + ·) (co.reg64_uni a (h _ (by simp)) (h _ (by simp)) l m) (co.reg64_uni b (h _ (by simp)) (h _ (by simp)) l m)
  · exact fun e => lea_maps 0 fun _ => rfl
  · simp only [List.forall_mem_cons, List.not_mem_nil]
    exact fun e => ⟨mapPred_sets 0 (fun _ => rfl) fun co co' h _ l => by simp only [Cohort.reg_congr h],
      mapPred_sets 0 (fun _ => rfl) fun co co' h _ l => by simp only [Cohort.reg_congr h], nofun⟩
  · simp only [List.forall_mem_cons, List.not_mem_nil]
    exact fun e => ⟨iadd_maps 0 fun _ => rfl, map2_maps 0 fun _ => rfl, imul_maps 0 fun _ => rfl, map2_maps 0 fun _ => rfl, map2_maps 0 fun _ => rfl,
      map2_maps 0 fun _ => rfl, map2_maps 0 fun _ => rfl, map2_maps 0 fun _ => rfl, map2_maps 0 fun _ => rfl, map2_maps 0 fun _ => rfl,
      map2_maps 0 fun _ => rfl, map2_maps 0 fun _ => rfl, map2_maps 0 fun _ => rfl, map2_maps 0 fun _ => rfl, map2_maps 0 fun _ => rfl, nofun⟩
  · simp only [List.forall_mem_cons, List.not_mem_nil]
    exact fun e => ⟨map3_maps 0 fun _ => rfl, map3_maps 0 fun _ => rfl, map3_maps 0 fun _ => rfl, map3_maps 0 fun _ => rfl, nofun⟩
  · exact fun e => mapPred_sets 0 (fun _ => rfl) fun co co' h _ l => by simp only [Cohort.reg_congr h]
  · exact fun e => mapPred_sets 0 (fun _ => rfl) fun co co' h _ l => by simp only [Cohort.reg_congr h]

end Sys2Proof.Machine
end

section
/-! FENCE (R140, R143, R164, R262): what of a strand is in flight, its fences follow, and its later accesses follow those. -/
namespace Sys2Proof.Machine

/-! A place in the order -/

theorem State.find?_modStrand {s : State} {n : Nat} {y : Strand} (f : Strand → Strand) (h : s.strands.find? n = some y) :
    (s.modStrand n f).strands.find? n = some (f y) := by
  rw [State.modStrand, NMap.find?_adj, if_pos rfl, h]
  rfl
/-- The operation that a fence adds. -/
def State.fenceOp (s : State) (x : Ctx) (l : Nat) (ord : Ord) (sc : Scope) (after : List Nat) : MemOp :=
  { s.newOp x l .fence none 0 0 0 0 with after := after.eraseDups, ord := ord, sc := sc }
theorem State.addFence_ops (s : State) (x : Ctx) (l : Nat) (ord : Ord) (sc : Scope) (after : List Nat) :
    (s.addFence x l ord sc after).ops = s.ops ++ [s.fenceOp x l ord sc after] := rfl
theorem State.fenceOp_mem (s : State) (x : Ctx) (l : Nat) (ord : Ord) (sc : Scope) (after : List Nat) :
    s.fenceOp x l ord sc after ∈ (s.addFence x l ord sc after).ops := by simp [State.addFence_ops]
/-- An acquiring fence holds every later access of its strand. -/
theorem State.addFence_acq {s : State} {x : Ctx} {l : Nat} {y : Strand} {ord : Ord} (sc : Scope) (after : List Nat) (hacq : ord.isAcq = true)
    (h : s.strands.find? (x.strand l) = some y) :
    (s.addFence x l ord sc after).strands.find? (x.strand l) = some { y with befAll := y.befAll ++ [s.seq] } :=
  (State.find?_modStrand _ h).trans (congrArg some (if_pos hacq))
/-- A releasing fence holds its strand's later stores. -/
theorem State.addFence_rel {s : State} {x : Ctx} {l : Nat} {y : Strand} (sc : Scope) (after : List Nat) (h : s.strands.find? (x.strand l) = some y) :
    (s.addFence x l .rel sc after).strands.find? (x.strand l) = some { y with befStore := y.befStore ++ [s.seq] } :=
  State.find?_modStrand _ h

/-! The two halves of a fence -/

/-- What a fence of a lane finds in flight: its strand's operations, and what its core alone sees yet. -/
def State.ahead (s : State) (x : Ctx) (l : Nat) : List Nat :=
  ((s.ops.filter fun o => o.of (x.strand l) && !o.cxlOpen) ++ s.ops.filter fun o => o.early && o.core == x.core).map MemOp.id
/-- The acquires and fences in flight that a strand's accesses already follow. -/
def State.fenceHeld (s : State) (x : Ctx) (l : Nat) : List Nat := ((s.strands.find? (x.strand l)).elim [] fun y => y.befAll).filter s.flying
/-- A release at .sys takes a place in the order while operations are in flight in CXL mode (R164). -/
def State.fenceHost (s : State) (sc : Scope) : Bool := sc == .sys && s.host.cxl && !s.ops.isEmpty
/-- The releasing half of a fence. -/
def State.fenceRel (s : State) (x : Ctx) (sc : Scope) (l : Nat) : State :=
  if s.fenceHost sc then s.addFence x l .rel sc (s.ahead x l ++ s.fenceHeld x l)
  else s.modStrand (x.strand l) fun y => { y with befStore := (y.befStore ++ s.ahead x l).eraseDups }
/-- What the acquiring half of a fence follows. -/
def State.fenceAfter (s : State) (x : Ctx) (kind : FenceKind) (l : Nat) : List Nat :=
  (if kind == .sc then s.ahead x l else ((s.ops.filter fun o => o.of (x.strand l) && !o.cxlOpen).filter MemOp.reads).map MemOp.id) ++ s.fenceHeld x l
theorem State.fenceOne_eq (s : State) (x : Ctx) (kind : FenceKind) (sc : Scope) (l : Nat) :
    s.fenceOne x kind sc l =
      let r := if kind == .acq then s else s.fenceRel x sc l
      if kind == .rel then r else if (s.fenceAfter x kind l).isEmpty && !(kind == .sc && s.fenceHost sc) then r
      else r.addFence x l (if kind == .sc then .acqrel else .acq) sc (s.fenceAfter x kind l) := rfl

theorem State.mem_ahead {s : State} {x : Ctx} {l : Nat} {o : MemOp} (ho : o ∈ s.ops) (hof : o.of (x.strand l) = true) (hopen : o.cxlOpen = false) :
    o.id ∈ s.ahead x l :=
  List.mem_map_of_mem (List.mem_append_left _ (List.mem_filter.mpr ⟨ho, by simp [hof, hopen]⟩))
theorem State.mem_fenceAfter {s : State} {x : Ctx} {kind : FenceKind} {l : Nat} {o : MemOp} (ho : o ∈ s.ops) (hof : o.of (x.strand l) = true)
    (hopen : o.cxlOpen = false) (hkind : kind = .sc ∨ (kind ≠ .rel ∧ o.reads = true)) : o.id ∈ s.fenceAfter x kind l := by
  refine List.mem_append_left _ ?_
  by_cases hsc : kind = .sc
  · simpa [hsc] using s.mem_ahead ho hof hopen
  · have hreads : o.reads = true := hkind.elim (fun h => absurd h hsc) And.right
    simp only [beq_iff_eq, hsc, if_false]
    exact List.mem_map_of_mem (List.mem_filter.mpr ⟨List.mem_filter.mpr ⟨ho, by simp [hof, hopen]⟩, hreads⟩)

/-- Later stores of a strand follow an operation: themselves, or behind a fence at .sys in CXL mode. -/
def State.StoresFollow (s t : State) (x : Ctx) (sc : Scope) (l : Nat) (y : Strand) (o : MemOp) : Prop :=
  if sc = .sys ∧ s.host.cxl = true then
    ∃ f ∈ t.ops, f.kind = .fence ∧ f.ord = .rel ∧ f.sc = .sys ∧ f.strand = x.strand l ∧ o.id ∈ f.after ∧ f.id ∈ y.befStore
  else o.id ∈ y.befStore
/-- Every later access of a strand follows a fence that follows an operation. -/
def State.AllFollow (t : State) (x : Ctx) (l : Nat) (y : Strand) (o : MemOp) : Prop :=
  ∃ f ∈ t.ops, f.kind = .fence ∧ f.strand = x.strand l ∧ o.id ∈ f.after ∧ f.id ∈ y.befAll
theorem State.fenceRel_follow {s : State} {x : Ctx} {sc : Scope} {l : Nat} {y : Strand} (h : s.strands.find? (x.strand l) = some y) :
    ∃ z, (s.fenceRel x sc l).strands.find? (x.strand l) = some z ∧
      ∀ o ∈ s.ops, o.of (x.strand l) = true → o.cxlOpen = false → s.StoresFollow (s.fenceRel x sc l) x sc l z o := by
  unfold State.fenceRel
  by_cases hhost : s.fenceHost sc = true
  · rw [if_pos hhost]
    refine ⟨_, State.addFence_rel _ _ h, fun o ho hof hopen => ?_⟩
    simp only [State.fenceHost, Bool.and_eq_true, beq_iff_eq] at hhost
    obtain ⟨⟨rfl, hcxl⟩, -⟩ := hhost
    rw [State.StoresFollow, if_pos ⟨rfl, hcxl⟩]
    exact ⟨_, State.fenceOp_mem .., rfl, rfl, rfl, rfl, List.mem_eraseDups.mpr (List.mem_append_left _ (s.mem_ahead ho hof hopen)),
      List.mem_append_right _ (List.mem_singleton.mpr rfl)⟩
  · rw [if_neg hhost]
    refine ⟨_, State.find?_modStrand _ h, fun o ho hof hopen => ?_⟩
    have hno : ¬(sc = .sys ∧ s.host.cxl = true) := fun ⟨hsys, hcxl⟩ => hhost (by
      simp only [State.fenceHost, hsys, hcxl, List.isEmpty_eq_false_iff_exists_mem.mpr ⟨o, ho⟩]
      rfl)
    rw [State.StoresFollow, if_neg hno]
    exact List.mem_eraseDups.mpr (List.mem_append_right _ (s.mem_ahead ho hof hopen))
/-- What follows by the releasing half follows still when an acquiring fence is added. -/
theorem State.StoresFollow.addFence {s r : State} {x : Ctx} {sc : Scope} {l : Nat} {y : Strand} {o : MemOp} (h : s.StoresFollow r x sc l y o) (ord : Ord)
    (after : List Nat) (ids : List Nat) : s.StoresFollow (r.addFence x l ord sc after) x sc l { y with befAll := ids } o := by
  unfold State.StoresFollow at h ⊢
  split
  next hsys =>
    rw [if_pos hsys] at h
    obtain ⟨f, hf, hrest⟩ := h
    exact ⟨f, by rw [State.addFence_ops]; exact List.mem_append_left _ hf, hrest⟩
  next hno =>
    rw [if_neg hno] at h
    exact h
/-- A fence of one strand: what it releases its later stores follow, what it acquires all its later accesses follow. -/
theorem State.fenceOne_follow {s : State} {x : Ctx} (kind : FenceKind) (sc : Scope) {l : Nat} (h : (s.strands.find? (x.strand l)).isSome = true) :
    ∃ y, (s.fenceOne x kind sc l).strands.find? (x.strand l) = some y ∧ ∀ o ∈ s.ops, o.of (x.strand l) = true → o.cxlOpen = false →
      (kind ≠ .acq → s.StoresFollow (s.fenceOne x kind sc l) x sc l y o) ∧
      (kind = .sc ∨ (kind ≠ .rel ∧ o.reads = true) → (s.fenceOne x kind sc l).AllFollow x l y o) := by
  obtain ⟨y, hy⟩ := Option.isSome_iff_exists.mp h
  rw [State.fenceOne_eq]
  extract_lets r
  have hr : ∃ z, r.strands.find? (x.strand l) = some z ∧
      ∀ o ∈ s.ops, o.of (x.strand l) = true → o.cxlOpen = false → kind ≠ .acq → s.StoresFollow r x sc l z o := by
    by_cases hacq : kind = .acq
    · exact ⟨y, by simp only [r, hacq, beq_self_eq_true, if_true]; exact hy, fun _ _ _ _ h => absurd hacq h⟩
    · obtain ⟨z, hz, hfollow⟩ := State.fenceRel_follow (sc := sc) hy
      have he : r = s.fenceRel x sc l := if_neg (by simpa using hacq)
      rw [he]
      exact ⟨z, hz, fun o ho hof hopen _ => hfollow o ho hof hopen⟩
  clear_value r
  obtain ⟨z, hz, hfollow⟩ := hr
  have hbare (hnone : ∀ o ∈ s.ops, o.of (x.strand l) = true → o.cxlOpen = false → ¬(kind = .sc ∨ (kind ≠ .rel ∧ o.reads = true))) :
      ∃ y, r.strands.find? (x.strand l) = some y ∧ ∀ o ∈ s.ops, o.of (x.strand l) = true → o.cxlOpen = false →
        (kind ≠ .acq → s.StoresFollow r x sc l y o) ∧ (kind = .sc ∨ (kind ≠ .rel ∧ o.reads = true) → r.AllFollow x l y o) :=
    ⟨z, hz, fun o ho hof hopen => ⟨hfollow o ho hof hopen, fun hk => absurd hk (hnone o ho hof hopen)⟩⟩
  split
  next hrel =>
    rw [beq_iff_eq] at hrel
    exact hbare fun o _ _ _ => by simp [hrel]
  next =>
    split
    next hempty =>
      rw [Bool.and_eq_true, List.isEmpty_iff] at hempty
      exact hbare fun o ho hof hopen hk => List.not_mem_nil (hempty.1 ▸ State.mem_fenceAfter ho hof hopen hk)
    next =>
      refine ⟨_, State.addFence_acq _ _ (by split <;> rfl) hz, fun o ho hof hopen => ⟨fun hk => (hfollow o ho hof hopen hk).addFence _ _ _, fun hk => ?_⟩⟩
      exact ⟨_, State.fenceOp_mem .., rfl, rfl, List.mem_eraseDups.mpr (State.mem_fenceAfter ho hof hopen hk), List.mem_append_right _ (List.mem_singleton.mpr rfl)⟩

/-- An acquire wider than the core empties its L1 data cache (R140). -/
theorem State.l1d_acquire (s : State) (c : Nat) {sc : Scope} (h : sc ≠ .core) : ((s.acquire c sc).core c).l1d = [] := by
  rw [State.acquire, if_neg h, State.invalidateL1]
  simp

/-- Settles O23: FENCE adds its operations at once; each half of it makes what follows wait for what it found. -/
theorem fenceOrders : Obligations.FenceOrders := fun g kind sc =>
  ⟨acts_plain _ g 12 (opc .fence) [] [] _ fun _ => rfl, fun _ _ _ h => State.fenceOne_follow kind sc h, fun s c h => s.l1d_acquire c h⟩

end Sys2Proof.Machine
end

section
/-! Code objects and import stubs, an equation per outcome of each request (R195, R196, R337 to R342, R349, R411). -/
namespace Sys2Proof.Machine

/-! Reads outside the package -/

/-- A unit that has all that it reads goes on. -/
theorem State.whenRead_all {s : State} {core master : Nat} {rs : List (Nat × Nat × Nat)} (go : State → State) (h : s.unread (s.awayAll core master rs) = []) :
    s.whenRead core master rs go = (go s).unitsRead (s.awayAll core master rs) :=
  if_pos (List.isEmpty_iff.mpr h)
/-- A unit asks first for what it reads outside the package. -/
theorem State.whenRead_some {s : State} {core master : Nat} {rs : List (Nat × Nat × Nat)} (go : State → State) (h : s.unread (s.awayAll core master rs) ≠ []) :
    s.whenRead core master rs go = s.askUnits (rs.headD (0, 0, 0)).1 (s.unread (s.awayAll core master rs)) :=
  if_neg (mt List.isEmpty_iff.mp h)
theorem State.imageRanges_head (s : State) (p va : Nat) : ((s.imageRanges p va).headD (0, 0, 0)).1 = p := by
  unfold State.imageRanges
  split
  · rfl
  · rfl

/-! Objects -/

/-- What a refused object had executable is so no longer (R196). -/
theorem State.not_mem_execBits_refuse (s : State) {p va why page : Nat} {o : CodeObj} (ho : o ∈ s.trust.objs) (hp : o.part = p) (hva : o.va = va) (hpage : page ∈ o.pages) :
    page ∉ (s.refuse p va why).trust.execBits := by
  have hat : o.isAt p va = true := by simp [CodeObj.isAt, hp, hva]
  have hmem : page ∈ (s.trust.objs.filter fun q => q.isAt p va).flatMap CodeObj.pages := List.mem_flatMap.mpr ⟨o, List.mem_filter.mpr ⟨ho, hat⟩, hpage⟩
  intro h
  obtain ⟨-, hkept⟩ := List.mem_filter.mp h
  simp [hmem] at hkept
/-- An accepted image's pages are executable (R339). -/
theorem State.mem_execBits_accept (s : State) (o : CodeObj) (b : List Byte) {pages : List Nat} {page : Nat} (h : page ∈ pages) :
    page ∈ (s.accept o b pages).trust.execBits := List.mem_eraseDups.mpr (List.mem_append_right _ h)
/-- Its digest joins the chain (R349). -/
theorem State.chain_accept (s : State) (o : CodeObj) (b : List Byte) (pages : List Nat) :
    ((s.accept o b pages).part o.part).chain = sha512 ((s.part o.part).chain ++ sha512 (b.take (getLe b 0x40 4 + 8))) := by
  unfold State.accept
  rw [State.part_modPart]
  rfl
/-- The object of a load request over an image. -/
def State.objOf (s : State) (p : Nat) (b : List Byte) (ok : Bool) (pages : List Nat) : CodeObj :=
  { part := p, va := s.loadVa p, len := b.length, accepted := ok, refused := false, why := 0, pages := pages, keyid := getLe b (getLe b 0x40 4) 4 }
theorem State.loadObj_error {s : State} {p w : Nat} (h : s.verify p (s.loadVa p) = .error w) :
    s.loadObj p = (s.refuse p (s.loadVa p) w).schedule (.loaderDone p 4 w) := by
  simp only [State.loadObj, h]
theorem State.loadObj_ok {s : State} {p : Nat} {b : List Byte} {pages : List Nat} (h : s.verify p (s.loadVa p) = .ok (b, pages)) :
    s.loadObj p = (s.accept (s.objOf p b true pages) b pages).schedule (.loaderDone p 2 0) := by
  simp only [State.loadObj, h]
  rfl
theorem State.registerObj_ok {s : State} {p : Nat} {b : List Byte} (h : s.readImage p (s.loadVa p) = some b) (hh : headerBad b = false) (ht : tablesBad b = false) :
    s.registerObj p = (s.putObj (s.objOf p b false [])).schedule (.loaderDone p 3 0) := by
  simp only [State.registerObj, h, hh, ht]
  rfl
/-- Why the registration of an object's exports is refused: its image cannot be read, or its header or its tables are bad (R339). -/
def State.RegisterWhy (s : State) (p w : Nat) : Prop :=
  w = 9 ∧ s.readImage p (s.loadVa p) = none ∨
    ∃ b, s.readImage p (s.loadVa p) = some b ∧ (w = 1 ∧ headerBad b = true ∨ w = 2 ∧ headerBad b = false ∧ tablesBad b = true)
theorem State.registerObj_refused {s : State} {p w : Nat} (h : s.RegisterWhy p w) :
    s.registerObj p = (s.refuse p (s.loadVa p) w).schedule (.loaderDone p 4 w) := by
  rcases h with ⟨rfl, hnone⟩ | ⟨b, hsome, ⟨rfl, hh⟩ | ⟨rfl, hh, ht⟩⟩
  · simp only [State.registerObj, hnone]
  · simp only [State.registerObj, hsome, hh, if_true]
  · simp only [State.registerObj, hsome, hh, ht, Bool.false_eq_true, if_false, if_true]

/-! Requests of the loader -/

theorem exec_loadObject {s : State} {p : Nat} (h : s.loading p = true) :
    exec (.loadObject p) s = .next (s.whenRead noCore 0x30 (s.imageRanges p (s.loadVa p)) (·.loadObj p)) := congrArg _ (if_pos h)
theorem exec_registerExport {s : State} {p : Nat} (h : s.loading p = true) :
    exec (.registerExport p) s = .next (s.whenRead noCore 0x30 (s.imageRanges p (s.loadVa p)) (·.registerObj p)) := congrArg _ (if_pos h)
/-- A request asks first for what of the image lies outside the package. -/
theorem exec_load_asks {s : State} {p : Nat} (h : s.loading p = true) (hr : s.unread (s.awayAll noCore 0x30 (s.imageRanges p (s.loadVa p))) ≠ []) :
    ∀ e ∈ [Instr.loadObject p, .registerExport p], exec e s = .next (s.askUnits p (s.unread (s.awayAll noCore 0x30 (s.imageRanges p (s.loadVa p))))) := by
  simp only [List.forall_mem_cons, List.not_mem_nil]
  refine ⟨?_, ?_, nofun⟩
  · rw [exec_loadObject h, State.whenRead_some _ hr, State.imageRanges_head]
  · rw [exec_registerExport h, State.whenRead_some _ hr, State.imageRanges_head]
/-- An unloaded object is gone (R339). -/
theorem exec_unloadObject {s : State} {p : Nat} (h : s.loading p = true) :
    ∃ t, exec (.unloadObject p) s = .next (State.schedule t (.loaderDone p 5 0)) ∧ (∀ o ∈ t.trust.objs, o.part ≠ p ∨ o.va ≠ s.loadVa p) ∧ t.mem = s.mem := by
  refine ⟨_, congrArg _ (if_pos h), fun o ho => ?_, rfl⟩
  obtain ⟨-, hat⟩ := List.mem_filter.mp ho
  by_cases hp : o.part = p
  · exact .inr fun hva => by simp [CodeObj.isAt, hp, hva] at hat
  · exact .inl hp
/-- Without a request in progress nothing happens. -/
theorem exec_load_idle {s : State} {p : Nat} (h : s.loading p = false) :
    ∀ e ∈ [Instr.loadObject p, .registerExport p, .unloadObject p, .loaderDone p 2 0], exec e s = .next s := by
  have hno : ¬s.loading p = true := by simp [h]
  simp only [List.forall_mem_cons, List.not_mem_nil]
  exact ⟨congrArg _ (if_neg hno), congrArg _ (if_neg hno), congrArg _ (if_neg hno), congrArg _ (if_neg hno), nofun⟩

/-! Import stubs -/

/-- The stub of the oldest post, by its STATE (R342). -/
def State.stubTurn (s : State) (p obj va : Nat) (t : List (Nat × Nat × Nat)) (stub : Nat × DWord) : State :=
  let drop := { s with trust := { s.trust with posts := t } }
  match getLe (s.readAs stub.2 stub.1 16) 8 4 with
  | 0 => s.setStub stub 0 1 0
  | 1 => s.whenRead noCore 0x30 ((s.trust.objs.filter fun o => o.part == p).flatMap fun o => s.imageRanges p o.va) fun s =>
      { s with trust := { s.trust with posts := t } }.bindStub p obj va stub
  | _ => drop
theorem exec_stubBind_unreached {s : State} {p obj va : Nat} {t : List (Nat × Nat × Nat)} (h : s.trust.posts = (p, obj, va) :: t) (hpa : s.stubPa p va = none) :
    exec .stubBind s = .next { s with trust := { s.trust with posts := t } } := by
  show execStubBind s = _
  simp only [execStubBind, h, hpa]
theorem exec_stubBind_reached {s : State} {p obj va pa : Nat} {leaf : DWord} {t : List (Nat × Nat × Nat)} (h : s.trust.posts = (p, obj, va) :: t)
    (hpa : s.stubPa p va = some (pa, leaf)) (hfree : s.hostHolds pa 16 = []) : exec .stubBind s = .next (s.stubTurn p obj va t (pa, leaf)) := by
  show execStubBind s = _
  simp only [execStubBind, h, hpa, State.whenFree, hfree]
  rfl
theorem State.stubTurn_begins {s : State} {p obj va pa : Nat} {leaf : DWord} {t : List (Nat × Nat × Nat)} (h : getLe (s.readAs leaf pa 16) 8 4 = 0) :
    s.stubTurn p obj va t (pa, leaf) = s.setStub (pa, leaf) 0 1 0 := by
  simp only [State.stubTurn, h]
theorem State.stubTurn_binds {s : State} {p obj va pa : Nat} {leaf : DWord} {t : List (Nat × Nat × Nat)} (h : getLe (s.readAs leaf pa 16) 8 4 = 1)
    (hr : s.unread (s.awayAll noCore 0x30 ((s.trust.objs.filter fun o => o.part == p).flatMap fun o => s.imageRanges p o.va)) = []) :
    s.stubTurn p obj va t (pa, leaf) = (({ s with trust := { s.trust with posts := t } } : State).bindStub p obj va (pa, leaf)).unitsRead
      (s.awayAll noCore 0x30 ((s.trust.objs.filter fun o => o.part == p).flatMap fun o => s.imageRanges p o.va)) := by
  simp only [State.stubTurn, h, State.whenRead_all _ hr]
theorem State.stubTurn_drops {s : State} {p obj va pa : Nat} {leaf : DWord} {t : List (Nat × Nat × Nat)} (h : 1 < getLe (s.readAs leaf pa 16) 8 4) :
    s.stubTurn p obj va t (pa, leaf) = { s with trust := { s.trust with posts := t } } := by
  unfold State.stubTurn
  dsimp only
  split
  next h0 => omega
  next h1 => omega
  next => rfl

end Sys2Proof.Machine
end

section
/-! Requests through the mailbox of the root of trust, an equation per outcome, and the events of the loader and the mailbox as the claim puts them (R346, R348, R351, R433, R434, R470, R471). -/
namespace Sys2Proof.Machine

/-! Keys and descriptors -/

theorem State.asked_of {s : State} (hd : s.trust.mbdoor = 1) (hr : s.trust.recovery = false) : s.asked = true := by
  simp [State.asked, hd, hr]
theorem exec_mailboxAccessTable {s : State} (ha : s.asked = true) (target master i : Nat) (desc : BitVec 256) (ht : target < 4) (hm : master < 256) (hi : i < 8) :
    ∃ t, exec (.mailboxAccessTable target master i desc) s = .next (State.reply t 2 0 []) ∧
      (t.trust.access.getD (256 * target + master) [])[i]? = some (desc &&& descMask) ∧ t.mem = s.mem := by
  have hno : ¬(!s.asked) = true := by simp [ha]
  have hin : ¬(4 ≤ target || 256 ≤ master || 8 ≤ i) = true := by simp; omega
  refine ⟨_, congrArg _ ((if_neg hno).trans (if_neg hin)), ?_, rfl⟩
  have hlen : i < (s.trust.access.getD (256 * target + master) [] ++ List.replicate (8 - (s.trust.access.getD (256 * target + master) []).length) 0).length := by
    simp; omega
  simp only [NMap.getD_put_same]
  exact List.getElem?_set_self hlen
theorem exec_mailboxAccessTable_refused {s : State} (ha : s.asked = true) (target master i : Nat) (desc : BitVec 256) (h : 4 ≤ target ∨ 256 ≤ master ∨ 8 ≤ i) :
    exec (.mailboxAccessTable target master i desc) s = .next (s.reply 3 0 []) := by
  have hno : ¬(!s.asked) = true := by simp [ha]
  exact congrArg _ ((if_neg hno).trans (if_pos (by simpa [or_assoc] using h)))
/-- A slot takes its new key, and lines under the former one fail their tag (R348, R426). -/
theorem exec_mailboxKeyLoad {s : State} (ha : s.asked = true) (slot : Nat) (h0 : slot ≠ 0) (h64 : slot < 64) :
    ∃ t, exec (.mailboxKeyLoad slot) s = .next (State.reply t 2 0 []) ∧ t.trust.slots.find? slot = some s.stepN ∧
      ∀ x ∈ s.slotLines, x.2 % 64 = slot → x.1 ∈ t.tagBad := by
  have hno : ¬(!s.asked) = true := by simp [ha]
  have hin : ¬(slot == 0 || 64 ≤ slot) = true := by simp; omega
  refine ⟨_, congrArg _ ((if_neg hno).trans (if_neg hin)), NMap.find?_put_same .., fun x hx hslot => ?_⟩
  exact List.mem_eraseDups.mpr (List.mem_append_right _ (List.mem_map_of_mem (List.mem_filter.mpr ⟨hx, by simpa using hslot⟩)))
theorem exec_mailboxKeyLoad_refused {s : State} (ha : s.asked = true) (slot : Nat) (h : slot = 0 ∨ 64 ≤ slot) :
    exec (.mailboxKeyLoad slot) s = .next (s.reply 3 0 []) := by
  have hno : ¬(!s.asked) = true := by simp [ha]
  exact congrArg _ ((if_neg hno).trans (if_pos (by simpa using h)))

/-! Forensic access -/

theorem exec_forensicChallenge {s : State} (ha : s.asked = true) (h : s.mb 0 4 = 0x50) :
    ∃ t c, exec .forensicChallenge s = .next (State.reply t 2 0x10 (leBytes 64 c)) ∧ t.trust.challenge = some c ∧ t.mem = s.mem ∧ t.cores = s.cores := by
  have hno : ¬(!s.asked || s.mb 0 4 != 0x50) = true := by simp [ha, h]
  exact ⟨_, _, congrArg _ (if_neg hno), rfl, rfl, rfl⟩
/-- The signature of an unlock request over its first 0x50 bytes. -/
def State.unlockSigned (s : State) : Bool :=
  s.sigOk (fun _ => true) (s.mb 8 4) ((padTo 4088 s.trust.mailbox).take 0x50) (((padTo 4088 s.trust.mailbox).drop 0x50).take 512)
/-- All that an unlock request needs (R433). -/
def State.unlockOk (s : State) : Bool :=
  s.trust.challenge == some (s.mb 0x10 64) && s.knownKey (s.mb 8 4) && decide (s.mb 4 2 < 16) && s.mb 6 2 == 0 && s.mb 0xC 4 == 0 && s.unlockSigned
/-- The state whose challenge has been answered. -/
def State.spent (s : State) : State := { s with trust := { s.trust with challenge := none } }
theorem exec_forensicUnlock {s : State} (ha : s.asked = true) (h : s.mb 0 4 = 0x51) : exec .forensicUnlock s = .next
    (if s.unlockOk then (((s.spent.clearPart (s.mb 4 2)).modPart (s.mb 4 2) fun q => { q with forensic := true }).forensicRec (s.mb 4 2) 1 (s.mb 8 4)).reply 2 0 []
      else s.spent.reply 3 0 []) := by
  have hno : ¬(!s.asked || s.mb 0 4 != 0x51) = true := by simp [ha, h]
  exact congrArg _ (if_neg hno)
theorem State.unlockOk_eq_false {s : State}
    (h : s.trust.challenge ≠ some (s.mb 0x10 64) ∨ s.knownKey (s.mb 8 4) = false ∨ 16 ≤ s.mb 4 2 ∨ s.unlockSigned = false) : ¬s.unlockOk = true := by
  simp only [State.unlockOk, Bool.and_eq_true, beq_iff_eq, decide_eq_true_eq]
  rintro ⟨⟨⟨⟨⟨hch, hkey⟩, hp⟩, -⟩, -⟩, hsig⟩
  rcases h with h | h | h | h
  · exact h hch
  · simp [hkey] at h
  · omega
  · simp [hsig] at h
theorem exec_forensicRelock {s : State} (ha : s.asked = true) (h : s.mb 0 4 = 0x52) (hkey : s.knownKey (s.mb 8 4) = true) (hp : s.mb 4 2 < 16) (h6 : s.mb 6 2 = 0)
    (hC : s.mb 0xC 4 = 0) : exec .forensicRelock s = .next
      (((s.modPart (s.mb 4 2) fun q => { q with forensic := false }).forensicRec (s.mb 4 2) 2 (s.mb 8 4)).reply 2 0 []) := by
  have hno : ¬(!s.asked || s.mb 0 4 != 0x52) = true := by simp [ha, h]
  have hok : (s.knownKey (s.mb 8 4) && decide (s.mb 4 2 < 16) && s.mb 6 2 == 0 && s.mb 0xC 4 == 0) = true := by simp [hkey, hp, h6, hC]
  exact congrArg _ ((if_neg hno).trans (if_pos hok))

/-! In-field test -/

/-- The groves of a stand leave it (R471 step 2). -/
def State.emptyStand (s : State) (stand : Nat) : State :=
  let s := { s with pow := { s.pow with outOfService := s.pow.outOfService ++ [stand] } }
  let gs := s.groves.filter fun (x : Nat × Grove) => x.2.placed && x.2.evicting.isNone && standOf x.2.core == stand
  ((gs.flatMap fun x => s.pairOf x.1).eraseDups).foldl (fun s k => s.evictBegin 0 k) s
/-- What a test request comes to once its package has been read (R470). -/
def State.iftTurn (s : State) (stand : Nat) : State :=
  match (if s.mb 6 2 != 0 then some 1 else s.iftWhy stand (s.mb 8 8)) with
  | some w => (s.log 0 (sysRec 3 2 0x4009 0x8000 0 0 0 w 0)).reply 3 0 []
  | none => s.emptyStand stand
theorem State.iftTurn_refused {s : State} {stand w : Nat} (h6 : s.mb 6 2 = 0) (h : s.iftWhy stand (s.mb 8 8) = some w) :
    s.iftTurn stand = (s.log 0 (sysRec 3 2 0x4009 0x8000 0 0 0 w 0)).reply 3 0 [] := by
  have hno : ¬(s.mb 6 2 != 0) = true := by simp [h6]
  simp only [State.iftTurn, if_neg hno, h]
theorem State.iftTurn_accepted {s : State} {stand : Nat} (h6 : s.mb 6 2 = 0) (h : s.iftWhy stand (s.mb 8 8) = none) : s.iftTurn stand = s.emptyStand stand := by
  have hno : ¬(s.mb 6 2 != 0) = true := by simp [h6]
  simp only [State.iftTurn, if_neg hno, h]
theorem exec_iftRequest {s : State} (ha : s.asked = true) (h : s.mb 0 4 = 0x60) (hout : s.pow.outOfService = []) (h6 : s.mb 6 2 = 0) :
    exec .iftRequest s = .next (s.whenRead noCore 0x30 (s.imageRanges 0 (s.mb 8 8)) fun t => t.iftTurn (s.mb 4 2)) := by
  have hno : ¬(!s.asked || s.mb 0 4 != 0x60 || !s.pow.outOfService.isEmpty) = true := by simp [ha, h, hout]
  have hranges : (if s.mb 6 2 != 0 then [] else s.imageRanges 0 (s.mb 8 8)) = s.imageRanges 0 (s.mb 8 8) := if_neg (by simp [h6])
  rw [← hranges]
  exact congrArg _ (if_neg hno)
theorem State.emptyStand_of_none {s : State} (stand : Nat) (hout : s.pow.outOfService = []) (h : ∀ x ∈ s.groves, x.2.placed = false) :
    s.emptyStand stand = { s with pow := { s.pow with outOfService := [stand] } } := by
  have hgs : (s.groves.filter fun (x : Nat × Grove) => x.2.placed && x.2.evicting.isNone && standOf x.2.core == stand) = [] :=
    List.filter_eq_nil_iff.mpr fun x hx => by simp [h x hx]
  simp only [State.emptyStand, hgs, hout]
  rfl
/-- A stand whose cores all pass its scan returns (R471 steps 3 to 5). -/
theorem exec_iftScanDone {s : State} (ha : s.asked = true) {stand : Nat} (hout : s.pow.outOfService.contains stand = true)
    (hempty : ∀ c ∈ s.standCores stand, (s.core c).groves = []) :
    let all := maskOf ((s.standCores stand).map (· - 8 * stand))
    let t := s.log 0 (sysRec 3 0 0x400A 0x9000 0 0 0 stand all)
    exec (.iftScanDone stand []) s =
      .next ({ t with pow := { t.pow with outOfService := t.pow.outOfService.filter (· != stand) } }.reply 2 0x10 (leBytes 8 all)) := by
  have hbusy : (s.standCores stand).any (fun c => !(s.core c).groves.isEmpty) = false :=
    List.any_eq_false.mpr fun c hc => by simp [hempty c hc]
  have hno : ¬(!s.asked || !(s.pow.outOfService.contains stand) || (s.standCores stand).any (fun c => !(s.core c).groves.isEmpty)) = true := by
    simp only [ha, hout, hbusy]
    decide
  refine (congrArg _ (if_neg hno)).trans ?_
  simp only [List.filter_nil, List.foldl_nil, List.any_nil, Bool.not_false, List.filter_true, List.map_nil, List.eraseDups_nil, List.append_nil]

/-- Settles O53: an equation per outcome of each request. -/
theorem loaderAndMailboxEvents : Obligations.LoaderAndMailboxEvents := by
  refine ⟨fun s p => ⟨fun h hr => exec_load_asks h hr, fun h hr => ⟨fun w hw => ?_, fun b pages hb => ?_, fun b hb hh ht => ?_, fun w hw => ?_, exec_unloadObject h,
    fun st why => congrArg _ (if_pos h)⟩, exec_load_idle⟩, fun s p obj va t hposts => ⟨exec_stubBind_unreached hposts, fun pa leaf hpa hfree => ?_⟩, fun s hd hrec => ?_⟩
  · rw [exec_loadObject h, State.whenRead_all _ hr, State.loadObj_error hw]
    exact ⟨rfl, fun o ho hp hva page hpage => s.not_mem_execBits_refuse ho hp hva hpage⟩
  · rw [exec_loadObject h, State.whenRead_all _ hr, State.loadObj_ok hb]
    exact ⟨rfl, s.chain_accept (s.objOf p b true pages) b pages, fun page hpage => s.mem_execBits_accept _ b hpage⟩
  · rw [exec_registerExport h, State.whenRead_all _ hr, State.registerObj_ok hb hh ht]
    rfl
  · rw [exec_registerExport h, State.whenRead_all _ hr, State.registerObj_refused hw]
  · rw [exec_stubBind_reached hposts hpa hfree]
    exact ⟨fun h => congrArg _ (State.stubTurn_begins h), fun h hr => congrArg _ (State.stubTurn_binds h hr), fun h => congrArg _ (State.stubTurn_drops h)⟩
  · have ha := State.asked_of hd hrec
    refine ⟨exec_mailboxAccessTable ha, exec_mailboxAccessTable_refused ha, exec_mailboxKeyLoad ha, exec_mailboxKeyLoad_refused ha, exec_forensicChallenge ha,
      ⟨fun h hbad => ?_, fun h hch hkey hp h6 hC hsig => ?_, exec_forensicRelock ha⟩, fun h hout h6 => ⟨fun hr => ?_, fun w hr hw => ?_, fun hr hw hplaced => ?_⟩,
      fun stand hout hempty => exec_iftScanDone ha hout hempty⟩
    · rw [exec_forensicUnlock ha h, if_neg (State.unlockOk_eq_false hbad)]
      rfl
    · have hok : s.unlockOk = true := by
        simp only [State.unlockOk, hch, hkey, hp, h6, hC, beq_self_eq_true, decide_true, Bool.true_and]
        exact hsig
      rw [exec_forensicUnlock ha h, if_pos hok]
      rfl
    · rw [exec_iftRequest ha h hout h6, State.whenRead_some _ hr, State.imageRanges_head]
    · rw [exec_iftRequest ha h hout h6, State.whenRead_all _ hr, State.iftTurn_refused h6 hw]
    · rw [exec_iftRequest ha h hout h6, State.whenRead_all _ hr, State.iftTurn_accepted h6 hw, State.emptyStand_of_none _ hout hplaced]

end Sys2Proof.Machine
end

section
/-! The integer and logic instructions on words (R61, R202). -/
namespace Sys2Proof.Machine

/-- MOVI: one word for every lane, so uniform (R61). -/
theorem movi_computes (g : Guard) (d : Nat) (imm : Word) : Computes (.movi g d imm) g 12 [d] [] [d] always fun _ _ _ _ => imm := by
  refine computes_write _ (planMovi g d imm) d always _ (fun _ _ _ => .uni) (fun _ _ _ _ => imm) (fun _ => rfl) rfl rfl (fun _ _ _ _ => rfl) (fun _ _ => rfl)
    (fun s x _ => plain_checks _ _ _ _ _ _ s x) ?_
  exact fun s x co _ _ _ => ⟨fun _ _ _ => rfl, fun _ _ _ => rfl, fun _ _ h => Sh.noConfusion h⟩
/-- SEL reads a predicate, so its result is general (R61, R202). -/
theorem sel_computes (g : Guard) (d a : Nat) (b : Src) (pc : Nat) : Computes (.sel g d a b pc) g 12 (d :: a :: b.regs) (a :: b.regs) [d] always
    fun _ x _ l => if x.co.pred pc l then x.co.reg a l else x.co.src b l := by
  refine computes_write _ (planSel g d a b pc) d always _ (fun _ _ _ => .gen) (fun _ _ co l => if co.pred pc l then co.reg a l else co.src b l)
    (fun _ => rfl) rfl rfl (fun _ _ _ _ => rfl) (fun _ _ => rfl) (fun s x _ => plain_checks _ _ _ _ _ _ s x) ?_
  exact fun s x co _ hr hp => ⟨fun l _ _ => by rw [hp, Cohort.reg_congr hr, Cohort.src_congr hr], fun h => Sh.noConfusion h, fun _ _ h => Sh.noConfusion h⟩
/-- IADD, with a shape of its own only where it does not saturate (R61, R202). -/
theorem iadd_sat_maps (g : Guard) (d a : Nat) (b : Src) (sat u : Bool) : Maps2 (.iadd g d a b sat u) g 12 d a b (addW sat u) := by
  cases sat with
  | false => exact iadd_maps (opc .iadd) fun _ => rfl
  | true => exact map2_maps (opc .iadd) fun _ => rfl

/-- Settles O1: each plan is made by a builder whose instructions compute; IADD, IMUL, MOVI and SEL take shapes of their own. -/
theorem integerWordResults : Obligations.IntegerWordResults := by
  intro g d a c pc b u sat imm lit
  refine ⟨map1_maps (opc .mov) fun _ => rfl, movi_computes g d imm, mapPair_maps (opc .movi) (fun _ => []) (fun _ => rfl) (fun _ _ _ _ => rfl) fun _ _ _ _ => rfl,
    iadd_sat_maps g d a b sat u, map2_maps (opc .isub) fun _ => rfl, imul_maps (opc .imul) fun _ => rfl, map2_maps (opc .imulh) fun _ => rfl,
    map3_maps (opc .imad) fun _ => rfl, map2_maps (opc .imin) fun _ => rfl, map2_maps (opc .imax) fun _ => rfl, map1_maps (opc .iabs) fun _ => rfl,
    map1_maps (opc .ineg) fun _ => rfl, map2_maps (opc .and) fun _ => rfl, map2_maps (opc .or) fun _ => rfl, map2_maps (opc .xor) fun _ => rfl,
    map2_maps (opc .andn) fun _ => rfl, map1_maps (opc .not) fun _ => rfl, map2_maps (opc .shl) fun _ => rfl, map2_maps (opc .shr) fun _ => rfl,
    map2_maps (opc .sar) fun _ => rfl, map1_maps (opc .popc) fun _ => rfl, map1_maps (opc .clz) fun _ => rfl, map1_maps (opc .ctz) fun _ => rfl,
    map1_maps (opc .brev) fun _ => rfl, map2_maps (opc .bfx) fun _ => rfl, map3_maps (opc .bfi) fun _ => rfl, sel_computes g d a b pc⟩

end Sys2Proof.Machine
end

section
/-! The 64-bit and widening instructions (R61, R204). -/
namespace Sys2Proof.Machine

/-- An operation on two pairs, or on a pair and a 64-bit source. -/
theorem mapPair64_maps {i : Instr} {g : Guard} {d a : Nat} {b : Src} (xop : Nat) (f : DWord → DWord → DWord)
    (hi : ∀ s, exec i s = .next (s.exec (mapPair g 12 xop d (a :: (a + 1) :: b.regs64) (fun co => co.shape a :: co.shape (a + 1) :: co.srcShape64 b)
      fun co l => f (co.reg64 a l) (co.src64 b l)))) : MapsPair i g 12 d (a :: (a + 1) :: b.regs64) fun co l => f (co.reg64 a l) (co.src64 b l) := by
  refine mapPair_maps xop _ hi (fun co co' h l => by simp only [Cohort.reg64_congr h, Cohort.src64_congr h]) fun co h l m => ?_
  simp only [List.forall_mem_cons] at h
  obtain ⟨ha, ha', hb⟩ := h
  exact congrArg₂ f (co.reg64_uni a ha ha' l m) (co.src64_uni b hb l m)
/-- An operation on a pair alone. -/
theorem mapPair1_maps {i : Instr} {g : Guard} {len d a : Nat} (xop : Nat) (f : DWord → DWord)
    (hi : ∀ s, exec i s = .next (s.exec (mapPair g len xop d [a, a + 1] (fun co => [co.shape a, co.shape (a + 1)]) fun co l => f (co.reg64 a l)))) :
    MapsPair i g len d [a, a + 1] fun co l => f (co.reg64 a l) := by
  refine mapPair_maps xop _ hi (fun co co' h l => by simp only [Cohort.reg64_congr h]) fun co h l m => ?_
  exact congrArg f (co.reg64_uni a (h _ (by simp)) (h _ (by simp)) l m)
/-- An operation on a pair and a 32-bit source. -/
theorem mapPair32_maps {i : Instr} {g : Guard} {d a : Nat} {b : Src} (xop : Nat) (f : DWord → Word → DWord)
    (hi : ∀ s, exec i s = .next (s.exec (mapPair g 12 xop d (a :: (a + 1) :: b.regs) (fun co => [co.shape a, co.shape (a + 1), co.srcShape b])
      fun co l => f (co.reg64 a l) (co.src b l)))) : MapsPair i g 12 d (a :: (a + 1) :: b.regs) fun co l => f (co.reg64 a l) (co.src b l) := by
  refine mapPair_maps xop _ hi (fun co co' h l => by simp only [Cohort.reg64_congr h, Cohort.src_congr h]) fun co h l m => ?_
  exact congrArg₂ f (co.reg64_uni a (h _ (by simp)) (h _ (by simp)) l m) (co.src_uni b (h _ (by simp)) l m)

theorem setWidth_leaIdx (u : Bool) (w : Word) : (leaIdx u w).setWidth 32 = w := by
  cases u with
  | false => exact setWidth_signExtend w
  | true => exact BitVec.setWidth_setWidth_of_le w (by decide) |>.trans (BitVec.setWidth_eq w)
theorem setWidth_leaW_zero (u : Bool) (lo hi w : Word) : (leaW u 0 (pairOf lo hi) w).setWidth 32 = lo + w := by
  rw [leaW, BitVec.shiftLeft_zero, BitVec.setWidth_add _ _ (by decide), setWidth_leaIdx, pairOf, BitVec.setWidth_append_eq_right]

/-- The shape of the low word of LEA: affine where nothing is shifted and the address's low word and the index sum so (R61, R204). -/
def leaLow (co : Cohort) (a : Nat) (b : Src) (sh : Nat) : Sh :=
  let all := Sh.all [co.shape a, co.shape (a + 1), co.srcShape b]
  let lo := if all = .uni then .uni else if sh = 0 then addShape (co.shape a) (co.srcShape b) (co.reg a 0) (co.src b 0) else all
  if all ≠ .uni ∧ lo = .uni then .gen else lo
theorem leaLow_uni {co : Cohort} {a : Nat} {b : Src} {sh : Nat} (h : leaLow co a b sh = .uni) : Sh.all [co.shape a, co.shape (a + 1), co.srcShape b] = .uni := by
  by_contra hall
  simp only [leaLow, hall, if_false, ne_eq, not_false_eq_true, true_and] at h
  split_ifs at h
  · exact absurd h ‹_›
  · exact hall h
theorem leaLow_aff {co : Cohort} {a : Nat} {b : Src} {sh : Nat} {y st : Word} (h : leaLow co a b sh = .aff y st) :
    sh = 0 ∧ addShape (co.shape a) (co.srcShape b) (co.reg a 0) (co.src b 0) = .aff y st := by
  by_cases hall : Sh.all [co.shape a, co.shape (a + 1), co.srcShape b] = .uni
  · simp [leaLow, hall] at h
  simp only [leaLow, hall, if_false, ne_eq, not_false_eq_true, true_and] at h
  split_ifs at h
  · exact ⟨‹_›, h⟩
  · exact absurd h (Sh.all_not_aff _ _ _)
/-- LEA (R204): a sum whose low word may be affine. -/
theorem leaX_maps (g : Guard) (d a : Nat) (b : Src) (u : Bool) (sh : Nat) :
    MapsPair (.lea g d a b u sh) g 12 d (a :: (a + 1) :: b.regs) fun co l => leaW u sh (co.reg64 a l) (co.src b l) := by
  refine computes_pair _ (planLea g d a b u sh) d always (fun _ _ co l => leaW u sh (co.reg64 a l) (co.src b l)) (fun _ x l => leaW u sh (x.co.reg64 a l) (x.co.src b l))
    (fun _ _ co => leaLow co a b sh) (fun _ _ co => Sh.all [co.shape a, co.shape (a + 1), co.srcShape b]) (fun _ => rfl) rfl rfl (fun _ _ _ _ => rfl) (fun _ _ => rfl)
    (fun s x _ => plain_checks _ _ _ _ _ _ s x) ?_
  intro s x co _ hr _
  have huni (hall : Sh.all [co.shape a, co.shape (a + 1), co.srcShape b] = .uni) (l m : Nat) :
      leaW u sh (co.reg64 a l) (co.src b l) = leaW u sh (co.reg64 a m) (co.src b m) := by
    have h := Sh.all_uni _ hall
    exact congrArg₂ _ (co.reg64_uni a (h _ (by simp)) (h _ (by simp)) l m) (co.src_uni b (h _ (by simp)) l m)
  refine ⟨fun l _ _ => by rw [Cohort.reg64_congr hr, Cohort.src_congr hr], ⟨fun h l _ => ?_, fun y st h l _ => ?_⟩,
    fun h l _ => ?_, fun y st h => absurd h (Sh.all_not_aff _ _ _)⟩
  · exact congrArg (BitVec.setWidth 32) (huni (leaLow_uni h) l _)
  · obtain ⟨rfl, hsum⟩ := leaLow_aff h
    show (leaW u 0 (co.reg64 a l) (co.src b l)).setWidth 32 = _
    rw [Cohort.reg64, setWidth_leaW_zero]
    rcases addShape_aff hsum with ⟨z, ha, hb, rfl⟩ | ⟨z, ha, hb, rfl⟩
    · rw [co.reg_aff a z st ha l, co.src_uni b hb l 0, add_right_comm]
    · rw [co.reg_uni a ha l 0, co.src_aff b z st hb l, add_assoc]
  · exact congrArg (fun w : DWord => (w >>> 32).setWidth 32) (huni h l _)
/-- The widening product is that of the integers the words stand for (R204). -/
theorem mulwW_eq (u : Bool) (v w : Word) : mulwW u v w = BitVec.ofInt 64 (if u then v.toNat * w.toNat else v.toInt * w.toInt) := by
  cases u with
  | false =>
    simp only [mulwW, leaIdx, Bool.false_eq_true, if_false, BitVec.ofInt_mul]
    rfl
  | true =>
    simp only [mulwW, leaIdx, if_true, BitVec.ofInt_mul, BitVec.ofInt_natCast, BitVec.ofNat_toNat]

/-- Settles O5: each plan writes both words of its pair; the product of the extended words is that of the integers. -/
theorem integerPairResults : Obligations.IntegerPairResults := by
  intro g d a c sh b u sg lit
  refine ⟨mapPair64_maps (opc .iadd64) (· + ·) fun _ => rfl, mapPair1_maps (opc .iadd64) (· + lit) fun _ => rfl, mapPair64_maps (opc .isub64) (· - ·) fun _ => rfl,
    mapPair1_maps (opc .isub64) (· - lit) fun _ => rfl, mapPair64_maps (opc .imul64) (· * ·) fun _ => rfl, mapPair1_maps (opc .imul64) (· * lit) fun _ => rfl,
    mapPair32_maps (opc .shl64) shl64 fun _ => rfl, mapPair32_maps (opc .shr64) (shr64 sg) fun _ => rfl, leaX_maps g d a b u sh, ?imulw, ?imadw⟩
  case imulw =>
    simp only [← mulwW_eq]
    refine mapPair_maps (opc .imulw) (fun co => [co.shape a, co.srcShape b]) (fun _ => rfl) (fun co co' h l => by rw [Cohort.reg_congr h, Cohort.src_congr h])
      fun co h l m => ?_
    rw [co.reg_uni a (h _ (by simp)) l m, co.src_uni b (h _ (by simp)) l m]
  case imadw =>
    simp only [← mulwW_eq]
    refine mapPair_maps (opc .imadw) (fun co => [co.shape a, co.srcShape b, co.shape c, co.shape (c + 1)]) (fun _ => rfl)
      (fun co co' h l => by rw [Cohort.reg_congr h, Cohort.src_congr h, Cohort.reg64_congr h]) fun co h l m => ?_
    rw [co.reg_uni a (h _ (by simp)) l m, co.src_uni b (h _ (by simp)) l m, co.reg64_uni c (h _ (by simp)) (h _ (by simp)) l m]

end Sys2Proof.Machine
end

section
/-! The compares and the predicate instructions (R59, R205, R206, R208). -/
namespace Sys2Proof.Machine

/-- A plan of `plain` that sets predicates: its writes are all of the predicates ps in lanes under the guard, each has its value, and none is missing. -/
theorem decides_writes (i : Instr) (g : Guard) (len xop : Nat) (regs srcs ps : List Nat) (act : State → Ctx → List Nat → State) (v : State → Ctx → Nat → Nat → Bool)
    (ws : Ctx → Cohort → List (Nat × Nat × Bool)) (hi : ∀ s, exec i s = .next (s.exec (plain g len xop regs srcs act)))
    (ha : ∀ t x, act t x (x.en g) = t.onCohort x fun co => co.setPreds (ws x co))
    (hv : ∀ s x co, co.regs = x.co.regs → (∀ q l, co.pred q l = x.co.pred q l) → ∀ w ∈ ws x co, w.1 ∈ ps ∧ w.2.1 ∈ x.en g ∧ w.2.2 = v s x w.1 w.2.1)
    (hall : ∀ x co, ∀ q ∈ ps, ∀ l ∈ x.en g, ∃ w ∈ ws x co, w.1 = q ∧ w.2.1 = l) : Decides i g len regs srcs ps v := by
  refine decides_of i (plain g len xop regs srcs act) ps v (fun _ x co => ws x co) hi rfl rfl (fun _ _ _ _ => rfl) ha (fun s x => plain_checks _ _ _ _ _ _ s x) ?_
  intro s x co hr hp q l _
  cases hfind : (ws x co).reverse.find? fun w => w.1 == q && w.2.1 == l with
  | some w =>
    obtain ⟨hps, hen, hval⟩ := hv s x co hr hp w (List.mem_reverse.mp (List.mem_of_find?_eq_some hfind))
    have hat := List.find?_some hfind
    simp only [Bool.and_eq_true, beq_iff_eq] at hat
    obtain ⟨rfl, rfl⟩ := hat
    exact ⟨hps, hen, fun _ => hval⟩
  | none =>
    rintro ⟨hps, -, hen⟩
    obtain ⟨w, hw, rfl, rfl⟩ := hall x co q hps l hen
    have hnot := List.find?_eq_none.mp hfind w (List.mem_reverse.mpr hw)
    simp at hnot
/-- A predicate set in every lane under the guard, from what those lanes hold together. -/
theorem decides_together {i : Instr} {g : Guard} {d : Nat} (xop : Nat) (f : Cohort → List Nat → Nat → Bool)
    (hi : ∀ s, exec i s = .next (s.exec (plain g 12 xop [] [] fun s x ls => s.onCohort x fun co => ls.foldl (fun c l => c.setPred d l (f co ls l)) co)))
    (hf : ∀ co co' : Cohort, (∀ q l, co.pred q l = co'.pred q l) → ∀ ls l, f co ls l = f co' ls l) :
    Decides i g 12 [] [] [d] fun _ x _ l => f x.co (x.en g) l := by
  refine decides_writes i g 12 xop [] [] [d] _ _ (fun x co => (x.en g).map fun l => (d, l, f co (x.en g) l)) hi (fun t x => ?_) (fun s x co _ hp w hw => ?_)
    fun x co q hq l hl => ⟨_, List.mem_map_of_mem hl, (List.mem_singleton.mp hq).symm, rfl⟩
  · simp only [Cohort.setPreds, List.foldl_map]
  · obtain ⟨l, hl, rfl⟩ := List.mem_map.mp hw
    exact ⟨List.mem_singleton_self d, hl, hf co x.co hp _ l⟩
/-- PMOV from a register into the predicates 1 to 15 (R208). -/
theorem unpk_decides (g : Guard) (a : Nat) : Decides (.pmov g (.unpk a)) g 12 [a] [a] (run 1 15) fun _ x q l => (x.co.reg a l).getLsbD q := by
  refine decides_writes _ g 12 (opc .pmov) [a] [a] (run 1 15) _ _ (fun x co => (x.en g).flatMap fun l => (run 1 15).map fun p => (p, l, (co.reg a l).getLsbD p))
    (fun _ => rfl) (fun t x => ?_) (fun s x co hr _ w hw => ?_) fun x co q hq l hl => ⟨_, List.mem_flatMap_of_mem hl (List.mem_map_of_mem hq), rfl, rfl⟩
  · simp only [Cohort.setPreds, List.foldl_flatMap, List.foldl_map]
  · obtain ⟨l, hl, hw⟩ := List.mem_flatMap.mp hw
    obtain ⟨p, hp, rfl⟩ := List.mem_map.mp hw
    exact ⟨hp, hl, by rw [Cohort.reg_congr hr]⟩
/-- A register written from predicates is general (R61). -/
theorem pmov_computes (g : Guard) (f : PmovForm) (d : Nat) (v : Cohort → Nat → Word)
    (hplan : planPmov g f = plain g 12 (opc .pmov) [d] [] fun s x ls => s.onCohort x fun co => co.write d .gen ls (v co))
    (hv : ∀ co co' : Cohort, (∀ q l, co.pred q l = co'.pred q l) → ∀ l, v co l = v co' l) :
    Computes (.pmov g f) g 12 [d] [] [d] always fun _ x _ l => v x.co l := by
  refine computes_write _ (plain g 12 (opc .pmov) [d] [] fun s x ls => s.onCohort x fun co => co.write d .gen ls (v co)) d always _ (fun _ _ _ => .gen) (fun _ _ co => v co)
    (fun s => hplan ▸ rfl) rfl rfl (fun _ _ _ _ => rfl) (fun _ _ => rfl) (fun s x _ => plain_checks _ _ _ _ _ _ s x) ?_
  exact fun s x co _ _ hp => ⟨fun l _ _ => hv co x.co hp l, fun h => Sh.noConfusion h, fun _ _ h => Sh.noConfusion h⟩

/-- The bits of a number listed below n by a test are their powers' sum: each power of two is above all before it. -/
theorem maskOf_filter_range (f : Nat → Bool) (n : Nat) : maskOf ((List.range n).filter f) < 2 ^ n ∧
    maskOf ((List.range n).filter f) = (List.range n).foldl (fun acc p => acc + (f p).toNat * 2 ^ p) 0 := by
  induction n with
  | zero => exact ⟨Nat.one_pos, rfl⟩
  | succ n ih =>
    obtain ⟨hlt, hsum⟩ := ih
    rw [List.range_succ, List.filter_append, List.foldl_append, List.foldl_cons, List.foldl_nil, ← hsum, Nat.pow_succ]
    cases hf : f n with
    | false => simpa [hf] using Nat.lt_of_lt_of_le hlt (by omega)
    | true =>
      have hor : maskOf ((List.range n).filter f ++ [n]) = 2 ^ n + maskOf ((List.range n).filter f) := by
        rw [← Nat.mul_one (2 ^ n), Nat.two_pow_add_eq_or_of_lt hlt, Nat.mul_one, Nat.lor_comm]
        simp [maskOf]
      simp only [List.filter_cons, hf, if_true, List.filter_nil, hor, Bool.toNat_true, one_mul]
      omega
theorem Cohort.packPreds_eq (co : Cohort) (l : Nat) : co.packPreds l = (List.range 16).foldl (fun n p => n + (co.pred p l).toNat * 2 ^ p) 0 :=
  (maskOf_filter_range (fun p => co.pred p l) 16).2

/-- Settles O6: each plan's writes of predicates are those of the lanes under the guard, and PMOV packs them as the sum of their bits. -/
theorem predicateResults : Obligations.PredicateResults := by
  intro g pd a pa pb rb b cc u un v lit
  refine ⟨mapPred_sets (opc .icmp) (fun _ => rfl) fun co co' h _ l => by simp only [Cohort.reg_congr h],
    mapPred_sets (opc .icmp) (fun _ => rfl) fun co co' h _ l => by simp only [Cohort.reg_congr h, Cohort.src_congr h],
    mapPred_sets (opc .icmp64) (fun _ => rfl) fun co co' h _ l => by simp only [Cohort.reg64_congr h, Cohort.src64_congr h],
    mapPred_sets (opc .icmp64) (fun _ => rfl) fun co co' h _ l => by simp only [Cohort.reg64_congr h],
    mapPred_sets (opc .fcmp) (fun _ => rfl) fun co co' h _ l => by simp only [Cohort.reg_congr h, Cohort.src_congr h],
    mapPred_sets (opc .pand) (fun _ => rfl) fun co co' _ h l => by simp only [h], mapPred_sets (opc .por) (fun _ => rfl) fun co co' _ h l => by simp only [h],
    mapPred_sets (opc .pxor) (fun _ => rfl) fun co co' _ h l => by simp only [h], mapPred_sets (opc .pnot) (fun _ => rfl) fun co co' _ h l => by simp only [h],
    mapPred_sets (opc .pset) (fun _ => rfl) fun _ _ _ _ _ => rfl, mapPred_sets (opc .pmov) (fun _ => rfl) fun co co' h _ l => by simp only [Cohort.reg_congr h],
    unpk_decides g a, pmov_computes g (.toReg rb pa) rb (fun co l => if co.pred pa l then 1 else 0) rfl fun co co' h l => by simp only [h], ?pack⟩
  case pack =>
    simp only [← Cohort.packPreds_eq]
    exact pmov_computes g (.pack rb) rb (fun co l => BitVec.ofNat 32 (co.packPreds l)) rfl fun co co' h l => by simp only [Cohort.packPreds, h]

end Sys2Proof.Machine
end

section
/-! The floating-point instructions (R209 to R212). -/
namespace Sys2Proof.Machine

/-- Settles O7: each plan applies its function to each lane's operands. -/
theorem floatWordResults : Obligations.FloatWordResults := fun _ _ _ _ _ _ =>
  ⟨map2_maps (opc .fadd) fun _ => rfl, map2_maps (opc .fsub) fun _ => rfl, map2_maps (opc .fmul) fun _ => rfl, map3_maps (opc .ffma) fun _ => rfl,
    map2_maps (opc .fmin) fun _ => rfl, map2_maps (opc .fmax) fun _ => rfl, map1_maps (opc .fabs) fun _ => rfl, map1_maps (opc .fneg) fun _ => rfl,
    map1_maps (opc .fsqrt) fun _ => rfl, map2_maps (opc .fdiv) fun _ => rfl, map1_maps (opc .frint) fun _ => rfl, map2_maps (opc .fscale) fun _ => rfl,
    map1_maps (opc .frcp) fun _ => rfl, map1_maps (opc .frsq) fun _ => rfl, map1_maps (opc .fexp2) fun _ => rfl, map1_maps (opc .flog2) fun _ => rfl,
    map1_maps (opc .fsin) fun _ => rfl, map1_maps (opc .fcos) fun _ => rfl, map1_maps (opc .ftanh) fun _ => rfl⟩

/-- Only the low half of a word counts in the place of its high half. -/
theorem ofHalves_eq (lo hi : Nat) : ofHalves lo hi = BitVec.ofNat 32 (lo % 65536 + 65536 * (hi % 65536)) := by
  apply BitVec.eq_of_toNat_eq
  simp only [ofHalves, BitVec.toNat_ofNat]
  omega
/-- A pair whose two registers are uniform has one value. -/
theorem Cohort.reg64_uni_of_pairShapes (co : Cohort) (a : Nat) (h : ∀ sh ∈ co.pairShapes a, sh = .uni) (l m : Nat) : co.reg64 a l = co.reg64 a m :=
  co.reg64_uni a (h _ (by simp [Cohort.pairShapes])) (h _ (by simp [Cohort.pairShapes])) l m

/-- Settles O8: the halves that the plan joins are the two rounded halves, and the FP64 plans write pairs. -/
theorem halfAndDoubleResults : Obligations.HalfAndDoubleResults := by
  intro g d a b' c b m h lit F both
  have hboth (f : FVal → FVal → FVal) (r : Mode) : both f r = half2 h r f := by
    funext x y
    exact (ofHalves_eq _ _).symm
  simp only [hboth]
  refine ⟨map2_maps (opc .hadd2) fun _ => rfl, map2_maps (opc .hmul2) fun _ => rfl, map2_maps (opc .hmin2) fun _ => rfl, map2_maps (opc .hmax2) fun _ => rfl,
    map3_maps (opc .hfma2) fun _ => rfl, mapPair64_maps (b := .reg b') (opc .dadd) (fun v w => roundF64 m.mode ((f64 v).add m.mode (f64 w))) fun _ => rfl,
    mapPair1_maps (opc .dadd) (fun v => roundF64 m.mode ((f64 v).add m.mode (f64 lit))) fun _ => rfl,
    mapPair64_maps (b := .reg b') (opc .dmul) (fun v w => roundF64 m.mode ((f64 v).mul (f64 w))) fun _ => rfl,
    mapPair1_maps (opc .dmul) (fun v => roundF64 m.mode ((f64 v).mul (f64 lit))) fun _ => rfl, ?dfma, ?dfmaLit⟩
  case dfma =>
    refine mapPair_maps (opc .dfma) (fun co => co.pairShapes a ++ co.pairShapes b' ++ co.pairShapes c) (fun _ => rfl)
      (fun co co' h l => by simp only [Cohort.reg64_congr h]) fun co h l m => ?_
    simp only [List.forall_mem_append] at h
    obtain ⟨⟨ha, hb⟩, hc⟩ := h
    rw [co.reg64_uni_of_pairShapes a ha l m, co.reg64_uni_of_pairShapes b' hb l m, co.reg64_uni_of_pairShapes c hc l m]
  case dfmaLit =>
    refine mapPair_maps (opc .dfma) (fun co => co.pairShapes a ++ co.pairShapes c) (fun _ => rfl) (fun co co' h l => by simp only [Cohort.reg64_congr h]) fun co h l m => ?_
    obtain ⟨ha, hc⟩ := List.forall_mem_append.mp h
    rw [co.reg64_uni_of_pairShapes a ha l m, co.reg64_uni_of_pairShapes c hc l m]

end Sys2Proof.Machine
end

section
/-! The conversions and FCLASS (R91, R207, R213 to R215). -/
namespace Sys2Proof.Machine

/-- Where every register of a list is uniform, each of them has one value. -/
theorem Cohort.reg_uni_of_all (co : Cohort) (rs : List Nat) (h : Sh.all (rs.map co.shape) = .uni) (r : Nat) (hr : r ∈ rs) (l m : Nat) : co.reg r l = co.reg r m :=
  co.reg_uni r (Sh.all_uni _ h _ (List.mem_map_of_mem hr)) l m
/-- The source code of a format in a lane where its registers are uniform. -/
theorem Cohort.fmtCode_uni (co : Cohort) (f : Fmt) (n l m : Nat) (h : ∀ r ∈ fmtRegs f n, co.reg r l = co.reg r m) : co.fmtCode f n l = co.fmtCode f n m := by
  unfold fmtRegs at h
  unfold Cohort.fmtCode
  split at h
  · simp [*, Cohort.reg64]
  · simp [*]
theorem Cohort.fmtCode_congr {co co' : Cohort} (h : co.regs = co'.regs) (f : Fmt) (n l : Nat) : co.fmtCode f n l = co'.fmtCode f n l := by
  simp only [Cohort.fmtCode, Cohort.reg_congr h, Cohort.reg64_congr h]
/-- A mode reads its random operand under .sr alone (R91). -/
theorem mode_congr_of_srRegs (m : RMS) (b : Nat) {v w : Nat → Nat} (h : ∀ r ∈ srRegs m b, v r = w r) : m.mode (v b) = m.mode (w b) := by
  cases m with
  | sr => rw [h b (by simp [srRegs])]
  | rn | rz | ru | rd => rfl
/-- The mode of a lane, from its random operand where there is one. -/
def Cohort.rmode (co : Cohort) (m : RMS) (b l : Nat) : Mode := m.mode ((co.reg b l).toNat % 65536)
theorem Cohort.rmode_uni (co : Cohort) (m : RMS) (b l k : Nat) (h : ∀ r ∈ srRegs m b, co.reg r l = co.reg r k) : co.rmode m b l = co.rmode m b k :=
  mode_congr_of_srRegs m b (v := fun r => (co.reg r l).toNat % 65536) (w := fun r => (co.reg r k).toNat % 65536) fun r hr => by rw [h r hr]
theorem Cohort.rmode_congr {co co' : Cohort} (h : co.regs = co'.regs) (m : RMS) (b l : Nat) : co.rmode m b l = co'.rmode m b l := by
  simp only [Cohort.rmode, Cohort.reg_congr h]
/-- The code that CVT gives in a lane (R213). -/
def Cohort.cvtCode (co : Cohort) (a b : Nat) (m : RMS) (sat : Bool) (src dst : Fmt) (l : Nat) : Nat := convert src dst (co.rmode m b l) sat (co.fmtCode src a l)
theorem Cohort.cvtCode_uni (co : Cohort) (a b : Nat) (m : RMS) (sat : Bool) (src dst : Fmt) {l k : Nat} (h : ∀ r ∈ fmtRegs src a ++ srRegs m b, co.reg r l = co.reg r k) :
    co.cvtCode a b m sat src dst l = co.cvtCode a b m sat src dst k := by
  rw [Cohort.cvtCode, co.rmode_uni m b l k fun r hr => h r (List.mem_append_right _ hr), co.fmtCode_uni src a l k fun r hr => h r (List.mem_append_left _ hr)]
  rfl
theorem Cohort.cvtCode_congr {co co' : Cohort} (h : co.regs = co'.regs) (a b : Nat) (m : RMS) (sat : Bool) (src dst : Fmt) (l : Nat) :
    co.cvtCode a b m sat src dst l = co'.cvtCode a b m sat src dst l := by
  simp only [Cohort.cvtCode, Cohort.rmode_congr h, Cohort.fmtCode_congr h]
/-- A plan that writes one register from registers named in its sources. -/
theorem map_regs_computes {i : Instr} {g : Guard} {d : Nat} {srcs : List Nat} (xop : Nat) (f : Cohort → Nat → Word)
    (hi : ∀ s, exec i s = .next (s.exec (plain g 12 xop (d :: srcs) srcs fun s x ls => s.onCohort x fun co => co.write d (Sh.all (srcs.map co.shape)) ls (f co))))
    (hf : ∀ co co' : Cohort, co.regs = co'.regs → ∀ l, f co l = f co' l)
    (hu : ∀ (co : Cohort) (l m : Nat), (∀ r ∈ srcs, co.reg r l = co.reg r m) → f co l = f co m) :
    Computes i g 12 (d :: srcs) srcs [d] always fun _ x _ l => f x.co l := by
  refine computes_write i (plain g 12 xop (d :: srcs) srcs _) d always _ (fun _ _ co => Sh.all (srcs.map co.shape)) (fun _ _ co => f co)
    hi rfl rfl (fun _ _ _ _ => rfl) (fun _ _ => rfl) (fun s x _ => plain_checks _ _ _ _ _ _ s x) ?_
  exact fun s x co _ hr _ => ⟨fun l _ _ => hf co x.co hr l, fun h l _ => hu co l _ fun r hr => co.reg_uni_of_all _ h r hr l _,
    fun _ _ h => absurd h (Sh.all_not_aff _ _ _)⟩
/-- CVT into one register, or into a pair (R213). -/
theorem cvt_computes (g : Guard) (d a b : Nat) (m : RMS) (sat : Bool) (src dst : Fmt) :
    Computes (.cvt g d a b m sat src dst) g 12 (fmtRegs dst d ++ (fmtRegs src a ++ srRegs m b)) (fmtRegs src a ++ srRegs m b) (fmtRegs dst d) always fun _ x n l =>
      if dst.is64 then half d n (BitVec.ofNat 64 (x.co.cvtCode a b m sat src dst l)) else BitVec.ofNat 32 (x.co.cvtCode a b m sat src dst l) := by
  cases hdst : dst.is64 with
  | true =>
    have hregs : fmtRegs dst d = [d, d + 1] := if_pos hdst
    rw [hregs]
    refine computes_pair _ { planCvt g d a b m sat src dst with regs := [d, d + 1] ++ (fmtRegs src a ++ srRegs m b) } d always
      (fun _ _ co l => BitVec.ofNat 64 (co.cvtCode a b m sat src dst l)) (fun _ x l => BitVec.ofNat 64 (x.co.cvtCode a b m sat src dst l))
      (fun _ _ co => Sh.all ((fmtRegs src a ++ srRegs m b).map co.shape)) (fun _ _ co => Sh.all ((fmtRegs src a ++ srRegs m b).map co.shape))
      (fun s => by rw [← hregs]; rfl) rfl rfl (fun _ _ _ _ => rfl) (fun t x => ?_) (fun s x _ => plain_checks _ _ _ _ _ _ s x) ?_
    · simp only [planCvt, plain, hdst, if_true]
      rfl
    · intro s x co _ hr _
      refine ⟨fun l _ _ => by rw [Cohort.cvtCode_congr hr], ⟨fun h l _ => ?_, fun _ _ h => absurd h (Sh.all_not_aff _ _ _)⟩,
        fun h l _ => ?_, fun _ _ h => absurd h (Sh.all_not_aff _ _ _)⟩
      · exact congrArg (fun n => (BitVec.ofNat 64 n).setWidth 32) (co.cvtCode_uni a b m sat src dst fun r hr => co.reg_uni_of_all _ h r hr l _)
      · exact congrArg (fun n => (BitVec.ofNat 64 n >>> 32).setWidth 32) (co.cvtCode_uni a b m sat src dst fun r hr => co.reg_uni_of_all _ h r hr l _)
  | false =>
    have hregs : fmtRegs dst d = [d] := if_neg (by simp [hdst])
    rw [hregs]
    refine map_regs_computes (opc .cvt) (fun co l => BitVec.ofNat 32 (co.cvtCode a b m sat src dst l)) (fun s => ?_)
      (fun co co' h l => by rw [Cohort.cvtCode_congr h]) fun co l k h => by rw [co.cvtCode_uni a b m sat src dst h]
    refine congrArg (fun p => Host.Outcome.next (s.exec p)) ?_
    simp only [planCvt, hregs, hdst, Bool.false_eq_true, if_false]
    rfl
/-- CVTPK (R215). -/
theorem cvtpk_computes (g : Guard) (d a b c e : Nat) (m : RMS) (sat : Bool) (dst : Fmt) (j : Nat) :
    Computes (.cvtpk g d a b c e m sat dst j) g 12 (d :: ([a, b, c] ++ srRegs m e)) ([a, b, c] ++ srRegs m e) [d] always fun _ x _ l =>
      BitVec.ofNat 32 (putElem dst.width (2 * j + 1) (putElem dst.width (2 * j) (x.co.reg c l).toNat (convert .f32 dst (x.co.rmode m e l) sat (x.co.reg a l).toNat))
        (convert .f32 dst (x.co.rmode m e l) sat (x.co.reg b l).toNat)) := by
  refine map_regs_computes (opc .cvtpk) (fun co l => BitVec.ofNat 32 (putElem dst.width (2 * j + 1) (putElem dst.width (2 * j) (co.reg c l).toNat
    (convert .f32 dst (co.rmode m e l) sat (co.reg a l).toNat)) (convert .f32 dst (co.rmode m e l) sat (co.reg b l).toNat)))
    (fun _ => rfl) (fun co co' h l => ?_) fun co l k h => ?_
  · simp only [Cohort.reg_congr h, Cohort.rmode_congr h]
  · rw [h a (by simp), h b (by simp), h c (by simp), co.rmode_uni m e l k fun r hr => h r (List.mem_append_right _ hr)]
/-- FCLASS of one register's element, or of a pair (R207). -/
theorem fclass_computes (g : Guard) (d a : Nat) (fmt : Fmt) (i : Nat) :
    Computes (.fclass g d a fmt i) g 12 (d :: fmtRegs fmt a) (fmtRegs fmt a) [d] always fun _ x _ l =>
      BitVec.ofNat 32 (classify fmt (if fmt.is64 then (x.co.reg64 a l).toNat else elemOf fmt.width i (x.co.reg a l).toNat)) := by
  have hexec : ∀ s, exec (.fclass g d a fmt i) s = .next (s.exec (planFclass g d a fmt i)) := fun _ => rfl
  cases hfmt : fmt.is64 with
  | true =>
    simp only [planFclass, hfmt, if_true] at hexec
    simp only [fmtRegs, hfmt, if_true]
    refine map_regs_computes (opc .fclass) (fun co l => BitVec.ofNat 32 (classify fmt (co.reg64 a l).toNat)) hexec (fun co co' h l => by rw [Cohort.reg64_congr h])
      fun co l k h => by simp only [Cohort.reg64, h a (by simp), h (a + 1) (by simp)]
  | false =>
    simp only [planFclass, hfmt, Bool.false_eq_true, if_false] at hexec
    simp only [fmtRegs, hfmt, Bool.false_eq_true, if_false]
    exact map1_computes _ g 12 (opc .fclass) d a _ hexec

/-- Settles O12: each plan writes what its sources hold, converted. -/
theorem conversionResults : Obligations.ConversionResults := fun g d a b c e j m sat src dst fmt laneIx =>
  ⟨cvt_computes g d a b m sat src dst, cvtpk_computes g d a b c e m sat dst j, map1_maps (opc .cvtex) fun _ => rfl, fclass_computes g d a fmt laneIx⟩

end Sys2Proof.Machine
end

section
/-! Bit planes and the cross-lane instructions (R220 to R225). -/
namespace Sys2Proof.Machine

/-! Sums over the bits of a word -/

/-- Powers taken up one after another under a test are their sum. -/
theorem foldl_if_add_eq_sum (n : Nat) (p : Nat → Prop) [DecidablePred p] (w : Nat → Nat) :
    (List.range n).foldl (fun acc i => if p i then acc + w i else acc) 0 = ((List.range n).map fun i => if p i then w i else 0).sum := by
  rw [List.sum_eq_foldl, List.foldl_map]
  congr 1
  funext acc i
  split <;> simp
theorem foldl_add_eq_sum (n : Nat) (w : Nat → Nat) : (List.range n).foldl (fun acc i => acc + w i) 0 = ((List.range n).map w).sum := by
  rw [List.sum_eq_foldl, List.foldl_map]
theorem bitN_eq_testBit (n i : Nat) : bitN n i = n.testBit i := by
  rw [bitN, Nat.testBit_eq_decide_div_mod_eq, Bool.beq_eq_decide_eq]
theorem bitN_toNat (w : Word) (i : Nat) : bitN w.toNat i = w.getLsbD i := bitN_eq_testBit _ _
/-- A bit of a byte of a word (R81). -/
theorem bitN_elemOf_byte (w : Word) (i j : Nat) (hj : j < 8) : bitN (elemOf 8 i w.toNat) j = w.getLsbD (8 * i + j) := by
  rw [bitN_eq_testBit, elemOf, Nat.testBit_mod_two_pow, Nat.testBit_div_two_pow, decide_eq_true hj, Bool.true_and, Nat.add_comm]
  rfl

/-! Bit planes -/

/-- BPPACK takes the bits of one plane of 32 consecutive bytes (R220). -/
theorem planBppack_eq (g : Guard) (d a : Nat) : planBppack g d a = crossLane g (opc .bppack) d [a] fun co en l =>
    BitVec.ofNat 32 (((List.range 32).map fun i =>
      if (32 * (l % 4) + i) / 4 ∈ en ∧ (co.reg a ((32 * (l % 4) + i) / 4)).getLsbD (8 * ((32 * (l % 4) + i) % 4) + (7 - l / 4)) = true then 2 ^ i else 0).sum) := by
  refine congrArg (crossLane g (opc .bppack) d [a]) ?_
  funext co en l
  simp only [planBppack.ofBits32, bitN_elemOf_byte _ _ _ (show 7 - l / 4 < 8 by omega), Bool.and_eq_true, List.contains_iff_mem]
  exact congrArg _ (foldl_if_add_eq_sum 32 _ _)
/-- BPUNPK takes the codes of four consecutive elements from the bits of the k planes (R87, R221). -/
theorem planBpunpk_eq (g : Guard) (d a k : Nat) (mid : Bool) : planBpunpk g d a k mid = crossLane g (opc .bpunpk) d [a] fun co en l =>
    BitVec.ofNat 32 (((List.range 4).map fun i => wrapTo 8 (planeVal k mid (((List.range k).map fun j =>
      if 4 * j + (4 * l + i) / 32 ∈ en ∧ (co.reg a (4 * j + (4 * l + i) / 32)).getLsbD ((4 * l + i) % 32) = true then 2 ^ (7 - j) else 0).sum)) * 256 ^ i).sum) := by
  refine congrArg (crossLane g (opc .bpunpk) d [a]) ?_
  funext co en l
  rw [← foldl_add_eq_sum]
  simp only [← foldl_if_add_eq_sum, bitN_toNat, Bool.and_eq_true, List.contains_iff_mem]

/-! Lanes shuffled, reduced and scanned -/

theorem Cohort.lanes32_eq (co : Cohort) (a : Nat) (en : List Nat) (unit : Word) :
    co.lanes32 a en unit = (List.range 32).map fun l => if l ∈ en then co.reg a l else unit := by
  simp only [Cohort.lanes32, List.contains_iff_mem]
/-- The value a lane is given from lane n: its own where n does not contribute (R224). -/
def Cohort.laneFrom (co : Cohort) (a : Nat) (en : List Nat) (l n : Nat) : Word := if n ∈ en then co.reg a n else co.reg a l
theorem Cohort.laneFrom_congr {co co' : Cohort} (h : co.regs = co'.regs) (a : Nat) (en : List Nat) (l n : Nat) : co.laneFrom a en l n = co'.laneFrom a en l n := by
  simp only [Cohort.laneFrom, Cohort.reg_congr h]
/-- The lane that SHFL reads, by its mode (R224). -/
def shflLane (mode : ShflMode) (l n : Nat) : Option Nat :=
  match mode with
  | .idx => some (n % 32)
  | .up => if n ≤ l then some (l - n) else none
  | .down => some (l + n)
  | .xor => some (l ^^^ (n % 32))
/-- SHFL: the value from the lane it reads, its own where it reads none. -/
def Cohort.shfl (co : Cohort) (a : Nat) (b : Src) (mode : ShflMode) (en : List Nat) (l : Nat) : Word :=
  (shflLane mode l (co.src b l).toNat).elim (co.reg a l) (co.laneFrom a en l)
theorem planShfl_eq (g : Guard) (d a : Nat) (b : Src) (mode : ShflMode) :
    planShfl g d a b mode = crossLane g (opc .shfl) d (a :: b.regs) fun co en l => co.shfl a b mode en l := by
  refine congrArg (crossLane g (opc .shfl) d (a :: b.regs)) ?_
  funext co en l
  show (match shflLane mode l (co.src b l).toNat with
    | some m => if en.contains m then co.reg a m else co.reg a l
    | none => co.reg a l) = _
  unfold Cohort.shfl
  cases shflLane mode l (co.src b l).toNat with
  | none => rfl
  | some m => simp only [List.contains_iff_mem, Option.elim_some, Cohort.laneFrom]
theorem shfl_gathers (g : Guard) (d a : Nat) (b : Src) (mode : ShflMode) : Gathers (.shfl g d a b mode) g d (a :: b.regs) fun co en l => co.shfl a b mode en l := by
  refine crossLane_gathers (opc .shfl) (fun _ => planShfl_eq g d a b mode ▸ rfl) fun co co' h _ en l => ?_
  simp only [Cohort.shfl, Cohort.reg_congr h, Cohort.src_congr h, funext fun n => Cohort.laneFrom_congr h a en l n]
theorem Cohort.shfl_up (co : Cohort) (a : Nat) (b : Src) (en : List Nat) (l : Nat) :
    co.shfl a b .up en l = if (co.src b l).toNat ≤ l then co.laneFrom a en l (l - (co.src b l).toNat) else co.reg a l := by
  unfold Cohort.shfl shflLane
  dsimp only
  split <;> rfl
/-- RED over the 32 places (R100, R225). -/
theorem red_gathers (g : Guard) (d a : Nat) (op : RedOp) : Gathers (.red g d a op) g d [a] fun co en _ => treeReduce op.node (co.lanes32 a en op.unit) :=
  crossLane_gathers (opc .red) (fun _ => rfl) fun co co' h _ en _ => by simp only [Cohort.lanes32, Cohort.reg_congr h]
/-- SCAN over the 32 places (R101, R225). -/
theorem scan_gathers (g : Guard) (d a : Nat) (op : RedOp) (excl : Bool) : Gathers (.scan g d a op excl) g d [a] fun co en l =>
    let y := treeScan op.node (co.lanes32 a en op.unit)
    if excl then (if l = 0 then op.unit else y.getD (l - 1) 0) else y.getD l 0 :=
  crossLane_gathers (opc .scan) (fun _ => rfl) fun co co' h _ en _ => by simp only [Cohort.lanes32, Cohort.reg_congr h]
/-- MATCH over a register or a pair (R223). -/
theorem matchAny_gathers (g : Guard) (d a : Nat) (w : Bool) : Gathers (.matchAny g d a w) g d (if w then [a, a + 1] else [a]) fun co en l =>
    BitVec.ofNat 32 (maskOf (en.filter fun n => if w then co.reg64 a n == co.reg64 a l else co.reg a n == co.reg a l)) :=
  crossLane_gathers (opc .matchAny) (fun _ => rfl) fun co co' h _ en l => by simp only [Cohort.reg_congr h, Cohort.reg64_congr h]

/-- Settles O14: each plan gives a lane the stated word of what the contributing lanes hold, or sets its predicate. -/
theorem crossLaneResults : Obligations.CrossLaneResults := by
  intro g d a pa k b mid w excl op from_ vals
  have hlanes (co : Cohort) (en : List Nat) : vals co en = co.lanes32 a en op.unit := (co.lanes32_eq a en op.unit).symm
  refine ⟨?bppack, ?bpunpk, ?any, ?all, ?ballot, ?elect, matchAny_gathers g d a w, shfl_gathers g d a b .idx, ?up, shfl_gathers g d a b .down, shfl_gathers g d a b .xor,
    ?red, ?scan⟩
  case bppack =>
    exact crossLane_gathers (opc .bppack) (fun _ => planBppack_eq g d a ▸ rfl) fun co co' h _ en l => by simp only [Cohort.reg_congr h]
  case bpunpk =>
    exact crossLane_gathers (opc .bpunpk) (fun _ => planBpunpk_eq g d a k mid ▸ rfl) fun co co' h _ en l => by simp only [Cohort.reg_congr h]
  case any => exact decides_together (opc .vote) (fun co en _ => en.any fun l => co.pred pa l) (fun _ => rfl) fun co co' h en _ => by simp only [h]
  case all => exact decides_together (opc .vote) (fun co en _ => en.all fun l => co.pred pa l) (fun _ => rfl) fun co co' h en _ => by simp only [h]
  case ballot => exact crossLane_gathers (opc .vote) (fun _ => rfl) fun co co' _ h en _ => by simp only [h]
  case elect => exact decides_together (opc .elect) (fun _ en l => en.headD 0 == l) (fun _ => rfl) fun _ _ _ _ _ => rfl
  case up =>
    have hup := shfl_gathers g d a b .up
    simp only [Cohort.shfl_up] at hup
    exact hup
  case red => simpa only [hlanes] using red_gathers g d a op
  case scan =>
    simp only [hlanes]
    cases excl with
    | false => exact scan_gathers g d a op false
    | true => exact scan_gathers g d a op true

end Sys2Proof.Machine
end

section
/-! Instructions without effect (R202, R235, R263, R273). -/
namespace Sys2Proof.Machine

/-- Breakpoints are off (R235). -/
theorem State.breaks_eq_false {s : State} {x : Ctx} (hheld : (s.launches.find? x.co.launch).any (fun la => bitN la.pkt.flags 5) = false)
    (hdbg : fld (s.part x.part).dbgctl 0 0 = 0) : s.breaks x = false := by
  simp [State.breaks, State.debugHold_eq_any, hheld, hdbg]
theorem planBrk_act_off (g : Guard) (n : Nat) (s : State) (x : Ctx) (ls : List Nat) (h : s.breaks x = false) : (planBrk g n).act s x ls = s :=
  if_neg (Bool.eq_false_iff.mp h)
/-- CKPT in a lane outside every twin grove (R273). -/
theorem planCkpt_check_go (g : Guard) (s : State) (x : Ctx) (ls : List Nat) (l : Nat) (h : s.sideOf (s.groveOf x l) = none) : (planCkpt g).check s x ls l = .go := by
  simp only [planCkpt, h, Option.bind_none]

/-- Settles O17: the plans act on nothing, BRK where breakpoints are off, CKPT where its check lets the lanes go on. -/
theorem instructionsWithoutEffect : Obligations.InstructionsWithoutEffect := by
  intro g a n imm l2 nothing
  refine ⟨acts_plain _ g 12 (opc .nop) [] [] _ fun _ => rfl, acts_plain _ g 4 (opc .nop) [] [] _ fun _ => rfl, ?pref, ?brk, ?ckpt⟩
  case pref =>
    exact acts_of _ (planPref g a imm l2) _ _ (fun _ => rfl) rfl (fun _ _ _ => ⟨rfl, rfl, rfl⟩) (fun _ _ _ _ _ _ h => nomatch h) (fun _ _ _ _ _ => rfl)
      (fun _ _ _ => rfl) (.inl fun _ _ _ _ => rfl)
  case brk =>
    refine acts_of _ (planBrk g n) _ _ (fun _ => rfl) rfl (fun _ _ _ => ⟨rfl, rfl, rfl⟩) (fun _ _ _ _ _ _ h => nomatch h) (fun _ _ _ _ _ => rfl)
      (fun s x hok => ?_) (.inl fun _ _ _ _ => rfl)
    exact planBrk_act_off g n _ x _ ((s.breaks_setPcs x _ _).trans (State.breaks_eq_false hok.1 hok.2))
  case ckpt =>
    exact acts_of _ (planCkpt g) _ _ (fun _ => rfl) rfl (fun _ _ _ => ⟨rfl, rfl, rfl⟩) (fun _ _ _ _ _ _ h => nomatch h)
      (fun s x hok l hl => planCkpt_check_go g s x _ l (hok l hl)) (fun _ _ _ => rfl) (.inl fun _ _ _ _ => rfl)

end Sys2Proof.Machine
end

section
/-! What the integer functions are on every word (R202). -/
namespace Sys2Proof

/-! Clamped results -/

theorem toInt_satTo_signed (x : Int) : (satTo false x).toInt = max (-(2 ^ 31)) (min (2 ^ 31 - 1) x) := by
  simp only [satTo, clamp, Bool.false_eq_true, if_false, BitVec.toInt_ofInt, Int.bmod]
  omega
theorem toNat_satTo_unsigned (x : Int) : ((satTo true x).toNat : Int) = max 0 (min (2 ^ 32 - 1) x) := by
  simp only [satTo, clamp, if_true, BitVec.toNat_ofInt]
  omega
theorem word_toInt_range (a : Word) : -(2 ^ 31) ≤ a.toInt ∧ a.toInt ≤ 2 ^ 31 - 1 := by
  have hlo := BitVec.le_toInt a
  have hhi := BitVec.toInt_lt (x := a)
  omega
theorem toInt_ofInt_of_range {x : Int} (hlo : -(2 ^ 31) ≤ x) (hhi : x ≤ 2 ^ 31 - 1) : (BitVec.ofInt 32 x).toInt = x := by
  rw [BitVec.toInt_ofInt, Int.bmod]
  omega

/-! The high word of a product -/

theorem toNat_mulhW (a b : Word) : (mulhW true a b).toNat = a.toNat * b.toNat / 2 ^ 32 := by
  have hlt : a.toNat * b.toNat < 2 ^ 32 * 2 ^ 32 := Nat.mul_lt_mul'' a.isLt b.isLt
  have hdiv : a.toNat * b.toNat / 2 ^ 32 < 2 ^ 32 := Nat.div_lt_of_lt_mul hlt
  rw [mulhW, if_pos rfl, BitVec.toNat_ofInt, ← Int.natCast_mul]
  omega
theorem toInt_mulhW (a b : Word) : (mulhW false a b).toInt = a.toInt * b.toInt / 2 ^ 32 := by
  have ha := word_toInt_range a
  have hb := word_toInt_range b
  have habs : (a.toInt * b.toInt).natAbs ≤ 2 ^ 31 * 2 ^ 31 := by
    rw [Int.natAbs_mul]
    exact Nat.mul_le_mul (by omega) (by omega)
  rw [mulhW]
  simp only [Bool.false_eq_true, if_false]
  exact toInt_ofInt_of_range (by omega) (by omega)

/-! The smaller, the larger and the absolute value -/

theorem toInt_minW (a b : Word) : (minW false a b).toInt = min a.toInt b.toInt := by
  simp only [minW, Bool.false_eq_true, if_false, BitVec.sle_eq_decide, decide_eq_true_eq]
  split <;> omega
theorem toInt_maxW (a b : Word) : (maxW false a b).toInt = max a.toInt b.toInt := by
  simp only [maxW, Bool.false_eq_true, if_false, BitVec.sle_eq_decide, decide_eq_true_eq]
  split <;> omega
theorem toNat_minW (a b : Word) : (minW true a b).toNat = min a.toNat b.toNat := by
  simp only [minW, if_true, BitVec.ule_eq_decide, decide_eq_true_eq]
  split <;> omega
theorem toNat_maxW (a b : Word) : (maxW true a b).toNat = max a.toNat b.toNat := by
  simp only [maxW, if_true, BitVec.ule_eq_decide, decide_eq_true_eq]
  split <;> omega
theorem toNat_absW (a : Word) : (absW false a).toNat = a.toInt.natAbs := by
  simp only [absW, Bool.false_eq_true, if_false]
  have := a.isLt
  split
  · rw [BitVec.toNat_neg]
    simp only [BitVec.toInt_eq_toNat_cond] at *
    omega
  · simp only [BitVec.toInt_eq_toNat_cond] at *
    omega

/-! Shifts -/

theorem toNat_shlW (a b : Word) : (shlW a b).toNat = if 32 ≤ b.toNat then 0 else a.toNat * 2 ^ b.toNat % 2 ^ 32 := by
  unfold shlW
  split
  · rfl
  · rw [BitVec.toNat_shiftLeft, Nat.shiftLeft_eq]
theorem toNat_shrW (a b : Word) : (shrW a b).toNat = if 32 ≤ b.toNat then 0 else a.toNat / 2 ^ b.toNat := by
  unfold shrW
  split
  · rfl
  · rw [BitVec.toNat_ushiftRight, Nat.shiftRight_eq_div_pow]
theorem toInt_sarW (a b : Word) : (sarW a b).toInt = a.toInt / 2 ^ min b.toNat 31 := by
  rw [sarW, BitVec.toInt_sshiftRight, Int.shiftRight_eq_div_pow]
  norm_num

/-! Counts of bits -/

theorem toNat_popcW (a : Word) : (popcW a).toNat = (List.range 32).countP fun i => a.getLsbD i := by
  rw [popcW, BitVec.toNat_ofNat, ← List.countP_eq_length_filter]
  refine Nat.mod_eq_of_lt (Nat.lt_of_le_of_lt List.countP_le_length ?_)
  rw [List.length_range]
  decide
/-- The first of the n places, from 0 up, where a test holds, n where it holds nowhere. -/
def firstBit (n : Nat) (p : Nat → Bool) : Nat := ((List.range n).find? p).getD n
theorem firstBit_eq_iff (n : Nat) (p : Nat → Bool) (i : Nat) (hi : i < n) : firstBit n p = i ↔ p i = true ∧ ∀ j < i, p j = false := by
  have hfind : firstBit n p = i ↔ (List.range n).find? p = some i := by
    unfold firstBit
    cases (List.range n).find? p with
    | none => simp; omega
    | some k => simp
  rw [hfind, List.find?_range_eq_some]
  simp [hi]
theorem firstBit_eq_self_iff (n : Nat) (p : Nat → Bool) : firstBit n p = n ↔ ∀ j < n, p j = false := by
  unfold firstBit
  cases hfind : (List.range n).find? p with
  | none => simpa [List.find?_eq_none] using hfind
  | some k =>
    obtain ⟨hp, hk, -⟩ := List.find?_range_eq_some.mp hfind
    exact ⟨fun h => absurd (h ▸ List.mem_range.mp hk) (lt_irrefl _), fun h => Bool.noConfusion ((h k (List.mem_range.mp hk)).symm.trans hp)⟩
theorem firstBit_le (n : Nat) (p : Nat → Bool) : firstBit n p ≤ n := by
  unfold firstBit
  cases hfind : (List.range n).find? p with
  | none => exact le_refl n
  | some k => exact (List.mem_range.mp (List.mem_of_find?_eq_some hfind)).le
theorem toNat_ofNat_firstBit (p : Nat → Bool) : (BitVec.ofNat 32 (firstBit 32 p)).toNat = firstBit 32 p :=
  Nat.mod_eq_of_lt (Nat.lt_of_le_of_lt (firstBit_le 32 p) (by decide))
theorem toNat_clzW (a : Word) : (clzW a).toNat = firstBit 32 fun i => a.getLsbD (31 - i) := toNat_ofNat_firstBit _
theorem toNat_ctzW (a : Word) : (ctzW a).toNat = firstBit 32 fun i => a.getLsbD i := toNat_ofNat_firstBit _
theorem eq_zero_iff_getLsbD (a : Word) : a = 0 ↔ ∀ i < 32, a.getLsbD i = false :=
  ⟨fun h i _ => by rw [h]; exact BitVec.getLsbD_zero, fun h => BitVec.eq_of_getLsbD_eq fun i hi => (h i hi).trans BitVec.getLsbD_zero.symm⟩

end Sys2Proof

namespace Sys2Proof.Machine

theorem testBit_foldl_or (ls : List Nat) (n i : Nat) : (ls.foldl (fun a l => a ||| 2 ^ l) n).testBit i = (n.testBit i || decide (i ∈ ls)) := by
  induction ls generalizing n with
  | nil => simp
  | cons l t ih =>
    rw [List.foldl_cons, ih, Nat.testBit_or, Nat.testBit_two_pow, Bool.or_assoc]
    simp [eq_comm]
/-- The bits of a mask are the numbers listed. -/
theorem testBit_maskOf (ls : List Nat) (i : Nat) : (maskOf ls).testBit i = decide (i ∈ ls) := by
  rw [maskOf, testBit_foldl_or, Nat.zero_testBit, Bool.false_or]
theorem ofBits_eq_maskOf (n : Nat) (f : Nat → Bool) : ofBits n f = maskOf ((List.range n).filter f) := by
  rw [(maskOf_filter_range f n).2, ofBits]
  congr 1
  funext acc i
  cases f i <;> simp
theorem getLsbD_brevW (a : Word) (i : Nat) (hi : i < 32) : (brevW a).getLsbD i = a.getLsbD (31 - i) := by
  rw [brevW, BitVec.getLsbD_ofNat, decide_eq_true hi, Bool.true_and, ofBits_eq_maskOf, testBit_maskOf]
  simp [hi]

/-- Settles O3: each function's integer, from the clamp, the division or the search of bits that defines it. -/
theorem integerFunctions : Obligations.IntegerFunctions := by
  intro a b
  have ha := word_toInt_range a
  refine ⟨toInt_satTo_signed _, ?addu, toInt_satTo_signed _, ?subu, fun _ => ⟨rfl, rfl⟩, toNat_mulhW a b, toInt_mulhW a b, toInt_minW a b, toInt_maxW a b, toNat_minW a b,
    toNat_maxW a b, toNat_absW a, ?abss, rfl, ?negs, toNat_shlW a b, toNat_shrW a b, toInt_sarW a b, toNat_popcW a, fun n hn => ?clz, fun n hn => ?ctz, ?clz0, ?ctz0,
    fun i hi => getLsbD_brevW a i hi⟩
  case addu =>
    have h := toNat_satTo_unsigned (a.toNat + b.toNat)
    show (satTo true (a.toNat + b.toNat)).toNat = _
    omega
  case subu =>
    have h := toNat_satTo_unsigned (a.toNat - b.toNat)
    have := a.isLt
    show (satTo true (a.toNat - b.toNat)).toNat = _
    omega
  case abss =>
    refine (toInt_satTo_signed _).trans ?_
    omega
  case negs =>
    refine (toInt_satTo_signed _).trans ?_
    omega
  case clz => rw [toNat_clzW, firstBit_eq_iff 32 _ n hn]
  case ctz => rw [toNat_ctzW, firstBit_eq_iff 32 _ n hn]
  case clz0 =>
    rw [toNat_clzW, firstBit_eq_self_iff, eq_zero_iff_getLsbD]
    exact ⟨fun h i hi => by simpa [show 31 - (31 - i) = i by omega] using h (31 - i) (by omega), fun h i _ => h _ (by omega)⟩
  case ctz0 => rw [toNat_ctzW, firstBit_eq_self_iff, eq_zero_iff_getLsbD]

end Sys2Proof.Machine
end

section
/-! What BFX and BFI are, bit by bit (R203). -/
namespace Sys2Proof

theorem getLsbD_bfxW_unsigned (a b : Word) (i : Nat) (hi : i < 32) :
    (bfxW true a b).getLsbD i = (decide (i < min (b.toNat / 256 % 256) 32) && a.getLsbD (b.toNat % 256 + i)) := by
  have hval : bfxW true a b = BitVec.ofNat 32 (a.toNat / 2 ^ (b.toNat % 256) % 2 ^ min (b.toNat / 256 % 256) 32) := by
    unfold bfxW
    simp only [if_true, Bool.true_or]
    split
    · rename_i h
      rw [h, Nat.pow_zero, Nat.mod_one]
      rfl
    · rw [← BitVec.ofInt_natCast]
      norm_num
  rw [hval, BitVec.getLsbD_ofNat, decide_eq_true hi, Bool.true_and, Nat.testBit_mod_two_pow, Nat.testBit_div_two_pow, Nat.add_comm i]
  rfl
/-- The signed number that n bits hold (R76). -/
theorem ite_eq_ofInt_toInt (n : Nat) (hn : n ≠ 0) (x : Int) :
    (if x % 2 ^ n < 2 ^ (n - 1) then x % 2 ^ n else x % 2 ^ n - 2 ^ n) = (BitVec.ofInt n x).toInt := by
  have hpow : (2 : Int) ^ n = 2 * 2 ^ (n - 1) := by
    rw [← pow_succ', Nat.sub_add_cancel (Nat.one_le_iff_ne_zero.mpr hn)]
  have hpos : (0 : Int) < 2 ^ (n - 1) := by positivity
  rw [BitVec.toInt_ofInt, Int.bmod]
  push_cast
  rw [hpow]
  generalize x % (2 * 2 ^ (n - 1)) = f
  generalize (2 : Int) ^ (n - 1) = p at hpos
  split_ifs <;> omega
/-- A signed field is the low bits of the word shifted, extended from the last of them. -/
theorem bfxW_signed (a b : Word) : bfxW false a b = (BitVec.ofInt (min (b.toNat / 256 % 256) 32) (a.toInt / 2 ^ (b.toNat % 256))).signExtend 32 := by
  unfold bfxW
  simp only [Bool.false_eq_true, if_false, Bool.false_or]
  generalize min (b.toNat / 256 % 256) 32 = n
  generalize a.toInt / 2 ^ (b.toNat % 256) = x
  by_cases hn : n = 0
  · subst n
    simp [BitVec.signExtend]
  · rw [if_neg hn, BitVec.signExtend, ← ite_eq_ofInt_toInt n hn x]
    simp only [decide_eq_true_eq]
    split_ifs <;> rfl
theorem getLsbD_ofInt_shifted (a : Word) (pos n i : Nat) (hi : i < n) (hpos : pos + n ≤ 512) :
    (BitVec.ofInt n (a.toInt / 2 ^ pos)).getLsbD i = (a.signExtend 512).getLsbD (pos + i) := by
  have hint : a.toInt / 2 ^ pos = ((a.signExtend 512).sshiftRight pos).toInt := by
    rw [BitVec.toInt_sshiftRight, BitVec.toInt_signExtend_of_le (by decide), Int.shiftRight_eq_div_pow]
    norm_num
  have h512 : i < 512 := by omega
  have hsum : pos + i < 512 := by omega
  rw [hint, ← BitVec.signExtend, BitVec.getLsbD_signExtend, BitVec.getLsbD_sshiftRight]
  simp [hi, hsum, Nat.not_le.mpr h512]
theorem getLsbD_bfxW_signed (a b : Word) (i : Nat) (hi : i < 32) : (bfxW false a b).getLsbD i = (decide (b.toNat / 256 % 256 ≠ 0) &&
      (a.signExtend 512).getLsbD (b.toNat % 256 + min i (min (b.toNat / 256 % 256) 32 - 1))) := by
  have hpos : b.toNat % 256 < 256 := Nat.mod_lt _ (by decide)
  rw [bfxW_signed]
  by_cases hlen : b.toNat / 256 % 256 = 0
  · simp [hlen, BitVec.signExtend]
  generalize b.toNat % 256 = pos at *
  generalize hn : min (b.toNat / 256 % 256) 32 = n at *
  have hbit (j : Nat) (hj : j < n) := getLsbD_ofInt_shifted a pos n j hj (by omega)
  rw [BitVec.getLsbD_signExtend, decide_eq_true hi, Bool.true_and, decide_eq_true hlen, Bool.true_and]
  split
  · rw [hbit i ‹_›, Nat.min_eq_left (by omega)]
  · rw [BitVec.msb_eq_getLsbD_last, hbit (n - 1) (by omega), Nat.min_eq_right (by omega)]
/-- A field of n ones from a place on. -/
theorem getLsbD_fieldMask (n pos i : Nat) (hi : i < 32) : (BitVec.ofNat 32 ((2 ^ n - 1) * 2 ^ pos)).getLsbD i = decide (pos ≤ i ∧ i < pos + n) := by
  rw [BitVec.getLsbD_ofNat, decide_eq_true hi, Bool.true_and, Nat.testBit_mul_two_pow, Nat.testBit_two_pow_sub_one, Bool.and_comm, ← Bool.decide_and]
  apply decide_eq_decide.mpr
  omega
theorem getLsbD_bfiW (a b c : Word) (i : Nat) (hi : i < 32) : (bfiW a b c).getLsbD i =
    if b.toNat % 256 ≤ i ∧ i < b.toNat % 256 + min (b.toNat / 256 % 256) (32 - b.toNat % 256) then c.getLsbD (i - b.toNat % 256) else a.getLsbD i := by
  unfold bfiW
  generalize b.toNat % 256 = pos
  generalize b.toNat / 256 % 256 = len
  dsimp only
  by_cases hpos : pos < 32
  · simp only [hpos, if_true]
    generalize min len (32 - pos) = n
    have hmask := getLsbD_fieldMask n pos i hi
    split
    · subst n
      rw [if_neg (by omega)]
    · rw [BitVec.getLsbD_or, BitVec.getLsbD_and, BitVec.getLsbD_and, BitVec.getLsbD_not, BitVec.getLsbD_shiftLeft, hmask]
      by_cases hin : pos ≤ i ∧ i < pos + n
      · simp [hin, hi]
      · simp [hin, hi]
  · simp only [hpos, if_false, if_true]
    rw [if_neg (by omega)]

end Sys2Proof

namespace Sys2Proof.Machine

/-- Settles O4: bit by bit, a field is the word shifted and cut, and BFI's mask picks the word that gives each bit. -/
theorem bitFieldFunctions : Obligations.BitFieldFunctions := fun a b c =>
  ⟨getLsbD_bfxW_unsigned a b, getLsbD_bfxW_signed a b, getLsbD_bfiW a b c⟩

end Sys2Proof.Machine
end

section
/-! The values that the special functions state (R78, R210). -/
namespace Sys2Proof

/-! Words by their sign and magnitude -/

theorem and_signBit (a : Word) : a &&& 0x80000000 = zero32 a.msb := by
  apply BitVec.eq_of_toNat_eq
  rw [BitVec.toNat_and, show (0x80000000 : Word).toNat = 2 ^ 31 from rfl, Nat.and_two_pow, BitVec.msb_eq_getLsbD_last, BitVec.testBit_toNat]
  cases a.getLsbD 31 <;> rfl
theorem signBit_or_one (a : Word) : (a &&& 0x80000000) ||| 0x3F800000 = one32 a.msb := by
  rw [and_signBit]
  cases a.msb <;> rfl
theorem msb_eq_true_of_ge {a : Word} (h : 0x80000000 ≤ a.toNat) : a.msb = true := by
  rw [BitVec.msb_eq_decide]
  exact decide_eq_true h
theorem msb_eq_false_of_lt {a : Word} (h : a.toNat < 0x80000000) : a.msb = false := by
  rw [BitVec.msb_eq_decide]
  exact decide_eq_false (Nat.not_le.mpr h)
theorem f32_zero {a : Word} (h : a.toNat % 2 ^ 31 = 0) : f32 a = .fin a.msb 0 (-149) := by
  rw [f32_eq, h]
  rfl
theorem f32_inf {a : Word} (h : a.toNat % 2 ^ 31 = 0x7F800000) : f32 a = .inf a.msb := by
  rw [f32_eq, h]
  rfl
theorem eq_zero32 {a : Word} (h : a.toNat % 2 ^ 31 = 0) : a = zero32 a.msb := by
  refine (word_of_sign_mag a).symm.trans ?_
  rw [h]
  cases a.msb <;> rfl
/-- A normal number by its fraction and its exponent field (R78). -/
theorem f32_normal {a : Word} (hlo : 2 ^ 23 ≤ a.toNat % 2 ^ 31) (hhi : a.toNat % 2 ^ 31 < 0x7F800000) :
    f32 a = .fin a.msb (2 ^ 23 + a.toNat % 2 ^ 31 % 2 ^ 23) ((a.toNat % 2 ^ 31 / 2 ^ 23 : Nat) - 150) := by
  rw [f32_eq, f32Mag, if_neg (by omega), if_neg (by omega), if_neg (by omega)]
/-- Where the code of exponent field j and fraction g stands for c or more, so does every code from it on. -/
theorem normal_ge {n c j g : Nat} (hn : j * 2 ^ 23 + g ≤ n) (hj : j < 150) (hg : g < 2 ^ 23) (hc : c * 2 ^ (150 - j) ≤ 2 ^ 23 + g) :
    c * 2 ^ (150 - n / 2 ^ 23) ≤ (2 ^ 23 + n % 2 ^ 23) * 2 ^ (n / 2 ^ 23 - 150) := by
  refine Nat.le_trans ?_ (Nat.le_mul_of_pos_right _ (by positivity))
  by_cases hE : n / 2 ^ 23 = j
  · rw [hE]
    omega
  · have hlt : 150 - n / 2 ^ 23 ≤ 150 - j - 1 := by omega
    have hpow : c * 2 ^ (150 - n / 2 ^ 23) ≤ c * 2 ^ (150 - j - 1) := Nat.mul_le_mul_left c (Nat.pow_le_pow_right (by decide) hlt)
    have hdouble : c * 2 ^ (150 - j) = 2 * (c * 2 ^ (150 - j - 1)) := by
      rw [← Nat.sub_add_cancel (show 1 ≤ 150 - j by omega), pow_succ, Nat.add_sub_cancel]
      ring
    omega
/-- The same of a word's magnitude: from that code on its value, n * 2^e, is c or more. -/
theorem f32_ge {a : Word} (c j g : Nat) (hn : j * 2 ^ 23 + g ≤ a.toNat % 2 ^ 31) (hfin : a.toNat % 2 ^ 31 < 0x7F800000) (hj : 0 < j ∧ j < 150) (hg : g < 2 ^ 23)
    (hc : c * 2 ^ (150 - j) ≤ 2 ^ 23 + g) : ∃ n e, f32 a = .fin a.msb n e ∧ n ≠ 0 ∧ c * 2 ^ (-e).toNat ≤ n * 2 ^ e.toNat := by
  refine ⟨_, _, f32_normal (by omega) hfin, by omega, ?_⟩
  have hneg : (-((a.toNat % 2 ^ 31 / 2 ^ 23 : Nat) - 150 : Int)).toNat = 150 - a.toNat % 2 ^ 31 / 2 ^ 23 := by omega
  have hpos : ((a.toNat % 2 ^ 31 / 2 ^ 23 : Nat) - 150 : Int).toNat = a.toNat % 2 ^ 31 / 2 ^ 23 - 150 := by omega
  rw [hneg, hpos]
  exact normal_ge hn hj.2 hg hc
/-- A negative code that is no NaN and no zero stands for the negative infinity, or for a negative number. -/
theorem f32_negative {a : Word} (hmsb : a.msb = true) (hne : a.toNat % 2 ^ 31 ≠ 0) (hle : a.toNat % 2 ^ 31 ≤ 0x7F800000) :
    f32 a = .inf true ∨ ∃ n e, f32 a = .fin true n e ∧ n ≠ 0 := by
  rw [f32_eq, hmsb, f32Mag]
  split_ifs
  · omega
  · exact .inl rfl
  · exact .inr ⟨_, _, rfl, hne⟩
  · exact .inr ⟨_, _, rfl, by omega⟩

/-! The stated values, by the value of the source -/

theorem turn_integer (n : Nat) {e : Int} (h : 0 ≤ e) : turn n e = (0, 0, 2) := by
  have hk : (-(min e (-2))).toNat = 2 := by omega
  have hpow : (e + (2 : Nat)).toNat = e.toNat + 2 := by omega
  have hmod : n * 2 ^ (e + ((-(min e (-2))).toNat : Nat)).toNat % 2 ^ (-(min e (-2))).toNat = 0 := by
    rw [hk, hpow, pow_add, ← mul_assoc, Nat.mul_mod_left]
  exact Prod.ext ((congrArg (· / _) hmod).trans (Nat.zero_div _)) (Prod.ext ((congrArg (· % _) hmod).trans (Nat.zero_mod _)) hk)
theorem fsin_integer {a : Word} {s : Bool} {n : Nat} {e : Int} (h : f32 a = .fin s n e) (he : 0 ≤ e) : fsin a = zero32 s := by
  simp only [fsin, h, turn_integer n he]
  rfl
theorem fcos_integer {a : Word} {s : Bool} {n : Nat} {e : Int} (h : f32 a = .fin s n e) (he : 0 ≤ e) : fcos a = 0x3F800000 := by
  simp only [fcos, h, turn_integer n he]
  rfl
theorem ftanh_large {a : Word} {s : Bool} {n : Nat} {e : Int} (h : f32 a = .fin s n e) (hn : n ≠ 0) (hge : 10 * 2 ^ (-e).toNat ≤ n * 2 ^ e.toNat) : ftanh a = one32 s := by
  simp only [ftanh, h, ratio_eq, beq_eq_false_iff_ne.mpr hn, Bool.false_eq_true, if_false, if_pos hge]
/-- The source of FEXP2 in units of its least exponent, or of 1. -/
theorem mant_min_zero (s : Bool) (n : Nat) (e : Int) : mant s n e (min e 0) = if s then -((n * 2 ^ e.toNat : Nat) : Int) else ((n * 2 ^ e.toNat : Nat) : Int) := by
  rw [mant, show (e - min e 0).toNat = e.toNat by omega]
theorem fexp2_large {a : Word} {n : Nat} {e : Int} (h : f32 a = .fin false n e) (hn : n ≠ 0) (hge : 128 * 2 ^ (-e).toNat ≤ n * 2 ^ e.toNat) : fexp2 a = inf32 false := by
  have hk : (-(min e 0)).toNat = (-e).toNat := by omega
  have hip : (128 : Int) ≤ ((n * 2 ^ e.toNat : Nat) : Int) / 2 ^ (-e).toNat := by
    rw [Int.le_ediv_iff_mul_le (by positivity)]
    exact_mod_cast hge
  simp only [fexp2, h, beq_eq_false_iff_ne.mpr hn, Bool.false_eq_true, if_false, mant_min_zero, hk, if_pos hip]
theorem fexp2_small {a : Word} {n : Nat} {e : Int} (h : f32 a = .fin true n e) (hn : n ≠ 0) (hge : 150 * 2 ^ (-e).toNat ≤ n * 2 ^ e.toNat) : fexp2 a = zero32 false := by
  have hk : (-(min e 0)).toNat = (-e).toNat := by omega
  have hp : (0 : Int) < 2 ^ (-e).toNat := by positivity
  have hx : -((n * 2 ^ e.toNat : Nat) : Int) ≤ -150 * 2 ^ (-e).toNat := by
    have : (150 : Int) * 2 ^ (-e).toNat ≤ ((n * 2 ^ e.toNat : Nat) : Int) := mod_cast hge
    linarith
  simp only [fexp2, h, beq_eq_false_iff_ne.mpr hn, Bool.false_eq_true, if_false, if_true, mant_min_zero, hk]
  generalize -((n * 2 ^ e.toNat : Nat) : Int) = x at hx
  generalize (2 : Int) ^ (-e).toNat = p at hp hx
  have hip : x / p < -149 := by
    rw [Int.ediv_lt_iff_lt_mul hp]
    linarith
  have hzero : (decide (x / p < -150) || (x / p == -150 && (x - x / p * p).toNat == 0)) = true := by
    by_cases h : x / p = -150
    · have hfr : (x - x / p * p).toNat = 0 := Int.toNat_of_nonpos (by rw [h]; linarith)
      rw [hfr, h]
      rfl
    · rw [decide_eq_true (show x / p < -150 by omega), Bool.true_or]
  rw [if_neg (by omega), if_pos hzero]

end Sys2Proof

namespace Sys2Proof.Machine

/-- Settles O11: FP32 codes by their sign and magnitude, and the branch of each function that their value takes. -/
theorem specialFunctionStatedValues : Obligations.SpecialFunctionStatedValues := by
  intro a
  refine ⟨fun h => ?nan, fun h => ?zero, fun h => ?inf, fun h => ?posInf, fun hlo hhi => ?negative, fun hlo hhi => ?exp2Large, fun hlo hhi => ?exp2Small,
    fun hlo hhi => ?tanhLarge, fun hlo hhi => ?integer⟩
  case nan =>
    simp [frcp, frsq, fexp2, flog2F, fsin, fcos, ftanh, FVal.eq_nan_of_isNan _ h, nan32]
  case zero =>
    have ha := eq_zero32 h
    have hor : a ||| 0x7F800000 = inf32 a.msb := (congrArg (· ||| 0x7F800000) ha).trans (by cases a.msb <;> rfl)
    simp only [hor, frcp, frsq, fexp2, flog2F, fsin, fcos, ftanh, f32_zero h]
    exact ⟨rfl, rfl, rfl, rfl, ha.symm, rfl, ha.symm⟩
  case inf =>
    simp only [and_signBit, frcp, fsin, fcos, f32_inf h]
    exact ⟨trivial, rfl, rfl⟩
  case posInf =>
    subst h
    exact ⟨rfl, rfl⟩
  case negative =>
    have hmsb := msb_eq_true_of_ge (a := a) (by omega)
    rcases f32_negative hmsb (by omega) (by omega) with hf | ⟨n, e, hf, hn⟩
    · simp [frsq, flog2F, hf, nan32]
    · simp [frsq, flog2F, hf, hn, nan32]
  case exp2Large =>
    have hmsb := msb_eq_false_of_lt (a := a) (by omega)
    by_cases hinf : a.toNat % 2 ^ 31 = 0x7F800000
    · rw [fexp2, f32_inf hinf, hmsb]
      rfl
    · obtain ⟨n, e, hf, hn, hge⟩ := f32_ge (a := a) 128 134 0 (by omega) (by omega) (by omega) (by omega) (by norm_num)
      exact fexp2_large (hmsb ▸ hf) hn hge
  case exp2Small =>
    have hmsb := msb_eq_true_of_ge (a := a) (by omega)
    by_cases hinf : a.toNat % 2 ^ 31 = 0x7F800000
    · rw [fexp2, f32_inf hinf, hmsb]
      rfl
    · obtain ⟨n, e, hf, hn, hge⟩ := f32_ge (a := a) 150 134 0x160000 (by omega) (by omega) (by omega) (by omega) (by norm_num)
      exact fexp2_small (hmsb ▸ hf) hn hge
  case tanhLarge =>
    rw [signBit_or_one]
    by_cases hinf : a.toNat % 2 ^ 31 = 0x7F800000
    · rw [ftanh, f32_inf hinf]
    · obtain ⟨n, e, hf, hn, hge⟩ := f32_ge (a := a) 10 130 0x200000 (by omega) (by omega) (by omega) (by omega) (by norm_num)
      exact ftanh_large hf hn hge
  case integer =>
    have hf := f32_normal (a := a) (by omega) hhi
    rw [and_signBit]
    exact ⟨fsin_integer hf (by omega), .inl (fcos_integer hf (by omega))⟩

end Sys2Proof.Machine
end

section
/-! Loads, stores, atomics and global futures: one operation for each lane under the guard (R45, R143, R250, R254, R255, R258 to R260). -/
namespace Sys2Proof.Machine

/-! Loads and stores -/

theorem planLd_issues {i : Instr} {g : Guard} {len d a : Nat} {imm : Word} {size : Size} {sgn : Bool} {ord : Ord} {sc : Scope} {hint : Hint}
    (hi : ∀ s, exec i s = .next (s.exec { planLd g d a imm size sgn ord sc hint with len := len })) :
    Issues i g len (run d size.regs ++ [a, a + 1]) [a, a + 1] .ld .read size.bytes (fun _ _ _ => True) (fun x l => x.co.gAddr a imm l)
      fun _ _ o => o.kind = .load ∧ o.dst = d ∧ o.ndst = size.regs ∧ o.sgn = sgn ∧ o.ord = ord ∧ o.sc = sc ∧ o.nl1 = (hint == .nl1) ∧ o.uni = false ∧ o.sharers = [] :=
  issues_of i { planLd g d a imm size sgn ord sc hint with len := len } .ld .read size.bytes _ _ _
    (fun x s l pa leaf => s.loadOp x l (x.co.gAddr a imm l) pa leaf d size sgn ord sc hint) hi rfl rfl (fun _ _ => ⟨rfl, rfl, rfl⟩)
    (fun _ _ h l hl => (h l hl).1) (fun _ _ => rfl) (fun _ _ _ _ _ => ⟨rfl, rfl, rfl, rfl, rfl, rfl, rfl, rfl, rfl⟩)
    fun _ _ _ _ _ _ _ _ _ _ => ⟨rfl, rfl, rfl, rfl, rfl, rfl, rfl, rfl, rfl⟩

/-- A lane that passes two checks passes them one after the other. -/
theorem Verdict.and_go {v w : Verdict} (hv : v = .go) (hw : w = .go) : v.and w = .go := by rw [hv, hw]; rfl

theorem planSt_issues {i : Instr} {g : Guard} {len d a : Nat} {imm : Word} {size : Size} {ord : Ord} {sc : Scope} {hint : Hint}
    (hi : ∀ s, exec i s = .next (s.exec { planSt g d a imm size ord sc hint with len := len })) :
    Issues i g len (run d size.regs ++ [a, a + 1]) (run d size.regs ++ [a, a + 1]) .st .write size.bytes
      (fun s x l => s.slackCheck x (x.en g) l size.bytes = .go) (fun x l => x.co.gAddr a imm l)
      fun x l o => o.kind = .store ∧ o.data = x.co.dataBytes d size.bytes l ∧ o.ord = ord ∧ o.sc = sc :=
  issues_of i { planSt g d a imm size ord sc hint with len := len } .st .write size.bytes _ _ _
    (fun x s l pa leaf => { s.newOp x l .store (some .st) (x.co.gAddr a imm l) pa leaf size.bytes with data := x.co.dataBytes d size.bytes l, ord := ord, sc := sc })
    hi rfl rfl (fun _ _ => ⟨rfl, rfl, rfl⟩) (fun _ _ h l hl => Verdict.and_go (h l hl).1 (h l hl).2) (fun _ _ => rfl)
    (fun _ _ _ _ _ => ⟨rfl, rfl, rfl, rfl, rfl, rfl, rfl, rfl, rfl⟩) fun _ _ _ _ _ _ _ _ _ _ => ⟨rfl, rfl, rfl, rfl⟩

/-! Atomics and global futures -/

/-- The plan that ATOM, ATOMCAS and ATOMN share: each lane's operation carries its operands' bytes. -/
theorem atomicPlan_issues {i : Instr} {g : Guard} {xop : XOp} {kind : OpKind} {cls : CClass} {d nd a : Nat} {imm : Word} {w : Bool} {ord : Ord} {sc : Scope} {b : Nat}
    {srcs : List Nat} {data cmp : Cohort → Nat → List Byte} (hi : ∀ s, exec i s = .next (s.exec (atomicPlan g xop kind cls d nd a imm w ord sc b srcs data cmp))) :
    Issues i g 12 (run d nd ++ [a, a + 1] ++ srcs) ([a, a + 1] ++ srcs) cls .atomic (if w then 8 else 4)
      (fun s x l => s.atomicCheck x l ord.isRel (x.co.gAddr a imm l) (if w then 8 else 4) = .go) (fun x l => x.co.gAddr a imm l)
      fun x l o => o.kind = kind ∧ o.dst = d ∧ o.ndst = nd ∧ o.data = data x.co l ∧ o.cmp = cmp x.co l ∧ o.ord = ord ∧ o.sc = sc :=
  issues_of i (atomicPlan g xop kind cls d nd a imm w ord sc b srcs data cmp) cls .atomic (if w then 8 else 4) _ _ _
    (fun x s l pa leaf => { s.newOp x l kind (some cls) (x.co.gAddr a imm l) pa leaf (if w then 8 else 4) with
      data := data x.co l, cmp := cmp x.co l, dst := d, ndst := nd, ord := ord, sc := sc })
    hi rfl rfl (fun _ _ => ⟨rfl, rfl, rfl⟩) (fun _ _ h l hl => Verdict.and_go (h l hl).1 (h l hl).2) (fun _ _ => rfl)
    (fun _ _ _ _ _ => ⟨rfl, rfl, rfl, rfl, rfl, rfl, rfl, rfl, rfl⟩) fun _ _ _ _ _ _ _ _ _ _ => ⟨rfl, rfl, rfl, rfl, rfl, rfl, rfl⟩

theorem ffill_issues (g : Guard) (d a b : Nat) (imm : Word) (sc : Scope) :
    Issues (.ffill g d a imm b false sc) g 12 [d, a, a + 1, b, b + 1] [a, a + 1, b, b + 1] .ld .future 16
      (fun s x l => s.atomicCheck x l true (x.co.gAddr a imm l) 16 = .go) (fun x l => x.co.gAddr a imm l)
      fun x l o => o.kind = .ffill ∧ o.dst = d ∧ o.ndst = 1 ∧ o.data = leBytes 8 (x.co.reg64 b l).toNat ∧ o.ord = .rel ∧ o.sc = sc :=
  issues_of _ (planFfill g d a imm b false sc) .ld .future 16 _ _ _
    (fun x s l pa leaf => { s.newOp x l .ffill (some .ld) (x.co.gAddr a imm l) pa leaf 16 with
      data := leBytes 8 (x.co.reg64 b l).toNat, dst := d, ndst := 1, ord := .rel, sc := sc })
    (fun _ => rfl) rfl rfl (fun _ _ => ⟨rfl, rfl, rfl⟩) (fun _ _ h l hl => Verdict.and_go (h l hl).1 (h l hl).2) (fun _ _ => rfl)
    (fun _ _ _ _ _ => ⟨rfl, rfl, rfl, rfl, rfl, rfl, rfl, rfl, rfl⟩) fun _ _ _ _ _ _ _ _ _ _ => ⟨rfl, rfl, rfl, rfl, rfl, rfl⟩
theorem freset_issues (g : Guard) (a : Nat) (imm : Word) (sc : Scope) :
    Issues (.freset g a imm false sc) g 12 [a, a + 1] [a, a + 1] .st .future 16
      (fun s x l => s.atomicCheck x l true (x.co.gAddr a imm l) 16 = .go) (fun x l => x.co.gAddr a imm l)
      fun _ _ o => o.kind = .freset ∧ o.data = leBytes 16 0 ∧ o.ord = .rel ∧ o.sc = sc :=
  issues_of _ (planFreset g a imm false sc) .st .future 16 _ _ _
    (fun x s l pa leaf => { s.newOp x l .freset (some .st) (x.co.gAddr a imm l) pa leaf 16 with data := leBytes 16 0, ord := .rel, sc := sc })
    (fun _ => rfl) rfl rfl (fun _ _ => ⟨rfl, rfl, rfl⟩) (fun _ _ h l hl => Verdict.and_go (h l hl).1 (h l hl).2) (fun _ _ => rfl)
    (fun _ _ _ _ _ => ⟨rfl, rfl, rfl, rfl, rfl, rfl, rfl, rfl, rfl⟩) fun _ _ _ _ _ _ _ _ _ _ => ⟨rfl, rfl, rfl, rfl⟩

theorem atom_issues (g : Guard) (d a b : Nat) (imm : Word) (op : AtomOp) (w rt : Bool) (ord : Ord) (sc : Scope) :
    Issues (.atom g d a imm b op w rt ord sc) g 12 (run d (if w then 2 else 1) ++ [a, a + 1] ++ wideRegs w b) ([a, a + 1] ++ wideRegs w b) .ld .atomic (if w then 8 else 4)
      (fun s x l => s.atomicCheck x l ord.isRel (x.co.gAddr a imm l) (if w then 8 else 4) = .go) (fun x l => x.co.gAddr a imm l)
      fun x l o => o.kind = .atomic op rt ∧ o.dst = d ∧ o.ndst = (if w then 2 else 1) ∧ o.data = x.co.opBytes b w l ∧ o.cmp = [] ∧ o.ord = ord ∧ o.sc = sc :=
  atomicPlan_issues (xop := .atom) (b := b) (data := fun co l => co.opBytes b w l) (cmp := fun _ _ => []) fun _ => rfl
theorem atomcas_issues (g : Guard) (d a b c : Nat) (imm : Word) (w rt : Bool) (ord : Ord) (sc : Scope) :
    Issues (.atomcas g d a imm b c w rt ord sc) g 12 (run d (if w then 2 else 1) ++ [a, a + 1] ++ (wideRegs w b ++ wideRegs w c)) ([a, a + 1] ++ (wideRegs w b ++ wideRegs w c))
      .ld .atomic (if w then 8 else 4) (fun s x l => s.atomicCheck x l ord.isRel (x.co.gAddr a imm l) (if w then 8 else 4) = .go) (fun x l => x.co.gAddr a imm l)
      fun x l o => o.kind = .cas rt ∧ o.dst = d ∧ o.ndst = (if w then 2 else 1) ∧ o.data = x.co.opBytes c w l ∧ o.cmp = x.co.opBytes b w l ∧ o.ord = ord ∧ o.sc = sc :=
  atomicPlan_issues (xop := .atomcas) (b := b) (data := fun co l => co.opBytes c w l) (cmp := fun co l => co.opBytes b w l) fun _ => rfl
theorem atomn_issues (g : Guard) (a b : Nat) (imm : Word) (op : AtomOp) (w rt : Bool) (ord : Ord) (sc : Scope) :
    Issues (.atomn g a imm b op w rt ord sc) g 12 ([a, a + 1] ++ wideRegs w b) ([a, a + 1] ++ wideRegs w b) .st .atomic (if w then 8 else 4)
      (fun s x l => s.atomicCheck x l ord.isRel (x.co.gAddr a imm l) (if w then 8 else 4) = .go) (fun x l => x.co.gAddr a imm l)
      fun x l o => o.kind = .atomic op rt ∧ o.dst = 0 ∧ o.ndst = 0 ∧ o.data = x.co.opBytes b w l ∧ o.cmp = [] ∧ o.ord = ord ∧ o.sc = sc :=
  atomicPlan_issues (xop := .atomn) (d := 0) (nd := 0) (b := b) (data := fun co l => co.opBytes b w l) (cmp := fun _ _ => []) fun _ => rfl

/-- Settles O21: each plan sends one operation for each lane, made of the lane's operands. -/
theorem globalMemoryOperations : Obligations.GlobalMemoryOperations := by
  intro g d a b c off imm size sgn w rt ord sc hint op
  refine ⟨planLd_issues fun _ => rfl, planLd_issues (size := .b32) (hint := .dflt) fun _ => rfl, planSt_issues (hint := hint) fun _ => rfl,
    planSt_issues (size := .b32) (hint := .dflt) fun _ => rfl, ?_, ?_, atomn_issues g a b imm op w rt ord sc,
    ffill_issues g d a b imm sc, freset_issues g a imm sc⟩
  · cases w with
    | false => exact atom_issues g d a b imm op false rt ord sc
    | true => exact atom_issues g d a b imm op true rt ord sc
  · cases w with
    | false => exact atomcas_issues g d a b c imm false rt ord sc
    | true => exact atomcas_issues g d a b c imm true rt ord sc

end Sys2Proof.Machine
end

section
/-! Tags of a grove and the words of its tags and handles (R241 to R243, R283, R293, R294). -/
namespace Sys2Proof.Machine

/-! FFR -/

theorem lowestTag_zero : lowestTag 0 = none := by
  simp [lowestTag, List.find?_eq_none]
theorem lowestTag_eq_some {m : DWord} {i : Nat} (hi : i < 64) (hset : m.getLsbD i = true) (hbelow : ∀ j < i, m.getLsbD j = false) : lowestTag m = some i :=
  List.find?_range_eq_some.mpr ⟨hset, List.mem_range.mpr hi, by simpa using hbelow⟩
/-- The tags of a lane's grove that its mask selects. -/
def State.maskedTags (s : State) (x : Ctx) (m : Nat → DWord) (l : Nat) : DWord := ((s.groves.find? (s.groveOf x l)).elim 0 fun q => q.tags) &&& m l
theorem State.ffr_none (s : State) (x : Ctx) (m : Nat → DWord) (l : Nat) (t : List Nat) (h : lowestTag (s.maskedTags x m l) = none) :
    s.ffr x m (l :: t) = ((s.ffr x m t).1, (l, 64) :: (s.ffr x m t).2) := by
  unfold State.maskedTags at h
  simp only [State.ffr, h]
theorem State.ffr_some (s : State) (x : Ctx) (m : Nat → DWord) (l i : Nat) (t : List Nat) (h : lowestTag (s.maskedTags x m l) = some i) :
    let s' := s.modTags (s.groveOf x l) fun v => v &&& ~~~BitVec.ofNat 64 (2 ^ i)
    s.ffr x m (l :: t) = ((s'.ffr x m t).1, (l, i) :: (s'.ffr x m t).2) := by
  unfold State.maskedTags at h
  simp only [State.ffr, h]
theorem ffr_acts (g : Guard) (pc d : Nat) (a : Src) : Acts (.ffr g pc d a) g 12 (d :: a.regs64) a.regs64 always fun s x ls =>
    (s.ffr x (x.co.mask a) ls).1.onCohort x fun co =>
      ls.foldl (fun c l => c.setPred pc l ((s.ffr x (x.co.mask a) ls).2.getD l 64 != 64))
        (co.write d .gen ls fun l => BitVec.ofNat 32 ((s.ffr x (x.co.mask a) ls).2.getD l 64)) :=
  acts_plain _ g 12 (opc .ffr) _ _ _ fun _ => rfl

/-! BSTAT and MXVER -/

theorem bstat_computes (g : Guard) (d : Nat) (a : Src) : Computes (.bstat g d a) g 12 (d :: a.regs) a.regs [d] always fun s x _ l =>
    (s.groves.find? (s.groveOf x l)).elim 0 fun q => (q.tagStat ((x.co.src a l).toNat % 64)).setWidth 32 :=
  computes_write _ (planBstat g d a) d always _ (fun _ _ _ => .gen)
    (fun t x _ l => (t.groves.find? (t.groveOf x l)).elim 0 fun q => (q.tagStat ((x.co.src a l).toNat % 64)).setWidth 32)
    (fun _ => rfl) rfl rfl (fun _ _ _ _ => rfl) (fun _ _ => rfl) (fun s x _ => plain_checks _ _ _ _ _ _ s x)
    fun _ _ _ _ _ _ => ⟨fun _ _ _ => rfl, fun h => Sh.noConfusion h, fun _ _ h => Sh.noConfusion h⟩
/-- The tiles of a core do not depend on what a cohort's slot holds. -/
theorem State.tile_setCohort (s : State) (c sl : Nat) (co : Cohort) (core grove h : Nat) : ((s.setCohort c sl co).core core).tile grove h = (s.core core).tile grove h := by
  obtain ⟨ks, rf, hcore⟩ := s.core_setCohort c sl core co
  rw [hcore]
  rfl
theorem State.handleVerdict_go {s : State} {x : Ctx} {l h : Nat} (hheld : ∃ t, (s.core x.core).tile (s.groveOf x l) h = .ok t) : s.handleVerdict x l h = .go := by
  obtain ⟨t, ht⟩ := hheld
  rw [State.handleVerdict, ht]
/-- The word of a handle that its grove holds (R294). -/
theorem mxver_computes (g : Guard) (d a : Nat) : Computes (.mxver g d a) g 12 [d, a] [a] [d]
    (each g fun s x l => ∃ t, (s.core x.core).tile (s.groveOf x l) ((x.co.reg a l).toNat % 64) = .ok t)
    (fun s x _ l => ((s.core x.core).tile (s.groveOf x l) ((x.co.reg a l).toNat % 64)).toOption.elim 0 fun t => BitVec.ofNat 32 t.word) := by
  refine computes_write _ (planMxver g d a) d _ _ (fun _ _ _ => .gen) _ (fun _ => rfl) rfl rfl (fun _ _ _ _ => rfl) (fun _ _ => rfl)
    (fun s x hheld => ⟨rfl, rfl, rfl, fun l hl => State.handleVerdict_go (hheld l hl)⟩) fun s x co hheld _ _ => ?_
  refine ⟨fun l hl _ => ?_, fun h => Sh.noConfusion h, fun _ _ h => Sh.noConfusion h⟩
  obtain ⟨t, ht⟩ := hheld l hl
  have ht' : ((s.setCohort x.core x.slot co).core x.core).tile ((s.setCohort x.core x.slot co).groveOf x l) ((x.co.reg a l).toNat % 64) = .ok t :=
    (s.tile_setCohort ..).trans ht
  simp only [ht, ht']
  rfl

/-- Settles O28: TCLR and FFR act, BSTAT and MXVER compute; a lane's FFR goes by the lowest tag that its mask selects. -/
theorem tagInstructions : Obligations.TagInstructions := by
  refine ⟨fun g pc d ra a => ⟨acts_plain _ g 12 (opc .tclr) _ _ _ fun _ => rfl, ffr_acts g pc d a, bstat_computes g d a, mxver_computes g d ra⟩, fun s x m l t => ?_⟩
  refine ⟨fun hnone => s.ffr_none x m l t ?_, fun i hi hset hbelow => s.ffr_some x m l i t (lowestTag_eq_some hi hset hbelow)⟩
  exact (congrArg lowestTag hnone).trans lowestTag_zero

end Sys2Proof.Machine
end

section
/-! LDU and LDC: one read for all the lanes under the guard (R256, R257). -/
namespace Sys2Proof.Machine

/-! What the checks of LDU and LDC come to in an issue that is ready -/

/-- An issue that is ready for an instruction that reads some registers is ready for one that only names them. -/
theorem State.ready_named {s : State} {x : Ctx} {g : Guard} {regs srcs : List Nat} (h : s.ready x g regs srcs = true) : s.ready x g regs [] = true := by
  obtain ⟨hctx, hsingle, hallot, hlanes⟩ := (s.ready_iff x g regs srcs).mp h
  refine (s.ready_iff x g regs []).mpr ⟨hctx, hsingle, hallot, fun l hl => ?_⟩
  obtain ⟨-, hpending, hpoison⟩ := hlanes l hl
  refine ⟨fun _ => rfl, hpending, ?_⟩
  simp only [List.any_eq_false, Bool.or_eq_true, not_or] at hpoison ⊢
  exact fun q hq => ⟨(hpoison q hq).1, by simp⟩
/-- Where no lane parks at the load, the lowest lane under the guard leads (R256). -/
theorem State.leadLane_eq {s : State} {x : Ctx} {g : Guard} {regs srcs : List Nat} {l : Nat} {rest : List Nat} (h : s.ready x g regs srcs = true)
    (hen : x.en g = l :: rest) (hcount : s.countable x .ld l = true) : s.leadLane x regs (x.en g) = l := by
  obtain ⟨-, -, -, hlanes⟩ := (s.ready_iff x g regs srcs).mp h
  obtain ⟨-, hpending, -⟩ := hlanes l (by simp [hen])
  have hready : s.ldReady x regs l = true := by
    unfold State.countable at hcount
    simp only [State.ldReady, hpending, hcount, List.isEmpty_nil, Bool.and_true]
  rw [State.leadLane, hen, List.find?_cons_of_pos hready]
  rfl
/-- The address pair of a lane that is ready can be read (R64, R420). -/
theorem State.pairBad_none {s : State} {x : Ctx} {g : Guard} {regs : List Nat} {a l : Nat} (h : s.ready x g regs [a, a + 1] = true) (hl : l ∈ x.en g) :
    s.pairBad x a l = none := by
  obtain ⟨-, -, -, hlanes⟩ := (s.ready_iff x g regs [a, a + 1]).mp h
  obtain ⟨hstale, -, hpoison⟩ := hlanes l hl
  have hwhole : ((x.co.lanes.find? l).bind fun y => List.find? (fun q : Nat × Flt => [a, a + 1].contains q.1 && q.2.akind == 6) y.poison) = none := by
    cases hlane : x.co.lanes.find? l with
    | none => rfl
    | some y =>
      simp only [hlane, Option.elim_some, List.any_eq_false, Bool.or_eq_true, not_or] at hpoison
      simp only [Option.bind_some, List.find?_eq_none]
      exact fun q hq hc => (hpoison q hq).2 (Bool.and_eq_true_iff.mp hc).1
  have hfresh : (if x.strict then [a, a + 1].find? x.co.stale else none) = none := by
    split
    · next hstrict => exact List.find?_eq_none.mpr (by simpa [List.any_eq_false] using hstale hstrict)
    · rfl
  simp only [State.pairBad, hwhole, hfresh, Option.map_none]
theorem State.leadVerdict_go {s : State} {x : Ctx} {regs en : List Nat} {l va size : Nat} (h : s.gVerdict x va size .read = .go) :
    s.leadVerdict x regs en l va size = .go := by
  simp only [State.leadVerdict, h]

/-! The one operation -/

/-- What an issue at which the lanes l and, above it, those of rest load together leaves: one read more in flight, for l's strand and shared by the others, and the lanes moved on. -/
def OneRead (s t : State) (x : Ctx) (l : Nat) (rest : List Nat) (len va d : Nat) (size : Size) (sgn : Bool) (ord : Ord) (sc : Scope) : Prop :=
  ∃ o : MemOp, t.ops = s.ops ++ [o] ∧ t.mem = s.mem ∧ t.cohort? x.core x.slot = some (s.passed x len) ∧
    o.kind = .load ∧ o.cls = some .ld ∧ o.strand = x.strand l ∧ o.sharers = rest.map x.strand ∧ o.uni = true ∧ o.va = va ∧ o.size = size.bytes ∧
    s.gCheck x.core x.part va size.bytes size.bytes .read = .ok o.pa o.leaf ∧ o.dst = d ∧ o.ndst = size.regs ∧ o.sgn = sgn ∧ o.ord = ord ∧ o.sc = sc
/-- The read that the lane l makes for itself and the lanes of rest. -/
def State.sharedLoad (s : State) (x : Ctx) (rest : List Nat) (l va pa : Nat) (leaf : DWord) (d : Nat) (size : Size) (sgn : Bool) (ord : Ord) (sc : Scope) : MemOp :=
  { s.loadOp x l va pa leaf d size sgn ord sc .dflt with uni := true, sharers := rest.map x.strand }
theorem State.leadIssue_cons (s : State) (x : Ctx) (l : Nat) (rest : List Nat) (va d : Nat) (size : Size) (sgn : Bool) (ord : Ord) (sc : Scope) :
    s.leadIssue x (l :: rest) va d size sgn ord sc = s.gIssue x [l] (fun _ => va) size.bytes .read fun s l pa leaf => s.sharedLoad x rest l va pa leaf d size sgn ord sc := rfl
/-- The issue of one read, in a state whose lanes have moved on. -/
theorem State.leadIssue_oneRead {s : State} {x : Ctx} {l : Nat} {rest : List Nat} {len va d : Nat} {size : Size} {sgn : Bool} {ord : Ord} {sc : Scope} (hctx : s.ctx = some x)
    (hv : s.gVerdict x va size.bytes .read = .go) :
    OneRead s (((s.setPcs x x.xs (x.after len)).leadIssue x (l :: rest) va d size sgn ord sc).issued x) x l rest len va d size sgn ord sc := by
  have hcheck := s.gCheck_of_go x va size.bytes .read hv
  rw [State.leadIssue_cons]
  obtain ⟨q, ss, ks, news, heq, honly, hlen, hnews⟩ := (s.setPcs x x.xs (x.after len)).gIssue_eq x [l] (fun _ => va) size.bytes .read
    (fun s l pa leaf => s.sharedLoad x rest l va pa leaf d size sgn ord sc) fun _ _ => by rwa [State.gCheck_setPcs]
  obtain ⟨o, rfl⟩ := List.length_eq_one_iff.mp hlen
  obtain ⟨_, _, _, _, pa, leaf, hpa, ho⟩ := hnews l o (by simp)
  rw [State.gCheck_setPcs] at hpa
  generalize (s.setPcs x x.xs (x.after len)).gIssue x [l] (fun _ => va) size.bytes .read (fun s l pa leaf => s.sharedLoad x rest l va pa leaf d size sgn ord sc) = t at heq ⊢
  have hslot : t.cohort? x.core x.slot = (s.setPcs x x.xs (x.after len)).cohort? x.core x.slot := by
    obtain ⟨l1, hl1⟩ := honly x.core
    simp only [heq, State.cohort?, State.core, hl1]
  obtain ⟨hco, hops, hmem⟩ := s.issued_passed t x len hctx (by simp [heq]) hslot
  refine ⟨o, hops.trans (by simp [heq]), hmem.trans (by simp [heq]), hco, ?_⟩
  rw [ho]
  exact ⟨rfl, rfl, rfl, rfl, rfl, rfl, rfl, hpa, rfl, rfl, rfl, rfl, rfl⟩
/-- An issue whose checks pass and whose plan makes one read. -/
theorem State.exec_oneRead {s : State} {x : Ctx} {p : Plan} {l : Nat} {rest : List Nat} {va d : Nat} {size : Size} {sgn : Bool} {ord : Ord} {sc : Scope}
    (hr : s.ready x p.g p.regs p.srcs = true) (hu : s.unwatched x = true) (hen : x.en p.g = l :: rest) (hb : p.bad s x = none ∧ p.priv s x = false ∧ p.misses s x = none)
    (hcls : p.cls = some .ld) (hcount : ∀ m ∈ x.en p.g, s.countable x .ld m = true) (hgo : ∀ m ∈ x.en p.g, p.check s x (x.en p.g) m = .go) (hn : p.need = 0)
    (hact : p.act (s.setPcs x x.xs (x.after p.len)) x (l :: rest) = (s.setPcs x x.xs (x.after p.len)).leadIssue x (l :: rest) va d size sgn ord sc)
    (hv : s.gVerdict x va size.bytes .read = .go) : OneRead s (s.exec p) x l rest p.len va d size sgn ord sc := by
  obtain ⟨hbad, hpriv, hmisses⟩ := hb
  have hexec := s.exec_ready x p hr hbad hpriv hmisses
    (fun m hm c hc => by rw [hcls] at hc; cases hc; simpa [State.countable] using hcount m hm) hgo (.inl hn)
    fun _ _ a _ n hn => s.unwatched_match _ x n a hu hn (State.setPcs_bps s x x.xs (x.after p.len))
  have heffect : p.effect s x = (s.setPcs x x.xs (x.after p.len)).leadIssue x (l :: rest) va d size sgn ord sc := by
    rw [Plan.effect, hen, hact]
    rfl
  rw [hexec, heffect]
  exact State.leadIssue_oneRead ((s.ready_iff x p.g p.regs p.srcs).mp hr).1 hv

/-! The two instructions -/

theorem planLdu_check_go {g : Guard} {d a : Nat} {imm : Word} {size : Size} {sgn : Bool} {ord : Ord} {sc : Scope} {s : State} {x : Ctx} {en : List Nat} {l : Nat} (m : Nat)
    (hlead : s.leadLane x (run d size.regs ++ [a, a + 1]) en = l) (hpair : s.pairBad x a l = none) (hv : s.gVerdict x (x.co.gAddr a imm l) size.bytes .read = .go) :
    (planLdu g d a imm size sgn ord sc).check s x en m = .go := by
  subst hlead
  simp only [planLdu, hpair]
  exact State.leadVerdict_go hv
theorem planLdc_check_go {g : Guard} {d : Nat} {imm : Word} {size : Size} {s : State} {x : Ctx} {en : List Nat} {la : Launch} (m : Nat)
    (hla : s.launches.find? x.co.launch = some la) (harg : la.pkt.argVa ≠ 0) (hv : s.gVerdict x (s.argVa x imm) size.bytes .read = .go) :
    (planLdc g d imm size).check s x en m = .go :=
  (if_neg (by simpa [hla] using harg)).trans (State.leadVerdict_go hv)
theorem State.argVa_of {s : State} {x : Ctx} {la : Launch} (imm : Word) (hla : s.launches.find? x.co.launch = some la) :
    s.argVa x imm = (la.pkt.argVa + imm.toNat) % 2 ^ 64 := by
  rw [State.argVa, hla]
  rfl
@[simp] theorem State.argVa_setPcs (s : State) (x : Ctx) (ls : List Nat) (pc : Pc) (imm : Word) : (s.setPcs x ls pc).argVa x imm = s.argVa x imm := by
  rw [State.argVa, State.setPcs_launches]
  rfl

/-- Settles O22: the lowest lane leads, so each plan makes the one read at its address, or at that of the argument block. -/
theorem uniformLoads : Obligations.UniformLoads := by
  intro g d a imm size sgn ord sc s x l rest hen hu hcount one
  have hmem : l ∈ x.en g := by simp [hen]
  refine ⟨fun hr hv => ?ldu, fun hr la hla harg hv => ?ldc⟩
  case ldu =>
    obtain ⟨o, h⟩ := State.exec_oneRead (p := planLdu g d a imm size sgn ord sc) (va := x.co.gAddr a imm l) (State.ready_named hr) hu hen ⟨rfl, rfl, rfl⟩ rfl hcount
      (fun m _ => planLdu_check_go m (State.leadLane_eq hr hen (hcount l hmem)) (State.pairBad_none hr hmem) hv) rfl rfl hv
    exact ⟨s.exec (planLdu g d a imm size sgn ord sc), o, rfl, h⟩
  case ldc =>
    rw [← State.argVa_of imm hla] at hv ⊢
    obtain ⟨o, h⟩ := State.exec_oneRead (p := planLdc g d imm size) (va := s.argVa x imm) hr hu hen ⟨rfl, rfl, rfl⟩ rfl hcount
      (fun m _ => planLdc_check_go m hla harg hv) rfl
      (congrArg (fun va => (s.setPcs x x.xs (x.after 12)).leadIssue x (l :: rest) va d size false .plain .core) (s.argVa_setPcs x x.xs _ imm)) hv
    exact ⟨s.exec (planLdc g d imm size), o, rfl, h⟩

end Sys2Proof.Machine
end

section
/-! Scratchpad loads and stores (R127, R153, R227, R229, R237, R264, R265). -/
namespace Sys2Proof.Machine

/-! The words of loaded bytes (R227) -/

theorem leNat_lt (bs : List Byte) : leNat bs < 2 ^ (8 * bs.length) := by
  induction bs with
  | nil => simp [leNat]
  | cons b t ih =>
    have hb := b.isLt
    rw [leNat, List.length_cons, Nat.mul_succ, Nat.pow_add]
    omega
/-- The top bit of a number of i + 1 bits. -/
theorem bitN_top {n i : Nat} (h : n < 2 * 2 ^ i) : bitN n i = decide (2 ^ i ≤ n) := by
  by_cases htop : 2 ^ i ≤ n
  · have hone : n / 2 ^ i = 1 := Nat.div_eq_of_lt_le (by omega) (by omega)
    simp [bitN, hone, htop]
  · simp [bitN, Nat.div_eq_of_lt (Nat.not_le.mp htop), htop]
theorem loadWords_short {bs : List Byte} (h : bs.length ≤ 4) (sgn : Bool) : (loadWords bs sgn).getD 0 0 = extendLoad bs sgn := by
  rw [loadWords, if_pos h]
  rfl
/-- Up to 4 bytes extended by zeros. -/
theorem toNat_extendLoad_false {bs : List Byte} (h : bs.length ≤ 4) : (extendLoad bs false).toNat = leNat bs := by
  have hlt : leNat bs < 2 ^ 32 := Nat.lt_of_lt_of_le (leNat_lt bs) (Nat.pow_le_pow_right (by decide) (by omega))
  exact Nat.mod_eq_of_lt hlt
/-- Up to 4 bytes extended by their sign. -/
theorem toInt_extendLoad_true {bs : List Byte} (hpos : 0 < bs.length) (h : bs.length ≤ 4) :
    (extendLoad bs true).toInt = if leNat bs < 2 ^ (8 * bs.length - 1) then (leNat bs : Int) else leNat bs - 2 ^ (8 * bs.length) := by
  obtain ⟨i, hi⟩ : ∃ i, 8 * bs.length = i + 1 := ⟨8 * bs.length - 1, by omega⟩
  have hlt := leNat_lt bs
  have hword : 2 ^ i ≤ 2 ^ 31 := Nat.pow_le_pow_right (by decide) (by omega)
  have hpow : (2 : Int) ^ (i + 1) = 2 * ((2 ^ i : Nat) : Int) := by
    push_cast
    exact pow_succ' 2 i
  rw [hi, Nat.pow_succ'] at hlt
  simp only [extendLoad, hi, Nat.add_sub_cancel, bitN_top hlt, hpow, Bool.true_and, decide_eq_true_eq]
  by_cases htop : 2 ^ i ≤ leNat bs
  · rw [if_pos htop, if_neg (Nat.not_lt.mpr htop), BitVec.toInt_ofInt]
    exact Int.bmod_eq_of_le (by omega) (by omega)
  · have hnat : (BitVec.ofNat 32 (leNat bs)).toNat = leNat bs := Nat.mod_eq_of_lt (by omega)
    rw [if_neg htop, if_pos (Nat.not_le.mp htop), BitVec.toInt_eq_toNat_of_lt (by omega), hnat]
/-- Each word of 8 or 16 bytes is made of the four bytes in its place. -/
theorem toNat_loadWords_long {bs : List Byte} (h : 4 < bs.length) (sgn : Bool) {i : Nat} (hi : i < bs.length / 4) :
    ((loadWords bs sgn).getD i 0).toNat = leNat ((bs.drop (4 * i)).take 4) := by
  have hlt : getLe bs (4 * i) 4 < 2 ^ 32 := Nat.lt_of_lt_of_le (leNat_lt _) (Nat.pow_le_pow_right (by decide) (by simp; omega))
  have hget : (loadWords bs sgn).getD i 0 = BitVec.ofNat 32 (getLe bs (4 * i) 4) := by
    simp [loadWords, Nat.not_le.mpr h, List.getD, hi]
  rw [hget]
  exact Nat.mod_eq_of_lt hlt

/-! Writes of registers that follow one another -/

/-- A write of k registers from d upwards, lane by lane. -/
def wordWrites (d k : Nat) (word : Nat → Nat → Word) : List RegW := (List.range k).map fun i => (d + i, .gen, word i)
theorem mem_run {d k n : Nat} : n ∈ run d k ↔ ∃ i < k, d + i = n := by simp [run]
theorem Cohort.writes_nil (co : Cohort) (ws : List RegW) : co.writes [] ws = co := by
  induction ws with
  | nil => rfl
  | cons w t ih => exact ih
theorem Cohort.reg_wordWrites {co : Cohort} {ls : List Nat} {d k : Nat} {word : Nat → Nat → Word} {n l : Nat} (hl : l < 32) (hp : l ∈ co.present) :
    (co.writes ls (wordWrites d k word)).reg n l = if n ∈ run d k ∧ l ∈ ls then word (n - d) l else co.reg n l := by
  rw [Cohort.reg_writes co ls _ n l hl hp fun w hw => by
    obtain ⟨i, -, rfl⟩ := List.mem_map.mp hw
    exact ⟨fun h => Sh.noConfusion h, fun _ _ h => Sh.noConfusion h⟩]
  cases hfind : (wordWrites d k word).reverse.find? fun w => w.1 == n with
  | some w =>
    obtain ⟨i, hi, rfl⟩ := List.mem_map.mp (List.mem_reverse.mp (List.mem_of_find?_eq_some hfind))
    have hn : d + i = n := by simpa using List.find?_some hfind
    have hrun : n ∈ run d k := mem_run.mpr ⟨i, List.mem_range.mp hi, hn⟩
    have hi' : n - d = i := by omega
    simp [hrun, hi']
  | none =>
    have hrun : n ∉ run d k := fun h => by
      obtain ⟨i, hi, hn⟩ := mem_run.mp h
      have hother := List.find?_eq_none.mp hfind (d + i, .gen, word i) (List.mem_reverse.mpr (List.mem_map.mpr ⟨i, List.mem_range.mpr hi, rfl⟩))
      exact hother (by simpa using hn)
    simp [hrun]
theorem Cohort.stale_wordWrites {co : Cohort} {ls : List Nat} {d k : Nat} {word : Nat → Nat → Word} {n : Nat} :
    (co.writes ls (wordWrites d k word)).stale n = (co.stale n && !(decide (n ∈ run d k) && !ls.isEmpty)) := by
  have hany : (wordWrites d k word).any (fun w => w.1 == n) = decide (n ∈ run d k) := by
    rw [Bool.eq_iff_iff]
    simp [wordWrites, mem_run]
  rw [Cohort.stale_writes, hany]
/-- A plan with its effect put as a write of k registers from d upwards. -/
def Plan.wordWriting (p : Plan) (d k : Nat) (word : Nat → Nat → Word) : Plan :=
  { p with act := fun t x ls => t.onCohort x fun co => co.writes ls (wordWrites d k word) }
/-- An issue that writes k registers from d upwards, each lane under its guard its own words. -/
theorem State.exec_wordWrites {s : State} {x : Ctx} {p : Plan} {d k : Nat} {word : Nat → Nat → Word} (h : s.ready x p.g p.regs p.srcs = true)
    (hb : p.bad s x = none) (hp : p.priv s x = false) (hm : p.misses s x = none) (hc : p.cls = none) (hgo : ∀ l ∈ x.en p.g, p.check s x (x.en p.g) l = .go)
    (hn : p.need = 0) (hw : ∀ s x en l, p.acc s x en l = none)
    (ha : p.act (s.setPcs x x.xs (x.after p.len)) x (x.en p.g) = (s.setPcs x x.xs (x.after p.len)).onCohort x fun co => co.writes (x.en p.g) (wordWrites d k word)) :
    ∃ rs : NMap Reg, s.exec p = (s.firstIssued x).setCohort x.core x.slot { s.passed x p.len with regs := rs } ∧
      (∀ n l, l < 32 → l ∈ x.co.present → ({ x.co with regs := rs } : Cohort).reg n l = if n ∈ run d k ∧ l ∈ x.en p.g then word (n - d) l else x.co.reg n l) ∧
      ∀ n, ({ x.co with regs := rs } : Cohort).stale n = (x.co.stale n && !(decide (n ∈ run d k) && !(x.en p.g).isEmpty)) := by
  have hexec := (s.exec_act_congr x p (p.wordWriting d k word).act h hb hp hm hc hgo hn hw ha).trans
    (s.exec_regs x (p.wordWriting d k word) (fun _ co => co.writes (x.en p.g) (wordWrites d k word)) h hb hp hm (by simp [Plan.wordWriting, hc]) hgo hn hw (fun _ => rfl)
      fun _ co => co.writes_eq ..)
  have hregs : (if (x.en p.g).isEmpty = true then x.co.regs else ((x.moved p.len).writes (x.en p.g) (wordWrites d k word)).regs)
      = ((x.moved p.len).writes (x.en p.g) (wordWrites d k word)).regs := by
    by_cases hen : x.en p.g = []
    · simp only [hen, Cohort.writes_nil]
      rfl
    · simp [hen]
  refine ⟨((x.moved p.len).writes (x.en p.g) (wordWrites d k word)).regs,
    hexec.trans (congrArg (fun rs => (s.firstIssued x).setCohort x.core x.slot { s.passed x p.len with regs := rs }) hregs), fun n l hl hpres => ?_, fun n => ?_⟩
  · exact Cohort.reg_wordWrites hl (by rwa [x.moved_present])
  · exact Cohort.stale_wordWrites

/-! Loads -/

/-- A load by lanes that nothing in flight holds: each takes its words at once. -/
theorem State.spLoads_now {s : State} {x : Ctx} {ls : List Nat} {buf : Buf} {d : Nat} {off : Nat → Nat} {size : Size} {sgn : Bool}
    (h : ∀ l ∈ ls, s.spNow x [l] false false = true) : s.spLoads x ls buf d off size sgn = s.onCohort x fun co => co.writes ls
      (wordWrites d size.regs fun i l => (loadWords (s.spRead x.core (s.groveOf x l) buf (off l) size.bytes) sgn).getD i 0) := by
  have hheld : (ls.filter fun l => !ls.contains l) = [] := List.filter_eq_nil_iff.mpr fun l hl => by simpa using hl
  simp only [State.spLoads, List.filter_eq_self.mpr h, hheld, List.foldl_nil, Cohort.writes, wordWrites, List.foldl_map]
/-- A scratchpad load of any buffer, size and length of form. -/
theorem spLoad_computes {i : Instr} {g : Guard} {len d a : Nat} {o : XOp} {buf : Buf} {imm : Word} {size : Size} {sgn : Bool}
    (hi : ∀ s, exec i s = .next (s.exec { spLoad g o buf d a imm size sgn with len := len })) : Computes i g len (run d size.regs ++ [a]) [a] (run d size.regs)
    (each g fun s x l => s.spAfter (x.strand l) false false = [] ∧ s.spCheck x.core (s.groveOf x l) buf (x.co.sOff a imm l) size.bytes size.bytes true = none)
    (fun s x r l => (loadWords (s.spRead x.core (s.groveOf x l) buf (x.co.sOff a imm l) size.bytes) sgn).getD (r - d) 0) := by
  intro s x hr hok
  have hmoved : s.setPcs x x.xs (x.after len) = s.setCohort x.core x.slot (x.moved len) :=
    s.setPcs_of x x.co _ _ (s.ctx_cohort x ((s.ready_iff x g _ _).mp hr).1).1
  have hnow : ∀ l ∈ x.en g, (s.setPcs x x.xs (x.after len)).spNow x [l] false false = true := fun l hl =>
    State.spNow_one _ _ _ _ _ (by rw [State.spAfter_setPcs]; exact (hok l hl).1)
  have hact : (s.setPcs x x.xs (x.after len)).spLoads x (x.en g) buf d (x.co.sOff a imm) size sgn = (s.setPcs x x.xs (x.after len)).onCohort x fun co => co.writes (x.en g)
      (wordWrites d size.regs fun i l => (loadWords (s.spRead x.core (s.groveOf x l) buf (x.co.sOff a imm l) size.bytes) sgn).getD i 0) := by
    rw [State.spLoads_now hnow, hmoved]
    simp only [State.spRead_setCohort]
    rfl
  obtain ⟨rs, hexec, hreg, hstale⟩ := State.exec_wordWrites (p := { spLoad g o buf d a imm size sgn with len := len }) hr rfl rfl rfl rfl
    (fun l hl => by
      show s.sVerdict x l buf (x.co.sOff a imm l) size.bytes (s.spNow x [l] false false) = .go
      rw [s.spNow_one x l false false (hok l hl).1]
      exact State.sVerdict_go (hok l hl).2) rfl (fun _ _ _ _ => rfl) hact
  exact ⟨rs, (hi s).trans (congrArg _ hexec), hreg, hstale⟩

/-- Settles O24: each load computes its lanes' words, which are the numbers that the bytes hold. -/
theorem scratchpadLoads : Obligations.ScratchpadLoads := by
  refine ⟨fun g d a off imm size sgn => ?_, fun bs => ⟨fun hlen => ?_, fun hlen sgn i hi => toNat_loadWords_long (by omega) sgn hi⟩⟩
  · exact ⟨spLoad_computes (o := .wld) fun _ => rfl, spLoad_computes (o := .ald) fun _ => rfl, spLoad_computes (o := .cld) fun _ => rfl,
      spLoad_computes (o := .ald) (size := .b32) fun _ => rfl⟩
  · simp only [loadWords_short (show bs.length ≤ 4 by omega)]
    exact ⟨toNat_extendLoad_false (by omega), toInt_extendLoad_true (by omega) (by omega)⟩

/-! Stores -/

theorem State.spStore1_cases (s : State) (core grove off n : Nat) (buf : Buf) {bs : List Byte} (h : bs.length = n) : s.spStore1 core grove buf off bs =
    if buf = .a then (s.spWrite core grove buf off bs).fireGran core grove off n else s.spWrite core grove buf off bs := by
  subst h
  cases buf <;> rfl
theorem State.spStores_now {s : State} {x : Ctx} {ls : List Nat} {buf : Buf} {off : Nat → Nat} {bs : Nat → List Byte} (h : s.spNow x ls false true = true) :
    s.spStores x ls buf off bs = ls.foldl (fun s l => s.spStore1 x.core (s.groveOf x l) buf (off l) (bs l)) s := if_pos h
theorem State.spStores_held {s : State} {x : Ctx} {ls : List Nat} {buf : Buf} {off : Nat → Nat} {bs : Nat → List Byte} (h : s.spNow x ls false true = false) :
    s.spStores x ls buf off bs = ls.foldl (fun s l => s.holdSp x l .store buf (off l) (bs l).length (bs l) 0 0 false false) s := if_neg (Bool.eq_false_iff.mp h)
/-- Whether a store goes at once does not depend on where lanes are. -/
theorem State.spNow_setPcs_eq (s : State) (x : Ctx) (ls ms : List Nat) (pc : Pc) (release writes : Bool) : (s.setPcs x ms pc).spNow x ls release writes = s.spNow x ls release writes := by
  simp only [State.spNow, State.spAfter_setPcs]

section
variable {i : Instr} {g : Guard} {len d a : Nat} {o : XOp} {buf : Buf} {imm : Word} {size : Size}
  (hi : ∀ s, exec i s = .next (s.exec { spStore g o buf d a imm size with len := len }))
include hi

/-- A scratchpad store where each lane's place passes its checks, whatever its effect is seen as. -/
theorem spStore_acts {ok : State → Ctx → Prop} {act : State → Ctx → List Nat → State}
    (hcheck : ∀ s x, ok s x → ∀ l ∈ x.en g, s.spCheck x.core (s.groveOf x l) buf (x.co.sOff a imm l) size.bytes size.bytes false = none)
    (hact : ∀ s x, ok s x → (s.setPcs x x.xs (x.after len)).spStores x (x.en g) buf (x.co.sOff a imm) (x.co.dataBytes d size.bytes) = act (s.setPcs x x.xs (x.after len)) x (x.en g)) :
    Acts i g len (run d size.regs ++ [a]) (run d size.regs ++ [a]) ok act :=
  acts_of i { spStore g o buf d a imm size with len := len } ok act hi rfl (fun _ _ _ => ⟨rfl, rfl, rfl⟩) (fun _ _ _ _ _ _ h => nomatch h)
    (fun s x hok l hl => State.sVerdict_go (hcheck s x hok l hl)) hact (.inl fun _ _ _ _ => rfl)
/-- A store that nothing in flight holds: the lanes write in ascending order (R229). -/
theorem spStore_acts_now : Acts i g len (run d size.regs ++ [a]) (run d size.regs ++ [a])
    (fun s x => each g (fun s x l => s.spCheck x.core (s.groveOf x l) buf (x.co.sOff a imm l) size.bytes size.bytes false = none) s x ∧ s.spNow x (x.en g) false true = true)
    fun s x ls => ls.foldl (fun s l =>
      let t := s.spWrite x.core (s.groveOf x l) buf (x.co.sOff a imm l) (x.co.dataBytes d size.bytes l)
      if buf = .a then t.fireGran x.core (s.groveOf x l) (x.co.sOff a imm l) size.bytes else t) s :=
  spStore_acts hi (fun _ _ hok => hok.1) fun s x hok => by
    rw [State.spStores_now ((s.spNow_setPcs_eq x _ _ _ _ _).trans hok.2)]
    exact congrArg (fun f => (x.en g).foldl f _) (funext₂ fun t l => t.spStore1_cases _ _ _ _ _ (x.co.length_dataBytes d size.bytes l))
/-- A store that something in flight holds: each lane's enters the memory pipeline (R153). -/
theorem spStore_acts_held : Acts i g len (run d size.regs ++ [a]) (run d size.regs ++ [a])
    (fun s x => each g (fun s x l => s.spCheck x.core (s.groveOf x l) buf (x.co.sOff a imm l) size.bytes size.bytes false = none) s x ∧ s.spNow x (x.en g) false true = false)
    fun s x ls => ls.foldl (fun s l => s.holdSp x l .store buf (x.co.sOff a imm l) size.bytes (x.co.dataBytes d size.bytes l) 0 0 false false) s :=
  spStore_acts hi (fun _ _ hok => hok.1) fun s x hok => by
    rw [State.spStores_held ((s.spNow_setPcs_eq x _ _ _ _ _).trans hok.2)]
    simp only [Cohort.length_dataBytes]

end

/-- Settles O25: each store writes where nothing holds it, and waits in the memory pipeline where something does. -/
theorem scratchpadStores : Obligations.ScratchpadStores := fun _ _ _ _ _ _ =>
  ⟨⟨spStore_acts_now (o := .wst) fun _ => rfl, spStore_acts_held (o := .wst) fun _ => rfl⟩, ⟨spStore_acts_now (o := .ast) fun _ => rfl, spStore_acts_held (o := .ast) fun _ => rfl⟩,
    ⟨spStore_acts_now (o := .cst) fun _ => rfl, spStore_acts_held (o := .cst) fun _ => rfl⟩,
    ⟨spStore_acts_now (o := .ast) (size := .b32) fun _ => rfl, spStore_acts_held (o := .ast) (size := .b32) fun _ => rfl⟩⟩

end Sys2Proof.Machine
end

section
/-! Waits: where the condition holds the lane goes on, where it does not, or is not known yet, the lane parks (R172, R236 to R240, R248, R252, R253, R463). -/
namespace Sys2Proof.Machine

/-! The condition of each wait, for a strand that is there -/

section
variable {s : State} {core strand : Nat} {t : Strand} (ht : s.strands.find? strand = some t)
include ht

theorem State.evalWait_tags {all : Bool} {m : DWord} {q : Grove} (hq : s.groves.find? t.grove = some q) : s.evalWait core strand (.tags all m) =
    if (if all then q.tags &&& m = m else q.tags &&& m ≠ 0 ∨ m = 0) then .yes 0 [] none else .no := by
  cases all <;> simp [State.evalWait, ht, hq]
theorem State.evalWait_counter {cls : CClass} {n : Nat} : s.evalWait core strand (.counter cls n) =
    if (t.out.countP fun o => o.cls == cls) ≤ n then .yes 0 [] none else .no := by
  have hcount : (t.out.countP fun o => o.cls == cls) = t.count cls := List.countP_eq_length_filter
  simp only [State.evalWait, ht, hcount]
theorem State.evalWait_version {h v : Nat} {tile : Tile} (hhere : s.away t.grove = false) (htile : (s.core core).tile t.grove h = .ok tile) :
    s.evalWait core strand (.version h v) = if (tile.version + 65536 - v) % 65536 < 0x8000 then .yes 0 [] none else .no := by
  simp only [State.evalWait, ht, hhere, htile, Bool.false_eq_true, if_false]
theorem State.evalWait_version_away {h v : Nat} (haway : s.away t.grove = true) : s.evalWait core strand (.version h v) = .no := by
  simp only [State.evalWait, ht, haway, if_true]
theorem State.evalWait_barrier {off : Nat} {b : Bool} (hhere : s.away t.grove = false) (hcheck : s.spCheck core t.grove .a off 16 16 true = none)
    (hgood : barBad (s.spObj core t.grove off) = false) : s.evalWait core strand (.barrier off b) =
    if barPhase (s.spObj core t.grove off) = b then .no else .yes 0 [] none := by
  simp only [State.spObj] at hgood ⊢
  by_cases hphase : barPhase (leNat (s.spRead core t.grove .a off 16)) = b
  · simp [State.evalWait, ht, hhere, hcheck, hgood, hphase]
  · simp [State.evalWait, ht, hhere, hcheck, hgood, hphase]
theorem State.evalWait_futA_empty {off d : Nat} (hhere : s.away t.grove = false) (hcheck : s.spCheck core t.grove .a off 16 16 true = none)
    (hgood : futBad (s.spObj core t.grove off) = false) (hempty : s.spObj core t.grove off % 2 = 0) : s.evalWait core strand (.futA off d) = .no := by
  simp only [State.spObj] at hgood hempty
  simp [State.evalWait, ht, hhere, hcheck, hgood, hempty]

end

theorem State.away_placed {s : State} {grove : Nat} {q : Grove} (hq : s.groves.find? grove = some q) (hp : q.placed = true) : s.away grove = false := by
  simp [State.away, hq, hp]

/-! What the verdict of a wait makes of its condition -/

theorem State.waitVerdict_go {s : State} {x : Ctx} {l : Nat} {w : WaitEv} (hafter : s.waitAfter x.core (x.strand l) w = [])
    (hmet : s.evalWait x.core (x.strand l) w = .yes 0 [] none) : s.waitVerdict x l w = .go := by
  simp [State.waitVerdict, hafter, hmet]
/-- A wait whose condition is not known yet parks, and one whose condition is false (R237). -/
theorem State.waitVerdict_leave {s : State} {x : Ctx} {l : Nat} {w : WaitEv}
    (h : s.waitAfter x.core (x.strand l) w ≠ [] ∨ s.evalWait x.core (x.strand l) w = .no) : s.waitVerdict x l w = .leave (some w) := by
  unfold State.waitVerdict
  split
  · rfl
  · next hafter =>
    have hunmet := h.resolve_left (by simpa using hafter)
    rw [hunmet]

/-- An instruction is a wait: its plan checks nothing but, in each lane, the condition of an event (R237). -/
structure Waits (i : Instr) (p : Plan) (w : Ctx → Nat → WaitEv) : Prop where
  exec : ∀ s, Machine.exec i s = .next (s.exec p)
  need : p.need = 0
  cls : p.cls = none
  acc : ∀ s x en l, p.acc s x en l = none
  upfront : ∀ s x, p.bad s x = none ∧ p.priv s x = false ∧ p.misses s x = none
  check : ∀ s x en l, p.check s x en l = s.waitVerdict x l (w x l)

section
variable {i : Instr} {p : Plan} {w : Ctx → Nat → WaitEv} {ok : State → Ctx → Nat → Prop} (h : Waits i p w)
include h

/-- A wait whose condition is known and holds changes nothing. -/
theorem Waits.acts (hact : ∀ s x ls, p.act s x ls = s)
    (hmet : ∀ s x l, ok s x l → s.waitAfter x.core (x.strand l) (w x l) = [] ∧ s.evalWait x.core (x.strand l) (w x l) = .yes 0 [] none) :
    Acts i p.g p.len p.regs p.srcs (each p.g ok) fun s _ _ => s :=
  acts_of i p _ _ h.exec h.need (fun s x _ => h.upfront s x) (fun _ _ _ _ _ c hc => by simp [h.cls] at hc)
    (fun s x hok l hl => (h.check s x _ l).trans (State.waitVerdict_go (hmet s x l (hok l hl)).1 (hmet s x l (hok l hl)).2)) (fun _ _ _ => hact _ _ _) (.inl h.acc)
/-- A wait whose condition is not known or is false parks on what it waits for. -/
theorem Waits.parks (hunmet : ∀ s x l, ok s x l → s.waitAfter x.core (x.strand l) (w x l) ≠ [] ∨ s.evalWait x.core (x.strand l) (w x l) = .no) :
    Parks i p.g p.len p.regs p.srcs (each p.g ok) fun _ x l => some (w x l) :=
  parks_of i p _ _ h.exec h.need h.cls (fun s x _ => h.upfront s x) (fun s x hok l hl => (h.check s x _ l).trans (State.waitVerdict_leave (hunmet s x l (hok l hl))))
    (.inl h.acc)

end

/-! The instructions that wait -/

theorem waitt_waits (g : Guard) (all : Bool) (a : Src) : Waits (.waitt g all a) (planWaitt g all a) fun x l => .tags all (x.co.mask a l) :=
  ⟨fun _ => rfl, rfl, rfl, fun _ _ _ _ => rfl, fun _ _ => ⟨rfl, rfl, rfl⟩, fun _ _ _ _ => rfl⟩
/-- The mask of WAITT_S as the X-form's, extended by zeros twice. -/
theorem mask_waittS (co : Cohort) (mask : BitVec 12) (l : Nat) : co.mask (.imm (mask.setWidth 32)) l = mask.setWidth 64 :=
  BitVec.eq_of_toNat_eq (by simp only [Cohort.mask, BitVec.toNat_setWidth]; omega)
theorem waittS_waits (g : Guard) (all : Bool) (mask : BitVec 12) : Waits (.waittS g all mask) (planWaittS g all mask) fun _ _ => .tags all (mask.setWidth 64) :=
  ⟨fun _ => rfl, rfl, rfl, fun _ _ _ _ => rfl, fun _ _ => ⟨rfl, rfl, rfl⟩, fun s x _ l => congrArg (fun m => s.waitVerdict x l (.tags all m)) (mask_waittS x.co mask l)⟩
theorem waitc_waits (g : Guard) (cls : CClass) (n : Nat) : Waits (.waitc g cls n) (planWaitc g cls n) fun _ _ => .counter cls n :=
  ⟨fun _ => rfl, rfl, rfl, fun _ _ _ _ => rfl, fun _ _ => ⟨rfl, rfl, rfl⟩, fun _ _ _ _ => rfl⟩
theorem waitcS_waits (g : Guard) (cls : CClass) (n : Nat) : Waits (.waitcS g cls n) (planWaitcS g cls n) fun _ _ => .counter cls n :=
  ⟨fun _ => rfl, rfl, rfl, fun _ _ _ _ => rfl, fun _ _ => ⟨rfl, rfl, rfl⟩, fun _ _ _ _ => rfl⟩
theorem waitv_waits (g : Guard) (a : Nat) (b : Src) :
    Waits (.waitv g a b) (planWaitv g a b) fun x l => .version ((x.co.reg a l).toNat % 64) ((x.co.src b l).toNat % 65536) :=
  ⟨fun _ => rfl, rfl, rfl, fun _ _ _ _ => rfl, fun _ _ => ⟨rfl, rfl, rfl⟩, fun _ _ _ _ => rfl⟩
theorem barwait_waits (g : Guard) (a b : Nat) (imm : Word) :
    Waits (.barwait g a imm b) (planBarwait g a imm b) fun x l => .barrier (x.co.sOff a imm l) ((x.co.reg b l).getLsbD 0) :=
  ⟨fun _ => rfl, rfl, rfl, fun _ _ _ _ => rfl, fun _ _ => ⟨rfl, rfl, rfl⟩, fun _ _ _ _ => rfl⟩
theorem fwait_waits (g : Guard) (d a : Nat) (imm : Word) (sc : Scope) :
    Waits (.fwait g d a imm true sc) (planFwait g d a imm true sc) fun x l => .futA (x.co.sOff a imm l) d :=
  ⟨fun _ => rfl, rfl, rfl, fun _ _ _ _ => rfl, fun _ _ => ⟨rfl, rfl, rfl⟩, fun _ _ _ _ => rfl⟩

/-- Settles O19: the verdict of each wait is to go on, from its condition. -/
theorem satisfiedWaits : Obligations.SatisfiedWaits := by
  intro g all a b ra rb n imm mask cls nothing strand tagged counted
  have htags : ∀ (m : DWord) s x l, tagged m s x l → s.evalWait x.core (x.strand l) (.tags all m) = .yes 0 [] none := by
    rintro m s x l ⟨t, q, ht, hq, hmet⟩
    rw [State.evalWait_tags ht hq, if_pos hmet]
  have hcounter : ∀ s x l, counted s x l → s.evalWait x.core (x.strand l) (.counter cls n) = .yes 0 [] none := by
    rintro s x l ⟨t, ht, hlow⟩
    rw [State.evalWait_counter ht, if_pos hlow]
  refine ⟨(waitt_waits g all a).acts (fun _ _ _ => rfl) fun s x l hok => ⟨rfl, htags _ s x l hok⟩,
    (waittS_waits g all mask).acts (fun _ _ _ => rfl) fun s x l hok => ⟨rfl, htags _ s x l hok⟩,
    (waitc_waits g cls n).acts (fun _ _ _ => rfl) fun s x l hok => ⟨rfl, hcounter s x l hok⟩,
    (waitcS_waits g cls n).acts (fun _ _ _ => rfl) fun s x l hok => ⟨rfl, hcounter s x l hok⟩,
    (waitv_waits g ra b).acts (fun _ _ _ => rfl) ?waitv, (barwait_waits g ra rb imm).acts (fun _ _ _ => rfl) ?barwait⟩
  case waitv =>
    rintro s x l ⟨t, tile, q, ht, hq, hp, htile, hreached⟩
    exact ⟨rfl, (State.evalWait_version ht (State.away_placed hq hp) htile).trans (if_pos hreached)⟩
  case barwait =>
    rintro s x l ⟨t, q, ht, hq, hp, hafter, hcheck, hgood, hphase⟩
    exact ⟨hafter, (State.evalWait_barrier ht (State.away_placed hq hp) hcheck hgood).trans (if_neg hphase)⟩

/-! Cells of global memory, and checkpoints -/

/-- A leaf that passes its checks gives its own translation. -/
theorem State.leafCheck_ok {s : State} {part master va len : Nat} {kind : Acc} {e : TlbEntry} {pa : Nat} {leaf : DWord}
    (h : s.leafCheck part master va len kind e = .ok pa leaf) : pa = s.ownPa (e.pa va) ∧ leaf = e.leaf := by
  unfold State.leafCheck at h
  dsimp only at h
  split at h
  · cases h
  · split at h
    · cases h
    · cases h
      exact ⟨rfl, rfl⟩
/-- A strand that watches a cell of space 0 or 1 parks under the translation that its check found (R252, R253, R393). -/
theorem State.watchVerdict_leave {s : State} {x : Ctx} {va len : Nat} {ev : Nat → Nat → WaitEv} {e : TlbEntry} (hcanonical : canonical va = true)
    (haligned : va % len = 0) (hfound : s.tlbFind x.core x.part va = some e) (hspace : fld e.leaf 51 49 < 2)
    (hleaf : ∃ pa leaf, s.leafCheck x.part x.part va len .read e = .ok pa leaf) :
    s.watchVerdict x va len ev = .leave (some (ev (s.ownPa (e.pa va)) (fld e.leaf 63 58))) := by
  obtain ⟨pa, leaf, hok⟩ := hleaf
  obtain ⟨rfl, rfl⟩ := State.leafCheck_ok hok
  have hnear : decide (2 ≤ fld e.leaf 51 49) = false := decide_eq_false (Nat.not_le.mpr hspace)
  simp [State.watchVerdict, hcanonical, haligned, hfound, hnear, hok]
/-- CKPT in a lane of a twin grove: its strand arrives at the next checkpoint (R463). -/
theorem planCkpt_check_leave {g : Guard} {s : State} {x : Ctx} {ls : List Nat} {l lead : Nat} {trailing : Bool} {pair : Twin}
    (hside : s.sideOf (s.groveOf x l) = some (lead, trailing)) (hpair : s.twins.find? lead = some pair) :
    (planCkpt g).check s x ls l = .leave (some (.ckpt (pair.ckpt + 1))) := by
  simp only [planCkpt, hside, Option.bind_some, hpair]

/-- Settles O20: the verdict of each is to park, on what its instruction names. -/
theorem parkingInstructions : Obligations.ParkingInstructions := by
  intro g all w a b ra rb rc d n imm mask cls cc ord sc strand untagged counted watched at_ slot behind
  have htags : ∀ (m : DWord) s x l, untagged m s x l → s.evalWait x.core (x.strand l) (.tags all m) = .no := by
    rintro m s x l ⟨t, q, ht, hq, hunmet⟩
    rw [State.evalWait_tags ht hq, if_neg hunmet]
  have hcounter : ∀ s x l, counted s x l → s.evalWait x.core (x.strand l) (.counter cls n) = .no := by
    rintro s x l ⟨t, ht, hhigh⟩
    rw [State.evalWait_counter ht, if_neg (Nat.not_le.mpr hhigh)]
  have hwatch : ∀ s x l len (ev : Nat → Nat → WaitEv), watched len s x l →
      s.watchVerdict x (x.co.gAddr ra imm l) len ev = .leave (some (ev (at_ s x l) (slot s x l))) := by
    rintro s x l len ev ⟨hcanonical, haligned, e, leaf, hfound, hspace, pa, hok⟩
    have hparks := State.watchVerdict_leave (ev := ev) hcanonical haligned hfound hspace ⟨pa, leaf, hok⟩
    simpa only [at_, slot, hfound, Option.elim_some] using hparks
  refine ⟨?yield, (waitt_waits g all a).parks fun s x l hok => .inr (htags _ s x l hok), (waittS_waits g all mask).parks fun s x l hok => .inr (htags _ s x l hok),
    (waitc_waits g cls n).parks fun s x l hok => .inr (hcounter s x l hok), (waitcS_waits g cls n).parks fun s x l hok => .inr (hcounter s x l hok),
    (waitv_waits g ra b).parks ?waitv, (barwait_waits g ra rb imm).parks ?barwait, (fwait_waits g d ra imm sc).parks ?fwaitA, ?fwaitG, ?parkw, ?ckpt⟩
  case yield =>
    exact parks_of _ (planYield g) _ _ (fun _ => rfl) rfl rfl (fun _ _ _ => ⟨rfl, rfl, rfl⟩) (fun _ _ _ _ _ => rfl) (.inl fun _ _ _ _ => rfl)
  case waitv =>
    rintro s x l ⟨t, tile, ht, htile, hbefore⟩
    refine .inr ?_
    cases haway : s.away t.grove with
    | true => exact State.evalWait_version_away ht haway
    | false => exact (State.evalWait_version ht haway htile).trans (if_neg (Nat.not_lt.mpr hbefore))
  case barwait =>
    rintro s x l (hbehind | ⟨t, q, ht, hq, hp, hcheck, hgood, hphase⟩)
    · exact .inl hbehind
    · exact .inr ((State.evalWait_barrier ht (State.away_placed hq hp) hcheck hgood).trans (if_pos hphase))
  case fwaitA =>
    rintro s x l (hbehind | ⟨t, q, ht, hq, hp, hcheck, hgood, hempty⟩)
    · exact .inl hbehind
    · exact .inr (State.evalWait_futA_empty ht (State.away_placed hq hp) hcheck hgood hempty)
  case fwaitG =>
    exact parks_of _ (planFwait g d ra imm false sc) _ _ (fun _ => rfl) rfl rfl (fun _ _ _ => ⟨rfl, rfl, rfl⟩)
      (fun s x hok l hl => hwatch s x l 16 (fun pa key => .futG (x.co.gAddr ra imm l) pa key d sc) (hok.2 l hl)) (.inr fun _ _ hok => hok.1)
  case parkw =>
    exact parks_of _ (planParkw g ra imm rb rc cc w ord sc) _ _ (fun _ => rfl) rfl rfl (fun _ _ _ => ⟨rfl, rfl, rfl⟩)
      (fun s x hok l hl => hwatch s x l _ (fun pa key => .watch (x.co.gAddr ra imm l) pa key (if w then x.co.reg64 rb l else (x.co.reg rb l).setWidth 64)
        (if w then x.co.reg64 rc l else (x.co.reg rc l).setWidth 64) cc w ord sc) (hok.2 l hl)) (.inr fun _ _ hok => hok.1)
  case ckpt =>
    refine parks_of _ (planCkpt g) _ _ (fun _ => rfl) rfl rfl (fun _ _ _ => ⟨rfl, rfl, rfl⟩) (fun s x hok l hl => ?_) (.inl fun _ _ _ _ => rfl)
    obtain ⟨lead, trailing, pair, hside, hpair⟩ := hok l hl
    simp only [planCkpt_check_leave hside hpair, hside, hpair, Option.bind_some, Option.map_some]

end Sys2Proof.Machine
end

section
/-! MOVSW, cache and TLB invalidation, CSRW (R271, R272, R275 to R277, R375, R466). -/
namespace Sys2Proof

/-- The entries dropped by a condition on their keys are not found. -/
theorem NMap.find?_filter_key_none {α : Type} (m : NMap α) (P : Nat → Bool) (n : Nat) (h : P n = false) : NMap.find? (m.filter fun x => P x.1) n = none := by
  induction m with
  | nil => rfl
  | cons y t ih =>
    obtain ⟨k, v⟩ := y
    by_cases hP : P k = true
    · have hk : ¬k = n := fun hk => by simp [← hk, hP] at h
      simpa [NMap.find?, hP, hk] using ih
    · simpa [hP] using ih

end Sys2Proof

namespace Sys2Proof.Machine

/-- MOVSW of %fault, in a trap handler (R271, R375). -/
theorem movsw_acts (g : Guard) (a : Nat) : Acts (.movsw g .fault a) g 12 [a] [a] (fun _ x => x.co.kind = .trap) (planMovsw g .fault a).act :=
  acts_of _ (planMovsw g .fault a) _ _ (fun _ => rfl) rfl (fun _ _ hkind => ⟨if_pos (by simp [hkind]), rfl, rfl⟩) (fun _ _ _ _ _ _ h => nomatch h)
    (fun _ _ _ _ _ => rfl) (fun _ _ _ => rfl) (.inl fun _ _ _ _ => rfl)

/-! Invalidations -/

/-- CINV of canonical addresses, whatever the effect of its kind is seen as in each lane. -/
theorem cinv_acts {g : Guard} {k : CinvKind} {a b : Nat} {imm : Word} {act : State → Ctx → List Nat → State} (hact : (planCinv g k a imm b).act = act) :
    Acts (.cinv g k a imm b) g 12 [a, a + 1, b] [a, a + 1, b] (each g fun s x l => s.countable x .st l = true ∧ canonical (x.co.gAddr a imm l) = true) act :=
  acts_of _ (planCinv g k a imm b) _ _ (fun _ => rfl) rfl (fun _ _ _ => ⟨rfl, rfl, rfl⟩)
    (fun s x hok l hl c hc => by cases hc; exact (hok l hl).1) (fun s x hok l hl => if_pos (hok l hl).2) (fun _ _ _ => by rw [hact]) (.inl fun _ _ _ _ => rfl)
/-- A length of 0 as the plan asks for it. -/
theorem State.ite_beq_zero (n : Nat) (s t : State) : (if n == 0 then s else t) = if n = 0 then s else t := by simp only [beq_iff_eq]
theorem State.not_privileged {s : State} {x : Ctx} (h : (s.launches.find? x.co.launch).any (fun la => la.priv) = true) : (!s.privileged x.co.launch) = false := by
  rw [s.privileged_eq_any, h]
  rfl
/-- TLBINV of a launch of a privileged queue, of any kind. -/
theorem tlbinv_acts {g : Guard} {k : TlbKind} {sc : Scope} {ok : State → Ctx → Prop} {act : State → Ctx → List Nat → State} (hact : (planTlbinv g k sc).act = act)
    (hok : ∀ s x, ok s x → (s.launches.find? x.co.launch).any (fun la => la.priv) = true ∧ each g (fun s x l => s.countable x .st l = true) s x) :
    Acts (.tlbinv g k sc) g 12 (planTlbinv g k sc).regs (planTlbinv g k sc).srcs ok act :=
  acts_of _ (planTlbinv g k sc) _ _ (fun _ => rfl) rfl (fun s x h => ⟨rfl, State.not_privileged (hok s x h).1, rfl⟩)
    (fun s x h l hl c hc => by cases hc; exact (hok s x h).2 l hl) (fun _ _ _ _ _ => rfl) (fun _ _ _ => by rw [hact]) (.inl fun _ _ _ _ => rfl)

/-! The CSR -/

theorem State.setCsr_eq (s : State) (n : Nat) (v : DWord) : s.setCsr n v = if n = 0x0400 then { s with twininj := v &&& ~~~0xFC#64 } else s := by
  simp only [State.setCsr, beq_iff_eq]
theorem csrw_acts (g : Guard) (csr a : Nat) (h : csrAssigned csr = true) : Acts (.csrw g csr a) g 12 [a, a + 1] [a, a + 1]
    (fun s x => (s.launches.find? x.co.launch).any (fun la => la.priv) = true) fun s x ls => ls.foldl (fun s l => s.setCsr csr (x.co.reg64 a l)) s :=
  acts_of _ (planCsrw g csr a) _ _ (fun _ => rfl) rfl (fun _ _ hpriv => ⟨if_pos h, State.not_privileged hpriv, rfl⟩) (fun _ _ _ _ _ _ h => nomatch h)
    (fun _ _ _ _ _ => rfl) (fun _ _ _ => rfl) (.inl fun _ _ _ _ => rfl)

/-! What CINV leaves of an L1 data cache (R275) -/

/-- The sectors of a line that the ranges touch are gone, the others stay. -/
theorem State.find?_dropL1d (s : State) (core n : Nat) (rs : List (Nat × Nat)) : ((s.dropL1d core rs).core core).l1d.find? n =
    if touches rs 128 (n / 4) then none else (s.core core).l1d.find? n := by
  rw [State.dropL1d, State.core_modCore]
  cases h : touches rs 128 (n / 4) with
  | true => exact NMap.find?_filter_key_none _ (fun n => !touches rs 128 (n / 4)) n (by rw [h]; rfl)
  | false => exact NMap.find?_filter_key _ (fun n => !touches rs 128 (n / 4)) n (by rw [h]; rfl)
theorem touches_line (rs : List (Nat × Nat)) (n : Nat) : touches rs 128 n = rs.any fun r => decide (n * 128 < r.1 + r.2 ∧ r.1 < n * 128 + 128) := by
  simp only [touches, Nat.succ_mul]

/-- Settles O34: each instruction acts as its plan does; an L1 data cache that CINV has passed keeps the lines that its ranges do not touch. -/
theorem systemInstructions : Obligations.SystemInstructions := by
  refine ⟨fun g a b csr imm sc => ?_, fun s core n rs => ?_⟩
  · intro priv at_ len op inv counts ok
    refine ⟨movsw_acts g a, cinv_acts ?cinvD, cinv_acts ?cinvI, tlbinv_acts ?va fun _ _ h => h, tlbinv_acts ?part fun _ _ h => h, tlbinv_acts ?all fun _ _ h => h, fun h => ?csrw⟩
    case cinvD =>
      funext s x ls
      exact congrArg (fun f => ls.foldl f s) (funext₂ fun t l => State.ite_beq_zero _ _ _)
    case cinvI =>
      funext s x ls
      exact congrArg (fun f => ls.foldl f s) (funext₂ fun t l => State.ite_beq_zero _ _ _)
    case va => rfl
    case part => rfl
    case all => rfl
    case csrw => simpa only [State.setCsr_eq] using csrw_acts g csr a h
  · rw [State.find?_dropL1d, touches_line]

end Sys2Proof.Machine
end

section
/-! The matrix engine's events: what starts, what completes, what has stalled (R290, R292, R296 to R298, R438, R439). -/
namespace Sys2Proof.Machine

/-! Starts -/

/-- A free path takes the operation that is next for it (R298). -/
theorem State.matStart_of {s : State} {core : Nat} {latch : Bool} {o : MatOp} (hfree : (s.core core).atWork latch = none)
    (hnext : (s.core core).matQ.find? (fun p => p.started.isNone && (p.kind == .lw) == latch && (s.core core).matReady p && !(p.after.any s.flying) && !s.matTaken p.grove) = some o) :
    s.matStart core latch = s.modCore core fun k => { k with matQ := k.matQ.map fun p => if p.id = o.id then { p with started := some s.tick } else p } := by
  simp only [State.matStart, hfree, hnext]

/-! Completions -/

/-- What a latch puts into its slot (R291, R292). -/
def MatOp.latched (o : MatOp) (rows : List (List Byte)) (scales : List Byte) : WeightSlot :=
  { grove := o.grove, fmt := getLe o.block 1 1, kpl := getLe o.block 2 1, mid := bitN (getLe o.block 3 1) 0, rows := rows, scales := scales }
/-- A latch whose rows and scales can be read fills its slot (R292). -/
theorem State.latchDone_of_read {s : State} {core : Nat} {o : MatOp} {rows : List (List Byte)} {scales : List Byte} (hread : s.latchRead core o = .ok (rows, scales)) :
    s.latchDone core o = (s.modCore core fun k => { k with weights := k.weights.put o.slot (o.latched rows scales) }).matEnd core o := by
  simp only [State.latchDone, hread, MatOp.latched]
/-- A run with weights of its grove, a format that goes with them and rows that can be read and written is performed (R296). -/
theorem State.runDone_of_rows {s : State} {core : Nat} {o : MatOp} {w : WeightSlot} {t : Tile} (htile : (s.core core).tileOf o = some t)
    (hslot : (s.core core).weights.find? o.slot = some w) (hgrove : w.grove = o.grove) (hcombo : comboOk w.fmt (getLe o.block 1 1) (getLe o.block 2 1 == 1) = true)
    (hrows : (s.runRows core o w t.coff (getLe o.block 4 2) 0).2 = none) :
    s.runDone core o = (s.runRows core o w t.coff (getLe o.block 4 2) 0).1.bumpTile core o := by
  simp only [State.runDone, hslot, Option.bind_some, hgrove, beq_self_eq_true, if_true, htile, hcombo, hrows]
theorem exec_mxlwComplete {s : State} {core : Nat} {o : MatOp} (hwork : (s.core core).atWork true = some o) :
    exec (.mxlwComplete core) s = .next (s.latchDone core o) := by
  simp only [exec, execMxlwComplete, hwork]
theorem exec_mxrunComplete {s : State} {core : Nat} {o : MatOp} (hwork : (s.core core).atWork false = some o) (hkind : o.kind = .run) :
    exec (.mxrunComplete core) s = .next (s.runDone core o) := by
  simp only [exec, execMxrunComplete, hwork, hkind, if_true]
theorem exec_mxzeroComplete {s : State} {core : Nat} {o : MatOp} {t : Tile} (hwork : (s.core core).atWork false = some o) (hkind : o.kind = .zero)
    (htile : (s.core core).tileOf o = some t) : exec (.mxzeroComplete core) s =
      .next (((s.modTile core o fun t => { t with status := 0 }).zeroRows core o t.coff (getLe o.block 4 2) 0).bumpTile core o) := by
  simp only [exec, execMxzeroComplete, hwork, hkind, htile]

/-! Stalls -/

/-- The first stall of a handle in a slice is recorded (R439). -/
theorem exec_matrixStall {s : State} {core id : Nat} {o : MatOp} (hstalled : s.stalled core id 1000000 = some o)
    (hfirst : ∀ p ∈ (s.core core).matQ, p.grove = o.grove → p.handle = o.handle → p.reported = false) :
    exec (.matrixStall core id) s = .next ((s.logRec (s.matRec core o 2 0 (s.stallRec core o 0x3001))).modCore core fun k =>
      { k with matQ := k.matQ.map fun p => if p.id = o.id then { p with reported := true } else p }) := by
  have hnone : ((s.core core).matQ.any fun p => p.grove == o.grove && (p.kind == .lw) == (o.kind == .lw) && p.handle == o.handle && p.reported) = false := by
    refine List.any_eq_false.mpr fun p hp => ?_
    simp only [Bool.and_eq_true, beq_iff_eq, not_and, Bool.not_eq_true]
    exact fun ⟨⟨hgrove, _⟩, hhandle⟩ => hfirst p hp hgrove hhandle
  simp only [exec, execMatrixStall, hstalled, hnone, Bool.false_eq_true, if_false]
/-- A stall of 10 ms in which the grove issued no matrix operation ends the launch (R439). -/
theorem exec_matrixStallTerminate {s : State} {core id : Nat} {o : MatOp} {g : Grove} (hstalled : s.stalled core id 10000000 = some o)
    (hgrove : s.groves.find? o.grove = some g) (hidle : g.matAt + 10000000 ≤ s.tick) :
    exec (.matrixStallTerminate core id) s = .next (s.terminate (s.matLaunch o) (s.matRec core o 2 3 (s.stallRec core o 0x3002))) := by
  have hdue : ((s.groves.find? o.grove).elim false fun g => decide (g.matAt + 10000000 ≤ s.tick)) = true := by
    rwa [hgrove, Option.elim_some, decide_eq_true_eq]
  simp only [exec, execMatrixStallTerminate, hstalled, hdue, if_true]

/-- Settles O44: the start of each path, each completion and each stall by its conditions. -/
theorem matrixEngineEvents : Obligations.MatrixEngineEvents := by
  intro s core o k begun
  refine ⟨fun hfree hnext => ?lwStart, fun hfree hnext => ?runStart, fun rows scales hwork hread => ?lwComplete,
    fun w t hwork htile => ⟨fun hkind hslot hgrove hcombo hrows => ?runComplete, fun hkind => exec_mxzeroComplete hwork hkind htile⟩,
    fun id => ⟨exec_matrixStall, fun g => exec_matrixStallTerminate⟩⟩
  case lwStart => exact congrArg Host.Outcome.next (State.matStart_of hfree (by simpa only [beq_true] using hnext))
  case runStart => exact congrArg Host.Outcome.next (State.matStart_of hfree (by simpa only [beq_false] using hnext))
  case lwComplete => exact (exec_mxlwComplete hwork).trans (congrArg Host.Outcome.next (State.latchDone_of_read hread))
  case runComplete => exact (exec_mxrunComplete hwork hkind).trans (congrArg Host.Outcome.next (State.runDone_of_rows htile hslot hgrove hcombo hrows))

end Sys2Proof.Machine
end

section
/-! Issue to an engine with a queue, whichever it is: with room each lane's operation enters, with the queue full each is refused (R281). -/
namespace Sys2Proof.Machine

/-! Queues do not depend on what a cohort's slot holds -/

/-- What is done to the cohort of a slot changes the slots and the register file of its core alone. -/
theorem State.core_modCohort (s : State) (c sl n : Nat) (f : Cohort → Cohort) :
    ∃ ks rf, (s.modCohort c sl f).core n = { s.core n with slots := ks, regFile := rf } := by
  unfold State.modCohort
  split
  · exact s.core_setCohort c sl n _
  · exact ⟨_, _, rfl⟩
@[simp] theorem State.modCohort_bulkQ (s : State) (c sl n : Nat) (f : Cohort → Cohort) : ((s.modCohort c sl f).core n).bulkQ = (s.core n).bulkQ := by
  obtain ⟨ks, rf, h⟩ := s.core_modCohort c sl n f
  rw [h]
@[simp] theorem State.modCohort_matQ (s : State) (c sl n : Nat) (f : Cohort → Cohort) : ((s.modCohort c sl f).core n).matQ = (s.core n).matQ := by
  obtain ⟨ks, rf, h⟩ := s.core_modCohort c sl n f
  rw [h]
@[simp] theorem State.modCohort_bulkUsed (s : State) (c sl n : Nat) (f : Cohort → Cohort) : (s.modCohort c sl f).bulkUsed n = s.bulkUsed n := by
  simp only [State.bulkUsed, State.modCohort_bulkQ, State.modCohort_link]

/-! Lanes that enter a queue one after another -/

/-- The lanes of an engine instruction in turn: one that finds the queue full has its predicate cleared, another enters and has it set (R281). -/
def State.enterLanes (used : State → Nat → Nat) (cap : Nat) (put : State → Ctx → Nat → State) (pd : Nat) (s : State) (x : Ctx) (ls : List Nat) : State :=
  ls.foldl (fun s l => if decide (cap ≤ used s x.core) then s.setPd x pd l false else (put s x l).setPd x pd l true) s

section
variable {used : State → Nat → Nat} {cap pd : Nat} {put : State → Ctx → Nat → State}
  (hcohort : ∀ s c sl f n, used (State.modCohort s c sl f) n = used s n) (hput : ∀ s x l, used (put s x l) x.core ≤ used s x.core + 1)
include hcohort

/-- With the queue full, no lane enters. -/
theorem State.enterLanes_full {s : State} {x : Ctx} (ls : List Nat) (hfull : cap ≤ used s x.core) :
    s.enterLanes used cap put pd x ls = ls.foldl (fun s l => s.setPd x pd l false) s := by
  induction ls generalizing s with
  | nil => rfl
  | cons l t ih =>
    have hstill : cap ≤ used (s.setPd x pd l false) x.core := hfull.trans_eq (hcohort ..).symm
    rw [State.enterLanes, List.foldl_cons, if_pos (decide_eq_true hfull)]
    exact ih hstill
include hput
/-- With room for all lanes, each of them enters: none takes more than one entry. -/
theorem State.enterLanes_room {s : State} {x : Ctx} (ls : List Nat) (hroom : used s x.core + ls.length ≤ cap) :
    s.enterLanes used cap put pd x ls = ls.foldl (fun s l => (put s x l).setPd x pd l true) s := by
  induction ls generalizing s with
  | nil => rfl
  | cons l t ih =>
    rw [List.length_cons] at hroom
    have hfits : ¬cap ≤ used s x.core := by omega
    have hgrows : used ((put s x l).setPd x pd l true) x.core ≤ used s x.core + 1 := (hcohort ..).trans_le (hput s x l)
    rw [State.enterLanes, List.foldl_cons, decide_eq_false hfits, if_neg Bool.false_ne_true]
    exact ih (by omega)
/-- An instruction that issues to an engine, whose checks pass where `good` holds: with room each lane's operation enters the queue and its predicate becomes true, with the queue full the predicates become false (R281). -/
theorem engine_acts {i : Instr} {g : Guard} {o : XOp} {a : Nat} {more : List Nat} {cls : CClass}
    {verdict : State → Ctx → List Nat → Nat → Verdict} {good : State → Ctx → Nat → Prop}
    (hexec : ∀ s, exec i s =
      .next (s.exec { plain g 12 (opc o) (a :: more) (a :: more) (fun s x ls => s.enterLanes used cap put pd x ls) with cls := some cls, check := verdict }))
    (hgood : ∀ s x en l, good s x l → s.countable x cls l = true ∧ verdict s x en l = .go) :
    Acts i g 12 (a :: more) (a :: more) (fun s x => each g good s x ∧ used s x.core + (x.en g).length ≤ cap)
      (fun s x ls => ls.foldl (fun s l => (put s x l).setPd x pd l true) s) ∧
    Acts i g 12 (a :: more) (a :: more) (fun s x => each g good s x ∧ cap ≤ used s x.core) (fun s x ls => ls.foldl (fun s l => s.setPd x pd l false) s) := by
  have hacts : ∀ (ok : State → Ctx → Prop) (act : State → Ctx → List Nat → State), (∀ s x, ok s x → each g good s x) →
      (∀ s x, ok s x → (s.setPcs x x.xs (x.after 12)).enterLanes used cap put pd x (x.en g) = act (s.setPcs x x.xs (x.after 12)) x (x.en g)) →
      Acts i g 12 (a :: more) (a :: more) ok act := fun ok act hok hact =>
    acts_of i _ ok act hexec rfl (fun _ _ _ => ⟨rfl, rfl, rfl⟩) (fun s x h l hl c hc => by cases hc; exact (hgood s x [] l (hok s x h l hl)).1)
      (fun s x h l hl => (hgood s x _ l (hok s x h l hl)).2) hact (.inl fun _ _ _ _ => rfl)
  refine ⟨hacts _ _ (fun _ _ h => h.1) fun s x h => ?room, hacts _ _ (fun _ _ h => h.1) fun s x h => ?full⟩
  case room => exact State.enterLanes_room hcohort hput _ ((congrArg (· + (x.en g).length) (hcohort ..)).trans_le h.2)
  case full => exact State.enterLanes_full hcohort _ (h.2.trans_eq (hcohort ..).symm)
end

end Sys2Proof.Machine
end

section
/-! The matrix instructions (R45, R281, R290 to R295, R298). -/
namespace Sys2Proof.Machine

/-! The queue of matrix operations -/

/-- An operation joins the end of its core's queue, with its block as the lane holds it at issue (R281). -/
theorem State.putMat_matQ (s : State) (x : Ctx) (l : Nat) (k : MatKind) (a : Nat) : ∃ o, ((s.putMat x l k a).core x.core).matQ = (s.core x.core).matQ ++ [o] ∧
    o.kind = k ∧ o.block = s.block x a 64 l ∧ o.strand = x.strand l ∧ o.grove = s.groveOf x l := by
  refine ⟨_, congrArg Core.matQ (State.core_modCore s.fresh.2 x.core fun c => { c with matQ := c.matQ ++ [_] }), ?_⟩
  exact ⟨rfl, rfl, rfl, rfl⟩
theorem State.putMat_matQ_length (s : State) (x : Ctx) (l : Nat) (k : MatKind) (a : Nat) :
    ((s.putMat x l k a).core x.core).matQ.length = (s.core x.core).matQ.length + 1 := by
  obtain ⟨o, hq, -⟩ := s.putMat_matQ x l k a
  rw [hq, List.length_append, List.length_singleton]
/-- MXLW, MXRUN or MXZERO with a good block: its operations enter with room for all, and none with the queue full. -/
theorem mat_acts {i : Instr} {g : Guard} {o : XOp} {k : MatKind} {pd a : Nat} (hexec : ∀ s, exec i s = .next (s.exec (matPlan g o k pd a))) :
    let good := fun (s : State) (x : Ctx) (l : Nat) => s.countable x .mx l = true ∧
      s.spCheck x.core (s.groveOf x l) .a (x.co.reg a l).toNat 64 64 true = none ∧
      s.matVerdict x.core (s.groveOf x l) k (opc o) (x.co.reg a l).toNat (s.block x a 64 l) = .go
    Acts i g 12 [a] [a] (fun s x => each g good s x ∧ (s.core x.core).matQ.length + (x.en g).length ≤ 16)
      (fun s x ls => ls.foldl (fun s l => (s.putMat x l k a).setPd x pd l true) s) ∧
    Acts i g 12 [a] [a] (fun s x => each g good s x ∧ 16 ≤ (s.core x.core).matQ.length) (fun s x ls => ls.foldl (fun s l => s.setPd x pd l false) s) := by
  intro good
  refine engine_acts (used := fun s c => (s.core c).matQ.length) (put := fun s x l => s.putMat x l k a) (fun s c sl f n => by simp only [State.modCohort_matQ])
    (fun s x l => (s.putMat_matQ_length x l k a).le) (o := o) (cls := .mx) hexec fun s x en l hl => ?_
  obtain ⟨hcount, hread, hblock⟩ := hl
  exact ⟨hcount, by simp only [hread, hblock]⟩

/-! Handles -/

/-- MXHND of a tile whose rows and place are good, around which one allocation lies (R293). -/
theorem mxhnd_acts (g : Guard) (d a b : Nat) : Acts (.mxhnd g d a b) g 12 [d, a, b] [a, b]
    (each g fun s x l => 1 ≤ (x.co.reg b l).toNat ∧ (x.co.reg b l).toNat ≤ 256 ∧ (x.co.reg a l).toNat % 512 = 0 ∧
      s.spCheck x.core (s.groveOf x l) .c (x.co.reg a l).toNat (512 * (x.co.reg b l).toNat) 512 false = none) (planMxhnd g d a b).act := by
  refine acts_of _ (planMxhnd g d a b) _ _ (fun _ => rfl) rfl (fun _ _ _ => ⟨rfl, rfl, rfl⟩) (fun _ _ _ _ _ _ h => nomatch h) (fun s x hok l hl => ?_)
    (fun _ _ _ => rfl) (.inl fun _ _ _ _ => rfl)
  obtain ⟨hlow, hhigh, hplace, halloc⟩ := hok l hl
  have hrows : outOf (x.co.reg b l).toNat 1 256 = false := decide_eq_false (by omega)
  simp only [planMxhnd, hrows, hplace, halloc, bne_self_eq_false, Bool.false_eq_true, if_false]
/-- MXREL of a handle that the lane's grove holds (R293). -/
theorem mxrel_acts (g : Guard) (a : Nat) : Acts (.mxrel g a) g 12 [a] [a]
    (each g fun s x l => ∃ t, (s.core x.core).tile (s.groveOf x l) ((x.co.reg a l).toNat % 64) = .ok t) (planMxrel g a).act :=
  acts_of _ (planMxrel g a) _ _ (fun _ => rfl) rfl (fun _ _ _ => ⟨rfl, rfl, rfl⟩) (fun _ _ _ _ _ _ h => nomatch h)
    (fun _ _ hok l hl => State.handleVerdict_go (hok l hl)) (fun _ _ _ => rfl) (.inl fun _ _ _ _ => rfl)
/-- A core whose 64 handles are taken has none to give (R293). -/
theorem State.newTile_none {s : State} {core grove coff rows : Nat} (htaken : 64 ≤ (s.core core).tiles.length) : s.newTile core grove coff rows = (s, 0xFFFFFFFF) := by
  simp only [State.newTile, Core.freeHandle, if_pos htaken]
/-- The lowest number that the grove does not hold becomes its handle (R293). -/
theorem State.newTile_lowest {s : State} {core grove coff rows n : Nat} (hn : n < 64) (hleft : (s.core core).tiles.length < 64)
    (hfree : ¬∃ t ∈ (s.core core).tiles, t.grove = grove ∧ t.num = n) (hbelow : ∀ m < n, ∃ t ∈ (s.core core).tiles, t.grove = grove ∧ t.num = m) :
    s.newTile core grove coff rows = (s.modCore core fun k => { k with
      tiles := k.tiles ++ [{ grove := grove, num := n, coff := coff, rows := rows, version := 0, status := 0, released := false }] }, n) := by
  have hheld : ∀ m, ((s.core core).tiles.any fun t => t.grove == grove && t.num == m) = true ↔ ∃ t ∈ (s.core core).tiles, t.grove = grove ∧ t.num = m := by
    simp only [List.any_eq_true, Bool.and_eq_true, beq_iff_eq, implies_true]
  have hlowest : (s.core core).freeHandle grove = some n := by
    rw [Core.freeHandle, if_neg (Nat.not_le.mpr hleft), List.find?_range_eq_some]
    refine ⟨?_, List.mem_range.mpr hn, fun m hm => ?_⟩
    · simpa only [Bool.not_eq_true', ← Bool.not_eq_true, hheld] using hfree
    · simpa only [Bool.not_not, hheld] using hbelow m hm
  simp only [State.newTile, hlowest]

/-- Settles O32: what enters the queue, which handles the lanes obtain and which they release. -/
theorem matrixInstructions : Obligations.MatrixInstructions := by
  refine ⟨fun g pd d a b => ⟨mat_acts (o := .mxlw) fun _ => rfl, mat_acts (o := .mxrun) fun _ => rfl, mat_acts (o := .mxzero) fun _ => rfl, mxhnd_acts g d a b, mxrel_acts g a⟩,
    fun s x l a k => ?_, fun s core grove coff rows => ⟨State.newTile_none, fun n hn hleft => State.newTile_lowest hn hleft⟩⟩
  obtain ⟨o, hq, hkind, hblock, hstrand, hgrove⟩ := s.putMat_matQ x l k a
  exact ⟨o, hq, hkind, hblock, hstrand, hgrove, rfl⟩

end Sys2Proof.Machine
end

section
/-! The bulk instructions (R45, R281 to R284, R288). -/
namespace Sys2Proof.Machine

/-! Tags -/

/-- A grove one of whose tags an operation has claimed (R282). -/
def Grove.claimed (q : Grove) (t strand id : Nat) : Grove :=
  let w := q.stat.getD t 0
  let pend := fld w 30 24
  { q with
    tags := if pend == 0 then putFld q.tags t t 0 else q.tags
    stat := q.stat.put t (putFld (if pend == 0 then 0 else w) 30 24 (pend + 1))
    group := q.group.put t ((if pend == 0 then [] else q.group.getD t []) ++ [(strand, id)]) }
theorem State.find?_claimTag {s : State} {grove t strand id : Nat} {q : Grove} (h : s.groves.find? grove = some q) :
    (s.claimTag grove t strand id).groves.find? grove = some (q.claimed t strand id) := by
  refine (NMap.find?_adj s.groves grove grove _).trans ?_
  rw [if_pos rfl, h]
  rfl
/-- A count that fits its field is read back. -/
theorem fld_putFld_pend (w : DWord) {n : Nat} (hn : n < 128) : fld (putFld w 30 24 n) 30 24 = n := by
  simp only [fld, putFld, bitsN, BitVec.toNat_ofNat]
  omega
/-- A bit that is cleared reads 0. -/
theorem getLsbD_putFld_zero (w : DWord) (i : Nat) : (putFld w i i 0).getLsbD i = false := by
  have hsub : w.toNat - w.toNat / 2 ^ i % 2 * 2 ^ i = (w.toNat / 2 ^ i - w.toNat / 2 ^ i % 2) * 2 ^ i + w.toNat % 2 ^ i := by
    have hdiv := Nat.div_add_mod' w.toNat (2 ^ i)
    have hle : w.toNat / 2 ^ i % 2 * 2 ^ i ≤ w.toNat / 2 ^ i * 2 ^ i := Nat.mul_le_mul_right _ (Nat.mod_le _ _)
    rw [Nat.sub_mul]
    omega
  have hbit : (w.toNat - w.toNat / 2 ^ i % 2 * 2 ^ i).testBit i = false := by
    rw [Nat.testBit_eq_decide_div_mod_eq, hsub, Nat.mul_comm, Nat.mul_add_div (Nat.two_pow_pos i), Nat.div_eq_of_lt (Nat.mod_lt _ (Nat.two_pow_pos i))]
    exact decide_eq_false (by omega)
  simp only [putFld, fld, bitsN, Nat.add_sub_cancel_left, Nat.pow_one, Nat.zero_mod, Nat.zero_mul, Nat.add_zero, BitVec.getLsbD_ofNat, hbit, Bool.and_false]
section
variable {q : Grove} {t strand id : Nat}
theorem Grove.claimed_pend (h : fld (q.stat.getD t 0) 30 24 < 127) : fld ((q.claimed t strand id).stat.getD t 0) 30 24 = fld (q.stat.getD t 0) 30 24 + 1 := by
  rw [Grove.claimed, NMap.getD_put_same, fld_putFld_pend _ (by omega)]
/-- The first operation of a group clears the tag (R282). -/
theorem Grove.claimed_tags_first (h : fld (q.stat.getD t 0) 30 24 = 0) : (q.claimed t strand id).tags.getLsbD t = false := by
  simp only [Grove.claimed, h, beq_self_eq_true, if_true]
  exact getLsbD_putFld_zero q.tags t
/-- It clears the tag's error bits too (R282, R283). -/
theorem Grove.claimed_errors_first (h : fld (q.stat.getD t 0) 30 24 = 0) : fld ((q.claimed t strand id).stat.getD t 0) 23 0 = 0 := by
  rw [Grove.claimed, NMap.getD_put_same, h, if_pos (beq_self_eq_true 0)]
  decide
theorem Grove.claimed_tags_later (h : fld (q.stat.getD t 0) 30 24 ≠ 0) : (q.claimed t strand id).tags = q.tags := by
  simp only [Grove.claimed, beq_iff_eq, if_neg h]
end

/-! The queue of bulk operations -/

theorem Strand.count_issue (y : Strand) (id : Nat) (cls : CClass) : (y.issue id cls).count cls = y.count cls + 1 := by
  simp [Strand.count, Strand.issue]
section
variable (s : State) (x : Ctx) (l : Nat) (k : BulkKind) (a tag : Nat) (ctx : DWord) (sc : Scope)

/-- An operation joins the end of its core's queue, with its descriptor as the lane holds it at issue (R281). -/
theorem State.putBulk_bulkQ : ∃ o, ((s.putBulk x l k a tag ctx sc).core x.core).bulkQ = (s.core x.core).bulkQ ++ [o] ∧ o.kind = k ∧ o.tag = tag ∧
    o.desc = s.block x a 32 l ∧ o.ctx = ctx ∧ o.sc = sc ∧ o.strand = x.strand l ∧ o.grove = s.groveOf x l := by
  unfold State.putBulk
  dsimp only
  split
  all_goals
    refine ⟨_, congrArg Core.bulkQ (State.core_modCore s.fresh.2 x.core fun c => { c with bulkQ := c.bulkQ ++ [_] }), ?_⟩
    exact ⟨rfl, rfl, rfl, rfl, rfl, rfl, rfl⟩
/-- It claims its tag (R282). -/
theorem State.putBulk_groves : (s.putBulk x l k a tag ctx sc).groves = (s.claimTag (s.groveOf x l) tag (x.strand l) s.seq).groves := by
  unfold State.putBulk
  dsimp only
  split <;> rfl
@[simp] theorem State.putBulk_link : (s.putBulk x l k a tag ctx sc).link = s.link := by
  unfold State.putBulk
  dsimp only
  split <;> rfl
@[simp] theorem State.putBulk_mem : (s.putBulk x l k a tag ctx sc).mem = s.mem := by
  unfold State.putBulk
  dsimp only
  split <;> rfl
/-- It counts in bk; a BREAD also numbers the strand's (R45, R284). -/
theorem State.putBulk_strands {y : Strand} (hy : s.strands.find? (x.strand l) = some y) :
    ∃ y', (s.putBulk x l k a tag ctx sc).strands.find? (x.strand l) = some y' ∧ y'.count .bk = y.count .bk + 1 := by
  have hcounted : (s.strands.adj (x.strand l) fun t => t.issue s.seq .bk).find? (x.strand l) = some (y.issue s.seq .bk) := by
    rw [NMap.find?_adj, if_pos rfl, hy, Option.map_some]
  unfold State.putBulk
  dsimp only
  split
  · refine ⟨{ y.issue s.seq .bk with nBread := y.nBread + 1 }, (NMap.find?_adj _ _ _ _).trans ?_, y.count_issue s.seq .bk⟩
    rw [if_pos rfl]
    exact congrArg (Option.map fun z : Strand => { z with nBread := z.nBread + 1 }) hcounted
  · exact ⟨_, hcounted, y.count_issue s.seq .bk⟩
theorem State.putBulk_bulkUsed : (s.putBulk x l k a tag ctx sc).bulkUsed x.core = s.bulkUsed x.core + 1 := by
  obtain ⟨o, hq, -⟩ := s.putBulk_bulkQ x l k a tag ctx sc
  simp only [State.bulkUsed, hq, State.putBulk_link, List.length_append, List.length_singleton]
  omega
end
/-- A bulk instruction with a good descriptor: its operations enter with room for all, and none with the queue full. -/
theorem bulk_acts {i : Instr} {g : Guard} (o : XOp) (k : BulkKind) {pd a tag : Nat} {more : List Nat} {sc : Scope} (ctx : Cohort → Nat → DWord)
    (hexec : ∀ s, exec i s = .next (s.exec (bulkPlan g o k pd a more tag sc ctx))) :
    let good := fun (s : State) (x : Ctx) (l : Nat) => s.countable x .bk l = true ∧
      s.spCheck x.core (s.groveOf x l) .a (x.co.reg a l).toNat 32 32 true = none ∧ k.bad (s.block x a 32 l) = none
    Acts i g 12 (a :: more) (a :: more) (fun s x => each g good s x ∧ s.bulkUsed x.core + (x.en g).length ≤ 64)
      (fun s x ls => ls.foldl (fun s l => (s.putBulk x l k a tag (ctx x.co l) sc).setPd x pd l true) s) ∧
    Acts i g 12 (a :: more) (a :: more) (fun s x => each g good s x ∧ 64 ≤ s.bulkUsed x.core) (fun s x ls => ls.foldl (fun s l => s.setPd x pd l false) s) := by
  intro good
  refine engine_acts (used := State.bulkUsed) (put := fun s x l => s.putBulk x l k a tag (ctx x.co l) sc) (fun s c sl f n => s.modCohort_bulkUsed c sl n f)
    (fun s x l => (s.putBulk_bulkUsed x l k a tag _ sc).le) (o := o) (cls := .bk) hexec fun s x en l hl => ?_
  obtain ⟨hcount, hread, hdesc⟩ := hl
  exact ⟨hcount, by simp only [hread, hdesc, refuse]⟩

/-- Settles O31: what enters the queue, and what the operation that enters does to its tag and to bk. -/
theorem bulkInstructions : Obligations.BulkInstructions := by
  refine ⟨fun g pd a b tag sc => ⟨bulk_acts .bread .read (fun co l => co.reg64 b l) fun _ => rfl, bulk_acts .bwrite .write (fun _ _ => 0) fun _ => rfl,
    bulk_acts .bcopy .copy (fun _ _ => 0) fun _ => rfl, bulk_acts .bfill .fill (fun _ _ => 0) fun _ => rfl, bulk_acts .bdigest .digest (fun _ _ => 0) fun _ => rfl⟩, fun s x l a tag k ctx sc q y _ hgrove hstrand => ?_⟩
  obtain ⟨o, hq, hkind, htag, hdesc, hctx, hsc, hst, hgr⟩ := s.putBulk_bulkQ x l k a tag ctx sc
  obtain ⟨y', hy', hbk⟩ := s.putBulk_strands x l k a tag ctx sc hstrand
  have hclaimed := (congrArg (fun m : NMap Grove => m.find? (s.groveOf x l)) (s.putBulk_groves x l k a tag ctx sc)).trans (State.find?_claimTag hgrove)
  exact ⟨o, _, y', hq, hkind, htag, hdesc, hctx, hsc, hst, hgr, hclaimed, Grove.claimed_pend, fun h => ⟨Grove.claimed_tags_first h, Grove.claimed_errors_first h⟩,
    Grove.claimed_tags_later, hy', hbk, s.putBulk_mem x l k a tag ctx sc⟩

end Sys2Proof.Machine
end

section
/-! COLL (R281, R300, R301, R336, R447): what of its work leaves the entries of the bulk queue in use. -/
namespace Sys2Proof.Machine

/-! Wakes take no entry of the bulk queue -/

theorem State.bulkUsed_congr {s t : State} {n : Nat} (hcores : t.cores = s.cores) (hlink : t.link = s.link) : t.bulkUsed n = s.bulkUsed n := by
  simp only [State.bulkUsed, State.core, hcores, hlink]
theorem State.modCore_bulkUsed (s : State) (c n : Nat) (f : Core → Core) (hf : ∀ k, (f k).bulkQ = k.bulkQ) : (s.modCore c f).bulkUsed n = s.bulkUsed n := by
  have hq : ((s.modCore c f).core n).bulkQ = (s.core n).bulkQ := by
    by_cases h : n = c
    · rw [h, State.core_modCore, hf]
    · rw [s.core_modCore_other c n f h]
  simp only [State.bulkUsed, hq, State.modCore_link]
@[simp] theorem State.promote_bulkUsed (s : State) (core n : Nat) : (s.promote core).bulkUsed n = s.bulkUsed n := by
  unfold State.promote
  dsimp only
  split
  · rfl
  · split
    · rfl
    · split
      · rfl
      · exact s.modCore_bulkUsed _ n _ fun _ => rfl
@[simp] theorem State.forward_bulkUsed (s : State) (strand : Nat) (bs : List Byte) (n : Nat) : (s.forward strand bs).bulkUsed n = s.bulkUsed n := by
  unfold State.forward
  split
  · rfl
  · split
    · rfl
    · dsimp only
      split <;> rfl
@[simp] theorem State.forwardCell_bulkUsed (s : State) (r : Record) (w : WaitEv) (n : Nat) : (s.forwardCell r w).bulkUsed n = s.bulkUsed n := by
  unfold State.forwardCell
  dsimp only
  split <;> simp
@[simp] theorem State.dropSectors_bulkUsed (s : State) (core pa len n : Nat) : (s.dropSectors core pa len).bulkUsed n = s.bulkUsed n := by
  unfold State.dropSectors
  split
  · exact s.modCore_bulkUsed _ n _ fun _ => rfl
  · rfl
@[simp] theorem State.acquire_bulkUsed (s : State) (core n : Nat) (sc : Scope) : (s.acquire core sc).bulkUsed n = s.bulkUsed n := by
  unfold State.acquire
  split
  · rfl
  · exact s.modCore_bulkUsed _ n _ fun _ => rfl
@[simp] theorem State.modRecord_bulkUsed (s : State) (core rid n : Nat) (f : Record → Record) :
    (s.modCore core fun k => { k with records := k.records.adj rid f }).bulkUsed n = s.bulkUsed n := s.modCore_bulkUsed _ n _ fun _ => rfl
@[simp] theorem State.wakeAs_bulkUsed (s : State) (core rid : Nat) (r : Record) (w : WaitEv) (res : Woken) (n : Nat) :
    (s.wakeAs core rid r w res).bulkUsed n = s.bulkUsed n := by
  cases res with
  | no => rfl
  | err f => simp [State.wakeAs]
  | yes dst ws acq =>
    simp only [State.wakeAs, State.promote_bulkUsed]
    cases acq <;> dsimp only <;> split <;> simp
@[simp] theorem State.wakeOne_bulkUsed (s : State) (core rid n : Nat) : (s.wakeOne core rid).bulkUsed n = s.bulkUsed n := by
  unfold State.wakeOne
  split
  · rfl
  · split
    · rfl
    · split
      · rfl
      · exact s.wakeAs_bulkUsed ..
@[simp] theorem State.asSet_bulkUsed (s : State) (core : Nat) (rids : List Nat) (n : Nat) : (s.asSet core rids).bulkUsed n = s.bulkUsed n := by
  unfold State.asSet
  dsimp only
  split
  · rfl
  · exact s.modCore_bulkUsed core n _ fun _ => rfl
@[simp] theorem State.fire_bulkUsed (s : State) (core : Nat) (sel : Record → WaitEv → Bool) (n : Nat) : (s.fire core sel).bulkUsed n = s.bulkUsed n :=
  (State.asSet_bulkUsed _ core _ n).trans (foldl_keeps (fun s => s.bulkUsed n) _ (fun s i => s.wakeOne_bulkUsed core i n) _ s)
@[simp] theorem State.unpend_bulkUsed (s : State) (strand id n : Nat) : (s.unpend strand id).bulkUsed n = s.bulkUsed n := by
  unfold State.unpend
  split
  · rfl
  · exact s.modCore_bulkUsed _ n _ fun _ => rfl
@[simp] theorem State.completeAll_bulkUsed (s : State) (core : Nat) (ops : List (Nat × Nat)) (n : Nat) : (s.completeAll core ops).bulkUsed n = s.bulkUsed n :=
  foldl_keeps (fun s => s.bulkUsed n) _ (fun s o => by
    rw [State.fireCounter, State.fire_bulkUsed, State.unpend_bulkUsed]
    rfl) _ s

/-! The fault log leaves the cores -/

@[simp] theorem State.unseal_cores (s : State) (leaf : DWord) (pa len : Nat) : (s.unseal leaf pa len).cores = s.cores := by
  unfold State.unseal
  split
  · exact foldl_keeps State.cores _ (fun s n => by dsimp only; split <;> rfl) _ s
  · rfl
@[simp] theorem State.markKey_cores (s : State) (leaf : DWord) (pa len : Nat) : (s.markKey leaf pa len).cores = s.cores := by
  unfold State.markKey
  dsimp only
  split <;> rfl
@[simp] theorem State.msix_cores (s : State) (p v : Nat) : (s.msix p v).cores = s.cores := by
  unfold State.msix
  split <;> rfl
@[simp] theorem State.log_cores (s : State) (p : Nat) (r : FaultRec) : (s.log p r).cores = s.cores := by
  unfold State.log State.logAt
  extract_lets lines q n t
  split
  · split
    · rfl
    · rw [State.msix_cores, State.modPart_cores, State.markKey_cores, State.writeMem_cores, State.unseal_cores]
  · rfl

/-! The setting of a tag -/

/-- The entries of a group that are freed are entries no longer (R281). -/
theorem State.freeEntries_bulkUsed (s : State) (core grove : Nat) (ops : List (Nat × Nat)) : (s.freeEntries core grove ops).bulkUsed core ≤ s.bulkUsed core := by
  let ended := fun (i : Nat) (done : Bool) => done && ops.any fun o => o.2 == i
  have hq : ((s.freeEntries core grove ops).core core).bulkQ = (s.core core).bulkQ.filter fun o => !ended o.id o.done :=
    congrArg Core.bulkQ (s.core_modCore core fun k => { k with bulkQ := k.bulkQ.filter fun o => !ended o.id o.done })
  have hcolls : (s.freeEntries core grove ops).link.colls = s.link.colls.filter fun o => !ended o.id o.done := rfl
  rw [State.bulkUsed, State.bulkUsed, hq, hcolls]
  exact Nat.add_le_add (List.length_filter_le _ _) ((List.filter_sublist.filter _).length_le)
theorem State.finishTag_bulkUsed (s : State) (core grove t err : Nat) : (s.finishTag core grove t err).bulkUsed core ≤ s.bulkUsed core := by
  unfold State.finishTag
  split
  · exact le_rfl
  · dsimp only
    split
    · rw [State.fireTags, State.fire_bulkUsed, State.completeAll_bulkUsed]
      exact State.freeEntries_bulkUsed _ core grove _
    · exact le_rfl

/-! Collectives that enter -/

/-- A collective joins those of the link engine, with its block as the lane holds it at issue and the next ordinal of its communicator. That of a fenced communicator finishes at once; another takes its ordinal (R281, R301, R336, R447). -/
theorem State.putColl_eq (s : State) (x : Ctx) (l a tag : Nat) :
    let comm := getLe (s.block x a 64 l) 4 4
    ∃ (o : CollOp) (t : State) (r : FaultRec), (o.core = x.core ∧ o.comm = comm ∧ o.block = s.block x a 64 l ∧ o.tag = tag ∧ o.strand = x.strand l ∧ o.ordinal = s.link.commCount.getD comm 0) ∧
      (t.cores = s.cores ∧ t.link = { s.link with colls := s.link.colls ++ [o] } ∧ t.mem = s.mem) ∧
      s.putColl x l a tag = if s.link.fenced.contains comm then (t.log x.part r).finishTag x.core (s.groveOf x l) tag 0x80
        else { t with link := { t.link with commCount := t.link.commCount.put comm (s.link.commCount.getD comm 0 + 1) } } := by
  intro comm
  unfold State.putColl
  dsimp -zeta only [State.fresh]
  extract_lets _ strand block comm' ordinal grove op counted _ entered
  exact ⟨op, entered, _, ⟨rfl, rfl, rfl, rfl, rfl, rfl⟩, ⟨rfl, rfl, rfl⟩, rfl⟩
/-- A collective takes one entry at most of its core's queue. -/
theorem State.putColl_bulkUsed (s : State) (x : Ctx) (l a tag : Nat) : (s.putColl x l a tag).bulkUsed x.core ≤ s.bulkUsed x.core + 1 := by
  obtain ⟨o, t, r, ⟨hcore, -⟩, ⟨hcores, hlink, -⟩, hput⟩ := s.putColl_eq x l a tag
  have hone : t.bulkUsed x.core = s.bulkUsed x.core + 1 := by
    have hmine : [o].filter (fun c => c.core == x.core) = [o] := List.filter_eq_self.mpr (by simp [hcore])
    simp only [State.bulkUsed, State.core, hcores, hlink, List.filter_append, hmine, List.length_append, List.length_singleton, Nat.add_assoc]
  rw [hput]
  split
  · exact (State.finishTag_bulkUsed _ _ _ _ _).trans ((State.bulkUsed_congr (t.log_cores _ r) (t.log_link _ r)).trans hone).le
  · exact hone.le
/-- A collective of a communicator that is not fenced takes its next ordinal (R301, R336). -/
theorem State.putColl_open {s : State} {x : Ctx} {l a tag : Nat} (hopen : s.link.fenced.contains (getLe (s.block x a 64 l) 4 4) = false) :
    let comm := getLe (s.block x a 64 l) 4 4
    let t := s.putColl x l a tag
    ∃ o, t.link.colls = s.link.colls ++ [o] ∧ o.comm = comm ∧ o.block = s.block x a 64 l ∧ o.tag = tag ∧ o.strand = x.strand l ∧
      o.ordinal = s.link.commCount.getD comm 0 ∧ t.link.commCount.getD comm 0 = s.link.commCount.getD comm 0 + 1 ∧ t.mem = s.mem := by
  intro comm t
  obtain ⟨o, u, r, ⟨-, hcomm, hblock, htag, hstrand, hordinal⟩, ⟨-, hlink, hmem⟩, hput⟩ := s.putColl_eq x l a tag
  rw [hopen, if_neg Bool.false_ne_true] at hput
  have ht : t.link = { u.link with commCount := u.link.commCount.put comm (s.link.commCount.getD comm 0 + 1) } := congrArg State.link hput
  exact ⟨o, by rw [ht, hlink], hcomm, hblock, htag, hstrand, hordinal, by rw [ht, NMap.getD_put_same], (congrArg State.mem hput).trans hmem⟩

/-- Settles O33: COLL with room and with the queue full, and the ordinal of what enters. -/
theorem collectiveInstruction : Obligations.CollectiveInstruction := by
  refine ⟨fun g pd a tag => ?_, fun s x l a tag => State.putColl_open⟩
  intro good
  refine engine_acts (used := State.bulkUsed) (put := fun s x l => s.putColl x l a tag) (fun s c sl f n => s.modCohort_bulkUsed c sl n f)
    (fun s x l => s.putColl_bulkUsed x l a tag) (o := .coll) (cls := .cl) (fun _ => rfl) fun s x en l hl => ?_
  obtain ⟨hcount, hsingle, hread, hblock⟩ := hl
  exact ⟨hcount, by simp [enginePlan, hsingle, hread, hblock, refuse]⟩

end Sys2Proof.Machine
end
section
/-! What the background scrub meets, an equation per source, and what counting and recording it leaves (R418 to R421, R431, R432). -/
namespace Sys2Proof.Machine

/-! Lines that are poisoned, where a record is written -/

@[simp] theorem State.unseal_poisoned (s : State) (leaf : DWord) (pa len : Nat) : (s.unseal leaf pa len).poisoned = s.poisoned := by
  unfold State.unseal
  split
  · exact foldl_keeps State.poisoned _ (fun s n => by dsimp only; split <;> rfl) _ s
  · rfl
@[simp] theorem State.markKey_poisoned (s : State) (leaf : DWord) (pa len : Nat) : (s.markKey leaf pa len).poisoned = s.poisoned := by
  unfold State.markKey
  dsimp only
  split <;> rfl
@[simp] theorem State.msix_poisoned (s : State) (p v : Nat) : (s.msix p v).poisoned = s.poisoned := by
  unfold State.msix
  split <;> rfl
@[simp] theorem State.log_poisoned (s : State) (p : Nat) (r : FaultRec) : (s.log p r).poisoned = s.poisoned := by
  unfold State.log State.logAt
  extract_lets lines q n t
  split
  · split
    · rfl
    · rw [State.msix_poisoned, State.modPart_poisoned, State.markKey_poisoned, State.writeMem_poisoned, State.unseal_poisoned]
  · rfl
@[simp] theorem State.logRec_poisoned (s : State) (r : FaultRec) : (s.logRec r).poisoned = s.poisoned := s.log_poisoned r.part r
@[simp] theorem State.logRec_cores (s : State) (r : FaultRec) : (s.logRec r).cores = s.cores := s.log_cores r.part r

/-! Corrected errors -/

@[simp] theorem State.corrected_poisoned (s : State) (n src id addr : Nat) : (s.corrected n src id addr).poisoned = s.poisoned := by
  unfold State.corrected
  extract_lets t unit since last
  split
  · rw [State.logRec_poisoned]
    rfl
  · rfl
@[simp] theorem State.corrected_cores (s : State) (n src id addr : Nat) : (s.corrected n src id addr).cores = s.cores := by
  unfold State.corrected
  extract_lets t unit since last
  split
  · rw [State.logRec_cores]
    rfl
  · rfl
/-- A local address is in one of 16 stacks. -/
theorem State.stackOf_lt (s : State) (pa : Nat) : s.stackOf pa < 16 := by
  have hlocal : localOf pa < 2 ^ 41 := Nat.mod_lt _ (by decide)
  unfold State.stackOf
  split <;> omega
/-- A local address is in one of 1,024 slices. -/
theorem State.sliceOf_lt (s : State) (pa : Nat) : s.sliceOf pa < 1024 := by
  have hstack := s.stackOf_lt pa
  unfold State.sliceOf
  omega

/-! Lines of memory -/

/-- A poisoned line is not poisoned again. -/
theorem State.poisonLine_again {s : State} {line : Nat} (h : s.poisoned.contains line = true) (src why : Nat) : s.poisonLine src line why = s := if_pos h
theorem State.poisonLine_poisoned (s : State) (src line why : Nat) :
    (s.poisonLine src line why).poisoned = if s.poisoned.contains line then s.poisoned else s.poisoned ++ [line] := by
  unfold State.poisonLine
  split
  · rfl
  · dsimp only
    rw [State.logRec_poisoned]
    rfl
theorem State.poisonLine_same (s : State) (src line why : Nat) : (s.poisonLine src line why).poisoned.contains line = true := by
  rw [State.poisonLine_poisoned]
  split
  · assumption
  · simp
theorem State.poisonLine_other (s : State) (src why : Nat) {line n : Nat} (h : n ≠ line) :
    (s.poisonLine src line why).poisoned.contains n = s.poisoned.contains n := by
  rw [State.poisonLine_poisoned]
  split
  · rfl
  · simp [h]
theorem exec_patrolScrub_line {s : State} {src : Nat} (h : src < 2) (loc line : Nat) :
    exec (.patrolScrub src true loc line) s = .next (s.poisonLine src line (if loc = 0 then 1 else 2)) ∧
    exec (.patrolScrub src false loc line) s = .next (s.corrected (s.lineUnit src line).1 src (s.lineUnit src line).2 (s.ownAt (64 * line))) := by
  obtain rfl | rfl : src = 0 ∨ src = 1 := by omega
  · exact ⟨rfl, rfl⟩
  · exact ⟨rfl, rfl⟩

/-! Granules -/

theorem State.poisonGranule_again {s : State} {core n : Nat} {b : Buf} (h : ((s.core core).gran b n).poison = true) (why : Nat) :
    s.poisonGranule core b n why = s := if_pos h
/-- A granule in which an error is met keeps all but its mark. -/
theorem State.gran_poisonGranule (s : State) (core : Nat) (b : Buf) (n why : Nat) :
    ((s.poisonGranule core b n why).core core).gran b n = { (s.core core).gran b n with poison := true } := by
  by_cases h : ((s.core core).gran b n).poison = true
  · rw [s.poisonGranule_again h, ← h]
  · have hcores : (s.poisonGranule core b n why).cores = (s.modCore core fun k => k.setGran b n { k.gran b n with poison := true }).cores := by
      rw [State.poisonGranule, if_neg h, State.logRec_cores]
      rfl
    rw [State.core, hcores, ← State.core, State.core_modCore, Core.gran_setGran_same]

/-! Register words -/

/-- A lane whose register's word has an uncorrectable error raises a fault where the register is read (R420). -/
theorem State.lane_poisonWord {s : State} {core sl lane : Nat} {co : Cohort} {y : Lane} (hco : s.cohort? core sl = some co) (hy : co.lanes.find? lane = some y) (reg : Nat) :
    ∃ co' y', (s.poisonWord core sl lane reg false).cohort? core sl = some co' ∧ co'.lanes.find? lane = some y' ∧ y'.poison.find? reg = some (wordFault reg) := by
  let bad : Nat → Lane → Lane := fun l z => if l = lane then { z with poison := z.poison.put reg (wordFault reg) } else z
  let hit : Cohort := { co with lanes := co.lanes.map fun x => (x.1, bad x.1 x.2) }
  have hlanes : hit.lanes.find? lane = some (bad lane y) := by
    rw [find?_mapLanes, hy]
    rfl
  have hsome : hit.lanes ≠ [] := fun h => by simp [h] at hlanes
  refine ⟨hit, bad lane y, ?_, hlanes, by simp [bad]⟩
  have hword : s.poisonWord core sl lane reg false = (s.setCohort core sl hit).countErr (24 + dieOf core) 47 32 := by
    rw [State.poisonWord, State.modCohort_of _ _ _ _ _ hco]
    simp [hit, bad]
  rw [hword]
  exact s.cohort?_setCohort core sl hit hsome
@[simp] theorem State.poisonWord_mem (s : State) (core sl lane reg : Nat) (shape : Bool) : (s.poisonWord core sl lane reg shape).mem = s.mem :=
  s.modCohort_mem core sl _
theorem exec_patrolScrub_word {loc line : Nat} (s : State) (h : line < 2 ^ 30) :
    exec (.patrolScrub 5 true loc line) s = .next (s.poisonWord loc (line / 2 ^ 14) (line / 2 ^ 9 % 32) (line % 2 ^ 9) false) := by
  have hslot : line / 2 ^ 14 % 2 ^ 16 = line / 2 ^ 14 := by omega
  have hword : decide (2 ^ 30 ≤ line) = false := decide_eq_false (by omega)
  have hexec : exec (.patrolScrub 5 true loc line) s = .next (s.poisonWord loc (line / 2 ^ 14 % 2 ^ 16) (line / 2 ^ 9 % 32) (line % 2 ^ 9) (decide (2 ^ 30 ≤ line))) := rfl
  rw [hexec, hslot, hword]

/-! Records -/

theorem exec_patrolScrub_record {s : State} {core rid : Nat} {r : Record} (h : (s.core core).records.find? rid = some r) (ue : Bool) :
    exec (.patrolScrub 6 ue core rid) s = .next (s.recordError core rid r ue) := by
  have hexec : exec (.patrolScrub 6 ue core rid) s = .next (((s.core core).records.find? rid).elim s fun r => s.recordError core rid r ue) := rfl
  rw [hexec, h, Option.elim_some]
/-- An error in a record of the record store is the core's (R421). -/
theorem State.recordError_held {s : State} {core rid : Nat} {r : Record} (h : r.spilled = false) :
    s.recordError core rid r true = (s.countErr (24 + dieOf core) 47 32).stateLost core r.launch 6 rid ∧
    s.recordError core rid r false = s.corrected (24 + dieOf core) 6 core rid := by
  simp [State.recordError, h]
/-- An error in a record that has spilled is one of the memory its caldera is in (R421). -/
theorem State.recordError_spilled {s : State} {core rid : Nat} {r : Record} (h : r.spilled = true) :
    let cal := fld (s.part (s.launchPart r.launch)).pcal 51 30 * 2 ^ 30
    s.recordError core rid r true = (s.countErr (s.stackOf cal) 47 32).stateLost core r.launch 0 (s.ownAt cal) ∧
    s.recordError core rid r false = s.corrected (s.stackOf cal) 0 (0x4000 + s.stackOf cal) (s.ownAt cal) := by
  simp [State.recordError, h]

/-- Settles O41: an equation per source; a line or a granule that is poisoned already is left as it is, and no record of an error touches what is poisoned. -/
theorem scrubEvents : Obligations.ScrubEvents := by
  intro s loc line
  refine ⟨fun src hsrc => ?line, rfl, ⟨_, rfl, ?instr, ?data⟩, ?granule, rfl, fun co y hline hco hy => ?word, rfl, fun r hr hheld => ?held, fun r hr hspilled => ?spilled,
    fun pa => ⟨s.stackOf_lt pa, s.sliceOf_lt pa⟩, fun n src id addr => ⟨s.corrected_poisoned n src id addr, s.corrected_cores n src id addr⟩⟩
  case line =>
    obtain ⟨hue, hce⟩ := exec_patrolScrub_line (s := s) hsrc loc line
    exact ⟨hue, s.poisonLine_same src line, fun hbad => State.poisonLine_again hbad src, fun n why hn => s.poisonLine_other src why hn, hce⟩
  case instr => rw [State.core_modCore]
  case data => rw [State.core_modCore]
  case granule => exact ⟨rfl, s.gran_poisonGranule (loc / 4) _ line 1, fun h => State.poisonGranule_again h 1⟩
  case word =>
    obtain ⟨co', y', hco', hy', hp⟩ := State.lane_poisonWord hco hy (line % 2 ^ 9)
    exact ⟨_, co', y', exec_patrolScrub_word s hline, hco', hy', hp, State.poisonWord_mem ..⟩
  case held =>
    rw [exec_patrolScrub_record hr, exec_patrolScrub_record hr]
    obtain ⟨hue, hce⟩ := State.recordError_held (s := s) (core := loc) (rid := line) hheld
    exact ⟨congrArg _ hue, congrArg _ hce⟩
  case spilled =>
    obtain ⟨hue, hce⟩ := State.recordError_spilled (s := s) (core := loc) (rid := line) hspilled
    exact ⟨_, (exec_patrolScrub_record hr true).trans (congrArg _ hue), (exec_patrolScrub_record hr false).trans (congrArg _ hce)⟩

end Sys2Proof.Machine
end
section
/-! Queues, an equation per outcome: packets read, kept and refused, launches started, barriers and signals passed, doorbells and slice boundaries (R302, R304 to R306, R309 to R311, R413, R416). -/
namespace Sys2Proof.Machine

/-! Packets that come -/

/-- A unit whose lines the host does not hold goes on. -/
theorem State.whenFree_free {s : State} {lines : List Nat} (go : State → State) (h : lines = []) : s.whenFree lines go = go s :=
  if_pos (List.isEmpty_iff.mpr h)
/-- A packet that was read is kept at its slot's head, or refused at an offset (R304, R413). -/
def State.judgePacket (s : State) (sl : Nat) (q : QSlot) (b : List Byte) : State :=
  (s.packetBad (descPart q.desc) b).elim (State.watchSlot { s with sched := { s.sched with slots := s.sched.slots.put sl { q with head := some b } } } sl) fun off =>
    s.refusePacket sl q b off

section
variable {s : State} {sl : Nat} {q : QSlot} (hslot : s.slot? sl = some q)
include hslot

/-- A slot asks first for its write index where that lies outside the package. -/
theorem State.readPacket_asks (hpw : s.unread (s.awayAll noCore 0x31 [(descPart q.desc, getLe q.desc 0x10 8, 8)]) ≠ []) :
    s.readPacket sl = s.askUnits (descPart q.desc) (s.unread (s.awayAll noCore 0x31 [(descPart q.desc, getLe q.desc 0x10 8, 8)])) := by
  simp only [State.readPacket, hslot]
  exact State.whenRead_some _ hpw

variable (hpw : s.unread (s.awayAll noCore 0x31 [(descPart q.desc, getLe q.desc 0x10 8, 8)]) = []) {w : List Byte}
  (hw : s.schedRead (descPart q.desc) (getLe q.desc 0x10 8) 8 = .ok w)
include hpw hw

/-- A write index behind the read index, or further ahead of it than the ring is long, is an error of the queue (R414). -/
theorem State.readPacket_outside (hout : leNat w < q.ridx ∨ 2 ^ getLe q.desc 0x18 1 < leNat w - q.ridx) :
    s.readPacket sl = (s.queueError q.qid (descPart q.desc) 1 (leNat w)).unitsRead (s.awayAll noCore 0x31 [(descPart q.desc, getLe q.desc 0x10 8, 8)]) := by
  have hbad : (decide (leNat w < q.ridx) || decide (2 ^ getLe q.desc 0x18 1 < leNat w - q.ridx)) = true := by simpa using hout
  simp only [State.readPacket, hslot, State.whenRead_all _ hpw, hw, if_pos hbad]
/-- A slot without a head judges the packet at its read index once its write index has passed it (R309). -/
theorem State.readPacket_judges {b : List Byte} (hhead : q.head = none) (hlt : q.ridx < leNat w) (hle : leNat w - q.ridx ≤ 2 ^ getLe q.desc 0x18 1)
    (hb : s.schedRead (descPart q.desc) (getLe q.desc 0 8 + 128 * (q.ridx % 2 ^ getLe q.desc 0x18 1)) 128 = .ok b)
    (hpb : s.unread (s.awayAll noCore 0x31 [(descPart q.desc, getLe q.desc 0 8 + 128 * (q.ridx % 2 ^ getLe q.desc 0x18 1), 128)]) = [])
    (hpo : s.unread (s.awayAll noCore 0x31 (s.objRanges (descPart q.desc) b)) = []) :
    s.readPacket sl = (((s.judgePacket sl q b).unitsRead (s.awayAll noCore 0x31 (s.objRanges (descPart q.desc) b))).unitsRead
      (s.awayAll noCore 0x31 [(descPart q.desc, getLe q.desc 0 8 + 128 * (q.ridx % 2 ^ getLe q.desc 0x18 1), 128)])).unitsRead
      (s.awayAll noCore 0x31 [(descPart q.desc, getLe q.desc 0x10 8, 8)]) := by
  have hin : ¬(decide (leNat w < q.ridx) || decide (2 ^ getLe q.desc 0x18 1 < leNat w - q.ridx)) = true := by simp; omega
  have hnew : ¬(leNat w == q.ridx || q.head.isSome) = true := by simp [hhead]; omega
  simp only [State.readPacket, hslot, State.whenRead_all _ hpw, hw, if_neg hin, if_neg hnew, State.whenRead_all _ hpb, hb, State.whenRead_all _ hpo, State.judgePacket]
  cases s.packetBad (descPart q.desc) b <;> rfl

end

theorem State.judgePacket_kept {s : State} {sl : Nat} {q : QSlot} {b : List Byte} (h : s.packetBad (descPart q.desc) b = none) :
    s.judgePacket sl q b = State.watchSlot { s with sched := { s.sched with slots := s.sched.slots.put sl { q with head := some b } } } sl := by
  rw [State.judgePacket, h, Option.elim_none]
/-- A refused packet is recorded, its completion signal gets the failure bit, and the slot is done with it (R304, R413). -/
theorem State.judgePacket_refused {s : State} {sl : Nat} {q : QSlot} {b : List Byte} {off : Nat} (h : s.packetBad (descPart q.desc) b = some off)
    (hfree : s.slotHeld q (getLe b 0x50 8) = []) : s.judgePacket sl q b =
      ((s.log (descPart q.desc) (sysRec 3 2 0x2004 0x7000 (descPart q.desc) 0 0 (q.ridx % 2 ^ 32 + 2 ^ 32 * q.qid) off)).signal (descPart q.desc) 0 (getLe b 0x50 8) true).consume sl := by
  rw [State.judgePacket, h, Option.elim_some, State.refusePacket, State.whenFree_free _ hfree]

/-! Packets at the head -/

section
variable {s : State} {sl : Nat} {q : QSlot} {b : List Byte} (hslot : s.slot? sl = some q) (hhead : q.head = some b) (hdeps : s.depsMet (descPart q.desc) b = true)
include hslot hhead hdeps

/-- A launch packet whose time has come starts a launch under the next id (R306, R307); nothing else of the machine changes before its slot is done with it. -/
theorem State.startLaunch_starts (htype : getLe b 0 1 = 1)
    (hread : s.unread (s.awayAll noCore 0x31 (depRanges (descPart q.desc) b ++ s.objRanges (descPart q.desc) b)) = []) (hfrozen : (s.part (descPart q.desc)).frozen = false)
    (htime : bitN (packetOf b (descPmax q.desc)).flags 3 = false ∨ (packetOf b (descPmax q.desc)).gangTick ≤ s.tick) (hid : s.newLaunchId ≠ 0)
    (hsynced : bitN (packetOf b (descPmax q.desc)).flags 3 = false ∨ s.pow.synced = true) (hfree : s.slotHeld q 0 = []) :
    ∃ la t, s.startLaunch sl = (State.consume t sl).unitsRead (s.awayAll noCore 0x31 (depRanges (descPart q.desc) b ++ s.objRanges (descPart q.desc) b)) ∧
      t.launches = s.launches.put s.newLaunchId la ∧
      la.pkt = packetOf b (descPmax q.desc) ∧ la.part = descPart q.desc ∧ la.queue = q.qid ∧ la.nextGrove = 0 ∧ la.nextIdx = 0 ∧ la.ended = false ∧
      t.sched = { s.sched with launchId := s.newLaunchId % 65535 + 1 } ∧ t.mem = s.mem ∧ t.cores = s.cores ∧ t.groves = s.groves := by
  have hgo : ¬(getLe b 0 1 != 1 || (s.part (descPart q.desc)).frozen ||
      (bitN (packetOf b (descPmax q.desc)).flags 3 && decide (s.tick < (packetOf b (descPmax q.desc)).gangTick)) || s.newLaunchId == 0) = true := by
    rcases htime with h | h
    · simp [htype, hfrozen, hid, h]
    · simp [htype, hfrozen, hid, h]
  have hmet : ¬(!s.depsMet (descPart q.desc) b) = true := by simp [hdeps]
  have hgang : ¬(bitN (packetOf b (descPmax q.desc)).flags 3 && !s.pow.synced) = true := by
    rcases hsynced with h | h
    · simp [h]
    · simp [h]
  simp only [State.startLaunch, hslot, hhead, if_neg hgo, State.whenRead_all _ hread, if_neg hmet, if_neg hgang, State.whenFree_free _ hfree]
  exact ⟨_, _, rfl, rfl, rfl, rfl, rfl, rfl, rfl, rfl, rfl, rfl, rfl, rfl⟩
/-- A barrier or signal packet decrements its completion signal; a barrier waits for its queue's launches (R305). -/
theorem State.passPacket_passes {ty : Nat} (htype : getLe b 0 1 = ty) (hread : s.unread (s.awayAll noCore 0x31 (depRanges (descPart q.desc) b)) = [])
    (hwait : ty = 2 → ∀ x ∈ s.launches, x.2.queue ≠ q.qid) (hfree : s.slotHeld q (getLe b 0x50 8) = []) :
    s.passPacket sl ty = ((s.signal (descPart q.desc) 0 (getLe b 0x50 8) false).consume sl).unitsRead (s.awayAll noCore 0x31 (depRanges (descPart q.desc) b)) := by
  have hgo : ¬(getLe b 0 1 != ty || (ty == 2 && s.launches.any fun x => x.2.queue == q.qid)) = true := by
    simpa [htype] using hwait
  have hmet : ¬(!s.depsMet (descPart q.desc) b) = true := by simp [hdeps]
  simp only [State.passPacket, hslot, hhead, if_neg hgo, State.whenRead_all _ hread, if_neg hmet, State.whenFree_free _ hfree]

end

/-! Doorbells -/

theorem State.seeErr_none {s : State} {qid : Nat} (h : s.sched.errs.find? qid = none) : s.seeErr qid = s := by
  simp only [State.seeErr, h]
/-- A doorbell makes an enabled queue of the partition pending, if it is neither mapped nor pending (R310). -/
theorem State.qdoor_rings {s : State} {p qid : Nat} (hvalid : fld s.sched.qtbl 0 0 = 1) (hon : queueOn (s.queueDesc qid) = true) (herr : s.sched.errs.find? qid = none)
    (hpart : getLe (s.queueDesc qid) 0x19 1 = p) (hmapped : ∀ x ∈ s.sched.slots, x.2.qid ≠ qid) (hpending : qid ∉ s.sched.pending) :
    s.qdoor p qid = { s with sched := { s.sched with pending := s.sched.pending ++ [qid], rung := s.sched.rung.put qid p } } := by
  have hno : (s.sched.slots.any fun x => x.2.qid == qid) = false := by simpa using hmapped
  simp [State.qdoor, State.seeErr_none herr, hvalid, hon, hpart, herr, hno, hpending]

/-! Slice boundaries -/

/-- The state at the start of a slice in which no dependency cycle has been seen (R311, R416, R439). -/
def State.sliceBegun (s : State) : State :=
  { s with sched := { s.sched with boundary := s.tick, starved := [], cycles := [] }, cores := s.cores.map fun (x : Nat × Core) => (x.1, x.2.unreported) }
/-- Without a mapped queue no packet waits for another (R416). -/
theorem State.cycleCheck_unmapped {s : State} (h : s.sched.slots = []) : s.cycleCheck = { s with sched := { s.sched with cycles := [] } } := by
  have hnone : s.depCycles = [] := by simp [State.depCycles, h, NMap.vals]
  simp [State.cycleCheck, hnone]
/-- A slice boundary with no queue mapped or in error begins the slice and maps the pending queues that are enabled (R311). -/
theorem State.sliceTurn_unmapped {s : State} (hslots : s.sched.slots = []) (herrs : s.sched.errs = []) (hdue : s.sched.boundary / s.slice < s.tick / s.slice)
    (hread : s.unread (s.awayAll noCore 0x31 s.sliceRanges) = []) :
    s.sliceTurn = (if fld s.sched.qtbl 0 0 = 0 then s.sliceBegun
      else s.sliceBegun.mapPending s.sched.pending.length (s.sched.pending.filter fun q => queueOn (s.sliceBegun.queueDesc q))).unitsRead (s.awayAll noCore 0x31 s.sliceRanges) := by
  rw [State.sliceTurn, if_neg (Nat.not_le.mpr hdue), State.whenRead_all _ hread]
  congr 1
  extract_lets _ t seen off kept checked
  have hseen : seen = t := by
    show (NMap.keys s.sched.errs).foldl _ t = t
    rw [herrs]
    rfl
  have hoff : off = [] := by
    show List.filter _ seen.sched.slots = []
    rw [hseen]
    exact (congrArg (List.filter _) hslots).trans List.filter_nil
  have hkept : kept = t := by
    show off.foldl _ seen = t
    rw [hoff, hseen, List.foldl_nil]
  have hchecked : checked = s.sliceBegun := by
    show kept.cycleCheck = _
    rw [hkept, State.cycleCheck_unmapped (s := t) hslots]
    rfl
  rw [hchecked]
  simp only [beq_iff_eq]
  rfl
theorem State.slotFor_unmapped {s : State} (h : s.sched.slots = []) (qid : Nat) : s.slotFor qid = some 0 := by
  have hfirst : ((List.range 64).find? fun i => (NMap.find? ([] : NMap QSlot) i).isNone) = some 0 := by decide
  simp only [State.slotFor, h, hfirst]
/-- A pending queue whose descriptor passes its checks is mapped to a free slot (R308, R309). -/
theorem State.mapQueue_free {s : State} {sl qid : Nat} {r : List Byte} (hslot : s.sched.slots.find? sl = none) (hbad : descBad (s.queueDesc qid) = false)
    (hrung : s.sched.rung.getD qid (descPart (s.queueDesc qid) % 16) = descPart (s.queueDesc qid) % 16) (hva : s.queueVaBad (s.queueDesc qid) = none)
    (hridx : s.schedRead (descPart (s.queueDesc qid) % 16) (getLe (s.queueDesc qid) 8 8) 8 = .ok r) :
    s.mapQueue sl qid = State.watchSlot { s with sched := { s.sched with
      slots := s.sched.slots.put sl { qid := qid, desc := s.queueDesc qid, since := s.tick, ridx := leNat r, head := none }
      pending := s.sched.pending.filter (· != qid)
      mapped := s.sched.mapped.filter (· != qid) ++ [qid] } } sl := by
  have hkept : s.unmapSlot sl = s := by simp only [State.unmapSlot, hslot]
  have hok : ¬(descBad (s.queueDesc qid) || s.sched.rung.getD qid (descPart (s.queueDesc qid) % 16) != descPart (s.queueDesc qid) % 16) = true := by simp [hbad, hrung]
  simp only [State.mapQueue, hkept, if_neg hok, hva, hridx]
/-- The one pending queue, with none mapped, goes to slot 0. -/
theorem State.mapPending_one {s : State} {qid : Nat} {r : List Byte} (hslots : s.sched.slots = []) (hpend : s.sched.pending = [qid]) (hbad : descBad (s.queueDesc qid) = false)
    (hrung : s.sched.rung.getD qid (descPart (s.queueDesc qid) % 16) = descPart (s.queueDesc qid) % 16) (hva : s.queueVaBad (s.queueDesc qid) = none)
    (hridx : s.schedRead (descPart (s.queueDesc qid) % 16) (getLe (s.queueDesc qid) 8 8) 8 = .ok r) :
    s.mapPending 1 [qid] = State.watchSlot { s with sched := { s.sched with
      slots := [(0, { qid := qid, desc := s.queueDesc qid, since := s.tick, ridx := leNat r, head := none })], pending := []
      mapped := s.sched.mapped.filter (· != qid) ++ [qid] } } 0 := by
  have hnext : s.nextPending [qid] = some qid := by simp [State.nextPending, leastOf]
  have hgone : [qid].filter (· != qid) = [] := by simp
  have hfree : s.sched.slots.find? 0 = none := congrArg (NMap.find? · 0) hslots
  simp only [State.mapPending, hnext, s.slotFor_unmapped hslots, State.mapQueue_free hfree hbad hrung hva hridx, hslots, hpend, hgone]
  rfl

/-- Settles O46: an equation per outcome of a packet that is read and of one at the head; a slice boundary with no queue mapped maps what is pending. -/
theorem queueEvents : Obligations.QueueEvents := by
  intro s sl q hslot
  refine ⟨fun w b hhead hw hlt hle hb hpw hpb hpo => ?read, fun w hpw hw hout => congrArg _ (State.readPacket_outside hslot hpw hw hout),
    fun hpw => congrArg _ (State.readPacket_asks hslot hpw), fun b hhead hdeps => ⟨?launch, ?barrier, ?signal⟩, ?door, fun hdue => congrArg _ (if_pos hdue),
    fun o hslots herrs hdue hread => ?boundary⟩
  case read =>
    have hexec : exec (.launchPacket sl) s = .next (s.readPacket sl) := rfl
    rw [hexec, State.readPacket_judges hslot hpw hw hhead hlt hle hb hpb hpo]
    refine ⟨fun hok => ?_, fun off hbad hfree => ?_⟩
    · rw [State.judgePacket_kept hok]
    · rw [State.judgePacket_refused hbad hfree]
  case launch =>
    intro htype hread hfrozen htime hid hsynced hfree
    obtain ⟨la, t, hstart, hframe⟩ := State.startLaunch_starts hslot hhead hdeps htype hread hfrozen htime hid hsynced hfree
    exact ⟨la, t, congrArg _ hstart, hframe⟩
  case barrier =>
    exact fun htype hread hwait hfree => congrArg _ (State.passPacket_passes hslot hhead hdeps htype hread (fun _ => hwait) hfree)
  case signal =>
    exact fun htype hread hfree => congrArg _ (State.passPacket_passes hslot hhead hdeps htype hread (fun h => by omega) hfree)
  case door =>
    intro p qid hlt hvalid hon herr hpart hmapped hpending
    have hexec : exec (.qdoor p qid) s = .next (s.qdoor p (qid % 65536)) := rfl
    rw [hexec, Nat.mod_eq_of_lt hlt, State.qdoor_rings hvalid hon herr hpart hmapped hpending]
  case boundary =>
    have hexec : exec .sliceBoundary o = .next o.sliceTurn := rfl
    rw [hexec, State.sliceTurn_unmapped hslots herrs hdue hread]
    refine ⟨fun hinvalid => ?_, fun qid r hvalid hpend hon hbad hrung hva hridx => ?_⟩
    · rw [if_pos hinvalid]
      rfl
    · have hlisted : (o.sched.pending.filter fun q => queueOn (o.sliceBegun.queueDesc q)) = [qid] := by
        rw [hpend]
        exact List.filter_eq_self.mpr fun x hx => (List.mem_singleton.mp hx).symm ▸ hon
      rw [if_neg (by omega), hlisted, hpend]
      exact congrArg _ (congrArg (State.unitsRead · _) (State.mapPending_one (s := o.sliceBegun) hslots hpend hbad hrung hva hridx))

end Sys2Proof.Machine
end
section
/-! The host port, an equation per outcome of each event (R325, R328, R349, R448 to R452). -/
namespace Sys2Proof.Machine

/-! Measurements -/

theorem exec_spdmRequest {s : State} {index : Nat} (h : index ≤ 5) (hrec : s.trust.recovery = false ∨ index = 1) : ∃ t v, exec (.spdmRequest index) s = .next t ∧
    t.host.completions = s.host.completions ++ [(0x10000 + index, 0, s.measurement index ++ leBytes 512 v)] ∧ t.mem = s.mem ∧ t.cores = s.cores := by
  have hno : ¬(decide (5 < index) || (s.trust.recovery && index != 1)) = true := by
    rcases hrec with hrec | hrec
    · simp [h, hrec]
    · simp [hrec]
  have hexec : exec (.spdmRequest index) s = .next { s.takeFree.2 with
      host := { s.host with completions := s.host.completions ++ [(0x10000 + index, 0, s.measurement index ++ leBytes 512 s.takeFree.1)] } } := congrArg _ (if_neg hno)
  exact ⟨_, _, hexec, rfl, rfl, rfl⟩
/-- In the recovery state only the first measurement is answered (R350). -/
theorem exec_spdmRequest_recovery {s : State} {index : Nat} (hrec : s.trust.recovery = true) (h : index ≠ 1) : exec (.spdmRequest index) s = .next s := by
  have hno : (decide (5 < index) || (s.trust.recovery && index != 1)) = true := by simp [hrec, h]
  exact congrArg _ (if_pos hno)

/-! Inbound accesses -/

section
variable {s : State} {f off pa : Nat} {leaf : DWord} (hf : f < 16) (hserves : s.serves = true)
include hf hserves

section
variable (hup : s.host.linkUp = true) {data : List Byte} (hdata : data ≠ [])
include hup hdata

/-- An inbound write that its checks refuse is recorded (R448). -/
theorem exec_hostInboundWrite_bad {r : Nat} {at_ : Option Nat} (h : s.inbound f off data.length .write = .bad r at_) :
    exec (.hostInboundWrite f off data) s = .next (s.inboundRec f r off at_) := by
  have hgo : ¬(decide (16 ≤ f) || data.isEmpty || !s.serves || !s.host.linkUp) = true := by simp [hf, hserves, hup, hdata]
  show execHostInboundWrite f off data s = _
  rw [execHostInboundWrite, if_neg hgo, h]
/-- Another is performed at once, but for one that leaves the package or follows a write still on its way (R164, R325). -/
theorem exec_hostInboundWrite_ok (h : s.inbound f off data.length .write = .ok pa leaf) (htag : s.isLocal pa = true → s.partialTag leaf pa data.length = false) :
    exec (.hostInboundWrite f off data) s = .next (if s.remote pa || !(s.hostWrites f).isEmpty then s.hostStore f (s.winAt f off) pa leaf data
      else s.anyWrite (s.funcPart f) pa leaf data) := by
  have hgo : ¬(decide (16 ≤ f) || data.isEmpty || !s.serves || !s.host.linkUp) = true := by simp [hf, hserves, hup, hdata]
  have hok : ¬(s.isLocal pa && s.partialTag leaf pa data.length) = true := by simpa using htag
  show execHostInboundWrite f off data s = _
  rw [execHostInboundWrite, if_neg hgo, h]
  exact congrArg _ (if_neg hok)

end

variable {len tag : Nat}
/-- An inbound read that its checks refuse is completed with an error. -/
theorem exec_hostInboundRead_bad {r : Nat} {at_ : Option Nat} (h : s.inbound f off len .read = .bad r at_) :
    exec (.hostInboundRead f 2 off len tag) s = .next ((s.inboundRec f r off at_).complete tag (if r = 3 then 4 else 1) []) := by
  have hgo : ¬16 ≤ f := Nat.not_le.mpr hf
  show execHostInboundRead f 2 off len tag s = _
  simp [execHostInboundRead, hgo, hserves, h]
/-- Another is completed at once with memory's bytes, marked where they are poisoned, or follows the writes before it (R164, R325, R448). -/
theorem exec_hostInboundRead_ok (h : s.inbound f off len .read = .ok pa leaf)
    (htag : s.isLocal pa = true → s.tagFails leaf pa len = true → s.poisonAt pa len ≠ none) :
    exec (.hostInboundRead f 2 off len tag) s = .next (if s.remote pa || !(s.hostWrites f).isEmpty then s.hostFetch f (s.winAt f off) pa leaf len tag
      else s.complete tag (if (s.poisonAt pa len).isSome then 256 else 0) (s.readAs leaf pa len)) := by
  have hgo : ¬16 ≤ f := Nat.not_le.mpr hf
  have hok : ¬((s.isLocal pa = true ∧ s.tagFails leaf pa len = true) ∧ s.poisonAt pa len = none) := fun hbad => htag hbad.1.1 hbad.1.2 hbad.2
  show execHostInboundRead f 2 off len tag s = _
  simp [execHostInboundRead, hgo, hserves, h, hok]
theorem exec_hostInboundRead_bar0 : exec (.hostInboundRead f 0 off len tag) s = .next (s.complete tag 0 (s.bar0Read f off len)) := by
  have hgo : ¬(decide (16 ≤ f) || (f != 0 && !s.serves)) = true := by simp [hf, hserves]
  exact congrArg _ (if_neg hgo)

end

/-! CXL -/

section
variable {s : State} (hcxl : s.host.cxl = true) (hup : s.host.linkUp = true) (hserves : s.serves = true) {addr : Nat} (haddr : addr < 2 ^ 41) (hpop : s.populated addr = true)
  (data : List Byte)
include hcxl hup hserves haddr hpop

/-- A request for a line of the HDM range goes by the access table (R328, R452). -/
theorem exec_cxlMemRequest_admitted {write : Bool} (h : s.accessReason 0x20 (64 * (addr / 64)) 64 (if write then .write else .read) 0 = none) :
    exec (.cxlMemRequest write addr data) s = .next (if write then (s.anyWrite 0 (64 * (addr / 64)) 0 (padTo 64 (data.take 64))).complete 0 0 []
      else State.complete { s with host := { s.host with lines := if s.host.lines.contains (addr / 64) then s.host.lines else s.host.lines ++ [addr / 64] } } 0
        (if (s.poisonAt (64 * (addr / 64)) 64).isSome then 256 else 0) (s.readAs 0 (64 * (addr / 64)) 64)) := by
  have hgo : ¬(!s.host.cxl || !s.host.linkUp || !s.serves) = true := by simp [hcxl, hup, hserves]
  have hrange : ¬(decide (2 ^ 41 ≤ addr) || !s.populated addr) = true := by
    simp [hpop]
    omega
  have hadmit : ¬(s.accessReason 0x20 (64 * (addr / 64)) 64 (if write then .write else .read) 0).isSome = true := by simp [h]
  exact congrArg _ ((if_neg hgo).trans ((if_neg hrange).trans (if_neg hadmit)))
/-- A line that the host has read it may hold (R328). -/
theorem exec_cxlMemRequest_read (h : s.accessReason 0x20 (64 * (addr / 64)) 64 .read 0 = none) (hclean : s.poisonAt (64 * (addr / 64)) 64 = none) :
    ∃ t, exec (.cxlMemRequest false addr data) s = .next (State.complete t 0 0 (s.readAs 0 (64 * (addr / 64)) 64)) ∧ addr / 64 ∈ t.host.lines ∧ t.mem = s.mem := by
  have hread := exec_cxlMemRequest_admitted hcxl hup hserves haddr hpop data (write := false) h
  rw [hclean] at hread
  refine ⟨_, hread, ?_, rfl⟩
  dsimp only
  split
  · exact List.contains_iff_mem.mp ‹_›
  · exact List.mem_append_right _ (List.mem_singleton.mpr rfl)

end

/-- The first time that a snoop has no answer for 10 ms is reported (R452). -/
theorem exec_biSnoopTimeout {s : State} {line t0 : Nat} (h : s.host.snoops = [(line, t0, false)]) (hlate : t0 + 10000000 ≤ s.tick) :
    exec (.biSnoopTimeout line) s = .next (State.log { s with host := { s.host with snoops := [(line, t0, true)] } } 0 (sysRec 3 2 0x300D 0x6000 0 2 (64 * line) 2 0)) := by
  show execBiSnoopTimeout line s = _
  simp [execBiSnoopTimeout, h, hlate]

/-! The link -/

theorem exec_outboundHostTimeout {s : State} {id : Nat} {o : MemOp} (h : s.readyOp id = some o) (hload : hostLoad o = true) (hlate : o.born + 10000000 ≤ s.tick) :
    exec (.outboundHostTimeout id) s = .next (s.landLoad o [] 4) := by
  show execOutboundHostTimeout id s = _
  simp [execOutboundHostTimeout, h, hload, hlate]
/-- Where no load waits for the host, the link alone goes down. -/
theorem State.linkDown_idle {s : State} (h : ∀ o ∈ s.ops, hostLoad o = false) : s.linkDown = { s with host := { s.host with linkUp := false, lines := [], snoops := [] } } := by
  have hnone : s.ops.filter hostLoad = [] := List.filter_eq_nil_iff.mpr fun o ho => by simp [h o ho]
  simp only [State.linkDown, hnone, List.foldl_nil]
/-- An error of each class is reported with all status bits seen so far; a fatal one takes the link down (R450). -/
theorem exec_aerError {f : Nat} (h : f < 16) (s : State) (cls req : Nat) (bits : DWord) :
    let now := s.host.aer.getD f 0 ||| bits
    let t := { s with host := { s.host with aer := s.host.aer.put f now } }
    let r := fun (sev : Nat) => sysRec 3 sev 0x300A 0x6000 (s.funcPart f) 0 0 now.toNat (req % 65536)
    exec (.aerError f cls req bits) s = .next (if cls = 0 then t.logOnce 0x100 (s.funcPart f) (r 1) else if cls = 1 then t.log (s.funcPart f) (r 2)
      else (t.log (s.funcPart f) (r 5)).linkDown) := by
  intro now t r
  refine (congrArg _ (if_neg (Nat.not_le.mpr h))).trans ?_
  simp only [beq_iff_eq]
  rfl
theorem exec_vfFlr {s : State} {f : Nat} (h : f < 16) (hvf : f ≠ 0) :
    exec (.vfFlr f) s = .next { s.flr (s.funcPart f) with
      host := { (s.flr (s.funcPart f)).host with funcHeld := (s.flr (s.funcPart f)).host.funcHeld.del f, aer := (s.flr (s.funcPart f)).host.aer.del f } } := by
  have hgo : ¬(f == 0 || decide (16 ≤ f)) = true := by simp [hvf, h]
  exact congrArg _ (if_neg hgo)

/-- Settles O50: an equation per outcome of each request and of each report of the host port. -/
theorem hostEvents : Obligations.HostEvents := by
  refine ⟨fun s index => exec_spdmRequest, fun s index => exec_spdmRequest_recovery, fun s => ⟨rfl, rfl⟩, fun s f off hf hserves hup =>
    ⟨fun data hdata => ⟨fun r at_ => exec_hostInboundWrite_bad hf hserves hup hdata, fun pa leaf hok htag => ?write⟩,
      fun len tag => ⟨fun r at_ => exec_hostInboundRead_bad hf hserves, fun pa leaf hok _ hnear hnone hclean htag => ?clean,
        fun pa leaf hok _ hnear hnone hbad => ?poisoned, fun pa leaf hok htag haway => ?fetched, exec_hostInboundRead_bar0 hf hserves⟩,
      fun tag st bs => if_pos hup, fun addr data hcxl haddr hpop =>
        ⟨exec_cxlMemRequest_admitted hcxl hup hserves haddr hpop data (write := true), exec_cxlMemRequest_read hcxl hup hserves haddr hpop data⟩,
      fun line => ⟨rfl, fun t0 => exec_biSnoopTimeout⟩, fun id o => exec_outboundHostTimeout, fun hidle => congrArg _ (State.linkDown_idle hidle), rfl,
      fun req bits => ⟨exec_aerError hf s 0 req bits, exec_aerError hf s 1 req bits, exec_aerError hf s 2 req bits⟩, exec_vfFlr hf, rfl⟩⟩
  case write =>
    rw [exec_hostInboundWrite_ok hf hserves hup hdata hok htag]
    refine ⟨fun hnear hnone => ?_, fun haway => ?_⟩
    · simp [hnear, hnone]
    · rw [if_pos (by simpa using haway)]
  case clean =>
    rw [exec_hostInboundRead_ok hf hserves hok (fun _ h => absurd h (by simp [htag]))]
    simp [hnear, hnone, hclean]
  case poisoned =>
    rw [exec_hostInboundRead_ok hf hserves hok (fun _ _ => hbad)]
    simp [hnear, hnone, Option.isSome_iff_ne_none.mpr hbad]
  case fetched =>
    rw [exec_hostInboundRead_ok hf hserves hok (fun hlocal h => absurd h (by simp [htag hlocal])), if_pos (by simpa using haway)]

end Sys2Proof.Machine
end
section
/-! The Chaeri ports, flows and remote requests, an equation per outcome of each event (R329 to R334, R440 to R446). -/
namespace Sys2Proof.Machine

/-! Ports -/

@[simp] theorem State.port_setPort (s : State) (n : Nat) (p : Port) : (s.setPort n p).port n = p := NMap.getD_put_same _ _ _ _
@[simp] theorem State.port_countPort (s : State) (n hi lo m : Nat) : (s.countPort n hi lo).port m = s.port m := rfl
@[simp] theorem State.port_wireOut (s : State) (n m : Nat) (fs : List (List Byte)) : (s.wireOut n fs).port m = s.port m := rfl
@[simp] theorem State.setPort_setPort (s : State) (n : Nat) (p q : Port) : (s.setPort n p).setPort n q = s.setPort n q := by
  simp [State.setPort]

/-- A port that lacks a flit asks for a replay from it (R330). -/
theorem State.replayAsked_again {s : State} {n : Nat} (h : (s.port n).replays < 7) :
    s.replayAsked n = ((s.countPort n 47 32).setPort n { s.port n with replays := (s.port n).replays + 1 }).control n 1 (s.port n).rxSeq := by
  have hno : ¬8 ≤ ((s.countPort n 47 32).port n).replays + 1 := by rw [State.port_countPort]; omega
  exact if_neg hno
/-- The eighth request in a row takes the port down (R442). -/
theorem State.replayAsked_last {s : State} {n : Nat} (h : 7 ≤ (s.port n).replays) : s.replayAsked n = (s.countPort n 47 32).portDown n 1 := by
  have hlast : 8 ≤ ((s.countPort n 47 32).port n).replays + 1 := by rw [State.port_countPort]; omega
  exact if_pos hlast
/-- A replay sends again the flits from the LSEQ asked for, in their order (R330). -/
theorem State.resend_wire {s : State} {n lseq : Nat} (h : (s.port n).asks.1 ≠ lseq ∨ (s.port n).asks.2 < 7) :
    (s.resend n lseq).link.wire = s.link.wire ++ ((s.port n).replay.filter fun m => decide ((m.1 + 4096 - lseq) % 4096 < 2048)).map fun m => (n, m.2.1) := by
  have hno : ¬8 ≤ (if (s.port n).asks.1 == lseq then (s.port n).asks.2 + 1 else 1) := by
    rcases h with h | h
    · simp [h]
    · split <;> omega
  have hresend : (s.resend n lseq).link.wire = s.link.wire ++ (((s.port n).replay.filter fun m => decide ((m.1 + 4096 - lseq) % 4096 < 2048)).map fun m => m.2.1).map fun f => (n, f) :=
    congrArg (fun t : State => t.link.wire) (if_neg hno)
  rw [hresend, List.map_map]
  rfl
theorem State.resend_last {s : State} {n lseq : Nat} (h : (s.port n).asks.1 = lseq) (hlast : 7 ≤ (s.port n).asks.2) :
    s.resend n lseq = (s.countPort n 47 32).portDown n 1 := by
  have hyes : 8 ≤ (if (s.port n).asks.1 == lseq then (s.port n).asks.2 + 1 else 1) := by
    simp only [h, beq_self_eq_true, if_true]
    omega
  exact if_pos hyes
theorem State.flowControl_stops {s : State} {n vc : Nat} (h : 512 < (s.port n).held vc) (hgoing : vc ∉ (s.port n).stopped) :
    s.flowControl n vc = (s.setPort n { s.port n with stopped := (s.port n).stopped ++ [vc] }).control n 2 vc := by
  have hgo : (decide (512 < (s.port n).held vc) && !(s.port n).stopped.contains vc) = true := by simp [h, hgoing]
  exact if_pos hgo
theorem State.flowControl_resumes {s : State} {n vc : Nat} (h : (s.port n).held vc ≤ 256) (hstopped : vc ∈ (s.port n).stopped) :
    s.flowControl n vc = (s.setPort n { s.port n with stopped := (s.port n).stopped.filter (· != vc) }).control n 3 vc := by
  have hno : ¬(decide (512 < (s.port n).held vc) && !(s.port n).stopped.contains vc) = true := by simp [hstopped]
  have hgo : (decide ((s.port n).held vc ≤ 256) && (s.port n).stopped.contains vc) = true := by simp [h, hstopped]
  exact (if_neg hno).trans (if_pos hgo)
/-- A port sends a data flit under its next LSEQ and keeps it until it is acknowledged (R329, R330). -/
theorem State.portSend_sends {s : State} {n vc : Nat} (hup : (s.port n).up = true) (hroom : (s.port n).replay.length < 512)
    (hvc : vcOrder.find? (fun vc => !(s.port n).xoff.contains vc && !((s.port n).txq.getD vc []).isEmpty) = some vc) :
    let f := flit (s.port n).txSeq (s.port n).ack 1 vc (packMsgs 240 ((s.port n).txq.getD vc [])).1
    (s.portSend n).link.wire = s.link.wire ++ [(n, f)] ∧ ((s.portSend n).port n).txSeq = ((s.port n).txSeq + 1) % 4096 ∧
      ∃ flows, ((s.portSend n).port n).replay = (s.port n).replay ++ [((s.port n).txSeq, f, flows)] := by
  intro f
  have hgo : ¬(!(s.port n).up || decide (512 ≤ (s.port n).replay.length)) = true := by simp [hup, hroom]
  simp only [State.portSend, hvc, if_neg hgo]
  rw [State.port_wireOut, State.port_setPort]
  exact ⟨rfl, rfl, _, rfl⟩

/-- A port with no message queued, once it has delivered what it received, goes down and breaks the flows of the flits that it loses (R442, R443). -/
theorem State.portDown_eq {s : State} {n : Nat} (hup : (s.port n).up = true) (cause : Nat) :
    let e := s.portEmpty n (s.port n).order.length
    let q := e.port n
    q.txq = [] → s.portDown n cause = q.lostFlows.foldl (fun s f => s.breakFlow f) (((e.setPort n { Port.reset with cause := cause, lastRx := q.lastRx }).countPort n 23 16).portRec n 2 cause 0) := by
  intro e q hempty
  have hdown : ¬(!(s.port n).up) = true := by simp [hup]
  refine (if_neg hdown).trans ?_
  show State.requeue _ ((q.txq.flatMap Prod.snd).filter _) = _
  rw [hempty]
  rfl
theorem Port.lostFlows_idle {q : Port} (htx : q.txq = []) (hreplay : q.replay = []) : q.lostFlows = [] := by
  simp [Port.lostFlows, htx, hreplay]
theorem Port.lostFlows_one {q : Port} {l k : Nat} {f : List Byte} (htx : q.txq = []) (hreplay : q.replay = [(l, f, [k])]) : q.lostFlows = [k] := by
  simp [Port.lostFlows, htx, hreplay, List.eraseDups_cons]
/-- An attempt to train a port that has been up comes up on 8, 4 or 2 lanes, or is followed by the next (R442). -/
theorem exec_portRetrainDone {s : State} {n : Nat} {q : Port} (hq : s.link.ports.find? n = some q) (hdown : q.up = false) (htries : q.retrains < 3) (ok : Bool) :
    exec (.portRetrainDone n ok) s = .next (if ok then
        ((s.countPort n 31 24).setPort n { Port.reset with up := true, lanes := [8, 4, 2].getD q.retrains 2, cause := q.cause, lastRx := s.tick }).portRec n 1 q.cause
          ([8, 4, 2].getD q.retrains 2)
      else (s.countPort n 31 24).setPort n { q with retrains := q.retrains + 1 }) := by
  have hport : s.port n = q := by simp [State.port, NMap.getD, hq]
  have hgo : ¬((s.port n).up || decide (3 ≤ (s.port n).retrains) || (s.link.ports.find? n).isNone) = true := by simp [hport, hq, hdown, htries]
  refine (congrArg _ (if_neg hgo)).trans ?_
  rw [hport]
  rfl

/-! Flits that come -/

/-- What a port keeps of a flit whose CRC agrees: when it came, and which flits it acknowledges (R329). -/
def Port.acknowledged (p : Port) (tick : Nat) (flit : List Byte) : Port :=
  { p with lastRx := tick, replay := p.replay.filter fun m => decide (2048 ≤ (bitsN (getLe flit 0 8) 51 40 + 4096 - m.1) % 4096) }
/-- A data flit in LSEQ order joins the buffer of its virtual channel (R330, R331). -/
def Port.accepts (p : Port) (flit : List Byte) : Port :=
  let vc := bitsN (getLe flit 0 8) 37 36
  { p with rxSeq := (bitsN (getLe flit 0 8) 63 52 + 1) % 4096, replays := 0, order := p.order ++ [vc], rx := p.rx.put vc (p.rx.getD vc [] ++ [(flit.drop 8).take 240]) }

section
variable {s : State} {n : Nat} {flit : List Byte} (hup : (s.port n).up = true) (hlen : flit.length = 256)
include hup hlen

theorem exec_flitReceive_damaged (hcrc : ¬crc64 0 (flit.take 248) = BitVec.ofNat 64 (getLe flit 248 8)) :
    exec (.flitReceive n flit) s = .next ((s.setPort n { s.port n with lastRx := s.tick }).replayAsked n) := by
  have hgo : ¬(!(s.port n).up || flit.length != 256) = true := by simp [hup, hlen]
  have hbad : (crc64 0 (flit.take 248) != BitVec.ofNat 64 (getLe flit 248 8)) = true := by simpa using hcrc
  exact congrArg _ ((if_neg hgo).trans (if_pos hbad))
/-- A flit whose CRC agrees goes by its KIND; a data flit that is not the next one, or that has no room, is discarded, and one replay asked for (R330, R331, R441). -/
theorem exec_flitReceive_sound (hcrc : crc64 0 (flit.take 248) = BitVec.ofNat 64 (getLe flit 248 8)) :
    let w := getLe flit 0 8
    let p := s.port n
    let acked := (s.setPort n { p with lastRx := s.tick }).setPort n (p.acknowledged s.tick flit)
    exec (.flitReceive n flit) s = .next (
      if bitsN w 39 38 = 2 then acked.controlled n ((flit.drop 8).take 240)
      else if bitsN w 39 38 ≠ 1 then acked
      else if bitsN w 63 52 ≠ p.rxSeq ∨ 1024 ≤ p.held (bitsN w 37 36) then
        if p.replays = 0 ∧ (bitsN w 63 52 + 4096 - p.rxSeq) % 4096 < 2048 then acked.replayAsked n else acked
      else (acked.setPort n ((p.acknowledged s.tick flit).accepts flit)).flowControl n (bitsN w 37 36)) := by
  intro w p acked
  have hgo : ¬(!(s.port n).up || flit.length != 256) = true := by simp [hup, hlen]
  have hgood : ¬(crc64 0 (flit.take 248) != BitVec.ofNat 64 (getLe flit 248 8)) = true := by simpa using hcrc
  refine congrArg _ ((if_neg hgo).trans ((if_neg hgood).trans ?_))
  simp only [State.port_setPort, bne_iff_ne, beq_iff_eq, Bool.or_eq_true, Bool.and_eq_true, decide_eq_true_eq]
  rfl

end

/-! Flows -/

theorem exec_flowGapTimeout {s : State} {n t0 : Nat} (hin : flowOut n = false) (hord : flowOrd n = 1) (hwhole : (s.flow n).broken = false) (hgap : (s.flow n).gapSince = some t0)
    (hlate : t0 + 100000 ≤ s.tick) : exec (.flowGapTimeout n) s =
      .next (((s.setFlow n { s.flow n with broken := true, since := s.tick }).post (flowPkg n) 3 1 0 7 0 (leBytes 8 n)).breakColls n) := by
  have hgo : ¬(flowOut n || flowOrd n == 0 || (s.flow n).broken || !((s.flow n).gapSince.elim false fun t => decide (t + 100000 ≤ s.tick))) = true := by
    simp [hin, hord, hwhole, hgap, hlate]
  exact congrArg _ (if_neg hgo)
theorem exec_breakMessage_source {s : State} {n : Nat} (fseq : Nat) (hout : flowOut n = true) (hcan : s.canBreak n = true) :
    exec (.breakMessage n fseq) s = .next (s.sourceBreak n fseq) := congrArg _ ((if_pos hout).trans (if_pos hcan))
theorem exec_breakMessage_destination (s : State) {n : Nat} (fseq : Nat) (hin : flowOut n = false) : exec (.breakMessage n fseq) s = .next (s.flowEnds n) :=
  congrArg _ (if_neg (Bool.eq_false_iff.mp hin))

/-- The flows on which this package sends to another (R162, R333). -/
def flowsTo (pkg : Nat) : List Nat := (List.range 8).map fun i => txFlow pkg (i / 2) (i % 2)
/-- A flow to a package has been broken for 50 µs (R443). -/
def State.brokenLong (s : State) (n : Nat) : Bool := (s.flow n).broken && decide ((s.flow n).since + 50000 ≤ s.tick)
theorem exec_noRouteTimeout {s : State} {pkg : Nat} (hroute : s.routeTo pkg = []) {lost : List Nat} (hlost : (flowsTo pkg).filter s.brokenLong = lost) :
    exec (.noRouteTimeout pkg) s = .next (((lost.foldl (fun s n => s.setFlow n { s.flow n with held := [] }) s).opsTo pkg).foldl
      (fun s o => if lost.contains (txFlow pkg 0 (fld o.leaf 8 8)) then s.failRemote o 2 else s) (lost.foldl (fun s n => s.setFlow n { s.flow n with held := [] }) s)) := by
  subst hlost
  have hno : ¬(!(s.routeTo pkg).isEmpty) = true := by simp [hroute]
  exact congrArg _ (if_neg hno)
/-- Which flows hold messages is nothing to the operations in flight. -/
theorem State.setFlows_opsTo (s : State) (ns : List Nat) (pkg : Nat) : (ns.foldl (fun s n => s.setFlow n { s.flow n with held := [] }) s).opsTo pkg = s.opsTo pkg :=
  foldl_keeps (fun s : State => s.opsTo pkg) (fun s n => s.setFlow n { s.flow n with held := [] }) (fun _ _ => rfl) ns s
theorem exec_noRouteTimeout_whole {s : State} {pkg : Nat} (hroute : s.routeTo pkg = []) (h : ∀ i < 8, (s.flow (txFlow pkg (i / 2) (i % 2))).broken = false) :
    exec (.noRouteTimeout pkg) s = .next s := by
  have hnone : (flowsTo pkg).filter s.brokenLong = [] := by
    simpa [flowsTo, State.brokenLong] using fun i hi hb => absurd hb (by simp [h i hi])
  rw [exec_noRouteTimeout hroute hnone]
  simp only [List.foldl_nil, List.contains_nil, Bool.false_eq_true, if_false, List.foldl_fixed]
/-- Every access held for a package without a route fails with its broken flow (R443). -/
theorem exec_noRouteTimeout_broken {s : State} {pkg : Nat} {o : MemOp} (hroute : s.routeTo pkg = []) (hops : s.opsTo pkg = [o])
    (h : ∀ i < 8, (s.flow (txFlow pkg (i / 2) (i % 2))).broken = true ∧ (s.flow (txFlow pkg (i / 2) (i % 2))).since + 50000 ≤ s.tick) :
    exec (.noRouteTimeout pkg) s = .next (((flowsTo pkg).foldl (fun s n => s.setFlow n { s.flow n with held := [] }) s).failRemote o 2) := by
  have hall : (flowsTo pkg).filter s.brokenLong = flowsTo pkg := by
    simpa [flowsTo, State.brokenLong] using h
  have hbit : fld o.leaf 8 8 < 2 := fld_lt o.leaf 8 8
  have hflow : (flowsTo pkg).contains (txFlow pkg 0 (fld o.leaf 8 8)) = true :=
    List.contains_iff_mem.mpr (List.mem_map.mpr ⟨fld o.leaf 8 8, List.mem_range.mpr (by omega), by rw [Nat.div_eq_of_lt hbit, Nat.mod_eq_of_lt hbit]⟩)
  rw [exec_noRouteTimeout hroute hall, State.setFlows_opsTo, hops, List.foldl_cons, List.foldl_nil, if_pos hflow]

/-! Requests without an answer -/

theorem exec_remoteResponseTimeout {s : State} {id : Nat} {o : MemOp} (hready : s.readyOp id = some o) (hlate : s.overdue o = true) (hflow : s.flowHeld o = false)
    (htwin : s.takesForward o = false) (haway : o.home = false) : exec (.remoteResponseTimeout id) s = .next (
      if o.kind = .load ∨ o.rt = true then
        if o.resends < 4 then (s.setOp { o with resends := o.resends + 1 }).sendRequest { o with resends := o.resends + 1 } else s.failRemote o 4
      else if o.kind = .store ∧ o.isSignal = false ∨ o.kind = .freset then s.failRemote o 4
      else s.failRemote o 100) := by
  show execRemoteResponseTimeout id s = _
  simp [execRemoteResponseTimeout, hready, hlate, hflow, htwin, haway]

/-! Remote atomics -/

theorem exec_remoteAtomicRequest_waits {s : State} {n pa size : Nat} (hin : flowOut n = false) (hheld : s.hostHolds pa size ≠ []) (opid part op key token : Nat) (data cmp : List Byte) :
    ∃ m, exec (.remoteAtomicRequest n opid part pa op size key token data cmp) s =
      .next { s.snoop (s.hostHolds pa size) with link := { s.link with waiting := s.link.waiting ++ [m] } } := by
  have hout : ¬flowOut n = true := by simp [hin]
  have hno : ¬(s.hostHolds pa size).isEmpty = true := by simpa using hheld
  exact ⟨_, congrArg _ ((if_neg hout).trans (if_neg hno))⟩
theorem exec_remoteAtomicRequest_free {s : State} {n pa size : Nat} (hin : flowOut n = false) (hfree : s.hostHolds pa size = []) (opid part op key token : Nat) (data cmp : List Byte) :
    exec (.remoteAtomicRequest n opid part pa op size key token data cmp) s = .next (s.remoteAtomic n opid (part % 16) pa op size key token data cmp) := by
  have hout : ¬flowOut n = true := by simp [hin]
  exact congrArg _ ((if_neg hout).trans (if_pos (by simp [hfree])))

section
variable {s : State} {n opid part pa op size key token : Nat} {data cmp : List Byte}

/-- The atomics of a flow that a request is held against: none for an FRESET, which carries no OPID (R334). -/
def State.seenOn (s : State) (n op : Nat) : List (Nat × Nat × List Byte) := if op = 18 then [] else s.window n
theorem State.seenOn_eq (s : State) (n op : Nat) : (if op == 18 then [] else s.window n) = s.seenOn n op := by simp [State.seenOn]
/-- An atomic's result is kept under its OPID, but for an FRESET (R334). -/
def State.keepUnless (s : State) (n opid op : Nat) (old : List Byte) : State := if op = 18 then s else s.keepOpid n opid old
theorem State.keepUnless_eq (s : State) (n opid op : Nat) (old : List Byte) : (if op == 18 then s else s.keepOpid n opid old) = s.keepUnless n opid op old := by
  simp [State.keepUnless]

/-- An atomic that was performed is answered with its result again (R334, R445). -/
theorem State.remoteAtomic_again {e : Nat × Nat × List Byte} (h : List.find? (fun e => e.2.1 == opid) (s.seenOn n op) = some e) :
    s.remoteAtomic n opid part pa op size key token data cmp = s.respond (flowPkg n) part opid token 0 e.2.2 := by
  simp only [State.remoteAtomic, State.seenOn_eq, h]

variable {kind : OpKind} (hnew : List.find? (fun e => e.2.1 == opid) (s.seenOn n op) = none) (hkind : atomKind op = some kind)
include hnew hkind

/-- One whose OPID is older than the window is refused (R445). -/
theorem State.remoteAtomic_expired {e : Nat × Nat × List Byte} (hhead : (s.seenOn n op).head? = some e) (hold : opidOlder opid e.2.1 = true) :
    s.remoteAtomic n opid part pa op size key token data cmp = s.respond (flowPkg n) part opid token 101 [] := by
  have hpast : ((s.seenOn n op).head?.elim false fun e => opidOlder opid e.2.1) = true := by rw [hhead, Option.elim_some, hold]
  simp only [State.remoteAtomic, State.seenOn_eq, hnew, hkind, if_pos hpast]

section
variable (hyoung : ∀ e, (s.seenOn n op).head? = some e → opidOlder opid e.2.1 = false) (hlocal : s.isLocal pa = true)
  (hadmits : s.peerAdmits part pa size .atomic key = true) {old : List Byte} (hread : s.peerRead pa size key = (0, old)) {r : List Byte}
include hyoung hlocal hadmits hread

/-- Any other is performed where its memory is admitted and can be read, its result kept and answered (R334). -/
theorem State.remoteAtomic_performs {w : Option (List Byte)} (hstep : (remoteOp kind pa size (data.take size) (cmp.take size)).atomStep old = .ok (w, r)) :
    s.remoteAtomic n opid part pa op size key token data cmp =
      ((w.elim s fun bs => s.keyedWrite (keyLeaf key) pa bs).keepUnless n opid op old).respond (flowPkg n) part opid token 0 old := by
  have hin : ¬((s.seenOn n op).head?.elim false fun e => opidOlder opid e.2.1) = true := by
    intro hpast
    cases hhead : (s.seenOn n op).head? with
    | none => simp [hhead] at hpast
    | some e =>
      rw [hhead, Option.elim_some, hyoung e hhead] at hpast
      exact Bool.false_ne_true hpast
  have hgo : ¬(!s.isLocal pa || !s.peerAdmits part pa size .atomic key) = true := by simp [hlocal, hadmits]
  simp only [State.remoteAtomic, State.seenOn_eq, hnew, hkind, if_neg hin, if_neg hgo, hread, hstep]
  cases w with
  | none => rw [State.keepUnless_eq, Option.elim_none]
  | some bs => rw [State.keepUnless_eq, Option.elim_some]

end
end

/-- Settles O51: an equation per outcome of a flit, of a port and of a flow; a remote atomic goes by the window of its flow, then by its memory. -/
theorem linkEvents : Obligations.LinkEvents := by
  intro s n p heard
  refine ⟨fun flit hup hlen => ?flit, State.replayAsked_again, State.replayAsked_last, fun lseq => ⟨State.resend_wire, State.resend_last⟩,
    fun vc => ⟨State.flowControl_stops, State.flowControl_resumes⟩, fun vc hup hroom hvc => State.portSend_sends hup hroom hvc, fun hlate => congrArg _ (if_pos hlate), rfl,
    fun cause hup => ?down, fun q hq hdown htries => ⟨exec_portRetrainDone hq hdown htries true, exec_portRetrainDone hq hdown htries false⟩, fun t0 => exec_flowGapTimeout,
    fun fseq => ⟨exec_breakMessage_source fseq, exec_breakMessage_destination s fseq⟩, fun pkg => exec_noRouteTimeout_whole, fun pkg o => exec_noRouteTimeout_broken,
    fun id o hready hlate hflow htwin haway => ?request, fun opid part pa op size key token data cmp hin => ?atomic⟩
  case flit =>
    refine ⟨exec_flitReceive_damaged hup hlen, fun hcrc hkind => ?_, fun hcrc hdata hkind => ?_, fun hcrc hkind hlost => ⟨fun hasked => ?_, fun hasked => ?_⟩,
      fun hcrc hkind hnext hroom => ?_⟩ <;> rw [exec_flitReceive_sound hup hlen hcrc]
    · rw [if_pos hkind]
      rfl
    · rw [if_neg hkind, if_pos hdata]
      rfl
    · rw [if_neg (by omega), if_neg (not_not.mpr hkind), if_pos hlost, if_pos hasked]
      rfl
    · rw [if_neg (by omega), if_neg (not_not.mpr hkind), if_pos hlost, if_neg hasked]
      rfl
    · rw [if_neg (by omega), if_neg (not_not.mpr hkind), if_neg (not_or.mpr ⟨not_not.mpr hnext, Nat.not_le.mpr hroom⟩)]
      rfl
  case down =>
    intro e q down htx
    have hdown : s.portDown n cause = q.lostFlows.foldl (fun s f => s.breakFlow f) down := State.portDown_eq hup cause htx
    refine ⟨fun hreplay => ?_, fun l f k hreplay => ?_⟩
    · rw [hdown, Port.lostFlows_idle htx hreplay, List.foldl_nil]
    · rw [hdown, Port.lostFlows_one htx hreplay, List.foldl_cons, List.foldl_nil]
  case request =>
    rw [exec_remoteResponseTimeout hready hlate hflow htwin haway]
    refine ⟨fun hagain hfew => ?_, fun hagain hmany => ?_, fun hkind hrt => ?_, fun hload hrt hstore hfreset => ?_⟩
    · rw [if_pos hagain, if_pos hfew]
    · rw [if_pos hagain, if_neg (Nat.not_lt.mpr hmany)]
    · have hload : ¬(o.kind = .load ∨ o.rt = true) := by rcases hkind with ⟨hkind, -⟩ | hkind <;> simp [hkind, hrt]
      rw [if_neg hload, if_pos hkind]
    · have hsignal : ¬(o.kind = .store ∧ o.isSignal = false ∨ o.kind = .freset) := by
        rcases hstore with hstore | hstore <;> simp [hstore, hfreset]
      rw [if_neg (by simp [hload, hrt]), if_neg hsignal]
  case atomic =>
    refine ⟨fun hheld => exec_remoteAtomicRequest_waits hin hheld opid part op key token data cmp, fun e hfree hseen => ?_, fun kind hfree hnew hkind => ⟨fun e hhead hold => ?_,
      fun old hyoung hlocal hadmits hread => ⟨fun bs r hstep => ?_, fun r hstep => ?_⟩⟩⟩ <;> rw [exec_remoteAtomicRequest_free hin hfree]
    · rw [State.remoteAtomic_again hseen]
    · rw [State.remoteAtomic_expired hnew hkind hhead hold]
    · rw [State.remoteAtomic_performs hnew hkind hyoung hlocal hadmits hread hstep, Option.elim_some]
      rfl
    · rw [State.remoteAtomic_performs hnew hkind hyoung hlocal hadmits hread hstep, Option.elim_none]
      rfl

end Sys2Proof.Machine
end
